-- ==== Sys2Proof/Word.lean ====
section
/-! DEFINITION. The word types of the Tsunor and their plainest arithmetic (00_scope.md R6, R7). -/

namespace Sys2Proof

/-- A byte of memory (R8). -/
abbrev W8 := BitVec 8
/-- One 32-bit word, a vector lane (R140) or a memory word (R282). -/
abbrev W32 := BitVec 32
/-- One 64-bit scalar register or slot word (R18, R70). -/
abbrev W64 := BitVec 64

/-- Bits `hi` down to `lo` inclusive of a number (the notation m:n of R7). -/
def bits (w hi lo : Nat) : Nat := w / 2 ^ lo % 2 ^ (hi + 1 - lo)

/-- Bit `i` of a number, as a Boolean. -/
def bitAt (w i : Nat) : Bool := w / 2 ^ i % 2 == 1

/-- 1 for true, 0 for false. -/
def b2n (b : Bool) : Nat := if b then 1 else 0

end Sys2Proof
end

