-- ==== Sys2Proof/Config.lean ====
section
/-! DEFINITION. What the manual leaves open or to one part: constants with no body, so that nothing can be proved of
their values. Each is named in the assumption log (notes/assumptions). -/

namespace Sys2Proof.Config

/-- A free choice between two outcomes the manual allows, numbered by the state's counter `State.free`. -/
opaque freeBit : Nat → Bool
/-- A free number (an amount, a time, a byte the manual does not fix), numbered by `State.free`.
(DESIGN CHOICE, log 1) -/
opaque freeNat : Nat → Nat
/-- How many clk after an engine's write of a scratchpad word, at a clk of DCC, the D strand may still see what the word
held before: no order between the two paths fixes it (R201, R212, R285). (DESIGN CHOICE, log 101) -/
opaque sightDelay : Nat → Nat → Nat
/-- The link's forward-error-correction code (R376 gives no code): the corrected 2,048-bit flit, if correctable.
(DESIGN CHOICE, log 57) -/
opaque fecCorrect : BitVec 2048 → BitVec 2048
/-- The parity FECP over bits 1727:0 of a link flit (R376 gives no code). -/
opaque fecParity : BitVec 1728 → BitVec 320
/-- The 64-bit check over bits 1663:0 of a link flit (R376 gives no polynomial). -/
opaque linkCrc : BitVec 1664 → BitVec 64
/-- Which package numbers beside the package's own are packages of the pod (R301: no register of the package lists
them). -/
opaque podMember : Nat → Bool
/-- The 64-byte pieces that an assembled network program takes, from its first piece (the manual does not lay the
program out). (DESIGN CHOICE, log 62) -/
opaque netPieces : List W8 → Nat
/-- The entries of an assembled network program: the form of the router's name (0 rank, 1 TID, 2 edge index), its
number, and the flow entry. -/
opaque netEntries : List W8 → List (Nat × Nat × BitVec 256)
/-- The modulus of this package's identity key, an RSA-4096 key fixed at manufacture (R430). -/
opaque identityKey : List W8
/-- The signature that the identity key gives a message with the salt of a number; an attestation takes it only where it
is valid under the key (R427, R430). (DESIGN CHOICE, log 98) -/
opaque identitySign : List W8 → Nat → List W8
/-- Where the management channel shows the frozen state of a halted task (R356, which gives no address): the tile and the
number of the 64-bit word. (DESIGN CHOICE, log 107) -/
opaque frozenPlace : Nat → Option (Nat × Nat)
/-- The power drawn in a millisecond, and the highest junction temperature at its end (R431). (DESIGN CHOICE, log 1) -/
opaque powerDrawn : Nat → Nat
opaque junction : Nat → Nat
/-- The identity certificate of this package (R422, R430). -/
opaque identityCert : List W8
/-- The four fused key hashes of this package (R428). -/
opaque fusedKeyHash : Nat → List W8
/-- The serial flash as the package was made (R427). -/
opaque flashAtManufacture : Nat → W8

end Sys2Proof.Config
end

