-- ==== Sys2Proof/Syntax.lean ====
section
/-! DEFINITION. The steps of the Tsunor: one constructor per row of spec/opcode_table.json. Slot words carry their
operand fields (03_encodings.md R70 to R91), records and flow entries their layouts (R92, R100), mailbox commands
theirs (R422), and the events what reaches the package with them; the unit an event concerns is named by State.focus. -/

namespace Sys2Proof

/-- The fields of format VR (R81): operand specifiers (R80), guard kg/KN and scalar ss. -/
structure VOps where
  vd : BitVec 7
  va : BitVec 7
  vb : BitVec 7
  vc : BitVec 7
  kg : BitVec 5
  kn : Bool
  ss : BitVec 6
  deriving DecidableEq, Repr, Inhabited

/-- The fields of format VP (R81). -/
structure VPOps where
  kd : BitVec 5
  ka : BitVec 5
  kb : BitVec 5
  va : BitVec 7
  vb : BitVec 7
  kg : BitVec 5
  kn : Bool
  ss : BitVec 6
  fs : BitVec 2
  lt : BitVec 3
  deriving DecidableEq, Repr, Inhabited

/-- The fields of format VA (R81). -/
structure VAOps where
  v : BitVec 7
  acc : BitVec 3
  si : BitVec 6
  kg : BitVec 5
  kn : Bool
  ss : BitVec 6
  deriving DecidableEq, Repr, Inhabited

/-- An engine record without its op (R92): operand descriptors, trip fields, start stamp, format codes and flags,
and the reserved bits 127:124. -/
structure Rec where
  od0 : BitVec 96
  od1 : BitVec 96
  od2 : BitVec 96
  od3 : BitVec 96
  trip0 : BitVec 12
  trip1 : BitVec 12
  trip2 : BitVec 12
  trip3 : BitVec 12
  stamp : BitVec 40
  fmt0 : BitVec 5
  fmt1 : BitVec 5
  fmt2 : BitVec 5
  fmt3 : BitVec 5
  fl : BitVec 8
  rsv : BitVec 4
  deriving DecidableEq, Repr, Inhabited

/-- A flow entry without its op (R100). -/
structure FlowEntry where
  rsvHi : BitVec 69
  aux : BitVec 8
  fc : BitVec 5
  daddr : BitVec 48
  dwin : BitVec 2
  npkt : BitVec 16
  nslot : BitVec 4
  slot : BitVec 8
  nfid : BitVec 20
  ren : Bool
  opm : BitVec 7
  ord : BitVec 21
  ipm : BitVec 7
  rsv : BitVec 2
  drv : Bool
  fmt : BitVec 5
  v : Bool
  part : BitVec 3
  fid : BitVec 20
  deriving DecidableEq, Repr, Inhabited

/-- A mailbox submission entry without its OPC (R422): FLG, TAG, reserved bits 31:16, operands A, H, N and the inline
data of words 4 to 7. -/
structure Cmd where
  flg : BitVec 8
  rsv : BitVec 16
  tag : BitVec 32
  a : BitVec 64
  h : BitVec 64
  n : BitVec 64
  inl : BitVec 256
  deriving DecidableEq, Repr, Inhabited

/-- One step of the machine. -/
inductive Instr where
  -- common to the strands (R75, R76)
  | jmp (off : BitVec 21)
  | lpf (off : BitVec 21)
  -- C strand, formats CR and CI (R77, R78, R107 to R110)
  | add (sd sa sb : BitVec 6)
  | sub (sd sa sb : BitVec 6)
  | and (sd sa sb : BitVec 6)
  | or (sd sa sb : BitVec 6)
  | xor (sd sa sb : BitVec 6)
  | shl (sd sa sb : BitVec 6)
  | shr (sd sa sb : BitVec 6)
  | sra (sd sa sb : BitVec 6)
  | mul (sd sa sb : BitVec 6)
  | mulh (n : Bool) (sd sa sb : BitVec 6)
  | div (n : Bool) (sd sa sb : BitVec 6)
  | rem (n : Bool) (sd sa sb : BitVec 6)
  | min (n : Bool) (sd sa sb : BitVec 6)
  | max (n : Bool) (sd sa sb : BitVec 6)
  | cmp (cond : BitVec 3) (sd sa sb : BitVec 6)
  | sel (sd sa sb sc : BitVec 6)
  | ext (n : Bool) (w : BitVec 2) (sd sa : BitVec 6)
  | bitc (k : BitVec 2) (sd sa : BitVec 6)
  | addi (sd sa : BitVec 6) (imm : BitVec 32)
  | andi (sd sa : BitVec 6) (imm : BitVec 32)
  | ori (sd sa : BitVec 6) (imm : BitVec 32)
  | xori (sd sa : BitVec 6) (imm : BitVec 32)
  | shli (sd sa : BitVec 6) (imm : BitVec 32)
  | shri (sd sa : BitVec 6) (imm : BitVec 32)
  | srai (sd sa : BitVec 6) (imm : BitVec 32)
  | muli (sd sa : BitVec 6) (imm : BitVec 32)
  | cmpi (cond : BitVec 3) (sd sa : BitVec 6) (imm : BitVec 32)
  | li (sd : BitVec 6) (imm : BitVec 32)
  | lih (sd sa : BitVec 6) (imm : BitVec 32)
  -- branches (R111 to R113)
  | br (off : BitVec 21)
  | bc (cond : BitVec 3) (sa sb : BitVec 6) (off : BitVec 21)
  | bf (fs test : BitVec 2) (inv : Bool) (off : BitVec 21)
  | jr (sa : BitVec 6)
  | call (sd : BitVec 6) (off : BitVec 21)
  | loopr (sd : BitVec 6) (off : BitVec 21)
  -- queues and flag slots (R115, R116)
  | pop (r : BitVec 6) (n : BitVec 4)
  | push (r : BitVec 6) (n : BitVec 4)
  | qlen (r : BitVec 6) (n : BitVec 4)
  | rdfs (r : BitVec 6) (n : BitVec 4)
  -- control and status registers, random numbers, tables (R117 to R120)
  | csrr (sd : BitVec 6) (csr : BitVec 12)
  | csrw (csr : BitVec 12) (sa : BitVec 6)
  | csrs (csr : BitVec 12) (sa : BitVec 6)
  | csrc (csr : BitVec 12) (sa : BitVec 6)
  | rand (u : Bool) (sd sa sb : BitVec 6)
  | btr (sd : BitVec 6) (idx : BitVec 12)
  | btw (idx : BitVec 12) (sa : BitVec 6)
  | lcw (eng : BitVec 2) (idx : BitVec 12) (sa : BitVec 6)
  -- hurdles (R121 to R124)
  | harr (idx : BitVec 12)
  | hwt (idx : BitVec 12)
  | hset (idx : BitVec 12) (sa : BitVec 6)
  | hpoll (sd : BitVec 6) (idx : BitVec 12)
  -- launch, counters, cancel (R126 to R129)
  | lnch (sa : BitVec 6)
  | fcrd (sd : BitVec 6) (idx : BitVec 12)
  | fcw (idx : BitVec 12) (sa : BitVec 6)
  | fcwt (idx : BitVec 12) (sa : BitVec 6)
  | cncl (lvl : BitVec 2) (sa : BitVec 6)
  | lvwt (lvl : BitVec 2) (sa sb : BitVec 6)
  -- pre-emption points, trace and trap (R130 to R135)
  | phint (imm : BitVec 24)
  | yield (imm : BitVec 24)
  | trace (sa : BitVec 6) (imm : BitVec 24)
  | trap (imm : BitVec 24)
  -- the shadow context (R136 to R138, R345, R346)
  | shi (sd : BitVec 6) (imm : BitVec 24)
  | xlin (sa sb : BitVec 6)
  -- V strand (05_vector_strand.md)
  | pblk (pattern : BitVec 8) (cnt : BitVec 3) (kp : BitVec 5)
  | vadd (o : VOps) (rm : BitVec 3)
  | vsub (o : VOps) (rm : BitVec 3)
  | vmul (o : VOps) (rm : BitVec 3)
  | vfma (o : VOps) (rm : BitVec 3)
  | vfms (o : VOps) (rm : BitVec 3)
  | vfnma (o : VOps) (rm : BitVec 3)
  | vmax (o : VOps)
  | vmin (o : VOps)
  | vabs (o : VOps)
  | vneg (o : VOps)
  | vmov (o : VOps)
  | vexp2 (o : VOps) (rm : BitVec 3)
  | vlog2 (o : VOps) (rm : BitVec 3)
  | vrcpe (o : VOps)
  | vrsqe (o : VOps)
  | vrcpn (o : VOps)
  | vrsqn (o : VOps)
  | viadd (o : VOps) (lt : BitVec 3)
  | visub (o : VOps) (lt : BitVec 3)
  | vimul (o : VOps) (lt : BitVec 3)
  | vimulh (o : VOps) (lt : BitVec 3)
  | vimin (o : VOps) (lt : BitVec 3)
  | vimax (o : VOps) (lt : BitVec 3)
  | viand (o : VOps) (lt : BitVec 3)
  | vior (o : VOps) (lt : BitVec 3)
  | vixor (o : VOps) (lt : BitVec 3)
  | vishl (o : VOps) (lt : BitVec 3)
  | vishr (o : VOps) (lt : BitVec 3)
  | visra (o : VOps) (lt : BitVec 3)
  | viabs (o : VOps) (lt : BitVec 3)
  | viota (o : VOps) (lt : BitVec 3) (k : BitVec 2)
  | vcvt (o : VOps) (rm : BitVec 3) (fmt : BitVec 5) (x sat : Bool)
  | vwid (o : VOps) (part : BitVec 2) (fmt : BitVec 5) (x : Bool)
  | vcvti (o : VOps) (rm : BitVec 3) (lt : BitVec 3)
  | vcvtf (o : VOps) (rm : BitVec 3) (lt : BitVec 3)
  | vicvt (o : VOps) (dt sl : BitVec 3) (sat : Bool)
  | vrrot (o : VOps)
  | vcrot (o : VOps)
  | vrbc (o : VOps)
  | vcbc (o : VOps)
  | vrred (o : VOps) (k : BitVec 2)
  | vcred (o : VOps) (k : BitVec 2)
  | vrscan (o : VOps) (k : BitVec 2)
  | vcscan (o : VOps) (k : BitVec 2)
  | vbstep (o : VOps) (b : BitVec 3) (j : BitVec 3) (dir : Bool)
  | vcmp (o : VPOps) (cond : BitVec 3)
  | vicmp (o : VPOps) (cond : BitVec 3)
  | kand (o : VPOps)
  | kor (o : VPOps)
  | kxor (o : VPOps)
  | kandn (o : VPOps)
  | knot (o : VPOps)
  | kmov (o : VPOps)
  | kset (o : VPOps) (k : BitVec 2)
  | ptest (o : VPOps)
  | vacrr (o : VAOps)
  | vaccr (o : VAOps)
  | vacrw (o : VAOps)
  | vaccw (o : VAOps)
  | vacsr (o : VAOps) (k : BitVec 2)
  | vacsw (o : VAOps) (k : BitVec 2)
  -- D strand (06_data_strand.md)
  | stset (st fld : BitVec 4) (sa : BitVec 6)
  | stld (st : BitVec 4) (sa : BitVec 6)
  | stsv (st : BitVec 4) (sa : BitVec 6)
  | srd (st : BitVec 4) (sa : BitVec 6) (imm : BitVec 16)
  | swr (st : BitVec 4) (sa : BitVec 6) (imm : BitVec 16)
  | sstop (st : BitVec 4)
  | lds (sx : Bool) (sz : BitVec 2) (qs : Bool) (sa : BitVec 6) (off : BitVec 16)
  | sts (sz : BitVec 2) (sa : BitVec 6) (off : BitVec 16)
  | aadd (w : Bool) (qs : Bool) (sa sb : BitVec 6) (off : BitVec 16)
  | amin (n w : Bool) (qs : Bool) (sa sb : BitVec 6) (off : BitVec 16)
  | amax (n w : Bool) (qs : Bool) (sa sb : BitVec 6) (off : BitVec 16)
  | aand (w : Bool) (qs : Bool) (sa sb : BitVec 6) (off : BitVec 16)
  | aor (w : Bool) (qs : Bool) (sa sb : BitVec 6) (off : BitVec 16)
  | axor (w : Bool) (qs : Bool) (sa sb : BitVec 6) (off : BitVec 16)
  | axchg (w : Bool) (qs : Bool) (sa sb : BitVec 6) (off : BitVec 16)
  | acas (w : Bool) (qs : Bool) (sa sb sc : BitVec 6) (off : BitVec 16)
  | afadd (qs : Bool) (sa sb : BitVec 6) (off : BitVec 16)
  | rgset (rg : BitVec 3) (fld : BitVec 5) (sa : BitVec 6)
  | rgrd (qs : Bool) (rg : BitVec 3) (fld : BitVec 5)
  | rpush (rg : BitVec 3)
  | fence (scope : BitVec 3) (sc : Bool)
  | xfence (scope : BitVec 3)
  | spt (qs : Bool) (sa : BitVec 6)
  | spc (cs : Bool) (qs : Bool) (sa sb : BitVec 6)
  -- E strand (07_engine_strand.md R210 to R215)
  | post (eng : BitVec 2) (sa : BitVec 6)
  | tadv (eng : BitVec 2) (sa : BitVec 6)
  | cseq (eng : BitVec 2)
  | cwait (eng : BitVec 2) (sa : BitVec 6)
  | fsend (o : Bool) (fid : BitVec 20) (sa sb : BitVec 6) (fc : BitVec 5)
  | fwait (fc : BitVec 5) (sa : BitVec 6)
  | aqry (sa sb sc : BitVec 6) (fc : BitVec 5)
  | topk (k : BitVec 3) (sa sb sc : BitVec 6) (fc : BitVec 5)
  | kvtrunc (sa sb : BitVec 6) (fc : BitVec 5)
  -- engine records (07_engine_strand.md R216 to R231)
  | linkRecord (r : Rec)
  | nil (r : Rec)
  | mma (r : Rec)
  | mmai (r : Rec)
  | smxu (r : Rec)
  | smxm (r : Rec)
  | smxf (r : Rec)
  | acld (r : Rec)
  | acst (r : Rec)
  | aczr (r : Rec)
  | qscl (r : Rec)
  | qpak (r : Rec)
  | qdeq (r : Rec)
  | qcvt (r : Rec)
  | qamx (r : Rec)
  | copy (r : Rec)
  | gath (r : Rec)
  | scat (r : Rec)
  | fill (r : Rec)
  | fsnd (r : Rec)
  | fsig (r : Rec)
  | fdrp (r : Rec)
  -- router operations (08_network_program.md R252 to R260)
  | fwd (e : FlowEntry)
  | dup (e : FlowEntry)
  | sum (e : FlowEntry)
  | flowMax (e : FlowEntry)
  | flowMin (e : FlowEntry)
  | flowOr (e : FlowEntry)
  | wsum (e : FlowEntry)
  | merge (e : FlowEntry)
  | scan (e : FlowEntry)
  | trn (e : FlowEntry)
  | hold (e : FlowEntry)
  | deliver (e : FlowEntry)
  | fadd (e : FlowEntry)
  | iadd (e : FlowEntry)
  | drop (e : FlowEntry)
  -- the drove class, pod time and links (14_pod.md)
  | bellwetherArrive (router port : Nat) (flit : BitVec 512)
  | timeFlitReceive (port : Nat) (flit : BitVec 512)
  | linkFlitReceive (port : Nat) (flit : BitVec 2048)
  | linkRetry (port : Nat) (ack : BitVec 12)
  | ethDatagramReceive (eth peer : Nat) (header : BitVec 128) (payload : List W32)
  | ptpEventStamp (eth : Nat) (tai : BitVec 64) (lock : Bool)
  -- halts (12_faults.md)
  | haltLineRaise (part cause src id : Nat)
  -- translation (09_memory.md)
  | inval (part : Nat) (v : BitVec 64)
  -- the host (17_system.md R420 to R426)
  | sqDoorbell (queue : Nat) (v : BitVec 64)
  | hwrite (c : Cmd)
  | hread (c : Cmd)
  | submit (c : Cmd)
  | cancel (c : Cmd)
  | release (c : Cmd)
  | mread (c : Cmd)
  | mwrite (c : Cmd)
  | migrate (c : Cmd)
  | attest (c : Cmd)
  | fwupd (c : Cmd)
  | close (c : Cmd)
  | hostQueueRegisterWrite (queue : Nat) (off : Nat) (v : BitVec 64)
  | eload (queue router : Nat) (w : BitVec 256)
  | strayQueueRead (router off : Nat)
  | drovecfgWrite (queue : Nat) (v : BitVec 64)
  | registerWrite (queue : Nat) (addr : BitVec 48) (v : BitVec 128)
  -- boot, power, field records (17_system.md R428 to R432)
  | clockStepAdjust (watts tj : Nat)
  | thermtrip (tj : Nat)
  | powerLoss (thermal : Bool)
  -- words without operands, and events: an event acts on the tile, strand, router, port, partition or queue that
  -- State.focus names (Machine/State.lean)
  | nop
  | fin
  | bundleIssue
  | queueStall
  | resultLand
  | taskEnd
  | hurdleArrival
  | hurdlePhaseComplete
  | hurdleConfigEffect
  | shret
  | cpXlateMiss
  | shadowTimeout
  | stldPerform
  | streamRowRead
  | streamRowWrite
  | mark
  | dAccessPerform
  | aqryPerform
  | topkPerform
  | kvtruncPerform
  | kvReleaseAppend
  | fiSendEntry
  | mxStepBegin
  | mxStepEnd
  | schedMiss
  | mxRelocate
  | strayPacket
  | roundResultSend
  | flowStall
  | bellwetherSend
  | droveRelease
  | droveStall
  | timeFlitSend
  | portDown
  | portUp
  | ethResend
  | recordAdmit
  | shepherdChoice
  | launchStart
  | preload
  | preemptRequest
  | forcedBoundary
  | budget
  | save
  | restore
  | foldCommit
  | haltLineArrive
  | routerHaltStop
  | stopRecordWrite
  | pageWalkDone
  | completionWrite
  | eventWrite
  | boot
  | shutdown
  | fieldRecordFlush
  deriving DecidableEq, Repr, Inhabited

/-- The four strands of a core (R20). -/
inductive Strand where
  | c | v | d | e
  deriving DecidableEq, Repr, Inhabited

/-- The unit code of a strand (R137, R352). -/
def Strand.code : Strand → Nat
  | .c => 0
  | .v => 1
  | .d => 2
  | .e => 3

/-- A slot word decoded (R70): the sync bit S, the delay D and the instruction. -/
structure Slot where
  sync : Bool
  delay : BitVec 3
  instr : Instr
  deriving DecidableEq, Repr, Inhabited

end Sys2Proof
end

