-- ==== Sys2Proof/WellFormed.lean ====
section
/-! DEFINITION. Which instructions their words may stand for: the field checks of R72 and of the instructions'
entries for slot words, the checks of R98 and of the records' entries that need no machine state, and those of R103
and R247 for flow entries. -/

namespace Sys2Proof

/-! ## Vector words (R80 to R86) -/

/-- A source specifier (R80). -/
def srcOk (v : BitVec 7) : Bool := v.toNat < 72 || v.toNat == 76
/-- A destination specifier (R80). -/
def dstOk (v : BitVec 7) : Bool := v.toNat < 64 || (72 ≤ v.toNat && v.toNat < 76)
/-- A source without the scalar broadcast (R162). -/
def srcRegOk (v : BitVec 7) : Bool := v.toNat < 72
/-- kg = 0 with KN = 1 is not allowed (R81). -/
def guardOk (kg : BitVec 5) (kn : Bool) : Bool := !(kg == 0#5 && kn)
/-- A rounding field names 0 to 4 or 7 (R83). -/
def rmOk (rm : BitVec 3) : Bool := rm != 5#3 && rm != 6#3
/-- A lane type (R82). -/
def ltOk (lt : BitVec 3) : Bool := lt != 3#3 && lt != 7#3
/-- A 32-bit lane type. -/
def lt32 (lt : BitVec 3) : Bool := lt == 0#3 || lt == 4#3

/-- Format VR with `n` sources; `ss` holds zero unless a source is 76 or the entry names it (R141). -/
def VOps.ok (o : VOps) (n : Nat) (usesSs : Bool) : Bool :=
  dstOk o.vd && guardOk o.kg o.kn &&
  (if n ≥ 1 then srcOk o.va else o.va == 0#7) &&
  (if n ≥ 2 then srcOk o.vb else o.vb == 0#7) &&
  (if n ≥ 3 then srcOk o.vc else o.vc == 0#7) &&
  (usesSs || o.va == 76#7 || o.vb == 76#7 || o.vc == 76#7 || o.ss == 0#6)

/-- The format codes of vcvt and vwid (R155). -/
def cvtFmtOk (fmt : BitVec 5) : Bool := fmt == 1#5 || fmt == 2#5 || (9 ≤ fmt.toNat && fmt.toNat ≤ 19)
/-- X acts only on binary8 (R53, R155). -/
def xOk (fmt : BitVec 5) (x : Bool) : Bool := !x || (9 ≤ fmt.toNat && fmt.toNat ≤ 19)

/-- A comparison of format VP (R163). -/
def VPOps.cmpOk (o : VPOps) : Bool :=
  o.kd != 0#5 && o.ka == 0#5 && o.kb == 0#5 && srcOk o.va && srcOk o.vb && guardOk o.kg o.kn && o.fs == 0#2 &&
  (o.va == 76#7 || o.vb == 76#7 || o.ss == 0#6)

/-- A predicate form of format VP with `n` predicate sources (R164). -/
def VPOps.logOk (o : VPOps) (n : Nat) (usesSs : Bool) : Bool :=
  o.kd != 0#5 && (n ≥ 1 || o.ka == 0#5) && (n ≥ 2 || o.kb == 0#5) && o.va == 0#7 && o.vb == 0#7 &&
  guardOk o.kg o.kn && o.fs == 0#2 && o.lt == 0#3 && (usesSs || o.ss == 0#6)

/-- Format VA with `v` a destination (R166). -/
def VAOps.rdOk (o : VAOps) : Bool := dstOk o.v && guardOk o.kg o.kn && o.ss == 0#6
/-- Format VA with `v` a source (R166). -/
def VAOps.wrOk (o : VAOps) : Bool := srcOk o.v && guardOk o.kg o.kn && (o.v == 76#7 || o.ss == 0#6)

/-- The control and status registers of R38. -/
def csrKnown (c : BitVec 12) : Bool :=
  c.toNat < 3 || (0x10 ≤ c.toNat && c.toNat ≤ 0x14) || c.toNat == 0x18 || c.toNat == 0x19 ||
  (0x20 ≤ c.toNat && c.toNat ≤ 0x22)

/-! ## Records (R98 and the entries of 07_engine_strand.md) -/

/-- Is the format code binary8? -/
def b8Fmt (f : BitVec 5) : Bool := 9 ≤ f.toNat && f.toNat ≤ 19
/-- The operand formats of the MX (R223). -/
def mxFmt (f : BitVec 5) : Bool := f == 1#5 || f == 2#5 || f == 5#5 || f == 7#5 || f == 8#5 || b8Fmt f
/-- f32, bf16, f16. -/
def fltFmt (f : BitVec 5) : Bool := f.toNat ≤ 2
/-- f32, bf16, f16 and binary8 (R225). -/
def outFmt (f : BitVec 5) : Bool := fltFmt f || b8Fmt f
/-- The formats of the P ring (R224). -/
def pFmt (f : BitVec 5) : Bool := f == 1#5 || f == 2#5 || b8Fmt f
/-- f4 and i4. -/
def blkFmt (f : BitVec 5) : Bool := f == 7#5 || f == 8#5

/-- A trip field that names a count register has bits 10:3 zero (R95). -/
def tripOk (t : BitVec 12) : Bool := t.toNat < 2048 || t.toNat - 2048 < 8
/-- A ring or accumulator operand (R93). -/
def unitOk (d : BitVec 96) : Bool := d.toNat < 8
/-- A packed list has zero strides (R217). -/
def packedOk (d : BitVec 96) : Bool := d.toNat < 2 ^ 32
/-- The step of level `k` of a descriptor (R93). -/
def stepField (d : BitVec 96) (k : Nat) : Nat := bits d.toNat (47 + 16 * k) (32 + 16 * k)

def Rec.ts (r : Rec) : Bool := bitAt r.fl.toNat 7
def Rec.rl (r : Rec) : Bool := bitAt r.fl.toNat 6
def Rec.x (r : Rec) : Bool := bitAt r.fl.toNat 5
def Rec.sat (r : Rec) : Bool := bitAt r.fl.toNat 4
def Rec.opx (r : Rec) : Bool := bitAt r.fl.toNat 3
def Rec.rm (r : Rec) : Nat := r.fl.toNat % 8

/-- The checks of R98 common to every op: reserved bits, trip fields, flags within `allow`, RM, TS, STAMP, X. -/
def Rec.common (r : Rec) (mx : Bool) (allow : BitVec 8) (xGoverns : List (BitVec 5)) : Bool :=
  r.rsv == 0#4 && tripOk r.trip0 && tripOk r.trip1 && tripOk r.trip2 && tripOk r.trip3 &&
  (r.fl &&& ~~~ allow) == 0#8 && r.rm != 5 && r.rm != 6 && !(r.ts && r.stamp == 0#40) &&
  (mx || r.stamp == 0#40) && (!r.x || xGoverns.any b8Fmt)

/-- The fields of a literal flow (R231). -/
def flowPl (d : BitVec 96) : Nat := bits d.toNat 28 26
def flowO (d : BitVec 96) : Bool := bitAt d.toNat 25
def flowFc (d : BitVec 96) : Nat := bits d.toNat 24 20
def flowFid (d : BitVec 96) : Nat := bits d.toNat 19 0

/-- A literal flow of fsnd (PL 1 to 4) or of a signal or drop marker (PL 0). -/
def flowOk (d : BitVec 96) (data : Bool) : Bool :=
  d.toNat < 2 ^ 29 && (if data then 1 ≤ flowPl d && flowPl d ≤ 4 else flowPl d == 0)

/-! ## Flow entries (R103, R247) -/

/-- The port code in slot `i` of ORD. -/
def ordSlot (o : BitVec 21) (i : Nat) : Nat := bits o.toNat (3 * i + 2) (3 * i)
/-- The listed slots of ORD, up to the first 7. -/
def ordList (o : BitVec 21) : List Nat := ((List.range 7).map (ordSlot o)).takeWhile (· != 7)
/-- The ports of a mask. -/
def portList (m : BitVec 7) : List Nat := (List.range 7).filter (bitAt m.toNat ·)
/-- ORD lists each port of IPM once, the listed slots first, then 7s only (R101, R103). -/
def ordOk (o : BitVec 21) (ipm : BitVec 7) : Bool :=
  let l := ordList o
  l.length == (portList ipm).length && (portList ipm).all (l.contains ·) &&
  ((List.range 7).drop l.length).all (fun i => ordSlot o i == 7)

/-- The slots that one held value takes (R250). -/
def heldSlots (fmt : BitVec 5) : Nat := if fmt == 1#5 || fmt == 2#5 then 2 else 1

/-- The checks of R103 and R247 that depend on the entry alone, for an entry with V = 1. -/
def FlowEntry.ok (e : FlowEntry) (usesOrd usesSlots : Bool) (fmts : List Nat) : Bool :=
  e.rsvHi == 0#69 && e.rsv == 0#2 && fmts.contains e.fmt.toNat && e.dwin != 3#2 &&
  (e.dwin != 0#2 || e.daddr.toNat < 2 ^ 21) && e.daddr.toNat % 16 == 0 &&
  (if usesOrd then ordOk e.ord e.ipm else e.ord.toNat == 2 ^ 21 - 1) &&
  (if usesSlots then e.slot.toNat + e.nslot.toNat + 1 ≤ 256 else e.slot == 0#8 && e.nslot == 0#4) &&
  !bitAt e.opm.toNat 0 && !(e.fc != 0#5 && e.dwin == 2#2) && !(e.nfid != 0#20 && !e.ren)

/-- A combining entry (R248) with the minimum of slots (R250). -/
def FlowEntry.combOk (e : FlowEntry) (fmts : List Nat) (aux : Nat) : Bool :=
  e.ok true true fmts && e.aux.toNat ≤ aux &&
  e.nslot.toNat + 1 ≥ max 1 (((ordList e.ord).length - 1) * heldSlots e.fmt)

/-- Every format code 0 to 20. -/
def anyFmt : List Nat := List.range 21

/-- A load with V = 0 removes an entry: only its reserved bits are checked (R103). -/
def FlowEntry.removal (e : FlowEntry) : Bool := !e.v && e.rsvHi == 0#69 && e.rsv == 0#2

/-- May this instruction stand in a word, record or entry that passes its field checks? Events and mailbox commands
carry no field that their entries refuse before they act. -/
def Instr.wellFormed : Instr → Bool
  | .nop | .fin | .jmp _ | .lpf _ => true
  | .bundleIssue | .queueStall | .resultLand | .taskEnd => true
  | .add _ _ _ | .sub _ _ _ | .and _ _ _ | .or _ _ _ | .xor _ _ _ | .shl _ _ _ | .shr _ _ _ | .sra _ _ _
  | .mul _ _ _ | .mulh _ _ _ _ | .div _ _ _ _ | .rem _ _ _ _ | .min _ _ _ _ | .max _ _ _ _ => true
  | .cmp cond _ _ _ => cond.toNat < 6
  | .sel _ _ _ _ => true
  | .ext _ w _ _ => w != 3#2
  | .bitc k _ _ => k != 3#2
  | .addi _ _ _ | .andi _ _ _ | .ori _ _ _ | .xori _ _ _ => true
  | .shli _ _ imm | .shri _ _ imm | .srai _ _ imm => imm.toNat < 64
  | .muli _ _ _ => true
  | .cmpi cond _ _ _ => cond.toNat < 6
  | .li _ _ | .lih _ _ _ | .br _ => true
  | .bc cond _ _ _ => cond.toNat < 6
  | .bf _ _ _ _ | .jr _ | .call _ _ | .loopr _ _ => true
  | .pop _ n => n == 12#4 || n == 13#4 || n == 15#4
  | .push _ n => n == 14#4
  | .qlen _ n => 12 ≤ n.toNat
  | .rdfs _ n => n.toNat < 4
  | .csrr _ c => csrKnown c
  | .csrw c _ => csrKnown c
  | .csrs c _ => csrKnown c && c != 0x10#12
  | .csrc c _ => csrKnown c
  | .rand _ _ _ _ => true
  | .btr _ i => i.toNat < 16
  | .btw i _ => i.toNat < 16
  | .lcw _ i _ => i.toNat < 8
  | .harr i | .hwt i | .hset i _ | .hpoll _ i => i.toNat < 128
  | .hurdleArrival | .hurdlePhaseComplete | .hurdleConfigEffect => true
  | .lnch _ => true
  | .fcrd _ i | .fcw i _ | .fcwt i _ => i.toNat < 32
  | .cncl _ _ | .lvwt _ _ _ | .phint _ | .yield _ | .trace _ _ | .trap _ => true
  | .shi _ imm => imm.toNat < 8
  | .xlin _ _ | .shret | .cpXlateMiss | .shadowTimeout => true
  | .pblk p cnt kp => p.toNat < 2 ^ (cnt.toNat + 1) && kp != 0#5
  | .vadd o rm | .vsub o rm | .vmul o rm => o.ok 2 false && rmOk rm
  | .vfma o rm | .vfms o rm | .vfnma o rm => o.ok 3 false && rmOk rm
  | .vmax o | .vmin o => o.ok 2 false
  | .vabs o | .vneg o | .vmov o => o.ok 1 false
  | .vexp2 o rm | .vlog2 o rm => o.ok 1 false && rmOk rm
  | .vrcpe o | .vrsqe o => o.ok 1 false
  | .vrcpn o | .vrsqn o => o.ok 2 false
  | .viadd o lt | .visub o lt | .vimul o lt | .vimulh o lt | .vimin o lt | .vimax o lt | .viand o lt | .vior o lt
  | .vixor o lt | .vishl o lt | .vishr o lt | .visra o lt => o.ok 2 false && ltOk lt
  | .viabs o lt => o.ok 1 false && ltOk lt
  | .viota o lt k => o.ok 0 false && lt32 lt && k != 3#2
  | .vcvt o rm fmt x _ => o.ok 1 false && rmOk rm && cvtFmtOk fmt && xOk fmt x
  | .vwid o part fmt x => o.ok 1 false && cvtFmtOk fmt && xOk fmt x && (b8Fmt fmt || part.toNat < 2)
  | .vcvti o rm lt | .vcvtf o rm lt => o.ok 1 false && rmOk rm && lt32 lt
  | .vicvt o dt sl _ => o.ok 1 false && ltOk dt && ltOk sl && (lt32 dt || lt32 sl)
  | .vrrot o | .vcrot o | .vrbc o | .vcbc o => o.ok 1 true
  | .vrred o k | .vcred o k | .vrscan o k | .vcscan o k => o.ok 1 false && k != 3#2
  | .vbstep o b j _ =>
    dstOk o.vd && srcRegOk o.va && srcRegOk o.vb && o.vc.toNat < 64 && o.vc != o.vd && guardOk o.kg o.kn &&
    o.ss == 0#6 && b != 0#3 && b != 7#3 && j.toNat < b.toNat
  | .vcmp o _ => o.cmpOk && o.lt == 0#3
  | .vicmp o c =>
    o.cmpOk && lt32 o.lt && c.toNat < 6 && !((c == 2#3 || c == 3#3) && o.lt != 0#3) &&
    !((c == 4#3 || c == 5#3) && o.lt != 4#3)
  | .kand o | .kor o | .kxor o | .kandn o => o.logOk 2 false
  | .knot o | .kmov o => o.logOk 1 false
  | .kset o k => o.logOk 0 true && k != 3#2
  | .ptest o =>
    o.kd == 0#5 && o.kb == 0#5 && o.va == 0#7 && o.vb == 0#7 && guardOk o.kg o.kn && o.ss == 0#6 && o.lt == 0#3
  | .vacrr o | .vaccr o => o.rdOk
  | .vacrw o | .vaccw o => o.wrOk
  | .vacsr o k => o.rdOk && k != 3#2
  | .vacsw o k => o.wrOk && k.toNat < 2
  | .stset st fld _ => st.toNat < 12 && fld.toNat < 6
  | .stld st _ | .stsv st _ | .sstop st => st.toNat < 12
  | .srd st _ _ => st.toNat < 8
  | .swr st _ _ => 8 ≤ st.toNat && st.toNat < 12
  | .stldPerform | .streamRowRead | .streamRowWrite => true
  | .lds sx sz _ _ _ => !(sx && sz == 3#2)
  | .sts _ _ _ | .aadd _ _ _ _ _ | .amin _ _ _ _ _ _ | .amax _ _ _ _ _ _ | .aand _ _ _ _ _ | .aor _ _ _ _ _
  | .axor _ _ _ _ _ | .axchg _ _ _ _ _ | .acas _ _ _ _ _ _ | .afadd _ _ _ _ => true
  | .rgset _ fld _ => fld.toNat < 8
  | .rgrd _ _ fld => fld.toNat < 11
  | .rpush _ | .mark => true
  | .fence scope _ | .xfence scope => scope.toNat < 5
  | .spt _ _ | .spc _ _ _ _ | .dAccessPerform => true
  | .post _ _ | .tadv _ _ | .cseq _ | .cwait _ _ | .fsend _ _ _ _ _ | .fwait _ _ | .aqry _ _ _ _
  | .topk _ _ _ _ _ | .kvtrunc _ _ _ => true
  | .aqryPerform | .topkPerform | .kvtruncPerform | .kvReleaseAppend | .fiSendEntry => true
  | .linkRecord r =>
    r.common true 0x00#8 [] && r.od0.toNat < 2 ^ 64 && r.od1 == 0#96 && r.od2 == 0#96 && r.od3 == 0#96 &&
    r.fmt0 == 0#5 && r.fmt1 == 0#5 && r.fmt2 == 0#5 && r.fmt3 == 0#5
  | .nil r =>
    r.common true 0x00#8 [] && r.od0 == 0#96 && r.od1 == 0#96 && r.od2 == 0#96 && r.od3 == 0#96 &&
    r.fmt0 == 0#5 && r.fmt1 == 0#5 && r.fmt2 == 0#5 && r.fmt3 == 0#5
  | .mma r =>
    r.common true 0xE0#8 [r.fmt0, r.fmt1] && unitOk r.od0 && unitOk r.od1 && unitOk r.od2 && r.od3 == 0#96 &&
    mxFmt r.fmt0 && mxFmt r.fmt1 && r.fmt2 == 0#5 && r.fmt3 == 0#5
  | .mmai r =>
    r.common true 0xE0#8 [r.fmt0, r.fmt1] && unitOk r.od0 && unitOk r.od1 && unitOk r.od2 && packedOk r.od3 &&
    mxFmt r.fmt0 && mxFmt r.fmt1 && r.fmt2 == 0#5 && r.fmt3 == 3#5
  | .smxu r =>
    r.common true 0xF7#8 [r.fmt1] && unitOk r.od0 && unitOk r.od1 && unitOk r.od2 && packedOk r.od3 &&
    r.fmt0 == 0#5 && pFmt r.fmt1 && r.fmt2 == 0#5 && r.fmt3 == 0#5
  | .smxm r =>
    r.common true 0xC0#8 [] && unitOk r.od0 && unitOk r.od1 && unitOk r.od2 && r.od3 == 0#96 &&
    r.fmt0 == 0#5 && r.fmt1 == 0#5 && r.fmt2 == 0#5 && r.fmt3 == 0#5
  | .smxf r =>
    r.common true 0xB7#8 [r.fmt2] && unitOk r.od0 && r.od1 == 0#96 && r.od3 == 0#96 && r.fmt0 == 0#5 &&
    r.fmt1 == 0#5 && outFmt r.fmt2 && r.fmt3 == 0#5
  | .acld r =>
    r.common true 0x00#8 [] && r.od1 == 0#96 && unitOk r.od2 && r.od3 == 0#96 && fltFmt r.fmt0 &&
    r.fmt1 == 0#5 && r.fmt2 == 0#5 && r.fmt3 == 0#5
  | .acst r =>
    r.common true 0x37#8 [r.fmt2] && unitOk r.od0 && r.od1 == 0#96 && r.od3 == 0#96 && r.fmt0 == 0#5 &&
    r.fmt1 == 0#5 && outFmt r.fmt2 && r.fmt3 == 0#5
  | .aczr r =>
    r.common true 0x00#8 [] && r.od0 == 0#96 && r.od1 == 0#96 && unitOk r.od2 && r.od3 == 0#96 &&
    r.fmt0 == 0#5 && r.fmt1 == 0#5 && r.fmt2 == 0#5 && r.fmt3 == 0#5
  | .mxStepBegin | .mxStepEnd | .schedMiss | .mxRelocate => true
  | .qscl r =>
    r.common false 0x1F#8 [] && packedOk r.od2 && r.od3 == 0#96 && fltFmt r.fmt0 && blkFmt r.fmt1 &&
    r.fmt2 == 20#5 && r.fmt3 == 0#5
  | .qpak r =>
    r.common false 0x17#8 [] && r.od2 == 0#96 && packedOk r.od3 && fltFmt r.fmt0 && blkFmt r.fmt1 &&
    r.fmt2 == 0#5 && r.fmt3 == 20#5
  | .qdeq r =>
    r.common false 0x07#8 [] && r.od2 == 0#96 && packedOk r.od3 && blkFmt r.fmt0 && fltFmt r.fmt1 &&
    r.fmt2 == 0#5 && r.fmt3 == 20#5
  | .qcvt r =>
    r.common false 0x37#8 [r.fmt0, r.fmt1] && r.od2 == 0#96 && r.od3 == 0#96 && outFmt r.fmt0 && outFmt r.fmt1 &&
    r.fmt2 == 0#5 && r.fmt3 == 0#5
  | .qamx r =>
    r.common false 0x00#8 [] && packedOk r.od1 && r.od2 == 0#96 && r.od3 == 0#96 && fltFmt r.fmt0 &&
    r.fmt1 == 0#5 && r.fmt2 == 0#5 && r.fmt3 == 0#5
  | .copy r =>
    r.common false 0x00#8 [] && r.od2 == 0#96 && r.od3 == 0#96 && r.fmt0 == 0#5 && r.fmt1 == 0#5 &&
    r.fmt2 == 0#5 && r.fmt3 == 0#5
  | .gath r =>
    r.common false 0x00#8 [] && packedOk r.od2 && r.od3 == 0#96 && stepField r.od0 2 == 0 &&
    stepField r.od0 3 == 0 && r.fmt0 == 0#5 && r.fmt1 == 0#5 && r.fmt2 == 3#5 && r.fmt3 == 0#5
  | .scat r =>
    r.common false 0x00#8 [] && packedOk r.od2 && r.od3 == 0#96 && stepField r.od1 2 == 0 &&
    stepField r.od1 3 == 0 && r.fmt0 == 0#5 && r.fmt1 == 0#5 && r.fmt2 == 3#5 && r.fmt3 == 0#5
  | .fill r =>
    r.common false 0x00#8 [] && r.od0.toNat < 2 ^ 32 && r.od2 == 0#96 && r.od3 == 0#96 && r.fmt0 == 0#5 &&
    r.fmt1 == 0#5 && r.fmt2 == 0#5 && r.fmt3 == 0#5
  | .fsnd r =>
    r.common false 0x00#8 [] && flowOk r.od1 true && r.od2 == 0#96 && r.od3 == 0#96 && r.fmt0 == 0#5 &&
    r.fmt1 == 0#5 && r.fmt2 == 0#5 && r.fmt3 == 0#5
  | .fsig r | .fdrp r =>
    r.common false 0x00#8 [] && r.od0 == 0#96 && flowOk r.od1 false && r.od2 == 0#96 && r.od3 == 0#96 &&
    r.fmt0 == 0#5 && r.fmt1 == 0#5 && r.fmt2 == 0#5 && r.fmt3 == 0#5
  | .fwd e => e.removal || (e.v && e.ok false false anyFmt && e.aux == 0#8 && (portList e.opm).length == 1)
  | .dup e => e.removal || (e.v && e.ok false false anyFmt && e.aux == 0#8 && 2 ≤ (portList e.opm).length)
  | .sum e | .flowMax e | .flowMin e => e.removal || (e.v && e.combOk [0, 1, 2, 3] 0)
  | .flowOr e => e.removal || (e.v && e.combOk [3] 0)
  | .wsum e | .merge e => e.removal || (e.v && e.combOk [0] 0)
  | .scan e => e.removal || (e.v && e.combOk [0, 3] 2)
  | .trn e =>
    e.removal ||
    (e.v && e.ok false true [0, 3] && e.aux == 0#8 && (portList e.ipm).length == 1 && 1 ≤ e.npkt.toNat &&
     e.npkt.toNat ≤ 16 && e.npkt.toNat ≤ e.nslot.toNat + 1)
  | .hold e => e.removal || (e.v && e.ok false true anyFmt && e.aux.toNat < 2)
  | .deliver e => e.removal || (e.v && e.ok false false anyFmt && e.aux == 0#8 && e.opm == 0#7 && e.dwin != 2#2)
  | .fadd e => e.removal || (e.v && e.ok false false [0] && e.aux == 0#8 && e.opm == 0#7 && e.dwin != 2#2)
  | .iadd e => e.removal || (e.v && e.ok false false [3] && e.aux == 0#8 && e.opm == 0#7 && e.dwin != 2#2)
  | .drop e => e.removal || (e.v && e.ok false false anyFmt && e.aux == 0#8 && e.opm == 0#7 && e.dwin == 2#2)
  | .strayPacket | .roundResultSend | .flowStall => true
  | .bellwetherSend | .bellwetherArrive _ _ _ | .droveRelease | .droveStall | .timeFlitSend
  | .timeFlitReceive _ _ | .linkFlitReceive _ _ | .linkRetry _ _ | .portDown | .portUp
  | .ethDatagramReceive _ _ _ _ | .ethResend | .ptpEventStamp _ _ _ => true
  | .recordAdmit | .shepherdChoice | .launchStart | .preload | .preemptRequest
  | .forcedBoundary | .budget | .save | .restore | .foldCommit => true
  | .haltLineRaise _ _ _ _ | .haltLineArrive | .routerHaltStop | .stopRecordWrite => true
  | .pageWalkDone | .inval _ _ => true
  | .sqDoorbell _ _ | .hwrite _ | .hread _ | .submit _ | .cancel _ | .release _ | .mread _ | .mwrite _ | .migrate _
  | .attest _ | .fwupd _ | .close _ | .completionWrite | .eventWrite | .hostQueueRegisterWrite _ _ _
  | .eload _ _ _ | .strayQueueRead _ _ | .drovecfgWrite _ _ | .registerWrite _ _ _ => true
  | .boot | .clockStepAdjust _ _ | .thermtrip _ | .shutdown | .fieldRecordFlush | .powerLoss _ => true

end Sys2Proof
end

