-- ==== Sys2Proof/Decode.lean ====
section
/-! DEFINITION. Decoding and encoding of slot words (R70 to R91), engine records (R92, R97), flow entries (R100,
R102) and mailbox commands (R422). A word is accepted exactly when it is the encoding of an instruction that passes
the field checks: the decoder reads the fields in their places and compares the encoding of what it read with the
word, so every bit that the instruction does not use must be zero (R72). -/

namespace Sys2Proof

/-- Why a word is no instruction (R72). -/
inductive DecodeError where
  /-- OP is unassigned in the strand's map. -/
  | unassigned
  /-- A field holds a value that is reserved or out of range. -/
  | fieldValue
  /-- A MOD bit that the opcode does not use, or a reserved field, is non-zero. -/
  | reservedBits
  deriving DecidableEq, Repr

/-! ## Slot words -/

/-- OP and MOD in their places (R70). -/
def wOp (op mod : Nat) : Nat := op * 2 ^ 53 + mod * 2 ^ 48

/-- A word of format CR (R77). -/
def fCR (op mod sd sa sb sc : Nat) : Nat :=
  wOp op mod + sd * 2 ^ 42 + sa * 2 ^ 36 + sb * 2 ^ 30 + sc * 2 ^ 24

/-- A word of format CI (R77). -/
def fCI (op mod sd sa imm : Nat) : Nat :=
  wOp op mod + sd * 2 ^ 42 + sa * 2 ^ 36 + imm

/-- A word of format CB (R77). -/
def fCB (op mod sa sb sd off : Nat) : Nat :=
  wOp op mod + sa * 2 ^ 42 + sb * 2 ^ 36 + sd * 2 ^ 30 + off

/-- A word of format CQ (R77). -/
def fCQ (op mod s n : Nat) : Nat :=
  wOp op mod + s * 2 ^ 42 + n * 2 ^ 38

/-- A word of format CX (R77). -/
def fCX (op mod sd sa idx imm : Nat) : Nat :=
  wOp op mod + sd * 2 ^ 42 + sa * 2 ^ 36 + idx * 2 ^ 24 + imm

/-- A word of format J (R75). -/
def fJ (op mod off : Nat) : Nat :=
  wOp op mod + off

/-- A word of format VB (R81). -/
def fVB (op mod pattern cnt kp : Nat) : Nat :=
  wOp op mod + pattern * 2 ^ 40 + cnt * 2 ^ 37 + kp * 2 ^ 32

/-- A word of format DS (R87). -/
def fDS (op mod st fld sa imm : Nat) : Nat :=
  wOp op mod + st * 2 ^ 44 + fld * 2 ^ 40 + sa * 2 ^ 34 + imm

/-- A word of format DM (R87). -/
def fDM (op mod sa sb sc qs off : Nat) : Nat :=
  wOp op mod + sa * 2 ^ 42 + sb * 2 ^ 36 + sc * 2 ^ 30 + qs * 2 ^ 29 + off

/-- A word of format DR (R87). -/
def fDR (op mod rg fld sa qs : Nat) : Nat :=
  wOp op mod + rg * 2 ^ 45 + fld * 2 ^ 40 + sa * 2 ^ 34 + qs * 2 ^ 33

/-- A word of format EP (R90). -/
def fEP (op mod eng sa : Nat) : Nat :=
  wOp op mod + eng * 2 ^ 46 + sa * 2 ^ 40

/-- A word of format EF (R90). -/
def fEF (op mod fid sa sb fc : Nat) : Nat :=
  wOp op mod + fid * 2 ^ 28 + sa * 2 ^ 22 + sb * 2 ^ 16 + fc * 2 ^ 11

/-- A word of format EQ (R90). -/
def fEQ (op mod sa sb sc fc : Nat) : Nat :=
  wOp op mod + sa * 2 ^ 42 + sb * 2 ^ 36 + sc * 2 ^ 30 + fc * 2 ^ 25

/-- Format VR (R81): the fields into bits of OPS. -/
def fVR (op mod : Nat) (o : VOps) (ty : Nat) : Nat :=
  wOp op mod + o.vd.toNat * 2 ^ 41 + o.va.toNat * 2 ^ 34 + o.vb.toNat * 2 ^ 27 + o.vc.toNat * 2 ^ 20 + o.kg.toNat * 2 ^ 15 + b2n o.kn * 2 ^ 14 + o.ss.toNat * 2 ^ 8 + ty
/-- Format VR (R81): the fields from bits of OPS. -/
def decVR (w : Nat) : VOps :=
  ⟨(BitVec.ofNat 7 (bits w 47 41)), (BitVec.ofNat 7 (bits w 40 34)), (BitVec.ofNat 7 (bits w 33 27)), (BitVec.ofNat 7 (bits w 26 20)), (BitVec.ofNat 5 (bits w 19 15)), (bitAt w 14), (BitVec.ofNat 6 (bits w 13 8))⟩

/-- Format VP (R81): the fields into bits of OPS. -/
def fVP (op mod : Nat) (o : VPOps) : Nat :=
  wOp op mod + o.kd.toNat * 2 ^ 43 + o.ka.toNat * 2 ^ 38 + o.kb.toNat * 2 ^ 33 + o.va.toNat * 2 ^ 26 + o.vb.toNat * 2 ^ 19 + o.kg.toNat * 2 ^ 14 + b2n o.kn * 2 ^ 13 + o.ss.toNat * 2 ^ 7 + o.fs.toNat * 2 ^ 5 + o.lt.toNat * 2 ^ 2
/-- Format VP (R81): the fields from bits of OPS. -/
def decVP (w : Nat) : VPOps :=
  ⟨(BitVec.ofNat 5 (bits w 47 43)), (BitVec.ofNat 5 (bits w 42 38)), (BitVec.ofNat 5 (bits w 37 33)), (BitVec.ofNat 7 (bits w 32 26)), (BitVec.ofNat 7 (bits w 25 19)), (BitVec.ofNat 5 (bits w 18 14)), (bitAt w 13), (BitVec.ofNat 6 (bits w 12 7)), (BitVec.ofNat 2 (bits w 6 5)), (BitVec.ofNat 3 (bits w 4 2))⟩

/-- Format VA (R81): the fields into bits of OPS. -/
def fVA (op mod : Nat) (o : VAOps) : Nat :=
  wOp op mod + o.v.toNat * 2 ^ 41 + o.acc.toNat * 2 ^ 38 + o.si.toNat * 2 ^ 32 + o.kg.toNat * 2 ^ 15 + b2n o.kn * 2 ^ 14 + o.ss.toNat * 2 ^ 8
/-- Format VA (R81): the fields from bits of OPS. -/
def decVA (w : Nat) : VAOps :=
  ⟨(BitVec.ofNat 7 (bits w 47 41)), (BitVec.ofNat 3 (bits w 40 38)), (BitVec.ofNat 6 (bits w 37 32)), (BitVec.ofNat 5 (bits w 19 15)), (bitAt w 14), (BitVec.ofNat 6 (bits w 13 8))⟩

/-- Bits 62:0 but D of a word of strand C (R78): OP, MOD and OPS. -/
def encC : Instr → Option Nat
  | .nop => some (wOp 0x00 0)
  | .fin => some (wOp 0x01 0)
  | .add sd sa sb => some (fCR 0x08 0 sd.toNat sa.toNat sb.toNat 0)
  | .sub sd sa sb => some (fCR 0x09 0 sd.toNat sa.toNat sb.toNat 0)
  | .and sd sa sb => some (fCR 0x0A 0 sd.toNat sa.toNat sb.toNat 0)
  | .or sd sa sb => some (fCR 0x0B 0 sd.toNat sa.toNat sb.toNat 0)
  | .xor sd sa sb => some (fCR 0x0C 0 sd.toNat sa.toNat sb.toNat 0)
  | .shl sd sa sb => some (fCR 0x0D 0 sd.toNat sa.toNat sb.toNat 0)
  | .shr sd sa sb => some (fCR 0x0E 0 sd.toNat sa.toNat sb.toNat 0)
  | .sra sd sa sb => some (fCR 0x0F 0 sd.toNat sa.toNat sb.toNat 0)
  | .mul sd sa sb => some (fCR 0x10 0 sd.toNat sa.toNat sb.toNat 0)
  | .mulh n sd sa sb => some (fCR 0x11 (b2n n) sd.toNat sa.toNat sb.toNat 0)
  | .div n sd sa sb => some (fCR 0x12 (b2n n) sd.toNat sa.toNat sb.toNat 0)
  | .rem n sd sa sb => some (fCR 0x13 (b2n n) sd.toNat sa.toNat sb.toNat 0)
  | .min n sd sa sb => some (fCR 0x14 (b2n n) sd.toNat sa.toNat sb.toNat 0)
  | .max n sd sa sb => some (fCR 0x15 (b2n n) sd.toNat sa.toNat sb.toNat 0)
  | .cmp cond sd sa sb => some (fCR 0x16 (cond.toNat * 4) sd.toNat sa.toNat sb.toNat 0)
  | .sel sd sa sb sc => some (fCR 0x17 0 sd.toNat sa.toNat sb.toNat sc.toNat)
  | .ext n w sd sa => some (fCR 0x18 (b2n n * 4 + w.toNat) sd.toNat sa.toNat 0 0)
  | .bitc k sd sa => some (fCR 0x19 (k.toNat) sd.toNat sa.toNat 0 0)
  | .addi sd sa imm => some (fCI 0x20 0 sd.toNat sa.toNat imm.toNat)
  | .andi sd sa imm => some (fCI 0x21 0 sd.toNat sa.toNat imm.toNat)
  | .ori sd sa imm => some (fCI 0x22 0 sd.toNat sa.toNat imm.toNat)
  | .xori sd sa imm => some (fCI 0x23 0 sd.toNat sa.toNat imm.toNat)
  | .shli sd sa imm => some (fCI 0x24 0 sd.toNat sa.toNat imm.toNat)
  | .shri sd sa imm => some (fCI 0x25 0 sd.toNat sa.toNat imm.toNat)
  | .srai sd sa imm => some (fCI 0x26 0 sd.toNat sa.toNat imm.toNat)
  | .muli sd sa imm => some (fCI 0x27 0 sd.toNat sa.toNat imm.toNat)
  | .cmpi cond sd sa imm => some (fCI 0x28 (cond.toNat * 4) sd.toNat sa.toNat imm.toNat)
  | .li sd imm => some (fCI 0x29 0 sd.toNat 0 imm.toNat)
  | .lih sd sa imm => some (fCI 0x2A 0 sd.toNat sa.toNat imm.toNat)
  | .br off => some (fCB 0x30 0 0 0 0 off.toNat)
  | .bc cond sa sb off => some (fCB 0x31 (cond.toNat * 4) sa.toNat sb.toNat 0 off.toNat)
  | .bf fs test inv off => some (fCB 0x32 (fs.toNat * 8 + test.toNat * 2 + b2n inv) 0 0 0 off.toNat)
  | .jr sa => some (fCR 0x33 0 sa.toNat 0 0 0)
  | .call sd off => some (fCB 0x34 0 0 0 sd.toNat off.toNat)
  | .loopr sd off => some (fCB 0x35 0 0 0 sd.toNat off.toNat)
  | .pop s n => some (fCQ 0x38 0 s.toNat n.toNat)
  | .push s n => some (fCQ 0x39 0 s.toNat n.toNat)
  | .qlen s n => some (fCQ 0x3A 0 s.toNat n.toNat)
  | .rdfs s n => some (fCQ 0x3B 0 s.toNat n.toNat)
  | .csrr sd csr => some (fCX 0x40 0 sd.toNat 0 csr.toNat 0)
  | .csrw csr sa => some (fCX 0x41 0 0 sa.toNat csr.toNat 0)
  | .csrs csr sa => some (fCX 0x42 0 0 sa.toNat csr.toNat 0)
  | .csrc csr sa => some (fCX 0x43 0 0 sa.toNat csr.toNat 0)
  | .rand u sd sa sb => some (fCR 0x44 (b2n u) sd.toNat sa.toNat sb.toNat 0)
  | .btr sd idx => some (fCX 0x45 0 sd.toNat 0 idx.toNat 0)
  | .btw idx sa => some (fCX 0x46 0 0 sa.toNat idx.toNat 0)
  | .lcw eng idx sa => some (fCX 0x47 (eng.toNat) 0 sa.toNat idx.toNat 0)
  | .harr idx => some (fCX 0x48 0 0 0 idx.toNat 0)
  | .hwt idx => some (fCX 0x49 0 0 0 idx.toNat 0)
  | .hset idx sa => some (fCX 0x4A 0 0 sa.toNat idx.toNat 0)
  | .hpoll sd idx => some (fCX 0x4B 0 sd.toNat 0 idx.toNat 0)
  | .lnch sa => some (fCR 0x50 0 0 sa.toNat 0 0)
  | .fcrd sd idx => some (fCX 0x51 0 sd.toNat 0 idx.toNat 0)
  | .fcw idx sa => some (fCX 0x52 0 0 sa.toNat idx.toNat 0)
  | .fcwt idx sa => some (fCX 0x53 0 0 sa.toNat idx.toNat 0)
  | .cncl lvl sa => some (fCR 0x54 (lvl.toNat) 0 sa.toNat 0 0)
  | .lvwt lvl sa sb => some (fCR 0x55 (lvl.toNat) 0 sa.toNat sb.toNat 0)
  | .phint imm => some (fCX 0x58 0 0 0 0 imm.toNat)
  | .yield imm => some (fCX 0x59 0 0 0 0 imm.toNat)
  | .trace sa imm => some (fCX 0x5A 0 0 sa.toNat 0 imm.toNat)
  | .trap imm => some (fCX 0x5B 0 0 0 0 imm.toNat)
  | .shi sd imm => some (fCX 0x60 0 sd.toNat 0 0 imm.toNat)
  | .xlin sa sb => some (fCR 0x61 0 0 sa.toNat sb.toNat 0)
  | .shret => some (wOp 0x62 0)
  | _ => none

/-- The instruction that OP names in the map of strand C (R78), its fields taken from their places. -/
def decC (w : Nat) : Option Instr :=
  match bits w 59 53 with
  | 0x00 => some .nop
  | 0x01 => some .fin
  | 0x08 => some (.add (BitVec.ofNat 6 (bits w 47 42)) (BitVec.ofNat 6 (bits w 41 36)) (BitVec.ofNat 6 (bits w 35 30)))
  | 0x09 => some (.sub (BitVec.ofNat 6 (bits w 47 42)) (BitVec.ofNat 6 (bits w 41 36)) (BitVec.ofNat 6 (bits w 35 30)))
  | 0x0A => some (.and (BitVec.ofNat 6 (bits w 47 42)) (BitVec.ofNat 6 (bits w 41 36)) (BitVec.ofNat 6 (bits w 35 30)))
  | 0x0B => some (.or (BitVec.ofNat 6 (bits w 47 42)) (BitVec.ofNat 6 (bits w 41 36)) (BitVec.ofNat 6 (bits w 35 30)))
  | 0x0C => some (.xor (BitVec.ofNat 6 (bits w 47 42)) (BitVec.ofNat 6 (bits w 41 36)) (BitVec.ofNat 6 (bits w 35 30)))
  | 0x0D => some (.shl (BitVec.ofNat 6 (bits w 47 42)) (BitVec.ofNat 6 (bits w 41 36)) (BitVec.ofNat 6 (bits w 35 30)))
  | 0x0E => some (.shr (BitVec.ofNat 6 (bits w 47 42)) (BitVec.ofNat 6 (bits w 41 36)) (BitVec.ofNat 6 (bits w 35 30)))
  | 0x0F => some (.sra (BitVec.ofNat 6 (bits w 47 42)) (BitVec.ofNat 6 (bits w 41 36)) (BitVec.ofNat 6 (bits w 35 30)))
  | 0x10 => some (.mul (BitVec.ofNat 6 (bits w 47 42)) (BitVec.ofNat 6 (bits w 41 36)) (BitVec.ofNat 6 (bits w 35 30)))
  | 0x11 => some (.mulh (bitAt w 48) (BitVec.ofNat 6 (bits w 47 42)) (BitVec.ofNat 6 (bits w 41 36)) (BitVec.ofNat 6 (bits w 35 30)))
  | 0x12 => some (.div (bitAt w 48) (BitVec.ofNat 6 (bits w 47 42)) (BitVec.ofNat 6 (bits w 41 36)) (BitVec.ofNat 6 (bits w 35 30)))
  | 0x13 => some (.rem (bitAt w 48) (BitVec.ofNat 6 (bits w 47 42)) (BitVec.ofNat 6 (bits w 41 36)) (BitVec.ofNat 6 (bits w 35 30)))
  | 0x14 => some (.min (bitAt w 48) (BitVec.ofNat 6 (bits w 47 42)) (BitVec.ofNat 6 (bits w 41 36)) (BitVec.ofNat 6 (bits w 35 30)))
  | 0x15 => some (.max (bitAt w 48) (BitVec.ofNat 6 (bits w 47 42)) (BitVec.ofNat 6 (bits w 41 36)) (BitVec.ofNat 6 (bits w 35 30)))
  | 0x16 => some (.cmp (BitVec.ofNat 3 (bits w 52 50)) (BitVec.ofNat 6 (bits w 47 42)) (BitVec.ofNat 6 (bits w 41 36)) (BitVec.ofNat 6 (bits w 35 30)))
  | 0x17 => some (.sel (BitVec.ofNat 6 (bits w 47 42)) (BitVec.ofNat 6 (bits w 41 36)) (BitVec.ofNat 6 (bits w 35 30)) (BitVec.ofNat 6 (bits w 29 24)))
  | 0x18 => some (.ext (bitAt w 50) (BitVec.ofNat 2 (bits w 49 48)) (BitVec.ofNat 6 (bits w 47 42)) (BitVec.ofNat 6 (bits w 41 36)))
  | 0x19 => some (.bitc (BitVec.ofNat 2 (bits w 49 48)) (BitVec.ofNat 6 (bits w 47 42)) (BitVec.ofNat 6 (bits w 41 36)))
  | 0x20 => some (.addi (BitVec.ofNat 6 (bits w 47 42)) (BitVec.ofNat 6 (bits w 41 36)) (BitVec.ofNat 32 (bits w 31 0)))
  | 0x21 => some (.andi (BitVec.ofNat 6 (bits w 47 42)) (BitVec.ofNat 6 (bits w 41 36)) (BitVec.ofNat 32 (bits w 31 0)))
  | 0x22 => some (.ori (BitVec.ofNat 6 (bits w 47 42)) (BitVec.ofNat 6 (bits w 41 36)) (BitVec.ofNat 32 (bits w 31 0)))
  | 0x23 => some (.xori (BitVec.ofNat 6 (bits w 47 42)) (BitVec.ofNat 6 (bits w 41 36)) (BitVec.ofNat 32 (bits w 31 0)))
  | 0x24 => some (.shli (BitVec.ofNat 6 (bits w 47 42)) (BitVec.ofNat 6 (bits w 41 36)) (BitVec.ofNat 32 (bits w 31 0)))
  | 0x25 => some (.shri (BitVec.ofNat 6 (bits w 47 42)) (BitVec.ofNat 6 (bits w 41 36)) (BitVec.ofNat 32 (bits w 31 0)))
  | 0x26 => some (.srai (BitVec.ofNat 6 (bits w 47 42)) (BitVec.ofNat 6 (bits w 41 36)) (BitVec.ofNat 32 (bits w 31 0)))
  | 0x27 => some (.muli (BitVec.ofNat 6 (bits w 47 42)) (BitVec.ofNat 6 (bits w 41 36)) (BitVec.ofNat 32 (bits w 31 0)))
  | 0x28 => some (.cmpi (BitVec.ofNat 3 (bits w 52 50)) (BitVec.ofNat 6 (bits w 47 42)) (BitVec.ofNat 6 (bits w 41 36)) (BitVec.ofNat 32 (bits w 31 0)))
  | 0x29 => some (.li (BitVec.ofNat 6 (bits w 47 42)) (BitVec.ofNat 32 (bits w 31 0)))
  | 0x2A => some (.lih (BitVec.ofNat 6 (bits w 47 42)) (BitVec.ofNat 6 (bits w 41 36)) (BitVec.ofNat 32 (bits w 31 0)))
  | 0x30 => some (.br (BitVec.ofNat 21 (bits w 20 0)))
  | 0x31 => some (.bc (BitVec.ofNat 3 (bits w 52 50)) (BitVec.ofNat 6 (bits w 47 42)) (BitVec.ofNat 6 (bits w 41 36)) (BitVec.ofNat 21 (bits w 20 0)))
  | 0x32 => some (.bf (BitVec.ofNat 2 (bits w 52 51)) (BitVec.ofNat 2 (bits w 50 49)) (bitAt w 48) (BitVec.ofNat 21 (bits w 20 0)))
  | 0x33 => some (.jr (BitVec.ofNat 6 (bits w 47 42)))
  | 0x34 => some (.call (BitVec.ofNat 6 (bits w 35 30)) (BitVec.ofNat 21 (bits w 20 0)))
  | 0x35 => some (.loopr (BitVec.ofNat 6 (bits w 35 30)) (BitVec.ofNat 21 (bits w 20 0)))
  | 0x38 => some (.pop (BitVec.ofNat 6 (bits w 47 42)) (BitVec.ofNat 4 (bits w 41 38)))
  | 0x39 => some (.push (BitVec.ofNat 6 (bits w 47 42)) (BitVec.ofNat 4 (bits w 41 38)))
  | 0x3A => some (.qlen (BitVec.ofNat 6 (bits w 47 42)) (BitVec.ofNat 4 (bits w 41 38)))
  | 0x3B => some (.rdfs (BitVec.ofNat 6 (bits w 47 42)) (BitVec.ofNat 4 (bits w 41 38)))
  | 0x40 => some (.csrr (BitVec.ofNat 6 (bits w 47 42)) (BitVec.ofNat 12 (bits w 35 24)))
  | 0x41 => some (.csrw (BitVec.ofNat 12 (bits w 35 24)) (BitVec.ofNat 6 (bits w 41 36)))
  | 0x42 => some (.csrs (BitVec.ofNat 12 (bits w 35 24)) (BitVec.ofNat 6 (bits w 41 36)))
  | 0x43 => some (.csrc (BitVec.ofNat 12 (bits w 35 24)) (BitVec.ofNat 6 (bits w 41 36)))
  | 0x44 => some (.rand (bitAt w 48) (BitVec.ofNat 6 (bits w 47 42)) (BitVec.ofNat 6 (bits w 41 36)) (BitVec.ofNat 6 (bits w 35 30)))
  | 0x45 => some (.btr (BitVec.ofNat 6 (bits w 47 42)) (BitVec.ofNat 12 (bits w 35 24)))
  | 0x46 => some (.btw (BitVec.ofNat 12 (bits w 35 24)) (BitVec.ofNat 6 (bits w 41 36)))
  | 0x47 => some (.lcw (BitVec.ofNat 2 (bits w 49 48)) (BitVec.ofNat 12 (bits w 35 24)) (BitVec.ofNat 6 (bits w 41 36)))
  | 0x48 => some (.harr (BitVec.ofNat 12 (bits w 35 24)))
  | 0x49 => some (.hwt (BitVec.ofNat 12 (bits w 35 24)))
  | 0x4A => some (.hset (BitVec.ofNat 12 (bits w 35 24)) (BitVec.ofNat 6 (bits w 41 36)))
  | 0x4B => some (.hpoll (BitVec.ofNat 6 (bits w 47 42)) (BitVec.ofNat 12 (bits w 35 24)))
  | 0x50 => some (.lnch (BitVec.ofNat 6 (bits w 41 36)))
  | 0x51 => some (.fcrd (BitVec.ofNat 6 (bits w 47 42)) (BitVec.ofNat 12 (bits w 35 24)))
  | 0x52 => some (.fcw (BitVec.ofNat 12 (bits w 35 24)) (BitVec.ofNat 6 (bits w 41 36)))
  | 0x53 => some (.fcwt (BitVec.ofNat 12 (bits w 35 24)) (BitVec.ofNat 6 (bits w 41 36)))
  | 0x54 => some (.cncl (BitVec.ofNat 2 (bits w 49 48)) (BitVec.ofNat 6 (bits w 41 36)))
  | 0x55 => some (.lvwt (BitVec.ofNat 2 (bits w 49 48)) (BitVec.ofNat 6 (bits w 41 36)) (BitVec.ofNat 6 (bits w 35 30)))
  | 0x58 => some (.phint (BitVec.ofNat 24 (bits w 23 0)))
  | 0x59 => some (.yield (BitVec.ofNat 24 (bits w 23 0)))
  | 0x5A => some (.trace (BitVec.ofNat 6 (bits w 41 36)) (BitVec.ofNat 24 (bits w 23 0)))
  | 0x5B => some (.trap (BitVec.ofNat 24 (bits w 23 0)))
  | 0x60 => some (.shi (BitVec.ofNat 6 (bits w 47 42)) (BitVec.ofNat 24 (bits w 23 0)))
  | 0x61 => some (.xlin (BitVec.ofNat 6 (bits w 41 36)) (BitVec.ofNat 6 (bits w 35 30)))
  | 0x62 => some .shret
  | _ => none

/-- Bits 62:0 but D of a word of strand V (R84): OP, MOD and OPS. -/
def encV : Instr → Option Nat
  | .nop => some (wOp 0x00 0)
  | .fin => some (wOp 0x01 0)
  | .jmp off => some (fJ 0x02 0 off.toNat)
  | .lpf off => some (fJ 0x03 0 off.toNat)
  | .pblk pattern cnt kp => some (fVB 0x04 0 pattern.toNat cnt.toNat kp.toNat)
  | .vadd o rm => some (fVR 0x08 (rm.toNat * 4) o 0)
  | .vsub o rm => some (fVR 0x09 (rm.toNat * 4) o 0)
  | .vmul o rm => some (fVR 0x0A (rm.toNat * 4) o 0)
  | .vfma o rm => some (fVR 0x0B (rm.toNat * 4) o 0)
  | .vfms o rm => some (fVR 0x0C (rm.toNat * 4) o 0)
  | .vfnma o rm => some (fVR 0x0D (rm.toNat * 4) o 0)
  | .vmax o => some (fVR 0x0E 0 o 0)
  | .vmin o => some (fVR 0x0F 0 o 0)
  | .vabs o => some (fVR 0x10 0 o 0)
  | .vneg o => some (fVR 0x11 0 o 0)
  | .vmov o => some (fVR 0x13 0 o 0)
  | .vexp2 o rm => some (fVR 0x18 (rm.toNat * 4) o 0)
  | .vlog2 o rm => some (fVR 0x19 (rm.toNat * 4) o 0)
  | .vrcpe o => some (fVR 0x1A 0 o 0)
  | .vrsqe o => some (fVR 0x1B 0 o 0)
  | .vrcpn o => some (fVR 0x1C 0 o 0)
  | .vrsqn o => some (fVR 0x1D 0 o 0)
  | .viadd o lt => some (fVR 0x20 0 o (lt.toNat * 32))
  | .visub o lt => some (fVR 0x21 0 o (lt.toNat * 32))
  | .vimul o lt => some (fVR 0x22 0 o (lt.toNat * 32))
  | .vimulh o lt => some (fVR 0x23 0 o (lt.toNat * 32))
  | .vimin o lt => some (fVR 0x24 0 o (lt.toNat * 32))
  | .vimax o lt => some (fVR 0x25 0 o (lt.toNat * 32))
  | .viand o lt => some (fVR 0x26 0 o (lt.toNat * 32))
  | .vior o lt => some (fVR 0x27 0 o (lt.toNat * 32))
  | .vixor o lt => some (fVR 0x28 0 o (lt.toNat * 32))
  | .vishl o lt => some (fVR 0x29 0 o (lt.toNat * 32))
  | .vishr o lt => some (fVR 0x2A 0 o (lt.toNat * 32))
  | .visra o lt => some (fVR 0x2B 0 o (lt.toNat * 32))
  | .viabs o lt => some (fVR 0x2C 0 o (lt.toNat * 32))
  | .viota o lt k => some (fVR 0x2D (k.toNat) o (lt.toNat * 32))
  | .vcvt o rm fmt x sat => some (fVR 0x30 (rm.toNat * 4) o (fmt.toNat * 8 + b2n x * 4 + b2n sat * 2))
  | .vwid o part fmt x => some (fVR 0x31 (part.toNat) o (fmt.toNat * 8 + b2n x * 4))
  | .vcvti o rm lt => some (fVR 0x32 (rm.toNat * 4) o (lt.toNat * 32))
  | .vcvtf o rm lt => some (fVR 0x33 (rm.toNat * 4) o (lt.toNat * 32))
  | .vicvt o dt sl sat => some (fVR 0x34 0 o (dt.toNat * 32 + sl.toNat * 4 + b2n sat * 2))
  | .vrrot o => some (fVR 0x38 0 o 0)
  | .vcrot o => some (fVR 0x39 0 o 0)
  | .vrbc o => some (fVR 0x3A 0 o 0)
  | .vcbc o => some (fVR 0x3B 0 o 0)
  | .vrred o k => some (fVR 0x3C (k.toNat) o 0)
  | .vcred o k => some (fVR 0x3D (k.toNat) o 0)
  | .vrscan o k => some (fVR 0x3E (k.toNat) o 0)
  | .vcscan o k => some (fVR 0x3F (k.toNat) o 0)
  | .vbstep o b j dir => some (fVR 0x40 (b.toNat * 4) o (j.toNat * 32 + b2n dir * 16))
  | .vcmp o cond => some (fVP 0x48 (cond.toNat * 4) o)
  | .vicmp o cond => some (fVP 0x49 (cond.toNat * 4) o)
  | .kand o => some (fVP 0x4A 0 o)
  | .kor o => some (fVP 0x4B 0 o)
  | .kxor o => some (fVP 0x4C 0 o)
  | .kandn o => some (fVP 0x4D 0 o)
  | .knot o => some (fVP 0x4E 0 o)
  | .kmov o => some (fVP 0x4F 0 o)
  | .kset o k => some (fVP 0x50 (k.toNat) o)
  | .ptest o => some (fVP 0x51 0 o)
  | .vacrr o => some (fVA 0x58 0 o)
  | .vaccr o => some (fVA 0x59 0 o)
  | .vacrw o => some (fVA 0x5A 0 o)
  | .vaccw o => some (fVA 0x5B 0 o)
  | .vacsr o k => some (fVA 0x5C (k.toNat) o)
  | .vacsw o k => some (fVA 0x5D (k.toNat) o)
  | _ => none

/-- The instruction that OP names in the map of strand V (R84), its fields taken from their places. -/
def decV (w : Nat) : Option Instr :=
  match bits w 59 53 with
  | 0x00 => some .nop
  | 0x01 => some .fin
  | 0x02 => some (.jmp (BitVec.ofNat 21 (bits w 20 0)))
  | 0x03 => some (.lpf (BitVec.ofNat 21 (bits w 20 0)))
  | 0x04 => some (.pblk (BitVec.ofNat 8 (bits w 47 40)) (BitVec.ofNat 3 (bits w 39 37)) (BitVec.ofNat 5 (bits w 36 32)))
  | 0x08 => some (.vadd (decVR w) (BitVec.ofNat 3 (bits w 52 50)))
  | 0x09 => some (.vsub (decVR w) (BitVec.ofNat 3 (bits w 52 50)))
  | 0x0A => some (.vmul (decVR w) (BitVec.ofNat 3 (bits w 52 50)))
  | 0x0B => some (.vfma (decVR w) (BitVec.ofNat 3 (bits w 52 50)))
  | 0x0C => some (.vfms (decVR w) (BitVec.ofNat 3 (bits w 52 50)))
  | 0x0D => some (.vfnma (decVR w) (BitVec.ofNat 3 (bits w 52 50)))
  | 0x0E => some (.vmax (decVR w))
  | 0x0F => some (.vmin (decVR w))
  | 0x10 => some (.vabs (decVR w))
  | 0x11 => some (.vneg (decVR w))
  | 0x13 => some (.vmov (decVR w))
  | 0x18 => some (.vexp2 (decVR w) (BitVec.ofNat 3 (bits w 52 50)))
  | 0x19 => some (.vlog2 (decVR w) (BitVec.ofNat 3 (bits w 52 50)))
  | 0x1A => some (.vrcpe (decVR w))
  | 0x1B => some (.vrsqe (decVR w))
  | 0x1C => some (.vrcpn (decVR w))
  | 0x1D => some (.vrsqn (decVR w))
  | 0x20 => some (.viadd (decVR w) (BitVec.ofNat 3 (bits w 7 5)))
  | 0x21 => some (.visub (decVR w) (BitVec.ofNat 3 (bits w 7 5)))
  | 0x22 => some (.vimul (decVR w) (BitVec.ofNat 3 (bits w 7 5)))
  | 0x23 => some (.vimulh (decVR w) (BitVec.ofNat 3 (bits w 7 5)))
  | 0x24 => some (.vimin (decVR w) (BitVec.ofNat 3 (bits w 7 5)))
  | 0x25 => some (.vimax (decVR w) (BitVec.ofNat 3 (bits w 7 5)))
  | 0x26 => some (.viand (decVR w) (BitVec.ofNat 3 (bits w 7 5)))
  | 0x27 => some (.vior (decVR w) (BitVec.ofNat 3 (bits w 7 5)))
  | 0x28 => some (.vixor (decVR w) (BitVec.ofNat 3 (bits w 7 5)))
  | 0x29 => some (.vishl (decVR w) (BitVec.ofNat 3 (bits w 7 5)))
  | 0x2A => some (.vishr (decVR w) (BitVec.ofNat 3 (bits w 7 5)))
  | 0x2B => some (.visra (decVR w) (BitVec.ofNat 3 (bits w 7 5)))
  | 0x2C => some (.viabs (decVR w) (BitVec.ofNat 3 (bits w 7 5)))
  | 0x2D => some (.viota (decVR w) (BitVec.ofNat 3 (bits w 7 5)) (BitVec.ofNat 2 (bits w 49 48)))
  | 0x30 => some (.vcvt (decVR w) (BitVec.ofNat 3 (bits w 52 50)) (BitVec.ofNat 5 (bits w 7 3)) (bitAt w 2) (bitAt w 1))
  | 0x31 => some (.vwid (decVR w) (BitVec.ofNat 2 (bits w 49 48)) (BitVec.ofNat 5 (bits w 7 3)) (bitAt w 2))
  | 0x32 => some (.vcvti (decVR w) (BitVec.ofNat 3 (bits w 52 50)) (BitVec.ofNat 3 (bits w 7 5)))
  | 0x33 => some (.vcvtf (decVR w) (BitVec.ofNat 3 (bits w 52 50)) (BitVec.ofNat 3 (bits w 7 5)))
  | 0x34 => some (.vicvt (decVR w) (BitVec.ofNat 3 (bits w 7 5)) (BitVec.ofNat 3 (bits w 4 2)) (bitAt w 1))
  | 0x38 => some (.vrrot (decVR w))
  | 0x39 => some (.vcrot (decVR w))
  | 0x3A => some (.vrbc (decVR w))
  | 0x3B => some (.vcbc (decVR w))
  | 0x3C => some (.vrred (decVR w) (BitVec.ofNat 2 (bits w 49 48)))
  | 0x3D => some (.vcred (decVR w) (BitVec.ofNat 2 (bits w 49 48)))
  | 0x3E => some (.vrscan (decVR w) (BitVec.ofNat 2 (bits w 49 48)))
  | 0x3F => some (.vcscan (decVR w) (BitVec.ofNat 2 (bits w 49 48)))
  | 0x40 => some (.vbstep (decVR w) (BitVec.ofNat 3 (bits w 52 50)) (BitVec.ofNat 3 (bits w 7 5)) (bitAt w 4))
  | 0x48 => some (.vcmp (decVP w) (BitVec.ofNat 3 (bits w 52 50)))
  | 0x49 => some (.vicmp (decVP w) (BitVec.ofNat 3 (bits w 52 50)))
  | 0x4A => some (.kand (decVP w))
  | 0x4B => some (.kor (decVP w))
  | 0x4C => some (.kxor (decVP w))
  | 0x4D => some (.kandn (decVP w))
  | 0x4E => some (.knot (decVP w))
  | 0x4F => some (.kmov (decVP w))
  | 0x50 => some (.kset (decVP w) (BitVec.ofNat 2 (bits w 49 48)))
  | 0x51 => some (.ptest (decVP w))
  | 0x58 => some (.vacrr (decVA w))
  | 0x59 => some (.vaccr (decVA w))
  | 0x5A => some (.vacrw (decVA w))
  | 0x5B => some (.vaccw (decVA w))
  | 0x5C => some (.vacsr (decVA w) (BitVec.ofNat 2 (bits w 49 48)))
  | 0x5D => some (.vacsw (decVA w) (BitVec.ofNat 2 (bits w 49 48)))
  | _ => none

/-- Bits 62:0 but D of a word of strand D (R88): OP, MOD and OPS. -/
def encD : Instr → Option Nat
  | .nop => some (wOp 0x00 0)
  | .fin => some (wOp 0x01 0)
  | .jmp off => some (fJ 0x02 0 off.toNat)
  | .lpf off => some (fJ 0x03 0 off.toNat)
  | .stset st fld sa => some (fDS 0x08 0 st.toNat fld.toNat sa.toNat 0)
  | .stld st sa => some (fDS 0x09 0 st.toNat 0 sa.toNat 0)
  | .stsv st sa => some (fDS 0x0A 0 st.toNat 0 sa.toNat 0)
  | .srd st sa imm => some (fDS 0x0B 0 st.toNat 0 sa.toNat imm.toNat)
  | .swr st sa imm => some (fDS 0x0C 0 st.toNat 0 sa.toNat imm.toNat)
  | .sstop st => some (fDS 0x0D 0 st.toNat 0 0 0)
  | .lds sx sz qs sa off => some (fDM 0x10 (b2n sx * 4 + sz.toNat) sa.toNat 0 0 (b2n qs) off.toNat)
  | .sts sz sa off => some (fDM 0x11 (sz.toNat) sa.toNat 0 0 0 off.toNat)
  | .aadd w qs sa sb off => some (fDM 0x18 (b2n w) sa.toNat sb.toNat 0 (b2n qs) off.toNat)
  | .amin n w qs sa sb off => some (fDM 0x19 (b2n n * 2 + b2n w) sa.toNat sb.toNat 0 (b2n qs) off.toNat)
  | .amax n w qs sa sb off => some (fDM 0x1A (b2n n * 2 + b2n w) sa.toNat sb.toNat 0 (b2n qs) off.toNat)
  | .aand w qs sa sb off => some (fDM 0x1B (b2n w) sa.toNat sb.toNat 0 (b2n qs) off.toNat)
  | .aor w qs sa sb off => some (fDM 0x1C (b2n w) sa.toNat sb.toNat 0 (b2n qs) off.toNat)
  | .axor w qs sa sb off => some (fDM 0x1D (b2n w) sa.toNat sb.toNat 0 (b2n qs) off.toNat)
  | .axchg w qs sa sb off => some (fDM 0x1E (b2n w) sa.toNat sb.toNat 0 (b2n qs) off.toNat)
  | .acas w qs sa sb sc off => some (fDM 0x1F (b2n w) sa.toNat sb.toNat sc.toNat (b2n qs) off.toNat)
  | .afadd qs sa sb off => some (fDM 0x20 0 sa.toNat sb.toNat 0 (b2n qs) off.toNat)
  | .rgset rg fld sa => some (fDR 0x28 0 rg.toNat fld.toNat sa.toNat 0)
  | .rgrd qs rg fld => some (fDR 0x29 0 rg.toNat fld.toNat 0 (b2n qs))
  | .rpush rg => some (fDR 0x2A 0 rg.toNat 0 0 0)
  | .mark => some (wOp 0x30 0)
  | .fence scope sc => some (wOp 0x31 (scope.toNat * 4 + b2n sc * 2))
  | .xfence scope => some (wOp 0x32 (scope.toNat * 4))
  | .spt qs sa => some (fDM 0x38 0 sa.toNat 0 0 (b2n qs) 0)
  | .spc cs qs sa sb => some (fDM 0x39 (b2n cs) sa.toNat sb.toNat 0 (b2n qs) 0)
  | _ => none

/-- The instruction that OP names in the map of strand D (R88), its fields taken from their places. -/
def decD (w : Nat) : Option Instr :=
  match bits w 59 53 with
  | 0x00 => some .nop
  | 0x01 => some .fin
  | 0x02 => some (.jmp (BitVec.ofNat 21 (bits w 20 0)))
  | 0x03 => some (.lpf (BitVec.ofNat 21 (bits w 20 0)))
  | 0x08 => some (.stset (BitVec.ofNat 4 (bits w 47 44)) (BitVec.ofNat 4 (bits w 43 40)) (BitVec.ofNat 6 (bits w 39 34)))
  | 0x09 => some (.stld (BitVec.ofNat 4 (bits w 47 44)) (BitVec.ofNat 6 (bits w 39 34)))
  | 0x0A => some (.stsv (BitVec.ofNat 4 (bits w 47 44)) (BitVec.ofNat 6 (bits w 39 34)))
  | 0x0B => some (.srd (BitVec.ofNat 4 (bits w 47 44)) (BitVec.ofNat 6 (bits w 39 34)) (BitVec.ofNat 16 (bits w 15 0)))
  | 0x0C => some (.swr (BitVec.ofNat 4 (bits w 47 44)) (BitVec.ofNat 6 (bits w 39 34)) (BitVec.ofNat 16 (bits w 15 0)))
  | 0x0D => some (.sstop (BitVec.ofNat 4 (bits w 47 44)))
  | 0x10 => some (.lds (bitAt w 50) (BitVec.ofNat 2 (bits w 49 48)) (bitAt w 29) (BitVec.ofNat 6 (bits w 47 42)) (BitVec.ofNat 16 (bits w 15 0)))
  | 0x11 => some (.sts (BitVec.ofNat 2 (bits w 49 48)) (BitVec.ofNat 6 (bits w 47 42)) (BitVec.ofNat 16 (bits w 15 0)))
  | 0x18 => some (.aadd (bitAt w 48) (bitAt w 29) (BitVec.ofNat 6 (bits w 47 42)) (BitVec.ofNat 6 (bits w 41 36)) (BitVec.ofNat 16 (bits w 15 0)))
  | 0x19 => some (.amin (bitAt w 49) (bitAt w 48) (bitAt w 29) (BitVec.ofNat 6 (bits w 47 42)) (BitVec.ofNat 6 (bits w 41 36)) (BitVec.ofNat 16 (bits w 15 0)))
  | 0x1A => some (.amax (bitAt w 49) (bitAt w 48) (bitAt w 29) (BitVec.ofNat 6 (bits w 47 42)) (BitVec.ofNat 6 (bits w 41 36)) (BitVec.ofNat 16 (bits w 15 0)))
  | 0x1B => some (.aand (bitAt w 48) (bitAt w 29) (BitVec.ofNat 6 (bits w 47 42)) (BitVec.ofNat 6 (bits w 41 36)) (BitVec.ofNat 16 (bits w 15 0)))
  | 0x1C => some (.aor (bitAt w 48) (bitAt w 29) (BitVec.ofNat 6 (bits w 47 42)) (BitVec.ofNat 6 (bits w 41 36)) (BitVec.ofNat 16 (bits w 15 0)))
  | 0x1D => some (.axor (bitAt w 48) (bitAt w 29) (BitVec.ofNat 6 (bits w 47 42)) (BitVec.ofNat 6 (bits w 41 36)) (BitVec.ofNat 16 (bits w 15 0)))
  | 0x1E => some (.axchg (bitAt w 48) (bitAt w 29) (BitVec.ofNat 6 (bits w 47 42)) (BitVec.ofNat 6 (bits w 41 36)) (BitVec.ofNat 16 (bits w 15 0)))
  | 0x1F => some (.acas (bitAt w 48) (bitAt w 29) (BitVec.ofNat 6 (bits w 47 42)) (BitVec.ofNat 6 (bits w 41 36)) (BitVec.ofNat 6 (bits w 35 30)) (BitVec.ofNat 16 (bits w 15 0)))
  | 0x20 => some (.afadd (bitAt w 29) (BitVec.ofNat 6 (bits w 47 42)) (BitVec.ofNat 6 (bits w 41 36)) (BitVec.ofNat 16 (bits w 15 0)))
  | 0x28 => some (.rgset (BitVec.ofNat 3 (bits w 47 45)) (BitVec.ofNat 5 (bits w 44 40)) (BitVec.ofNat 6 (bits w 39 34)))
  | 0x29 => some (.rgrd (bitAt w 33) (BitVec.ofNat 3 (bits w 47 45)) (BitVec.ofNat 5 (bits w 44 40)))
  | 0x2A => some (.rpush (BitVec.ofNat 3 (bits w 47 45)))
  | 0x30 => some .mark
  | 0x31 => some (.fence (BitVec.ofNat 3 (bits w 52 50)) (bitAt w 49))
  | 0x32 => some (.xfence (BitVec.ofNat 3 (bits w 52 50)))
  | 0x38 => some (.spt (bitAt w 29) (BitVec.ofNat 6 (bits w 47 42)))
  | 0x39 => some (.spc (bitAt w 48) (bitAt w 29) (BitVec.ofNat 6 (bits w 47 42)) (BitVec.ofNat 6 (bits w 41 36)))
  | _ => none

/-- Bits 62:0 but D of a word of strand E (R91): OP, MOD and OPS. -/
def encE : Instr → Option Nat
  | .nop => some (wOp 0x00 0)
  | .fin => some (wOp 0x01 0)
  | .jmp off => some (fJ 0x02 0 off.toNat)
  | .lpf off => some (fJ 0x03 0 off.toNat)
  | .post eng sa => some (fEP 0x08 0 eng.toNat sa.toNat)
  | .tadv eng sa => some (fEP 0x09 0 eng.toNat sa.toNat)
  | .cseq eng => some (fEP 0x0A 0 eng.toNat 0)
  | .cwait eng sa => some (fEP 0x0B 0 eng.toNat sa.toNat)
  | .fsend o fid sa sb fc => some (fEF 0x10 (b2n o) fid.toNat sa.toNat sb.toNat fc.toNat)
  | .fwait fc sa => some (fEF 0x11 0 0 sa.toNat 0 fc.toNat)
  | .aqry sa sb sc fc => some (fEQ 0x18 0 sa.toNat sb.toNat sc.toNat fc.toNat)
  | .topk k sa sb sc fc => some (fEQ 0x19 (k.toNat) sa.toNat sb.toNat sc.toNat fc.toNat)
  | .kvtrunc sa sb fc => some (fEQ 0x1A 0 sa.toNat sb.toNat 0 fc.toNat)
  | _ => none

/-- The instruction that OP names in the map of strand E (R91), its fields taken from their places. -/
def decE (w : Nat) : Option Instr :=
  match bits w 59 53 with
  | 0x00 => some .nop
  | 0x01 => some .fin
  | 0x02 => some (.jmp (BitVec.ofNat 21 (bits w 20 0)))
  | 0x03 => some (.lpf (BitVec.ofNat 21 (bits w 20 0)))
  | 0x08 => some (.post (BitVec.ofNat 2 (bits w 47 46)) (BitVec.ofNat 6 (bits w 45 40)))
  | 0x09 => some (.tadv (BitVec.ofNat 2 (bits w 47 46)) (BitVec.ofNat 6 (bits w 45 40)))
  | 0x0A => some (.cseq (BitVec.ofNat 2 (bits w 47 46)))
  | 0x0B => some (.cwait (BitVec.ofNat 2 (bits w 47 46)) (BitVec.ofNat 6 (bits w 45 40)))
  | 0x10 => some (.fsend (bitAt w 48) (BitVec.ofNat 20 (bits w 47 28)) (BitVec.ofNat 6 (bits w 27 22)) (BitVec.ofNat 6 (bits w 21 16)) (BitVec.ofNat 5 (bits w 15 11)))
  | 0x11 => some (.fwait (BitVec.ofNat 5 (bits w 15 11)) (BitVec.ofNat 6 (bits w 27 22)))
  | 0x18 => some (.aqry (BitVec.ofNat 6 (bits w 47 42)) (BitVec.ofNat 6 (bits w 41 36)) (BitVec.ofNat 6 (bits w 35 30)) (BitVec.ofNat 5 (bits w 29 25)))
  | 0x19 => some (.topk (BitVec.ofNat 3 (bits w 50 48)) (BitVec.ofNat 6 (bits w 47 42)) (BitVec.ofNat 6 (bits w 41 36)) (BitVec.ofNat 6 (bits w 35 30)) (BitVec.ofNat 5 (bits w 29 25)))
  | 0x1A => some (.kvtrunc (BitVec.ofNat 6 (bits w 47 42)) (BitVec.ofNat 6 (bits w 41 36)) (BitVec.ofNat 5 (bits w 29 25)))
  | _ => none

/-- OP, MOD and OPS of an instruction in a strand's map. -/
def encOps : Strand → Instr → Option Nat
  | .c, i => encC i
  | .v, i => encV i
  | .d, i => encD i
  | .e, i => encE i

/-- The instruction a strand's map reads in a word, fields as they stand. -/
def decOps : Strand → Nat → Option Instr
  | .c, w => decC w
  | .v, w => decV w
  | .d, w => decD w
  | .e, w => decE w

/-- S and D before OP, MOD and OPS (R70). -/
def slotWord (sync : Bool) (delay : BitVec 3) (n : Nat) : Nat := b2n sync * 2 ^ 63 + delay.toNat * 2 ^ 60 + n

/-- The slot word of an instruction of a strand (R70): S 63, D 62:60, then OP, MOD and OPS. -/
def encodeSlot (st : Strand) (x : Slot) : Option Nat := (encOps st x.instr).map (slotWord x.sync x.delay)

/-- Decoding of a 64-bit slot word fetched by a strand (R71, R72), rejecting by name. -/
def decodeSlot (st : Strand) (w : Nat) : Except DecodeError Slot :=
  match decOps st w with
  | none => .error .unassigned
  | some i =>
    let x : Slot := ⟨bitAt w 63, BitVec.ofNat 3 (bits w 62 60), i⟩
    if !i.wellFormed then .error .fieldValue
    else if encodeSlot st x = some w then .ok x else .error .reservedBits

/-! ## Engine records -/

/-- The record of an op and its fields as a 512-bit number (R92). -/
def encRec (opc : Nat) (r : Rec) : Nat :=
  opc + r.fl.toNat * 2 ^ 8 + r.fmt0.toNat * 2 ^ 16 + r.fmt1.toNat * 2 ^ 21 + r.fmt2.toNat * 2 ^ 26 +
  r.fmt3.toNat * 2 ^ 31 + r.stamp.toNat * 2 ^ 36 + r.trip0.toNat * 2 ^ 76 + r.trip1.toNat * 2 ^ 88 +
  r.trip2.toNat * 2 ^ 100 + r.trip3.toNat * 2 ^ 112 + r.rsv.toNat * 2 ^ 124 + r.od0.toNat * 2 ^ 128 +
  r.od1.toNat * 2 ^ 224 + r.od2.toNat * 2 ^ 320 + r.od3.toNat * 2 ^ 416

/-- The fields of a 512-bit record (R92). -/
def decRec (w : Nat) : Rec where
  od0 := BitVec.ofNat 96 (bits w 223 128)
  od1 := BitVec.ofNat 96 (bits w 319 224)
  od2 := BitVec.ofNat 96 (bits w 415 320)
  od3 := BitVec.ofNat 96 (bits w 511 416)
  trip0 := BitVec.ofNat 12 (bits w 87 76)
  trip1 := BitVec.ofNat 12 (bits w 99 88)
  trip2 := BitVec.ofNat 12 (bits w 111 100)
  trip3 := BitVec.ofNat 12 (bits w 123 112)
  stamp := BitVec.ofNat 40 (bits w 75 36)
  fmt0 := BitVec.ofNat 5 (bits w 20 16)
  fmt1 := BitVec.ofNat 5 (bits w 25 21)
  fmt2 := BitVec.ofNat 5 (bits w 30 26)
  fmt3 := BitVec.ofNat 5 (bits w 35 31)
  fl := BitVec.ofNat 8 (bits w 15 8)
  rsv := BitVec.ofNat 4 (bits w 127 124)

/-- The record ops of R97: an instruction's code and fields. -/
def recOf : Instr → Option (Nat × Rec)
  | .linkRecord r => some (0x01, r)
  | .nil r => some (0x02, r)
  | .mma r => some (0x10, r)
  | .mmai r => some (0x11, r)
  | .smxu r => some (0x12, r)
  | .smxm r => some (0x13, r)
  | .smxf r => some (0x14, r)
  | .acld r => some (0x15, r)
  | .acst r => some (0x16, r)
  | .aczr r => some (0x17, r)
  | .qscl r => some (0x20, r)
  | .qpak r => some (0x21, r)
  | .qdeq r => some (0x22, r)
  | .qcvt r => some (0x23, r)
  | .qamx r => some (0x24, r)
  | .copy r => some (0x30, r)
  | .gath r => some (0x31, r)
  | .scat r => some (0x32, r)
  | .fill r => some (0x33, r)
  | .fsnd r => some (0x40, r)
  | .fsig r => some (0x41, r)
  | .fdrp r => some (0x42, r)
  | _ => none

/-- The instruction that OPC names (R97). -/
def recInstr (opc : Nat) (r : Rec) : Option Instr :=
  match opc with
  | 0x01 => some (.linkRecord r)
  | 0x02 => some (.nil r)
  | 0x10 => some (.mma r)
  | 0x11 => some (.mmai r)
  | 0x12 => some (.smxu r)
  | 0x13 => some (.smxm r)
  | 0x14 => some (.smxf r)
  | 0x15 => some (.acld r)
  | 0x16 => some (.acst r)
  | 0x17 => some (.aczr r)
  | 0x20 => some (.qscl r)
  | 0x21 => some (.qpak r)
  | 0x22 => some (.qdeq r)
  | 0x23 => some (.qcvt r)
  | 0x24 => some (.qamx r)
  | 0x30 => some (.copy r)
  | 0x31 => some (.gath r)
  | 0x32 => some (.scat r)
  | 0x33 => some (.fill r)
  | 0x40 => some (.fsnd r)
  | 0x41 => some (.fsig r)
  | 0x42 => some (.fdrp r)
  | _ => none

/-- A record as its 512-bit number. -/
def encodeRecord (i : Instr) : Option Nat :=
  match recOf i with
  | some (opc, r) => some (encRec opc r)
  | none => none

/-- The instruction of a 512-bit record; `none` where OPC is unassigned (R98). The other checks of R98 are made by
the engine, with `Instr.wellFormed`. -/
def decodeRecord (w : Nat) : Option Instr := recInstr (bits w 7 0) (decRec w)

/-! ## Flow entries -/

/-- A flow entry of an op as a 256-bit number (R100). -/
def encFlow (op : Nat) (e : FlowEntry) : Nat :=
  e.fid.toNat + e.part.toNat * 2 ^ 20 + b2n e.v * 2 ^ 23 + op * 2 ^ 24 + e.fmt.toNat * 2 ^ 32 + b2n e.drv * 2 ^ 37 +
  e.rsv.toNat * 2 ^ 38 + e.ipm.toNat * 2 ^ 40 + e.ord.toNat * 2 ^ 47 + e.opm.toNat * 2 ^ 68 + b2n e.ren * 2 ^ 75 +
  e.nfid.toNat * 2 ^ 76 + e.slot.toNat * 2 ^ 96 + e.nslot.toNat * 2 ^ 104 + e.npkt.toNat * 2 ^ 108 +
  e.dwin.toNat * 2 ^ 124 + e.daddr.toNat * 2 ^ 126 + e.fc.toNat * 2 ^ 174 + e.aux.toNat * 2 ^ 179 +
  e.rsvHi.toNat * 2 ^ 187

/-- The fields of a 256-bit flow entry (R100). -/
def decFlow (w : Nat) : FlowEntry where
  rsvHi := BitVec.ofNat 69 (bits w 255 187)
  aux := BitVec.ofNat 8 (bits w 186 179)
  fc := BitVec.ofNat 5 (bits w 178 174)
  daddr := BitVec.ofNat 48 (bits w 173 126)
  dwin := BitVec.ofNat 2 (bits w 125 124)
  npkt := BitVec.ofNat 16 (bits w 123 108)
  nslot := BitVec.ofNat 4 (bits w 107 104)
  slot := BitVec.ofNat 8 (bits w 103 96)
  nfid := BitVec.ofNat 20 (bits w 95 76)
  ren := bitAt w 75
  opm := BitVec.ofNat 7 (bits w 74 68)
  ord := BitVec.ofNat 21 (bits w 67 47)
  ipm := BitVec.ofNat 7 (bits w 46 40)
  rsv := BitVec.ofNat 2 (bits w 39 38)
  drv := bitAt w 37
  fmt := BitVec.ofNat 5 (bits w 36 32)
  v := bitAt w 23
  part := BitVec.ofNat 3 (bits w 22 20)
  fid := BitVec.ofNat 20 (bits w 19 0)

/-- The flow ops of R102: an instruction's code and entry. -/
def flowOf : Instr → Option (Nat × FlowEntry)
  | .fwd e => some (0x01, e)
  | .dup e => some (0x02, e)
  | .sum e => some (0x03, e)
  | .flowMax e => some (0x04, e)
  | .flowMin e => some (0x05, e)
  | .merge e => some (0x06, e)
  | .flowOr e => some (0x07, e)
  | .wsum e => some (0x08, e)
  | .scan e => some (0x09, e)
  | .trn e => some (0x0A, e)
  | .hold e => some (0x0B, e)
  | .deliver e => some (0x0C, e)
  | .fadd e => some (0x0D, e)
  | .iadd e => some (0x0E, e)
  | .drop e => some (0x0F, e)
  | _ => none

/-- The instruction that OP names (R102). -/
def flowInstr (op : Nat) (e : FlowEntry) : Option Instr :=
  match op with
  | 0x01 => some (.fwd e)
  | 0x02 => some (.dup e)
  | 0x03 => some (.sum e)
  | 0x04 => some (.flowMax e)
  | 0x05 => some (.flowMin e)
  | 0x06 => some (.merge e)
  | 0x07 => some (.flowOr e)
  | 0x08 => some (.wsum e)
  | 0x09 => some (.scan e)
  | 0x0A => some (.trn e)
  | 0x0B => some (.hold e)
  | 0x0C => some (.deliver e)
  | 0x0D => some (.fadd e)
  | 0x0E => some (.iadd e)
  | 0x0F => some (.drop e)
  | _ => none

/-- A flow entry as its 256-bit number. -/
def encodeFlow (i : Instr) : Option Nat :=
  match flowOf i with
  | some (op, e) => some (encFlow op e)
  | none => none

/-- The instruction of a 256-bit flow entry; `none` where OP is unassigned. The checks of R103 and R247 are made at
the load, with `Instr.wellFormed`. -/
def decodeFlow (w : Nat) : Option Instr := flowInstr (bits w 31 24) (decFlow w)

/-! ## Mailbox commands -/

/-- A submission entry of a command as its 64 bytes, a 512-bit number (R422). -/
def encCmd (opc : Nat) (c : Cmd) : Nat :=
  opc + c.flg.toNat * 2 ^ 8 + c.rsv.toNat * 2 ^ 16 + c.tag.toNat * 2 ^ 32 + c.a.toNat * 2 ^ 64 +
  c.h.toNat * 2 ^ 128 + c.n.toNat * 2 ^ 192 + c.inl.toNat * 2 ^ 256

/-- The fields of a submission entry (R422). -/
def decCmd (w : Nat) : Cmd where
  flg := BitVec.ofNat 8 (bits w 15 8)
  rsv := BitVec.ofNat 16 (bits w 31 16)
  tag := BitVec.ofNat 32 (bits w 63 32)
  a := BitVec.ofNat 64 (bits w 127 64)
  h := BitVec.ofNat 64 (bits w 191 128)
  n := BitVec.ofNat 64 (bits w 255 192)
  inl := BitVec.ofNat 256 (bits w 511 256)

/-- The commands of R422: an instruction's code and entry. -/
def cmdOf : Instr → Option (Nat × Cmd)
  | .hwrite c => some (0x01, c)
  | .hread c => some (0x02, c)
  | .submit c => some (0x03, c)
  | .cancel c => some (0x04, c)
  | .release c => some (0x05, c)
  | .mread c => some (0x06, c)
  | .mwrite c => some (0x07, c)
  | .migrate c => some (0x08, c)
  | .attest c => some (0x09, c)
  | .fwupd c => some (0x0A, c)
  | .close c => some (0x0B, c)
  | _ => none

/-- The instruction that a command code names (R422). -/
def cmdInstr (opc : Nat) (c : Cmd) : Option Instr :=
  match opc with
  | 0x01 => some (.hwrite c)
  | 0x02 => some (.hread c)
  | 0x03 => some (.submit c)
  | 0x04 => some (.cancel c)
  | 0x05 => some (.release c)
  | 0x06 => some (.mread c)
  | 0x07 => some (.mwrite c)
  | 0x08 => some (.migrate c)
  | 0x09 => some (.attest c)
  | 0x0A => some (.fwupd c)
  | 0x0B => some (.close c)
  | _ => none

/-- A mailbox command as its 512-bit number. -/
def encodeCmd (i : Instr) : Option Nat :=
  match cmdOf i with
  | some (opc, c) => some (encCmd opc c)
  | none => none

/-- The instruction of a 512-bit submission entry; `none` where OPC is unassigned. -/
def decodeCmd (w : Nat) : Option Instr := cmdInstr (bits w 7 0) (decCmd w)

/-! ## The opcode table's words -/

/-- The first strand of a list whose map accepts a word. -/
def firstStrand : List Strand → Nat → Option Instr
  | [], _ => none
  | st :: rest, w =>
    match decodeSlot st w with
    | .ok x => some x.instr
    | .error _ => firstStrand rest w

/-- The instruction this decoder reads from an instruction of the opcode table given by its bits: 64 bits are a slot
word (of the first strand whose map accepts it), 256 a flow entry, 512 a record. -/
def decodeTableWord (nbits w : Nat) : Option Instr :=
  if nbits ≤ 64 then firstStrand [.c, .v, .d, .e] w
  else if nbits ≤ 256 then decodeFlow w
  else decodeRecord w

end Sys2Proof
end

