-- ==== Sys2Proof/Machine/Map.lean ====
section
/-! DEFINITION. Sparse data by key: a list of (key, value) pairs in one canonical form, keys strictly
rising and no entry equal to what an unlisted key reads as. Memory (R272) and every register file are held so. -/

namespace Sys2Proof.Machine

/-- A sparse map; what an unlisted key reads as is given to `get` and `set`. -/
abbrev SMap (α : Type) := List (Nat × α)

/-- The value at a key, `d` where the key is not listed. -/
def SMap.get {α : Type} (d : α) : SMap α → Nat → α
  | [], _ => d
  | (a, v) :: rest, k => if k = a then v else SMap.get d rest k

/-- Insert, replace or (for the default value) remove a key, keeping the keys rising. -/
def SMap.set {α : Type} [DecidableEq α] (d : α) : SMap α → Nat → α → SMap α
  | [], k, v => if v = d then [] else [(k, v)]
  | (a, w) :: rest, k, v =>
    if k < a then (if v = d then (a, w) :: rest else (k, v) :: (a, w) :: rest)
    else if k = a then (if v = d then rest else (k, v) :: rest)
    else (a, w) :: SMap.set d rest k v

/-- Keys rise strictly from above `lo`, and no entry equals the default. -/
def SMap.wfFrom {α : Type} [DecidableEq α] (d : α) : Option Nat → SMap α → Bool
  | _, [] => true
  | lo, (a, v) :: rest =>
    (match lo with
      | none => true
      | some l => decide (l < a)) && decide (v ≠ d) && SMap.wfFrom d (some a) rest

/-- The canonical form. -/
def SMap.wf {α : Type} [DecidableEq α] (d : α) (m : SMap α) : Bool := SMap.wfFrom d none m

/-- Replace the value at a key, or insert it; no default is removed (for maps of records). -/
def SMap.put {α : Type} : SMap α → Nat → α → SMap α
  | [], k, v => [(k, v)]
  | (a, w) :: rest, k, v =>
    if k < a then (k, v) :: (a, w) :: rest
    else if k = a then (k, v) :: rest
    else (a, w) :: SMap.put rest k v

/-- The value at a key, if listed. -/
def SMap.find {α : Type} : SMap α → Nat → Option α
  | [], _ => none
  | (a, v) :: rest, k => if k = a then some v else SMap.find rest k

/-- Drop a key. -/
def SMap.del {α : Type} : SMap α → Nat → SMap α
  | [], _ => []
  | (a, w) :: rest, k => if k = a then rest else (a, w) :: SMap.del rest k

/-- Memory: bytes by address (Host.Cell); an unlisted byte reads as zero. -/
abbrev Mem := List Host.Cell

/-- One byte of memory. (DESIGN CHOICE, log 3) -/
def Mem.get (m : Mem) (a : Nat) : W8 := SMap.get 0#8 m a

/-- Write one byte, keeping the canonical form. -/
def Mem.set (m : Mem) (a : Nat) (v : W8) : Mem := SMap.set 0#8 m a v

/-- The canonical form of a memory. -/
def Mem.wf (m : Mem) : Bool := SMap.wf 0#8 m

/-- `n` bytes from address `a` upward, as a little-endian number (R8). -/
def Mem.readN (m : Mem) (a : Nat) : Nat → Nat
  | 0 => 0
  | n + 1 => (Mem.get m a).toNat + 256 * Mem.readN m (a + 1) n

/-- Write the low `n` bytes of a number at `a`, little-endian (R8). -/
def Mem.writeN (m : Mem) (a : Nat) : Nat → Nat → Mem
  | 0, _ => m
  | n + 1, v => Mem.writeN (Mem.set m a (BitVec.ofNat 8 v)) (a + 1) n (v / 256)

/-- A list of bytes written from `a` upward. -/
def Mem.writeBytes (m : Mem) (a : Nat) : List W8 → Mem
  | [] => m
  | b :: bs => Mem.writeBytes (Mem.set m a b) (a + 1) bs

/-- A list of `n` bytes read from `a` upward. -/
def Mem.readBytes (m : Mem) (a : Nat) : Nat → List W8
  | 0 => []
  | n + 1 => Mem.get m a :: Mem.readBytes m (a + 1) n

/-- The element at an index, `d` beyond the end. -/
def listGet {α : Type} (d : α) (l : List α) (i : Nat) : α := l.getD i d

/-- Replace the element at an index (nothing beyond the end). -/
def listPut {α : Type} (l : List α) (i : Nat) (v : α) : List α := l.set i v

/-- Bytes of a little-endian number. -/
def bytesOf : Nat → Nat → List W8
  | 0, _ => []
  | n + 1, v => BitVec.ofNat 8 v :: bytesOf n (v / 256)

/-- The little-endian number of a list of bytes. -/
def natOfBytes : List W8 → Nat
  | [] => 0
  | b :: bs => b.toNat + 256 * natOfBytes bs

/-- Insert a value before the first that it does not come after. -/
def insertBy {α : Type} (le : α → α → Bool) (x : α) : List α → List α
  | [] => [x]
  | y :: ys => if le x y then x :: y :: ys else y :: insertBy le x ys

/-- A list in the order `le`; values that come neither before the other keep their order. -/
def sortBy {α : Type} (le : α → α → Bool) (l : List α) : List α := l.foldr (insertBy le) []

/-- The first `n` natural-indexed values of a function. -/
def tab {α : Type} (n : Nat) (f : Nat → α) : List α := (List.range n).map f

end Sys2Proof.Machine
end

