-- ==== Sys2Proof/Machine/Num.lean ====
section
/-! DEFINITION. Number formats and arithmetic (02_number_formats.md R44 to R69): exact values, the one rounding,
conversion, widening, the correctly rounded functions and the fixed orders of summation. -/

namespace Sys2Proof.Machine

/-- The FLAGS bits that arithmetic raises (R39, R62), as a mask. -/
abbrev Flags := BitVec 8
def fIV : Flags := 0x01#8
def fDZ : Flags := 0x02#8
def fOF : Flags := 0x04#8
def fUF : Flags := 0x08#8
def fNX : Flags := 0x10#8
def fNF : Flags := 0x20#8
def fNG : Flags := 0x40#8
def fZD : Flags := 0x80#8
def f0 : Flags := 0#8

/-- An exact value: NaN, an infinity, or `(−1)^neg × (m + θ) × 2^e` with `θ = 0` when `st` is false and
`0 < θ < 1` when `st` is true (an exact value that does not end at bit `e`). `m = 0` with `st = false` is a zero. -/
inductive Num where
  | nan
  | inf (neg : Bool)
  | fin (neg : Bool) (m : Nat) (e : Int) (st : Bool)
  deriving DecidableEq, Repr, Inhabited

/-- The number of binary digits of a natural number. -/
def bitLen (n : Nat) : Nat := if n = 0 then 0 else n.log2 + 1

/-- A zero of the given sign. -/
def Num.zero (neg : Bool) : Num := .fin neg 0 0 false

/-- The value of a signed integer times a power of two. -/
def Num.ofInt (i : Int) (e : Int) : Num := .fin (i < 0) i.natAbs e false

def Num.neg : Num → Num
  | .nan => .nan
  | .inf n => .inf (!n)
  | .fin n m e st => .fin (!n) m e st

def Num.isNan : Num → Bool
  | .nan => true
  | _ => false

def Num.isZero : Num → Bool
  | .fin _ 0 _ false => true
  | _ => false

def Num.isFinite : Num → Bool
  | .fin _ _ _ _ => true
  | _ => false

def Num.isNeg : Num → Bool
  | .nan => false
  | .inf n => n
  | .fin n _ _ _ => n

/-! ## Formats -/

/-- A floating format: `p` significand bits, exponent `emin` of the smallest normal, the largest finite magnitude
code, the infinity's magnitude code if it has one, the canonical NaN code if it has one, the sign bit's place
(natural formats have none), and whether a zero keeps its sign (R46, R49, R51 to R54). -/
structure FF where
  p : Nat
  emin : Int
  maxCode : Nat
  infCode : Option Nat
  nanCode : Option Nat
  signBit : Option Nat
  negZero : Bool
  deriving DecidableEq, Repr

def ffF32 : FF := ⟨24, -126, 0x7F7FFFFF, some 0x7F800000, some 0x7FC00000, some 31, true⟩
def ffBf16 : FF := ⟨8, -126, 0x7F7F, some 0x7F80, some 0x7FC0, some 15, true⟩
def ffF16 : FF := ⟨11, -14, 0x7BFF, some 0x7C00, some 0x7E00, some 15, true⟩
def ffF4 : FF := ⟨2, 0, 7, none, none, some 3, true⟩
/-- Signed binary8 of precision `p` (R51, R54). -/
def ffB8p (p : Nat) (x : Bool) : FF :=
  ⟨p, 1 - (2 ^ (7 - p) : Nat), if x then 0x7E else 0x7F, if x then some 0x7F else none, some 0x80, some 7, false⟩
/-- Natural binary8 of precision `p` (R52, R54). -/
def ffB8n (p : Nat) (x : Bool) : FF :=
  ⟨p, 1 - (2 ^ (8 - p) : Nat), if x then 0xFD else 0xFE, if x then some 0xFE else none, some 0xFF, none, false⟩

/-- The floating format of a code of R44, in the variant X. -/
def ffOf (fmt : Nat) (x : Bool) : Option FF :=
  match fmt with
  | 0 => some ffF32
  | 1 => some ffBf16
  | 2 => some ffF16
  | 8 => some ffF4
  | n => if 9 ≤ n ∧ n ≤ 15 then some (ffB8p (n - 8) x) else if 16 ≤ n ∧ n ≤ 19 then some (ffB8n (n - 15) x) else none

/-- The width in bits of a format code (R44). -/
def fmtWidth (fmt : Nat) : Nat :=
  if fmt = 0 ∨ fmt = 3 then 32 else if fmt = 1 ∨ fmt = 2 ∨ fmt = 4 then 16 else if fmt = 7 ∨ fmt = 8 then 4 else 8

/-- Is the code one of the binary8 formats, on which alone X acts (R53)? -/
def isB8 (fmt : Nat) : Bool := 9 ≤ fmt && fmt ≤ 19

/-- The value of a magnitude code. -/
def FF.magVal (f : FF) (c : Nat) : Nat × Int :=
  let e := c >>> (f.p - 1)
  let fr := c % 2 ^ (f.p - 1)
  if e = 0 then (fr, f.emin - (f.p - 1 : Nat)) else (2 ^ (f.p - 1) + fr, f.emin - (f.p - 1 : Nat) + (e - 1 : Nat))

/-- The value a stored code stands for (R46, R49, R51, R52). -/
def FF.decode (f : FF) (c : Nat) : Num :=
  if f.nanCode = some c ∧ f.negZero = false then .nan
  else
    let (neg, mag) := match f.signBit with
      | some b => (bitAt c b, c % 2 ^ b)
      | none => (false, c)
    if mag > f.maxCode then
      (if f.infCode = some mag then .inf neg else .nan)
    else
      let (m, e) := f.magVal mag
      .fin neg m e false

/-- Put a sign on a magnitude code. -/
def FF.withSign (f : FF) (neg : Bool) (mag : Nat) : Nat :=
  match f.signBit with
  | some b => if neg then mag + 2 ^ b else mag
  | none => mag

/-! ## Rounding (R55 to R58) -/

/-- The draw of R58: does the hash of the `n` discarded bits `d` with the seed fall below `d`? -/
def srDraw (seed : W32) (n d : Nat) : Bool :=
  let h := (seed.toNat ^^^ d) % 2 ^ 32
  let h := h * 0x85EBCA6B % 2 ^ 32
  let h := h ^^^ (h >>> 13)
  let h := h * 0xC2B2AE35 % 2 ^ 32
  let h := h ^^^ (h >>> 16)
  (h >>> (32 - n)) < d

/-- Trailing zero bits of a positive number, at most `fuel`. -/
def trailZeros : Nat → Nat → Nat
  | 0, _ => 0
  | k + 1, m => if m % 2 = 0 then 1 + trailZeros k (m / 2) else 0

/-- Round the magnitude `(m + θ) × 2^e` to a multiple of `2^q`: the kept multiple and whether it is inexact (R55).
(DEDUCED, log 14) -/
def roundTo (mode : Nat) (seed : W32) (neg : Bool) (m : Nat) (e : Int) (st : Bool) (q : Int) : Nat × Bool :=
  if q ≤ e then
    let k := m <<< (e - q).toNat
    if st then (if (mode = 2 ∧ !neg) ∨ (mode = 3 ∧ neg) then k + 1 else k, true) else (k, false)
  else
    let c := (q - e).toNat
    let kept := m >>> c
    let disc := m % 2 ^ c
    if disc = 0 ∧ !st then (kept, false)
    else
      let half := 2 ^ (c - 1)
      let up : Bool :=
        match mode with
        | 0 => disc > half || (disc == half && (st || kept % 2 == 1))
        | 1 => false
        | 2 => !neg
        | 3 => neg
        | _ =>
          if st then
            let d := if c ≥ 24 then disc >>> (c - 24) else disc <<< (24 - c)
            srDraw seed 24 (d ||| 1)
          else
            let tz := trailZeros c disc
            let c' := c - tz
            let disc' := disc >>> tz
            let n := min c' 24
            let d := disc' >>> (c' - n)
            let d := if c' > 24 ∧ disc' % 2 ^ (c' - 24) ≠ 0 then d ||| 1 else d
            srDraw seed n d
      (if up then kept + 1 else kept, true)

/-- Is `m × 2^e > m' × 2^e'` (with θ on the left)? -/
def magGt (m : Nat) (e : Int) (st : Bool) (m' : Nat) (e' : Int) : Bool :=
  let b := min e e'
  let x := m <<< (e - b).toNat
  let y := m' <<< (e' - b).toNat
  x > y || (x == y && st)

/-- The code of a finite magnitude `k × 2^q` that the format holds. -/
def FF.encodeMag (f : FF) (k : Nat) (q : Int) : Nat :=
  if k < 2 ^ (f.p - 1) then k
  else
    let l := bitLen k
    let sh := l - f.p
    let k' := k >>> sh
    let ex := (q + sh - (f.emin - (f.p - 1 : Nat)) + 1).toNat
    (ex <<< (f.p - 1)) + (k' - 2 ^ (f.p - 1))

/-- Conversion of a value to a floating format other than through a block scale (R55 to R59): the code and the
flags. `sat` is the SAT qualifier; f4 and binary8 with X = 0 saturate by themselves. -/
def convFF (f : FF) (mode : Nat) (sat : Bool) (seed : W32) (v : Num) : Nat × Flags :=
  let saturating := sat || f.infCode.isNone
  let natural := f.signBit.isNone
  match v with
  | .nan => match f.nanCode with
    | some c => (c, f0)
    | none => (0, fIV)
  | .inf neg =>
    if natural && neg then (0, fNG)
    else match f.infCode with
      | some c => if saturating then (f.withSign neg f.maxCode, fOF ||| fNX) else (f.withSign neg c, f0)
      | none => (f.withSign neg f.maxCode, fOF ||| fNX)
  | .fin neg m e st =>
    if m = 0 ∧ !st then (if neg ∧ f.negZero then f.withSign true 0 else 0, f0)
    else if natural && neg then (0, fNG)
    else
      let lead : Int := e + (bitLen m : Nat) - 1
      let q0 : Int := f.emin - (f.p - 1 : Nat)
      let q : Int := if m = 0 then q0 else max (lead - (f.p - 1 : Nat)) q0
      let (k, inex) := roundTo mode seed neg m e st q
      let (mx, ex) := f.magVal f.maxCode
      let beyond := if mode ≥ 4 then magGt m e st mx ex else magGt k q false mx ex
      if beyond then
        let toMax := saturating || mode = 1 || (mode = 2 && neg) || (mode = 3 && !neg)
        match f.infCode with
        | some c => (f.withSign neg (if toMax then f.maxCode else c), fOF ||| fNX)
        | none => (f.withSign neg f.maxCode, fOF ||| fNX)
      else
        let tiny : Bool := m = 0 || lead < f.emin
        let fl := if inex then (if tiny then fUF ||| fNX else fNX) else f0
        if k = 0 then (if neg ∧ f.negZero then f.withSign true 0 else 0, fl)
        else (f.withSign neg (f.encodeMag k q), fl)

/-- Conversion to an integer range `lo .. hi` (R59): an input whose magnitude is outside the range saturates with IV
alone, whatever it would round to; a negative value to a natural range gives 0 with NG. -/
def convInt (lo hi : Int) (mode : Nat) (seed : W32) (v : Num) : Int × Flags :=
  match v with
  | .nan => (0, fIV)
  | .inf neg => if neg then (if lo = 0 then (0, fNG) else (lo, fIV)) else (hi, fIV)
  | .fin neg m e st =>
    if m = 0 ∧ !st then (0, f0)
    else if neg ∧ lo = 0 then (0, fNG)
    else if magGt m e st (if neg then lo else hi).natAbs 0 then (if neg then lo else hi, fIV)
    else
      let (k, inex) := roundTo mode seed neg m e st 0
      (if neg then -(k : Int) else k, if inex then fNX else f0)

/-- Conversion to i4 after the division by the block scale (R59): ties to the even integer, saturating at 7 and −8. -/
def convI4 (mode : Nat) (seed : W32) (v : Num) : Nat × Flags :=
  match v with
  | .nan => (0, fIV)
  | .inf neg => (if neg then 8 else 7, fOF ||| fNX)
  | .fin neg m e st =>
    if m = 0 ∧ !st then (0, f0)
    else
      let (k, inex) := roundTo mode seed neg m e st 0
      let lim := if neg then 8 else 7
      let beyond := if mode ≥ 4 then magGt m e st lim 0 else k > lim
      if beyond then (if neg then 8 else 7, fOF ||| fNX)
      else (if neg then (16 - k) % 16 else k, if inex then fNX else f0)

/-- Multiply a value by `2^s` exactly. -/
def Num.scale (v : Num) (s : Int) : Num :=
  match v with
  | .fin n m e st => .fin n m (e + s) st
  | v => v

/-- CONV to a block-scaled 4-bit format under scale code `sc` (R50, R59). -/
def convBlock (fmt : Nat) (mode : Nat) (seed : W32) (sc : Nat) (v : Num) : Nat × Flags :=
  if sc = 0xFF then (0, fIV)
  else
    let w := v.scale (127 - (sc : Int))
    if fmt = 7 then convI4 mode seed w else convFF ffF4 mode true seed w

/-- CONV(x, fmt, mode) of R69 to any float or integer storage format without a block scale. -/
def conv (fmt : Nat) (mode : Nat) (x sat : Bool) (seed : W32) (v : Num) : Nat × Flags :=
  match ffOf fmt x with
  | some f => convFF f mode sat seed v
  | none =>
    let (lo, hi, w) : Int × Int × Nat :=
      if fmt = 3 then (-(2 ^ 31), 2 ^ 31 - 1, 32) else if fmt = 4 then (-(2 ^ 15), 2 ^ 15 - 1, 16)
      else if fmt = 5 then (-128, 127, 8) else (0, 255, 8)
    let (r, fl) := convInt lo hi mode seed v
    ((r % (2 ^ w : Int)).toNat, fl)

/-- CONV to f32. -/
def toF32 (mode : Nat) (seed : W32) (v : Num) : W32 × Flags :=
  let (c, fl) := convFF ffF32 mode false seed v
  (BitVec.ofNat 32 c, fl)

/-- RNE of R69. -/
def rne (v : Num) : W32 × Flags := toF32 0 0#32 v

/-- The value of an f32 word. -/
def ofF32 (w : W32) : Num := ffF32.decode w.toNat

def nan32 : W32 := 0x7FC00000#32
def one32 : W32 := 0x3F800000#32
def pinf32 : W32 := 0x7F800000#32
def ninf32 : W32 := 0xFF800000#32
def nzero32 : W32 := 0x80000000#32

def isNan32 (w : W32) : Bool := (ofF32 w).isNan
/-- NaN or infinite (R62, NF). -/
def nonFinite32 (w : W32) : Bool := !(ofF32 w).isFinite

/-- WIDEN of a stored code (R60): the exact value; integers by their exact value. `sc` is the block scale code. -/
def widenVal (fmt : Nat) (x : Bool) (sc : Nat) (c : Nat) : Num :=
  match fmt with
  | 3 => .ofInt (BitVec.ofNat 32 c).toInt 0
  | 4 => .ofInt (BitVec.ofNat 16 c).toInt 0
  | 5 => .ofInt (BitVec.ofNat 8 c).toInt 0
  | 6 => .ofInt (c % 256 : Nat) 0
  | 7 => if sc = 0xFF then .nan else (Num.ofInt (BitVec.ofNat 4 c).toInt 0).scale ((sc : Int) - 127)
  | 8 => if sc = 0xFF then .nan else (ffF4.decode (c % 16)).scale ((sc : Int) - 127)
  | _ => match ffOf fmt x with
    | some f => f.decode c
    | none => .nan

/-- WIDEN as an exact operand (R60): a block-scaled magnitude of 2^128 or more becomes an infinity and raises OF. -/
def widenNum (fmt : Nat) (x : Bool) (sc : Nat) (c : Nat) : Num × Flags :=
  match widenVal fmt x sc c with
  | .fin n m e st => if (fmt = 7 || fmt = 8) && !magGt 1 128 false m e then (.inf n, fOF) else (.fin n m e st, f0)
  | v => (v, f0)

/-- WIDEN to a 32-bit lane (R60, R179): floats to f32, integers to 32-bit integers; a block-scaled magnitude of
2^128 or more becomes an infinity and raises OF. -/
def widenLane (fmt : Nat) (x : Bool) (sc : Nat) (c : Nat) : W32 × Flags :=
  match fmt with
  | 3 => (BitVec.ofNat 32 c, f0)
  | 4 => ((BitVec.ofNat 16 c).signExtend 32, f0)
  | 5 => ((BitVec.ofNat 8 c).signExtend 32, f0)
  | 6 => (BitVec.ofNat 32 (c % 256), f0)
  | _ =>
    let (w, fl) := rne (widenVal fmt x sc c)
    (w, fl &&& fOF)

/-! ## Exact arithmetic and sums (R65, R146) -/

/-- The exact product; 0 × inf is NaN with IV. -/
def mulNum (a b : Num) : Num × Flags :=
  match a, b with
  | .nan, _ => (.nan, f0)
  | _, .nan => (.nan, f0)
  | .inf n, .inf n' => (.inf (n != n'), f0)
  | .inf n, .fin n' m _ st => if m = 0 ∧ !st then (.nan, fIV) else (.inf (n != n'), f0)
  | .fin n m _ st, .inf n' => if m = 0 ∧ !st then (.nan, fIV) else (.inf (n != n'), f0)
  | .fin n m e st, .fin n' m' e' st' => (.fin (n != n') (m * m') (e + e') (st || st'), f0)

/-- The signed integer `±m × 2^(e − b)` for `b ≤ e`. -/
def termAt (b : Int) : Num → Int
  | .fin n m e _ => let x : Int := ((m <<< (e - b).toNat : Nat) : Int); if n then -x else x
  | _ => 0

/-- The lowest exponent among non-zero finite terms. -/
def minExp : List Num → Option Int
  | [] => none
  | .fin _ m e _ :: rest =>
    if m = 0 then minExp rest
    else match minExp rest with
      | none => some e
      | some b => some (min e b)
  | _ :: rest => minExp rest

/-- The exact sum of a list of exact (dyadic) terms; a zero sum is −0 when every term is −0, and under RDN unless
every term is +0; otherwise +0 (R65, R146). The operands of R146's rule for a zero result are taken to be the addends.
(DEDUCED, log 138) -/
def sumNum (mode : Nat) (ts : List Num) : Num × Flags :=
  if ts.any Num.isNan then (.nan, f0)
  else
    let pinf := ts.any fun t => t == .inf false
    let ninf := ts.any fun t => t == .inf true
    if pinf && ninf then (.nan, fIV)
    else if pinf then (.inf false, f0)
    else if ninf then (.inf true, f0)
    else
      match minExp ts with
      | none =>
        if ts.all Num.isNeg then (.zero true, f0)
        else if mode = 3 ∧ ts.any Num.isNeg then (.zero true, f0)
        else (.zero false, f0)
      | some b =>
        let s := ts.foldl (fun acc t => acc + termAt b t) 0
        if s = 0 then (.zero (mode == 3), f0) else (.ofInt s b, f0)

/-- One f32 operation: the exact sum of terms rounded once (RND of R146). -/
def rndSum (mode : Nat) (seed : W32) (ts : List Num) : W32 × Flags :=
  let (v, f1) := sumNum mode ts
  let (w, f2) := toF32 mode seed v
  (w, f1 ||| f2)

def fadd (mode : Nat) (seed : W32) (a b : W32) : W32 × Flags := rndSum mode seed [ofF32 a, ofF32 b]
def fsub (mode : Nat) (seed : W32) (a b : W32) : W32 × Flags := rndSum mode seed [ofF32 a, (ofF32 b).neg]

/-- a × b rounded once (R146): a zero product keeps its own sign in every mode, as the one addend there is. (DEDUCED,
log 138) -/
def fmul (mode : Nat) (seed : W32) (a b : W32) : W32 × Flags :=
  let (p, f1) := mulNum (ofF32 a) (ofF32 b)
  let (w, f2) := toF32 mode seed p
  (w, f1 ||| f2)

/-- `±(a × b) ± c` rounded once, the product exact (R146). (DEDUCED, log 16) -/
def ffma (mode : Nat) (seed : W32) (negP negC : Bool) (a b c : W32) : W32 × Flags :=
  let va := ofF32 a; let vb := ofF32 b; let vc := ofF32 c
  if va.isNan || vb.isNan || vc.isNan then (nan32, f0)
  else
    let (p, f1) := mulNum va vb
    let p := if negP then p.neg else p
    let vc := if negC then vc.neg else vc
    let (w, f2) := rndSum mode seed [p, vc]
    (w, f1 ||| f2)

/-- fma(a, b, c) of R69. -/
def fmaRne (a b c : W32) : W32 × Flags := ffma 0 0#32 false false a b c

/-! ## Maximum, minimum, comparison (R68, R85) -/

/-- An integer key that orders non-NaN f32 words by value, −0 below +0. -/
def f32Key (w : W32) : Int :=
  let m : Nat := w.toNat % 2 ^ 31
  if bitAt w.toNat 31 then -(m : Int) - 1 else m

def fmax (a b : W32) : W32 :=
  if isNan32 a || isNan32 b then nan32 else if f32Key a ≥ f32Key b then a else b

def fmin (a b : W32) : W32 :=
  if isNan32 a || isNan32 b then nan32 else if f32Key a ≤ f32Key b then a else b

/-- The value order of two non-NaN words, with −0 equal to +0. -/
def f32Val (w : W32) : Int :=
  let m : Nat := w.toNat % 2 ^ 31
  if bitAt w.toNat 31 then -(m : Int) else m

/-- The FP condition codes of R85. -/
def fcond (c : Nat) (a b : W32) : Bool :=
  let un := isNan32 a || isNan32 b
  match c with
  | 0 => !un && f32Val a == f32Val b
  | 1 => un || f32Val a != f32Val b
  | 2 => !un && decide (f32Val a < f32Val b)
  | 3 => !un && decide (f32Val a ≤ f32Val b)
  | 4 => !un && decide (f32Val a > f32Val b)
  | 5 => !un && decide (f32Val a ≥ f32Val b)
  | 6 => un
  | _ => !un

/-! ## Quotients and the correctly rounded functions (R64) -/

/-- Working precision, in bits, of quotients and of the fixed-point series below. -/
def workBits : Nat := 360

/-- The exact quotient, as a truncated significand with a sticky bit; special cases of R64. -/
def divNum (a b : Num) : Num × Flags :=
  match a, b with
  | .nan, _ => (.nan, f0)
  | _, .nan => (.nan, f0)
  | .inf _, .inf _ => (.nan, fIV)
  | .inf n, .fin n' _ _ _ => (.inf (n != n'), f0)
  | .fin n _ _ _, .inf n' => (.zero (n != n'), f0)
  | .fin n m e _, .fin n' m' e' _ =>
    if m' = 0 then (if m = 0 then (.nan, fIV) else (.inf (n != n'), fDZ))
    else if m = 0 then (.zero (n != n'), f0)
    else
      let num := m <<< (workBits + bitLen m')
      (.fin (n != n') (num / m') (e - e' - (workBits + bitLen m' : Nat)) (num % m' != 0), f0)

/-- ln 2 with 360 fractional bits, rounded down. -/
def ln2Fix : Nat :=
  0xB17217F7D1CF79ABC9E3B39803F2F6AF40F343267298B62D8A0D175B8BAAFA2BE7B876206DEBAC98559552FB4A

/-- Sum of `t × y^k / k!` from `k` on, in fixed point. (DESIGN CHOICE, log 15) -/
def expSeries (y : Nat) : Nat → Nat → Nat → Nat
  | 0, _, _ => 0
  | fuel + 1, k, t => t + expSeries y fuel (k + 1) (t * y / 2 ^ workBits / (k + 1))

/-- `2^f` for `f` a fraction with `workBits` fractional bits, in fixed point, rounded down. -/
def exp2Fix (f : Nat) : Nat := expSeries (f * ln2Fix / 2 ^ workBits) 90 0 (2 ^ workBits)

/-- EXP2 as an exact value (R64): an integer power exactly, else a truncated significand with a sticky bit. -/
def exp2Num (v : Num) : Num :=
  match v with
  | .nan => .nan
  | .inf true => .zero false
  | .inf false => .inf false
  | .fin n m e _ =>
    if m = 0 then .fin false 1 0 false
    else if 0 ≤ e then
      let k := m <<< (min e.toNat 40)
      let k := min k 100000
      .fin false 1 (if n then -(k : Int) else k) false
    else
      let sh := (-e).toNat
      let ip := m >>> sh
      let fr := m % 2 ^ sh
      if fr = 0 then .fin false 1 (if n then -(min ip 100000 : Nat) else (min ip 100000 : Nat)) false
      else if ip ≥ 100000 then .fin false 1 (if n then -100000 else 100000) true
      else
        let f := if sh ≤ workBits then fr <<< (workBits - sh) else fr >>> (sh - workBits)
        let (i, g) : Int × Nat := if n then (-(ip : Int) - 1, 2 ^ workBits - f) else (ip, f)
        .fin false (exp2Fix g) (i - (workBits : Nat)) true

/-- EXP2(x, mode) to f32. -/
def exp2Of (mode : Nat) (seed : W32) (v : Num) : W32 × Flags := toF32 mode seed (exp2Num v)

/-- EXP2 of an f32 word in RNE. -/
def exp2f (w : W32) : W32 × Flags := exp2Of 0 0#32 (ofF32 w)

/-- Sum of `z^(2k+1)/(2k+1)` in fixed point (atanh). -/
def atanhSeries (z2 : Nat) : Nat → Nat → Nat → Nat
  | 0, _, _ => 0
  | fuel + 1, k, t => t / (2 * k + 1) + atanhSeries z2 fuel (k + 1) (t * z2 / 2 ^ workBits)

/-- log2 of the significand `m / 2^(len−1)` in `[1, 2)`, in fixed point. -/
def log2Fix (m : Nat) : Nat :=
  let one := 2 ^ (bitLen m - 1)
  let z := ((m - one) <<< workBits) / (m + one)
  let a := 2 * atanhSeries (z * z / 2 ^ workBits) 120 0 z
  (a <<< workBits) / ln2Fix

/-- log2 to f32 (R64). -/
def log2f (mode : Nat) (seed : W32) (w : W32) : W32 × Flags :=
  match ofF32 w with
  | .nan => (nan32, f0)
  | .inf true => (nan32, fIV)
  | .inf false => (pinf32, f0)
  | .fin n m e _ =>
    if m = 0 then (ninf32, fDZ)
    else if n then (nan32, fIV)
    else
      let ex : Int := e + (bitLen m - 1 : Nat)
      if m = 2 ^ (bitLen m - 1) then toF32 mode seed (.ofInt ex 0)
      else
        let l : Int := (ex * (2 ^ workBits : Nat)) + (log2Fix m : Nat)
        -- below zero the truncated sum lies above the true magnitude's floor by at most one unit
        if l ≥ 0 then toF32 mode seed (.fin false l.toNat (-(workBits : Nat)) true)
        else toF32 mode seed (.fin true (l.natAbs - 1) (-(workBits : Nat)) true)

/-- Conversion of the exact quotient of two f32 words (R64, R225). -/
def quot (fmt : Nat) (mode : Nat) (x sat : Bool) (seed : W32) (a b : W32) : Nat × Flags :=
  let (v, f1) := divNum (ofF32 a) (ofF32 b)
  let (c, f2) := conv fmt mode x sat seed v
  (c, f1 ||| f2)

/-! ## Estimates and refinements (R149 to R151) -/

/-- Round a positive magnitude to 12 significant bits, nearest-even, on the f32 subnormal grid below 2^−126.
(DEDUCED, log 17) -/
def est12 (neg : Bool) (m : Nat) (e : Int) (st : Bool) : W32 × Flags :=
  let lead : Int := e + (bitLen m : Nat) - 1
  let q : Int := if lead ≥ -126 then lead - 11 else -149
  let (k, _) := roundTo 0 0#32 neg m e st q
  let r := convFF ffF32 0 false 0#32 (.fin neg k q false)
  (BitVec.ofNat 32 r.1, r.2 &&& (fOF ||| fNX))

def rcpe (w : W32) : W32 × Flags :=
  match ofF32 w with
  | .nan => (nan32, f0)
  | .inf n => (if n then nzero32 else 0#32, f0)
  | .fin n m e _ =>
    if m = 0 then (if n then ninf32 else pinf32, fDZ)
    else
      let num := 2 ^ 100
      est12 n (num / m) (-e - 100) (num % m != 0)

/-- Integer square root by bisection on the bits. -/
def isqrtGo (n : Nat) : Nat → Nat → Nat
  | 0, r => r
  | k + 1, r => let t := r + 2 ^ k; if t * t ≤ n then isqrtGo n k t else isqrtGo n k r

def isqrt (n : Nat) : Nat := isqrtGo n (bitLen n / 2 + 1) 0

def rsqe (w : W32) : W32 × Flags :=
  match ofF32 w with
  | .nan => (nan32, f0)
  | .inf n => if n then (nan32, fIV) else (0#32, f0)
  | .fin n m e _ =>
    if m = 0 then (if n then ninf32 else pinf32, fDZ)
    else if n then (nan32, fIV)
    else
      let odd := e % 2 = 1
      let m' := if odd then 2 * m else m
      let e' := if odd then e - 1 else e
      let k := 80 + bitLen m'
      let big := 2 ^ (2 * k)
      let q := isqrt (big / m')
      est12 false q (-(k : Int) - e' / 2) (q * q * m' != big)

/-- A zero, an infinity or a NaN (R151). -/
def special32 (w : W32) : Bool := let v := ofF32 w; v.isZero || !v.isFinite

/-- An exact dyadic as a signed integer and an exponent. -/
def dyadic (w : W32) : Int × Int :=
  match ofF32 w with
  | .fin n m e _ => (if n then -(m : Int) else m, e)
  | _ => (0, 0)

/-- One Newton step of R151; `three` selects the reciprocal square root. A result that is exactly zero is +0, also where
the estimate is negative: the manual gives an exact zero no sign. (DESIGN CHOICE, log 113) -/
def newton (three : Bool) (x e : W32) : W32 × Flags :=
  if special32 x || special32 e then (if isNan32 e then nan32 else e, f0)
  else
    let (xi, xe) := dyadic x
    let (ei, ee) := dyadic e
    let (p, pe, c, post) : Int × Int × Int × Int :=
      if three then (xi * ei * ei, xe + 2 * ee, 3, -1) else (xi * ei, xe + ee, 2, 0)
    let z := min pe 0
    let t := c * (2 ^ (-z).toNat : Nat) - p * (2 ^ (pe - z).toNat : Nat)
    if ei * t = 0 then (0#32, f0) else rne (.ofInt (ei * t) (ee + z + post))

/-! ## Fixed orders (R66, R67) -/

/-- The largest power of two below `n` (for `n ≥ 2`). -/
def halfPow (n : Nat) : Nat := 2 ^ ((n - 1).log2)

/-- TREE of R66 over a list with a binary node; `fuel` bounds the depth. The value type carries its flags. -/
def treeGo {α : Type} (node : α → α → α) (dflt : α) : Nat → List α → α
  | 0, l => l.headD dflt
  | fuel + 1, l =>
    match l with
    | [] => dflt
    | [x] => x
    | l =>
      let h := halfPow l.length
      node (treeGo node dflt fuel (l.take h)) (treeGo node dflt fuel (l.drop h))

def tree {α : Type} (node : α → α → α) (dflt : α) (l : List α) : α := treeGo node dflt (bitLen l.length + 1) l

/-- TREE with rounded adds, flags gathered (R66). -/
def treeSum (l : List W32) : W32 × Flags :=
  tree (fun a b => let r := fadd 0 0#32 a.1 b.1; (r.1, a.2 ||| b.2 ||| r.2)) (0#32, f0) (l.map fun x => (x, f0))

/-- A NaN becomes the canonical NaN (R47). -/
def canon (w : W32) : W32 := if isNan32 w then nan32 else w

/-- The scan of R67 over a binary operation. -/
def scanGo (op : W32 → W32 → W32 × Flags) : W32 → List W32 → List W32 × Flags
  | _, [] => ([], f0)
  | acc, x :: xs =>
    let (y, f1) := op acc x
    let (r, f2) := scanGo op y xs
    (y :: r, f1 ||| f2)

def scan32 (op : W32 → W32 → W32 × Flags) : List W32 → List W32 × Flags
  | [] => ([], f0)
  | x :: xs => let (r, f) := scanGo op (canon x) xs; (canon x :: r, f)

/-! ## The streaming-softmax merge (R225, R256, R305) -/

/-- A partial triple of one row. -/
structure Triple where
  m : W32
  l : W32
  o : List W32
  deriving DecidableEq, Repr

/-- The empty triple with `n` zeros. -/
def Triple.empty (n : Nat) : Triple := ⟨ninf32, 0#32, List.replicate n 0#32⟩

/-- EXP2(a − b), the difference exact. -/
def exp2Diff (a b : W32) : W32 × Flags :=
  let (d, f1) := sumNum 0 [ofF32 a, (ofF32 b).neg]
  let (w, f2) := exp2Of 0 0#32 d
  (w, f1 ||| f2)

/-- The scale factor of an operand: +0 for an operand at −inf. -/
def mergeScale (mi m : W32) : W32 × Flags := if mi = ninf32 ∧ m ≠ ninf32 ∧ !isNan32 m then (0#32, f0) else exp2Diff mi m

/-- fma(a1, x, RNE(a2 × y)). -/
def mergeElem (a1 a2 x y : W32) : W32 × Flags :=
  let (p, f1) := fmul 0 0#32 a2 y
  let (w, f2) := fmaRne a1 x p
  (w, f1 ||| f2)

/-- The node of R225: operand 1 is the lower index. -/
def mergeTriple (a b : Triple) : Triple × Flags :=
  let m := fmax a.m b.m
  if m = ninf32 then (⟨ninf32, 0#32, a.o.map fun _ => 0#32⟩, f0)
  else
    let (a1, f1) := mergeScale a.m m
    let (a2, f2) := mergeScale b.m m
    let (l, f3) := mergeElem a1 a2 a.l b.l
    let os := List.zipWith (fun x y => mergeElem a1 a2 x y) a.o b.o
    (⟨m, l, os.map Prod.fst⟩, os.foldl (fun acc r => acc ||| r.2) (f1 ||| f2 ||| f3))

/-- Does a triple count as non-finite (R218, R261)? The m = −inf of an empty triple does not. -/
def Triple.nonFinite (t : Triple) : Bool :=
  if t.m = ninf32 then
    t.l != 0#32 || t.o.any (· != 0#32)
  else nonFinite32 t.m || nonFinite32 t.l || t.o.any nonFinite32

end Sys2Proof.Machine
end

