-- ==== Sys2Proof/Machine/State.lean ====
section
/-! DEFINITION. The state of one Tsunor package as plain data: the tiles, the routers, memory, the partitions and
their work, the ports, the host's queues, and which agent moves next. Every field names the rule of spec/ that gives
it; fields marked MODEL are the model's own bookkeeping. An unlisted key of a sparse map reads as the default named
in its accessor (Machine/Ops.lean). -/

namespace Sys2Proof.Machine

/-! ## The core of a tile -/

/-- Where a result in flight lands (R28, R29, R31). -/
inductive Target where
  /-- a scalar register -/
  | scalar (r : Nat) (v : W64)
  /-- a physical vector register: the enabled elements take their values (R142) -/
  | vector (r : Nat) (mask : BitVec 1024) (v : List W32)
  /-- a packed narrowing result of `w`-bit sub-elements: per lane the sub-elements written (R154) -/
  | packed (r w : Nat) (subs : List Nat) (v : List W32)
  /-- the 16 rows allocated in q8 to q11 under a tag (R143) -/
  | rows (q tag : Nat) (v : List (List W32))
  /-- a physical predicate register (R142) -/
  | pred (r : Nat) (mask v : BitVec 1024)
  /-- a flag slot (R116) -/
  | slot (n : Nat) (v : BitVec 14)
  /-- elements of an accumulator, at 64 × row + column (R166) -/
  | acc (a : Nat) (v : List (Nat × W32))
  /-- row state of an accumulator: m (false) or l (true), by row (R166) -/
  | accRow (a : Nat) (l : Bool) (v : List (Nat × W32))
  /-- q14 takes a word (R115) -/
  | q14 (v : W64)
  /-- the entry of q15 allocated under a tag takes its word (R210) -/
  | q15 (tag : Nat) (v : W64)
  /-- a write of a control and status register: kind 0 csrw, 1 csrs, 2 csrc (R117) -/
  | csr (n kind : Nat) (a : W64)
  /-- the rotation bases of a loopr, with the stage predicate at its physical register (R113) -/
  | bases (vrb : BitVec 5) (krb : BitVec 4) (k : Nat) (stage : Bool)
  /-- a base-table entry (R119) -/
  | base (i : Nat) (v : W64)
  /-- a loop count register of an engine (R120) -/
  | loopCount (eng i : Nat) (v : W32)
  /-- the entry of q12 (false) or q13 (true) allocated under a tag takes its word (R172) -/
  | dq (q13 : Bool) (tag : Nat) (v : W64)
  /-- flags alone -/
  | flags
  deriving DecidableEq, Repr, Inhabited

/-- A result in flight: the clk still to pass before it is due, and the flags it sets then (R28, R63). The list
holding these is in issue order. -/
structure Flight where
  rem : Nat
  tgt : Target
  fl : Flags
  unit : Nat
  deriving DecidableEq, Repr, Inhabited

/-- A strand's issue state: program counter, whether it has stopped (R22), clk of task time since its last issue and
the least that must pass (R14, R105), the clk it has stood blocked and the wait it stands in (R27, R352), and the
address of its last issue (R352). -/
structure StrandSt where
  pc : BitVec 21
  running : Bool
  age : Nat
  minAge : Nat
  blocked : Nat
  wait : Nat
  waitNum : Nat
  waiting : Bool
  lastPc : BitVec 21
  /-- the strand has faulted (R72) -/
  faulted : Bool
  /-- its head did not issue because another bundle member faulted (R73) -/
  notIssued : Bool
  deriving DecidableEq, Repr, Inhabited

/-- A row of a vector queue: its allocation tag (R143), once landed or fetched its 64 lanes, and the clk since. -/
structure QRow where
  tag : Nat
  row : Option (List W32)
  age : Nat
  deriving DecidableEq, Repr, Inhabited

/-- An entry of q12, q13 or q15: its allocation tag and, once poppable, its word (R172, R210). -/
structure QWord where
  tag : Nat
  val : Option W64
  deriving DecidableEq, Repr, Inhabited

/-- Rows asked of a stream by one srd or swr, with the rounding mode and seed at its issue (R180, R181, R197). -/
structure StreamReq where
  seq : Nat
  epoch : Nat
  left : Nat
  rm : Nat
  seed : W32
  delay : Nat
  pc : BitVec 21
  deriving DecidableEq, Repr, Inhabited

/-- A D access issued and not yet performed (R172, R196). `addr` is the scratchpad address where `ok`, else the offset
that SPOOR records (R175). -/
inductive DKind where
  | load (addr : Nat) (ok : Bool) (bytes : Nat) (sx q13 : Bool)
  | store (addr : Nat) (ok : Bool) (bytes : Nat) (v : W64)
  /-- operation 0 add, 1 min, 2 max, 3 and, 4 or, 5 xor, 6 exchange, 7 compare and swap, 8 f32 add -/
  | atomic (op : Nat) (n : Bool) (addr : Nat) (ok : Bool) (bytes : Nat) (b c : W64) (q13 : Bool)
  | imageLoad (st : Nat) (addr : Nat) (ok : Bool)
  | imageStore (addr : Nat) (ok : Bool) (v : BitVec 256)
  | ringPush (rg : Nat)
  deriving DecidableEq, Repr, Inhabited

/-- A D access with its issue order, its mark epoch (R198), the clk before its earliest time (R172), its pointer and
the address of its instruction. -/
structure DAcc where
  seq : Nat
  epoch : Nat
  delay : Nat
  kind : DKind
  pc : BitVec 21
  deriving DecidableEq, Repr, Inhabited

/-- A 32-bit word of the scratchpad that engines of the tile have written and that the D strand may still see as it was
before (R201, R212, R282): its number (address / 4), what it held, the writes since, each as its engine and the CSN from
which on it is counted, and the DCC from which D sees them in any case. -/
structure Unseen where
  word : Nat
  old : Nat
  writes : List (Nat × W32)
  till : Nat
  deriving DecidableEq, Repr, Inhabited

/-- A ring descriptor and its slot tags (R190, R191). -/
structure Ring where
  base : Nat
  size : Nat
  count : Nat
  head : Nat
  tail : Nat
  level : Nat
  etag : BitVec 16
  ptag : BitVec 16
  tags : SMap (BitVec 16)
  deriving DecidableEq, Repr, Inhabited

/-- A hurdle as a tile sees it (R121). -/
structure Hurdle where
  cfg : Bool
  ss : Bool
  scope : Nat
  pend : Bool
  phase : Bool
  target : Nat
  deriving DecidableEq, Repr, Inhabited

/-- An entry of an engine's posting queue (R207, R213, R94): the kind, with MODE.RM and SRSEED as they stood at the
posting, and the clk before the entry is in the queue (R210). -/
inductive Posting where
  | chain (t : W64)
  | single (a : W64)
  | fsend (fid : Nat) (src len : W64) (fc : Nat) (o : Bool)
  deriving DecidableEq, Repr, Inhabited

structure Posted where
  what : Posting
  rm : Nat
  seed : W32
  delay : Nat
  deriving DecidableEq, Repr, Inhabited

/-- What a step of the MX writes at its last clk (R219), as computed from what it read at its first. -/
structure StepOut where
  /-- sums by 128 × accumulator + row -/
  rows : List (Nat × List W32)
  ms : List (Nat × W32)
  ls : List (Nat × W32)
  fs : List (Nat × W32)
  /-- sticky EMPTY bits to set and to clear (R225, R226) -/
  emptySet : BitVec 8
  emptyClr : BitVec 8
  /-- rings whose head slot is popped (R221) -/
  pops : List Nat
  /-- a tile to publish in a ring (R224) -/
  tile : Option (Nat × List W8)
  /-- memory writes: base pointer, displacement, bytes -/
  mem : List (W64 × Int × List W8)
  fl : Flags
  deriving DecidableEq, Repr, Inhabited

/-- A record, or an fsend posting, at the head of an engine (R216, R219): its base pointers, displacements and counts
as resolved, progress in loop points, groups, beats or packets, and the step of the MX in progress. -/
structure Run where
  instr : Option Instr
  send : Option Posting
  addr : W64
  single : Bool
  /-- has it passed R98 and been resolved (R216)? -/
  started : Bool
  bases : List W64
  trips : List Nat
  rm : Nat
  seed : W32
  prog : Nat
  /-- TCC at which the next step is due, for a stamped record (R220) -/
  due : W64
  stamp : BitVec 40
  /-- SLIP has counted this record (R220) -/
  slipped : Bool
  /-- a step is in progress: what it will write, and the clk still to pass before its last -/
  out : Option StepOut
  rem : Nat
  /-- clk an mmai has waited for its count word (R223) -/
  waited : Nat
  /-- rows an mmai works on, once its count word is ready (R223) -/
  m : Option Nat
  /-- a translation of a CP record that the walkers could not resolve: the pointer and whether it writes (R230) -/
  stuck : Option (W64 × Bool)
  /-- a stamped record reached the head of its queue after its stamp (R96, R220) -/
  late : Bool
  /-- relocation (R227): at the sibling, the owner's TID; in the owner's `away`, the sibling's -/
  peer : Option Nat
  /-- of a relocated record: 0 copying in, 1 executing, 2 writing back, 3 finished, 4 handed back unfinished by a sibling
  whose owner drains (R232) -/
  phase : Nat
  /-- of a relocated record: its accumulators as copied in and worked on -/
  view : Option StepOut
  /-- of a record fetched while an earlier one runs on a sibling: it retires behind that one (R208) -/
  after : Bool
  /-- every step is done; only the order of retirement is waited for -/
  done : Bool
  /-- a step or a beat of it was abandoned (R348, R354) -/
  abnd : Bool
  deriving DecidableEq, Repr, Inhabited

/-- One engine of a tile (R206). -/
structure Engine where
  nxt : W64
  tail : W64
  csn : W32
  pq : List Posted
  run : Option Run
  /-- the chain entry being walked, if any (R207) -/
  chain : Option Posted
  /-- a record relocated to a sibling that this engine follows (R227) -/
  away : Option Run
  /-- a step ended in this clk: the next may begin in the next (R219) -/
  ended : Bool
  /-- the engine has faulted, or stopped at its boundary (R98, R232) -/
  stopped : Bool
  deriving DecidableEq, Repr, Inhabited

/-- A request of a tile that leaves it (R215): kind 0 aqry, 1 topk, 2 kvtrunc. -/
structure TileReq where
  kind : Nat
  a : W64
  b : W64
  c : W64
  fc : Nat
  k : Nat
  pc : BitVec 21
  delay : Nat
  /-- the request's number in the package; of a kvtrunc whose writes are done, the releases still to be appended (R310,
  R311) -/
  num : Nat
  rel : Option Nat
  deriving DecidableEq, Repr, Inhabited

/-- An open pblk span (R86, R169): the guard value read, the physical predicate it came from, the covered
instructions left and their pattern. -/
structure Span where
  pred : BitVec 1024
  phys : Nat
  left : Nat
  pattern : BitVec 8
  deriving DecidableEq, Repr, Inhabited

/-- The shadow context in service (R136, R137). -/
structure Shadow where
  st : StrandSt
  regs : SMap W64
  flight : List Flight
  items : List W64
  /-- DCC clk in service so far (R346) -/
  age : Nat
  divBusy : Nat
  /-- its shret has issued: the service ends with this clk (R138, R345) -/
  done : Bool
  deriving DecidableEq, Repr, Inhabited

/-- Which task a tile runs and where its regions lie (R18, R42, R321, R403). -/
structure Residence where
  part : Nat
  lid : Nat
  rank : Nat
  codeBase : Nat
  codeSize : Nat
  privBase : Nat
  privSize : Nat
  ringBase : Nat
  ringSize : Nat
  /-- task number (R321) and world (R425) -/
  taskId : W32
  secure : Bool
  det : Bool
  stallN : Nat
  rl : Bool
  /-- task-clock limit in clk, 0 for none (R329) -/
  limit : Nat
  deriving DecidableEq, Repr, Inhabited

/-- A pending pre-emption request (R327, R328): clk of task time left before the deadline. -/
structure PreemptReq where
  left : Nat
  deriving DecidableEq, Repr, Inhabited

/-- A pre-emption taken (R357): the bitmap, whether its clk has passed, from which no instruction issues, and whether a
request stood. -/
structure Drain where
  bitmap : BitVec 24
  on : Bool
  requested : Bool
  /-- DCC at which each engine, by number, first stood quiescent (R352, R358) -/
  quiet : SMap Nat
  deriving DecidableEq, Repr, Inhabited

/-- A unit's own fault, as its stop record shows it (R352 to R354). -/
structure StopInfo where
  own : Bool
  ni : Bool
  cause : Nat
  xr : Nat
  dcc : Nat
  /-- the faulting instruction's address, for a strand -/
  pc : BitVec 21
  /-- the unit-specific bits 511:192 that the fault itself fixes (R353, R354) -/
  aux : BitVec 320
  written : Bool
  deriving DecidableEq, Repr, Inhabited

/-- A partition's halt under way (R347 to R349): clk since the first fault, the clk after it at which the line
arrives on each die, and whether it has arrived. -/
structure HaltSt where
  age : Nat
  ta0 : Nat
  ta1 : Nat
  on0 : Bool
  on1 : Bool
  deriving DecidableEq, Repr, Inhabited

/-- A task preloaded in the standby region (R331): its launch and rank, the standby base and size, and the blocks that
stand before the code in its image (R319). -/
structure Preloaded where
  part : Nat
  lid : Nat
  rank : Nat
  base : Nat
  size : Nat
  blocks : List W8
  deriving DecidableEq, Repr, Inhabited

/-- One tile: the task's state (R18), the units' occupancy and the results in flight, the engines, and the shepherd's
view of the task. -/
structure Tile where
  sc : StrandSt
  sv : StrandSt
  sd : StrandSt
  se : StrandSt
  /-- scalar, vector and predicate registers, flag slots (R18) -/
  s : SMap W64
  v : SMap (List W32)
  k : SMap (BitVec 1024)
  fs : SMap (BitVec 14)
  /-- vector queues q0 to q11 by number; scalar queues (R25) -/
  vq : SMap (List QRow)
  q12 : List QWord
  q13 : List QWord
  q14 : List W64
  q15 : List QWord
  /-- stream registers and the rows asked of them (R177, R181) -/
  st : SMap (BitVec 256)
  streq : SMap (List StreamReq)
  rg : SMap Ring
  /-- accumulator rows at 128 × acc + row: 64 sums, m, l, row flags (R18, R166) -/
  acc : SMap (List W32)
  accM : SMap W32
  accL : SMap W32
  accF : SMap W32
  bt : SMap W64
  /-- loop counts at 8 × engine + index (R120) -/
  lc : SMap W32
  fc : SMap W32
  hur : SMap Hurdle
  mx : Engine
  qz : Engine
  cp : Engine
  fi : Engine
  /-- sticky EMPTY bits (R211, R225) -/
  empty : BitVec 8
  /-- CSRs (R38); TCC is DCC − HOLD -/
  hold : Nat
  flags : Flags
  /-- flags set in this clk; those set from the clk of the last write of FLAGS on, which that write leaves (R39) -/
  raised : Flags
  kept : Flags
  modeRm : BitVec 3
  modeSt : Bool
  modeDet : Bool
  srseed : W32
  spoor : W64
  slip : W32
  vrb : BitVec 5
  krb : BitVec 4
  taskid : W32
  launchid : W32
  world : Bool
  span : Option Span
  flight : List Flight
  /-- clk the divider and the units FE, FT, XL, PK, AC are still held (R30, R104, R145) -/
  busyDiv : Nat
  busyFe : Nat
  busyFt : Nat
  busyXl : Nat
  busyPk : Nat
  busyAc : Nat
  /-- D accesses pending, with the counters of issue order and of marks (R196 to R198) -/
  dacc : List DAcc
  dseq : Nat
  depoch : Nat
  /-- SPOOR records of the current DCC clk, by source code (R175) -/
  spoorNow : Option Nat
  reqs : List TileReq
  /-- packets the FI has injected (R237) -/
  sseq : W32
  sp : Mem
  /-- engines' writes that the D strand may not yet see, and the CSN values that the task has observed, by engine
  (R201, R212) -/
  unseen : List Unseen
  observed : SMap W32
  /-- 32-bit words of the scratchpad that hold an uncorrectable error, by address / 4 (R294); entries of queues that
  hold one, as queue and place from the front; words of accumulators, as `accWord` numbers them -/
  bad : List Nat
  badQ : List (Nat × Nat)
  badAcc : List Nat
  shadow : Option Shadow
  shadowStore : Mem
  /-- the shadow image that the task started with (R139): partition, how often SHBASE and SHLEN had been written, and
  LEN; none where the partition had no image -/
  shadowImage : Option (Nat × Nat × Nat)
  res : Option Residence
  /-- the task issues (false: loaded and waiting, frozen, or none) -/
  live : Bool
  /-- clk of task time since the first issue (R329) and since the launch last started (R327) -/
  used : Nat
  resident : Nat
  preq : Option PreemptReq
  drain : Option Drain
  preload : Option Preloaded
  /-- the halt line has arrived (R347); the task stands frozen after the skid (R348, R356) -/
  halted : Bool
  frozen : Bool
  cancelled : Bool
  /-- DCC at which the task was stopped by a halt or a cancel (R352) -/
  stopDcc : Nat
  stops : SMap StopInfo
  deriving DecidableEq, Repr, Inhabited

/-! ## Routers and packets -/

/-- A packet: the header fields of R236 and the payload bytes (LEN of them). -/
structure Packet where
  rsv : Nat
  stamp : BitVec 48
  sseq : W32
  stid : BitVec 9
  spkg : BitVec 10
  ofs : BitVec 24
  pidx : BitVec 16
  hops : BitVec 8
  len : Nat
  pl : Nat
  nf : Bool
  drp : Bool
  sig : Bool
  o : Bool
  part : Nat
  fid : BitVec 20
  data : List W8
  deriving DecidableEq, Repr, Inhabited

/-- A packet that has left an entry and waits for slots of a link (R235, R340): the flits still to move, and on an
Ethernet port its peer, as the egress table named it (R399). -/
structure Leaving where
  pkt : Packet
  left : Nat
  peer : Option Nat
  deriving DecidableEq, Repr, Inhabited

/-- An operand held by a combining entry: the packet's number on its port since the entry was loaded, its place in
ORD, its port, the nclk it came, and the packet (R248, R250, R435). -/
structure Held where
  num : Nat
  slot : Nat
  port : Nat
  at_ : Nat
  pkt : Packet
  deriving DecidableEq, Repr, Inhabited

/-- A complete result that has not left (R248, R258): its number, the packet, and what a trace record of it holds: the
ports of its first and last operand and the nclk between them (R434). -/
structure Ready where
  num : Nat
  pkt : Packet
  first : Nat
  last : Nat
  gap : Nat
  deriving DecidableEq, Repr, Inhabited

/-- A drove packet in the reorder store (R391): its arrival port, the packet, the pod time it spent while its
partition's halt line was raised, and whether the router's reserve admitted it. -/
structure DrovePkt where
  port : Nat
  pkt : Packet
  paused : Nat
  reserve : Bool
  deriving DecidableEq, Repr, Inhabited

/-- An installed flow entry (R233, R267): the entry and its op, the launch it is bound to, the world of its loader,
its status, and its round state (R248 to R250, R259, R263). -/
structure Entry where
  op : Nat
  e : FlowEntry
  lid : Option Nat
  secure : Bool
  nf : Bool
  drops : Nat
  done : W32
  /-- packets taken from each port -/
  next : SMap Nat
  held : List Held
  /-- results that have left -/
  outNum : Nat
  /-- results complete and waiting; the outputs of a trn -/
  ready : List Ready
  /-- packets held by hold, each with its arrival port -/
  store : List (Nat × Packet)
  /-- packets delivered of the contribution in progress, and whether one carried NF -/
  count : Nat
  countNf : Bool
  /-- the entry's own output count (R263) -/
  outSeq : W32
  /-- nclk its lowest unfinished PIDX has waited (R265) -/
  waited : Nat
  /-- drove packets in the reorder store (R391) -/
  reorder : List DrovePkt
  deriving DecidableEq, Repr, Inhabited

/-- A stray queue and its status (R240). -/
structure StrayQ where
  pkts : List Packet
  dropped : BitVec 16
  count : BitVec 16
  deriving DecidableEq, Repr, Inhabited

/-- A router (R233). Input packets wait by port and virtual channel, at 16 × port + channel (channels 0 to 7
partitions, 8 drove; 9 drove packets that came on no drove input, 10 those whose stamp was out of range at their arrival,
R388, R391). -/
structure Router where
  entries : List Entry
  inq : SMap (List Packet)
  /-- packets that have left an entry and wait for slots of a link, at 16 × port + channel (R235, R340) -/
  outq : SMap (List Leaving)
  /-- DCC at which a bellwether last took a drove slot of a port (R390) -/
  bellDcc : SMap Nat
  /-- uncorrectable errors (R294): input channels whose head packet holds one, and entries (partition, flow) whose
  match-table word, slots or held packets do -/
  badIn : List Nat
  badFid : List (Nat × Nat)
  stray : SMap StrayQ
  fault : W64
  esel : W64
  trcfid : SMap W32
  /-- partitions whose traffic has stopped here (R349) -/
  stopped : List Nat
  /-- trace events queued on the router's trace channel, as partition and record words without SEQ, and events lost at the
  source and not yet told of, by partition (R433) -/
  trq : List (Nat × List W64)
  lost : SMap Nat
  /-- PTC at the last stray event posted to event rings (R434) -/
  strayAt : Option W64
  /-- DRVST (R394) -/
  drvst : W64
  /-- drove input ports, and the last watermark received at 8 × port + partition (R388) -/
  droveIn : List Nat
  wmIn : SMap (BitVec 48)
  /-- ports a bellwether has been sent on, the watermarks last sent at 8 × port + partition, and PTC then (R390) -/
  droveOut : List Nat
  wmSent : SMap (BitVec 48)
  bellAt : SMap W64
  deriving DecidableEq, Repr, Inhabited

/-! ## Work -/

/-- One item of a fold log (R290, R336): word address, value, kind 0 plain 1 fadd 2 iadd, task number; the tier and
physical address that the write's translation gave, and whether the entry that gave it has been invalidated since
(R280). -/
structure LogItem where
  va : Nat
  val : W32
  kind : Nat
  task : W32
  loc : Nat × Nat
  stale : Bool
  deriving DecidableEq, Repr, Inhabited

/-- The state of one task of a launch: 0 not started, 1 running, 2 yielded and saved, 3 pre-empted and saved,
4 ended, 5 cancelled. -/
abbrev TaskState := Nat

/-- A launch (level 0), graph (1), fold (2) or job (3), R313 to R318. -/
structure WorkUnit where
  part : Nat
  level : Nat
  id : Nat
  jid : Nat
  gid : Nat
  fold : Nat
  record : BitVec 1536
  stat : W64
  nl : Nat
  members : Nat
  closed : Bool
  ended : Bool
  state : Nat
  resid : Bool
  cause : Nat
  reason : Nat
  ovr : Nat
  deta : W64
  detb : W64
  counter : W32
  secure : Bool
  die : Nat
  ready : Option Nat
  pass : Nat
  place : List Nat
  tasks : List TaskState
  /-- launched, loaded and waiting for its common first issue -/
  starting : Bool
  loaded : Bool
  /-- the launch was pre-empted and may resume (R328) -/
  resumable : Bool
  preempting : Bool
  /-- the record passed the checks of its reception (R320); DCC of the choice that started the launch (R331) -/
  admitted : Bool
  chosen : Nat
  /-- of its tasks that have ended or stand saved, the longest residence since it last started, in clk (R327) -/
  stayed : Nat
  log : List LogItem
  logFull : Bool
  committed : Bool
  deriving DecidableEq, Repr, Inhabited

/-- A saved task (R358, R359): its launch, rank and tile, the save slot, the bitmap and the tile as saved; whether it
yielded without a request and resumes by itself (R330), and whether it is being restored. (DESIGN CHOICE, log 66) -/
structure Saved where
  yielded : Bool
  go : Bool
  part : Nat
  lid : Nat
  rank : Nat
  tid : Nat
  slot : Nat
  bitmap : BitVec 24
  tile : Tile
  deriving DecidableEq, Repr, Inhabited

/-- A record received and not yet admitted (R126, R320): partition, record pointer, and of a submission by lnch the
tile, its task's job and fold, and the issue order of the D accesses that the reading follows. -/
structure Incoming where
  part : Nat
  die : Nat
  ptr : W64
  fromTile : Option Nat
  words : Option (List W64)
  secure : Bool
  jid : Nat
  after : Nat
  fold : Nat
  deriving DecidableEq, Repr, Inhabited

/-- The home's view of a hurdle scope (R121, R124): arrivals counted, arrivals held for the next phase, arrivals in
transit, and a completion or a reconfiguration under way. -/
structure Home where
  part : Nat
  lid : Nat
  hurdle : Nat
  /-- scope 0: the cluster number; scope 1: 8 -/
  scope : Nat
  count : Nat
  counted : List Nat
  held : List Nat
  /-- arrivals on their way: rank and clk since the harr's issue -/
  transit : List (Nat × Nat)
  /-- clk left to Tc (R124) -/
  due : Option Nat
  /-- this clk is Tc: arrivals are still held -/
  closing : Bool
  deriving DecidableEq, Repr, Inhabited

/-- An hset under way (R123): the launch's hurdle, its new configuration and the clk left. -/
structure HurdleSet where
  part : Nat
  lid : Nat
  hurdle : Nat
  scope : Nat
  target : Nat
  left : Nat
  deriving DecidableEq, Repr, Inhabited

/-- A release waiting at its owner (R311): the block, the number of the kvtrunc that waits for it (none of another
package's), and the requests that had been accepted here when it came; it is numbered with the package's requests. -/
structure KvRelease where
  num : Nat
  gbn : W64
  owner : Option Nat
  after : List Nat
  deriving DecidableEq, Repr, Inhabited

/-- A query for one page of another package, as it travels there (R309): the requesting package and request number, the
owner, the partition, page index, block and valid tokens, the table header, the descriptor, the end token and the rows'
codes. -/
structure KvQuery where
  src : Nat
  num : Nat
  dst : Nat
  part : Nat
  page : Nat
  gbn : Nat
  vcnt : Nat
  head : Nat
  desc : Nat
  endT : Nat
  rows : List (List Nat)
  deriving DecidableEq, Repr, Inhabited

/-- What passes between packages for a query or a release (R309, R311): a query, its answer (a cause, 0 for none, and the
page's triples by row), a release of a partition's block to its owner. -/
inductive KvMsg where
  | query (q : KvQuery)
  | answer (q : KvQuery) (cause : Nat) (rows : List Triple)
  | release (dst part gbn : Nat)
  deriving DecidableEq, Repr, Inhabited

/-- A migration in progress (R312): its number, the mailbox queue of its command, the partition, the block, its new
location and the 64-byte pieces copied. -/
structure Migration where
  num : Nat
  queue : Nat
  part : Nat
  gbn : Nat
  loc : Nat
  done : Nat
  deriving DecidableEq, Repr, Inhabited

/-- A partition's registers and work (R338 and the registers that name a partition). -/
structure Partition where
  reg : W64
  t0a : W64
  t0b : W64
  t1 : W64
  t2 : W64
  ptroot : W64
  ssbase : W64
  sslen : W64
  kvfree : W64
  kvfptr : W64
  shbase : W64
  shlen : W64
  /-- writes of SHBASE and SHLEN (R139) -/
  shGen : Nat
  halts : W64
  stopbase : W64
  savebase : W64
  saven : W64
  trcring : SMap W64
  trcidx : SMap W64
  /-- identity of the reserving head and its placement (R325) -/
  head : Option (Nat × List Nat)
  /-- releases waiting at the owner for room in the free ring (R311) -/
  releases : List KvRelease
  /-- save slots reserved by task: (launch, rank) (R327) -/
  reserved : List (Nat × Nat)
  halt : Option HaltSt
  /-- a choice event has come (R324) -/
  choice : Bool
  /-- cancels that a halt has put off to its release: level and identity (R361) -/
  cancels : List (Nat × Nat)
  deriving DecidableEq, Repr, Inhabited

/-! ## Translation -/

/-- A cached translation (R278): partition, virtual page base and page entry. -/
structure TlbEntry where
  part : Nat
  va : Nat
  pte : W64
  deriving DecidableEq, Repr, Inhabited

/-- A page walk waiting or outstanding (R279): the partition, the cluster that asked (8 for the mailbox), the
requesters, the 64 KiB page of the address, and the clk in which it was asked for. A requester is a place (a TID,
0x400 + the edge index of an edge router, 0x800 the mailbox) plus 0x1000 × its agent there (0 the CP, an edge router or
the mailbox, 1 the tile's requests, 2 its router). -/
structure Walk where
  part : Nat
  cluster : Nat
  who : List Nat
  page : Nat
  since : Nat
  deriving DecidableEq, Repr, Inhabited

/-! ## Links, pod time, host -/

/-- A flit that waits for a slot of a scale-up port (R376, R377): its class and kind; of a router flit the partition and
stamp of its packet, and whether it is the header. A time flit gets its contents as it leaves (R382). -/
structure OutFlit where
  cls : Nat
  kind : Nat
  part : Nat
  stamp : BitVec 48
  head : Bool
  flit : BitVec 512
  deriving DecidableEq, Repr, Inhabited

/-- A scale-up port lp0 to lp71 (R375 to R378, R382). (DESIGN CHOICE, log 105) -/
structure Port where
  up : Bool
  /-- flits waiting for a slot, in order; the place on the slot wheel (R377) -/
  waiting : List OutFlit
  wheelPos : Nat
  /-- sequence number of the next flit, and of the next to be received -/
  sendSeq : BitVec 12
  recvSeq : BitVec 12
  /-- the last 512 flits sent, oldest first, and resends in a row of the same flit (R378) -/
  sent : List (BitVec 2048)
  acked : BitVec 12
  retries : Nat
  /-- buffer credits by class, in flits (R376): owed to the far side, and returned by it so far -/
  owed : SMap Nat
  credit : SMap Nat
  /-- link flits on the wire, for the far side. MODEL -/
  wire : List (BitVec 2048)
  /-- router flits received of a packet not yet complete, by class -/
  partly : SMap (List (BitVec 512))
  /-- time transfer (R382): number of the next exchange, pod time of the last time flit sent and received (54 bits,
  with PTCF); t1 and t2 of the last time flit received, until the next is sent; the flits sent that no ECHO has answered,
  oldest first, as t3 with the t1 and t2 that it follows; the last ECHO, with the t3 that it answered -/
  eseq : BitVec 16
  timeSent : Option (BitVec 54)
  timeRecv : Option (BitVec 54)
  stamps : Option (BitVec 54 × BitVec 54)
  unanswered : List (BitVec 54 × Option (BitVec 54 × BitVec 54))
  echoed : Option (BitVec 54 × BitVec 54)
  deriving DecidableEq, Repr, Inhabited

/-- A datagram not acknowledged (R399, R400): its sequence number, partition and payload words, the pod-time units since
it was last sent, and how often it was resent. -/
structure Datagram where
  seq : Nat
  part : Nat
  words : List W32
  age : Nat
  resends : Nat
  deriving DecidableEq, Repr, Inhabited

/-- An Ethernet tunnel peer of a port (R399, R400). -/
structure Peer where
  sendSeq : W32
  recvSeq : W32
  /-- datagrams not acknowledged, oldest first -/
  window : List Datagram
  /-- packets waiting for room in the window -/
  stash : List (Nat × List W32)
  down : Bool
  deriving DecidableEq, Repr, Inhabited

/-- What system software sets of an Ethernet port through the management channel (R399, R400): the MTU, the UDP port
number, a peer with its address or none, an egress entry by 2^20 × PART + FID with its peer or none. -/
inductive EthSetting where
  | mtu (n : Nat)
  | udp (n : Nat)
  | peer (n : Nat) (address : Option Nat)
  | egress (key : Nat) (peer : Option Nat)
  deriving DecidableEq, Repr, Inhabited

/-- One Ethernet port with its egress table by 2^20 × PART + FID, peers with their addresses, UDP port number and MTU
(R399, R400), and the datagrams on the wire (peer, header, payload). -/
structure Eth where
  udp : Nat
  address : SMap Nat
  mtu : Nat
  peers : SMap Peer
  egress : SMap Nat
  wire : List (Nat × BitVec 128 × List W32)
  deriving DecidableEq, Repr, Inhabited

/-- What a completion waits for (R280, R424): a migration by its number, or, for an INVAL, the accesses of a partition that
were translated through entries now dropped. -/
inductive Wait where
  | migration (num : Nat)
  | inval (part : Nat)
  deriving DecidableEq, Repr, Inhabited

/-- A completion waiting to be written (R423): TAG, what it waits for, if anything, the status and the detail word. -/
structure Completion where
  tag : W32
  waits : Option Wait
  status : Nat
  detail : W64
  deriving DecidableEq, Repr, Inhabited

/-- A mailbox queue's registers (R421). -/
structure HostQueue where
  sqb : W64
  cqb : W64
  eqb : W64
  qcfg : W64
  sqt : W64
  cqh : W64
  eqh : W64
  qst : W64
  /-- completions and events waiting to be written, oldest first; of an event its words -/
  comps : List Completion
  events : List (List W64)
  deriving DecidableEq, Repr, Inhabited

/-! ## Which agent moves -/

/-- The unit that the step in progress concerns. MODEL. -/
structure Focus where
  tile : Nat
  strand : Strand
  shadow : Bool
  eng : Nat
  router : Nat
  port : Nat
  cls : Nat
  part : Nat
  die : Nat
  queue : Nat
  idx : Nat
  /-- 0: issue alone; 1: member of a bundle; 2: only find the verdict -/
  mode : Nat
  /-- verdict of a probe: 0 may issue, 1 blocked, 2 faults -/
  verdict : Nat
  /-- a bundle's loopr is taken (R76) -/
  follow : Bool
  /-- a bundle with a loopr member -/
  closes : Bool
  deriving DecidableEq, Repr, Inhabited

/-- One action of the agenda. MODEL. (DESIGN CHOICE, log 104) -/
inductive Action where
  /-- the strand tries to issue the word at its program counter -/
  | issue (tile : Nat) (st : Strand)
  /-- the shadow context tries to issue -/
  | shadowIssue (tile : Nat)
  /-- the engine takes its next record, group, packet or beat -/
  | engine (tile eng : Nat)
  /-- the packet at the head of an input channel meets its entry -/
  | arrive (router port cls : Nat)
  /-- the mailbox accepts its next command -/
  | mailbox
  /-- an event or command of the opcode table -/
  | row (f : Focus) (i : Instr)
  /-- a stored word becomes uncorrectable (R294): in a scratchpad, or in a tier of memory -/
  | upsetTile (tile word : Nat)
  | upsetMem (tier word : Nat)
  /-- an entry of a queue, a word of an accumulator, the packet at the head of a router's input channel, or an entry of
  its match table becomes uncorrectable (R294) -/
  | upsetQueue (tile queue place : Nat)
  | upsetAcc (tile word : Nat)
  | upsetInput (router channel : Nat)
  | upsetEntry (router part fid : Nat)
  /-- system software sets the flow stall limit to 2^k nclk (R265) -/
  | stallLimit (k : Nat)
  /-- the links of a router move flits for two nclk (R340) -/
  | links (router : Nat)
  /-- a query, an answer or a release comes from another package (R309, R311) -/
  | kvArrive (m : KvMsg)
  /-- a migration in progress copies a piece, or ends (R312) -/
  | migrate (num : Nat)
  /-- the entries of a launch that has ended are removed (R268) -/
  | dropEntries (part lid : Nat)
  /-- the host writes or reads a register of a queue page, at an offset of a function's BAR0 (R420, R421) -/
  | hostWrite (function offset : Nat) (v : W64)
  | hostRead (function offset : Nat)
  /-- system software sets something of an Ethernet port (R400) -/
  | ethSet (eth : Nat) (x : EthSetting)
  /-- the oldest event of a router's trace channel reaches its ring (R433) -/
  | traceMove (router : Nat)
  /-- a corrected single-bit error of a field record's kind (R293) -/
  | corrected (record : Nat)
  /-- an action of this clk whose time the manual does not fix waits for a later clk -/
  | late (a : Action)
  /-- the end of a clk -/
  | clk
  deriving DecidableEq, Repr, Inhabited

/-- The whole package. -/
structure State where
  /-- deterministic cycle counter (R34) -/
  dcc : Nat
  /-- pod time in 0.25 ns units with its fraction (R4, R37, R380) -/
  ptc : W64
  ptcf : BitVec 6
  /-- the part of a PTCF unit passed, in units of 1 / (K × 2^18) (R431) -/
  ptcr : Nat
  /-- pod-time servo (R382, R383): the offset being slewed away, in PTCF units, the pod time left to do so, exchanges
  in a row within the lock bound, and whether a lock has formed since reset (R385) -/
  servo : Int
  slewLeft : Nat
  streak : Nat
  everLocked : Bool
  tiles : SMap Tile
  routers : SMap Router
  /-- physical memory of the three tiers (R273) -/
  mem0 : Mem
  mem1 : Mem
  mem2 : Mem
  /-- 32-bit words of memory that hold an uncorrectable error: tier, address / 4 (R294) -/
  badMem : List (Nat × Nat)
  parts : SMap Partition
  units : List WorkUnit
  saves : List Saved
  incoming : List Incoming
  homes : List Home
  hsets : List HurdleSet
  /-- translation caches: of tiles, of clusters (8 for the mailbox); walks (R278, R279); failed walks to take -/
  tlbs : SMap (List TlbEntry)
  ccaches : SMap (List TlbEntry)
  walks : List Walk
  failed : List Walk
  /-- flow stall exponent k (R265) -/
  stallK : Nat
  /-- the next request's number; queries sent to other packages and not answered, answers that have come, and what is on
  the wire for other packages (MODEL); migrations in progress (R309, R311, R312) -/
  reqNum : Nat
  kvOpen : List KvQuery
  kvGot : List (KvQuery × Nat × List Triple)
  kvWire : List KvMsg
  migrations : List Migration
  /-- slot wheels by link (R340) -/
  wheels : SMap (BitVec 128)
  ports : SMap Port
  podcfg : W64
  syncst : W64
  drovecfg : W64
  eths : SMap Eth
  queues : SMap HostQueue
  served : Nat
  /-- the queue whose command has been accepted and is not yet performed (R424) -/
  accepted : Option Nat
  /-- PWRCAP, PWRST, BOOTST (R429, R431) -/
  pwrcap : W64
  pwrst : W64
  bootst : W64
  /-- the power drawn in the last milliseconds, the latest first, and the pod time since the end of the latest (R431) -/
  power : List Nat
  powerTime : Nat
  /-- pins and rails (R431) -/
  safePin : Bool
  thermtrip : Bool
  railsOn : Bool
  /-- released from package reset: the boot ROM has run (R428) -/
  booted : Bool
  /-- the serial flash: bytes written since it was made (R427) -/
  flash : SMap W8
  minsvn : Nat
  /-- field records by number, and the copy last written to flash; what has not yet made a whole unit of one, and its
  copy in flash; PTC at the last flush; no SHUTDOWN came before the last loss of power (R432) -/
  records : SMap W64
  flushed : SMap W64
  recAcc : SMap Nat
  flushedAcc : SMap Nat
  flushedAt : W64
  abrupt : Bool
  /-- trace clock and its valid bit (R434) -/
  trcClock : W64
  trcValid : Bool
  /-- trace rings' contents by 2 × partition + die: the record bytes written so far -/
  trace : SMap (List (List W64))
  /-- die error records (R294) -/
  errRec : SMap W64
  /-- the host's memory, outside the package. MODEL -/
  hostMem : Mem
  /-- MSI-X messages raised, as function and vector, and the registers of queue pages that the host has read, as
  function, BAR0 offset and value. MODEL -/
  msix : List (Nat × Nat)
  hostReads : List (Nat × Nat × W64)
  /-- outside events waiting to arrive. MODEL -/
  inputs : List Action
  /-- actions left in this clk. MODEL -/
  agenda : List Action
  focus : Focus
  /-- the next free value (Config.freeNat and the like). MODEL -/
  free : Nat
  deriving DecidableEq, Repr, Inhabited

/-! ## Reset -/

/-- A strand at the start of its task: no issue yet, so a first instruction with D = n waits n clk (R14). -/
def StrandSt.reset : StrandSt where
  pc := 0
  running := false
  age := 1
  minAge := 1
  blocked := 0
  wait := 0
  waitNum := 0
  waiting := false
  lastPc := 0
  faulted := false
  notIssued := false

/-- An idle engine with an empty posting queue (R206). -/
def Engine.reset : Engine where
  nxt := 0
  tail := 0
  csn := 0
  pq := []
  run := none
  chain := none
  away := none
  ended := false
  stopped := false

/-- A tile at package reset: no task, every register of R18 and R38 at its reset value. -/
def Tile.reset : Tile where
  sc := .reset
  sv := .reset
  sd := .reset
  se := .reset
  s := []
  v := []
  k := []
  fs := []
  vq := []
  q12 := []
  q13 := []
  q14 := []
  q15 := []
  st := []
  streq := []
  rg := []
  acc := []
  accM := []
  accL := []
  accF := []
  bt := []
  lc := []
  fc := []
  hur := []
  mx := .reset
  qz := .reset
  cp := .reset
  fi := .reset
  empty := 0
  hold := 0
  flags := 0
  raised := 0
  kept := 0
  modeRm := 0
  modeSt := false
  modeDet := false
  srseed := 0
  spoor := 0
  slip := 0
  vrb := 0
  krb := 0
  taskid := 0
  launchid := 0
  world := false
  span := none
  flight := []
  busyDiv := 0
  busyFe := 0
  busyFt := 0
  busyXl := 0
  busyPk := 0
  busyAc := 0
  dacc := []
  dseq := 0
  depoch := 0
  spoorNow := none
  reqs := []
  sseq := 0
  sp := []
  unseen := []
  observed := []
  bad := []
  badQ := []
  badAcc := []
  shadow := none
  shadowStore := []
  shadowImage := none
  res := none
  live := false
  used := 0
  resident := 0
  preq := none
  drain := none
  preload := none
  halted := false
  frozen := false
  cancelled := false
  stopDcc := 0
  stops := []

/-- A router with an empty match table (R233). -/
def Router.reset : Router where
  entries := []
  inq := []
  outq := []
  bellDcc := []
  badIn := []
  badFid := []
  stray := []
  fault := 0
  esel := 0
  trcfid := []
  stopped := []
  trq := []
  lost := []
  strayAt := none
  drvst := 0
  droveIn := []
  wmIn := []
  droveOut := []
  wmSent := []
  bellAt := []

/-- A partition at reset: every register 0 but AGEQ, which is 20 (R338, bits 25:20). -/
def Partition.reset : Partition where
  reg := 0x1400000#64
  t0a := 0
  t0b := 0
  t1 := 0
  t2 := 0
  ptroot := 0
  ssbase := 0
  sslen := 0
  kvfree := 0
  kvfptr := 0
  shbase := 0
  shlen := 0
  shGen := 0
  halts := 0
  stopbase := 0
  savebase := 0
  saven := 0
  trcring := []
  trcidx := []
  head := none
  releases := []
  reserved := []
  halt := none
  choice := false
  cancels := []

/-- A scale-up port before its link is up. -/
def Port.reset : Port where
  up := false
  waiting := []
  wheelPos := 0
  sendSeq := 0
  recvSeq := 0
  sent := []
  acked := 0xFFF
  retries := 0
  owed := []
  credit := []
  wire := []
  partly := []
  eseq := 0
  timeSent := none
  timeRecv := none
  stamps := none
  unanswered := []
  echoed := none

/-- An Ethernet port with no peer. -/
def Eth.reset : Eth where
  udp := 0
  address := []
  mtu := 1500
  peers := []
  egress := []
  wire := []

/-- A tunnel with a peer at its start. -/
def Peer.reset : Peer where
  sendSeq := 0
  recvSeq := 0
  window := []
  stash := []
  down := false

/-- A mailbox queue at reset (R421). -/
def HostQueue.reset : HostQueue where
  sqb := 0
  cqb := 0
  eqb := 0
  qcfg := 0
  sqt := 0
  cqh := 0
  eqh := 0
  qst := 0
  comps := []
  events := []

def Focus.reset : Focus where
  tile := 0
  strand := .c
  shadow := false
  eng := 0
  router := 0
  port := 0
  cls := 0
  part := 0
  die := 0
  queue := 0
  idx := 0
  mode := 0
  verdict := 0
  follow := false
  closes := false

/-- The package right after package reset releases the compute dies (R34): the boot ROM has not yet run, no
partition, task, flow entry or packet exists, and every register holds its reset value (the ones the manual gives
none are named in notes/assumptions). (DESIGN CHOICE, log 2) -/
def State.reset : State where
  dcc := 0
  ptc := 0
  ptcf := 0
  ptcr := 0
  servo := 0
  slewLeft := 0
  streak := 0
  everLocked := false
  tiles := []
  routers := []
  mem0 := []
  mem1 := []
  mem2 := []
  badMem := []
  parts := []
  units := []
  saves := []
  incoming := []
  homes := []
  hsets := []
  tlbs := []
  ccaches := []
  walks := []
  failed := []
  stallK := 30
  reqNum := 0
  kvOpen := []
  kvGot := []
  kvWire := []
  migrations := []
  wheels := []
  ports := []
  podcfg := 0
  syncst := 0
  drovecfg := 0xC800000000#64
  eths := []
  queues := []
  served := 15
  accepted := none
  pwrcap := 0x9600000000A#64
  pwrst := 0x8000000000000000#64
  bootst := 0
  power := []
  powerTime := 0
  safePin := false
  thermtrip := false
  railsOn := true
  booted := false
  flash := []
  minsvn := 0
  records := []
  flushed := []
  recAcc := []
  flushedAcc := []
  flushedAt := 0
  abrupt := false
  trcClock := 0
  trcValid := false
  trace := []
  errRec := []
  hostMem := []
  msix := []
  hostReads := []
  inputs := []
  agenda := []
  focus := .reset
  free := 0

/-! ## Outcomes -/

/-- Why the machine stops. -/
inductive Fault where
  /-- Raised by a step whose rails are off (R431): no agent of the package can act. Safe: the package is off. -/
  | noPower
  deriving DecidableEq, Repr

/-- Why a step has no meaning. -/
inductive Refusal where
  /-- Raised by an instruction whose meaning is not written, by name. Safe. -/
  | notModelled (mnemonic : String)
  deriving DecidableEq, Repr

end Sys2Proof.Machine
end

