-- ==== Sys2Proof/Machine/Ops.lean ====
section
/-! DEFINITION. The named operations over the state: units by number, registers, results in flight, the issue of an
instruction, and taking a fault (01_tile_machine.md, 12_faults.md R343 to R350). -/

namespace Sys2Proof.Machine

/-- The answer of a step. -/
abbrev Out := Host.Outcome State Fault Refusal

/-! ## Units by number -/

/-- Every value of a map. -/
def SMap.each {α : Type} (f : α → α) (m : SMap α) : SMap α := m.map fun x => (x.1, f x.2)

def State.tile (s : State) (t : Nat) : Tile := (SMap.find s.tiles t).getD Tile.reset
def State.setTile (s : State) (t : Nat) (x : Tile) : State := { s with tiles := SMap.put s.tiles t x }
def State.onTile (s : State) (t : Nat) (f : Tile → Tile) : State := s.setTile t (f (s.tile t))
def State.router (s : State) (r : Nat) : Router := (SMap.find s.routers r).getD Router.reset
def State.setRouter (s : State) (r : Nat) (x : Router) : State := { s with routers := SMap.put s.routers r x }
def State.onRouter (s : State) (r : Nat) (f : Router → Router) : State := s.setRouter r (f (s.router r))
def State.part (s : State) (p : Nat) : Partition := (SMap.find s.parts p).getD Partition.reset
def State.setPart (s : State) (p : Nat) (x : Partition) : State := { s with parts := SMap.put s.parts p x }
def State.onPart (s : State) (p : Nat) (f : Partition → Partition) : State := s.setPart p (f (s.part p))
def State.port (s : State) (p : Nat) : Port := (SMap.find s.ports p).getD Port.reset
def State.onPort (s : State) (p : Nat) (f : Port → Port) : State := { s with ports := SMap.put s.ports p (f (s.port p)) }
def State.eth (s : State) (e : Nat) : Eth := (SMap.find s.eths e).getD Eth.reset
def State.onEth (s : State) (e : Nat) (f : Eth → Eth) : State := { s with eths := SMap.put s.eths e (f (s.eth e)) }
def State.queue (s : State) (q : Nat) : HostQueue := (SMap.find s.queues q).getD HostQueue.reset
def State.onQueue (s : State) (q : Nat) (f : HostQueue → HostQueue) : State :=
  { s with queues := SMap.put s.queues q (f (s.queue q)) }

/-- The tile, the strand and the task of the step in progress. -/
def State.me (s : State) : Tile := s.tile s.focus.tile
def State.onMe (s : State) (f : Tile → Tile) : State := s.onTile s.focus.tile f

def Tile.str (t : Tile) : Strand → StrandSt
  | .c => t.sc
  | .v => t.sv
  | .d => t.sd
  | .e => t.se

def Tile.onStr (t : Tile) (st : Strand) (f : StrandSt → StrandSt) : Tile :=
  match st with
  | .c => { t with sc := f t.sc }
  | .v => { t with sv := f t.sv }
  | .d => { t with sd := f t.sd }
  | .e => { t with se := f t.se }

/-- The engine of a code: 0 MX, 1 QZ, 2 CP, 3 FI (R90). -/
def Tile.eng (t : Tile) : Nat → Engine
  | 0 => t.mx
  | 1 => t.qz
  | 2 => t.cp
  | _ => t.fi

def Tile.onEng (t : Tile) (e : Nat) (f : Engine → Engine) : Tile :=
  match e with
  | 0 => { t with mx := f t.mx }
  | 1 => { t with qz := f t.qz }
  | 2 => { t with cp := f t.cp }
  | _ => { t with fi := f t.fi }

/-- The number n of a tile in its partition's stop area (R351): 192 × die + 48 × cluster + index. -/
def tileNumber (tid : Nat) : Nat := 192 * bits tid 8 8 + 48 * bits tid 7 6 + bits tid 5 0
/-- Is the number a TID of one of the 384 tiles (R174)? -/
def tidOk (tid : Nat) : Bool := tid < 512 && tid % 64 < 48
/-- Cluster number 4 × die + cluster of a TID (R322). -/
def clusterOf (tid : Nat) : Nat := tid / 64
/-- The TID of an index of a cluster number. -/
def tidOf (cluster idx : Nat) : Nat := 64 * cluster + idx
/-- The die of a TID. -/
def dieOf (tid : Nat) : Nat := tid / 256

/-- The partition of a tile's task (0 where it runs none). -/
def Tile.partition (t : Tile) : Nat := (t.res.map (·.part)).getD 0

/-! ## Register files (R18, R19, R32) -/

/-- A scalar register; s0 reads as zero (R18, R74). -/
def Tile.sreg (t : Tile) (r : Nat) : W64 := if r = 0 then 0#64 else SMap.get 0#64 t.s r
/-- Write a scalar register; a write of s0 is discarded (R74). -/
def Tile.setS (t : Tile) (r : Nat) (v : W64) : Tile := if r = 0 then t else { t with s := SMap.set 0#64 t.s r v }

/-- The physical vector register of a name (R32). -/
def physV (vrb : BitVec 5) (n : Nat) : Nat := if n < 32 then n else 32 + (n - 32 + vrb.toNat) % 32
/-- The physical predicate register of a name (R32). -/
def physK (krb : BitVec 4) (n : Nat) : Nat := if n < 16 then n else 16 + (n - 16 + krb.toNat) % 16

/-- A vector register of zeros. -/
def zeroVec : List W32 := List.replicate 1024 0#32
/-- 64 zero lanes. -/
def zeroRow : List W32 := List.replicate 64 0#32
/-- A physical vector register: element 64r + c (R140). -/
def Tile.vreg (t : Tile) (r : Nat) : List W32 := SMap.get zeroVec t.v r
def Tile.setV (t : Tile) (r : Nat) (v : List W32) : Tile := { t with v := SMap.set zeroVec t.v r v }
/-- A physical predicate register; k0 is all true (R18). -/
def Tile.kreg (t : Tile) (r : Nat) : BitVec 1024 := if r = 0 then BitVec.allOnes 1024 else SMap.get 0#1024 t.k r
def Tile.setK (t : Tile) (r : Nat) (v : BitVec 1024) : Tile :=
  if r = 0 then t else { t with k := SMap.set 0#1024 t.k r v }
/-- A flag slot in the layout of R116 (ANY 13, ALL 12, NONE 11, COUNT 10:0); at reset none = 1 (R18). -/
def Tile.slot (t : Tile) (n : Nat) : BitVec 14 := SMap.get 0x800#14 t.fs n
def Tile.setSlot (t : Tile) (n : Nat) (v : BitVec 14) : Tile := { t with fs := SMap.set 0x800#14 t.fs n v }
def Tile.btReg (t : Tile) (i : Nat) : W64 := SMap.get 0#64 t.bt i
def Tile.setBt (t : Tile) (i : Nat) (v : W64) : Tile := { t with bt := SMap.set 0#64 t.bt i v }
def Tile.lcReg (t : Tile) (eng i : Nat) : W32 := SMap.get 0#32 t.lc (8 * eng + i)
def Tile.setLc (t : Tile) (eng i : Nat) (v : W32) : Tile := { t with lc := SMap.set 0#32 t.lc (8 * eng + i) v }
def Tile.fcReg (t : Tile) (n : Nat) : W32 := SMap.get 0#32 t.fc n
def Tile.setFc (t : Tile) (n : Nat) (v : W32) : Tile := { t with fc := SMap.set 0#32 t.fc n v }
def Tile.stReg (t : Tile) (n : Nat) : BitVec 256 := SMap.get 0#256 t.st n
def Tile.setSt (t : Tile) (n : Nat) (v : BitVec 256) : Tile := { t with st := SMap.set 0#256 t.st n v }
/-- A ring with no image: one field of R191 zero each. -/
def Ring.zero : Ring := ⟨0, 0, 0, 0, 0, 0, 0, 0, []⟩
def Tile.ring (t : Tile) (n : Nat) : Ring := SMap.get Ring.zero t.rg n
def Tile.setRing (t : Tile) (n : Nat) (r : Ring) : Tile := { t with rg := SMap.set Ring.zero t.rg n r }
def Hurdle.idle : Hurdle := ⟨false, false, 0, false, false, 0⟩
def Tile.hurdle (t : Tile) (n : Nat) : Hurdle := SMap.get Hurdle.idle t.hur n
def Tile.setHurdle (t : Tile) (n : Nat) (h : Hurdle) : Tile := { t with hur := SMap.set Hurdle.idle t.hur n h }
/-- The 64 sums of a row of an accumulator (R18, R166). -/
def Tile.accRow (t : Tile) (a r : Nat) : List W32 := SMap.get zeroRow t.acc (128 * a + r)
def Tile.setAccRow (t : Tile) (a r : Nat) (v : List W32) : Tile :=
  { t with acc := SMap.set zeroRow t.acc (128 * a + r) v }
def Tile.accMax (t : Tile) (a r : Nat) : W32 := SMap.get ninf32 t.accM (128 * a + r)
def Tile.setAccMax (t : Tile) (a r : Nat) (v : W32) : Tile := { t with accM := SMap.set ninf32 t.accM (128 * a + r) v }
def Tile.accDen (t : Tile) (a r : Nat) : W32 := SMap.get 0#32 t.accL (128 * a + r)
def Tile.setAccDen (t : Tile) (a r : Nat) (v : W32) : Tile := { t with accL := SMap.set 0#32 t.accL (128 * a + r) v }
def Tile.accFl (t : Tile) (a r : Nat) : W32 := SMap.get 0#32 t.accF (128 * a + r)
def Tile.setAccFl (t : Tile) (a r : Nat) (v : W32) : Tile := { t with accF := SMap.set 0#32 t.accF (128 * a + r) v }

/-! ## Time (R34 to R37) -/

/-- TCC of a tile: DCC − HOLD, 64 bits (R35). -/
def State.tcc (s : State) (t : Nat) : W64 := BitVec.ofNat 64 s.dcc - BitVec.ofNat 64 (s.tile t).hold

/-- Does the task's clock advance in this clk (R35)? -/
def Tile.clockRuns (t : Tile) : Bool :=
  t.live && t.shadow.isNone && !((t.drain.map (·.on)).getD false) && !t.halted && !t.frozen

/-- Is a halt of the partition under way (R348)? -/
def State.haltAge (s : State) (p : Nat) : Option Nat := (s.part p).halt.map (·.age)

/-- Do results in flight and MX steps advance in this clk (R36, R348)? -/
def State.latencyRuns (s : State) (t : Nat) : Bool :=
  let x := s.tile t
  !x.frozen && x.res.isSome &&
  (x.clockRuns || x.drain.isSome || (s.haltAge x.partition).isSome || (x.cancelled && x.halted))

/-! ## Free values -/

def State.freeNat (s : State) : Nat × State := (Config.freeNat s.free, { s with free := s.free + 1 })
def State.freeBit (s : State) : Bool × State := (Config.freeBit s.free, { s with free := s.free + 1 })

/-! ## Causes (R343) -/

def cILLEGAL : Nat := 0x01
def cALIGN : Nat := 0x02
def cFOREIGN : Nat := 0x03
def cCSDIRECT : Nat := 0x04
def cXLATE : Nat := 0x05
def cPERM : Nat := 0x06
def cWORLD : Nat := 0x07
def cTAG : Nat := 0x08
def cMISS : Nat := 0x09
def cSTALL : Nat := 0x0A
def cDETWW : Nat := 0x0B
def cDROVE : Nat := 0x0C
def cBUDGET : Nat := 0x0D
def cTRAP : Nat := 0x0E
def cECC : Nat := 0x0F
def cCANCEL : Nat := 0x10
def cFLOW : Nat := 0x11
def cWINDOW : Nat := 0x12

/-- A field record counts up, saturating (R432). -/
def State.countRecord (s : State) (i n : Nat) : State :=
  { s with records := SMap.set 0 s.records i (BitVec.ofNat 64 (min (2 ^ 64 - 1) ((SMap.get 0 s.records i).toNat + n))) }

/-! ## Taking a terminal fault (R347 to R350) -/

/-- HALTS (R350): H 63, CAUSE 62:55, SRC 54:51, TID or edge index 50:42, DONE 41, DCC 39:0. (DEDUCED, log 38) -/
def haltsWord (cause src id dcc : Nat) : W64 :=
  BitVec.ofNat 64 (2 ^ 63 + cause % 256 * 2 ^ 55 + src % 16 * 2 ^ 51 + id % 512 * 2 ^ 42 + dcc % 2 ^ 40)

/-- The place of a fault's source among faults of one clk (R350): tiles and their routers by TID, then edge routers
by edge index, then by source code. -/
def haltRank (src id : Nat) : Nat := (if src = 9 then 2 ^ 20 else 0) + id * 16 + src

/-- Raise a partition's halt line (R347, R350): the first fault is recorded, the line will reach each die within
16 clk (the clk is free, from the second after the fault, as the fixed stop records of R407 need); a fault of the same
clk whose source comes first replaces it; a later one changes nothing. An uncorrectable error is counted in the field
records (R294, R432). (DESIGN CHOICE, log 8) -/
def raiseHalt (s : State) (p cause src id : Nat) : State :=
  let s := if cause = cECC then s.countRecord 6 1 else s
  let x := s.part p
  let w := x.halts.toNat
  if !bitAt w 63 then
    let (a, s) := s.freeNat
    let (b, s) := s.freeNat
    s.setPart p { x with halts := haltsWord cause src id s.dcc, halt := some ⟨0, 2 + a % 15, 2 + b % 15, false, false⟩ }
  else if (x.halt.map (·.age)) = some 0 ∧ haltRank src id < haltRank (bits w 54 51) (bits w 50 42) then
    s.setPart p { x with halts := haltsWord cause src id s.dcc }
  else s

/-- HOLD and TCC as a C strand's record shows them (R353), in its bits 511:192. (DEDUCED, log 73) -/
def State.clockBits (s : State) (tid : Nat) : BitVec 320 :=
  BitVec.ofNat 320 ((s.tile tid).hold % 2 ^ 64 * 2 ^ 192 + (s.tcc tid).toNat * 2 ^ 128)

/-- A fault of one unit of a tile (R343, R352): the unit's stop information is kept (the C strand's with HOLD and TCC,
R353), and the halt line rises; a unit that has faulted takes no second fault. Unit codes are those of R352. -/
def unitFault (s : State) (tid unit cause xr : Nat) (pc : BitVec 21) (aux : BitVec 320) : State :=
  let t := s.tile tid
  if ((SMap.find t.stops unit).map (·.own)).getD false then s
  else
    let info : StopInfo := ⟨true, false, cause, xr, s.dcc, pc, if unit = 0 then aux ||| s.clockBits tid else aux, false⟩
    raiseHalt (s.setTile tid { t with stops := SMap.put t.stops unit info }) t.partition cause unit tid

/-- The bits 511:192 of a stop record that hold a pointer at 511:448 (R353, R354). (DEDUCED, log 100) -/
def auxPtr (p : W64) : BitVec 320 := BitVec.ofNat 320 (p.toNat * 2 ^ 256)

/-- A strand stands faulted: it issues nothing more, and its instruction has had no effect (R72, R348). -/
def stopStrand (s : State) (tid : Nat) (st : Strand) : State :=
  s.onTile tid fun t => t.onStr st fun x => { x with waiting := false, faulted := true }

/-- The faulting instruction of a strand (R72, R352). -/
def strandFault (s : State) (tid : Nat) (st : Strand) (cause : Nat) (ptr : W64) : State :=
  let pc := ((s.tile tid).str st).pc
  stopStrand (unitFault s tid st.code cause 0 pc (auxPtr ptr)) tid st

/-- End of a shadow service by a fault (R136, R138, R343, R346): the C strand's record takes the cause (XLATE for a
trap and a timeout, ILLEGAL for a word the context may not issue), SH and the trap immediate; the CP's record sets XH,
and where the cause is ILLEGAL the original XLATE stands there as the CP's own. (DEDUCED, log 27) -/
def shadowFault (s : State) (tid : Nat) (cause : Nat) (imm : Nat) : State :=
  let t := s.tile tid
  let ptr := ((t.shadow.map (·.items)).getD []).getD 1 0#64
  let aux := BitVec.ofNat 320 (ptr.toNat * 2 ^ 256 + 2 ^ 103 + imm % 2 ^ 24 * 2 ^ 104)
  let s := unitFault s tid 0 cause 0 t.sc.pc aux
  let xh := auxPtr ptr ||| BitVec.ofNat 320 (2 ^ 128)
  let s := if cause = cILLEGAL then unitFault s tid 6 cXLATE 0 0 xh else s
  s.onTile tid fun t => { t with
    shadow := t.shadow.map fun h => { h with st := { h.st with running := false } }
    stops := match SMap.find t.stops 6 with
      | some i => SMap.put t.stops 6 { i with aux := i.aux ||| BitVec.ofNat 320 (2 ^ 128) }
      | none => SMap.put t.stops 6 ⟨false, false, 0, 0, s.dcc, 0, xh, false⟩ }

/-! ## Issue -/

/-- What an instruction finds at its issue: it may issue, it blocks (WAIT code and number of R352), or it faults
with a cause and the pointer concerned. -/
inductive Check where
  | go
  | block (wait num : Nat)
  | fault (cause : Nat) (ptr : W64)
  deriving DecidableEq, Repr, Inhabited

/-- Two checks together: an instruction that blocks does not issue, so its faults wait (R26, R72); else the first fault
stands. (DEDUCED, log 22) -/
def Check.and (a b : Check) : Check :=
  match a, b with
  | .go, b => b
  | .block w n, _ => .block w n
  | .fault _ _, .block w n => .block w n
  | .fault c p, _ => .fault c p

/-- A condition that must hold, else a fault. -/
def Check.need (ok : Bool) (cause : Nat) (ptr : W64) : Check := if ok then .go else .fault cause ptr
/-- A condition that must hold, else the instruction blocks. -/
def Check.wait (ok : Bool) (w n : Nat) : Check := if ok then .go else .block w n

def Check.verdict : Check → Nat
  | .go => 0
  | .block _ _ => 1
  | .fault _ _ => 2

/-- The strand counts one more clk blocked at its instruction (R26, R27). -/
def blockStrand (s : State) (w n : Nat) : State :=
  s.onMe fun t => t.onStr s.focus.strand fun x => { x with waiting := true, wait := w, waitNum := n }

/-- A fault at issue, of the strand or of the shadow context (R72, R136). -/
def issueFault (s : State) (cause : Nat) (ptr : W64) : State :=
  if s.focus.shadow then shadowFault s s.focus.tile cILLEGAL 0
  else strandFault s s.focus.tile s.focus.strand cause ptr

/-- Attempt one issue: on a probe only the verdict is noted; a member of a bundle whose members may all issue has its
effect; else a fault is taken, a block is counted, or the instruction has its effect. -/
def issue (s : State) (c : Check) (eff : State → State) : Out :=
  if s.focus.mode = 2 then .next { s with focus := { s.focus with verdict := c.verdict } }
  else if s.focus.mode = 1 then .next (eff s)
  else match c with
    | .go => .next (eff s)
    | .block w n => .next (blockStrand s w n)
    | .fault cause ptr => .next (issueFault s cause ptr)

/-- The issuing program counter, of the strand or of the shadow context. -/
def State.pcNow (s : State) : BitVec 21 :=
  if s.focus.shadow then (s.me.shadow.map (·.st.pc)).getD 0 else (s.me.str s.focus.strand).pc

/-- The strand's state after an issue: program counter, and the clk before the next issue (R14, R105). -/
def StrandSt.issued (x : StrandSt) (pc : BitVec 21) (minAge : Nat) : StrandSt :=
  { x with pc := pc, age := 0, minAge := minAge, blocked := 0, waiting := false, wait := 0, waitNum := 0
           lastPc := x.pc }

/-- One covered instruction of an open pblk span has issued (R86). -/
def Span.tick (p : Option Span) : Option Span :=
  match p with
  | none => none
  | some x => if x.left ≤ 1 then none else some { x with left := x.left - 1, pattern := x.pattern >>> 1 }

/-- The issue of an instruction moves its strand to an address (R21, R105). -/
def State.moveTo (s : State) (pc : BitVec 21) (minAge : Nat) : State :=
  if s.focus.shadow then
    s.onMe fun t => { t with shadow := t.shadow.map fun h => { h with st := h.st.issued pc minAge } }
  else
    s.onMe fun t =>
      let t := t.onStr s.focus.strand fun x => x.issued pc minAge
      if s.focus.strand = .v then { t with span := Span.tick t.span } else t

/-- An instruction that does not branch: the next word, in the next clk at the earliest. -/
def State.retire (s : State) : State := s.moveTo (s.pcNow + 8#21) 1
/-- A taken branch: two bubbles follow (R105). -/
def State.jump (s : State) (target : BitVec 21) : State := s.moveTo target 3

/-! ## Scalar operands of the issuing strand (R74, R136) -/

/-- A scalar source: of the task, or of the shadow bank in the shadow context. -/
def State.rs (s : State) (r : BitVec 6) : W64 :=
  if s.focus.shadow then
    if r = 0#6 then 0#64 else SMap.get 0#64 ((s.me.shadow.map (·.regs)).getD []) r.toNat
  else s.me.sreg r.toNat

/-- A result enters flight: due after `lat` clk (R28), behind those issued before it. -/
def Tile.fly (t : Tile) (lat : Nat) (tgt : Target) (fl : Flags) (unit : Nat) : Tile :=
  { t with flight := t.flight ++ [⟨lat, tgt, fl, unit⟩] }

/-- A scalar result of the C strand or of the shadow context. -/
def State.result (s : State) (sd : BitVec 6) (lat : Nat) (v : W64) (fl : Flags) : State :=
  if s.focus.shadow then
    s.onMe fun t => { t with shadow := t.shadow.map fun h =>
      { h with flight := h.flight ++ [⟨lat, .scalar sd.toNat v, fl, 0⟩] } }
  else s.onMe fun t => t.fly lat (.scalar sd.toNat v) fl 0

/-- Any other result in flight of the focus tile. -/
def State.fly (s : State) (lat : Nat) (tgt : Target) (fl : Flags) (unit : Nat) : State :=
  s.onMe fun t => t.fly lat tgt fl unit

/-- An instruction that the shadow context may not issue faults there (R136). (DEDUCED, log 18) -/
def State.taskOnly (s : State) (c : Check) : Check := if s.focus.shadow then .fault cILLEGAL 0 else c
/-- An instruction that only the shadow context may issue (R78). -/
def State.shadowOnly (s : State) (c : Check) : Check := if s.focus.shadow then c else .fault cILLEGAL 0

/-! ## Flags (R39, R63) -/

/-- Hardware sets flags (R39). -/
def Tile.raise (t : Tile) (fl : Flags) : Tile :=
  { t with flags := t.flags ||| fl, raised := t.raised ||| fl, kept := t.kept ||| fl }

/-! ## Fetch checks (R22) -/

/-- The fetch faults of an address: PERM outside the code region, ALIGN off a word within it. In the shadow context an
address at or beyond LEN is ILLEGAL (R139), and so is one off a word. (DEDUCED, log 21) -/
def State.targetFault (s : State) (a : Nat) : Option Nat :=
  if s.focus.shadow then
    let len := (s.me.shadowImage.map (·.2.2)).getD 0
    if a + 8 > len ∨ a % 8 ≠ 0 then some cILLEGAL else none
  else match s.me.res with
    | none => some cPERM
    | some r =>
      if a < r.codeBase ∨ r.codeBase + r.codeSize ≤ a then some cPERM
      else if a % 8 ≠ 0 then some cALIGN
      else if r.codeBase + r.codeSize < a + 8 then some cPERM else none

/-- The word address plus 8 × OFF (R75, R77). -/
def State.relTarget (s : State) (off : BitVec 21) : Int := (s.pcNow.toNat : Int) + 8 * off.toInt

/-- The check of a taken branch's target (R22, R105). -/
def State.branchCheck (s : State) (target : Int) : Check :=
  if target < 0 ∨ target ≥ 2 ^ 21 then .fault (if s.focus.shadow then cILLEGAL else cPERM) (BitVec.ofInt 64 target)
  else match s.targetFault target.toNat with
    | some c => .fault c (BitVec.ofInt 64 target)
    | none => .go

/-- Take a branch if `taken`, else go on. -/
def State.branch (s : State) (taken : Bool) (target : Int) : State :=
  if taken then s.jump (BitVec.ofInt 21 target) else s.retire

/-- The check of a branch: its target only when it is taken (R105). -/
def State.branchIf (s : State) (taken : Bool) (target : Int) : Check := if taken then s.branchCheck target else .go

/-! ## Pointers (R173 to R176, R217) -/

/-- Which windows an agent may use beside the private and its own scratchpad window. -/
structure Reach where
  cluster : Bool
  global : Bool
  deriving DecidableEq, Repr

/-- Is a reserved bit of the pointer set (R174)? A global pointer holds zero in bits 59:48. -/
def ptrReserved (p : Nat) : Bool :=
  match bits p 63 60 with
  | 0x8 => bits p 59 21 != 0
  | 0x9 => bits p 59 57 != 0 || bits p 47 21 != 0
  | 0xA => bits p 59 54 != 0 || bits p 47 21 != 0
  | _ => bits p 59 48 != 0

/-- The pointer checks of R173 in their order, for the address `off` bytes from the pointer with the given alignment:
the first fault's cause. (DEDUCED, log 30) -/
def ptrFault (tid : Nat) (r : Reach) (p : W64) (off : Int) (align : Nat) : Option Nat :=
  let w := bits p.toNat 63 60
  if w ≠ 0 ∧ w ≠ 8 ∧ w ≠ 9 ∧ w ≠ 10 then some cWINDOW
  else if w = 0 ∧ !r.global then some cWINDOW
  else if w = 10 ∧ !r.cluster then some cCSDIRECT
  else if ptrReserved p.toNat ∨ ((w = 9 ∨ w = 10) ∧ bits p.toNat 53 48 > 47) then some cWINDOW
  else if w = 9 ∧ bits p.toNat 56 48 ≠ tid then some cFOREIGN
  else if (((if w = 0 then bits p.toNat 47 0 else bits p.toNat 20 0) : Int) + off) % align ≠ 0 then some cALIGN
  else none

/-- The same as a check of an issuing strand. -/
def ptrCheck (tid : Nat) (r : Reach) (p : W64) (off : Int) (align : Nat) : Check :=
  match ptrFault tid r p off align with
  | some c => .fault c p
  | none => .go

/-- A byte offset added to a pointer; only bits 20:0 change, as an exact signed sum kept apart (R174). -/
def ptrOffset (p : W64) : Int := (bits p.toNat 20 0 : Nat)

/-- The scratchpad addresses of `n` bytes at an exact offset in a window of a tile: the address where they are in
range, else the SPOOR offset of the lowest offending byte (R175). -/
def spAddr (r : Residence) (priv : Bool) (off : Int) (n : Nat) : Except Nat Nat :=
  let size : Int := if priv then r.privSize else 0x180000
  let base : Nat := if priv then r.privBase else 0
  if 0 ≤ off ∧ off + n ≤ size then .ok (base + off.toNat)
  else
    let low : Int := if off < 0 then off else max off size
    .error (((base + low) % 2 ^ 21).toNat)

/-- Do `n` bytes at an address meet a range? -/
def overlaps (a n base size : Nat) : Bool := a < base + size && base < a + n

/-- Does an access reach the standby region (R42, R176)? (DEDUCED, log 70) -/
def Tile.inStandby (t : Tile) (a n : Nat) : Bool :=
  match t.preload with
  | some p => overlaps a n p.base p.size
  | none => false
/-- Does an access reach the code region of the running task (R22, R176)? -/
def Tile.inCode (t : Tile) (a n : Nat) : Bool :=
  match t.res with
  | some r => overlaps a n r.codeBase r.codeSize
  | none => false

/-! ## The scratchpad's errors (R294) -/

/-- Words that `n` bytes at an address replace whole. -/
def coversWord (a n w : Nat) : Bool := a ≤ 4 * w && 4 * w + 4 ≤ a + n

/-- Do `n` bytes of the scratchpad hold an uncorrectable error? -/
def Tile.spBad (t : Tile) (a n : Nat) : Bool := t.bad.any fun w => overlaps a n (4 * w) 4
/-- Would a write merge with such a word? -/
def Tile.spMergeBad (t : Tile) (a n : Nat) : Bool := t.bad.any fun w => overlaps a n (4 * w) 4 && !coversWord a n w
/-- Write bytes of the scratchpad: words replaced whole lose their error, and D sees the words written as they are. -/
def Tile.spWrite (t : Tile) (a : Nat) (l : List W8) : Tile :=
  { t with
    sp := Mem.writeBytes t.sp a l
    bad := t.bad.filter fun w => !coversWord a l.length w
    unseen := t.unseen.filter fun u => !overlaps a l.length (4 * u.word) 4 }

/-! ## Errors of queues and accumulators (R293, R294) -/

/-- The number of a word of accumulator row `key` (128 × accumulator + row): its sums 0 to 63, then m, l and the row
flags. -/
def accWord (key i : Nat) : Nat := 67 * key + i
/-- Does one of the words hold an uncorrectable error? -/
def Tile.accBad (t : Tile) (ws : List Nat) : Bool := t.badAcc.any ws.contains
/-- Words that are replaced whole lose their error. -/
def Tile.accClear (t : Tile) (ws : List Nat) : Tile := { t with badAcc := t.badAcc.filter fun w => !ws.contains w }
/-- Does one of the oldest `n` entries of a queue hold an uncorrectable error? -/
def Tile.queueBad (t : Tile) (q n : Nat) : Bool := t.badQ.any fun x => x.1 == q && decide (x.2 < n)
/-- The errors of a queue move up as `n` entries leave it. -/
def Tile.queueMoved (t : Tile) (q n : Nat) : Tile :=
  { t with badQ := t.badQ.filterMap fun x =>
      if x.1 ≠ q then some x else if x.2 < n then none else some (q, x.2 - n) }

/-! ## What the D strand sees of the engines' writes (R201, R212, R282, R285) -/

/-- A 32-bit CSN has reached a number (R210). -/
def csnReached (c n : W32) : Bool := (c - n).toNat < 2 ^ 31

/-- The tile with the scratchpad as its D strand sees it at a DCC. -/
def Tile.seen (t : Tile) (dcc : Nat) : Tile :=
  { t with sp := t.unseen.foldl (fun m u => if dcc < u.till then Mem.writeN m (4 * u.word) 4 u.old else m) t.sp }

/-- The words that D may not see yet after an engine's write of `n` bytes: a word hidden already stays as it was before
the first write of it, for as long. -/
def Tile.unseenAfter (t : Tile) (dcc a n : Nat) (w : Nat × W32) : List Unseen :=
  let live := t.unseen.filter fun u => dcc < u.till
  let words := (List.range ((a + n + 3) / 4 - a / 4)).map (a / 4 + ·)
  live.map (fun u => if words.contains u.word then { u with writes := u.writes ++ [w] } else u) ++
    (words.filter fun k => !live.any fun u => u.word == k).map fun k =>
      ⟨k, Mem.readN t.sp (4 * k) 4, [w], dcc + Config.sightDelay dcc k⟩

/-- A write of an engine of the tile. -/
def Tile.spWriteEng (t : Tile) (dcc a : Nat) (l : List W8) (eng : Nat) (num : W32) : Tile :=
  { t.spWrite a l with unseen := t.unseenAfter dcc a l.length (eng, num) }

/-- A strand observes a CSN of an engine (R212); an older one than it has observed tells nothing new. -/
def Tile.observe (t : Tile) (eng : Nat) (c : W32) : Tile :=
  if csnReached ((SMap.find t.observed eng).getD 0) c then t else { t with observed := SMap.put t.observed eng c }

/-- From now on D sees every engine write whose CSN a strand has observed: an xfence (R201), and what releases or acquires
(R128, R214, R284, R287). -/
def Tile.acquire (t : Tile) : Tile :=
  { t with unseen := t.unseen.filter fun u =>
      !u.writes.any fun w => csnReached ((SMap.find t.observed w.1).getD 0) w.2 }

/-! ## Region rules and SPOOR (R41, R176) -/

/-- The region rule of R176 for an in-range access. -/
def Tile.regionFault (t : Tile) (write : Bool) (a n : Nat) : Bool := t.inStandby a n || (write && t.inCode a n)

/-- SPOOR's word (R41). -/
def spoorWord (w : Bool) (src tid off : Nat) : W64 :=
  BitVec.ofNat 64 (2 ^ 63 + b2n w * 2 ^ 62 + src % 16 * 2 ^ 58 + tid % 512 * 2 ^ 21 + off % 2 ^ 21)

/-- Record an out-of-range access (R41, R175): the first one stands, and of those in one clk the lowest source.
(DEDUCED, log 23) -/
def Tile.offend (t : Tile) (w : Bool) (src tid off : Nat) : Tile :=
  let first := !bitAt t.spoor.toNat 63
  let earlier := match t.spoorNow with
    | some c => src < c
    | none => false
  if first || earlier then { t with spoor := spoorWord w src tid off, spoorNow := some src } else t

end Sys2Proof.Machine
end

