-- ==== Sys2Proof/Machine/Flags.lean ====
section
/-! DEFINITION. The flags and the control and status registers (R38 to R41, R117), the condition codes of integers
(R79) and the flag slots' tests (R112, R116, R165). -/

namespace Sys2Proof.Machine

/-- The integer conditions of R79; codes 6 and 7 are reserved. -/
def icond (c : Nat) (a b : W64) : Bool :=
  match c with
  | 0 => a == b
  | 1 => a != b
  | 2 => a.slt b
  | 3 => !a.slt b
  | 4 => a.ult b
  | _ => !a.ult b

/-- 1 or 0. -/
def boolWord (b : Bool) : W64 := if b then 1#64 else 0#64

/-- A flag slot's word (R116). -/
def slotVal (any all none : Bool) (count : Nat) : BitVec 14 :=
  BitVec.ofNat 14 (b2n any * 2 ^ 13 + b2n all * 2 ^ 12 + b2n none * 2 ^ 11 + count)

/-- What ptest writes for `n` true elements of `e` examined (R165). -/
def ptestSlot (n e : Nat) : BitVec 14 := slotVal (n > 0) (n == e) (n == 0) n

/-- The tests of bf (R112): 0 any, 1 all, 2 none, 3 count ≠ 0. -/
def slotTest (v : BitVec 14) (k : Nat) : Bool :=
  match k with
  | 0 => bitAt v.toNat 13
  | 1 => bitAt v.toNat 12
  | 2 => bitAt v.toNat 11
  | _ => bits v.toNat 10 0 != 0

/-- MODE's word (R40). -/
def Tile.modeWord (t : Tile) : Nat := b2n t.modeSt * 16 + b2n t.modeDet * 8 + t.modeRm.toNat

/-- The value of a control and status register at issue (R38, R117), zero-extended. -/
def State.csrValue (s : State) (tid n : Nat) : W64 :=
  let t := s.tile tid
  match n with
  | 0x000 => s.tcc tid
  | 0x001 => BitVec.ofNat 64 s.dcc
  | 0x002 => s.ptc
  | 0x010 => t.flags.setWidth 64
  | 0x011 => BitVec.ofNat 64 t.modeWord
  | 0x012 => t.srseed.setWidth 64
  | 0x013 => t.spoor
  | 0x014 => t.slip.setWidth 64
  | 0x018 => t.vrb.setWidth 64
  | 0x019 => t.krb.setWidth 64
  | 0x020 => t.taskid.setWidth 64
  | 0x021 => t.launchid.setWidth 64
  | 0x022 => boolWord t.world
  | _ => 0

/-- The new value of an RW field from the old one (R117): 0 csrw, 1 csrs, 2 csrc. -/
def csrNew (kind : Nat) (old a : W64) : W64 :=
  match kind with
  | 0 => a
  | 1 => old ||| a
  | _ => old &&& ~~~a

/-- The RW bits of SPOOR (R41): V 63, W 62, SRC 61:58, TID 29:21, OFFSET 20:0. -/
def spoorMask : W64 := 0xFC0000003FFFFFFF#64

/-- A CSR write as it takes effect in the clk after its issue (R38, R39, R117): FLAGS clears the flags whose bit is 1 but
for those set from the clk of the write on; reserved and RO bits are ignored; other registers of the table are RO. (DEDUCED, log 109) -/
def Tile.csrWrite (t : Tile) (n kind : Nat) (a : W64) : Tile :=
  match n with
  | 0x010 => { t with flags := t.flags &&& ~~~(a.setWidth 8 &&& ~~~t.kept) }
  | 0x011 =>
    let w := (csrNew kind (BitVec.ofNat 64 t.modeWord) a).toNat
    { t with modeRm := BitVec.ofNat 3 w, modeSt := bitAt w 4 }
  | 0x012 => { t with srseed := (csrNew kind (t.srseed.setWidth 64) a).setWidth 32 }
  | 0x013 => { t with spoor := csrNew kind t.spoor a &&& spoorMask }
  | 0x014 => { t with slip := (csrNew kind (t.slip.setWidth 64) a).setWidth 32 }
  | 0x018 => { t with vrb := (csrNew kind (t.vrb.setWidth 64) a).setWidth 5 }
  | 0x019 => { t with krb := (csrNew kind (t.krb.setWidth 64) a).setWidth 4 }
  | _ => t

/-- A write that would set MODE.RM to 5, 6 or 7 faults (R40). -/
def Tile.csrWriteOk (t : Tile) (n kind : Nat) (a : W64) : Bool :=
  n != 0x011 || (csrNew kind (BitVec.ofNat 64 t.modeWord) a).toNat % 8 < 5

/-- SLIP counts one record more, saturating (R38, R220). -/
def Tile.slipOnce (t : Tile) : Tile := if t.slip = 0xFFFFFFFF#32 then t else { t with slip := t.slip + 1 }

end Sys2Proof.Machine
end

