-- ==== Sys2Proof/Machine/Operands.lean ====
section
/-! DEFINITION. The operand forms of the V strand (R80, R81, R140 to R144): specifiers, queue pops and pushes, the
scalar broadcast, guards and pblk spans, and the queues' occupancy that every strand's blocking rests on (R25, R26). -/

namespace Sys2Proof.Machine

/-! ## Queues (R25, R26) -/

/-- The rows held in a vector queue, oldest first. -/
def Tile.vqRows (t : Tile) (q : Nat) : List QRow := (SMap.find t.vq q).getD []
def Tile.setVq (t : Tile) (q : Nat) (l : List QRow) : Tile := { t with vq := SMap.put t.vq q l }

/-- The entries at the front of a queue that may be popped: those with a value, up to the first without. -/
def popable : List QWord → List W64
  | [] => []
  | x :: xs => match x.val with
    | some v => v :: popable xs
    | none => []

/-- The landed rows at the front of a vector queue. -/
def landedRows : List QRow → List (List W32)
  | [] => []
  | x :: xs => match x.row with
    | some v => v :: landedRows xs
    | none => []

/-- A scalar queue's entries that a pop may take: q12 and q13 of the D strand, q15 of the engines, q14 of the C
strand. -/
def Tile.squeue (t : Tile) (n : Nat) : List W64 :=
  match n with
  | 12 => popable t.q12
  | 13 => popable t.q13
  | 14 => t.q14
  | _ => popable t.q15

/-- The CSN of a cseq word is observed (R211, R212). -/
def Tile.observeWord (t : Tile) (w : Option W64) : Tile :=
  match w with
  | some w => t.observe (bits w.toNat 63 62) (w.setWidth 32)
  | none => t

/-- Remove the oldest entry of a scalar queue. -/
def Tile.squeuePop (t : Tile) (n : Nat) : Tile :=
  let t := t.queueMoved n 1
  match n with
  | 12 => { t with q12 := t.q12.drop 1 }
  | 13 => { t with q13 := t.q13.drop 1 }
  | 14 => { t with q14 := t.q14.drop 1 }
  | _ => { t.observeWord ((t.squeue 15).head?) with q15 := t.q15.drop 1 }

/-- The check of a pop (R115, R294): a word is there, and it holds no uncorrectable error. -/
def Tile.popCheck (t : Tile) (n : Nat) : Check :=
  (Check.wait (!(t.squeue n).isEmpty) 1 n).and (Check.need (!t.queueBad n 1) cECC 0)

/-- Words on their way into q14 (a push of the last clk). (DEDUCED, log 19) -/
def Tile.q14Coming (t : Tile) : Nat :=
  (t.flight.filter fun f => match f.tgt with
    | .q14 _ => true
    | _ => false).length

/-- Free entries of q12 (false) or q13 (true), of 32 (R25); an allocated entry is taken. -/
def Tile.dqFree (t : Tile) (q13 : Bool) : Nat := 32 - (if q13 then t.q13.length else t.q12.length)

/-- Allocate an entry of q12 or q13 (R172). -/
def Tile.dqAlloc (t : Tile) (q13 : Bool) (tag : Nat) : Tile :=
  if q13 then { t with q13 := t.q13 ++ [⟨tag, none⟩] } else { t with q12 := t.q12 ++ [⟨tag, none⟩] }

/-- Give the entry allocated under a tag its word. -/
def fillWord (l : List QWord) (tag : Nat) (v : W64) : List QWord :=
  l.map fun x => if x.tag = tag then { x with val := some v } else x

/-- Fill the entry of q12 or q13. -/
def Tile.dqFill (t : Tile) (q13 : Bool) (tag : Nat) (v : W64) : Tile :=
  if q13 then { t with q13 := fillWord t.q13 tag v } else { t with q12 := fillWord t.q12 tag v }

/-! ## Vector sources -/

/-- The 1,024 elements of 16 rows. -/
def joinRows (l : List (List W32)) : List W32 := l.flatten
/-- The 16 rows of 1,024 elements. -/
def splitRows (v : List W32) : List (List W32) := tab 16 fun r => (v.drop (64 * r)).take 64

/-- The queue that a source specifier pops (R80). -/
def srcQueue (v : BitVec 7) : Option Nat := if 64 ≤ v.toNat ∧ v.toNat < 72 then some (v.toNat - 64) else none

/-- Pops of each queue among the sources, and whether the queue holds rows for all of them (R26): the first queue
that does not. -/
def Tile.popWait (t : Tile) (srcs : List (BitVec 7)) : Option Nat :=
  let qs := srcs.filterMap srcQueue
  qs.find? fun q => (landedRows (t.vqRows q)).length < 16 * (qs.filter (· == q)).length

/-- Does a row that the sources pop hold an uncorrectable error (R294)? -/
def Tile.popBad (t : Tile) (srcs : List (BitVec 7)) : Bool :=
  let qs := srcs.filterMap srcQueue
  qs.any fun q => t.queueBad q (16 * (qs.filter (· == q)).length)

/-- A source operand's elements (R80), and the tile with its rows popped. -/
def Tile.vsrc (t : Tile) (v : BitVec 7) (ss : W64) : List W32 × Tile :=
  if v.toNat < 64 then (t.vreg (physV t.vrb v.toNat), t)
  else match srcQueue v with
    | some q => (joinRows ((landedRows (t.vqRows q)).take 16), (t.setVq q ((t.vqRows q).drop 16)).queueMoved q 16)
    | none => (List.replicate 1024 (ss.setWidth 32), t)

/-! ## Guards (R81, R86, R142) -/

/-- The guard of the instruction at issue: of the open span, or kg with KN. -/
def Tile.guard (t : Tile) (kg : BitVec 5) (kn : Bool) : BitVec 1024 :=
  match t.span with
  | some p => if bitAt p.pattern.toNat 0 then p.pred else ~~~p.pred
  | none =>
    let m := t.kreg (physK t.krb kg.toNat)
    if kn then ~~~m else m

/-- A covered instruction names no guard of its own (R86). -/
def Tile.guardCheck (t : Tile) (kg : BitVec 5) (kn : Bool) : Check :=
  Check.need (t.span.isNone || (kg == 0#5 && !kn)) cILLEGAL 0
/-- A covered instruction is no pblk, jmp, lpf or fin (R86). -/
def Tile.noSpan (t : Tile) : Check := Check.need t.span.isNone cILLEGAL 0

/-- The guard's elements in index order. -/
def maskList (m : BitVec 1024) : List Bool := tab 1024 fun i => m.getLsbD i
/-- A predicate from its elements in index order. -/
def ofMaskGo : List Bool → Nat
  | [] => 0
  | b :: bs => b2n b + 2 * ofMaskGo bs
def ofMask (l : List Bool) : BitVec 1024 := BitVec.ofNat 1024 (ofMaskGo l)

/-! ## Vector destinations (R142, R143) -/

/-- The queue that a destination specifier pushes. -/
def dstQueue (v : BitVec 7) : Option Nat := if 72 ≤ v.toNat ∧ v.toNat < 76 then some (v.toNat - 64) else none

/-- A destination queue must have 16 free entries (R143). -/
def Tile.pushWait (t : Tile) (v : BitVec 7) : Option Nat :=
  match dstQueue v with
  | some q => if (t.vqRows q).length = 0 then none else some q
  | none => none

/-- Disabled elements as the all-zero word (R142). -/
def zeroDisabled (m : List Bool) (v : List W32) : List W32 :=
  List.zipWith (fun b x => if b then x else 0#32) m v

/-- A vector result enters flight: into a physical register under the guard, or into 16 rows allocated now. -/
def Tile.vdst (t : Tile) (vd : BitVec 7) (lat : Nat) (mask : BitVec 1024) (v : List W32) (fl : Flags) : Tile :=
  match dstQueue vd with
  | none => t.fly lat (.vector (physV t.vrb vd.toNat) mask v) fl 1
  | some q =>
    let tag := t.dseq
    let t := t.setVq q (t.vqRows q ++ List.replicate 16 ⟨tag, none, 0⟩)
    { t with dseq := tag + 1 }.fly lat (.rows q tag (splitRows (zeroDisabled (maskList mask) v))) fl 1

/-- The checks of a vector instruction at issue: guard under a span, rows for its pops, room for its push. -/
def Tile.vcheck (t : Tile) (kg : BitVec 5) (kn : Bool) (srcs : List (BitVec 7)) (dst : Option (BitVec 7)) : Check :=
  (t.guardCheck kg kn).and
    (match t.popWait srcs with
      | some q => .block 1 q
      | none => match dst.bind t.pushWait with
        | some q => .block 1 q
        | none => Check.need (!t.popBad srcs) cECC 0)

/-- The rounding mode of an RM field (R83): 7 is MODE.RM at issue. -/
def Tile.rmode (t : Tile) (rm : BitVec 3) : Nat := if rm = 7#3 then t.modeRm.toNat else rm.toNat

/-! ## Elementwise evaluation -/

/-- A unary operation in every element, the flags of the enabled ones gathered. -/
def map1 (f : W32 → W32 × Flags) (m : List Bool) (a : List W32) : List W32 × Flags :=
  let r := a.map f
  (r.map (·.1), (List.zip m r).foldl (fun acc x => if x.1 then acc ||| x.2.2 else acc) f0)

/-- A binary operation in every element. -/
def map2 (f : W32 → W32 → W32 × Flags) (m : List Bool) (a b : List W32) : List W32 × Flags :=
  let r := List.zipWith f a b
  (r.map (·.1), (List.zip m r).foldl (fun acc x => if x.1 then acc ||| x.2.2 else acc) f0)

/-- A ternary operation in every element. -/
def map3 (f : W32 → W32 → W32 → W32 × Flags) (m : List Bool) (a b c : List W32) : List W32 × Flags :=
  let r := List.zipWith (fun x yz => f x yz.1 yz.2) a (List.zip b c)
  (r.map (·.1), (List.zip m r).foldl (fun acc x => if x.1 then acc ||| x.2.2 else acc) f0)

end Sys2Proof.Machine
end

