-- ==== Sys2Proof/Machine/Control.lean ====
section
/-! DEFINITION. The C strand's own instructions (04_control_strand.md R104 to R120, R126 to R128, R135, R137) and the
instructions common to the strands (R75, R76). -/

namespace Sys2Proof.Machine

/-! ## Arithmetic (R104, R107 to R110) -/

/-- An instruction whose only effect is one scalar result after `lat` clk. -/
def scalarOp (s : State) (sd : BitVec 6) (lat : Nat) (v : W64) : Out :=
  issue s .go fun s => (s.result sd lat v f0).retire

/-- Bits 127:64 of a product, signed or natural (R107). -/
def mulHigh (natural : Bool) (a b : W64) : W64 :=
  if natural then (a.setWidth 128 * b.setWidth 128).extractLsb' 64 64
  else (a.signExtend 128 * b.signExtend 128).extractLsb' 64 64

/-- a < b, natural or signed. -/
def lessThan (natural : Bool) (a b : W64) : Bool := if natural then a.ult b else a.slt b

/-- The quotient and remainder of R109, with ZD for a zero divisor. -/
def divide (natural : Bool) (a b : W64) : W64 × W64 × Flags :=
  if b = 0#64 then (BitVec.allOnes 64, a, fZD)
  else if natural then (a / b, a % b, f0)
  else (BitVec.ofInt 64 (a.toInt.tdiv b.toInt), BitVec.ofInt 64 (a.toInt.tmod b.toInt), f0)

/-- A division holds the divider for 20 clk and lands after 20 (R104, R109). -/
def divOp (s : State) (sd : BitVec 6) (v : W64) (fl : Flags) : Out :=
  issue s .go fun s =>
    (if s.focus.shadow then
      s.onMe fun t => { t with shadow := t.shadow.map fun h =>
        { h with flight := h.flight ++ [⟨20, .scalar sd.toNat v, fl, 8⟩], divBusy := 20 } }
    else s.onMe fun t => { t.fly 20 (.scalar sd.toNat v) fl 8 with busyDiv := 20 }).retire

/-- Count of leading zeros of the low `n` bits of a number. -/
def clzGo (w : Nat) : Nat → Nat
  | 0 => 0
  | n + 1 => if bitAt w n then 0 else 1 + clzGo w n
/-- Count of trailing zeros, up to `n`. -/
def ctzGo (w : Nat) : Nat → Nat
  | 0 => 0
  | n + 1 => if w % 2 = 1 then 0 else 1 + ctzGo (w / 2) n
/-- Count of one bits among the low `n`. -/
def popGo (w : Nat) : Nat → Nat
  | 0 => 0
  | n + 1 => w % 2 + popGo (w / 2) n

/-- The counts of bitc (R110): 0 leading zeros, 1 trailing zeros, 2 one bits. -/
def bitCount (k : Nat) (a : W64) : W64 :=
  BitVec.ofNat 64 (match k with
    | 0 => clzGo a.toNat 64
    | 1 => ctzGo a.toNat 64
    | _ => popGo a.toNat 64)

/-- The extension of the low 8, 16 or 32 bits (R110). -/
def extend (natural : Bool) (w : Nat) (a : W64) : W64 :=
  match w, natural with
  | 0, true => (a.setWidth 8).setWidth 64
  | 0, false => (a.setWidth 8).signExtend 64
  | 1, true => (a.setWidth 16).setWidth 64
  | 1, false => (a.setWidth 16).signExtend 64
  | _, true => (a.setWidth 32).setWidth 64
  | _, false => (a.setWidth 32).signExtend 64

/-- add (R107). -/
def execAdd (sd sa sb : BitVec 6) (s : State) : Out := scalarOp s sd 1 (s.rs sa + s.rs sb)
/-- sub (R107). -/
def execSub (sd sa sb : BitVec 6) (s : State) : Out := scalarOp s sd 1 (s.rs sa - s.rs sb)
/-- and (R107). -/
def execAnd (sd sa sb : BitVec 6) (s : State) : Out := scalarOp s sd 1 (s.rs sa &&& s.rs sb)
/-- or (R107). -/
def execOr (sd sa sb : BitVec 6) (s : State) : Out := scalarOp s sd 1 (s.rs sa ||| s.rs sb)
/-- xor (R107). -/
def execXor (sd sa sb : BitVec 6) (s : State) : Out := scalarOp s sd 1 (s.rs sa ^^^ s.rs sb)
/-- shl (R107). -/
def execShl (sd sa sb : BitVec 6) (s : State) : Out := scalarOp s sd 1 (s.rs sa <<< ((s.rs sb).toNat % 64))
/-- shr (R107). -/
def execShr (sd sa sb : BitVec 6) (s : State) : Out := scalarOp s sd 1 (s.rs sa >>> ((s.rs sb).toNat % 64))
/-- sra (R107). -/
def execSra (sd sa sb : BitVec 6) (s : State) : Out := scalarOp s sd 1 ((s.rs sa).sshiftRight ((s.rs sb).toNat % 64))
/-- mul (R107). -/
def execMul (sd sa sb : BitVec 6) (s : State) : Out := scalarOp s sd 3 (s.rs sa * s.rs sb)
/-- mulh (R107). -/
def execMulh (n : Bool) (sd sa sb : BitVec 6) (s : State) : Out := scalarOp s sd 3 (mulHigh n (s.rs sa) (s.rs sb))
/-- div (R109). -/
def execDiv (n : Bool) (sd sa sb : BitVec 6) (s : State) : Out :=
  divOp s sd (divide n (s.rs sa) (s.rs sb)).1 (divide n (s.rs sa) (s.rs sb)).2.2
/-- rem (R109). -/
def execRem (n : Bool) (sd sa sb : BitVec 6) (s : State) : Out :=
  divOp s sd (divide n (s.rs sa) (s.rs sb)).2.1 (divide n (s.rs sa) (s.rs sb)).2.2
/-- min (R107). -/
def execMin (n : Bool) (sd sa sb : BitVec 6) (s : State) : Out :=
  scalarOp s sd 1 (if lessThan n (s.rs sb) (s.rs sa) then s.rs sb else s.rs sa)
/-- max (R107). -/
def execMax (n : Bool) (sd sa sb : BitVec 6) (s : State) : Out :=
  scalarOp s sd 1 (if lessThan n (s.rs sa) (s.rs sb) then s.rs sb else s.rs sa)
/-- cmp (R110). -/
def execCmp (cond : BitVec 3) (sd sa sb : BitVec 6) (s : State) : Out :=
  scalarOp s sd 1 (boolWord (icond cond.toNat (s.rs sa) (s.rs sb)))
/-- sel (R110). -/
def execSel (sd sa sb sc : BitVec 6) (s : State) : Out :=
  scalarOp s sd 1 (if s.rs sc = 0#64 then s.rs sb else s.rs sa)
/-- ext (R110). -/
def execExt (n : Bool) (w : BitVec 2) (sd sa : BitVec 6) (s : State) : Out :=
  scalarOp s sd 1 (extend n w.toNat (s.rs sa))
/-- bitc (R110). -/
def execBitc (k : BitVec 2) (sd sa : BitVec 6) (s : State) : Out := scalarOp s sd 1 (bitCount k.toNat (s.rs sa))
/-- addi (R108). -/
def execAddi (sd sa : BitVec 6) (imm : BitVec 32) (s : State) : Out :=
  scalarOp s sd 1 (s.rs sa + imm.signExtend 64)
/-- andi (R108). -/
def execAndi (sd sa : BitVec 6) (imm : BitVec 32) (s : State) : Out :=
  scalarOp s sd 1 (s.rs sa &&& imm.setWidth 64)
/-- ori (R108). -/
def execOri (sd sa : BitVec 6) (imm : BitVec 32) (s : State) : Out :=
  scalarOp s sd 1 (s.rs sa ||| imm.setWidth 64)
/-- xori (R108). -/
def execXori (sd sa : BitVec 6) (imm : BitVec 32) (s : State) : Out :=
  scalarOp s sd 1 (s.rs sa ^^^ imm.setWidth 64)
/-- shli (R108). -/
def execShli (sd sa : BitVec 6) (imm : BitVec 32) (s : State) : Out :=
  scalarOp s sd 1 (s.rs sa <<< (imm.toNat % 64))
/-- shri (R108). -/
def execShri (sd sa : BitVec 6) (imm : BitVec 32) (s : State) : Out :=
  scalarOp s sd 1 (s.rs sa >>> (imm.toNat % 64))
/-- srai (R108). -/
def execSrai (sd sa : BitVec 6) (imm : BitVec 32) (s : State) : Out :=
  scalarOp s sd 1 ((s.rs sa).sshiftRight (imm.toNat % 64))
/-- muli (R108). -/
def execMuli (sd sa : BitVec 6) (imm : BitVec 32) (s : State) : Out :=
  scalarOp s sd 3 (s.rs sa * imm.signExtend 64)
/-- cmpi (R108). -/
def execCmpi (cond : BitVec 3) (sd sa : BitVec 6) (imm : BitVec 32) (s : State) : Out :=
  scalarOp s sd 1 (boolWord (icond cond.toNat (s.rs sa) (imm.signExtend 64)))
/-- li (R108). -/
def execLi (sd : BitVec 6) (imm : BitVec 32) (s : State) : Out := scalarOp s sd 1 (imm.signExtend 64)
/-- lih (R108). -/
def execLih (sd sa : BitVec 6) (imm : BitVec 32) (s : State) : Out :=
  scalarOp s sd 1 ((s.rs sa &&& 0xFFFFFFFF#64) ||| (imm.setWidth 64 <<< 32))

/-! ## Common to the strands (R75, R76) -/

/-- nop (R75): of any strand. -/
def execNop (s : State) : Out := issue s .go State.retire

/-- May any access of the D strand still be outstanding (R186, R204)? -/
def Tile.dIdle (t : Tile) : Bool :=
  t.dacc.isEmpty && t.streq.all (fun x => x.2.all fun r => r.left == 0)

/-- fin (R75): the strand stops. A D strand waits until every access is performed and every stream idle (R204); a V
strand may not stand in a pblk span (R86); the shadow context may not issue it (R136). -/
def execFin (s : State) : Out :=
  issue s
    (s.taskOnly
      (match s.focus.strand with
        | .v => s.me.noSpan
        | .d => Check.wait s.me.dIdle 6 0
        | _ => .go))
    fun s => (s.retire).onMe fun t => t.onStr s.focus.strand fun x => { x with running := false }

/-- jmp (R75): of the V, D and E strands. -/
def execJmp (off : BitVec 21) (s : State) : Out :=
  issue s (s.taskOnly ((if s.focus.strand = .v then s.me.noSpan else .go).and (s.branchCheck (s.relTarget off))))
    fun s => s.branch true (s.relTarget off)

/-- lpf (R75, R76): only in a bundle whose C member is loopr; it follows that loopr. -/
def execLpf (off : BitVec 21) (s : State) : Out :=
  issue s
    (s.taskOnly ((Check.need s.focus.closes cILLEGAL 0).and
      ((if s.focus.strand = .v then s.me.noSpan else .go).and (s.branchIf s.focus.follow (s.relTarget off)))))
    fun s => s.branch s.focus.follow (s.relTarget off)

/-! ## Branches (R105, R111 to R113) -/

/-- br (R111). -/
def execBr (off : BitVec 21) (s : State) : Out :=
  issue s (s.branchCheck (s.relTarget off)) fun s => s.branch true (s.relTarget off)

/-- bc (R111). -/
def execBc (cond : BitVec 3) (sa sb : BitVec 6) (off : BitVec 21) (s : State) : Out :=
  let taken := icond cond.toNat (s.rs sa) (s.rs sb)
  issue s (s.branchIf taken (s.relTarget off)) fun s => s.branch taken (s.relTarget off)

/-- bf (R111, R112). -/
def execBf (fs test : BitVec 2) (inv : Bool) (off : BitVec 21) (s : State) : Out :=
  let taken := slotTest (s.me.slot fs.toNat) test.toNat != inv
  issue s (s.taskOnly (s.branchIf taken (s.relTarget off))) fun s => s.branch taken (s.relTarget off)

/-- jr (R111). -/
def execJr (sa : BitVec 6) (s : State) : Out :=
  let target : Int := ((s.rs sa).toNat : Nat)
  issue s (s.branchCheck target) fun s => s.branch true target

/-- call (R111): the return address lands after 1 clk. -/
def execCall (sd : BitVec 6) (off : BitVec 21) (s : State) : Out :=
  issue s (s.branchCheck (s.relTarget off)) fun s =>
    (s.result sd 1 ((s.pcNow + 8#21).setWidth 64) f0).branch true (s.relTarget off)

/-- What loopr makes of its trip register (R113): the new LC and EC, the stage, whether the bases rotate and whether
the branch is taken. -/
structure Loop where
  lc : Nat
  ec : Nat
  stage : Bool
  rotate : Bool
  taken : Bool
  deriving DecidableEq, Repr

/-- R113's choice. -/
def loopNext (v : W64) : Loop :=
  let lc := bits v.toNat 31 0
  let ec := bits v.toNat 39 32
  if lc ≠ 0 then ⟨lc - 1, ec, true, true, true⟩
  else if ec > 1 then ⟨0, ec - 1, false, true, true⟩
  else if ec = 1 then ⟨0, 0, false, true, false⟩
  else ⟨0, 0, false, false, false⟩

/-- The trip register's new value (R113). -/
def loopWord (v : W64) : W64 :=
  BitVec.ofNat 64 (bits v.toNat 63 40 * 2 ^ 40 + (loopNext v).ec * 2 ^ 32 + (loopNext v).lc)

/-- loopr (R113): trip register, rotation bases and the newest stage predicate, from the next clk. -/
def execLoopr (sd : BitVec 6) (off : BitVec 21) (s : State) : Out :=
  let v := s.rs sd
  let l := loopNext v
  issue s (s.taskOnly (s.branchIf l.taken (s.relTarget off))) fun s =>
    let s := s.result sd 1 (loopWord v) f0
    let s :=
      if l.rotate then
        let vrb := s.me.vrb - 1
        let krb := s.me.krb - 1
        s.fly 1 (.bases vrb krb (physK krb 16) l.stage) f0 0
      else s
    s.branch l.taken (s.relTarget off)

/-! ## Queues and flag slots (R115, R116) -/

/-- pop (R115). -/
def execPop (sd : BitVec 6) (n : BitVec 4) (s : State) : Out :=
  issue s (s.taskOnly (s.me.popCheck n.toNat)) fun s =>
    ((s.result sd 1 ((s.me.squeue n.toNat).headD 0) f0).onMe fun t => t.squeuePop n.toNat).retire

/-- push (R115): the word is in q14 from the next clk. -/
def execPush (sa : BitVec 6) (_n : BitVec 4) (s : State) : Out :=
  issue s (s.taskOnly (Check.wait (s.me.q14.length + s.me.q14Coming < 32) 1 14)) fun s =>
    (s.fly 1 (.q14 (s.rs sa)) f0 0).retire

/-- qlen (R115). -/
def execQlen (sd : BitVec 6) (n : BitVec 4) (s : State) : Out :=
  issue s (s.taskOnly .go) fun s => (s.result sd 1 (BitVec.ofNat 64 (s.me.squeue n.toNat).length) f0).retire

/-- rdfs (R116). -/
def execRdfs (sd : BitVec 6) (n : BitVec 4) (s : State) : Out :=
  issue s (s.taskOnly .go) fun s => (s.result sd 1 ((s.me.slot n.toNat).setWidth 64) f0).retire

/-! ## Control and status registers (R38, R117) -/

/-- csrr: the value at issue, after 2 clk. -/
def execCsrr (sd : BitVec 6) (csr : BitVec 12) (s : State) : Out :=
  scalarOp s sd 2 (s.csrValue s.focus.tile csr.toNat)

/-- A write of a control and status register takes effect from the next clk (R38). -/
def csrOp (s : State) (csr : BitVec 12) (kind : Nat) (a : W64) : Out :=
  issue s (s.taskOnly (Check.need (s.me.csrWriteOk csr.toNat kind a) cILLEGAL 0)) fun s =>
    ((s.fly 1 (.csr csr.toNat kind a) f0 0).onMe fun t => { t with kept := t.raised }).retire

/-- csrw (R117). -/
def execCsrw (csr : BitVec 12) (sa : BitVec 6) (s : State) : Out := csrOp s csr 0 (s.rs sa)
/-- csrs (R117). -/
def execCsrs (csr : BitVec 12) (sa : BitVec 6) (s : State) : Out := csrOp s csr 1 (s.rs sa)
/-- csrc (R117). -/
def execCsrc (csr : BitVec 12) (sa : BitVec 6) (s : State) : Out := csrOp s csr 2 (s.rs sa)

/-! ## Random numbers, tables (R118 to R120) -/

/-- SplitMix64 of R118. -/
def splitMix (a b : W64) : W64 :=
  let z := a + (b + 1#64) * 0x9E3779B97F4A7C15#64
  let z := (z ^^^ (z >>> 30)) * 0xBF58476D1CE4E5B9#64
  let z := (z ^^^ (z >>> 27)) * 0x94D049BB133111EB#64
  z ^^^ (z >>> 31)

/-- The uniform f32 of R118: (z >> 40) × 2^−24, exact. -/
def uniform32 (z : W64) : W64 :=
  (toF32 0 0#32 (.fin false (z >>> 40).toNat (-24) false)).1.setWidth 64

/-- rand (R118). -/
def execRand (u : Bool) (sd sa sb : BitVec 6) (s : State) : Out :=
  let z := splitMix (s.rs sa) (s.rs sb)
  issue s (s.taskOnly .go) fun s => (s.result sd 4 (if u then uniform32 z else z) f0).retire

/-- btr (R119). -/
def execBtr (sd : BitVec 6) (idx : BitVec 12) (s : State) : Out :=
  issue s (s.taskOnly .go) fun s => (s.result sd 1 (s.me.btReg idx.toNat) f0).retire

/-- btw (R119): a record that starts from the next clk sees it. -/
def execBtw (idx : BitVec 12) (sa : BitVec 6) (s : State) : Out :=
  issue s (s.taskOnly .go) fun s => (s.fly 1 (.base idx.toNat (s.rs sa)) f0 0).retire

/-- lcw (R120). -/
def execLcw (eng : BitVec 2) (idx : BitVec 12) (sa : BitVec 6) (s : State) : Out :=
  issue s (s.taskOnly .go) fun s =>
    (s.fly 1 (.loopCount eng.toNat idx.toNat ((s.rs sa).setWidth 32)) f0 0).retire

/-! ## Completion counters (R127, R128) -/

/-- Has a 32-bit counter reached a number: (C − n) mod 2^32 < 2^31 (R127, R129)? -/
def reached (c n : W32) : Bool := csnReached c n

/-- The task acquires (R128, R284): D sees what it has observed. -/
def State.acquire (s : State) : State := s.onMe Tile.acquire

/-- fcrd (R127, R128). -/
def execFcrd (sd : BitVec 6) (idx : BitVec 12) (s : State) : Out :=
  issue s (s.taskOnly .go) fun s => (s.result sd 2 ((s.me.fcReg idx.toNat).setWidth 64) f0).acquire.retire

/-- fcw (R127). -/
def execFcw (idx : BitVec 12) (sa : BitVec 6) (s : State) : Out :=
  issue s (s.taskOnly .go) fun s =>
    (s.onMe fun t => t.setFc idx.toNat ((s.rs sa).setWidth 32)).retire

/-- fcwt (R127, R128). -/
def execFcwt (idx : BitVec 12) (sa : BitVec 6) (s : State) : Out :=
  issue s (s.taskOnly (Check.wait (reached (s.me.fcReg idx.toNat) ((s.rs sa).setWidth 32)) 3 idx.toNat)) fun s =>
    s.acquire.retire

/-! ## Launch, trap, shadow reads (R126, R135, R137) -/

/-- The pointer of a launch record (R126): the global window or the tile's own scratchpad, a multiple of 64. -/
def lnchFault (tid : Nat) (p : W64) : Option Nat :=
  let w := bits p.toNat 63 60
  if w ≠ 0 ∧ w ≠ 9 then some cWINDOW else ptrFault tid ⟨false, true⟩ p 0 64

/-- Records of the partition handed over by lnch and not yet admitted (R126). -/
def State.launchQueue (s : State) (p : Nat) : Nat :=
  (s.incoming.filter fun i => i.part == p && i.fromTile.isSome).length

/-- The job of a tile's task. -/
def State.jobOf (s : State) (t : Tile) : Nat :=
  match t.res with
  | some r => match s.units.find? (fun u => u.part == r.part && u.level == 0 && u.id == r.lid && !u.ended) with
    | some u => u.jid
    | none => 0
  | none => 0

/-- The fold of a tile's task's launch, 0 for none. -/
def State.foldOfTile (s : State) (t : Tile) : Nat :=
  match t.res with
  | some r => match s.units.find? (fun u => u.part == r.part && u.level == 0 && u.id == r.lid && !u.ended) with
    | some u => u.fold
    | none => 0
  | none => 0

/-- lnch (R126). The record is read later, after the D strand's stores that were issued before. -/
def execLnch (sa : BitVec 6) (s : State) : Out :=
  let p := s.rs sa
  issue s
    (s.taskOnly ((match lnchFault s.focus.tile p with
        | some c => Check.fault c p
        | none => .go).and (Check.wait (s.launchQueue s.me.partition < 16) 6 0)))
    fun s =>
      ({ s with incoming := s.incoming ++
          [{ part := s.me.partition, die := dieOf s.focus.tile, ptr := p, fromTile := some s.focus.tile, words := none
             secure := s.me.world, jid := s.jobOf s.me, after := s.me.dseq, fold := s.foldOfTile s.me }] } :
        State).retire

/-- trap (R135): a terminal TRAP with imm in the C record; in the shadow context the original fault becomes terminal,
imm going into its record (R138). A bundle with a trap faults, so that its other members do not issue (R73). -/
def execTrap (imm : BitVec 24) (s : State) : Out :=
  if s.focus.mode = 2 then .next { s with focus := { s.focus with verdict := 2 } }
  else issue s .go fun s =>
    if s.focus.shadow then shadowFault s s.focus.tile cXLATE imm.toNat
    else
      stopStrand (unitFault s s.focus.tile 0 cTRAP 0 s.me.sc.pc (BitVec.ofNat 320 (imm.toNat * 2 ^ 104)))
        s.focus.tile .c

/-- shi (R137): a fault item of the service. -/
def execShi (sd : BitVec 6) (imm : BitVec 24) (s : State) : Out :=
  issue s (s.shadowOnly .go) fun s =>
    (s.result sd 2 (((s.me.shadow.map (·.items)).getD []).getD imm.toNat 0) f0).retire

end Sys2Proof.Machine
end

