-- ==== Sys2Proof/Machine/Vector.lean ====
section
/-! DEFINITION. The V strand (05_vector_strand.md R140 to R169). -/

namespace Sys2Proof.Machine

/-! ## Units and shared forms (R141, R145) -/

/-- The units of the V strand (R145). -/
inductive VUnit where
  | fe | ft | xl | pk | ac
  deriving DecidableEq, Repr

/-- Hold a unit for its occupancy (R30, R145). -/
def Tile.holdUnit (t : Tile) : VUnit → Tile
  | .fe => { t with busyFe := 4 }
  | .ft => { t with busyFt := 8 }
  | .xl => { t with busyXl := 4 }
  | .pk => { t with busyPk := 1 }
  | .ac => { t with busyAc := 1 }

/-- A vector form with `n` sources read in field order and one vector destination: `f` gives, from the guard's
elements and the sources, the elements written, the mask of the destination and the flags. -/
def vectorOp (s : State) (o : VOps) (n : Nat) (u : VUnit) (lat : Nat)
    (f : BitVec 1024 → List W32 → List W32 → List W32 → BitVec 1024 × List W32 × Flags) : Out :=
  let srcs := [o.va, o.vb, o.vc].take n
  issue s (s.me.vcheck o.kg o.kn srcs (some o.vd)) fun s =>
    (s.onMe fun t =>
      let ss := t.sreg o.ss.toNat
      let g := t.guard o.kg o.kn
      let (a, t) := if n ≥ 1 then t.vsrc o.va ss else (zeroVec, t)
      let (b, t) := if n ≥ 2 then t.vsrc o.vb ss else (zeroVec, t)
      let (c, t) := if n ≥ 3 then t.vsrc o.vc ss else (zeroVec, t)
      let (m, v, fl) := f g a b c
      (t.vdst o.vd lat m v fl).holdUnit u).retire

/-- An elementwise unary form. -/
def unaryOp (s : State) (o : VOps) (u : VUnit) (lat : Nat) (f : W32 → W32 × Flags) : Out :=
  vectorOp s o 1 u lat fun g a _ _ => let r := map1 f (maskList g) a; (g, r.1, r.2)

/-- An elementwise binary form. -/
def binaryOp (s : State) (o : VOps) (u : VUnit) (lat : Nat) (f : W32 → W32 → W32 × Flags) : Out :=
  vectorOp s o 2 u lat fun g a b _ => let r := map2 f (maskList g) a b; (g, r.1, r.2)

/-- An elementwise ternary form. -/
def ternaryOp (s : State) (o : VOps) (u : VUnit) (lat : Nat) (f : W32 → W32 → W32 → W32 × Flags) : Out :=
  vectorOp s o 3 u lat fun g a b c => let r := map3 f (maskList g) a b c; (g, r.1, r.2)

/-! ## Floating-point arithmetic (R146, R147) -/

/-- The rounding mode and seed of the instruction at issue (R58, R83). -/
def State.rm (s : State) (rm : BitVec 3) : Nat := s.me.rmode rm

/-- vadd (R146). -/
def execVadd (o : VOps) (rm : BitVec 3) (s : State) : Out := binaryOp s o .fe 6 (fadd (s.rm rm) s.me.srseed)
/-- vsub (R146). -/
def execVsub (o : VOps) (rm : BitVec 3) (s : State) : Out := binaryOp s o .fe 6 (fsub (s.rm rm) s.me.srseed)
/-- vmul (R146). -/
def execVmul (o : VOps) (rm : BitVec 3) (s : State) : Out := binaryOp s o .fe 6 (fmul (s.rm rm) s.me.srseed)
/-- vfma (R146). -/
def execVfma (o : VOps) (rm : BitVec 3) (s : State) : Out :=
  ternaryOp s o .fe 6 (ffma (s.rm rm) s.me.srseed false false)
/-- vfms (R146). -/
def execVfms (o : VOps) (rm : BitVec 3) (s : State) : Out :=
  ternaryOp s o .fe 6 (ffma (s.rm rm) s.me.srseed false true)
/-- vfnma (R146). -/
def execVfnma (o : VOps) (rm : BitVec 3) (s : State) : Out :=
  ternaryOp s o .fe 6 (ffma (s.rm rm) s.me.srseed true false)
/-- vmax (R147). -/
def execVmax (o : VOps) (s : State) : Out := binaryOp s o .fe 6 fun a b => (fmax a b, f0)
/-- vmin (R147). -/
def execVmin (o : VOps) (s : State) : Out := binaryOp s o .fe 6 fun a b => (fmin a b, f0)
/-- vabs (R147). -/
def execVabs (o : VOps) (s : State) : Out :=
  unaryOp s o .fe 6 fun a => (if isNan32 a then nan32 else a &&& 0x7FFFFFFF#32, f0)
/-- vneg (R147). -/
def execVneg (o : VOps) (s : State) : Out :=
  unaryOp s o .fe 6 fun a => (if isNan32 a then nan32 else a ^^^ 0x80000000#32, f0)
/-- vmov (R147). -/
def execVmov (o : VOps) (s : State) : Out := unaryOp s o .fe 6 fun a => (a, f0)

/-! ## Exponential, logarithm, estimates, refinements (R148 to R151) -/

/-- vexp2 (R148). -/
def execVexp2 (o : VOps) (rm : BitVec 3) (s : State) : Out :=
  unaryOp s o .ft 10 fun a => exp2Of (s.rm rm) s.me.srseed (ofF32 a)
/-- vlog2 (R148). -/
def execVlog2 (o : VOps) (rm : BitVec 3) (s : State) : Out :=
  unaryOp s o .ft 10 fun a => log2f (s.rm rm) s.me.srseed a
/-- vrcpe (R149). -/
def execVrcpe (o : VOps) (s : State) : Out := unaryOp s o .fe 6 rcpe
/-- vrsqe (R150). -/
def execVrsqe (o : VOps) (s : State) : Out := unaryOp s o .fe 6 rsqe
/-- vrcpn (R151). -/
def execVrcpn (o : VOps) (s : State) : Out := binaryOp s o .fe 8 (newton false)
/-- vrsqn (R151). -/
def execVrsqn (o : VOps) (s : State) : Out := binaryOp s o .fe 8 (newton true)

/-! ## Integers (R152, R153) -/

/-- The element width of a lane type (R82). -/
def ltWidth (lt : BitVec 3) : Nat := match lt.toNat % 4 with
  | 0 => 32
  | 1 => 16
  | _ => 8
/-- Is the lane type natural? -/
def ltNatural (lt : BitVec 3) : Bool := bitAt lt.toNat 2

/-- A value of `w` bits as an integer, signed unless natural. -/
def asInt (natural : Bool) (w x : Nat) : Int :=
  if !natural ∧ x ≥ 2 ^ (w - 1) then (x : Int) - 2 ^ w else x

/-- Apply an operation to the sub-elements of `w` bits of two lanes; results wrap modulo 2^w (R45, R152). -/
def laneMap2 (w : Nat) (f : Nat → Nat → Nat) (a b : W32) : W32 :=
  BitVec.ofNat 32 ((List.range (32 / w)).foldl
    (fun acc i => acc + f (bits a.toNat (w * i + w - 1) (w * i)) (bits b.toNat (w * i + w - 1) (w * i)) % 2 ^ w *
      2 ^ (w * i)) 0)

/-- A packed binary integer form: `f natural w a b`. -/
def intOp2 (s : State) (o : VOps) (lt : BitVec 3) (f : Bool → Nat → Nat → Nat → Nat) : Out :=
  binaryOp s o .fe 6 fun a b => (laneMap2 (ltWidth lt) (f (ltNatural lt) (ltWidth lt)) a b, f0)

/-- The high w bits of a product. -/
def imulHigh (natural : Bool) (w a b : Nat) : Nat :=
  ((asInt natural w a * asInt natural w b) % (2 ^ (2 * w) : Int)).toNat / 2 ^ w

/-- viadd (R152). -/
def execViadd (o : VOps) (lt : BitVec 3) (s : State) : Out := intOp2 s o lt fun _ _ a b => a + b
/-- visub (R152). -/
def execVisub (o : VOps) (lt : BitVec 3) (s : State) : Out := intOp2 s o lt fun _ w a b => a + 2 ^ w - b
/-- vimul (R152). -/
def execVimul (o : VOps) (lt : BitVec 3) (s : State) : Out := intOp2 s o lt fun _ _ a b => a * b
/-- vimulh (R152). -/
def execVimulh (o : VOps) (lt : BitVec 3) (s : State) : Out := intOp2 s o lt fun n w a b => imulHigh n w a b
/-- vimin (R152). -/
def execVimin (o : VOps) (lt : BitVec 3) (s : State) : Out :=
  intOp2 s o lt fun n w a b => if asInt n w b < asInt n w a then b else a
/-- vimax (R152). -/
def execVimax (o : VOps) (lt : BitVec 3) (s : State) : Out :=
  intOp2 s o lt fun n w a b => if asInt n w a < asInt n w b then b else a
/-- viand (R152). -/
def execViand (o : VOps) (lt : BitVec 3) (s : State) : Out := intOp2 s o lt fun _ _ a b => a &&& b
/-- vior (R152). -/
def execVior (o : VOps) (lt : BitVec 3) (s : State) : Out := intOp2 s o lt fun _ _ a b => a ||| b
/-- vixor (R152). -/
def execVixor (o : VOps) (lt : BitVec 3) (s : State) : Out := intOp2 s o lt fun _ _ a b => a ^^^ b
/-- vishl (R152). -/
def execVishl (o : VOps) (lt : BitVec 3) (s : State) : Out := intOp2 s o lt fun _ w a b => a <<< (b % w)
/-- vishr (R152). -/
def execVishr (o : VOps) (lt : BitVec 3) (s : State) : Out := intOp2 s o lt fun _ w a b => a >>> (b % w)
/-- visra (R152). -/
def execVisra (o : VOps) (lt : BitVec 3) (s : State) : Out :=
  intOp2 s o lt fun _ w a b => ((asInt false w a / (2 ^ (b % w) : Int)) % (2 ^ w : Int)).toNat
/-- viabs (R152). -/
def execViabs (o : VOps) (lt : BitVec 3) (s : State) : Out :=
  unaryOp s o .fe 6 fun a =>
    (laneMap2 (ltWidth lt) (fun x _ => if ltNatural lt then x else (asInt false (ltWidth lt) x).natAbs) a 0#32, f0)

/-- The coordinate of element `i` (R153, R164): 0 lane, 1 row, 2 element. -/
def coord (k i : Nat) : Nat := match k with
  | 0 => i % 64
  | 1 => i / 64
  | _ => i

/-- viota (R153). -/
def execViota (o : VOps) (_lt : BitVec 3) (k : BitVec 2) (s : State) : Out :=
  vectorOp s o 0 .fe 6 fun g _ _ _ => (g, tab 1024 fun i => BitVec.ofNat 32 (coord k.toNat i), f0)

/-! ## Conversions (R154 to R158) -/

/-- The sub-elements of `w` bits of a lane. -/
def subElem (w : Nat) (x : W32) (m : Nat) : Nat := bits x.toNat (w * m + w - 1) (w * m)

/-- Put enabled converted elements into a destination lane's sub-elements, the others keeping `old` (R154). -/
def packLane (w : Nat) (old : W32) (xs : List (Bool × Nat)) : W32 :=
  BitVec.ofNat 32 ((List.zip (List.range (32 / w)) xs).foldl
    (fun acc x => acc + (if x.2.1 then x.2.2 % 2 ^ w else subElem w old x.1) * 2 ^ (w * x.1)) 0)

/-- A narrowing result packed along the column axis (R154): the mask of sub-elements written, and the elements. The
converted codes are listed by source element; a destination lane (r, c) takes the n = 32 / w source rows from n × r;
the rows beyond are zero and always written. -/
def packRows (w : Nat) (codes : List Nat) (ms : List Bool) : List (List (Bool × Nat)) :=
  let n := 32 / w
  let src := List.zip ms codes
  let rows := tab 16 fun r => (src.drop (64 * r)).take 64
  (tab (16 / n) fun r => tab 64 fun c => tab n fun j => (rows.getD (n * r + j) []).getD c (false, 0)).flatten

/-- A narrowed result enters flight (R154), packed along the column axis from the converted codes and the guard's
elements. A disabled source element keeps its destination sub-element as it stands at landing, or is zero in a queue;
rows beyond the packed ones are zero. -/
def Tile.narrowDst (t : Tile) (vd : BitVec 7) (w : Nat) (codes : List Nat) (ms : List Bool) (fl : Flags) : Tile :=
  let lanes := packRows w codes ms
  let fillUp : List W32 := List.replicate (1024 - lanes.length) 0#32
  let whole := lanes.map (fun l => packLane w 0#32 l) ++ fillUp
  match dstQueue vd with
  | some _ => t.vdst vd 6 (BitVec.allOnes 1024) whole fl
  | none =>
    let subs := lanes.map (fun l => ofMaskGo (l.map fun x => x.1)) ++
      List.replicate (1024 - lanes.length) (2 ^ (32 / w) - 1)
    t.fly 6 (.packed (physV t.vrb vd.toNat) w subs whole) fl 1

/-- The flags of the enabled elements (R142). -/
def gatherFlags {α : Type} (m : List Bool) (r : List (α × Flags)) : Flags :=
  (List.zip m r).foldl (fun acc x => if x.1 then acc ||| x.2.2 else acc) f0

/-- A narrowing conversion (R154). -/
def narrowOp (s : State) (o : VOps) (w : Nat) (f : W32 → Nat × Flags) : Out :=
  issue s (s.me.vcheck o.kg o.kn [o.va] (some o.vd)) fun s =>
    (s.onMe fun t =>
      let ms := maskList (t.guard o.kg o.kn)
      let (a, t) := t.vsrc o.va (t.sreg o.ss.toNat)
      let r := a.map f
      (t.narrowDst o.vd w (r.map (·.1)) ms (gatherFlags ms r)).holdUnit .fe).retire

/-- vcvt (R155). -/
def execVcvt (o : VOps) (rm : BitVec 3) (fmt : BitVec 5) (x sat : Bool) (s : State) : Out :=
  narrowOp s o (fmtWidth fmt.toNat) fun a => conv fmt.toNat (s.rm rm) x sat s.me.srseed (ofF32 a)

/-- The source sub-element that element `i` of a widening takes from part `p` (R156). -/
def widenSource (w p i : Nat) (rows : List (List W32)) : Nat :=
  let n := 32 / w
  let r := i / 64
  subElem w ((rows.getD (16 / n * p + r / n) []).getD (i % 64) 0#32) (r % n)

/-- vwid (R156). -/
def execVwid (o : VOps) (part : BitVec 2) (fmt : BitVec 5) (x : Bool) (s : State) : Out :=
  vectorOp s o 1 .fe 6 fun g a _ _ =>
    let rows := splitRows a
    let r := tab 1024 fun i => widenLane fmt.toNat x 127 (widenSource (fmtWidth fmt.toNat) part.toNat i rows)
    (g, r.map (·.1), gatherFlags (maskList g) r)

/-- f32 to a 32-bit integer (R157). -/
def toInt32 (natural : Bool) (mode : Nat) (seed : W32) (a : W32) : W32 × Flags :=
  let r := if natural then convInt 0 (2 ^ 32 - 1) mode seed (ofF32 a) else convInt (-(2 ^ 31)) (2 ^ 31 - 1) mode seed (ofF32 a)
  (BitVec.ofInt 32 r.1, r.2)

/-- A 32-bit integer to f32 (R157). -/
def fromInt32 (natural : Bool) (mode : Nat) (seed : W32) (a : W32) : W32 × Flags :=
  toF32 mode seed (.ofInt (if natural then (a.toNat : Int) else a.toInt) 0)

/-- vcvti (R157). -/
def execVcvti (o : VOps) (rm : BitVec 3) (lt : BitVec 3) (s : State) : Out :=
  unaryOp s o .fe 6 (toInt32 (ltNatural lt) (s.rm rm) s.me.srseed)
/-- vcvtf (R157). -/
def execVcvtf (o : VOps) (rm : BitVec 3) (lt : BitVec 3) (s : State) : Out :=
  unaryOp s o .fe 6 (fromInt32 (ltNatural lt) (s.rm rm) s.me.srseed)

/-- Clamp an integer to a lane type's range when `sat`, a negative value that becomes 0 raising NG; else the low
bits (R158). -/
def clampLane (natural : Bool) (w : Nat) (sat : Bool) (v : Int) : Nat × Flags :=
  if sat then
    let lo : Int := if natural then 0 else -(2 ^ (w - 1) : Int)
    let hi : Int := if natural then 2 ^ w - 1 else 2 ^ (w - 1) - 1
    if v < lo then (((lo % (2 ^ w : Int)).toNat), if natural then fNG else f0)
    else if v > hi then (hi.toNat, f0)
    else ((v % (2 ^ w : Int)).toNat, f0)
  else ((v % (2 ^ w : Int)).toNat, f0)

/-- vicvt (R158): narrowing packs its results, widening takes part 0, and a change of signedness keeps or clamps. -/
def execVicvt (o : VOps) (dt sl : BitVec 3) (sat : Bool) (s : State) : Out :=
  if ltWidth dt < 32 then
    narrowOp s o (ltWidth dt) fun a => clampLane (ltNatural dt) (ltWidth dt) sat (asInt (ltNatural sl) 32 a.toNat)
  else
    vectorOp s o 1 .fe 6 fun g a _ _ =>
      let rows := splitRows a
      let r := tab 1024 fun i =>
        clampLane (ltNatural dt) 32 sat (asInt (ltNatural sl) (ltWidth sl) (widenSource (ltWidth sl) 0 i rows))
      (g, r.map (fun y => BitVec.ofNat 32 y.1), gatherFlags (maskList g) r)

/-! ## Moving data across lanes (R159) -/

/-- Elements taken from a source by row and lane. -/
def gatherElems (a : List W32) (src : Nat → Nat → Nat × Nat) : List W32 :=
  let rows := splitRows a
  tab 1024 fun i => let p := src (i / 64) (i % 64); (rows.getD p.1 []).getD p.2 0#32

/-- A movement whose amount or index comes from ss at issue. -/
def moveOp (s : State) (o : VOps) (lat : Nat) (src : W64 → Nat → Nat → Nat × Nat) : Out :=
  vectorOp s o 1 .xl lat fun g a _ _ => (g, gatherElems a (src (s.me.sreg o.ss.toNat)), f0)

/-- vrrot (R159). -/
def execVrrot (o : VOps) (s : State) : Out := moveOp s o 5 fun n r c => (r, (c + 64 - n.toNat % 64) % 64)
/-- vcrot (R159). -/
def execVcrot (o : VOps) (s : State) : Out := moveOp s o 4 fun n r c => ((r + 16 - n.toNat % 16) % 16, c)
/-- vrbc (R159). -/
def execVrbc (o : VOps) (s : State) : Out := moveOp s o 4 fun n r _ => (r, n.toNat % 64)
/-- vcbc (R159). -/
def execVcbc (o : VOps) (s : State) : Out := moveOp s o 3 fun n _ c => (n.toNat % 16, c)

/-! ## Reductions and scans (R160, R161) -/

/-- The identity of a reduction (R160): 0 sum, 1 max, 2 min. -/
def reduceId (k : Nat) : W32 := match k with
  | 0 => nzero32
  | 1 => ninf32
  | _ => pinf32

/-- The operation of a reduction. -/
def reduceOp (k : Nat) (a b : W32) : W32 × Flags := match k with
  | 0 => fadd 0 0#32 a b
  | 1 => (fmax a b, f0)
  | _ => (fmin a b, f0)

/-- A disabled element enters as the identity (R160). -/
def withIdentity (k : Nat) (m : List Bool) (a : List W32) : List W32 :=
  List.zipWith (fun b x => if b then x else reduceId k) m a

/-- The reduction of one line (R66, R160). -/
def reduceLine (k : Nat) (l : List W32) : W32 × Flags :=
  let r := tree (fun a b => let y := reduceOp k a.1 b.1; (y.1, a.2 ||| b.2 ||| y.2)) (0#32, f0) (l.map fun x => (x, f0))
  (canon r.1, r.2)

/-- The 64 columns of a register, each with its 16 rows. -/
def columns (a : List W32) : List (List W32) :=
  let rows := splitRows a
  tab 64 fun c => rows.map fun r => r.getD c 0#32

/-- Elements from 64 columns. -/
def joinColumns (cols : List (List W32)) : List W32 :=
  (tab 16 fun r => cols.map fun c => c.getD r 0#32).flatten

/-- vrred (R160). -/
def execVrred (o : VOps) (k : BitVec 2) (s : State) : Out :=
  vectorOp s o 1 .xl 12 fun g a _ _ =>
    let r := (splitRows (withIdentity k.toNat (maskList g) a)).map (reduceLine k.toNat)
    (BitVec.allOnes 1024, (r.map fun x => List.replicate 64 x.1).flatten, r.foldl (fun acc x => acc ||| x.2) f0)

/-- vcred (R160). -/
def execVcred (o : VOps) (k : BitVec 2) (s : State) : Out :=
  vectorOp s o 1 .xl 8 fun g a _ _ =>
    let r := (columns (withIdentity k.toNat (maskList g) a)).map (reduceLine k.toNat)
    (BitVec.allOnes 1024, (List.replicate 16 (r.map (·.1))).flatten, r.foldl (fun acc x => acc ||| x.2) f0)

/-- vrscan (R161). -/
def execVrscan (o : VOps) (k : BitVec 2) (s : State) : Out :=
  vectorOp s o 1 .xl 16 fun g a _ _ =>
    let r := (splitRows (withIdentity k.toNat (maskList g) a)).map (scan32 (reduceOp k.toNat))
    (BitVec.allOnes 1024, (r.map (·.1)).flatten, r.foldl (fun acc x => acc ||| x.2) f0)

/-- vcscan (R161). -/
def execVcscan (o : VOps) (k : BitVec 2) (s : State) : Out :=
  vectorOp s o 1 .xl 9 fun g a _ _ =>
    let r := (columns (withIdentity k.toNat (maskList g) a)).map (scan32 (reduceOp k.toNat))
    (BitVec.allOnes 1024, joinColumns (r.map (·.1)), r.foldl (fun acc x => acc ||| x.2) f0)

/-! ## Bitonic compare-swap (R162) -/

/-- A key's place among keys: numbers by value with −0 equal to +0, then every NaN. -/
def sortKey (k : W32) : Int := if isNan32 k then 2 ^ 40 else f32Val k

/-- LESS of R162. -/
def less (a b : W32 × W32) : Bool :=
  sortKey a.1 < sortKey b.1 || (sortKey a.1 == sortKey b.1 && a.2.ult b.2)

/-- What lane `c` takes of itself and its partner `p` (R162). -/
def exchange (b j : Nat) (dir : Bool) (c : Nat) (x p : W32 × W32) : W32 × W32 :=
  let q := c ^^^ 2 ^ j
  let asc := ((c >>> b) % 2 == 1) == dir
  let lower := if c < q then x else p
  let upper := if c < q then p else x
  let lo := if less upper lower then upper else lower
  let hi := if less upper lower then lower else upper
  if (c < q) = asc then lo else hi

/-- One step along a row. -/
def bitonicRow (b j : Nat) (dir : Bool) (row : List (W32 × W32)) : List (W32 × W32) :=
  tab 64 fun c => exchange b j dir c (row.getD c (0, 0)) (row.getD (c ^^^ 2 ^ j) (0, 0))

/-- vbstep (R162). -/
def execVbstep (o : VOps) (b j : BitVec 3) (dir : Bool) (s : State) : Out :=
  issue s (s.me.vcheck o.kg o.kn [o.va, o.vb] (some o.vd)) fun s =>
    (s.onMe fun t =>
      let g := t.guard o.kg o.kn
      let (keys, t) := t.vsrc o.va 0
      let (idx, t) := t.vsrc o.vb 0
      let rows := List.zipWith (fun k i => List.zip k i) (splitRows keys) (splitRows idx)
      let out := (rows.map (bitonicRow b.toNat j.toNat dir)).flatten
      let t := t.vdst o.vd 6 g (out.map (·.1)) f0
      (t.fly 6 (.vector (physV t.vrb o.vc.toNat) g (out.map (·.2))) f0 1).holdUnit .xl).retire

/-! ## Predicates (R163 to R165) -/

/-- A form of VP whose result is a predicate, landing after `lat` clk. -/
def predOp (s : State) (o : VPOps) (srcs : List (BitVec 7)) (u : VUnit) (lat : Nat)
    (f : List W32 → List W32 → List Bool → List Bool → List Bool) : Out :=
  issue s (s.me.vcheck o.kg o.kn srcs none) fun s =>
    (s.onMe fun t =>
      let ss := t.sreg o.ss.toNat
      let g := t.guard o.kg o.kn
      let ka := maskList (t.kreg (physK t.krb o.ka.toNat))
      let kb := maskList (t.kreg (physK t.krb o.kb.toNat))
      let (a, t) := if srcs.isEmpty then (zeroVec, t) else t.vsrc o.va ss
      let (b, t) := if srcs.isEmpty then (zeroVec, t) else t.vsrc o.vb ss
      (t.fly lat (.pred (physK t.krb o.kd.toNat) g (ofMask (f a b ka kb))) f0 1).holdUnit u).retire

/-- vcmp (R163). -/
def execVcmp (o : VPOps) (cond : BitVec 3) (s : State) : Out :=
  predOp s o [o.va, o.vb] .fe 6 fun a b _ _ => List.zipWith (fcond cond.toNat) a b
/-- vicmp (R163). -/
def execVicmp (o : VPOps) (cond : BitVec 3) (s : State) : Out :=
  predOp s o [o.va, o.vb] .fe 6 fun a b _ _ =>
    List.zipWith (fun x y => icond cond.toNat (x.signExtend 64) (y.signExtend 64)) a b
/-- kand (R164). -/
def execKand (o : VPOps) (s : State) : Out := predOp s o [] .pk 2 fun _ _ a b => List.zipWith (fun x y => x && y) a b
/-- kor (R164). -/
def execKor (o : VPOps) (s : State) : Out := predOp s o [] .pk 2 fun _ _ a b => List.zipWith (fun x y => x || y) a b
/-- kxor (R164). -/
def execKxor (o : VPOps) (s : State) : Out := predOp s o [] .pk 2 fun _ _ a b => List.zipWith (fun x y => x != y) a b
/-- kandn (R164). -/
def execKandn (o : VPOps) (s : State) : Out :=
  predOp s o [] .pk 2 fun _ _ a b => List.zipWith (fun x y => x && !y) a b
/-- knot (R164). -/
def execKnot (o : VPOps) (s : State) : Out := predOp s o [] .pk 2 fun _ _ a _ => a.map fun x => !x
/-- kmov (R164). -/
def execKmov (o : VPOps) (s : State) : Out := predOp s o [] .pk 2 fun _ _ a _ => a
/-- kset (R164). -/
def execKset (o : VPOps) (k : BitVec 2) (s : State) : Out :=
  let v := (s.me.sreg o.ss.toNat).toNat
  predOp s o [] .pk 2 fun _ _ _ _ => tab 1024 fun i => coord k.toNat i < v

/-- ptest (R165). -/
def execPtest (o : VPOps) (s : State) : Out :=
  issue s (s.me.vcheck o.kg o.kn [] none) fun s =>
    (s.onMe fun t =>
      let g := maskList (t.guard o.kg o.kn)
      let k := maskList (t.kreg (physK t.krb o.ka.toNat))
      let seen := (g.filter id).length
      let n := ((List.zipWith (fun x y => x && y) g k).filter id).length
      (t.fly 6 (.slot o.fs.toNat (ptestSlot n seen)) f0 1).holdUnit .pk).retire

/-! ## Accumulators (R166, R167) -/

/-- Accumulator row and column of register element (r, c) of block `b` (R166). -/
def accPlace (transposed : Bool) (b r c : Nat) : Nat × Nat :=
  if transposed then (64 * (b / 4) + c, 16 * (b % 4) + r) else (16 * b + r, c)

/-- The block of an accumulator form: of 16 rows, or of 64 columns by 16 (R166). -/
def Tile.accBlockNo (t : Tile) (o : VAOps) : Nat := (t.sreg o.si.toNat).toNat % 8

/-- The words that the enabled elements of a block take (R294): sums straight (`k` = 0) or transposed (1), else m, l or
the row flags (2 to 4). -/
def accWords (k : Nat) (a b : Nat) (m : List Bool) : List Nat :=
  (List.zip (List.range 1024) m).filterMap fun x =>
    if !x.2 then none
    else if k < 2 then
      let p := accPlace (k == 1) b (x.1 / 64) (x.1 % 64)
      some (accWord (128 * a + p.1) p.2)
    else some (accWord (128 * a + 16 * b + x.1 / 64) (62 + k))

/-- A read of an accumulator into a vector destination, of the words of kind `k`. -/
def accRead (s : State) (o : VAOps) (k lat : Nat) (f : Tile → Nat → List W32) : Out :=
  issue s ((s.me.vcheck o.kg o.kn [] (some o.v)).and (Check.need
      (s.me.badAcc.isEmpty ||
        !s.me.accBad (accWords k o.acc.toNat (s.me.accBlockNo o) (maskList (s.me.guard o.kg o.kn)))) cECC 0)) fun s =>
    (s.onMe fun t =>
      let b := t.accBlockNo o
      (t.vdst o.v lat (t.guard o.kg o.kn) (f t b) f0).holdUnit .ac).retire

/-- The elements of a block, straight or transposed. -/
def accBlock (t : Tile) (a : Nat) (transposed : Bool) (b : Nat) : List W32 :=
  if transposed then
    let rows := tab 64 fun c => t.accRow a (64 * (b / 4) + c)
    tab 1024 fun i => (rows.getD (i % 64) []).getD (16 * (b % 4) + i / 64) 0#32
  else (tab 16 fun r => t.accRow a (16 * b + r)).flatten

/-- vacrr (R166). -/
def execVacrr (o : VAOps) (s : State) : Out := accRead s o 0 5 fun t b => accBlock t o.acc.toNat false b
/-- vaccr (R166). -/
def execVaccr (o : VAOps) (s : State) : Out := accRead s o 1 9 fun t b => accBlock t o.acc.toNat true b
/-- vacsr (R166): 0 m, 1 l, 2 row flags, in every lane of the row. -/
def execVacsr (o : VAOps) (k : BitVec 2) (s : State) : Out :=
  accRead s o (min 4 (2 + k.toNat)) 5 fun t b =>
    (tab 16 fun r => List.replicate 64 (match k.toNat with
      | 0 => t.accMax o.acc.toNat (16 * b + r)
      | 1 => t.accDen o.acc.toNat (16 * b + r)
      | _ => t.accFl o.acc.toNat (16 * b + r))).flatten

/-- A write of an accumulator from a vector source: `f` gives the landing. -/
def accWrite (s : State) (o : VAOps) (lat : Nat) (f : Nat → List (Nat × W32) → Target) : Out :=
  issue s (s.me.vcheck o.kg o.kn [o.v] none) fun s =>
    (s.onMe fun t =>
      let b := t.accBlockNo o
      let g := maskList (t.guard o.kg o.kn)
      let (v, t) := t.vsrc o.v (t.sreg o.ss.toNat)
      let els := (List.zip (List.range 1024) (List.zip g v)).filterMap fun x =>
        if x.2.1 then some (x.1, x.2.2) else none
      (t.fly lat (f b els) f0 1).holdUnit .ac).retire

/-- vacrw (R166). -/
def execVacrw (o : VAOps) (s : State) : Out :=
  accWrite s o 5 fun b els => .acc o.acc.toNat (els.map fun x =>
    let p := accPlace false b (x.1 / 64) (x.1 % 64)
    (64 * p.1 + p.2, x.2))
/-- vaccw (R166). -/
def execVaccw (o : VAOps) (s : State) : Out :=
  accWrite s o 9 fun b els => .acc o.acc.toNat (els.map fun x =>
    let p := accPlace true b (x.1 / 64) (x.1 % 64)
    (64 * p.1 + p.2, x.2))
/-- vacsw (R166): 0 m, 1 l, of the enabled elements (r, 0). -/
def execVacsw (o : VAOps) (k : BitVec 2) (s : State) : Out :=
  accWrite s o 5 fun b els => .accRow o.acc.toNat (k.toNat == 1)
    ((els.filter fun x => x.1 % 64 == 0).map fun x => (16 * b + x.1 / 64, x.2))

/-! ## Predicate blocks (R86, R169) -/

/-- pblk: the span of covered instructions, its predicate read now. -/
def execPblk (pattern : BitVec 8) (cnt : BitVec 3) (kp : BitVec 5) (s : State) : Out :=
  issue s s.me.noSpan fun s =>
    (s.retire).onMe fun t =>
      let k := physK t.krb kp.toNat
      { t with span := some ⟨t.kreg k, k, cnt.toNat + 1, pattern⟩ }

end Sys2Proof.Machine
end

