-- ==== Sys2Proof/Machine/Data.lean ====
section
/-! DEFINITION. The D strand (06_data_strand.md R171 to R205): streams, scalar loads and stores, atomics, rings,
fences and pointer tests, and the performance of its accesses. -/

namespace Sys2Proof.Machine

/-! ## Stream registers (R177, R178) -/

/-- A field of a stream register. -/
def stField (r : BitVec 256) (hi lo : Nat) : Nat := bits r.toNat hi lo
def stBase (r : BitVec 256) : W64 := BitVec.ofNat 64 (stField r 255 192)
/-- Stride of level `k` in 16-byte units, signed. -/
def stStride (r : BitVec 256) (k : Nat) : Int := (BitVec.ofNat 16 (stField r (119 + 16 * k) (104 + 16 * k))).toInt
/-- Count − 1 of level `k`. -/
def stCnt (r : BitVec 256) (k : Nat) : Nat := stField r (73 + 10 * k) (64 + 10 * k)
/-- Cursor index of level `k`. -/
def stCur (r : BitVec 256) (k : Nat) : Nat := stField r (33 + 10 * k) (24 + 10 * k)
def stSoff (r : BitVec 256) : Int := (BitVec.ofNat 24 (stField r 191 168)).toInt
def stSstr (r : BitVec 256) : Nat := stField r 23 16
def stBlk (r : BitVec 256) : Nat := stField r 15 10 + 1
def stRm (r : BitVec 256) : Nat := stField r 9 7
def stSat (r : BitVec 256) : Bool := stField r 6 6 == 1
def stX (r : BitVec 256) : Bool := stField r 5 5 == 1
def stFmt (r : BitVec 256) : Nat := stField r 4 0

/-- Replace bits hi:lo of a stream register. -/
def stPut (r : BitVec 256) (hi lo v : Nat) : BitVec 256 :=
  BitVec.ofNat 256 (r.toNat - bits r.toNat hi lo * 2 ^ lo + v % 2 ^ (hi + 1 - lo) * 2 ^ lo)

/-- Bytes from BASE to the row at the cursor (R178). -/
def stRowOff (r : BitVec 256) : Int :=
  16 * (stStride r 0 * stCur r 0 + stStride r 1 * stCur r 1 + stStride r 2 * stCur r 2 + stStride r 3 * stCur r 3)

/-- Set the four cursor indices. -/
def stSetCur (r : BitVec 256) (c0 c1 c2 c3 : Nat) : BitVec 256 :=
  stPut (stPut (stPut (stPut r 33 24 c0) 43 34 c1) 53 44 c2) 63 54 c3

/-- The cursor after a row (R178). -/
def stAdvance (r : BitVec 256) : BitVec 256 :=
  let (c0, c1, c2, c3) := (stCur r 0, stCur r 1, stCur r 2, stCur r 3)
  if c0 < stCnt r 0 then stSetCur r (c0 + 1) c1 c2 c3
  else if c1 < stCnt r 1 then stSetCur r 0 (c1 + 1) c2 c3
  else if c2 < stCnt r 2 then stSetCur r 0 0 (c2 + 1) c3
  else if c3 < stCnt r 3 then stSetCur r 0 0 0 (c3 + 1)
  else stSetCur r 0 0 0 0

/-- Does every cursor index lie within its level's count (R185)? -/
def stCurOk (r : BitVec 256) : Bool := (List.range 4).all fun k => stCur r k ≤ stCnt r k

/-! ## Outstanding accesses (R186, R196 to R199) -/

/-- The rows asked of a stream. -/
def Tile.reqs' (t : Tile) (n : Nat) : List StreamReq := (SMap.find t.streq n).getD []
def Tile.setReqs (t : Tile) (n : Nat) (l : List StreamReq) : Tile := { t with streq := SMap.put t.streq n l }
/-- The request count of a stream (R181). -/
def Tile.reqCount (t : Tile) (n : Nat) : Nat := (t.reqs' n).foldl (fun a r => a + r.left) 0

/-- Is a stld of the stream waiting to be performed (R186)? -/
def Tile.stldPending (t : Tile) (n : Nat) : Bool :=
  t.dacc.any fun a => match a.kind with
    | .imageLoad st _ _ => st == n
    | _ => false

/-- A stream is idle (R186). -/
def Tile.streamIdle (t : Tile) (n : Nat) : Bool := t.reqCount n == 0 && !t.stldPending n

/-- Is the access a store (R196)? -/
def DKind.isStore : DKind → Bool
  | .load _ _ _ _ _ => false
  | .imageLoad _ _ _ => false
  | .store _ _ _ _ => true
  | .atomic _ _ _ _ _ _ _ _ => true
  | .imageStore _ _ _ => true
  | .ringPush _ => true

/-- May an access of an issue order, class and mark epoch be performed now: no access of an earlier epoch is
outstanding, and for a store none of an earlier store (R197, R198)? (DESIGN CHOICE, log 7) -/
def Tile.mayPerform (t : Tile) (store : Bool) (seq epoch : Nat) : Bool :=
  t.dacc.all (fun a => epoch ≤ a.epoch && !(store && a.kind.isStore && a.seq < seq)) &&
  t.streq.all fun x => x.2.all fun r =>
    r.left == 0 || (epoch ≤ r.epoch && !(store && 8 ≤ x.1 && r.seq < seq))

/-- No store of the D strand is outstanding (R201). -/
def Tile.storesDone (t : Tile) : Bool :=
  t.dacc.all (fun a => !a.kind.isStore) && t.streq.all fun x => x.1 < 8 || x.2.all fun r => r.left == 0

/-- A D access enters the list of those to be performed. -/
def Tile.access (t : Tile) (delay : Nat) (k : DKind) : Tile :=
  { t with dacc := t.dacc ++ [⟨t.dseq, t.depoch, delay, k, t.sd.pc⟩], dseq := t.dseq + 1 }

/-- No window but the private and the own scratchpad one. -/
def noReach : Reach := ⟨false, false⟩

/-- The scratchpad place of `n` bytes at a pointer that passed its checks: address and whether it is in range. -/
def Tile.place (t : Tile) (p : W64) (off : Int) (n : Nat) : Nat × Bool :=
  match t.res with
  | none => (0, false)
  | some r => match spAddr r (bits p.toNat 63 60 == 8) (ptrOffset p + off) n with
    | .ok a => (a, true)
    | .error a => (a, false)

/-- The lowest byte of `n` at a pointer that is out of range, as an exact offset from address 0 of the scratchpad (R175). -/
def Tile.lowest (t : Tile) (p : W64) (off : Int) (n : Nat) : Option Int :=
  match t.res with
  | none => some 0
  | some r =>
    let priv := bits p.toNat 63 60 == 8
    let size : Int := if priv then r.privSize else 0x180000
    let at_ := ptrOffset p + off
    if 0 ≤ at_ ∧ at_ + n ≤ size then none else some ((if priv then r.privBase else 0) + if at_ < 0 then at_ else max at_ size)

/-- The checks of an access at its issue: pointer (R173), then region (R176). -/
def State.accessCheck (s : State) (p : W64) (off : Int) (bytes align : Nat) (write : Bool) : Check :=
  (ptrCheck s.focus.tile noReach p off align).and
    (let a := s.me.place p off bytes
     Check.need (!a.2 || !s.me.regionFault write a.1 bytes) cPERM p)

/-! ## Scalar loads and stores (R188), atomics (R189) -/

/-- Room in a result queue (R172). -/
def State.dqRoom (s : State) (qs : Bool) : Check := Check.wait (0 < s.me.dqFree qs) 1 (if qs then 13 else 12)

/-- lds (R188). -/
def execLds (sx : Bool) (sz : BitVec 2) (qs : Bool) (sa : BitVec 6) (off : BitVec 16) (s : State) : Out :=
  let p := s.rs sa
  let n := 2 ^ sz.toNat
  issue s ((s.accessCheck p off.toInt n n false).and (s.dqRoom qs)) fun s =>
    (s.onMe fun t =>
      let a := t.place p off.toInt n
      (t.dqAlloc qs t.dseq).access 6 (.load a.1 a.2 n sx qs)).retire

/-- sts (R188): pops q14 at issue. -/
def execSts (sz : BitVec 2) (sa : BitVec 6) (off : BitVec 16) (s : State) : Out :=
  let p := s.rs sa
  let n := 2 ^ sz.toNat
  issue s ((s.accessCheck p off.toInt n n true).and (s.me.popCheck 14)) fun s =>
    (s.onMe fun t =>
      let a := t.place p off.toInt n
      (t.squeuePop 14).access 2 (.store a.1 a.2 n (t.q14.headD 0))).retire

/-- The issue of an atomic (R189). -/
def atomicOp (s : State) (op : Nat) (n w qs : Bool) (sa : BitVec 6) (b c : W64) (off : BitVec 16) : Out :=
  let p := s.rs sa
  let bytes := if w then 8 else 4
  issue s ((s.accessCheck p off.toInt bytes bytes true).and (s.dqRoom qs)) fun s =>
    (s.onMe fun t =>
      let a := t.place p off.toInt bytes
      (t.dqAlloc qs t.dseq).access 6 (.atomic op n a.1 a.2 bytes b c qs)).retire

/-- aadd (R189). -/
def execAadd (w qs : Bool) (sa sb : BitVec 6) (off : BitVec 16) (s : State) : Out :=
  atomicOp s 0 false w qs sa (s.rs sb) 0 off
/-- amin (R189). -/
def execAmin (n w qs : Bool) (sa sb : BitVec 6) (off : BitVec 16) (s : State) : Out :=
  atomicOp s 1 n w qs sa (s.rs sb) 0 off
/-- amax (R189). -/
def execAmax (n w qs : Bool) (sa sb : BitVec 6) (off : BitVec 16) (s : State) : Out :=
  atomicOp s 2 n w qs sa (s.rs sb) 0 off
/-- aand (R189). -/
def execAand (w qs : Bool) (sa sb : BitVec 6) (off : BitVec 16) (s : State) : Out :=
  atomicOp s 3 false w qs sa (s.rs sb) 0 off
/-- aor (R189). -/
def execAor (w qs : Bool) (sa sb : BitVec 6) (off : BitVec 16) (s : State) : Out :=
  atomicOp s 4 false w qs sa (s.rs sb) 0 off
/-- axor (R189). -/
def execAxor (w qs : Bool) (sa sb : BitVec 6) (off : BitVec 16) (s : State) : Out :=
  atomicOp s 5 false w qs sa (s.rs sb) 0 off
/-- axchg (R189). -/
def execAxchg (w qs : Bool) (sa sb : BitVec 6) (off : BitVec 16) (s : State) : Out :=
  atomicOp s 6 false w qs sa (s.rs sb) 0 off
/-- acas (R189). -/
def execAcas (w qs : Bool) (sa sb sc : BitVec 6) (off : BitVec 16) (s : State) : Out :=
  atomicOp s 7 false w qs sa (s.rs sb) (s.rs sc) off
/-- afadd (R189). -/
def execAfadd (qs : Bool) (sa sb : BitVec 6) (off : BitVec 16) (s : State) : Out :=
  atomicOp s 8 false false qs sa (s.rs sb) 0 off

/-- The new word of an atomic (R189), on words of `bytes` bytes: `none` writes nothing. -/
def atomicNew (op : Nat) (n : Bool) (bytes old b c : Nat) : Option Nat × Flags :=
  let w := 8 * bytes
  match op with
  | 0 => (some ((old + b) % 2 ^ w), f0)
  | 1 => (some (if asInt n w b < asInt n w old then b else old), f0)
  | 2 => (some (if asInt n w old < asInt n w b then b else old), f0)
  | 3 => (some (old &&& b), f0)
  | 4 => (some (old ||| b), f0)
  | 5 => (some (old ^^^ b), f0)
  | 6 => (some b, f0)
  | 7 => (if old = b then some c else none, f0)
  | _ => let r := fadd 0 0#32 (BitVec.ofNat 32 old) (BitVec.ofNat 32 b); (some r.1.toNat, r.2)

/-- A word sign- or zero-extended from `bytes` bytes. -/
def extendBytes (sx : Bool) (bytes v : Nat) : W64 :=
  if sx then BitVec.ofInt 64 (asInt false (8 * bytes) v) else BitVec.ofNat 64 v

/-- Take an access out of the list. -/
def Tile.accessDone (t : Tile) (seq : Nat) : Tile := { t with dacc := t.dacc.filter fun a => a.seq != seq }

/-- Perform one access at a DCC (R172, R175, R188, R189, R193). -/
def Tile.perform (t : Tile) (dcc tid : Nat) (a : DAcc) : Tile :=
  let t := t.accessDone a.seq
  match a.kind with
  | .load addr ok bytes sx q13 =>
    if ok then t.dqFill q13 a.seq (extendBytes sx bytes (Mem.readN (t.seen dcc).sp addr bytes))
    else (t.offend false 0 tid addr).dqFill q13 a.seq 0
  | .store addr ok bytes v =>
    if ok then t.spWrite addr (bytesOf bytes v.toNat) else t.offend true 0 tid addr
  | .atomic op n addr ok bytes b c q13 =>
    if ok then
      let old := Mem.readN t.sp addr bytes
      let r := atomicNew op n bytes old (b.toNat % 2 ^ (8 * bytes)) (c.toNat % 2 ^ (8 * bytes))
      let t := t.spWrite addr (bytesOf bytes (r.1.getD old))
      (t.raise r.2).dqFill q13 a.seq (BitVec.ofNat 64 old)
    else (t.offend true 0 tid addr).dqFill q13 a.seq 0
  | .imageLoad st addr ok =>
    if ok then t.setSt st (BitVec.ofNat 256 (Mem.readN (t.seen dcc).sp addr 32))
    else (t.offend false 0 tid addr).setSt st 0
  | .imageStore addr ok v =>
    if ok then t.spWrite addr (bytesOf 32 v.toNat) else t.offend true 0 tid addr
  | .ringPush rg =>
    let r := t.ring rg
    t.setRing rg { r with
      tags := SMap.set 0#16 r.tags r.tail r.ptag
      tail := (r.tail + 1) % r.count
      ptag := r.ptag + 1
      level := r.level + 1 }

/-- Does an access meet an uncorrectable error (R294)? -/
def Tile.accessBad (t : Tile) (k : DKind) : Bool :=
  match k with
  | .load addr ok bytes _ _ => ok && t.spBad addr bytes
  | .store addr ok bytes _ => ok && t.spMergeBad addr bytes
  | .atomic _ _ addr ok bytes _ _ _ => ok && t.spBad addr bytes
  | .imageLoad _ addr ok => ok && t.spBad addr 32
  | .imageStore addr ok _ => ok && t.spMergeBad addr 32
  | .ringPush _ => false

/-- A D access that faults when it is performed, naming its instruction (R186, R294); its queue entry is not filled. -/
def accessFault (s : State) (a : DAcc) (cause : Nat) : State :=
  stopStrand (unitFault (s.onMe fun t => t.accessDone a.seq) s.focus.tile 2 cause 0 a.pc 0) s.focus.tile .d

/-- D_ACCESS_PERFORM (R172, R188, R189, R193, R197, R198): the pending access of issue order `focus.idx` that is not a
stream image load takes effect if its earliest time has come and the order allows it. -/
def execDAccessPerform (s : State) : Out :=
  .next (match s.me.dacc.find? fun a => a.seq == s.focus.idx with
    | none => s
    | some a =>
      match a.kind with
      | .imageLoad _ _ _ => s
      | k =>
        if a.delay = 0 ∧ !s.me.frozen ∧ s.me.mayPerform k.isStore a.seq a.epoch then
          (if s.me.accessBad k then accessFault s a cECC else s.onMe fun t => t.perform s.dcc s.focus.tile a)
        else s)

/-! ## Stream instructions (R181 to R186) -/

/-- The offset of a stream's first scale byte from BASE (R178). -/
def stScaleOff (r : BitVec 256) : Int := 16 * stSoff r

/-- Formats 7 and 8 carry block scales. -/
def blockFmt (f : Nat) : Bool := f == 7 || f == 8

/-- The checks of a stream register at an srd or swr (R183). (DEDUCED, log 24) -/
def streamRegCheck (tid : Nat) (r : BitVec 256) (read : Bool) : Check :=
  let f := stFmt r
  (ptrCheck tid noReach (stBase r) 0 16).and
  ((Check.need
      (f ≤ 19 && !(read && stSat r) && !(!read && blockFmt f) && !(stX r && !isB8 f) && stRm r != 5 && stRm r != 6 &&
       !(blockFmt f && stBlk r != 32 && stBlk r != 64)) cILLEGAL (stBase r)).and
   (if blockFmt f then ptrCheck tid noReach (stBase r) (stScaleOff r) 1 else .go))

/-- The checks of srd and swr (R181, R183). While a stld of the stream waits to be performed its register is not yet
the one they use (R186): it is checked when the image is there. -/
def State.streamCheck (s : State) (n : Nat) (rows : Nat) (read : Bool) : Check :=
  let r := s.me.stReg n
  (if s.me.stldPending n then .go else streamRegCheck s.focus.tile r read).and
  ((Check.need (rows < 2 ^ 24) cILLEGAL (stBase r)).and
   (Check.wait (2 ^ 24 ≤ rows || s.me.reqCount n + rows < 2 ^ 24) 6 0))

/-- Add rows to a stream's request count, with MODE.RM and SRSEED as they stand (R180, R181, R182). -/
def Tile.ask (t : Tile) (n rows delay : Nat) : Tile :=
  if rows = 0 then t
  else
    { t.setReqs n (t.reqs' n ++ [⟨t.dseq, t.depoch, rows, t.modeRm.toNat, t.srseed, delay, t.sd.pc⟩]) with
      dseq := t.dseq + 1 }

/-- srd (R181). The immediate is taken as unsigned, here and in swr, and the sum with sA is not reduced.
(DESIGN CHOICE, log 120) -/
def execSrd (st : BitVec 4) (sa : BitVec 6) (imm : BitVec 16) (s : State) : Out :=
  let rows := (s.rs sa).toNat + imm.toNat
  issue s (s.streamCheck st.toNat rows true) fun s => (s.onMe fun t => t.ask st.toNat rows 8).retire

/-- swr (R182). -/
def execSwr (st : BitVec 4) (sa : BitVec 6) (imm : BitVec 16) (s : State) : Out :=
  let rows := (s.rs sa).toNat + imm.toNat
  issue s (s.streamCheck st.toNat rows false) fun s => (s.onMe fun t => t.ask st.toNat rows 0).retire

/-- sstop (R184). -/
def execSstop (st : BitVec 4) (s : State) : Out :=
  issue s .go fun s => (s.onMe fun t => t.setReqs st.toNat []).retire

/-- The register after stset (R185). -/
def stSet (r : BitVec 256) (fld : Nat) (a : W64) : BitVec 256 :=
  let a := a.toNat
  match fld with
  | 0 => stPut r 255 192 a
  | 1 => stPut r 191 168 (a % 2 ^ 24)
  | 2 => stPut r 23 0 (a % 2 ^ 24)
  | 3 => stSetCur (stPut r 103 64 (a % 2 ^ 40)) 0 0 0 0
  | 4 => stPut r 167 104 a
  | _ => stPut r 63 24 (a % 2 ^ 40)

/-- stset (R185, R186). -/
def execStset (st fld : BitVec 4) (sa : BitVec 6) (s : State) : Out :=
  let r := stSet (s.me.stReg st.toNat) fld.toNat (s.rs sa)
  issue s ((Check.need (fld.toNat != 5 || stCurOk r) cILLEGAL 0).and (Check.wait (s.me.streamIdle st.toNat) 6 0))
    fun s => (s.onMe fun t => t.setSt st.toNat r).retire

/-- stld (R185, R186): the image is read when the load is performed, after 2 clk at the earliest, as stsv stores: the
table of R172 names neither. (DESIGN CHOICE, log 119) -/
def execStld (st : BitVec 4) (sa : BitVec 6) (s : State) : Out :=
  let p := s.rs sa
  issue s ((s.accessCheck p 0 32 32 false).and (Check.wait (s.me.streamIdle st.toNat) 6 0)) fun s =>
    (s.onMe fun t => let a := t.place p 0 32; t.access 2 (.imageLoad st.toNat a.1 a.2)).retire

/-- stsv (R185, R186). -/
def execStsv (st : BitVec 4) (sa : BitVec 6) (s : State) : Out :=
  let p := s.rs sa
  issue s ((s.accessCheck p 0 32 32 true).and (Check.wait (s.me.streamIdle st.toNat) 6 0)) fun s =>
    (s.onMe fun t => let a := t.place p 0 32; t.access 2 (.imageStore a.1 a.2 (t.stReg st.toNat))).retire

/-- A stream row that breaks a region rule, or a request whose stream register breaks R183, faults at the D strand,
naming the srd or swr (R176). -/
def rowFault (s : State) (cause : Nat) (q : StreamReq) : State :=
  stopStrand (unitFault s s.focus.tile 2 cause 0 q.pc 0) s.focus.tile .d

/-- The register of a stream after a stld is checked for the requests that were issued before its image was there
(R183, R186). -/
def checkWaiting (s : State) (n : Nat) : State :=
  match s.me.reqs' n, streamRegCheck s.focus.tile (s.me.stReg n) (n < 8) with
  | q :: _, .fault c _ => rowFault s c q
  | _, _ => s

/-- STLD_PERFORM (R185, R186): the waiting stld of stream `focus.idx` takes its image; a cursor index above its count
faults at the D strand, naming the stld. -/
def execStldPerform (s : State) : Out :=
  .next (match s.me.dacc.find? fun a => match a.kind with
      | .imageLoad st _ _ => st == s.focus.idx
      | _ => false with
    | none => s
    | some a =>
      if a.delay = 0 ∧ !s.me.frozen ∧ s.me.mayPerform false a.seq a.epoch then
        let t := s.me.perform s.dcc s.focus.tile a
        if s.me.accessBad a.kind then accessFault s a cECC
        else if stCurOk (t.stReg s.focus.idx) then checkWaiting (s.onMe fun _ => t) s.focus.idx
        else accessFault s a cILLEGAL
      else s)

/-! ## Stream rows (R175 to R182) -/

/-- What a read row finds: its lanes and flags, the lowest byte of it that is out of range, whether it breaks a region rule
or meets an uncorrectable error. -/
structure RowRead where
  vals : List W32
  fl : Flags
  bad : Option Int
  perm : Bool
  ecc : Bool
  deriving Repr

/-- The scratchpad byte range of an element (bit width `w`) of the row, from BASE. -/
def elemOff (r : BitVec 256) (w e : Nat) : Int := stRowOff r + (e * w / 8 : Nat)
/-- The lower of two offsets that may be absent. -/
def lower (a b : Option Int) : Option Int :=
  match a, b with
  | some x, some y => some (min x y)
  | some x, none => some x
  | none, b => b

/-- Bytes of an element. -/
def elemBytes (w : Nat) : Nat := max 1 (w / 8)

/-- The scale byte of element `e` from BASE (R178). -/
def scaleOff (r : BitVec 256) (e : Nat) : Int := stScaleOff r + stSstr r * (stRowOff r / 16 + (e / 32 : Nat))

/-- Read element `e` of the row at the cursor (R175, R179): its lane, flags, lowest offending byte, and whether the row
breaks a region rule (R176) or meets an uncorrectable error (R294). Data out of range reads as +0 also under the NaN
scale. (DESIGN CHOICE, log 124) -/
def readElem (t : Tile) (r : BitVec 256) (e : Nat) : W32 × Flags × Option Int × Bool × Bool :=
  let f := stFmt r
  let w := fmtWidth f
  let p := stBase r
  let d := t.place p (elemOff r w e) (elemBytes w)
  let sc := if blockFmt f then t.place p (scaleOff r e) 1 else (0, true)
  let bad := lower (t.lowest p (elemOff r w e) (elemBytes w)) (if blockFmt f then t.lowest p (scaleOff r e) 1 else none)
  let perm := (d.2 && t.regionFault false d.1 (elemBytes w)) || (blockFmt f && sc.2 && t.regionFault false sc.1 1)
  let code := if d.2 then
      (let b := Mem.readN t.sp d.1 (elemBytes w)
       if w = 4 then (if e % 2 = 0 then b % 16 else b / 16) else b) else 0
  let scale := if blockFmt f then (if sc.2 then (Mem.get t.sp sc.1).toNat else 0) else 127
  let v := if d.2 then widenLane f (stX r) scale code else (0#32, f0)
  let ecc := (d.2 && t.spBad d.1 (elemBytes w)) || (blockFmt f && sc.2 && t.spBad sc.1 1)
  (v.1, v.2, bad, perm, ecc)

/-- The lanes of the row at the cursor of a read stream (R179). -/
def readRow (t : Tile) (r : BitVec 256) : RowRead :=
  let els := tab (stBlk r) (readElem t r)
  { vals := els.map (·.1) ++ List.replicate (64 - stBlk r) 0#32
    fl := els.foldl (fun a x => a ||| x.2.1) f0
    bad := els.foldl (fun a x => lower a x.2.2.1) none
    perm := els.any (·.2.2.2.1)
    ecc := els.any (·.2.2.2.2) }

/-- Consume one row of a stream's first request. -/
def Tile.rowDone (t : Tile) (n : Nat) : Tile :=
  let t := t.setSt n (stAdvance (t.stReg n))
  t.setReqs n (match t.reqs' n with
    | [] => []
    | q :: qs => if q.left ≤ 1 then qs else { q with left := q.left - 1, delay := 0 } :: qs)

/-- The request that the next row of a stream belongs to, where the row may be performed now (R186, R197, R198); in a
drain no row is fetched or taken (R205). -/
def Tile.nextRow (t : Tile) (n : Nat) : Option StreamReq :=
  match t.reqs' n with
  | q :: _ =>
    if q.left > 0 ∧ q.delay = 0 ∧ !t.frozen ∧ !(t.drain.map (·.on)).getD false ∧ !t.stldPending n ∧ t.mayPerform (8 ≤ n) q.seq q.epoch then some q
    else none
  | [] => none

/-- STREAM_ROW_READ (R179, R181): read stream `focus.idx` fetches the row at its cursor into its queue. -/
def execStreamRowRead (s : State) : Out :=
  .next (match s.me.nextRow s.focus.idx with
    | none => s
    | some q =>
      let n := s.focus.idx
      let r := s.me.stReg n
      if 8 ≤ n ∨ 16 ≤ (s.me.vqRows n).length then s
      else match ptrFault s.focus.tile noReach (stBase r) 0 16 with
        | some c => rowFault s c q
        | none =>
          let row := readRow (s.me.seen s.dcc) r
          if row.perm then rowFault s cPERM q
          else if row.ecc then rowFault s cECC q
          else s.onMe fun t =>
            let t := match row.bad with
              | some off => t.offend false 0 s.focus.tile (off % 2 ^ 21).toNat
              | none => t
            ((t.setVq n (t.vqRows n ++ [⟨0, some row.vals, 0⟩])).raise row.fl).rowDone n)

/-- The code stored for a lane and its flags (R180). -/
def storeCode (f : Nat) (x sat : Bool) (rm : Nat) (seed v : W32) : Nat × Flags :=
  match f with
  | 0 => (v.toNat, f0)
  | 3 => (v.toNat, f0)
  | 4 => let c := clampLane false 16 sat v.toInt; (c.1, f0)
  | 5 => let c := clampLane false 8 sat v.toInt; (c.1, f0)
  | 6 => clampLane true 8 sat v.toInt
  | _ => conv f rm x sat seed (ofF32 v)

/-- The rounding mode of a write stream's row: its RM, or MODE.RM at the issue of the swr (R180). -/
def rowMode (r : BitVec 256) (q : StreamReq) : Nat := if stRm r = 7 then q.rm else stRm r

/-- The elements of the row at the cursor of a write stream: address, or SPOOR offset where out of range (R175). -/
def rowPlaces (t : Tile) (r : BitVec 256) : List (Nat × Bool) :=
  let w := fmtWidth (stFmt r)
  tab (stBlk r) fun e => t.place (stBase r) (elemOff r w e) (elemBytes w)

/-- The scratchpad bytes that the row replaces, address and length: its elements in range are consecutive. -/
def rowSpan (t : Tile) (r : BitVec 256) : Nat × Nat :=
  let l := (rowPlaces t r).filter (·.2)
  ((l.head?.map (·.1)).getD 0, l.length * elemBytes (fmtWidth (stFmt r)))

/-- Write the lanes as the elements of the row at the cursor (R175, R180). -/
def writeRow (r : BitVec 256) (q : StreamReq) (tid : Nat) (t : Tile) (lanes : List W32) : Tile :=
  let f := stFmt r
  let els := (List.zip (rowPlaces t r) lanes).map fun x =>
    (x.1, storeCode f (stX r) (stSat r) (rowMode r q) q.seed x.2)
  let t' := els.foldl (fun t x => t.raise x.2.2) t
  let t' := match els.find? fun x => !x.1.2 with
    | some x => t'.offend true 0 tid x.1.1
    | none => t'
  t'.spWrite (rowSpan t r).1 ((els.filter (·.1.2)).flatMap fun x => bytesOf (elemBytes (fmtWidth f)) x.2.1)

/-- Does the row at the cursor of a write stream reach a region it may not (R176)? -/
def writeRowPerm (t : Tile) (r : BitVec 256) : Bool :=
  let d := rowSpan t r
  d.2 != 0 && t.regionFault true d.1 d.2

/-- Would the row's bytes merge with a word that holds an uncorrectable error (R294)? -/
def writeRowBad (t : Tile) (r : BitVec 256) : Bool := let d := rowSpan t r; t.spMergeBad d.1 d.2

/-- STREAM_ROW_WRITE (R180, R182): write stream `focus.idx` takes the oldest landed row of its queue, and with it the
row's entry becomes free, as it is written. (DESIGN CHOICE, log 118) -/
def execStreamRowWrite (s : State) : Out :=
  .next (match s.me.nextRow s.focus.idx, s.me.vqRows s.focus.idx with
    | some q, x :: xs =>
      let n := s.focus.idx
      let r := s.me.stReg n
      match x.row with
      | none => s
      | some lanes =>
        if n < 8 ∨ x.age < 2 then s
        else match ptrFault s.focus.tile noReach (stBase r) 0 16 with
          | some c => rowFault s c q
          | none =>
            if writeRowPerm s.me r then rowFault s cPERM q
            else if writeRowBad s.me r then rowFault s cECC q
            else if s.me.queueBad n 1 then rowFault s cECC q
            else s.onMe fun t => (writeRow r q s.focus.tile ((t.setVq n xs).queueMoved n 1) lanes).rowDone n
    | _, _ => s)

/-! ## Rings (R190 to R193) -/

/-- The value that rgset writes: the field's low bits of sA (R191, R192). -/
def ringValue (fld : Nat) (a : W64) : Nat :=
  match fld with
  | 0 => a.toNat % 2 ^ 21
  | 1 => a.toNat % 2 ^ 9
  | 2 => a.toNat % 2 ^ 7
  | 3 => a.toNat % 2 ^ 6
  | 4 => a.toNat % 2 ^ 6
  | 5 => a.toNat % 2 ^ 7
  | _ => a.toNat % 2 ^ 16

/-- The range checks of rgset (R192). -/
def ringSetOk (r : Ring) (fld v : Nat) : Bool :=
  match fld with
  | 0 => v % 256 == 0 && v ≤ 0x17FF00 && r.level == 0
  | 1 => 1 ≤ v && v ≤ 256 && r.level == 0
  | 2 => 1 ≤ v && v ≤ 64 && r.level == 0
  | 3 => v < r.count
  | 4 => v < r.count
  | 5 => v ≤ r.count
  | _ => true

/-- A ring with one field written. -/
def Ring.put (r : Ring) (fld v : Nat) : Ring :=
  match fld with
  | 0 => { r with base := v }
  | 1 => { r with size := v }
  | 2 => { r with count := v }
  | 3 => { r with head := v }
  | 4 => { r with tail := v }
  | 5 => { r with level := v }
  | 6 => { r with etag := BitVec.ofNat 16 v }
  | _ => { r with ptag := BitVec.ofNat 16 v }

/-- Pushes of a ring issued and not yet performed. -/
def Tile.pushesPending (t : Tile) (n : Nat) : Nat :=
  (t.dacc.filter fun a => a.kind == .ringPush n).length

/-- FREE of R191, held at 0 where pushes pending at an rgset would make it negative. (DESIGN CHOICE, log 121) -/
def Tile.ringFree (t : Tile) (n : Nat) : Nat := (t.ring n).count - (t.ring n).level - t.pushesPending n

/-- The scratchpad offset of a slot (R191). -/
def Ring.slotAddr (r : Ring) (k : Nat) : Nat := r.base + 256 * r.size * k

/-- A scratchpad pointer of a tile; an offset beyond the field wraps. (DESIGN CHOICE, log 122) -/
def spPtr (tid off : Nat) : W64 := BitVec.ofNat 64 (9 * 2 ^ 60 + tid % 512 * 2 ^ 48 + off % 2 ^ 21)

/-- A ring field as rgrd reads it (R191). -/
def Tile.ringRead (t : Tile) (tid n fld : Nat) : W64 :=
  let r := t.ring n
  match fld with
  | 0 => BitVec.ofNat 64 r.base
  | 1 => BitVec.ofNat 64 r.size
  | 2 => BitVec.ofNat 64 r.count
  | 3 => BitVec.ofNat 64 r.head
  | 4 => BitVec.ofNat 64 r.tail
  | 5 => BitVec.ofNat 64 r.level
  | 6 => r.etag.setWidth 64
  | 7 => r.ptag.setWidth 64
  | 8 => BitVec.ofNat 64 (t.ringFree n)
  | 9 => spPtr tid (r.slotAddr r.tail)
  | _ => spPtr tid (r.slotAddr r.head)

/-- rgset (R192). (DEDUCED, log 26) -/
def execRgset (rg : BitVec 3) (fld : BitVec 5) (sa : BitVec 6) (s : State) : Out :=
  let v := ringValue fld.toNat (s.rs sa)
  issue s (Check.need (ringSetOk (s.me.ring rg.toNat) fld.toNat v) cILLEGAL 0) fun s =>
    (s.onMe fun t => t.setRing rg.toNat ((t.ring rg.toNat).put fld.toNat v)).retire

/-- A D instruction that pushes a value fixed at its issue, poppable after 2 clk (R172). -/
def pushOp (s : State) (qs : Bool) (c : Check) (v : W64) : Out :=
  issue s (c.and (s.dqRoom qs)) fun s =>
    (s.onMe fun t =>
      ({ t.dqAlloc qs t.dseq with dseq := t.dseq + 1 }).fly 2 (.dq qs t.dseq v) f0 2).retire

/-- rgrd (R192). -/
def execRgrd (qs : Bool) (rg : BitVec 3) (fld : BitVec 5) (s : State) : Out :=
  pushOp s qs .go (s.me.ringRead s.focus.tile rg.toNat fld.toNat)

/-- rpush (R193). -/
def execRpush (rg : BitVec 3) (s : State) : Out :=
  issue s (Check.wait (0 < s.me.ringFree rg.toNat) 6 0) fun s =>
    (s.onMe fun t => t.access 2 (.ringPush rg.toNat)).retire

/-! ## Ordering (R198 to R201) -/

/-- mark (R198). -/
def execMark (s : State) : Out := issue s .go fun s => (s.onMe fun t => { t with depoch := t.depoch + 1 }).retire

/-- fence (R199, R200): issues once every earlier access of the D strand is performed; it orders like a mark. -/
def execFence (_scope : BitVec 3) (_sc : Bool) (s : State) : Out :=
  issue s (Check.wait s.me.dIdle 6 0) fun s => (s.onMe fun t => { t with depoch := t.depoch + 1 }).retire

/-- xfence (R201): issues once every earlier store of the D strand is performed; it orders like a mark, and later loads
see the engines' writes whose CSN has been observed. -/
def execXfence (_scope : BitVec 3) (s : State) : Out :=
  issue s (Check.wait s.me.storesDone 6 0) fun s =>
    (s.onMe fun t => { t with depoch := t.depoch + 1 }.acquire).retire

/-! ## Pointer test and cast (R202, R203) -/

/-- The description of a pointer (R202). -/
def ptrTest (tid : Nat) (p : W64) : W64 :=
  let w := bits p.toNat 63 60
  let valid := w == 0 || w == 8 || w == 9 || w == 10
  let localP := w == 8 || (w == 9 && bits p.toNat 56 48 == tid) || (w == 10 && bits p.toNat 53 48 == tid % 64)
  BitVec.ofNat 64 (b2n valid * 32 + b2n localP * 16 + w)

/-- spt (R202). -/
def execSpt (qs : Bool) (sa : BitVec 6) (s : State) : Out := pushOp s qs .go (ptrTest s.focus.tile (s.rs sa))

/-- The cast's faults (R203). -/
def castOk (tid : Nat) (cs : Bool) (p : W64) : Bool :=
  let w := bits p.toNat 63 60
  (w == 9 || w == 10) && !ptrReserved p.toNat && !(w == 10 && bits p.toNat 53 48 > 47) &&
  !(w == 9 && cs && (bits p.toNat 56 54 != tid / 64 || bits p.toNat 53 48 > 47))

/-- The cast pointer (R203). -/
def castPtr (tid : Nat) (cs : Bool) (p b : W64) : W64 :=
  let w := bits p.toNat 63 60
  let off := (bits p.toNat 20 0 + b.toNat) % 2 ^ 21
  let id := if w = 9 then bits p.toNat 56 48 else tid / 64 * 64 + bits p.toNat 53 48
  if cs then BitVec.ofNat 64 (10 * 2 ^ 60 + bits p.toNat 53 48 * 2 ^ 48 + off)
  else BitVec.ofNat 64 (9 * 2 ^ 60 + id * 2 ^ 48 + off)

/-- spc (R203). -/
def execSpc (cs qs : Bool) (sa sb : BitVec 6) (s : State) : Out :=
  pushOp s qs (Check.need (castOk s.focus.tile cs (s.rs sa)) cWINDOW (s.rs sa))
    (castPtr s.focus.tile cs (s.rs sa) (s.rs sb))

end Sys2Proof.Machine
end

