-- ==== Sys2Proof/Machine/Memory.lean ====
section
/-! DEFINITION. Physical memory, its ownership and its errors (09_memory.md R272, R273, R294, R339), translation
(R274 to R280), the writes of a deterministic fold (R289, R290, R336), and the steps that translate: PAGE_WALK_DONE,
INVAL, xlin, shret, CP_XLATE_MISS and SHADOW_TIMEOUT (R136 to R139, R345, R346). -/

namespace Sys2Proof.Machine

/-! ## Physical memory -/

/-- The bytes of a tier. -/
def State.tierMem (s : State) (tier : Nat) : Mem :=
  match tier with
  | 0 => s.mem0
  | 1 => s.mem1
  | _ => s.mem2

/-- `n` bytes of a tier, little-endian. -/
def State.pread (s : State) (tier pa n : Nat) : Nat := Mem.readN (s.tierMem tier) pa n
/-- `n` bytes of a tier, as bytes. -/
def State.preadBytes (s : State) (tier pa n : Nat) : List W8 := Mem.readBytes (s.tierMem tier) pa n

/-- Replace a tier's bytes. -/
def State.setTier (s : State) (tier : Nat) (m : Mem) : State :=
  match tier with
  | 0 => { s with mem0 := m }
  | 1 => { s with mem1 := m }
  | _ => { s with mem2 := m }

/-- Write bytes of a tier; words replaced whole lose their error (R294). -/
def State.pwriteBytes (s : State) (tier pa : Nat) (l : List W8) : State :=
  let s := s.setTier tier (Mem.writeBytes (s.tierMem tier) pa l)
  { s with badMem := s.badMem.filter fun x => !(x.1 == tier && coversWord pa l.length x.2) }

/-- Write `n` bytes of a tier, little-endian. -/
def State.pwrite (s : State) (tier pa n v : Nat) : State := s.pwriteBytes tier pa (bytesOf n v)

/-- Do `n` bytes of a tier hold an uncorrectable error (R294)? (DEDUCED, log 39) -/
def State.memBad (s : State) (tier pa n : Nat) : Bool :=
  s.badMem.any fun x => x.1 == tier && overlaps pa n (4 * x.2) 4

/-- Would a write of `n` bytes have to merge with a word that holds an uncorrectable error (R294)? -/
def State.memMergeBad (s : State) (tier pa n : Nat) : Bool :=
  s.badMem.any fun x => x.1 == tier && overlaps pa n (4 * x.2) 4 && !coversWord pa n x.2

/-- Does a partition own a physical address (R273, R339)? -/
def Partition.owns (x : Partition) (tier pa : Nat) : Bool :=
  match tier with
  | 0 =>
    let st := pa / (48 * 2 ^ 30)
    let g := pa % (48 * 2 ^ 30) / (3 * 2 ^ 30)
    st < 8 && bitAt (if st < 4 then x.t0a else x.t0b).toNat (16 * (st % 4) + g)
  | 1 =>
    let st := pa / (64 * 2 ^ 30)
    let g := pa % (64 * 2 ^ 30) / (4 * 2 ^ 30)
    st < 4 && bitAt x.t1.toNat (16 * st + g)
  | 2 => pa / (8 * 2 ^ 30) < 64 && bitAt x.t2.toNat (pa / (8 * 2 ^ 30))
  | _ => false

/-- Does a partition own the first and the last byte of a range that lies in one ordering unit? -/
def Partition.ownsRange (x : Partition) (tier pa n : Nat) : Bool := x.owns tier pa && x.owns tier (pa + n - 1)

/-! ## Page tables (R274 to R276) -/

def pteValid (e : Nat) : Bool := bitAt e 63
def pteTable (e : Nat) : Bool := bitAt e 62
def pteSz (e : Nat) : Nat := bits e 61 60
def pteRd (e : Nat) : Bool := bitAt e 59
def pteWr (e : Nat) : Bool := bitAt e 58
def pteS (e : Nat) : Bool := bitAt e 57
def pteTier (e : Nat) : Nat := bits e 56 55
/-- The physical address of the page or table. -/
def ptePa (e : Nat) : Nat := bits e 51 12 * 4096

/-- Bytes of a page of a size code: 64 KiB, 2 MiB, 1 GiB. -/
def pageBytes (sz : Nat) : Nat :=
  match sz with
  | 0 => 2 ^ 16
  | 1 => 2 ^ 21
  | _ => 2 ^ 30

/-- Is a valid entry malformed (R275)? -/
def pteMalformed (e : Nat) : Bool :=
  bits e 54 52 != 0 || bits e 11 0 != 0 ||
  (if pteTable e then pteSz e != 0 || pteRd e || pteWr e || pteS e || pteTier e != 0
   else pteSz e == 3 || pteTier e == 3 || ptePa e % pageBytes (pteSz e) != 0)

/-- Index bits of a level. -/
def levelIndex (va level : Nat) : Nat :=
  match level with
  | 1 => bits va 47 39
  | 2 => bits va 38 30
  | 3 => bits va 29 21
  | _ => bits va 20 16

/-- The size code that a page entry of a level must have (R276). -/
def levelSz (level : Nat) : Option Nat :=
  match level with
  | 2 => some 2
  | 3 => some 1
  | 4 => some 0
  | _ => none

/-- One walk from the table at `pa` of a level on (R276); `none` is unresolved. -/
def walkGo (s : State) (p va : Nat) : Nat → Nat → Nat → Option W64
  | 0, _, _ => none
  | fuel + 1, level, pa =>
    let a := pa + 8 * levelIndex va level
    if !(s.part p).owns 0 a || s.memBad 0 a 8 then none
    else
      let e := s.pread 0 a 8
      if !pteValid e || pteMalformed e then none
      else if pteTable e then (if level = 4 then none else walkGo s p va fuel (level + 1) (ptePa e))
      else if levelSz level = some (pteSz e) then some (BitVec.ofNat 64 e)
      else none

/-- A page walk of a partition's address (R274, R276). -/
def State.walkVa (s : State) (p va : Nat) : Option W64 :=
  let r := (s.part p).ptroot.toNat
  if bitAt r 63 then walkGo s p va 4 1 (bits r 51 12 * 4096) else none

/-- Does the walk from the table at `pa` of a level on end at an uncorrectable table word (R294)? -/
def walkGoBad (s : State) (p va : Nat) : Nat → Nat → Nat → Bool
  | 0, _, _ => false
  | fuel + 1, level, pa =>
    let a := pa + 8 * levelIndex va level
    if !(s.part p).owns 0 a then false
    else if s.memBad 0 a 8 then true
    else
      let e := s.pread 0 a 8
      pteValid e && !pteMalformed e && pteTable e && level != 4 && walkGoBad s p va fuel (level + 1) (ptePa e)

/-- Does a page walk end at an uncorrectable table word (R294)? -/
def State.walkBad (s : State) (p va : Nat) : Bool :=
  let r := (s.part p).ptroot.toNat
  bitAt r 63 && walkGoBad s p va 4 1 (bits r 51 12 * 4096)

/-! ## The stages of translation (R278, R279) -/

/-- The requester number of the mailbox. -/
def mailboxWho : Nat := 0x800

/-- The cluster nearest to an edge router of an edge index (R245, R436). (DEDUCED, log 13) -/
def edgeCluster (edge : Nat) : Nat :=
  let die := edge / 256
  let side := edge / 64 % 4
  let i := edge % 64
  let half := if i < 8 then 0 else 1
  let row := if i < 6 then 0 else 1
  4 * die + (match side with
    | 0 => half
    | 1 => 2 * row + 1
    | 2 => 2 + half
    | _ => 2 * row)

/-- The place of a requester: a tile, an edge router or the mailbox. -/
def whoPlace (who : Nat) : Nat := who % 0x1000
/-- The requester of a tile's aqry, topk and kvtrunc, and that of a router's deliveries. -/
def requestWho (tid : Nat) : Nat := tid + 0x1000
def routerWho (r : Nat) : Nat := r + 0x2000

/-- The cluster whose translation cache a requester uses: of its tile, nearest to its edge router, 8 for the
mailbox. -/
def whoCluster (who : Nat) : Nat :=
  if whoPlace who < 512 then clusterOf (whoPlace who) else if who = mailboxWho then 8 else edgeCluster (whoPlace who - 0x400)

/-- Does a cached entry cover an address of a partition? -/
def TlbEntry.covers (x : TlbEntry) (p va : Nat) : Bool :=
  x.part == p && x.va == va / pageBytes (pteSz x.pte.toNat) * pageBytes (pteSz x.pte.toNat)

def findTlb (l : List TlbEntry) (p va : Nat) : Option W64 := (l.find? fun x => x.covers p va).map (·.pte)

/-- Put an entry into a list of cached translations, in place of one of the same page. (DESIGN CHOICE, log 11) -/
def putTlb (l : List TlbEntry) (p va : Nat) (e : W64) : List TlbEntry :=
  let page := va / pageBytes (pteSz e.toNat) * pageBytes (pteSz e.toNat)
  ⟨p, page, e⟩ :: l.filter fun x => !x.covers p va

/-- The TLB of a requester; an edge router uses those of its nearest cluster alone. -/
def State.tlb (s : State) (who : Nat) : List TlbEntry := (SMap.find s.tlbs who).getD []
def State.ccache (s : State) (c : Nat) : List TlbEntry := (SMap.find s.ccaches c).getD []
def State.fillTlb (s : State) (who p va : Nat) (e : W64) : State :=
  { s with tlbs := SMap.put s.tlbs who (putTlb (s.tlb who) p va e) }
def State.fillCcache (s : State) (c p va : Nat) (e : W64) : State :=
  { s with ccaches := SMap.put s.ccaches c (putTlb (s.ccache c) p va e) }

/-- How a translation stands: the page entry, a walk still to be waited for, or an unresolved walk. -/
inductive Xlat where
  | hit (pte : W64)
  | wait
  | failed
  deriving DecidableEq, Repr

/-- Does a walk stand before one that cluster `c` and place `who` ask for at a clk: asked for earlier, or in the same clk
from a lower cluster, or from the same and a lower tile (R279)? -/
def Walk.before (w : Walk) (since c who : Nat) : Bool :=
  w.since < since || (w.since == since && (w.cluster < c || (w.cluster == c && whoPlace (w.who.headD 0) ≤ whoPlace who)))

/-- Ask for a walk, joining one outstanding for the same cluster, partition and page (R279).
(DESIGN CHOICE, log 6; DEDUCED, log 12) -/
def State.askWalk (s : State) (p who va : Nat) : State :=
  let c := whoCluster who
  let page := va / 2 ^ 16
  let same := fun (w : Walk) => w.part == p && w.cluster == c && w.page == page
  if s.walks.any same then
    { s with walks := s.walks.map fun w => if same w ∧ !w.who.contains who then { w with who := w.who ++ [who] } else w }
  else
    let ahead := fun (w : Walk) => w.before s.dcc c who
    { s with walks := s.walks.takeWhile ahead ++ (⟨p, c, [who], page, s.dcc⟩ : Walk) :: s.walks.dropWhile ahead }

/-- Translate an address for a requester (R278, R279): a hit fills the earlier stages; a failed walk answers every access
that waited for it, until its operation has taken the outcome (`State.tookWalks`). -/
def State.xlate (s : State) (p who va : Nat) : Xlat × State :=
  match findTlb (s.tlb (whoPlace who)) p va with
  | some e => (.hit e, s)
  | none =>
    match findTlb (s.ccache (whoCluster who)) p va with
    | some e => (.hit e, s.fillTlb (whoPlace who) p va e)
    | none =>
      let mine := fun (w : Walk) => w.part == p && w.page == va / 2 ^ 16 && w.who.contains who
      if s.failed.any mine then (.failed, s) else (.wait, s.askWalk p who va)

/-- A requester's operation has taken the outcome of the walks that failed for it (R279). -/
def State.tookWalks (s : State) (who : Nat) : State :=
  { s with failed := (s.failed.map fun (w : Walk) => { w with who := w.who.erase who }).filter fun w => !w.who.isEmpty }

/-- A requester's accesses have gone, with a task that stops or leaves, or with a flow entry: it waits for no walk, and no
outcome stays for what comes after it (R279). (DEDUCED, log 12) -/
def State.leaveWalks (s : State) (who : Nat) : State :=
  { s.tookWalks who with walks := s.walks.map fun w => { w with who := w.who.erase who } }

/-- A task starts on a tile: neither its CP nor its requests wait for a walk yet. -/
def State.newTask (s : State) (tid : Nat) : State := (s.leaveWalks tid).leaveWalks (requestWho tid)

/-- The accesses of a partition have gone with its halt, but those of the mailbox (R356). -/
def State.leavePartWalks (s : State) (p : Nat) : State :=
  let left := fun (w : Walk) => if w.part = p then { w with who := w.who.filter (· == mailboxWho) } else w
  { s with walks := s.walks.map left, failed := (s.failed.map left).filter fun w => !w.who.isEmpty }

/-- The physical address of a virtual one under a page entry: tier and address. -/
def pteAddr (e : W64) (va : Nat) : Nat × Nat := (pteTier e.toNat, ptePa e.toNat + va % pageBytes (pteSz e.toNat))

/-- The checks of R277 in order: the cause of the first that fails. -/
def State.accessFault (s : State) (p : Nat) (secure : Bool) (e : W64) (va : Nat) (rd wr : Bool) : Option Nat :=
  if pteS e.toNat && !secure then some cWORLD
  else if (rd && !pteRd e.toNat) || (wr && !pteWr e.toNat) then some cPERM
  else if !(s.part p).owns (pteAddr e va).1 (pteAddr e va).2 then some cPERM
  else none

/-- Where a global access stands: performed at a tier and address, waiting for a walk, faulting with a cause, or met
by an unresolved walk. -/
inductive GPlace where
  | at (tier pa : Nat)
  | wait
  | fault (cause : Nat)
  | unresolved
  deriving DecidableEq, Repr, Inhabited

/-- Translate and check one global access that lies in one page (R277 to R279, R294). -/
def State.gplace (s : State) (p who : Nat) (secure : Bool) (va n : Nat) (rd wr : Bool) : GPlace × State :=
  match s.xlate p who va with
  | (.wait, s) => (.wait, s)
  | (.failed, s) => (.unresolved, s)
  | (.hit e, s) =>
    match s.accessFault p secure e va rd wr with
    | some c => (.fault c, s)
    | none =>
      let a := pteAddr e va
      if (rd && s.memBad a.1 a.2 n) || (wr && s.memMergeBad a.1 a.2 n) then (.fault cECC, s) else (.at a.1 a.2, s)

/-- The order in which the accesses of one operation are judged together (R344): translations still to come, the checks
of R277 in their order, an unresolved walk, an uncorrectable error; 5 for an access in place. -/
def GPlace.rank : GPlace → Nat
  | .wait => 0
  | .fault c => if c = cECC then 4 else if c = cWORLD then 1 else 2
  | .unresolved => 3
  | .at _ _ => 5

/-- How each access of a list (address, bytes, read, write) stands. -/
def State.gstands (p who : Nat) (secure : Bool) : List (Nat × Nat × Bool × Bool) → State → List GPlace × State
  | [], s => ([], s)
  | (va, n, rd, wr) :: rest, s =>
    let x := s.gplace p who secure va n rd wr
    let y := State.gstands p who secure rest x.2
    (x.1 :: y.1, y.2)

/-- Where an access in place lies. -/
def GPlace.pair : GPlace → Nat × Nat
  | .at t a => (t, a)
  | _ => (0, 0)

/-- Translate the accesses of one operation (address, bytes, read, write): all are in place, or the condition that comes
first in the order of R344 decides, with the number of the first access that meets it. -/
def State.gplaces (p who : Nat) (secure : Bool) (l : List (Nat × Nat × Bool × Bool)) (s : State) :
    Except (Nat × GPlace) (List (Nat × Nat)) × State :=
  let x := State.gstands p who secure l s
  let least := (x.1.map GPlace.rank).foldl min 5
  if least = 5 then (.ok (x.1.map GPlace.pair), x.2)
  else
    let i := x.1.findIdx fun g => g.rank == least
    (.error (i, x.1.getD i .wait), if least = 0 then x.2 else x.2.tookWalks who)

/-- An uncorrectable error that an agent without a fault of its own has met is counted (R294, R432).
(DEDUCED, log 162) -/
def State.countError (s : State) (met : Bool) : State := if met then s.countRecord 6 1 else s

/-- A write of the shepherd to a partition's virtual address by a walk of its own, for a secure task or not: a page that
the checks of R277 refuse, or a word it would have to merge with that holds an uncorrectable error, is a terminal fault of
the shepherd (R273, R294, R343, R350). Nothing is written where the walk does not resolve. (DESIGN CHOICE, log 148) -/
def State.vwrite (s : State) (p : Nat) (secure : Bool) (va : Nat) (l : List W8) : State :=
  match s.walkVa p va with
  | none => s.countError (s.walkBad p va)
  | some e =>
    let a := pteAddr e va
    match s.accessFault p secure e va false true with
    | some c => raiseHalt s p c 10 0
    | none => if s.memMergeBad a.1 a.2 l.length then raiseHalt s p cECC 10 0 else s.pwriteBytes a.1 a.2 l

/-- A read of the shepherd by a walk of its own (R320): `none` where it cannot be read. -/
def State.vread (s : State) (p : Nat) (secure : Bool) (va n : Nat) : Option Nat :=
  match s.walkVa p va with
  | none => none
  | some e =>
    match s.accessFault p secure e va true false with
    | some _ => none
    | none => let a := pteAddr e va; if s.memBad a.1 a.2 n then none else some (s.pread a.1 a.2 n)

/-- Bytes of a partition's memory from a virtual address on, 64-byte piece by piece; `none` where one cannot be
read. -/
def State.vreadBytes (s : State) (p : Nat) (secure : Bool) (va : Nat) : Nat → Option (List W8)
  | 0 => some []
  | n + 1 =>
    match s.vread p secure va 64, State.vreadBytes s p secure (va + 64) n with
    | some v, some rest => some (bytesOf 64 v ++ rest)
    | _, _ => none

/-- Is such a read stopped by an uncorrectable error, in a table word or in the data (R294)? -/
def State.vreadError (s : State) (p : Nat) (secure : Bool) (va n : Nat) : Bool :=
  match s.walkVa p va with
  | none => s.walkBad p va
  | some e => (s.accessFault p secure e va true false).isNone && s.memBad (pteAddr e va).1 (pteAddr e va).2 n

/-- Does an error stop the reading of pieces at the first that cannot be read? -/
def State.vreadBytesError (s : State) (p : Nat) (secure : Bool) (va : Nat) : Nat → Bool
  | 0 => false
  | n + 1 =>
    if (s.vread p secure va 64).isSome then State.vreadBytesError s p secure (va + 64) n else s.vreadError p secure va 64

/-! ## Deterministic folds (R289, R290, R336) -/

/-- Does a unit answer to a partition, level and identity, and is it not ended? -/
def WorkUnit.is (u : WorkUnit) (p level id : Nat) : Bool := u.part == p && u.level == level && u.id == id && !u.ended

/-- Change the units that answer. -/
def State.onUnit (s : State) (p level id : Nat) (f : WorkUnit → WorkUnit) : State :=
  { s with units := s.units.map fun u => if u.is p level id then f u else u }

/-- The unit of a partition, level and identity that has not ended. -/
def State.unit (s : State) (p level id : Nat) : Option WorkUnit := s.units.find? fun u => u.is p level id

/-- The status word of a unit (R316). -/
def WorkUnit.word1 (u : WorkUnit) : W64 :=
  BitVec.ofNat 64 (u.state * 2 ^ 61 + b2n u.resid * 2 ^ 60 + u.cause % 256 * 2 ^ 48 + u.reason % 256 * 2 ^ 40 +
    u.ovr % 256 * 2 ^ 32)

/-- Write a unit's status block: DETA and DETB before the status word, then the counter (R315, R316). No check is made of
STAT: its lowest 48 bits are taken as they stand. (DESIGN CHOICE, log 149) -/
def State.writeStat (s : State) (u : WorkUnit) : State :=
  if u.stat = 0#64 then s
  else s.vwrite u.part u.secure (u.stat.toNat % 2 ^ 48)
    (bytesOf 8 u.counter.toNat ++ bytesOf 8 u.word1.toNat ++ bytesOf 8 u.deta.toNat ++ bytesOf 8 u.detb.toNat)

/-- Change a unit that has not ended and write its status. -/
def State.changeUnit (s : State) (p level id : Nat) (f : WorkUnit → WorkUnit) : State :=
  match s.unit p level id with
  | some u => (s.onUnit p level id f).writeStat (f u)
  | none => s

/-- The fold that a launch belongs to, 0 for none. -/
def State.foldOf (s : State) (p lid : Nat) : Nat := ((s.unit p 0 lid).map (·.fold)).getD 0

/-- LOG and LOGCAP of a fold's record (R317). -/
def WorkUnit.logBase (u : WorkUnit) : Nat := bits u.record.toNat 239 192
def WorkUnit.logCap (u : WorkUnit) : Nat := bits u.record.toNat 287 256

/-- The bytes of a log item (R336). -/
def LogItem.bytes (i : LogItem) : List W8 :=
  bytesOf 8 (i.va % 2 ^ 48 + i.kind % 4 * 2 ^ 48) ++ bytesOf 4 i.val.toNat ++ bytesOf 4 i.task.toNat

/-- Append an item to a fold's log; the item after LOGCAP raises LOGFULL (R291, R336). -/
def State.logItem (s : State) (p fold : Nat) (i : LogItem) : State :=
  match s.unit p 2 fold with
  | none => s
  | some u =>
    if u.log.length < u.logCap then
      (s.onUnit p 2 fold fun u => { u with log := u.log ++ [i] }).vwrite p u.secure (u.logBase + 16 * u.log.length) i.bytes
    else if u.logFull then s
    else raiseHalt (s.changeUnit p 2 fold fun u => { u with
        logFull := true, state := 4, cause := cDETWW, reason := 3, deta := BitVec.ofNat 64 i.va
        detb := BitVec.ofNat 64 (i.task.toNat + i.task.toNat * 2 ^ 32) }) p cDETWW 10 0

/-- The 32-bit words of a list of bytes. -/
def wordsOf : List W8 → List W32
  | a :: b :: c :: d :: rest => BitVec.ofNat 32 (natOfBytes [a, b, c, d]) :: wordsOf rest
  | _ => []

/-- Log plain writes of consecutive words, at their places in memory. -/
def State.logWords (s : State) (p fold va tier pa : Nat) (task : W32) : List W32 → State
  | [] => s
  | w :: ws => State.logWords (s.logItem p fold ⟨va, w, 0, task, (tier, pa), false⟩) p fold (va + 4) tier (pa + 4) task ws

/-! ## Page walks (R276 to R280) -/

/-- Walkers of a partition on a die (R338). -/
def Partition.walkers (x : Partition) : Nat := bits x.reg.toNat 5 0

/-- The die whose walkers serve a cluster; the mailbox is served by those of die 0. -/
def Walk.die (w : Walk) : Nat := if w.cluster = 8 then 0 else w.cluster / 4

/-- May the walk at a place in the list be finished now: is it among the first WLK of its partition and die (R279)? -/
def State.walkServed (s : State) (i : Nat) (w : Walk) : Bool :=
  ((s.walks.take i).filter fun x => x.part == w.part && x.die == w.die).length < (s.part w.part).walkers

/-- PAGE_WALK_DONE (R276, R278, R279): the walk at place `focus.idx` ends; its entry fills the cluster's cache and the
TLB of every requester, or each requester will find it unresolved; an uncorrectable table word is counted (R294). -/
def execPageWalkDone (s : State) : Out :=
  .next (match s.walks[s.focus.idx]? with
    | none => s
    | some w =>
      if !s.walkServed s.focus.idx w then s
      else
        let va := w.page * 2 ^ 16
        let s' := { s with walks := s.walks.eraseIdx s.focus.idx }
        match s.walkVa w.part va with
        | some e => w.who.foldl (fun s who => s.fillTlb (whoPlace who) w.part va e) (s'.fillCcache w.cluster w.part va e)
        | none =>
          let s' := if s.walkBad w.part va then s'.countRecord 6 1 else s'
          { s' with failed := s'.failed ++ [w] })

/-- Does an invalidation drop an entry: any of the partition, or those of a page? -/
def TlbEntry.dropped (p : Nat) (v : W64) (x : TlbEntry) : Bool :=
  x.part == p && (bitAt v.toNat 63 || x.covers p (v.toNat % 2 ^ 48))

/-- Keep the entries of a list that an invalidation leaves. -/
def keepTlb (p : Nat) (v : W64) (l : List TlbEntry) : List TlbEntry := l.filter fun x => !x.dropped p v

/-- Was a logged write, which is performed at its fold's commit, translated through an entry that an invalidation drops
(R280, R289)? -/
def State.droppedUnder (s : State) (p : Nat) (v : W64) (i : LogItem) : Bool :=
  (s.tlbs ++ s.ccaches).any fun l => l.2.any fun x => x.dropped p v && x.covers p i.va

/-- The fold logs of a partition after an invalidation: what was translated through a dropped entry is marked. -/
def WorkUnit.markStale (p : Nat) (gone : LogItem → Bool) (u : WorkUnit) : WorkUnit :=
  if u.part = p then { u with log := u.log.map fun i => { i with stale := i.stale || gone i } } else u

/-- An invalidation (R280): every TLB and cluster cache drops the matching entries. -/
def State.invalidate (s : State) (p : Nat) (v : W64) : State :=
  { s with
    tlbs := s.tlbs.map fun x => (x.1, keepTlb p v x.2)
    ccaches := s.ccaches.map fun x => (x.1, keepTlb p v x.2)
    units := s.units.map (WorkUnit.markStale p (s.droppedUnder p v)) }

/-- Has an access that was translated through a dropped entry of a partition still to be performed (R280)? Logged writes
alone have: every other access is translated and performed at once. (DEDUCED, log 150) -/
def State.staleLogged (s : State) (p : Nat) : Bool := s.units.any fun u => u.part == p && u.log.any (·.stale)

/-- INVAL (R280, R426). Its completion waits for the accesses that were translated before (`Wait.inval`). -/
def execInval (part : Nat) (v : BitVec 64) (s : State) : Out := .next (s.invalidate part v)

/-! ## The shadow context (R136 to R138, R345, R346) -/

/-- xlin (R137, R279): the entry in sb for the page of sa; a malformed entry makes the original fault terminal.
(DEDUCED, log 28) -/
def execXlin (sa sb : BitVec 6) (s : State) : Out :=
  let e := s.rs sb
  issue s (s.shadowOnly .go) fun s =>
    if !pteValid e.toNat then s.retire
    else if pteMalformed e.toNat || pteTable e.toNat then shadowFault s s.focus.tile cILLEGAL 0
    else
      let va := (s.rs sa).toNat % 2 ^ 48
      let p := s.me.partition
      ((s.fillTlb s.focus.tile p va e).fillCcache (clusterOf s.focus.tile) p va e).retire

/-- The end of the clk of a shret (R138): the clocks resume, and the held access is retried. -/
def Tile.serviceDone (t : Tile) : Tile :=
  if (t.shadow.map (·.done)).getD false then
    { t with
      shadow := none
      cp := { t.cp with run := t.cp.run.map fun r => { r with stuck := none } } }
  else t

/-- shret (R137, R138): the service ends with the clk of its issue, which the hold still covers (R345). -/
def execShret (s : State) : Out :=
  issue s (s.shadowOnly .go) fun s =>
    (s.retire).onMe fun t => { t with shadow := t.shadow.map fun h =>
      { h with done := true, st := { h.st with running := false } } }

/-- The scratchpad address of a record (R137). -/
def Tile.recordSp (t : Tile) (p : W64) : W64 :=
  let base := if bits p.toNat 63 60 = 8 then (t.res.map (·.privBase)).getD 0 else 0
  BitVec.ofNat 64 (base + bits p.toNat 20 0)

/-- The fault items of a service (R137). The page-size hint of item 2 is always 0, 64 KiB: the manual does not say how
it is formed. (DESIGN CHOICE, log 117) -/
def serviceItems (s : State) (tid : Nat) (r : Run) (ptr : W64) (write : Bool) : List W64 :=
  let t := s.tile tid
  [BitVec.ofNat 64 (cXLATE + 6 * 256), ptr, BitVec.ofNat 64 (b2n write), t.recordSp r.addr,
   BitVec.ofNat 64 (t.taskid.toNat + tid % 512 * 2 ^ 32), BitVec.ofNat 64 s.dcc, 0, 0]

/-- The bits that an engine's stop record holds at 511:448 (R354). -/
def enginePtr (p : W64) : BitVec 320 := auxPtr p

/-- CP_XLATE_MISS (R136, R139, R345, R361): a CP access whose translation is unresolved enters the shadow context at
offset 0; without a shadow image it is a terminal XLATE at the CP; when the halt line reaches the tile, no service
begins. The shadow bank's registers are 0 at every entry: the manual gives them no value there. (DESIGN CHOICE,
log 116) -/
def execCpXlateMiss (s : State) : Out :=
  .next (match s.me.cp.run, s.me.shadow with
    | some r, none =>
      match r.stuck with
      | none => s
      | some (ptr, write) =>
        if s.me.halted ∨ !s.me.live then s
        else if s.me.shadowImage.isNone then
          (unitFault s s.focus.tile 6 cXLATE 0 0 (enginePtr ptr)).onMe fun t =>
            { t with cp := { t.cp with stopped := true } }
        else
          let h : Shadow :=
            ⟨{ StrandSt.reset with running := true }, [], [], serviceItems s s.focus.tile r ptr write, 0, 0, false⟩
          s.onMe fun t => { t with shadow := some h }
    | _, _ => s)

/-- The stall limit of a tile's task in clk (R27, R318). -/
def Tile.stallLimit (t : Tile) : Nat := 2 ^ ((t.res.map (·.stallN)).getD 20)

/-- SHADOW_TIMEOUT (R346): a service of 2^STALLN DCC clk ends as a terminal XLATE at the C strand. -/
def execShadowTimeout (s : State) : Out :=
  .next (match s.me.shadow with
    | some h => if h.st.running ∧ s.me.stallLimit ≤ h.age then shadowFault s s.focus.tile cXLATE 0 else s
    | none => s)

end Sys2Proof.Machine
end

