-- ==== Sys2Proof/Machine/Engine.lean ====
section
/-! DEFINITION. The E strand's postings (07_engine_strand.md R206 to R214) and what every engine record shares: its
fetch, its checks, its operands' addresses, its faults and its retirement (R93 to R98, R207 to R209, R216 to R218). -/

namespace Sys2Proof.Machine

/-! ## Postings (R207, R210, R211) -/

/-- Put an entry into an engine's posting queue, there after 2 clk (R210). -/
def Tile.postTo (t : Tile) (eng : Nat) (p : Posting) : Tile :=
  t.onEng eng fun e => { e with pq := e.pq ++ [Posted.mk p t.modeRm.toNat t.srseed 2] }

/-- Room in a posting queue of 16 entries. -/
def State.pqRoom (s : State) (eng : Nat) : Check := Check.wait ((s.me.eng eng).pq.length < 16) 6 0

/-- The pointer of a record (R209). -/
def State.recordPtr (s : State) (p : W64) : Check := ptrCheck s.focus.tile noReach p 0 64

/-- post (R207, R210). -/
def execPost (eng : BitVec 2) (sa : BitVec 6) (s : State) : Out :=
  let p := s.rs sa
  issue s ((s.recordPtr p).and (s.pqRoom eng.toNat)) fun s => (s.onMe fun t => t.postTo eng.toNat (.single p)).retire

/-- tadv (R207, R210): a tail equal to TAIL adds nothing. (DEDUCED, log 31) -/
def execTadv (eng : BitVec 2) (sa : BitVec 6) (s : State) : Out :=
  let p := s.rs sa
  issue s ((s.recordPtr p).and (s.pqRoom eng.toNat)) fun s =>
    (s.onMe fun t =>
      if (t.eng eng.toNat).tail = p then t
      else (t.postTo eng.toNat (.chain p)).onEng eng.toNat fun e => { e with tail := p }).retire

/-- The status word of an engine (R211). -/
def Tile.engineWord (t : Tile) (eng : Nat) : W64 :=
  let e := t.eng eng
  BitVec.ofNat 64 (eng * 2 ^ 62 + (if eng = 0 then t.empty.toNat else 0) * 2 ^ 40 +
    (e.pq.filter (·.delay == 0)).length * 2 ^ 32 + e.csn.toNat)

/-- cseq (R210, R211). -/
def execCseq (eng : BitVec 2) (s : State) : Out :=
  issue s (Check.wait (s.me.q15.length < 8) 1 15) fun s =>
    (s.onMe fun t =>
      let tag := t.dseq
      ({ t with q15 := t.q15 ++ [QWord.mk tag none], dseq := tag + 1 } : Tile).fly 2 (.q15 tag (t.engineWord eng.toNat)) f0 3).retire

/-- cwait (R210, R212): the CSN that satisfies it is observed. -/
def execCwait (eng : BitVec 2) (sa : BitVec 6) (s : State) : Out :=
  issue s (Check.wait (reached (s.me.eng eng.toNat).csn ((s.rs sa).setWidth 32)) 4 eng.toNat) fun s =>
    (s.onMe fun t => t.observe eng.toNat (t.eng eng.toNat).csn).retire

/-- fsend (R213): posted to the FI. (DEDUCED, log 35) -/
def execFsend (o : Bool) (fid : BitVec 20) (sa sb : BitVec 6) (fc : BitVec 5) (s : State) : Out :=
  issue s (s.pqRoom 3) fun s =>
    (s.onMe fun t => t.postTo 3 (.fsend fid.toNat (s.rs sa) (s.rs sb) fc.toNat o)).retire

/-- fwait (R210, R214). -/
def execFwait (fc : BitVec 5) (sa : BitVec 6) (s : State) : Out :=
  issue s (Check.wait (reached (s.me.fcReg fc.toNat) ((s.rs sa).setWidth 32)) 3 fc.toNat) fun s => s.acquire.retire

/-! ## Engines, their records and faults -/

/-- The engine of the step in progress. -/
def State.myEng (s : State) : Engine := s.me.eng s.focus.eng
def State.onEng (s : State) (f : Engine → Engine) : State := s.onMe fun t => t.onEng s.focus.eng f
/-- Change the record at the head of the engine. -/
def State.onRun (s : State) (f : Run → Run) : State := s.onEng fun e => { e with run := e.run.map f }

/-- The engine that a record op belongs to; link and nil are of any (R97). -/
def recEngine (i : Instr) : Option Nat :=
  match recOf i with
  | some (opc, _) => if opc < 0x10 then none else some (opc / 16 - 1)
  | none => none

/-- SPOOR's source code of an engine (R41); number 4 stands for a flow endpoint (R307). -/
def spoorSrc (eng : Nat) : Nat :=
  match eng with
  | 0 => 3
  | 1 => 2
  | 2 => 1
  | 3 => 4
  | _ => 5

/-- An engine's fault (R98, R352): the engine stops at the record, which has no further effect. -/
def engineFault (s : State) (cause : Nat) (aux : BitVec 320) : State :=
  (unitFault s s.focus.tile (4 + s.focus.eng) cause 0 0 aux).onEng fun e => { e with stopped := true }

/-- The same, naming a pointer where the engine's stop record holds one (R354). -/
def engineFaultAt (s : State) (cause : Nat) (p : W64) : State :=
  engineFault s cause (if s.focus.eng = 0 then 0 else enginePtr p)

/-- The next record of the chain, or the end of a single entry (R207). -/
def Engine.advance (e : Engine) (single : Bool) : Engine :=
  if single then e else { e with nxt := e.nxt + 64#64 }

/-- The record at the head retires, counted (R208); behind a relocated record taken before it (R227), and with a
finished one taken after it. -/
def Engine.retire (e : Engine) : Engine :=
  match e.run with
  | none => { e with csn := e.csn + 1 }
  | some run =>
    match e.away with
    | none => { e.advance run.single with run := none, csn := e.csn + 1 }
    | some a =>
      if run.after then { e with run := some { run with done := true, out := none } }
      else if a.phase = 3 then { e.advance run.single with run := none, away := none, csn := e.csn + 2 }
      else { e.advance run.single with run := none, csn := e.csn + 1 }

/-- A counted record of the focus engine retires (R208). -/
def State.retireRecord (s : State) : State := s.onEng Engine.retire

/-! ## Descriptors (R93, R95, R216) -/

def descBt (d : BitVec 96) : Nat := bits d.toNat 31 28
def descOff (d : BitVec 96) : Nat := bits d.toNat 27 0
/-- The signed step of level `k`, in 16-byte units. -/
def descStep (d : BitVec 96) (k : Nat) : Int := (BitVec.ofNat 16 (stepField d k)).toInt

/-- The indices of loop point `n` (R216). -/
def loopIdx (trips : List Nat) (n : Nat) : List Nat :=
  let t0 := trips.getD 0 1
  let t1 := trips.getD 1 1
  let t2 := trips.getD 2 1
  [n % t0, n / t0 % t1, n / (t0 * t1) % t2, n / (t0 * t1 * t2)]

/-- Bytes from the base-table pointer to a descriptor's element at loop point `n` (R93). -/
def descDisp (d : BitVec 96) (trips : List Nat) (n : Nat) : Int :=
  let i := loopIdx trips n
  descOff d + 16 * (descStep d 0 * (i.getD 0 0) + descStep d 1 * (i.getD 1 0) + descStep d 2 * (i.getD 2 0) +
    descStep d 3 * (i.getD 3 0))

/-- The base-table pointer of operand `k` of the record in progress. -/
def Run.base (r : Run) (k : Nat) : W64 := r.bases.getD k 0

/-- The trip count of a field: literal, or a loop count register of the engine (R95). -/
def tripCount (t : Tile) (eng : Nat) (f : BitVec 12) : Nat :=
  if f.toNat < 2048 then f.toNat else (t.lcReg eng (f.toNat % 8)).toNat

/-- The trip counts of a record, level 0 first. -/
def tripCounts (r : Rec) (t : Tile) (eng : Nat) : List Nat :=
  [tripCount t eng r.trip0, tripCount t eng r.trip1, tripCount t eng r.trip2, tripCount t eng r.trip3]

/-- The loop points of a record. -/
def points (trips : List Nat) : Nat := trips.foldl (· * ·) 1

/-- The generic pointer of an element, as stop records name it: the window bits of the base and the sum (R93). -/
def elemPtr (p : W64) (disp : Int) : W64 :=
  BitVec.ofNat 64 (bits p.toNat 63 60 * 2 ^ 60 + ((bits p.toNat 59 0 + disp) % 2 ^ 60).toNat)

/-! ## Engine accesses (R174, R175, R176, R217, R281) -/

/-- Where an engine's access lands: in range of a scratchpad, out of range of one, in global memory, or outside the
48 bits of an address. -/
inductive EPlace where
  | sp (tid a : Nat)
  | out (tid off : Nat)
  | global (va : Nat)
  | bad
  deriving DecidableEq, Repr

/-- The place of `n` bytes at an exact displacement from a base pointer that passed its checks. -/
def State.eplace (s : State) (tid : Nat) (p : W64) (disp : Int) (n : Nat) : EPlace :=
  match bits p.toNat 63 60 with
  | 0 =>
    let a := ((bits p.toNat 59 0 + disp) % 2 ^ 60).toNat
    if a < 2 ^ 48 then .global a else .bad
  | 10 =>
    let target := tidOf (clusterOf tid) (bits p.toNat 53 48)
    let off : Int := ptrOffset p + disp
    if 0 ≤ off ∧ off + n ≤ 0x180000 then .sp target off.toNat
    else .out target (((if off < 0 then off else max off 0x180000) % 2 ^ 21).toNat)
  | w =>
    match (s.tile tid).res with
    | none => .bad
    | some r => match spAddr r (w == 8) (ptrOffset p + disp) n with
      | .ok a => .sp tid a
      | .error off => .out tid off

/-- A read of `n` scratchpad bytes by the focus engine: the cause of its fault, or the bytes and the state with SPOOR
set where it is out of range. -/
def State.eread (s : State) (p : W64) (disp : Int) (n : Nat) : Except Nat (Nat × State) :=
  match s.eplace s.focus.tile p disp n with
  | .sp tid a =>
    let t := s.tile tid
    if t.regionFault false a n then .error cPERM
    else if t.spBad a n then .error cECC
    else .ok (Mem.readN t.sp a n, s)
  | .out tid off => .ok (0, s.onMe fun t => t.offend false (spoorSrc s.focus.eng) tid off)
  | _ => .error cWINDOW

/-- A write of scratchpad bytes by the focus engine; of its own tile's, D may see it late (R201, R212). A request's result
(engine number 4) is visible before its counter counts it (R128, R307, R365). -/
def State.ewrite (s : State) (p : W64) (disp : Int) (l : List W8) : Except Nat State :=
  match s.eplace s.focus.tile p disp l.length with
  | .sp tid a =>
    let t := s.tile tid
    if t.regionFault true a l.length then .error cPERM
    else if t.spMergeBad a l.length then .error cECC
    else .ok (s.onTile tid fun t =>
      if tid = s.focus.tile && s.focus.eng != 4 then t.spWriteEng s.dcc a l s.focus.eng (s.myEng.csn + 1)
      else t.spWrite a l)
  | .out tid off => .ok (s.onMe fun t => t.offend true (spoorSrc s.focus.eng) tid off)
  | _ => .error cWINDOW

/-- An access of one operation of an engine: base pointer, displacement, bytes, and whether it writes. -/
abbrev EAcc := W64 × Int × Nat × Bool

/-- Does a scratchpad access of the focus engine break a region rule (R176)? -/
def State.regionBad (s : State) (x : EAcc) : Bool :=
  match s.eplace s.focus.tile x.1 x.2.1 x.2.2.1 with
  | .sp tid a => (s.tile tid).regionFault x.2.2.2 a x.2.2.1
  | _ => false

/-- Does it meet an uncorrectable error of the scratchpad (R294)? -/
def State.errorBad (s : State) (x : EAcc) : Bool :=
  match s.eplace s.focus.tile x.1 x.2.1 x.2.2.1 with
  | .sp tid a => if x.2.2.2 then (s.tile tid).spMergeBad a x.2.2.1 else (s.tile tid).spBad a x.2.2.1
  | _ => false

/-- Several reads in order. -/
def ereadsGo (p : W64) (n : Nat) : List Int → State → Except Nat (List Nat × State)
  | [], s => .ok ([], s)
  | d :: ds, s =>
    match s.eread p d n with
    | .error c => .error c
    | .ok (v, s) => match ereadsGo p n ds s with
      | .error c => .error c
      | .ok (l, s) => .ok (v :: l, s)

/-- The reads of one operation: the region rule of any of them comes before an uncorrectable error (R344). -/
def State.ereads (p : W64) (n : Nat) (ds : List Int) (s : State) : Except Nat (List Nat × State) :=
  if ds.any fun d => s.regionBad (p, d, n, false) then .error cPERM else ereadsGo p n ds s

/-- A number whose 16-byte digits are a list. -/
def joinUnits (l : List Nat) : Nat := l.foldr (fun v a => v + 2 ^ 128 * a) 0

/-- `n` consecutive 16-byte units as one number; each is in its space or out of it (R175). -/
def State.ereadUnits (s : State) (p : W64) (disp : Int) (n : Nat) : Except Nat (Nat × State) :=
  match State.ereads p 16 (tab n fun k => disp + 16 * k) s with
  | .error c => .error c
  | .ok (l, s) => .ok (joinUnits l, s)

/-- Bytes in pieces of 16. -/
def chunks16 : Nat → List W8 → List (List W8)
  | 0, _ => []
  | k + 1, l => if l.isEmpty then [] else l.take 16 :: chunks16 k (l.drop 16)

/-- The writes of consecutive bytes, 16 at a time. -/
def unitWrites (p : W64) (d : Int) (l : List W8) : List (W64 × Int × List W8) :=
  let c := chunks16 (l.length / 16 + 1) l
  (List.zip (List.range c.length) c).map fun x => (p, d + 16 * x.1, x.2)

/-- Writes in order: all, or the cause of the first that faults and its pointer. -/
def ewritesGo : List (W64 × Int × List W8) → State → Except (Nat × W64) State
  | [], s => .ok s
  | (p, d, l) :: rest, s =>
    match s.ewrite p d l with
    | .error c => .error (c, elemPtr p d)
    | .ok s => ewritesGo rest s

/-- Words of the focus tile that the writes of one operation replace whole between them lose their error (R294). -/
def State.replaceWords (s : State) (l : List (W64 × Int × List W8)) : State :=
  let bytes := l.filterMap fun x => match s.eplace s.focus.tile x.1 x.2.1 x.2.2.length with
    | .sp tid a => if tid = s.focus.tile then some (a, x.2.2.length) else none
    | _ => none
  s.onMe fun t => { t with bad := t.bad.filter fun w =>
    !((List.range 4).all fun k => bytes.any fun x => decide (x.1 ≤ 4 * w + k) && decide (4 * w + k < x.1 + x.2)) }

/-- The writes of one operation: all, or the cause of the first that faults and its pointer; nothing is written then. -/
def State.ewrites (l : List (W64 × Int × List W8)) (s : State) : Except (Nat × W64) State := ewritesGo l (s.replaceWords l)

/-- The windows of an engine (R217). -/
def engineReach (eng : Nat) : Reach :=
  match eng with
  | 2 => ⟨true, true⟩
  | 3 => ⟨true, false⟩
  | _ => ⟨false, false⟩

/-! ## Fetch and start of a record (R98, R207, R209, R216) -/

/-- A fresh record at the head of an engine. -/
def Run.fresh (i : Option Instr) (snd : Option Posting) (addr : W64) (single : Bool) (rm : Nat) (seed : W32) : Run where
  instr := i
  send := snd
  addr := addr
  single := single
  started := false
  bases := []
  trips := []
  rm := rm
  seed := seed
  prog := 0
  due := 0
  stamp := 0
  slipped := false
  out := none
  rem := 0
  waited := 0
  m := none
  stuck := none
  late := false
  peer := none
  phase := 0
  view := none
  after := false
  done := false
  abnd := false

/-- Read the record at an address and put it at the head of the focus engine; an unassigned OPC faults (R98). -/
def State.fetchRecord (s : State) (addr : W64) (single : Bool) (p : Posted) : State :=
  let unread := fun (s : State) => s.onEng fun e => { e with run := some (Run.fresh none none addr single p.rm p.seed) }
  match s.eread addr 0 64 with
  | .error c => engineFaultAt (unread s) c addr
  | .ok (w, s) =>
    match decodeRecord w with
    | none => engineFaultAt (unread s) cILLEGAL addr
    | some i => s.onEng fun e => { e with
      run := some { Run.fresh (some i) none addr single p.rm p.seed with after := e.away.isSome } }

/-- The focus engine takes its next work: the next record of its chain, or its next posting (R207). -/
def State.takeWork (s : State) : State :=
  let e := s.myEng
  match e.chain with
  | some p =>
    (match p.what with
      | .chain t => if e.nxt = t then s.onEng fun e => { e with chain := none } else s.fetchRecord e.nxt false p
      | _ => s.onEng fun e => { e with chain := none })
  | none =>
    match e.pq with
    | [] => s
    | p :: rest =>
      if p.delay ≠ 0 then s
      else
        let s := s.onEng fun e => { e with pq := rest }
        match p.what with
        | .chain t =>
          if e.nxt = t then s
          else (s.onEng fun e => { e with chain := some p }).fetchRecord e.nxt false p
        | .single a => s.fetchRecord a true p
        | .fsend _ _ _ _ _ =>
          s.onEng fun e => { e with run := some (Run.fresh none (some p.what) 0 true p.rm p.seed) }

/-- The rounding mode of a record: its RM, or MODE.RM at the posting (R94). -/
def recMode (r : Rec) (posted : Nat) : Nat := if r.rm = 7 then posted else r.rm

/-- The fields of a record. -/
def recFields (i : Instr) : Option Rec := (recOf i).map (·.2)

/-- When the stamp of a record at the head of its queue is due (R96, R220), and whether it has passed. -/
def dueOf (tcc : W64) (stamp : BitVec 40) : W64 × Bool :=
  let diff := tcc.setWidth 40 - stamp
  if stamp = 0#40 then (tcc, false)
  else if 1 ≤ diff.toNat ∧ diff.toNat < 2 ^ 39 then (tcc, true)
  else (tcc + (stamp - tcc.setWidth 40).setWidth 64, false)

/-- Is the record of the MX strict-timed (R220)? -/
def strictRun (t : Tile) (run : Run) : Bool := t.modeSt || ((run.instr.bind recFields).map (·.ts)).getD false

/-- SLIP counts a late record once, in slip mode (R220). -/
def State.noteLate (s : State) (own : Nat) : State :=
  match s.myEng.run with
  | some run =>
    if run.slipped || strictRun (s.tile own) run then s
    else (s.onTile own Tile.slipOnce).onRun fun r => { r with slipped := true }
  | none => s

/-- The engine in which a record runs counts a stamp, and the record carries one (R96). -/
def stamped (eng : Nat) (r : Rec) : Bool := eng == 0 && r.stamp != 0#40

/-- A record that is not idle starts on its stamp: when it is due, and late where that has passed (R96, R220). -/
def State.startClock (s : State) (r : Rec) : State :=
  let d := dueOf (s.tcc s.focus.tile) r.stamp
  let s := s.onRun fun x => { x with due := d.1, late := d.2 }
  if d.2 then s.noteLate s.focus.tile else s

/-- The effect of a record that has no step (R95, R207, R208): a link moves NXT and is not counted; nil and a record
with a zero trip count are counted, and have no other. -/
def State.takeIdle (s : State) (i : Instr) (trips : List Nat) : State :=
  match i with
  | .linkRecord r =>
    if trips.contains 0 then s.retireRecord
    else s.onEng fun e => { e with nxt := BitVec.ofNat 64 r.od0.toNat, run := none }
  | _ => s.retireRecord

/-- A record without steps has passed its checks: it has its effect at once, or, with a stamp, at its due clk (R96);
that waits for MX_STEP_BEGIN. (DEDUCED, log 32) -/
def State.idleRecord (s : State) (i : Instr) (r : Rec) (trips : List Nat) : State :=
  if stamped s.focus.eng r then
    (s.onRun fun run => { run with started := true, trips := trips, stamp := r.stamp }).startClock r
  else s.takeIdle i trips

/-- Has a record of the MX no step (R95, R207, R208)? -/
def idleRun (i : Instr) (run : Run) : Bool :=
  match i with
  | .linkRecord _ => true
  | .nil _ => true
  | _ => run.trips.contains 0

/-- Start the record at the head of the focus engine (R98, R216): the checks, the resolved bases and counts. `ops`
lists its memory operands: number and alignment. A zero trip count retires it (R95), at its stamp. The answer is the state and whether the
record is under way. (DEDUCED, log 29) -/
def State.startRecord (s : State) (i : Instr) (r : Rec) (ops : List (Nat × Nat)) (good : Nat → State → Bool) : State × Bool :=
  let eng := s.focus.eng
  let addr := (s.myEng.run.map (·.addr)).getD 0
  if !i.wellFormed || ((recEngine i).getD eng) != eng || (eng != 0 && r.stamp != 0#40) then
    (engineFaultAt s cILLEGAL addr, false)
  else
    let trips := tripCounts r s.me eng
    if trips.contains 0 then (s.idleRecord i r trips, false)
    else
      let ods := [r.od0, r.od1, r.od2, r.od3]
      let bases := ods.map fun d => s.me.btReg (descBt d)
      if !good (points trips) s then (engineFaultAt s cILLEGAL addr, false)
      else
        match ops.findSome? fun o =>
            (ptrFault s.focus.tile (engineReach eng) (bases.getD o.1 0) (descOff (ods.getD o.1 0)) o.2).map fun c =>
              (c, elemPtr (bases.getD o.1 0) (descOff (ods.getD o.1 0))) with
        | some (c, p) => (engineFaultAt s c p, false)
        | none =>
          (s.onRun fun run => { run with
            started := true, bases := bases, trips := trips, rm := recMode r run.rm, stamp := r.stamp }, true)

/-- The state of a record op of the focus engine: nothing without such a record at its head; started first if need
be; then one unit of its work. -/
def recordOp (s : State) (i : Instr) (r : Rec) (ops : List (Nat × Nat)) (good : Nat → State → Bool)
    (unit : State → Run → State) : Out :=
  .next (match s.myEng.run with
    | none => s
    | some run =>
      if s.myEng.stopped || run.instr != some i then s
      else if run.started then unit s run
      else
        let st := s.startRecord i r ops good
        if st.2 then (match st.1.myEng.run with
          | some run => unit st.1 run
          | none => st.1)
        else st.1)

/-- Any loop count. -/
def anyTrips (_ : Nat) (_ : State) : Bool := true

/-- link (R95, R207, R209): NXT takes the target; it is not counted. A target that is no record pointer of the tile
faults at the engine; with a zero trip count the record has no effect but to be counted. (DEDUCED, log 20) -/
def execLinkRecord (r : Rec) (s : State) : Out :=
  .next (match s.myEng.run with
    | none => s
    | some run =>
      if s.myEng.stopped || run.instr != some (.linkRecord r) || run.started then s
      else
        let target := BitVec.ofNat 64 r.od0.toNat
        let trips := tripCounts r s.me s.focus.eng
        if !(Instr.linkRecord r).wellFormed || (s.focus.eng != 0 && r.stamp != 0#40) then
          engineFaultAt s cILLEGAL run.addr
        else if trips.contains 0 then s.idleRecord (.linkRecord r) r trips
        else match ptrFault s.focus.tile noReach target 0 64 with
          | some c => engineFaultAt s c target
          | none => s.idleRecord (.linkRecord r) r trips)

/-- nil (R95, R208): counted, without effect. -/
def execNil (r : Rec) (s : State) : Out :=
  .next (match s.myEng.run with
    | none => s
    | some run =>
      if s.myEng.stopped || run.instr != some (.nil r) || run.started then s
      else if !(Instr.nil r).wellFormed || (s.focus.eng != 0 && r.stamp != 0#40) then engineFaultAt s cILLEGAL run.addr
      else s.idleRecord (.nil r) r (tripCounts r s.me s.focus.eng))

end Sys2Proof.Machine
end

