-- ==== Sys2Proof/Machine/Mx.lean ====
section
/-! DEFINITION. The matrix engine (07_engine_strand.md R219 to R227): its records, the beginning and the end of a
step, a missed stamp, and relocation to a sibling. -/

namespace Sys2Proof.Machine

/-! ## Tiles in ring slots (R222) -/

/-- Bytes of the data of a tile of `n` rows (128 for A, 64 columns for B) of width `w`. -/
def tileData (n w : Nat) : Nat := n * 64 * w / 8
/-- Bytes of a tile with its scales (R222). -/
def tileBytes (n fmt : Nat) : Nat := tileData n (fmtWidth fmt) + if blockFmt fmt then 2 * n else 0

/-- One stored byte-aligned code from a list of bytes: element `e` of width `w` from byte `b` (R45). -/
def codeAt (l : List W8) (b e w : Nat) : Nat :=
  if w = 4 then let x := (l.getD (b + e / 2) 0).toNat; if e % 2 = 0 then x % 16 else x / 16
  else natOfBytes ((l.drop (b + e * (w / 8))).take (w / 8))

/-- The 64 operands of row (or column) `i` of a tile held in a list of bytes, widened by R60, with the flags of that. -/
def tileRow (l : List W8) (n fmt : Nat) (x : Bool) (i : Nat) : List (Num × Flags) :=
  let w := fmtWidth fmt
  let row := (l.drop (8 * w * i)).take (8 * w)
  tab 64 fun k =>
    let sc := if blockFmt fmt then (l.getD (tileData n w + 2 * i + k / 32) 0).toNat else 127
    widenNum fmt x sc (codeAt row 0 k w)

/-- Bytes of the scratchpad of a tile's ring slot; bytes beyond the scratchpad read as zero (R191, R175). -/
def slotBytes (t : Tile) (a n : Nat) : List W8 := tab n fun i => if a + i < 0x180000 then Mem.get t.sp (a + i) else 0

/-- The bytes of a slot that lie in the scratchpad. -/
def slotInside (a n : Nat) : Nat := min n (0x180000 - a)
/-- Does a slot break the region rule of R176 (R217)? -/
def Tile.slotPerm (t : Tile) (write : Bool) (a n : Nat) : Bool :=
  slotInside a n != 0 && t.regionFault write a (slotInside a n)
/-- SPOOR takes the part of a slot beyond the scratchpad, with the MX as its source (R175, R217). -/
def Tile.slotOffend (t : Tile) (tid : Nat) (write : Bool) (a n : Nat) : Tile :=
  if slotInside a n = n then t else t.offend write (spoorSrc 0) tid (max a 0x180000 % 2 ^ 21)

/-! ## Step length, steps and operands (R219, R220) -/

/-- The length of a step in clk. -/
def stepLen (i : Instr) : Nat :=
  match i with
  | .mma r => 4 * max (fmtWidth r.fmt0.toNat) (fmtWidth r.fmt1.toNat)
  | .mmai r => 4 * max (fmtWidth r.fmt0.toNat) (fmtWidth r.fmt1.toNat)
  | .smxu _ => 24
  | .smxm _ => 16
  | .smxf _ => 20
  | .acld _ => 32
  | .acst _ => 32
  | _ => 8

/-- The steps of a record. -/
def stepCount (i : Instr) (trips : List Nat) : Nat :=
  match i with
  | .mma _ => points trips
  | .mmai _ => points trips
  | _ => 1

/-- A ring or accumulator number. -/
def unitNo (d : BitVec 96) : Nat := d.toNat % 8

/-- The accumulators and the rings that a record names (R227). -/
def namedUnits (i : Instr) : List Nat × List Nat :=
  match i with
  | .mma r => ([unitNo r.od2], [unitNo r.od0, unitNo r.od1])
  | .mmai r => ([unitNo r.od2], [unitNo r.od0, unitNo r.od1])
  | .smxu r => ([unitNo r.od0, unitNo r.od2], [unitNo r.od1])
  | .smxm r => ([unitNo r.od0, unitNo r.od1, unitNo r.od2], [])
  | .smxf r => ([unitNo r.od0], [])
  | .acld r => ([unitNo r.od2], [])
  | .acst r => ([unitNo r.od0], [])
  | .aczr r => ([unitNo r.od2], [])
  | _ => ([], [])

/-- Do two records name a common accumulator or ring? -/
def shareUnits (a b : Instr) : Bool :=
  (namedUnits a).1.any ((namedUnits b).1.contains ·) || (namedUnits a).2.any ((namedUnits b).2.contains ·)

/-! ## What a step computes (R65, R223 to R226) -/

/-- A step that writes nothing. -/
def StepOut.none : StepOut := ⟨[], [], [], [], 0, 0, [], Option.none, [], f0⟩

/-- One element of an MMA step (R65). Where an operand or C is a NaN the result is one, and no IV is raised even where
another product is 0 × inf or the other addends hold infinities of both signs: R62 asks IV of operands none of which
is a NaN. (DEDUCED, log 16) -/
def mmaElem (c : W32) (a b : List Num) : W32 × Flags :=
  let vc := ofF32 c
  if vc.isNan || a.any Num.isNan || b.any Num.isNan then (nan32, fNF)
  else
    let ps := List.zipWith mulNum a b
    if ps.any fun p => p.1.isNan then (nan32, fIV ||| fNF)
    else
      let (v, f1) := sumNum 0 (vc :: ps.map (·.1))
      let (w, f2) := rne v
      (w, f1 ||| f2 ||| if nonFinite32 w then fNF else f0)

/-- The flags of a list of results. -/
def orFlags {α : Type} (l : List (α × Flags)) : Flags := l.foldl (fun a x => a ||| x.2) f0

/-- An MMA step over the first `rows` rows: `d` holds the operands and rings, `v` the accumulators. -/
def mmaStep (d v : Tile) (r : Rec) (rows : Nat) : StepOut :=
  let ra := unitNo r.od0
  let rb := unitNo r.od1
  let fa := r.fmt0.toNat
  let fb := r.fmt1.toNat
  let acc := unitNo r.od2
  let la := slotBytes d ((d.ring ra).slotAddr (d.ring ra).head) (tileBytes 128 fa)
  let lb := slotBytes d ((d.ring rb).slotAddr (d.ring rb).head) (tileBytes 64 fb)
  let cols := tab 64 fun j => tileRow lb 64 fb r.x j
  let widened := tab rows fun i => tileRow la 128 fa r.x i
  let out := (List.zip (List.range rows) widened).map fun x =>
    (128 * acc + x.1, List.zipWith (fun c b => mmaElem c (x.2.map (·.1)) (b.map (·.1))) (v.accRow acc x.1) cols)
  let fl := (cols ++ widened).foldl (fun a x => a ||| orFlags x) f0
  { StepOut.none with
    rows := out.map fun x => (x.1, x.2.map (·.1))
    fl := out.foldl (fun a x => a ||| orFlags x.2) fl
    pops := [ra, rb].eraseDups }

/-- One row of smxu (R224): the new m, l, O, the codes of P, and the flags; `none` for O where the row is empty. -/
def smxuRow (sc : List W32) (m l : W32) (o : List W32) (fmt mode : Nat) (x sat : Bool) (seed : W32) :
    Option (W32 × W32 × List W32) × List Nat × Flags :=
  let mx := sc.foldl fmax ninf32
  let mn := fmax m mx
  if mn = ninf32 then
    let p := conv fmt mode x sat seed (.zero false)
    (none, sc.map fun _ => p.1, p.2)
  else
    let a := mergeScale m mn
    let ps := sc.map fun s =>
      let e := exp2Diff s mn
      let c := conv fmt mode x sat seed (ofF32 e.1)
      (c.1, e.2 ||| c.2)
    let wide := ps.map fun p => (widenLane fmt x 127 p.1).1
    let t := treeSum wide
    let al := fmul 0 0#32 a.1 l
    let l' := fadd 0 0#32 al.1 t.1
    let os := o.map fun y => fmul 0 0#32 a.1 y
    let fl := ps.foldl (fun f p => f ||| p.2) (a.2 ||| t.2 ||| al.2 ||| l'.2 ||| orFlags os)
    let nf := nonFinite32 mn || nonFinite32 l'.1 || os.any (fun y => nonFinite32 y.1) || wide.any nonFinite32
    (some (mn, l'.1, os.map (·.1)), ps.map (·.1), fl ||| if nf then fNF else f0)

/-- Codes of a width packed into bytes, 4-bit ones low nibble first (R45). -/
def packCodes (w : Nat) : List Nat → List W8
  | [] => []
  | [c] => bytesOf (max 1 (w / 8)) c
  | c :: d :: rest =>
    if w = 4 then BitVec.ofNat 8 (c % 16 + d % 16 * 16) :: packCodes w rest
    else bytesOf (w / 8) c ++ (bytesOf (w / 8) d ++ packCodes w rest)

/-- An smxu step (R224); `mask` is the list of mask bytes, empty for none. -/
def smxuStep (v : Tile) (r : Rec) (mode : Nat) (seed : W32) (mask : List W8) : StepOut :=
  let accS := unitNo r.od0
  let accO := unitNo r.od2
  let fmt := r.fmt1.toNat
  let rows := tab 128 fun i =>
    let sc := (List.zip (List.range 64) (v.accRow accS i)).map fun x =>
      if bitAt (mask.getD (8 * i + x.1 / 8) 0).toNat (x.1 % 8) then ninf32 else x.2
    (i, smxuRow sc (v.accMax accO i) (v.accDen accO i) (v.accRow accO i) fmt mode r.x r.sat seed)
  { StepOut.none with
    rows := rows.filterMap fun x => x.2.1.map fun y => (128 * accO + x.1, y.2.2)
    ms := rows.filterMap fun x => x.2.1.map fun y => (128 * accO + x.1, y.1)
    ls := rows.filterMap fun x => x.2.1.map fun y => (128 * accO + x.1, y.2.1)
    tile := some (unitNo r.od1, rows.flatMap fun x => packCodes (fmtWidth fmt) x.2.2.1)
    fl := rows.foldl (fun a x => a ||| x.2.2.2) f0 }

/-- A row's triple. -/
def Tile.triple (v : Tile) (a i : Nat) : Triple := ⟨v.accMax a i, v.accDen a i, v.accRow a i⟩

/-- An smxm step (R225). -/
def smxmStep (v : Tile) (r : Rec) : StepOut :=
  let dst := unitNo r.od2
  let rows := tab 128 fun i => (128 * dst + i, mergeTriple (v.triple (unitNo r.od0) i) (v.triple (unitNo r.od1) i))
  { StepOut.none with
    rows := rows.map fun x => (x.1, x.2.1.o)
    ms := rows.map fun x => (x.1, x.2.1.m)
    ls := rows.map fun x => (x.1, x.2.1.l)
    fs := rows.map fun x => (x.1, 0#32)
    fl := rows.foldl (fun a x => a ||| x.2.2 ||| if x.2.1.nonFinite then fNF else f0) f0 }

/-- An smxf step (R225). -/
def smxfStep (v : Tile) (r : Rec) (run : Run) (mode : Nat) : StepOut :=
  let acc := unitNo r.od0
  let fmt := r.fmt2.toNat
  let empty := (List.range 128).filter fun i => v.accMax acc i = ninf32
  let rows := tab 128 fun i =>
    (descDisp r.od2 run.trips i,
     if v.accMax acc i = ninf32 then (zeroRow.map fun _ => (0, f0))
     else (v.accRow acc i).map fun o => quot fmt mode r.x r.sat run.seed o (v.accDen acc i))
  { StepOut.none with
    fs := empty.map fun i => (128 * acc + i, 1#32)
    emptySet := if empty.isEmpty then 0 else BitVec.ofNat 8 (2 ^ acc)
    mem := rows.flatMap fun x => unitWrites (run.base 2) x.1 (packCodes (fmtWidth fmt) (x.2.map (·.1)))
    fl := rows.foldl (fun a x => a ||| x.2.foldl (fun f y => f ||| y.2) f0) f0 }

/-- An acst step (R226). -/
def acstStep (v : Tile) (r : Rec) (run : Run) (mode : Nat) : StepOut :=
  let acc := unitNo r.od0
  let fmt := r.fmt2.toNat
  let rows := tab 128 fun i =>
    (descDisp r.od2 run.trips i, (v.accRow acc i).map fun e => conv fmt mode r.x r.sat run.seed (ofF32 e))
  { StepOut.none with
    mem := rows.flatMap fun x => unitWrites (run.base 2) x.1 (packCodes (fmtWidth fmt) (x.2.map (·.1)))
    fl := rows.foldl (fun a x => a ||| x.2.foldl (fun f y => f ||| y.2) f0) f0 }

/-- An acld step from the 128 rows' bytes as numbers (R226). -/
def acldStep (r : Rec) (rows : List Nat) : StepOut :=
  let acc := unitNo r.od2
  let w := fmtWidth r.fmt0.toNat
  { StepOut.none with
    rows := (List.zip (List.range 128) rows).map fun x =>
      (128 * acc + x.1, tab 64 fun k => (widenLane r.fmt0.toNat false 127 (bits x.2 (w * k + w - 1) (w * k))).1) }

/-- An aczr step (R226). -/
def aczrStep (r : Rec) : StepOut :=
  let acc := unitNo r.od2
  let keys := tab 128 fun i => 128 * acc + i
  { StepOut.none with
    rows := keys.map fun k => (k, zeroRow)
    ms := keys.map fun k => (k, ninf32)
    ls := keys.map fun k => (k, 0#32)
    fs := keys.map fun k => (k, 0#32)
    emptyClr := BitVec.ofNat 8 (2 ^ acc) }

/-! ## Writing a step's results -/

/-- The accumulator rows, row state and row flags of a step. -/
def Tile.applyAcc (t : Tile) (o : StepOut) : Tile :=
  let t := o.rows.foldl (fun t x => { t with acc := SMap.set zeroRow t.acc x.1 x.2 }) t
  let t := o.ms.foldl (fun t x => { t with accM := SMap.set ninf32 t.accM x.1 x.2 }) t
  let t := o.ls.foldl (fun t x => { t with accL := SMap.set 0#32 t.accL x.1 x.2 }) t
  o.fs.foldl (fun t x => { t with accF := SMap.set 0#32 t.accF x.1 x.2 }) t

/-- The accumulator words that a step replaces. -/
def StepOut.accWords (o : StepOut) : List Nat :=
  o.rows.flatMap (fun x => (List.range 64).map (accWord x.1)) ++ o.ms.map (fun x => accWord x.1 64) ++
    o.ls.map (fun x => accWord x.1 65) ++ o.fs.map (fun x => accWord x.1 66)

/-- The accumulators after a step, whose words lose their errors. -/
def Tile.stepAcc (t : Tile) (o : StepOut) : Tile :=
  if t.badAcc.isEmpty then t.applyAcc o else (t.applyAcc o).accClear o.accWords

/-- Pop the head slot of a ring (R221). -/
def Ring.pop (r : Ring) : Ring :=
  { r with head := (r.head + 1) % r.count, etag := r.etag + 1, level := r.level - 1 }

/-- Publish the tail slot of a ring (R193). -/
def Ring.publish (r : Ring) : Ring :=
  { r with
    tags := SMap.set 0#16 r.tags r.tail r.ptag
    tail := (r.tail + 1) % r.count
    ptag := r.ptag + 1
    level := r.level + 1 }

/-- The MX writes bytes at a scratchpad offset; bytes beyond the scratchpad are dropped (R175). -/
def Tile.writeSlot (t : Tile) (dcc a : Nat) (l : List W8) : Tile :=
  if a < 0x180000 then t.spWriteEng dcc a (l.take (0x180000 - a)) 0 (t.mx.csn + 1) else t

/-- The ring effects and the flags of a step. -/
def Tile.applyRings (t : Tile) (dcc tid : Nat) (o : StepOut) : Tile :=
  let t := o.pops.foldl (fun t n => t.setRing n (t.ring n).pop) t
  let t := match o.tile with
    | some (n, l) =>
      let a := (t.ring n).slotAddr (t.ring n).tail
      ((t.writeSlot dcc a l).slotOffend tid true a l.length).setRing n (t.ring n).publish
    | Option.none => t
  ({ t with empty := t.empty &&& ~~~o.emptyClr ||| o.emptySet }).raise o.fl

/-! ## Records (R219, R222, R223) -/

/-- Does the ring's slot hold the tile (R222)? -/
def ringFits (s : State) (d : BitVec 96) (n : Nat) (fmt : BitVec 5) : Bool :=
  tileBytes n fmt.toNat ≤ 256 * ((s.me.ring (unitNo d)).size)

/-- An MX record at the head of its queue starts (R98, R216, R220); its steps are the events MX_STEP_BEGIN and
MX_STEP_END. -/
def mxRecord (s : State) (i : Instr) (r : Rec) (ops : List (Nat × Nat)) (good : Nat → State → Bool) : Out :=
  .next (match s.myEng.run with
    | none => s
    | some run =>
      if s.myEng.stopped || run.instr != some i || run.started then s
      else
        let st := s.startRecord i r ops good
        if st.2 then st.1.startClock r else st.1)

/-- mma (R223). -/
def execMma (r : Rec) (s : State) : Out :=
  mxRecord s (.mma r) r [] fun _ s => ringFits s r.od0 128 r.fmt0 && ringFits s r.od1 64 r.fmt1
/-- mmai (R223). -/
def execMmai (r : Rec) (s : State) : Out :=
  mxRecord s (.mmai r) r [(3, 4)] fun _ s => ringFits s r.od0 128 r.fmt0 && ringFits s r.od1 64 r.fmt1
/-- smxu (R224). -/
def execSmxu (r : Rec) (s : State) : Out :=
  mxRecord s (.smxu r) r (if r.od3 = 0#96 then [] else [(3, 16)]) fun n s => n == 1 && ringFits s r.od1 128 r.fmt1
/-- smxm (R225). -/
def execSmxm (r : Rec) (s : State) : Out := mxRecord s (.smxm r) r [] fun n _ => n == 1
/-- smxf (R225). -/
def execSmxf (r : Rec) (s : State) : Out := mxRecord s (.smxf r) r [(2, 16)] fun n _ => n == 128
/-- acld (R226). -/
def execAcld (r : Rec) (s : State) : Out := mxRecord s (.acld r) r [(0, 16)] fun n _ => n == 128
/-- acst (R226). -/
def execAcst (r : Rec) (s : State) : Out := mxRecord s (.acst r) r [(2, 16)] fun n _ => n == 128
/-- aczr (R226). -/
def execAczr (r : Rec) (s : State) : Out := mxRecord s (.aczr r) r [] fun n _ => n == 1

/-! ## Beginning a step (R219 to R223) -/

/-- The MX stop record's own fields: stamp, and the ring with its tags or the due clk (R354). -/
def mxAux (run : Run) (ring head : Nat) (etag tagf : BitVec 16) (due : W64) : BitVec 320 :=
  BitVec.ofNat 320 (run.stamp.toNat * 2 ^ 128 + due.toNat * 2 ^ 168 + ring * 2 ^ 232 + head * 2 ^ 235 +
    etag.toNat * 2 ^ 241 + tagf.toNat * 2 ^ 257)

/-- A fault of the MX record that the focus engine executes: at the owner where it was relocated (R227). -/
def mxFault (s : State) (run : Run) (cause : Nat) (aux : BitVec 320) : State :=
  match run.peer with
  | none => engineFault s cause aux
  | some own =>
    let rel := BitVec.ofNat 320 (2 ^ 273 + s.focus.tile % 512 * 2 ^ 274)
    ((unitFault s own 4 cause 0 0 (aux ||| rel)).onEng fun e => { e with stopped := true }).onTile own fun t =>
      t.onEng 0 fun e => { e with stopped := true }

/-- A relocated record begins to write its accumulators back. -/
def Run.writeBack (r : Run) : Run := { r with phase := 2, rem := 64 }

/-- The tile whose rings, memory and clock a run of the focus MX uses. -/
def State.mxOwner (s : State) : Nat := (s.myEng.run.bind (·.peer)).getD s.focus.tile

/-- Are the operands of a step ready (R220)? -/
def mxReady (t : Tile) (i : Instr) (run : Run) : Bool :=
  match i with
  | .mma r => 1 ≤ (t.ring (unitNo r.od0)).level && 1 ≤ (t.ring (unitNo r.od1)).level
  | .mmai r => 1 ≤ (t.ring (unitNo r.od0)).level && 1 ≤ (t.ring (unitNo r.od1)).level && run.m.isSome
  | .smxu r => 1 ≤ t.ringFree (unitNo r.od1)
  | _ => true

/-- The rings whose head slots a record's step reads. (DEDUCED, log 34) -/
def readRings (i : Instr) : List Nat :=
  match i with
  | .mma r => [unitNo r.od0, unitNo r.od1]
  | .mmai r => [unitNo r.od0, unitNo r.od1]
  | _ => []

/-- Do the steps of a record of tile `own` begin in this clk: in task time, and for a relocated record, which is one
step from its copy-in to its write-back, through a drain of its owner (R227, R232, R348)? -/
def State.mxGoes (s : State) (own : Nat) (run : Run) : Bool :=
  (s.tile own).clockRuns || (run.peer.isSome && s.latencyRuns own)

/-- May the MX of the tile begin a step of its record in this clk? -/
def State.mxCanBegin (s : State) (own : Nat) (i : Instr) (run : Run) : Bool :=
  let e := s.myEng
  run.started && run.out.isNone && !run.done && !e.ended && !e.stopped && s.mxGoes own run &&
  (run.peer.isNone || run.phase == 1) &&
  (idleRun i run || mxReady (s.tile own) i run) &&
  (match e.away with
    | some a => !(run.after && ((a.instr.map fun j => shareUnits i j).getD false))
    | none => true)

/-- What the step reads and computes (R219): the operands of the owner's tile, the accumulators of its own or of the
copy. `error` is a fault of a read. -/
def mxCompute (s : State) (own : Nat) (i : Instr) (run : Run) : Except (Nat × W64) (StepOut × State) :=
  let d := s.tile own
  let v := match run.view with
    | some o => d.applyAcc o
    | none => d
  let atOwner := { s with focus := { s.focus with tile := own } }
  match i with
  | .mma r => .ok (mmaStep d v r 128, s)
  | .mmai r => .ok (mmaStep d v r (run.m.getD 0), s)
  | .smxu r =>
    if r.od3 = 0#96 then .ok (smxuStep v r run.rm run.seed [], s)
    else match atOwner.ereadUnits (run.base 3) (descOff r.od3) 64 with
      | .error c => .error (c, run.base 3)
      | .ok (w, s') => .ok (smxuStep v r run.rm run.seed (bytesOf 1024 w), { s' with focus := s.focus })
  | .smxm r => .ok (smxmStep v r, s)
  | .smxf r => .ok (smxfStep v r run run.rm, s)
  | .acst r => .ok (acstStep v r run run.rm, s)
  | .acld r =>
    let n := fmtWidth r.fmt0.toNat / 2
    match State.ereads (run.base 0) 16
        ((List.range 128).flatMap fun i => tab n fun k => descDisp r.od0 run.trips i + 16 * k) atOwner with
    | .error c => .error (c, run.base 0)
    | .ok (l, s') => .ok (acldStep r (tab 128 fun i => joinUnits ((l.drop (n * i)).take n)), { s' with focus := s.focus })
  | .aczr r => .ok (aczrStep r, s)
  | _ => .ok (StepOut.none, s)

/-- The ring slots that a step reads: address and length of each tile. -/
def readSlots (t : Tile) (i : Instr) : List (Nat × Nat) :=
  match i with
  | .mma r => slots r
  | .mmai r => slots r
  | _ => []
where
  slots (r : Rec) : List (Nat × Nat) :=
    [((t.ring (unitNo r.od0)).slotAddr (t.ring (unitNo r.od0)).head, tileBytes 128 r.fmt0.toNat),
     ((t.ring (unitNo r.od1)).slotAddr (t.ring (unitNo r.od1)).head, tileBytes 64 r.fmt1.toNat)]

/-- The accumulator rows that a step of a record reads: the sums, and m and l (R223 to R226). -/
def readRows (i : Instr) (m : Option Nat) : List Nat × List Nat :=
  let rows := fun (d : BitVec 96) n => (List.range n).map (128 * unitNo d + ·)
  match i with
  | .mma r => (rows r.od2 128, [])
  | .mmai r => (rows r.od2 (m.getD 0), [])
  | .smxu r => (rows r.od0 128 ++ rows r.od2 128, rows r.od2 128)
  | .smxm r => (rows r.od0 128 ++ rows r.od1 128, rows r.od0 128 ++ rows r.od1 128)
  | .smxf r => (rows r.od0 128, rows r.od0 128)
  | .acst r => (rows r.od0 128, [])
  | _ => ([], [])

/-- Does a step read a word of an accumulator that holds an uncorrectable error (R294)? -/
def accReadBad (t : Tile) (i : Instr) (m : Option Nat) : Bool :=
  let r := readRows i m
  t.badAcc.any fun w => if w % 67 < 64 then r.1.contains (w / 67) else w % 67 < 66 && r.2.contains (w / 67)

/-- Does a ring slot that a step reads break a region rule (R176, R217)? -/
def slotsPerm (t : Tile) (i : Instr) : Bool := (readSlots t i).any fun x => t.slotPerm false x.1 x.2

/-- Do the ring slots and accumulators that a step reads hold an uncorrectable error (R294)? -/
def slotsBad (t : Tile) (i : Instr) (m : Option Nat) : Bool :=
  accReadBad t i m || (readSlots t i).any fun x => t.spBad x.1 (slotInside x.1 x.2)

/-- Would what a step writes, the slot that an smxu publishes and the bytes of an outcome, break a region rule (R176)? -/
def writesPerm (s : State) (own : Nat) (i : Instr) (mem : List (W64 × Int × List W8)) : Bool :=
  (match i with
    | .smxu r =>
      let g := (s.tile own).ring (unitNo r.od1)
      (s.tile own).slotPerm true (g.slotAddr g.tail) (tileBytes 128 r.fmt1.toNat)
    | _ => false) ||
  mem.any fun x => State.regionBad { s with focus := { s.focus with tile := own } } (x.1, x.2.1, x.2.2.length, true)

/-- What a step raises as it begins, with what it reads and computes (R344): the region rules of all that it touches come
before an uncorrectable error of what it reads. Without such an error the region rules of its writes wait for its end. -/
def beginFault (s : State) (own : Nat) (i : Instr) (m : Option Nat) (c : Except (Nat × W64) (StepOut × State)) :
    Option Nat :=
  let t := s.tile own
  let ecc := fun mem => if writesPerm s own i mem then some cPERM else some cECC
  if slotsPerm t i then some cPERM
  else match c with
    | .error (c, _) => if c = cECC then ecc [] else some c
    | .ok (o, _) => if slotsBad t i m then ecc o.mem else none

/-- What the slot that a step publishes raises (R176, R217, R294). -/
def tileFault (t : Tile) (o : StepOut) : Option Nat :=
  match o.tile with
  | none => none
  | some (n, l) =>
    let a := (t.ring n).slotAddr (t.ring n).tail
    if t.slotPerm true a l.length then some cPERM
    else if t.spMergeBad a (slotInside a l.length) then some cECC
    else none

/-- Begin a step (R219 to R221): the tags are checked, the operands read. -/
def mxBegin (s : State) (own : Nat) (i : Instr) (run : Run) : State :=
  let t := s.tile own
  match (readRings i).find? fun n => SMap.get 0#16 (t.ring n).tags (t.ring n).head != (t.ring n).etag with
  | some n =>
    let r := t.ring n
    mxFault s run cTAG (mxAux run n r.head r.etag (SMap.get 0#16 r.tags r.head) 0)
  | none =>
    let c := mxCompute s own i run
    match beginFault s own i run.m c with
    | some c => mxFault s run c (mxAux run 0 0 0 0 0)
    | none => match c with
      | .error (c, _) => mxFault s run c (mxAux run 0 0 0 0 0)
      | .ok (o, s) =>
        let s := s.onTile own fun t => (readSlots t i).foldl (fun t x => t.slotOffend own false x.1 x.2) t
        s.onRun fun x => { x with
          out := some o
          rem := stepLen i - 1
          due := if x.stamp = 0#40 then x.due else s.tcc own + BitVec.ofNat 64 (stepLen i)
          late := false }

/-- A relocated record has finished (R208, R227). -/
def Engine.awayDone (e : Engine) : Engine :=
  match e.away with
  | none => e
  | some a =>
    match e.run with
    | some run =>
      if !run.after then { e with away := some { a with phase := 3 } }
      else if run.done then { e.advance run.single with run := none, away := none, csn := e.csn + 2 }
      else { e with away := none, csn := e.csn + 1, run := some { run with after := false } }
    | none => { e with away := none, csn := e.csn + 1 }

/-- Read the count word of an mmai that has none yet (R223): the state, and whether the record goes on. The stall limit
counts every clk from the record's start, those before the due clk of an early stamped record too.
(DESIGN CHOICE, log 153) -/
def mmaiCount (s : State) (own : Nat) (i : Instr) (run : Run) : State × Bool :=
  match i with
  | .mmai r =>
    if run.m.isSome ∨ run.prog ≠ 0 then (s, true)
    else
      match State.eread { s with focus := { s.focus with tile := own } } (run.base 3) (descOff r.od3) 4 with
      | .error c => (mxFault s run c (mxAux run 0 0 0 0 0), false)
      | .ok (w, s') =>
        let s := { s' with focus := s.focus }
        if bitAt w 31 then
          let m := bits w 7 0
          if m = 0 then
            (if run.peer.isSome then s.onRun fun x => { x.writeBack with m := some 0 }
             else s.onEng Engine.retire, false)
          else if m > 128 then (mxFault s run cILLEGAL (mxAux run 0 0 0 0 0), false)
          else (s.onRun fun x => { x with m := some m }, true)
        else if (s.tile own).stallLimit ≤ run.waited + 1 then (mxFault s run cSTALL (mxAux run 0 0 0 0 0), false)
        else (s.onRun fun x => { x with waited := x.waited + 1 }, true)
  | _ => (s, true)

/-- The next step of a record that is not early: it begins, or a record without steps has its effect; in slip mode one
late at its due clk counts once in SLIP; a relocated record whose owner drains and whose operands are not there goes
back to it (R95, R96, R220, R232). (DESIGN CHOICE, log 123) -/
def mxStepDue (s : State) (own : Nat) (i : Instr) (run : Run) : State :=
  let timed := run.stamp ≠ 0#40 ∧ (s.tile own).clockRuns
  if s.mxCanBegin own i run then
    let s := if timed ∧ run.due ≠ s.tcc own then s.noteLate own else s
    if idleRun i run then s.takeIdle i run.trips else mxBegin s own i run
  else
    let s := if timed then s.noteLate own else s
    if run.peer.isSome ∧ run.phase = 1 ∧ !(s.tile own).clockRuns ∧ !mxReady (s.tile own) i run then s.onRun Run.writeBack
    else s

/-- MX_STEP_BEGIN (R219 to R223): the MX of the focus tile begins the next step of its record, where it is due and
its operands are ready; the due clk of a stamped record counts in task time. -/
def execMxStepBegin (s : State) : Out :=
  let s := { s with focus := { s.focus with eng := 0 } }
  .next (match s.myEng.run with
    | none => s
    | some run0 =>
      match run0.instr with
      | none => s
      | some i =>
        let own := s.mxOwner
        if !run0.started ∨ run0.done ∨ run0.out.isSome ∨ s.myEng.stopped ∨ !s.mxGoes own run0 ∨
            (run0.peer.isSome ∧ 1 < run0.phase) then s
        else
          let c := if run0.peer.isSome ∧ run0.phase = 0 ∨ idleRun i run0 then (s, true) else mmaiCount s own i run0
          if !c.2 then c.1
          else match c.1.myEng.run with
            | none => c.1
            | some run =>
              let s := c.1
              let timed := run.stamp ≠ 0#40 ∧ (s.tile own).clockRuns
              let early := timed ∧ !run.late ∧ (run.due - s.tcc own).slt 0#64 = false ∧ run.due ≠ s.tcc own
              if early then s
              else if timed ∧ (run.late ∨ run.due ≠ s.tcc own) ∧ strictRun (s.tile own) run then s
              else mxStepDue s own i run)

/-- SCHED_MISS (R220): a step of a strict-timed stamped record that cannot begin at its due clk faults there. -/
def execSchedMiss (s : State) : Out :=
  let s := { s with focus := { s.focus with eng := 0 } }
  .next (match s.myEng.run with
    | none => s
    | some run =>
      match run.instr with
      | none => s
      | some i =>
        let own := s.mxOwner
        let tcc := s.tcc own
        if run.started ∧ run.stamp ≠ 0#40 ∧ run.out.isNone ∧ !run.done ∧ !s.myEng.stopped ∧
            (s.tile own).clockRuns ∧ strictRun (s.tile own) run ∧ (run.peer.isNone ∨ run.phase ≤ 1) ∧
            (run.late ∨ (tcc - run.due).toNat < 2 ^ 63 ∧ (tcc ≠ run.due ∨ !s.mxCanBegin own i run)) then
          mxFault s run cMISS (mxAux run 0 0 0 0 run.due)
        else s)

/-! ## The end of a step (R219, R221, R227) -/

/-- The accumulator rows of a relocated record as its steps leave them: later writes stand. -/
def StepOut.merge (a b : StepOut) : StepOut :=
  { a with
    rows := a.rows ++ b.rows
    ms := a.ms ++ b.ms
    ls := a.ls ++ b.ls
    fs := a.fs ++ b.fs }

/-- The accumulators of a tile that a record names, as copied in. -/
def accSnapshot (t : Tile) (accs : List Nat) : StepOut :=
  let keys := accs.flatMap fun a => tab 128 fun i => (a, i)
  { StepOut.none with
    rows := keys.map fun k => (128 * k.1 + k.2, t.accRow k.1 k.2)
    ms := keys.map fun k => (128 * k.1 + k.2, t.accMax k.1 k.2)
    ls := keys.map fun k => (128 * k.1 + k.2, t.accDen k.1 k.2)
    fs := keys.map fun k => (128 * k.1 + k.2, t.accFl k.1 k.2) }

/-- The last clk of a step of a record in its own MX. -/
def mxEndOwn (s : State) (i : Instr) (run : Run) (o : StepOut) : State :=
  let failed := fun c => mxFault (s.onRun fun x => { x with out := none, abnd := true }) run c (mxAux run 0 0 0 0 0)
  match tileFault s.me o with
  | some c => failed c
  | none => match State.ewrites o.mem s with
  | .error (c, _) => failed c
  | .ok s =>
    let s := s.onMe fun t => (t.stepAcc o).applyRings s.dcc s.focus.tile o
    if run.prog + 1 = stepCount i run.trips then s.onEng fun e => { e.retire with ended := true }
    else s.onEng fun e => { e with
      ended := true, run := e.run.map fun x => { x with out := none, prog := x.prog + 1 } }

/-- The last clk of a step of a relocated record at its sibling: the owner's rings, the copied accumulators, and the
owner's view of its progress. -/
def mxEndAway (s : State) (own : Nat) (i : Instr) (run : Run) (o : StepOut) : State :=
  match tileFault (s.tile own) o with
  | some c =>
    let lost := fun (x : Run) => { x with out := none, abnd := true }
    let s := (s.onRun lost).onTile own fun t => { t with mx := { t.mx with away := t.mx.away.map lost } }
    mxFault s run c (mxAux run 0 0 0 0 0)
  | none =>
    let s := s.onTile own fun t =>
      let t := (t.accClear o.accWords).applyRings s.dcc own o
      { t with mx := { t.mx with away := t.mx.away.map fun (a : Run) => { a with prog := run.prog + 1, out := none } } }
    s.onEng fun e => { e with
      ended := true
      run := e.run.map fun x =>
        let x := { x with out := none, prog := x.prog + 1, view := some ((x.view.getD StepOut.none).merge o) }
        if run.prog + 1 = stepCount i run.trips then x.writeBack else x }

/-- Has a relocated record done its last step? -/
def Run.finished (r : Run) : Bool := r.m == some 0 || (r.instr.map fun i => r.prog == stepCount i r.trips) == some true

/-- A relocated record returns to its owner with its accumulators: finished, or handed back unfinished (R227, R232). -/
def Tile.takeBack (t : Tile) (run : Run) : Tile :=
  let t := t.applyAcc (run.view.getD StepOut.none)
  if run.finished then t.onEng 0 Engine.awayDone
  else { t with mx := { t.mx with away := t.mx.away.map fun _ => { run with phase := 4, peer := none, view := none } } }

/-- MX_STEP_END (R208, R219, R221, R227): the step of the focus MX whose last clk has come writes its results; the
last step retires the record. -/
def execMxStepEnd (s : State) : Out :=
  let s := { s with focus := { s.focus with eng := 0 } }
  .next (match s.myEng.run with
    | none => s
    | some run =>
      match run.instr with
      | none => s
      | some i =>
        let own := s.mxOwner
        if run.rem ≠ 0 ∨ !s.latencyRuns own then s
        else match run.out, run.peer with
          | some o, none => mxEndOwn s i run o
          | some o, some own => mxEndAway s own i run o
          | none, some own =>
            if run.phase = 0 then s.onRun fun x => { x with phase := 1 }
            else if run.phase = 2 then
              (s.onEng fun e => { e with run := none, ended := true }).onTile own fun t => t.takeBack run
            else s
          | none, none => s)

/-! ## Relocation (R227, R334) -/

/-- The first record of the postings that wait, with the chain at `at_`: its address, its posting, the postings left,
and the chain entry it opens. A chain entry that ends where the chain stands holds no record (R207). -/
def firstPosted (at_ : W64) : List Posted → Option (W64 × Posted × List Posted × Bool)
  | [] => none
  | p :: rest =>
    if p.delay ≠ 0 then none
    else match p.what with
      | .single a => some (a, p, rest, false)
      | .chain t => if at_ = t then firstPosted at_ rest else some (at_, p, rest, true)
      | .fsend _ _ _ _ _ => none

/-- Does a record send the chain elsewhere when its clk comes (R207)? -/
def Run.isLink (r : Run) : Bool :=
  match r.instr with
  | some (.linkRecord _) => true
  | _ => false

/-- The record that follows in the owner's posting order: its address, its posting, and the engine with it taken. Where
the record in progress is the last of its chain entry, it is the first of the next posting (R227). While a link waits for
its due clk no record is executed, and none is taken. -/
def nextRecord (e : Engine) : Option (W64 × Posted × Engine) :=
  match e.run.filter fun r => !r.isLink with
  | none => none
  | some run =>
    let at_ := if run.single then e.nxt else e.nxt + 64#64
    let inChain := match e.chain.map (·.what) with
      | some (.chain t) => at_ != t
      | _ => false
    match inChain, e.chain with
    | true, some p => some (at_, p, { e with nxt := e.nxt + 64#64 })
    | _, _ => (firstPosted at_ e.pq).map fun x =>
      (x.1, x.2.1, { e with
        pq := x.2.2.1
        chain := if x.2.2.2 then some x.2.1 else e.chain
        nxt := if x.2.2.2 then e.nxt + 64#64 else e.nxt })

/-- Take up again a record that a sibling handed back (R232): where the MX has no record, in place of a finished one
that waits for it, or of one that waits for its accumulators and rings. -/
def Engine.recall (e : Engine) : Engine :=
  match e.away with
  | none => e
  | some a =>
    if a.phase ≠ 4 then e
    else
      let own := { a with phase := 0, after := false }
      match e.run with
      | none => { e with run := some own, away := none }
      | some r =>
        if r.done then { e.advance r.single with run := some own, away := some { r with phase := 3 } }
        else if r.after && r.out.isNone && r.prog == 0 &&
            ((r.instr.bind fun i => a.instr.map fun j => shareUnits i j).getD false) then
          { e with
            run := some own, away := none
            pq := if r.single then ⟨.single r.addr, r.rm, r.seed, 0⟩ :: e.pq else e.pq }
        else e

/-- MX_RELOCATE (R227, R334): the MX of the focus tile, idle and with no record of its own away, takes the next record of
the MX of tile `focus.idx`, which executes a record of its own. -/
def execMxRelocate (s : State) : Out :=
  .next (
    let own := s.focus.idx
    let sib := s.focus.tile
    let t := s.tile own
    let b := s.me
    let idle := b.mx.run.isNone && b.mx.chain.isNone && b.mx.pq.isEmpty && b.mx.away.isNone && !b.mx.stopped
    let kin := own != sib && clusterOf own == clusterOf sib &&
      (match t.res, b.res with
        | some x, some y => x.part == y.part && x.lid == y.lid && x.rl && y.rl
        | _, _ => false)
    if !idle || !kin || t.mx.away.isSome || (t.mx.run.bind (·.peer)).isSome || t.mx.stopped || !t.clockRuns || !b.clockRuns then s
    else match nextRecord t.mx, t.mx.run.bind (·.instr) with
      | some (addr, p, e), some cur =>
        (match State.eread { s with focus := { s.focus with tile := own, eng := 0 } } addr 0 64 with
          | .error _ => s
          | .ok (w, _) =>
            match decodeRecord w with
            | none => s
            | some i =>
              match recFields i with
              | none => s
              | some r =>
                if !r.rl || !i.wellFormed || recEngine i != some 0 || shareUnits i cur then s
                else
                  -- the owner resolves the record as its own before it hands it over
                  let probe := ({ s with focus := { s.focus with tile := own, eng := 0 } } : State).onMe fun t =>
                    { t with mx := { t.mx with run := some (Run.fresh (some i) none addr true p.rm p.seed) } }
                  match exec1 probe i r with
                  | none => s
                  | some run =>
                    let run := { run with peer := some own, phase := 0, rem := 64
                                          view := some (accSnapshot t (namedUnits i).1) }
                    let s := s.onTile own fun t =>
                      { (if run.slipped then t.slipOnce else t) with mx := { e with away := some { run with peer := some sib } } }
                    s.onMe fun b => { b with mx := { b.mx with run := some run } })
      | _, _ => s)
where
  /-- the resolved record, if it passes every check of its start -/
  exec1 (s : State) (i : Instr) (r : Rec) : Option Run :=
    let out := match i with
      | .mma _ => execMma r s
      | .mmai _ => execMmai r s
      | .smxu _ => execSmxu r s
      | .smxm _ => execSmxm r s
      | _ => .next s
    match out with
    | .next s => s.myEng.run.bind fun run => if run.started && !idleRun i run then some run else none
    | _ => none

end Sys2Proof.Machine
end

