-- ==== Sys2Proof/Machine/Copy.lean ====
section
/-! DEFINITION. The quantisation engine, the copy engine and the flow injector (07_engine_strand.md R213, R228 to
R231). -/

namespace Sys2Proof.Machine

/-! ## Quantisation (R61, R228) -/

/-- Split a number into `n` codes of `w` bits. -/
def splitCodes (w : Nat) : Nat → Nat → List Nat
  | 0, _ => []
  | n + 1, v => v % 2 ^ w :: splitCodes w n (v / 2 ^ w)

/-- The codes of `g` consecutive elements of a format at a displacement. -/
def readGroup (s : State) (p : W64) (d : Int) (g fmt : Nat) : Except Nat (List Nat × State) :=
  let w := fmtWidth fmt
  if w = 4 then
    match s.eread p d (g / 2) with
    | .error c => .error c
    | .ok (v, s) => .ok (splitCodes 4 g v, s)
  else State.ereads p (w / 8) (tab g fun e => d + (e * (w / 8) : Nat)) s

/-- The writes of consecutive codes of a format. -/
def groupWrites (p : W64) (d : Int) (fmt : Nat) (codes : List Nat) : List (W64 × Int × List W8) :=
  let w := fmtWidth fmt
  if w = 4 then [(p, d, packCodes 4 codes)]
  else (List.zip (List.range codes.length) codes).map fun x => (p, d + (x.1 * (w / 8) : Nat), bytesOf (w / 8) x.2)

/-- |a| > |b| for finite values. -/
def magLess (a b : Num) : Bool :=
  match a, b with
  | .fin _ m e _, .fin _ m' e' _ => magGt m' e' false m e
  | _, _ => false

/-- The largest magnitude of finite values. -/
def amaxOf (l : List Num) : Num := l.foldl (fun a b => if magLess a b then b else a) (.zero false)

/-- The scale exponent of a block (R61): FLOOR or FIT. -/
def scaleExp (fit : Bool) (fmt : Nat) (amax : Num) : Int :=
  match amax with
  | .fin _ m e _ =>
    if m = 0 then -127
    else
      let lead : Int := e + (bitLen m : Nat) - 1
      let x : Int :=
        if fit then
          let top := if fmt = 7 then 7 else 6
          if magGt m e false top (lead - 2) then lead - 1 else lead - 2
        else lead - 2
      max (-127) (min 127 x)
  | _ => 128

/-- The scale code of a block (R61). -/
def blockScale (fit : Bool) (fmt : Nat) (l : List Num) : Nat :=
  if l.any fun v => !v.isFinite then 0xFF else (scaleExp fit fmt (amaxOf l) + 127).toNat

/-- Codes and flags of a list of conversions. -/
def codesOf (l : List (Nat × Flags)) : List Nat × Flags := (l.map (·.1), l.foldl (fun a x => a ||| x.2) f0)

/-- What a QZ record makes of one group: the writes and the flags, or the cause of a fault. -/
def qzGroup (s : State) (i : Instr) (r : Rec) (run : Run) : Except Nat (List (W64 × Int × List W8) × Flags × State) :=
  let n := run.prog
  let d0 := descDisp r.od0 run.trips n
  let d1 := descDisp r.od1 run.trips n
  let f0c := r.fmt0.toNat
  let f1c := r.fmt1.toNat
  match i with
  | .qscl _ =>
    match readGroup s (run.base 0) d0 32 f0c with
    | .error c => .error c
    | .ok (l, s) =>
      let vals := l.map (widenVal f0c false 127)
      let sc := blockScale r.opx f1c vals
      let out := codesOf (vals.map fun v => convBlock f1c run.rm run.seed sc v)
      let out := if sc = 0xFF then (out.1.map fun _ => 0, fIV) else out
      .ok (groupWrites (run.base 1) d1 f1c out.1 ++ [(run.base 2, ((descOff r.od2 + n : Nat) : Int), bytesOf 1 sc)], out.2, s)
  | .qpak _ =>
    match readGroup s (run.base 0) d0 32 f0c with
    | .error c => .error c
    | .ok (l, s) =>
      match s.eread (run.base 3) (descOff r.od3 + n : Nat) 1 with
      | .error c => .error c
      | .ok (sc, s) =>
        let out := codesOf (l.map fun c => convBlock f1c run.rm run.seed sc (widenVal f0c false 127 c))
        .ok (groupWrites (run.base 1) d1 f1c out.1, out.2, s)
  | .qdeq _ =>
    match readGroup s (run.base 0) d0 32 f0c with
    | .error c => .error c
    | .ok (l, s) =>
      match s.eread (run.base 3) (descOff r.od3 + n : Nat) 1 with
      | .error c => .error c
      | .ok (sc, s) =>
        let out := codesOf (l.map fun c =>
          let w := widenLane f0c false sc c
          let o := conv f1c run.rm false false run.seed (ofF32 w.1)
          (o.1, w.2 ||| o.2))
        .ok (groupWrites (run.base 1) d1 f1c out.1, out.2, s)
  | .qcvt _ =>
    match readGroup s (run.base 0) d0 64 f0c with
    | .error c => .error c
    | .ok (l, s) =>
      let out := codesOf (l.map fun c => conv f1c run.rm r.x r.sat run.seed (widenVal f0c r.x 127 c))
      .ok (groupWrites (run.base 1) d1 f1c out.1, out.2, s)
  | _ =>
    match readGroup s (run.base 0) d0 64 f0c with
    | .error c => .error c
    | .ok (l, s) =>
      let m := l.foldl (fun a c => fmax a ((widenLane f0c false 127 c).1 &&& 0x7FFFFFFF#32)) 0#32
      .ok ([(run.base 1, ((descOff r.od1 + 4 * n : Nat) : Int), bytesOf 4 m.toNat)], f0, s)

/-- The accesses of one group of a QZ record: element by element for data, a byte for a scale, four for an amax. -/
def qzAccesses (i : Instr) (r : Rec) (run : Run) : List EAcc :=
  let n := run.prog
  let data := fun (k : Nat) (d : BitVec 96) (g fmt : Nat) (wr : Bool) =>
    let at_ := descDisp d run.trips n
    let w := fmtWidth fmt
    if w = 4 then [(run.base k, at_, g / 2, wr)]
    else tab g fun e => (run.base k, at_ + (e * (w / 8) : Nat), w / 8, wr)
  let scale := fun (k : Nat) (d : BitVec 96) (wr : Bool) => (run.base k, ((descOff d + n : Nat) : Int), 1, wr)
  match i with
  | .qscl _ => data 0 r.od0 32 r.fmt0.toNat false ++ data 1 r.od1 32 r.fmt1.toNat true ++ [scale 2 r.od2 true]
  | .qpak _ => data 0 r.od0 32 r.fmt0.toNat false ++ data 1 r.od1 32 r.fmt1.toNat true ++ [scale 3 r.od3 false]
  | .qdeq _ => data 0 r.od0 32 r.fmt0.toNat false ++ data 1 r.od1 32 r.fmt1.toNat true ++ [scale 3 r.od3 false]
  | .qcvt _ => data 0 r.od0 64 r.fmt0.toNat false ++ data 1 r.od1 64 r.fmt1.toNat true
  | _ => data 0 r.od0 64 r.fmt0.toNat false ++ [(run.base 1, ((descOff r.od1 + 4 * n : Nat) : Int), 4, true)]

/-- One group of a QZ record is performed (R228); the last retires it. The region rule of any of its accesses comes
before an uncorrectable error (R344). -/
def qzUnit (i : Instr) (r : Rec) (s : State) (run : Run) : State :=
  match (qzAccesses i r run).find? s.regionBad with
  | some x => engineFaultAt s cPERM (elemPtr x.1 x.2.1)
  | none => match qzGroup s i r run with
  | .error c => engineFaultAt s c (elemPtr (run.base 0) (descDisp r.od0 run.trips run.prog))
  | .ok (ws, fl, s') =>
    match State.ewrites ws s' with
    | .error (c, p) => engineFaultAt s c p
    | .ok s =>
      let s := s.onMe fun t => t.raise fl
      if run.prog + 1 = points run.trips then s.retireRecord else s.onRun fun x => { x with prog := x.prog + 1 }

/-- qscl (R61, R228). -/
def execQscl (r : Rec) (s : State) : Out :=
  recordOp s (.qscl r) r [(0, 16), (1, 16), (2, 1)] anyTrips (qzUnit (.qscl r) r)
/-- qpak (R228). -/
def execQpak (r : Rec) (s : State) : Out :=
  recordOp s (.qpak r) r [(0, 16), (1, 16), (3, 1)] anyTrips (qzUnit (.qpak r) r)
/-- qdeq (R228). -/
def execQdeq (r : Rec) (s : State) : Out :=
  recordOp s (.qdeq r) r [(0, 16), (1, 16), (3, 1)] anyTrips (qzUnit (.qdeq r) r)
/-- qcvt (R228). -/
def execQcvt (r : Rec) (s : State) : Out :=
  recordOp s (.qcvt r) r [(0, 16), (1, 16)] anyTrips (qzUnit (.qcvt r) r)
/-- qamx (R228). -/
def execQamx (r : Rec) (s : State) : Out :=
  recordOp s (.qamx r) r [(0, 16), (1, 4)] anyTrips (qzUnit (.qamx r) r)

/-! ## Copies (R229, R230) -/

/-- Why a beat of the CP does not go on: a walk to wait for, an unresolved one, or a fault. -/
inductive CpStop where
  | wait
  | stuck (ptr : W64) (write : Bool)
  | fault (cause : Nat) (ptr : W64)
  deriving DecidableEq, Repr

/-- Is the task of the focus tile secure, and which partition is it of? -/
def State.mySecure (s : State) : Bool := s.me.world
def State.myPart (s : State) : Nat := s.me.partition

/-- One read of the CP, in any of its windows (R217, R281). -/
def cpRead (s : State) (p : W64) (d : Int) (n : Nat) : Except CpStop (List W8) × State :=
  match s.eplace s.focus.tile p d n with
  | .global va =>
    match s.gplace s.myPart s.focus.tile s.mySecure va n true false with
    | (.at t a, s) => (.ok (s.preadBytes t a n), s)
    | (.wait, s) => (.error .wait, s)
    | (.unresolved, s) => (.error (.stuck (elemPtr p d) false), s)
    | (.fault c, s) => (.error (.fault c (elemPtr p d)), s)
  | _ =>
    match s.eread p d n with
    | .ok (v, s) => (.ok (bytesOf n v), s)
    | .error c => (.error (.fault c (elemPtr p d)), s)

/-- Reads in order; `none` stands for a unit of zeros. -/
def cpReads (n : Nat) : List (Option (W64 × Int)) → State → Except CpStop (List (List W8)) × State
  | [], s => (.ok [], s)
  | none :: rest, s =>
    match cpReads n rest s with
    | (.ok l, s) => (.ok (List.replicate n 0#8 :: l), s)
    | (.error e, s) => (.error e, s)
  | some (p, d) :: rest, s =>
    match cpRead s p d n with
    | (.error e, s) => (.error e, s)
    | (.ok v, s) =>
      match cpReads n rest s with
      | (.ok l, s) => (.ok (v :: l), s)
      | (.error e, s) => (.error e, s)

/-- The accesses of one beat in global memory, with their addresses. -/
def State.globalOf (s : State) (l : List EAcc) : List (EAcc × Nat) :=
  l.filterMap fun x => match s.eplace s.focus.tile x.1 x.2.1 x.2.2.1 with
    | .global va => some (x, va)
    | _ => none

/-- What the accesses of one beat meet together, in the order of R344: an address outside its window, a region rule, the
translation checks and unresolved walks of global memory, an uncorrectable error. -/
def cpCheck (l : List EAcc) (s : State) : Option CpStop × State :=
  let out := fun (x : EAcc) => s.eplace s.focus.tile x.1 x.2.1 x.2.2.1 == .bad
  match l.find? out, l.find? s.regionBad with
  | some x, _ => (some (.fault cWINDOW (elemPtr x.1 x.2.1)), s)
  | none, some x => (some (.fault cPERM (elemPtr x.1 x.2.1)), s)
  | none, none =>
    let gl := s.globalOf l
    match State.gplaces s.myPart s.focus.tile s.mySecure (gl.map fun x => (x.2, x.1.2.2.1, !x.1.2.2.2, x.1.2.2.2)) s with
    | (.error (i, g), s') =>
      let x := (gl.getD i ((0, 0, 0, false), 0)).1
      (some (match g with
        | .fault c => .fault c (elemPtr x.1 x.2.1)
        | .unresolved => .stuck (elemPtr x.1 x.2.1) x.2.2.2
        | _ => .wait), s')
    | (.ok _, s') =>
      match l.find? s.errorBad with
      | some x => (some (.fault cECC (elemPtr x.1 x.2.1)), s')
      | none => (none, s')

/-- One write of the CP; in a deterministic fold a global write goes to the fold log (R289). -/
def cpWrite (s : State) (p : W64) (d : Int) (l : List W8) : Except Nat State :=
  match s.eplace s.focus.tile p d l.length with
  | .global va =>
    match s.gplace s.myPart s.focus.tile s.mySecure va l.length false true with
    | (.at t a, s) =>
      if s.me.modeDet then
        .ok (s.logWords s.myPart (s.foldOf s.myPart s.me.launchid.toNat) va t a s.me.taskid (wordsOf l))
      else .ok (s.pwriteBytes t a l)
    | (.fault c, _) => .error c
    | _ => .error cXLATE
  | _ => s.ewrite p d l

/-- Writes in order: those before one that faults stay written. -/
def cpWrites : List (W64 × Int × List W8) → State → Option (Nat × W64) × State
  | [], s => (none, s)
  | (p, d, l) :: rest, s =>
    match cpWrite s p d l with
    | .error c => (some (c, elemPtr p d), s)
    | .ok s => cpWrites rest s

/-- The index number m of loop point `n` (R229). -/
def rowIndex (trips : List Nat) (n : Nat) : Nat := n / trips.getD 0 1

/-- The displacement of an indexed unit (R229). -/
def indexedDisp (d : BitVec 96) (i0 idx : Nat) : Int := descOff d + 16 * (descStep d 0 * i0 + descStep d 1 * idx)

/-- The loop points of the beat in progress. -/
def beatPoints (run : Run) : List Nat :=
  (List.range 16).filterMap fun k => if 16 * run.prog + k < points run.trips then some (16 * run.prog + k) else none

/-- An index that skips its row. -/
def skipIdx : Nat := 0xFFFFFFFF

/-- The source of a unit. -/
def cpSource (i : Instr) (r : Rec) (run : Run) (n idx : Nat) : Option (W64 × Int) :=
  match i with
  | .gath _ =>
    if idx = skipIdx then none else some (run.base 0, indexedDisp r.od0 (n % run.trips.getD 0 1) idx)
  | .fill _ => none
  | _ => some (run.base 0, descDisp r.od0 run.trips n)

/-- The destination of a unit. -/
def cpDest (i : Instr) (r : Rec) (run : Run) (n idx : Nat) : Option (W64 × Int) :=
  match i with
  | .scat _ =>
    if idx = skipIdx then none else some (run.base 1, indexedDisp r.od1 (n % run.trips.getD 0 1) idx)
  | _ => some (run.base 1, descDisp r.od1 run.trips n)

/-- A beat stops: it waits, asks for a service, or faults. -/
def cpStopped (s : State) (e : CpStop) : State :=
  match e with
  | .wait => s
  | .stuck p w => s.onRun fun x => { x with stuck := some (p, w) }
  | .fault c p => engineFaultAt s c p

/-- Reads of `n` bytes at places checked together (R344); `none` stands for a unit of zeros. -/
def cpFetch (n : Nat) (l : List (Option (W64 × Int))) (also : List EAcc) (s : State) :
    Except CpStop (List (List W8)) × State :=
  match cpCheck (l.filterMap (fun o => o.map fun x => (x.1, x.2, n, false)) ++ also) s with
  | (some e, s) => (.error e, s)
  | (none, s) => cpReads n l s

/-- The loads of a beat (R229): the writes it will make, its source units all read, or why it stops. The accesses of the
index list are judged first, then those of its units together. -/
def cpLoad (i : Instr) (r : Rec) (s : State) (run : Run) : Except CpStop (List (W64 × Int × List W8)) × State :=
  let pts := beatPoints run
  let indexed := match i with
    | .gath _ => true
    | .scat _ => true
    | _ => false
  let idxReads := if indexed then
      pts.map fun n => some (run.base 2, ((descOff r.od2 + 4 * rowIndex run.trips n : Nat) : Int)) else []
  match cpFetch 4 idxReads [] s with
  | (.error e, s) => (.error e, s)
  | (.ok ixs, s) =>
    let idx := fun (k : Nat) => natOfBytes (ixs.getD k [])
    let units := List.zip (List.range pts.length) pts
    let dests := units.filterMap fun u => (cpDest i r run u.2 (idx u.1)).map fun x => (u.1, x)
    match cpFetch 16 (units.map fun u => cpSource i r run u.2 (idx u.1))
        (dests.map fun x => (x.2.1, x.2.2, 16, true)) s with
    | (.error e, s) => (.error e, s)
    | (.ok data, s) =>
      let pattern := (List.replicate 4 (bytesOf 4 (r.od0.toNat % 2 ^ 32))).flatten
      (.ok (dests.map fun x => (x.2.1, x.2.2, match i with
        | .fill _ => pattern
        | _ => data.getD x.1 [])), s)

/-- One beat of a CP record (R229): its source units are all read before a destination unit is written. A beat that
meets a fault writes nothing; the beats before it stay. (DEDUCED, log 33) -/
def cpBeat (i : Instr) (r : Rec) (s : State) (run : Run) : State :=
  if run.stuck.isSome then s
  else match cpLoad i r s run with
    | (.error e, s) => cpStopped s e
    | (.ok ws, s) => match cpWrites ws s with
      | (some (c, p), s) => engineFaultAt s c p
      | (none, s) =>
        if 16 * (run.prog + 1) ≥ points run.trips then s.retireRecord
        else s.onRun fun x => { x with prog := x.prog + 1 }

/-- A beat of the focus engine that is in progress as a halt arrives writes `n` of its units and is abandoned (R348). -/
def cpBeatCut (i : Instr) (r : Rec) (n : Nat) (s : State) (run : Run) : State :=
  match cpLoad i r s run with
  | (.error _, _) => s
  | (.ok ws, s') =>
    if ws.length ≤ n then cpBeat i r s run
    else (cpWrites (ws.take n) s').2.onRun fun x => { x with abnd := true }

/-- Where a halt arrives at a tile, a beat of its CP may be in progress, with any number of its units written by the end
of the skid (R348). (DESIGN CHOICE, log 126) -/
def State.cutBeat (s : State) (tid : Nat) : State :=
  let t := s.tile tid
  match t.cp.run, t.cp.run.bind (·.instr), (t.cp.run.bind (·.instr)).bind recFields with
  | some run, some i, some r =>
    if !run.started || run.stuck.isSome || t.cp.stopped || t.drain.isSome || t.halted || !t.live then s
    else
      let (b, s) := s.freeBit
      let (n, s) := s.freeNat
      if b then
        { cpBeatCut i r (n % 17) { s with focus := { Focus.reset with tile := tid, eng := 2 } } run with focus := s.focus }
      else s
  | _, _, _ => s

/-- copy (R229). -/
def execCopy (r : Rec) (s : State) : Out := recordOp s (.copy r) r [(0, 16), (1, 16)] anyTrips (cpBeat (.copy r) r)
/-- gath (R229). -/
def execGath (r : Rec) (s : State) : Out :=
  recordOp s (.gath r) r [(0, 16), (1, 16), (2, 4)] anyTrips (cpBeat (.gath r) r)
/-- scat (R229). -/
def execScat (r : Rec) (s : State) : Out :=
  recordOp s (.scat r) r [(0, 16), (1, 16), (2, 4)] anyTrips (cpBeat (.scat r) r)
/-- fill (R229). -/
def execFill (r : Rec) (s : State) : Out := recordOp s (.fill r) r [(1, 16)] anyTrips (cpBeat (.fill r) r)

/-! ## Packets and the flow injector (R213, R231, R236, R237) -/

/-- The package's number in the pod (R381). -/
def State.pkg (s : State) : Nat := bits s.podcfg.toNat 47 38

/-- The virtual channel of a packet (R235): its partition's, or the drove channel. -/
def Packet.channel (p : Packet) : Nat := if p.o then 8 else p.part % 8

/-- The input channel of a router. -/
def Router.inputs (r : Router) (port ch : Nat) : List Packet := (SMap.find r.inq (16 * port + ch)).getD []
def Router.setInputs (r : Router) (port ch : Nat) (l : List Packet) : Router :=
  { r with inq := SMap.put r.inq (16 * port + ch) l }

/-- Is the drove class enabled (R389)? -/
def State.droveOn (s : State) : Bool := bitAt s.drovecfg.toNat 63

/-- Is a stamp outside PTC ± 2^46 (R391)? -/
def State.outOfRange (s : State) (a : BitVec 48) : Bool :=
  let d := (a - s.ptc.setWidth 48).toNat
  2 ^ 46 < d && d < 2 ^ 48 - 2 ^ 46

/-- The input channel that a packet takes as it arrives at a port: a drove packet that comes on no drove input (R388,
R389), and one whose stamp is out of range (R391), each take one of their own. -/
def State.arrivalChannel (s : State) (router port : Nat) (p : Packet) : Nat :=
  if !p.o then p.channel
  else if !s.droveOn || (port != 0 && !(s.router router).droveIn.contains port) then 9
  else if s.outOfRange p.stamp then 10
  else 8

/-- A packet enters a router at a port (DESIGN CHOICE, log 111), whose buffer has room for any number (DESIGN CHOICE,
log 139). -/
def State.putPacket (s : State) (router port : Nat) (p : Packet) : State :=
  let ch := s.arrivalChannel router port p
  s.onRouter router fun r => r.setInputs port ch (r.inputs port ch ++ [p])

/-- A packet that the FI of the focus tile sends: PIDX, OFS, payload and marks (R236, R237). -/
def State.fiPacket (s : State) (fid : Nat) (o : Bool) (n ofs : Nat) (data : List W8) (sig drp : Bool) : Packet where
  rsv := 0
  stamp := if o then s.ptc.setWidth 48 else 0
  sseq := s.me.sseq
  stid := BitVec.ofNat 9 s.focus.tile
  spkg := BitVec.ofNat 10 s.pkg
  ofs := BitVec.ofNat 24 ofs
  pidx := BitVec.ofNat 16 n
  hops := 0
  len := data.length
  pl := (data.length + 63) / 64
  nf := false
  drp := drp
  sig := sig
  o := o
  part := s.myPart
  fid := BitVec.ofNat 20 fid
  data := data

/-- Inject a packet at port 0 of the tile's router. -/
def State.inject (s : State) (p : Packet) : State :=
  (s.putPacket s.focus.tile 0 p).onMe fun t => { t with sseq := t.sseq + 1 }

/-- The last packet of a send has left (R213, R231): the counter and the CSN advance. -/
def State.sendDone (s : State) (fc : Nat) : State :=
  (s.onMe fun t => t.setFc fc (t.fcReg fc + 1)).retireRecord

/-- One packet of an FI record (R231). -/
def fiUnit (i : Instr) (r : Rec) (s : State) (run : Run) : State :=
  let n := run.prog
  let fid := flowFid r.od1
  let o := flowO r.od1
  let pl := flowPl r.od1
  let next := fun (s : State) =>
    if n + 1 = points run.trips then s.sendDone (flowFc r.od1) else s.onRun fun x => { x with prog := x.prog + 1 }
  if o && !s.droveOn then engineFaultAt s cFLOW (elemPtr (run.base 0) (descDisp r.od0 run.trips n))
  else match i with
    | .fsnd _ =>
      (match s.ereadUnits (run.base 0) (descDisp r.od0 run.trips n) (4 * pl) with
        | .error c => engineFaultAt s c (elemPtr (run.base 0) (descDisp r.od0 run.trips n))
        | .ok (w, s) => next (s.inject (s.fiPacket fid o n (64 * pl * n) (bytesOf (64 * pl) w) false false)))
    | .fsig _ => next (s.inject (s.fiPacket fid o n 0 [] true false))
    | _ => next (s.inject (s.fiPacket fid o n (256 * n) [] false true))

/-- fsnd (R231). -/
def execFsnd (r : Rec) (s : State) : Out := recordOp s (.fsnd r) r [(0, 16)] anyTrips (fiUnit (.fsnd r) r)
/-- fsig (R231). -/
def execFsig (r : Rec) (s : State) : Out := recordOp s (.fsig r) r [] anyTrips (fiUnit (.fsig r) r)
/-- fdrp (R231, R262). -/
def execFdrp (r : Rec) (s : State) : Out := recordOp s (.fdrp r) r [] anyTrips (fiUnit (.fdrp r) r)

/-- FI_SEND_ENTRY (R213): the FI checks and sends the next packet of an fsend posting. -/
def execFiSendEntry (s : State) : Out :=
  let s := { s with focus := { s.focus with eng := 3 } }
  .next (match s.myEng.run with
    | none => s
    | some run =>
      if s.myEng.stopped then s
      else match run.send with
        | some (.fsend fid src len fc o) =>
          let n := len.toNat
          if n % 4 ≠ 0 ∨ n > 2 ^ 24 then engineFaultAt s cILLEGAL src
          else if n = 0 then s.sendDone fc
          else match ptrFault s.focus.tile (engineReach 3) src 0 16 with
            | some c => engineFaultAt s c src
            | none =>
              let i := run.prog
              let bytes := min 256 (n - 256 * i)
              if o && !s.droveOn then engineFaultAt s cFLOW (elemPtr src (256 * i))
              else match s.ereadUnits src (256 * i) ((bytes + 15) / 16) with
                | .error c => engineFaultAt s c (elemPtr src (256 * i))
                | .ok (w, s) =>
                  let s := s.inject (s.fiPacket fid o i (256 * i) (bytesOf bytes w) false false)
                  if 256 * (i + 1) ≥ n then s.sendDone fc else s.onRun fun x => { x with prog := x.prog + 1 }
        | _ => s)

end Sys2Proof.Machine
end

