-- ==== Sys2Proof/Machine/Trace.lean ====
section
/-! DEFINITION. Trace rings, trace events and the events posted to the host's rings (17_system.md R433 to R435, R134). -/

namespace Sys2Proof.Machine

/-- The ring register of a partition and die, the index register of them (R433). -/
def Partition.ringReg (x : Partition) (die : Nat) : W64 := SMap.get 0 x.trcring die
def Partition.idxReg (x : Partition) (die : Nat) : W64 := SMap.get 0 x.trcidx die

/-- Records that a partition's ring holds. -/
def ringRecords (reg : W64) : Nat := 1024 * (bits reg.toNat 9 0 + 1)

/-- Records that a die's system ring holds: what the partition rings leave of 64 MiB. -/
def State.sysRecords (s : State) (die : Nat) : Nat :=
  2 ^ 20 - (List.range 8).foldl (fun n p =>
    let r := (s.part p).ringReg die
    n + if bitAt r.toNat 63 then ringRecords r else 0) 0

/-- A trace event before its place in a ring is known. -/
structure TraceEvent where
  part : Nat
  kind : Nat
  code : Nat
  value : W64
  ks : W64
  tid : Nat
  task : W32
  tcc : W64
  deriving DecidableEq, Repr

/-- The eight words of a record (R434). -/
def State.traceWords (s : State) (e : TraceEvent) (seq : Nat) : List W64 :=
  [BitVec.ofNat 64 (seq % 2 ^ 32 + e.code % 2 ^ 24 * 2 ^ 32 + e.kind % 16 * 2 ^ 56 + e.part % 8 * 2 ^ 60 + 2 ^ 63),
   e.value, s.ptc, BitVec.ofNat 64 s.dcc, e.tcc, s.trcClock,
   BitVec.ofNat 64 (e.task.toNat + e.tid % 512 * 2 ^ 32 + b2n s.trcValid * 2 ^ 63), e.ks]

/-- The records of a ring, oldest first, by its instance (R426): 2 × partition + die, or 16 + die. -/
def State.ringList (s : State) (inst : Nat) : List (List W64) := (SMap.find s.trace inst).getD []

/-- Append a record to a ring of `n` records: the oldest is overwritten. -/
def State.pushRecord (s : State) (inst n : Nat) (w : List W64) : State :=
  let l := s.ringList inst ++ [w]
  { s with trace := SMap.put s.trace inst (l.drop (l.length - n)) }

/-- An event entry (R434). -/
def State.eventEntry (s : State) (e : TraceEvent) : List W64 :=
  [BitVec.ofNat 64 (e.kind % 16 + e.part % 8 * 16 + e.code % 2 ^ 24 * 2 ^ 8 + bits e.value.toNat 31 0 * 2 ^ 32), s.ptc]

/-- Post an event to the rings of a partition's two queues. (DEDUCED, log 90) -/
def State.postEvent (s : State) (e : TraceEvent) : State :=
  let w := s.eventEntry e
  let add := fun (q : HostQueue) => { q with events := q.events ++ [w] }
  (s.onQueue e.part add).onQueue (e.part + 8) add

/-- A record's words, formed without SEQ, take their place in a partition's ring on a die, where the ring is in use
(R433). -/
def State.ringTake (s : State) (die part : Nat) (ws : List W64) : State :=
  let x := s.part part
  let reg := x.ringReg die
  if !bitAt reg.toNat 63 then s
  else
    let idx := x.idxReg die
    let tail := bits idx.toNat 31 0
    let s := s.pushRecord (2 * part + die) (ringRecords reg) ((ws.headD 0 ||| BitVec.ofNat 64 tail) :: ws.drop 1)
    s.onPart part fun x => { x with
      trcidx := SMap.set 0 x.trcidx die (BitVec.ofNat 64 (bits idx.toNat 63 32 * 2 ^ 32 + (tail + 1) % 2 ^ 32)) }

/-- An event of the package is recorded in a partition's ring on a die. -/
def State.traceIn (s : State) (die : Nat) (e : TraceEvent) : State := s.ringTake die e.part (s.traceWords e 0)

/-- The die of a router. -/
def routerDie (r : Nat) : Nat := r / 256 % 2

/-- One event more of a partition is lost at its source on a die: LOSTSRC counts it, saturating (R433). -/
def Partition.lose (x : Partition) (die : Nat) : Partition :=
  let idx := x.idxReg die
  let w := BitVec.ofNat 64 (min (2 ^ 32 - 1) (bits idx.toNat 63 32 + 1) * 2 ^ 32 + bits idx.toNat 31 0)
  { x with trcidx := SMap.set 0 x.trcidx die w }

/-- An event of a tile or a router joins the router's trace channel, where its partition's ring is in use; one that meets
more than 64 queued is lost (R433). -/
def State.traceAt (s : State) (r : Nat) (e : TraceEvent) : State :=
  if !bitAt ((s.part e.part).ringReg (routerDie r)).toNat 63 then s
  else if 64 < (s.router r).trq.length then
    (s.onRouter r fun x => { x with lost := SMap.set 0 x.lost e.part (SMap.get 0 x.lost e.part + 1) }).onPart e.part
      fun x => x.lose (routerDie r)
  else s.onRouter r fun x => { x with trq := x.trq ++ [(e.part, s.traceWords e 0)] }

/-- The events that the channel of a router tells of as lost, once it has room: a record of kind 8 (R433, R434). -/
def State.tellLost (s : State) (r : Nat) : State :=
  let x := s.router r
  match x.lost with
  | [] => s
  | (p, n) :: rest =>
    if 64 < x.trq.length then s
    else
      let e : TraceEvent := ⟨p, 8, 0, BitVec.ofNat 64 n, 0, if r < 0x400 then r else 0x1FF, 0, 0⟩
      s.onRouter r fun x => { x with lost := rest, trq := x.trq ++ [(p, s.traceWords e 0)] }

/-- The oldest event of a router's trace channel reaches its ring (R433). -/
def State.traceMove (s : State) (r : Nat) : State :=
  match (s.router r).trq with
  | [] => s
  | (p, ws) :: rest => ((s.onRouter r fun x => { x with trq := rest }).ringTake (routerDie r) p ws).tellLost r

/-- Record an event of the package in a die's system ring; its index follows the last record's. -/
def State.traceSys (s : State) (die : Nat) (e : TraceEvent) : State :=
  let seq := match (s.ringList (16 + die)).getLast? with
    | some w => bits (w.headD 0).toNat 31 0 + 1
    | none => 0
  s.pushRecord (16 + die) (s.sysRecords die) (s.traceWords { e with part := 0 } seq)

/-- An event without a task. (DEDUCED, log 41) -/
def packageEvent (part kind code : Nat) (value : W64) : TraceEvent := ⟨part, kind, code, value, 0, 0x1FF, 0, 0⟩

/-- Kinds 3, 6 and 7: in the partition's ring of a die and in the event rings (R434). -/
def State.partEvent (s : State) (die : Nat) (e : TraceEvent) : State := (s.traceIn die e).postEvent e
/-- Kinds 4 and 5: in a die's system ring and in the event rings of every partition's queues. -/
def State.sysEvent (s : State) (die : Nat) (e : TraceEvent) : State :=
  let w := s.eventEntry e
  (List.range 16).foldl (fun s q => s.onQueue q fun x => { x with events := x.events ++ [w] }) (s.traceSys die e)

/-- Are the partition's trace instructions recorded (R338)? -/
def Partition.trcOn (x : Partition) : Bool := bitAt x.reg.toNat 15

/-- trace (R134): one event of kind 0 where the partition's tracing is enabled. -/
def execTrace (sa : BitVec 6) (imm : BitVec 24) (s : State) : Out :=
  let tid := s.focus.tile
  issue s (s.taskOnly .go) fun s =>
    let e : TraceEvent := ⟨s.myPart, 0, imm.toNat, s.rs sa, 0, tid, s.me.taskid, s.tcc tid⟩
    (if (s.part s.myPart).trcOn then s.traceAt tid e else s).retire

end Sys2Proof.Machine
end

