-- ==== Sys2Proof/Machine/Attention.lean ====
section
/-! DEFINITION. Requests that leave the tile (07_engine_strand.md R215) and the attention dies (10_attention_die.md
R295 to R312): aqry, kvtrunc, releases and migrations. -/

namespace Sys2Proof.Machine

/-! ## Requests (R215) -/

/-- A pointer that must be global (R215). -/
def globalCheck (p : W64) (align : Nat) : Check :=
  if bits p.toNat 63 48 ≠ 0 then .fault cWINDOW p else Check.need (p.toNat % align == 0) cALIGN p

/-- A pointer that must be private or own scratchpad (R215). -/
def State.localCheck (s : State) (p : W64) : Check := ptrCheck s.focus.tile noReach p 0 64

/-- Room among the tile's 8 outstanding requests. -/
def State.reqRoom (s : State) : Check := Check.wait (s.me.reqs.length < 8) 6 0

/-- Place a request, accepted after 2 clk (R210). -/
def State.placeReq (s : State) (kind : Nat) (a b c : W64) (fc k : Nat) : State :=
  let s' := s.onMe fun t => { t with reqs := t.reqs ++ [⟨kind, a, b, c, fc, k, t.se.pc, 2, s.reqNum, none⟩] }
  { s' with reqNum := s.reqNum + 1 }.retire

/-- aqry (R215). -/
def execAqry (sa sb sc : BitVec 6) (fc : BitVec 5) (s : State) : Out :=
  issue s ((s.localCheck (s.rs sa)).and ((globalCheck (s.rs sb) 64).and ((s.localCheck (s.rs sc)).and s.reqRoom)))
    fun s => s.placeReq 0 (s.rs sa) (s.rs sb) (s.rs sc) fc.toNat 0

/-- kvtrunc (R215, R310): not in a deterministic fold. -/
def execKvtrunc (sa sb : BitVec 6) (fc : BitVec 5) (s : State) : Out :=
  issue s ((Check.need (!s.me.modeDet) cILLEGAL (s.rs sa)).and ((globalCheck (s.rs sa) 64).and s.reqRoom))
    fun s => s.placeReq 2 (s.rs sa) (s.rs sb) 0 fc.toNat 0

/-- The E strand's stop record for a request (R303, R353): pointer, page index and the request's instruction. -/
def reqAux (q : TileReq) (ptr : W64) (page : Nat) : BitVec 320 :=
  BitVec.ofNat 320 (ptr.toNat * 2 ^ 256 + page % 2 ^ 32 * 2 ^ 224 + q.pc.toNat * 2 ^ 203)

/-- Take the first request away. -/
def Tile.reqDone (t : Tile) : Tile := { t with reqs := t.reqs.drop 1 }

/-- A request faults at the E strand (R303): it writes nothing and its counter does not increment. -/
def reqFault (s : State) (q : TileReq) (cause : Nat) (ptr : W64) (page : Nat) : State :=
  stopStrand (unitFault (s.onMe Tile.reqDone) s.focus.tile 3 cause 0 q.pc (reqAux q ptr page)) s.focus.tile .e

/-- A request completes: the counter increments, FLAGS.NF is set where its status has it (R307, R364). -/
def reqComplete (s : State) (q : TileReq) (nf : Bool) : State :=
  s.onMe fun t => (t.reqDone.setFc q.fc (t.fcReg q.fc + 1)).raise (if nf then fNF else f0)

/-- Why a request cannot go on: it waits (for a walk or for another package), or faults with a page index. -/
inductive ReqStop where
  | wait
  | fault (cause : Nat) (ptr : W64) (page : Nat)
  deriving DecidableEq, Repr

/-- May the requests of a tile still have an effect: it has neither frozen in a halt (R348) nor been cancelled, whose
counters hold its tasks from the cancel on (R315)? (DEDUCED, log 74) -/
def Tile.reqsStand (t : Tile) : Bool := !t.frozen && !t.cancelled

/-- The request of a kind that may be performed now: the first of the tile, once accepted; not a kvtrunc whose releases
are still to be appended (R215, R310), and none once the router that carries its results has stopped (R348, R349). -/
def State.headReq (s : State) (kind : Nat) : Option TileReq :=
  match s.me.reqs with
  | q :: _ =>
    if q.kind = kind ∧ q.delay = 0 ∧ s.me.reqsStand ∧ q.rel.isNone ∧ !(s.router s.focus.tile).stopped.contains s.me.partition then
      some q
    else none
  | [] => none

/-- Is a release of the kvtrunc with a number, one that came before number `n`, still to be appended here? -/
def State.releasesBefore (s : State) (q n : Nat) : Bool :=
  s.parts.any fun x => x.2.releases.any fun y => y.owner == some q && decide (y.num < n)

/-- The accepted requests of a tile that a release with number `n` waits for (R210, R311): none of a tile whose first
request is a kvtrunc with releases that came later, or are this one, since its requests end after those (R215, R310).
(DEDUCED, log 135) -/
def State.reqsOpenAt (s : State) (n : Nat) (t : Tile) : List TileReq :=
  match t.reqs with
  | q :: _ => if t.reqsStand && (q.rel.isNone || s.releasesBefore q.num n) then t.reqs.filter (·.delay == 0) else []
  | [] => []

/-- The numbers of the package's accepted requests that a release with number `n` waits for. -/
def State.reqsOpen (s : State) (n : Nat) : List Nat := s.tiles.flatMap fun x => (s.reqsOpenAt n x.2).map (·.num)

/-- A global access of a request: its place, or why it stops. -/
def reqPlace (s : State) (va n : Nat) (rd wr : Bool) (page : Nat) : Except ReqStop (Nat × Nat) × State :=
  let ptr := BitVec.ofNat 64 va
  if va ≥ 2 ^ 48 then (.error (.fault cXLATE ptr page), s)
  else match s.gplace s.myPart (requestWho s.focus.tile) s.mySecure va n rd wr with
    | (.at t a, s) => (.ok (t, a), s)
    | (.wait, s) => (.error .wait, s)
    | (.unresolved, s) => (.error (.fault cXLATE ptr page), s.tookWalks (requestWho s.focus.tile))
    | (.fault c, s) => (.error (.fault c ptr page), s)

/-- A global read of a request. -/
def reqRead (s : State) (va n page : Nat) : Except ReqStop Nat × State :=
  match reqPlace s va n true false page with
  | (.ok (t, a), s) => (.ok (s.pread t a n), s)
  | (.error e, s) => (.error e, s)

/-! ## First-stage tables (R297, R298) -/

/-- A table header that passes the checks of R297 and R303. -/
structure KvHeader where
  d : Nat
  x : Bool
  fmt : Nat
  cap : Nat
  len : Nat
  deriving DecidableEq, Repr

def kvHeader (w : Nat) : Option KvHeader :=
  let fmt := bits w 68 64
  let h : KvHeader := ⟨32 * (bits w 71 70 + 1), bitAt w 69, fmt, bits w 63 32, bits w 31 0⟩
  if w / 2 ^ 72 ≠ 0 ∨ !(fmt = 1 ∨ fmt = 2 ∨ (9 ≤ fmt ∧ fmt ≤ 15)) ∨ (h.x ∧ fmt < 9) ∨ h.len > 64 * h.cap then none
  else some h

def feTier (e : Nat) : Nat := bits e 53 52
def feGbn (e : Nat) : Nat := bits e 51 20
def feVcnt (e : Nat) : Nat := bits e 19 13
def fePkg (e : Nat) : Nat := bits e 63 54
def feShared (e : Nat) : Bool := bitAt e 0

/-- A malformed first-stage entry (R298). -/
def feMalformed (e : Nat) : Bool := feTier e == 3 || (feTier e != 0 && (feVcnt e > 64 || bits e 12 1 != 0))

/-- Is a package number one of the pod's (R301)? Its own number is. (DESIGN CHOICE, log 36) -/
def State.inPod (s : State) (pkg : Nat) : Bool := pkg == s.pkg || Config.podMember pkg

/-! ## Second-stage tables (R299 to R301) -/

/-- The location of a second-stage entry: tier and physical address (R300). -/
def seAddr (e : Nat) : Nat × Nat :=
  let ad := bits e 62 62
  let sl := bits e 61 57
  let ppn := bits e 19 0
  if bits e 56 55 = 1 then (1, (2 * ad + sl / 16) * (64 * 2 ^ 30) + sl % 16 * (4 * 2 ^ 30) + ppn * 32768)
  else (2, (32 * ad + sl) * (8 * 2 ^ 30) + ppn * 32768)

/-- The checks of R301 step 4 that concern the location: tier and page number. -/
def seLocOk (e : Nat) : Bool :=
  (bits e 56 55 == 1 && bits e 19 0 < 131072) || (bits e 56 55 == 2 && bits e 19 0 < 262144)

/-- The address of a second-stage entry in tier 1, where the partition has one of that number (R299). -/
def State.ssEntry (s : State) (p gbn : Nat) : Option Nat :=
  let x := s.part p
  if bitAt x.ssbase.toNat 63 ∧ gbn < bits x.sslen.toNat 32 0 then some (bits x.ssbase.toNat 51 12 * 4096 + 8 * gbn)
  else none

/-- Resolve a block of this package for a partition (R301 steps 3 to 6): its tier and address, or the cause. -/
def State.resolveGbn (s : State) (p gbn : Nat) : Except Nat (Nat × Nat) :=
  match s.ssEntry p gbn with
  | none => .error cXLATE
  | some a =>
    if s.memBad 1 a 8 then .error cECC
    else
      let e := s.pread 1 a 8
      if !bitAt e 63 || bits e 50 20 != 0 || !seLocOk e then .error cXLATE
      else if bits e 54 52 ≠ p then .error cPERM
      else
        let l := seAddr e
        if (s.part p).owns l.1 l.2 then .ok l else .error cPERM

/-! ## The query (R302 to R307) -/

/-- A query descriptor that passes the checks of R302 and R303. -/
structure Query where
  nq : Nat
  qfmt : Nat
  ofmt : Nat
  pfmt : Nat
  fin : Bool
  causal : Bool
  t0 : Nat
  t1 : Nat
  pos : Nat
  deriving DecidableEq, Repr

def query (w : Nat) : Option Query :=
  let q : Query := ⟨bits w 3 0 + 1, bits w 8 4, bits w 13 9, bits w 18 14, bitAt w 19, bits w 21 20 == 1,
    bits w 95 64, bits w 127 96, bits w 159 128⟩
  if q.qfmt > 1 ∨ q.ofmt > 1 ∨ q.pfmt > 2 ∨ bits w 21 20 > 1 ∨ bits w 63 22 ≠ 0 ∨ w / 2 ^ 160 ≠ 0 then none else some q

/-- Where a page of a request is: absent, at a place of this package, or with another package under a block number. -/
inductive KvLoc where
  | absent
  | here (loc : Nat × Nat)
  | away (pkg gbn : Nat)
  deriving DecidableEq, Repr

/-- One page of a request: its index, its place and its valid tokens. -/
structure KvPage where
  idx : Nat
  loc : KvLoc
  vcnt : Nat
  deriving DecidableEq, Repr

/-- Resolve page `p` of a table: the checks of this package (R298, R301); those of another owner are made there. -/
def resolvePage (s : State) (table p : Nat) : Except ReqStop KvPage × State :=
  match reqRead s (table + 64 + 8 * p) 8 p with
  | (.error e, s) => (.error e, s)
  | (.ok e, s) =>
    let ptr := BitVec.ofNat 64 (table + 64 + 8 * p)
    if feMalformed e then (.error (.fault cXLATE ptr p), s)
    else if feTier e = 0 then (.ok ⟨p, .absent, 0⟩, s)
    else if !s.inPod (fePkg e) then (.error (.fault cXLATE ptr p), s)
    else if fePkg e ≠ s.pkg then (.ok ⟨p, .away (fePkg e) (feGbn e), feVcnt e⟩, s)
    else match s.resolveGbn s.myPart (feGbn e) with
      | .error c => (.error (.fault c ptr p), s)
      | .ok l => (.ok ⟨p, .here l, feVcnt e⟩, s)

/-- Resolve `n` pages from `p` on. -/
def resolvePages (table : Nat) : Nat → Nat → State → Except ReqStop (List KvPage) × State
  | 0, _, s => (.ok [], s)
  | n + 1, p, s =>
    match resolvePage s table p with
    | (.error e, s) => (.error e, s)
    | (.ok x, s) =>
      match resolvePages table n (p + 1) s with
      | (.error e, s) => (.error e, s)
      | (.ok l, s) => (.ok (x :: l), s)

/-- `d` exact values of a row of keys or values. -/
def kvRow (s : State) (loc : Nat × Nat) (off d fmt : Nat) (x : Bool) : List Num :=
  let w := fmtWidth fmt
  let v := s.pread loc.1 (loc.2 + off) (d * w / 8)
  (splitCodes w d v).map (widenVal fmt x 127)

/-- The exact dot product rounded once (R304). -/
def dotRne (a b : List Num) : W32 := (rne (sumNum 0 (List.zipWith (fun x y => (mulNum x y).1) a b)).1).1

/-- Does row `i` attend token `t` of a page with `vcnt` valid tokens (R302)? -/
def attends (q : Query) (e i t vcnt : Nat) : Bool :=
  q.t0 ≤ t && t < e && t % 64 < vcnt && (!q.causal || t ≤ q.pos + i)

/-- The partial triple of one row for one page of this package (R304). -/
def pageTriple (s : State) (q : Query) (h : KvHeader) (e i : Nat) (row : List Num) (loc : Nat × Nat) (idx vcnt : Nat) :
    Triple :=
  let w := fmtWidth h.fmt
  let stride := h.d * w / 8
  let sc := tab 64 fun j =>
    if attends q e i (64 * idx + j) vcnt then dotRne row (kvRow s loc (j * stride) h.d h.fmt h.x) else ninf32
  let mx := sc.foldl fmax ninf32
  if mx = ninf32 then Triple.empty h.d
  else
    let ps := sc.map fun x =>
      if x = ninf32 then 0#32
      else (widenLane q.pfmt false 127 (conv q.pfmt 0 false false 0 (ofF32 (exp2Diff x mx).1)).1).1
    let used := (List.range 64).filter fun j => attends q e i (64 * idx + j) vcnt
    let vs := used.map fun j => (ofF32 (ps.getD j 0), kvRow s loc (16384 + j * stride) h.d h.fmt h.x)
    ⟨mx, (treeSum ps).1, tab h.d fun k => (rne (sumNum 0 (vs.map fun y => (mulNum y.1 (y.2.getD k .nan)).1)).1).1⟩

/-- Does a key or value that a row of the query takes from a page hold an uncorrectable error (R294, R296)? -/
def pageBad (s : State) (q : Query) (h : KvHeader) (e : Nat) (loc : Nat × Nat) (idx vcnt : Nat) : Bool :=
  let stride := h.d * fmtWidth h.fmt / 8
  !s.badMem.isEmpty && (List.range 64).any fun j =>
    (List.range q.nq).any (fun i => attends q e i (64 * idx + j) vcnt) &&
    (s.memBad loc.1 (loc.2 + j * stride) stride || s.memBad loc.1 (loc.2 + 16384 + j * stride) stride)

/-- The triples of every row for a page of this package, or the cause that its data raises. -/
def pageTriples (s : State) (q : Query) (h : KvHeader) (e : Nat) (rows : List (List Num)) (loc : Nat × Nat)
    (idx vcnt : Nat) : Except Nat (List Triple) :=
  if pageBad s q h e loc idx vcnt then .error cECC
  else .ok ((List.zip (List.range q.nq) rows).map fun x => pageTriple s q h e x.1 x.2 loc idx vcnt)

/-- The rows of a query from their codes. -/
def queryRows (q : Query) (codes : List (List Nat)) : List (List Num) :=
  codes.map fun x => x.map (widenVal q.qfmt false 127)

/-- A row's merged triple over its pages' partials, and whether a partial was non-finite (R305). -/
def rowTriple (d : Nat) (pages : List Triple) : Triple × Bool :=
  if pages.isEmpty then (Triple.empty d, false)
  else tree
    (fun a b => let m := (mergeTriple a.1 b.1).1; (m, a.2 || b.2 || m.nonFinite))
    (Triple.empty d, false)
    (pages.map fun t => (t, t.nonFinite))

/-- Does row `i` attend no token of the pages (R302, R306)? -/
def rowEmpty (q : Query) (e i : Nat) (pages : List KvPage) : Bool :=
  !pages.any fun p => p.loc != .absent && (List.range 64).any fun j => attends q e i (64 * p.idx + j) p.vcnt

/-- The bytes of a result row (R306). A row that attends tokens whose scores are all −inf is not empty: its quotient is
that of two zeros. (DEDUCED, log 37) -/
def resultRow (q : Query) (empty : Bool) (t : Triple) : List W8 :=
  if q.fin then
    packCodes (fmtWidth q.ofmt)
      (if empty then t.o.map fun _ => 0 else t.o.map fun x => (quot q.ofmt 0 false false 0 x t.l).1)
  else
    bytesOf 4 t.m.toNat ++ (bytesOf 4 t.l.toNat ++ (List.replicate 56 0#8 ++ t.o.flatMap fun x => bytesOf 4 x.toNat))

/-- The status header of a result (R306). -/
def resultHeader (pages skip : Nat) (nf : Bool) (empty : List Bool) : List W8 :=
  bytesOf 64 (pages % 2 ^ 32 + ofMaskGo empty * 2 ^ 32 + b2n nf * 2 ^ 48 + skip % 2 ^ 32 * 2 ^ 64)

/-- What an aqry has read before it computes. -/
structure AqryData where
  q : Query
  h : KvHeader
  /-- the end token, the descriptor and the header, the pages and the rows' codes -/
  endT : Nat
  desc : Nat
  head : Nat
  pages : List KvPage
  codes : List (List Nat)
  deriving DecidableEq, Repr

/-- Everything that an aqry reads before it computes. -/
def aqryGather (s : State) (r : TileReq) : Except ReqStop AqryData × State :=
  let s := { s with focus := { s.focus with eng := 4 } }
  match s.ereadUnits r.a 0 4 with
  | .error c => (.error (.fault c r.a 0), s)
  | .ok (w, s) =>
    match reqRead s r.b.toNat 64 0 with
    | (.error e, s) => (.error e, s)
    | (.ok hw, s) =>
      match query w, kvHeader hw with
      | some q, some h =>
        let e := min q.t1 h.len
        let p0 := q.t0 / 64
        let n := if e > q.t0 then (e - 1) / 64 - p0 + 1 else 0
        (match resolvePages r.b.toNat n p0 s with
          | (.error x, s) => (.error x, s)
          | (.ok pages, s) =>
            let qw := fmtWidth q.qfmt
            match s.ereadUnits r.a 64 (q.nq * h.d * qw / 128) with
            | .error c => (.error (.fault c r.a 0), s)
            | .ok (v, s) =>
              (.ok ⟨q, h, e, w, hw, pages, (splitCodes (h.d * qw) q.nq v).map fun x => splitCodes qw h.d x⟩, s))
      | _, _ => (.error (.fault cILLEGAL r.a 0), s)

/-- Write a request's result on the flow path and complete it (R306, R307). -/
def reqResult (s : State) (q : TileReq) (bytes : List W8) (nf : Bool) : State :=
  let s := { s with focus := { s.focus with eng := 4 } }
  match State.ewrites (unitWrites q.c 0 bytes) s with
  | .error (c, p) => reqFault s q c p 0
  | .ok s => reqComplete s q nf

/-- The query for a page of another package (R309). -/
def awayQuery (s : State) (r : TileReq) (x : AqryData) (p : KvPage) (pkg gbn : Nat) : KvQuery :=
  ⟨s.pkg, r.num, pkg, s.myPart, p.idx, gbn, p.vcnt, x.head, x.desc, x.endT, x.codes⟩

/-- The partials of a page: of every row, or the cause that stops the request, or none while another package has not
answered. -/
def pagePartials (s : State) (r : TileReq) (x : AqryData) (p : KvPage) : Option (Except Nat (List Triple)) :=
  match p.loc with
  | .absent => some (.ok (List.replicate x.q.nq (Triple.empty x.h.d)))
  | .here loc => some (pageTriples s x.q x.h x.endT (queryRows x.q x.codes) loc p.idx p.vcnt)
  | .away pkg gbn => match s.kvGot.find? fun y => y.1 == awayQuery s r x p pkg gbn with
    | some y => some (if y.2.1 = 0 then .ok y.2.2 else .error y.2.1)
    | none => none

/-- Send the queries for the pages of other packages that have not been sent (R309). -/
def sendQueries (s : State) (r : TileReq) (x : AqryData) : State :=
  x.pages.foldl (fun s p => match p.loc with
    | .away pkg gbn =>
      let k := awayQuery s r x p pkg gbn
      if s.kvOpen.contains k || s.kvGot.any (·.1 == k) then s
      else { s with kvOpen := s.kvOpen ++ [k], kvWire := s.kvWire ++ [.query k] }
    | _ => s) s

/-- A request with its queries to other packages is over. -/
def State.dropQueries (s : State) (num : Nat) : State :=
  { s with kvOpen := s.kvOpen.filter (·.num != num), kvGot := s.kvGot.filter (·.1.num != num) }

/-- The first page in page order whose data, or whose owner, stop the request, with the cause; pages that fail to resolve
here come before (`aqryGather`). (DESIGN CHOICE, log 145) -/
def firstStop : List KvPage → List (Option (Except Nat (List Triple))) → Option (Nat × Nat)
  | p :: _, some (.error c) :: _ => some (p.idx, c)
  | _ :: ps, _ :: xs => firstStop ps xs
  | _, _ => none

/-- The result of an aqry from the partials of its pages (R305 to R307). -/
def aqryResult (s : State) (r : TileReq) (x : AqryData) (parts : List (List Triple)) : State :=
  let ts := tab x.q.nq fun i => rowTriple x.h.d (parts.map fun l => l.getD i (Triple.empty x.h.d))
  let empty := tab x.q.nq fun i => rowEmpty x.q x.endT i x.pages
  let nf := ts.any (·.2)
  let skip := (x.pages.filter fun p => p.loc == .absent).length
  reqResult s r
    (resultHeader x.pages.length skip nf empty ++ (List.zip empty ts).flatMap fun y => resultRow x.q y.1 y.2.1) nf

/-- AQRY_PERFORM (R215, R301 to R309): the first request of the focus tile, an aqry, is performed; it waits for a walk,
and for the answers of the other packages of the pod that hold pages of it. (DESIGN CHOICE, log 106) -/
def execAqryPerform (s : State) : Out :=
  .next (match s.headReq 0 with
    | none => s
    | some r =>
      match aqryGather s r with
      | (.error .wait, s) => s
      | (.error (.fault c p n), s) => reqFault (s.dropQueries r.num) r c p n
      | (.ok x, s) =>
        let parts := x.pages.map (pagePartials s r x)
        if parts.any (·.isNone) then sendQueries s r x
        else match firstStop x.pages parts with
          | some (p, c) =>
            reqFault (s.dropQueries r.num) r c (BitVec.ofNat 64 (r.b.toNat + 64 + 8 * p)) p
          | none => aqryResult (s.dropQueries r.num) r x (parts.map fun y => match y with
              | some (.ok l) => l
              | _ => []))

/-- A query of another package for a page of this one (R301 steps 3 to 6, R304): the answer. -/
def State.serveQuery (s : State) (k : KvQuery) : KvMsg :=
  match query k.desc, kvHeader k.head with
  | some q, some h =>
    (match s.resolveGbn k.part k.gbn with
      | .error c => .answer k c []
      | .ok loc => match pageTriples s q h k.endT (queryRows q k.rows) loc k.page k.vcnt with
        | .error c => .answer k c []
        | .ok l => .answer k 0 l)
  | _, _ => .answer k cILLEGAL []

/-! ## Truncation and releases (R310, R311) -/

/-- Read and check the entries that a kvtrunc touches: those from `first` on are to be released. Each entry's checks are
made together, the cleared ones' in ascending order and then that of the one kept; the first that fails is reported.
(DESIGN CHOICE, log 156) -/
def truncEntries (table first : Nat) : List Nat → State → Except ReqStop (List (Nat × Nat × Nat × Nat)) × State
  | [], s => (.ok [], s)
  | p :: ps, s =>
    match reqPlace s (table + 64 + 8 * p) 8 true true p with
    | (.error e, s) => (.error e, s)
    | (.ok (t, a), s) =>
      let e := s.pread t a 8
      if feMalformed e || (decide (first ≤ p) && feTier e != 0 && !feShared e && !s.inPod (fePkg e)) then
        (.error (.fault cXLATE (BitVec.ofNat 64 (table + 64 + 8 * p)) p), s)
      else match truncEntries table first ps s with
        | (.error e, s) => (.error e, s)
        | (.ok l, s) => (.ok ((p, t, a, e) :: l), s)

/-- Release a block of a kvtrunc (by its number) or for another package to this package's free ring, behind the requests
accepted here; a block of another package is released there (R311). (DEDUCED, log 42) -/
def State.releaseGbn (s : State) (part pkg gbn : Nat) (owner : Option Nat) : State :=
  if pkg = s.pkg then
    ({ s with reqNum := s.reqNum + 1 } : State).onPart part fun x =>
      { x with releases := x.releases ++ [⟨s.reqNum, BitVec.ofNat 64 gbn, owner, s.reqsOpen s.reqNum⟩] }
  else { s with kvWire := s.kvWire ++ [.release pkg part gbn] }

/-- What comes from another package (R309, R311): a query is answered, an answer is taken by the request that waits for
it, a release waits at its owner. -/
def State.kvReceive (s : State) (m : KvMsg) : State :=
  match m with
  | .query k => if k.dst = s.pkg then { s with kvWire := s.kvWire ++ [s.serveQuery k] } else s
  | .answer k c l =>
    if s.kvOpen.contains k then { s with kvOpen := s.kvOpen.erase k, kvGot := s.kvGot ++ [(k, c, l)] } else s
  | .release dst part gbn => if dst = s.pkg ∧ part < 8 then s.releaseGbn part dst gbn none else s

/-- KVTRUNC_PERFORM (R310, R415): the first request of the focus tile, a kvtrunc, is performed; its counter increments
once its releases to this package are appended. -/
def execKvtruncPerform (s : State) : Out :=
  .next (match s.headReq 2 with
    | none => s
    | some r =>
      let table := r.a.toNat
      match reqRead s table 64 0 with
      | (.error .wait, s) => s
      | (.error (.fault c p n), s) => reqFault s r c p n
      | (.ok hw, s) =>
        match kvHeader hw with
        | none => reqFault s r cILLEGAL r.a 0
        | some h =>
          let n := r.b.toNat
          if n ≥ h.len then reqComplete s r false
          else
            let first := (n + 63) / 64
            let last := (h.len + 63) / 64
            let cut := (List.range (last - first)).map (first + ·)
            let part := if n % 64 ≠ 0 then [n / 64] else []
            match truncEntries table first (cut ++ part) s with
            | (.error .wait, s) => s
            | (.error (.fault c p n), s) => reqFault s r c p n
            | (.ok l, s) =>
              match reqPlace s table 64 true true 0 with
              | (.error .wait, s) => s
              | (.error (.fault c p n), s) => reqFault s r c p n
              | (.ok (t, a), s) =>
                let s := l.foldl (fun s x =>
                  if first ≤ x.1 then
                    let s := s.pwrite x.2.1 x.2.2.1 8 0
                    if feTier x.2.2.2 ≠ 0 ∧ !feShared x.2.2.2 then
                      s.releaseGbn s.myPart (fePkg x.2.2.2) (feGbn x.2.2.2) (some r.num) else s
                  else
                    let e := x.2.2.2
                    s.pwrite x.2.1 x.2.2.1 8 (e - feVcnt e * 2 ^ 13 + min (feVcnt e) (n % 64) * 2 ^ 13)) s
                let s := s.pwrite t a 8 (h.cap * 2 ^ 32 + n)
                let own := ((s.part s.myPart).releases.filter fun y => y.owner == some r.num).length
                if own = 0 then reqComplete s r false
                else s.onMe fun t => { t with reqs := match t.reqs with
                  | q :: rest => { q with rel := some own } :: rest
                  | [] => [] })

/-- A release of the kvtrunc with a number is done: with the last, the request completes (R310), unless its tile's
requests have been abandoned (R348). -/
def State.releaseDone (s : State) (owner : Option Nat) : State :=
  match owner.bind fun n => s.tiles.find? fun x => x.2.reqsStand && x.2.reqs.any fun q => q.num == n && q.rel.isSome with
  | none => s
  | some (tid, t) =>
    match t.reqs with
    | [] => s
    | q :: rest =>
      if (q.rel.getD 0) ≤ 1 then
        s.onTile tid fun t => t.reqDone.setFc q.fc (t.fcReg q.fc + 1)
      else s.onTile tid fun t => { t with reqs := { q with rel := some (q.rel.getD 0 - 1) } :: rest }

/-- KV_RELEASE_APPEND (R311): the first waiting release of the focus partition enters its free ring, or is discarded,
once the requests that had been accepted when it came have ended. -/
def execKvReleaseAppend (s : State) : Out :=
  .next (
    let p := s.focus.part
    let x := s.part p
    match x.releases with
    | [] => s
    | y :: rest =>
      if y.after.any (s.reqsOpen y.num).contains then s
      else
      let g := y.gbn
      let free := x.kvfree.toNat
      let w := x.kvfptr.toNat
      let sz := bits free 62 57
      let head := bits w 47 24
      let tail := bits w 23 0
      let s := s.setPart p { x with releases := rest }
      if !bitAt free 63 ∨ (tail + 2 ^ 24 - head) % 2 ^ 24 = 2 ^ sz then
        let drops := min 0xFFFF (bits w 63 48 + 1)
        ((s.onPart p fun x => { x with kvfptr := BitVec.ofNat 64 (drops * 2 ^ 48 + head * 2 ^ 24 + tail) }).partEvent 0
          (packageEvent p 6 0 g)).releaseDone y.owner
      else
        ((s.pwrite 0 (bits free 51 12 * 4096 + 4 * (tail % 2 ^ sz)) 4 g.toNat).onPart p fun x =>
          { x with kvfptr := BitVec.ofNat 64 (bits w 63 48 * 2 ^ 48 + head * 2 ^ 24 + (tail + 1) % 2 ^ 24) }).releaseDone
            y.owner)

end Sys2Proof.Machine
end

