-- ==== Sys2Proof/Machine/Expert.lean ====
section
/-! DEFINITION. Expert selection (13_expert_routing.md R362 to R365, 07_engine_strand.md R215). -/

namespace Sys2Proof.Machine

/-- The operands of a topk: token count, expert count, logit format (R215). -/
structure TopkOps where
  t : Nat
  e : Nat
  fmt : Nat
  deriving DecidableEq, Repr

/-- sB of topk, where it is in range (R215). -/
def topkOps (b : W64) : Option TopkOps :=
  let o : TopkOps := ⟨bits b.toNat 31 0, bits b.toNat 47 32, bits b.toNat 52 48⟩
  if o.t = 0 ∨ o.t > 65536 ∨ o.e < 2 ∨ o.e > 4096 ∨ o.fmt > 1 ∨ bits b.toNat 63 53 ≠ 0 then none else some o

/-- topk (R215, R362): K is one more than the field. (DEDUCED, log 43) -/
def execTopk (k : BitVec 3) (sa sb sc : BitVec 6) (fc : BitVec 5) (s : State) : Out :=
  let fits := match topkOps (s.rs sb) with
    | some o => k.toNat + 1 ≤ o.e
    | none => false
  issue s ((globalCheck (s.rs sa) 64).and ((s.localCheck (s.rs sc)).and
      ((Check.need fits cILLEGAL (s.rs sb)).and s.reqRoom)))
    fun s => s.placeReq 1 (s.rs sa) (s.rs sb) (s.rs sc) fc.toNat (k.toNat + 1)

/-- Bytes from one row of logits to the next (R362). -/
def TopkOps.stride (o : TopkOps) : Nat := (o.e * (fmtWidth o.fmt / 8) + 63) / 64 * 64

/-- Bytes of a row of logits (R362). -/
def TopkOps.rowBytes (o : TopkOps) : Nat := o.e * (fmtWidth o.fmt / 8)

/-- Pieces of at most 64 bytes in a row. -/
def TopkOps.rowPieces (o : TopkOps) : Nat := (o.rowBytes + 63) / 64

/-- The pieces of all rows from an address on, in ascending address: address and bytes (R362). -/
def TopkOps.pieces (o : TopkOps) (a : Nat) : List (Nat × Nat) :=
  (List.range o.t).flatMap fun i => tab o.rowPieces fun j => (a + i * o.stride + 64 * j, min 64 (o.rowBytes - 64 * j))

/-- The pieces with their places, all translated: the first in a page that is not of tier 0, else the first that holds an
uncorrectable error, stops the request (R362, R344); else each piece's bytes. The manual gives the ILLEGAL of a page no
place in the order of R344: it stands behind the checks of R277 and an unresolved walk, before an uncorrectable error.
(DESIGN CHOICE, log 151) -/
def logitBytes (s : State) (l : List ((Nat × Nat) × (Nat × Nat))) : Except ReqStop (List (List W8)) :=
  match l.find? fun x => x.2.1 != 0 with
  | some x => .error (.fault cILLEGAL (BitVec.ofNat 64 x.1.1) 0)
  | none => match l.find? fun x => s.memBad x.2.1 x.2.2 x.1.2 with
    | some x => .error (.fault cECC (BitVec.ofNat 64 x.1.1) 0)
    | none => .ok (l.map fun x => s.preadBytes x.2.1 x.2.2 x.1.2)

/-- The places of a request's pieces, judged together in the order of R344. An address beyond 48 bits resolves to
nothing. (DEDUCED, log 45) -/
def logitPlaces (s : State) (ps : List (Nat × Nat)) : Except ReqStop (List (Nat × Nat)) × State :=
  let stop := fun (i cause : Nat) => Except.error (ReqStop.fault cause (BitVec.ofNat 64 (ps.getD i (0, 0)).1) 0)
  let inside := ps.filter fun x => x.1 < 2 ^ 48
  match State.gplaces s.myPart (requestWho s.focus.tile) s.mySecure (inside.map fun x => (x.1, 0, true, false)) s with
  | (.error (_, .wait), s) => (.error .wait, s)
  | (.error (i, .fault c), s) => (stop i c, s)
  | (.error (i, _), s) => (stop i cXLATE, s)
  | (.ok l, s) => if inside.length = ps.length then (.ok l, s) else (stop inside.length cXLATE, s)

/-- The rows of logits from an address on, widened to f32, or why the request stops (R362). -/
def logitRows (o : TopkOps) (a : Nat) (s : State) : Except ReqStop (List (List W32)) × State :=
  let ps := o.pieces a
  match logitPlaces s ps with
  | (.error e, s) => (.error e, s)
  | (.ok l, s) => match logitBytes s (List.zip ps l) with
    | .error e => (.error e, s)
    | .ok bs => (.ok (tab o.t fun i =>
        (splitCodes (fmtWidth o.fmt) o.e (natOfBytes ((bs.drop (o.rowPieces * i)).take o.rowPieces).flatten)).map
          fun c => (widenLane o.fmt false 127 c).1), s)

/-- Does logit `a` come before logit `b` in the order of R363, or are they the same? -/
def logitBefore (a b : W32 × Nat) : Bool :=
  match isNan32 a.1, isNan32 b.1 with
  | true, true => a.2 ≤ b.2
  | true, false => false
  | false, true => true
  | false, false =>
    if f32Val a.1 = f32Val b.1 then a.2 ≤ b.2 else decide (f32Val b.1 < f32Val a.1)

/-- The first K logits in the order of R363, each with its expert. -/
def selectTop (k : Nat) (row : List W32) : List (W32 × Nat) :=
  (sortBy logitBefore (List.zip row (List.range row.length))).take k

/-- The weights of the selected logits (R364). (DEDUCED, log 44) -/
def topWeights (xs : List W32) : List W32 :=
  let m := xs.headD ninf32
  if xs.all (· == ninf32) then xs.map fun _ => 0#32
  else
    let ps := xs.map fun x => (exp2f (fsub 0 0#32 x m).1).1
    let l := (treeSum ps).1
    ps.map fun p => BitVec.ofNat 32 (quot 0 0 false false 0 p l).1

/-- The 64 bytes of a token's result, and whether a weight is NaN (R215, R364). -/
def tokenResult (k : Nat) (row : List W32) : List W8 × Bool :=
  let sel := selectTop k row
  let ws := topWeights (sel.map (·.1))
  ((List.zip sel ws).flatMap (fun x => bytesOf 4 x.1.2 ++ bytesOf 4 x.2.toNat) ++ List.replicate (64 - 8 * k) 0#8,
   ws.any isNan32)

/-- TOPK_PERFORM (R215, R362 to R365): the first request of the focus tile, a topk, is performed. -/
def execTopkPerform (s : State) : Out :=
  .next (match s.headReq 1 with
    | none => s
    | some q =>
      match topkOps q.b with
      | none => s
      | some o =>
        match logitRows o q.a.toNat s with
        | (.error .wait, s) => s
        | (.error (.fault c p n), s) => reqFault s q c p n
        | (.ok rows, s) =>
          let out := rows.map (tokenResult q.k)
          reqResult s q (out.flatMap (·.1)) (out.any (·.2)))

end Sys2Proof.Machine
end

