-- ==== Sys2Proof/Machine/Hurdle.lean ====
section
/-! DEFINITION. Hurdles (04_control_strand.md R121 to R125, R287, R333): the tile's instructions, the arrivals at the
home, the completion of a phase and a reconfiguration. -/

namespace Sys2Proof.Machine

/-- The launch (level 0) of a partition and identity that has not ended. -/
def State.launch (s : State) (p lid : Nat) : Option WorkUnit :=
  s.units.find? fun u => u.part == p && u.level == 0 && u.id == lid && !u.ended

/-- The tiles of a launch in rank order. -/
def State.placeOf (s : State) (p lid : Nat) : List Nat := ((s.launch p lid).map (·.place)).getD []

/-- The number of a hurdle's scope for a tile: its cluster for SCOPE 0, 8 for SCOPE 1 (R121). -/
def scopeNo (scope tid : Nat) : Nat := if scope = 0 then clusterOf tid else 8

/-- The ranks of a launch's tiles that lie in a scope. -/
def ranksIn (place : List Nat) (no : Nat) : List Nat :=
  (List.range place.length).filter fun r => no == 8 || clusterOf (place.getD r 0) == no

/-- The home of a scope: its tile of lowest rank (R121). -/
def homeTile (place : List Nat) (no : Nat) : Option Nat := ((ranksIn place no).head?).map fun r => place.getD r 0

/-- Does a launch span both dies? -/
def spansDies (place : List Nat) : Bool := place.any (· < 256) && place.any (256 ≤ ·)

/-- The latency Lr of R124. -/
def hurdleLatency (place : List Nat) (no : Nat) : Nat := if no ≠ 8 then 16 else if spansDies place then 80 else 48

def Home.same (h : Home) (p lid hurdle no : Nat) : Bool :=
  h.part == p && h.lid == lid && h.hurdle == hurdle && h.scope == no

/-- The home's record of a scope's hurdle. -/
def State.home (s : State) (p lid hurdle no : Nat) : Home :=
  (s.homes.find? fun h => h.same p lid hurdle no).getD ⟨p, lid, hurdle, no, 0, [], [], [], none, false⟩

/-- Store the home's record. -/
def State.setHome (s : State) (h : Home) : State :=
  { s with homes := h :: s.homes.filter fun x => !x.same h.part h.lid h.hurdle h.scope }

/-- The homes of a hurdle in its present scope. -/
def State.homesOf (s : State) (p lid hurdle scope : Nat) : List Home :=
  s.homes.filter fun h => h.part == p && h.lid == lid && h.hurdle == hurdle && (h.scope == 8) == (scope == 1)

/-- Is an arrival on its way into COUNT: in transit, or held and about to enter (R124)? -/
def Home.coming (h : Home) : Bool := !h.transit.isEmpty || (h.due.isNone && !h.closing && !h.held.isEmpty)

/-- The state word of a hurdle as hpoll returns it (R121). -/
def State.hurdleWord (s : State) (tid n : Nat) : W64 :=
  let t := s.tile tid
  let h := t.hurdle n
  let count := match t.res with
    | some r =>
      let no := scopeNo h.scope tid
      if homeTile (s.placeOf r.part r.lid) no = some tid then (s.home r.part r.lid n no).count else 0
    | none => 0
  BitVec.ofNat 64 (b2n h.cfg * 2 ^ 63 + b2n h.ss * 2 ^ 62 + h.scope % 4 * 2 ^ 60 + b2n h.pend * 2 ^ 59 +
    b2n h.phase * 2 ^ 58 + h.target % 2 ^ 16 * 2 ^ 16 + count % 2 ^ 16)

/-- hpoll (R122). -/
def execHpoll (sd : BitVec 6) (idx : BitVec 12) (s : State) : Out :=
  issue s (s.taskOnly .go) fun s => (s.result sd 2 (s.hurdleWord s.focus.tile idx.toNat) f0).retire

/-- harr (R122, R287): waits until the hurdle is configured and the tile's last arrival has completed, and until the
D strand's accesses are performed; then the engines' writes of observed CSNs are performed for every strand, and one
arrival leaves for the home. (DEDUCED, log 25) -/
def execHarr (idx : BitVec 12) (s : State) : Out :=
  let h := s.me.hurdle idx.toNat
  issue s (s.taskOnly (Check.wait (h.cfg && !h.pend && s.me.dIdle) 2 idx.toNat)) fun s =>
    let s := match s.me.res with
      | some r =>
        let home := s.home r.part r.lid idx.toNat (scopeNo h.scope s.focus.tile)
        s.setHome { home with transit := home.transit ++ [(r.rank, 0)] }
      | none => s
    (s.acquire.onMe fun t => t.setHurdle idx.toNat { h with pend := true }).retire

/-- hwt (R122, R287): issues once the tile has no arrival pending. -/
def execHwt (idx : BitVec 12) (s : State) : Out :=
  issue s (s.taskOnly (Check.wait (!(s.me.hurdle idx.toNat).pend) 2 idx.toNat)) fun s => s.acquire.retire

/-- The checks of hset (R123). -/
def State.hsetCheck (s : State) (n : Nat) (a : W64) : Check :=
  let scope := bits a.toNat 61 60
  let target := bits a.toNat 31 16
  match s.me.res with
  | none => .fault cPERM 0
  | some r =>
    if r.rank ≠ 0 ∨ (s.me.hurdle n).ss then .fault cPERM 0
    else if target = 0 ∨ scope ≥ 2 ∨ target > (if scope = 0 then 48 else 384) then .fault cILLEGAL 0
    else
      let homes := s.homesOf r.part r.lid n (s.me.hurdle n).scope
      if homes.any Home.coming then .block 2 n
      else if homes.any (fun h => h.count != 0) then .fault cILLEGAL 0
      else .go

/-- hset (R122, R123): the new configuration takes effect at every tile of the launch after the latency of
SCOPE 1. -/
def execHset (idx : BitVec 12) (sa : BitVec 6) (s : State) : Out :=
  let a := s.rs sa
  issue s (s.taskOnly (s.hsetCheck idx.toNat a)) fun s =>
    (match s.me.res with
      | some r =>
        ({ s with hsets := s.hsets ++ [HurdleSet.mk r.part r.lid idx.toNat (bits a.toNat 61 60)
            (bits a.toNat 31 16) (hurdleLatency (s.placeOf r.part r.lid) 8)] } : State)
      | none => s).retire

/-- The arrivals of a clk at a home (R124): those held from the last phase come first, then those of the clk, each by
rank, and count as far as TARGET allows; the rest wait for the next phase. A phase that has reached TARGET completes Lr
clk after the issue of the last arrival it counts, a held one as if issued now. Up to and including Tc every arrival
waits. Where a reconfiguration leaves COUNT at or above the new TARGET (R123), the phase does not complete.
(DESIGN CHOICE, log 133) -/
def Home.arrive (h : Home) (target lr : Nat) : Home :=
  let first := sortBy (fun a b => a.1 ≤ b.1) (h.held.map fun k => (k, 0))
  let all := first ++ sortBy (fun a b => a.1 ≤ b.1) h.transit
  let room := if h.due.isSome || h.closing then 0 else target - h.count
  let now := all.take room
  let age := (now.map (·.2)).foldl min lr
  let count := h.count + now.length
  { h with
    transit := []
    count := count
    counted := h.counted ++ now.map (·.1)
    held := (all.drop room).map (·.1)
    due := if h.due.isSome then h.due else if count ≥ target ∧ target > 0 ∧ !now.isEmpty then some (lr - age) else none }

/-- The task of a hurdle's step: partition, launch and the tile as it runs or, where the whole scope is pre-empted
(R125), as the launch `focus.queue` of `focus.part` has it saved. A scope that was restored or saved earlier in the clk is
found where it now is, so that its phase completes in this clk all the same (R124). -/
def State.hurdleTask (s : State) : Option (Nat × Nat × Tile) :=
  let runs := s.me.res.map fun r => (r.part, r.lid, s.me)
  let saved := (s.saves.find? fun x => x.part == s.focus.part && x.lid == s.focus.queue && x.tid == s.focus.tile).map
    fun x => (x.part, x.lid, x.tile)
  if s.focus.follow then saved <|> runs.filter fun x => (x.1, x.2.1) == (s.focus.part, s.focus.queue)
  else runs <|> saved

/-- HURDLE_ARRIVAL (R124): the arrivals at the home of the focus tile's scope of hurdle `focus.idx`.
(DEDUCED, log 95) -/
def execHurdleArrival (s : State) : Out :=
  .next (match s.hurdleTask with
    | none => s
    | some (p, lid, t) =>
      let h := t.hurdle s.focus.idx
      let no := scopeNo h.scope s.focus.tile
      let home := s.home p lid s.focus.idx no
      if home.transit.isEmpty && home.held.isEmpty then s
      else s.setHome (home.arrive h.target (hurdleLatency (s.placeOf p lid) no)))

/-- The clk of a superstep's completion realigns the task clock (R35, R333). -/
def Tile.realign (t : Tile) : Tile := { t with hold := 0 }

/-- What a completed phase does at one tile of its scope (R124): PHASE toggles, PEND clears where the tile's arrival
counted, and a superstep hurdle realigns TCC. -/
def Tile.phaseDone (t : Tile) (n : Nat) (counted : Bool) : Tile :=
  let h := t.hurdle n
  let t := t.setHurdle n { h with phase := !h.phase, pend := h.pend && !counted }
  if h.ss then t.realign else t

/-- The same in a task's saved state (R125). -/
def savedPhase (x : Saved) (p lid n no : Nat) (counted : List Nat) : Saved :=
  if x.part = p ∧ x.lid = lid ∧ (no = 8 ∨ clusterOf x.tid = no) then
    { x with tile := x.tile.phaseDone n (counted.contains x.rank) }
  else x

/-- HURDLE_PHASE_COMPLETE (R124, R125): at Tc the phase completes at every tile of the scope, resident or saved; the
arrivals held for the next phase enter COUNT in the clk after. -/
def execHurdlePhaseComplete (s : State) : Out :=
  .next (match s.hurdleTask with
    | none => s
    | some (p, lid, t) =>
      let n := s.focus.idx
      let no := scopeNo (t.hurdle n).scope s.focus.tile
      let home := s.home p lid n no
      if home.due ≠ some 0 then s
      else
        let place := s.placeOf p lid
        let s := (ranksIn place no).foldl (fun s k =>
          let tid := place.getD k 0
          if (s.tile tid).res.map (fun x => (x.part, x.lid, x.rank)) = some (p, lid, k) then
            s.onTile tid fun t => t.phaseDone n (home.counted.contains k)
          else s) s
        let s := { s with saves := s.saves.map fun x => savedPhase x p lid n no home.counted }
        s.setHome { home with count := 0, counted := [], due := none, closing := true })

/-- One clk at a home: the completion draws nearer, and arrivals held through Tc may enter from the clk after it (R124). -/
def Home.tick (h : Home) : Home :=
  { h with due := h.due.map (· - 1), transit := h.transit.map fun a => (a.1, a.2 + 1), closing := false }

/-- Apply a reconfiguration at one tile (R123): PHASE is kept. -/
def Tile.hurdleSet (t : Tile) (h : HurdleSet) : Tile :=
  t.setHurdle h.hurdle { t.hurdle h.hurdle with cfg := true, scope := h.scope, target := h.target }

/-- HURDLE_CONFIG_EFFECT (R123): the reconfigurations due now take effect at every tile of their launch. -/
def execHurdleConfigEffect (s : State) : Out :=
  let due := s.hsets.filter (·.left == 0)
  let s := due.foldl (fun s h =>
    let s := (s.placeOf h.part h.lid).foldl (fun s tid =>
      if (s.tile tid).res.map (fun x => (x.part, x.lid)) = some (h.part, h.lid) then
        s.onTile tid fun t => t.hurdleSet h
      else s) s
    { s with saves := s.saves.map fun x =>
        if x.part = h.part ∧ x.lid = h.lid then { x with tile := x.tile.hurdleSet h } else x }) s
  .next { s with hsets := s.hsets.filter (·.left != 0) }

end Sys2Proof.Machine
end

