-- ==== Sys2Proof/Machine/Router.lean ====
section
/-! DEFINITION. The routers of a package (08_network_program.md R233 to R251, R261 to R270, R435, R436): their places
and ports, what a packet meets on its arrival, delivery, sending, faults, and the loading of entries. -/

namespace Sys2Proof.Machine

/-! ## Places and ports (R101, R375, R398, R426, R436) -/

/-- Sides of a die: 0 north, 1 east, 2 south, 3 west. (DESIGN CHOICE, log 102) -/
def edgeKey (die side i : Nat) : Nat := 0x400 + 0x100 * die + 0x40 * side + i
def isEdge (r : Nat) : Bool := 0x400 ≤ r
def edgeSide (r : Nat) : Nat := r / 64 % 4
def edgeNo (r : Nat) : Nat := r % 64
/-- Mesh column and row of a tile. -/
def meshCol (tid : Nat) : Nat := 8 * (tid / 64 % 2) + tid % 64 % 8
def meshRow (tid : Nat) : Nat := 6 * (tid / 128 % 2) + tid % 64 / 8
/-- The tile at a column and row of a die. -/
def meshTid (die col row : Nat) : Nat := 256 * die + 64 * (2 * (row / 6) + col / 8) + 8 * (row % 6) + col % 8

/-- Is there a router of this key? -/
def routerExists (r : Nat) : Bool :=
  if isEdge r then
    r < 0x600 &&
    (match edgeSide r with
      | 1 => edgeNo r < 12 || edgeNo r == 16 || edgeNo r == 17
      | 3 => edgeNo r < 12
      | _ => edgeNo r < 18)
  else tidOk r

/-- The scale-up port of an edge router's port 6 (R375). -/
def scaleUpPort (r : Nat) : Option Nat :=
  if isEdge r ∧ routerExists r ∧ edgeSide r = 0 then some (36 * routerDie r + edgeNo r)
  else if isEdge r ∧ routerExists r ∧ edgeSide r = 2 then some (36 * routerDie r + 18 + edgeNo r)
  else none
/-- The edge router of a scale-up port. -/
def portRouter (p : Nat) : Nat :=
  if p % 36 < 18 then edgeKey (p / 36) 0 (p % 36) else edgeKey (p / 36) 2 (p % 36 - 18)
/-- The Ethernet port of an edge router's port 6 (R398). -/
def ethPort (r : Nat) : Option Nat :=
  if isEdge r ∧ edgeSide r = 1 ∧ (edgeNo r = 16 ∨ edgeNo r = 17) then some (2 * routerDie r + (edgeNo r - 16)) else none
def ethRouter (e : Nat) : Nat := edgeKey (e / 2) 1 (16 + e % 2)

/-- The router and arrival port that a mesh router's port joins. -/
def meshNeighbour (r port : Nat) : Option (Nat × Nat) :=
  let d := routerDie r
  let c := meshCol r
  let w := meshRow r
  match port with
  | 1 => some (if w = 0 then edgeKey d 0 c else meshTid d c (w - 1), 3)
  | 2 => some (if c = 15 then edgeKey d 1 w else meshTid d (c + 1) w, 4)
  | 3 => some (if w = 11 then edgeKey d 2 c else meshTid d c (w + 1), 1)
  | 4 => some (if c = 0 then edgeKey d 3 w else meshTid d (c - 1) w, 2)
  | _ => none

/-- The router and arrival port that an edge router's port joins within the package. -/
def edgeNeighbour (r port : Nat) : Option (Nat × Nat) :=
  let d := routerDie r
  let i := edgeNo r
  match edgeSide r, port with
  | 0, 3 => if i < 16 then some (meshTid d i 0, 1) else none
  | 2, 1 => if i < 16 then some (meshTid d i 11, 3) else none
  | 1, 4 => if i < 12 then some (meshTid d 15 i, 2) else none
  | 3, 2 => if i < 12 then some (meshTid d 0 i, 4) else none
  | 1, 1 => if i = 16 then some (edgeKey d 1 11, 3) else if 0 < i then some (edgeKey d 1 (i - 1), 3) else none
  | 1, 3 => if i = 11 then some (edgeKey d 1 16, 1) else if i < 17 then some (edgeKey d 1 (i + 1), 1) else none
  | 3, 1 => if 0 < i then some (edgeKey d 3 (i - 1), 3) else none
  | 3, 3 => if i < 11 then some (edgeKey d 3 (i + 1), 1) else none
  | 1, 5 => if d = 0 ∧ 2 ≤ i ∧ i ≤ 9 then some (edgeKey 1 3 i, 5) else none
  | 3, 5 => if d = 1 ∧ 2 ≤ i ∧ i ≤ 9 then some (edgeKey 0 1 i, 5) else none
  | 1, _ => none
  | 3, _ => none
  | side, 2 => if i < 17 then some (edgeKey d side (i + 1), 4) else none
  | side, 4 => if 0 < i then some (edgeKey d side (i - 1), 2) else none
  | _, _ => none

def neighbour (r port : Nat) : Option (Nat × Nat) := if isEdge r then edgeNeighbour r port else meshNeighbour r port

/-- Does the router have the port (R101, R436)? -/
def hasPort (r port : Nat) : Bool :=
  (neighbour r port).isSome || (!isEdge r && port == 0) ||
  (port == 5 && isEdge r && (edgeSide r == 1 || edgeSide r == 3) && edgeNo r < 12) ||
  (port == 6 && ((scaleUpPort r).isSome || (ethPort r).isSome))

/-! ## Entries -/

def Entry.is (x : Entry) (part fid : Nat) : Bool := x.e.part.toNat == part && x.e.fid.toNat == fid

/-- The entry of a partition and flow at a router. -/
def State.entry (s : State) (r part fid : Nat) : Option Entry := (s.router r).entries.find? fun x => x.is part fid

/-- Change an entry. -/
def State.onEntry (s : State) (r part fid : Nat) (f : Entry → Entry) : State :=
  s.onRouter r fun x => { x with entries := x.entries.map fun y => if y.is part fid then f y else y }

/-- Packets of a contribution: 65,536 where NPKT is 0. -/
def flowPackets (e : FlowEntry) : Nat := if e.npkt = 0#16 then 65536 else e.npkt.toNat

/-- Is the op a combining one (R248)? -/
def combining (op : Nat) : Bool := 3 ≤ op && op ≤ 9
def flowDelivers (e : FlowEntry) : Bool := e.dwin == 0#2 || e.dwin == 1#2

/-- ACT (R267): a round is in progress, or slots or held packets are in use. -/
def Entry.act (x : Entry) : Bool :=
  !x.held.isEmpty || !x.ready.isEmpty || !x.store.isEmpty || !x.reorder.isEmpty ||
  (combining x.op && x.next.any fun p => p.2 % flowPackets x.e != 0 || p.2 != x.outNum)

/-- The status word of an entry (R267). -/
def Entry.status (x : Entry) : W64 :=
  BitVec.ofNat 64 (b2n x.nf * 2 ^ 63 + b2n x.act * 2 ^ 62 + min 0xFFFF x.drops * 2 ^ 32 + x.done.toNat)

/-! ## Faults (R265, R266, R294, R394) -/

/-- A router's number in HALTS (R350): its TID, or its edge index. -/
def routerId (r : Nat) : Nat := if isEdge r then r - 0x400 else r
def routerSrc (r : Nat) : Nat := if isEdge r then 9 else 8

/-- The router that meets a fault acts no more for the partition: it holds the packet that it could not take (R265).
(DEDUCED, log 110) -/
def Router.stopFor (part : Nat) (x : Router) : Router :=
  if x.stopped.contains part then x else { x with stopped := x.stopped ++ [part] }

/-- A run-time fault of a router (R265, R266): the first is held in its fault word. -/
def routerFault (s : State) (r cause reason part port pidx fid : Nat) : State :=
  let s := s.onRouter r fun x => Router.stopFor part <|
    if bitAt x.fault.toNat 63 then x
    else { x with fault := BitVec.ofNat 64 (2 ^ 63 + cause % 256 * 2 ^ 55 + reason % 256 * 2 ^ 47 + part % 8 * 2 ^ 44 +
      port % 8 * 2 ^ 41 + pidx % 2 ^ 16 * 2 ^ 25 + fid % 2 ^ 20) }
  raiseHalt s part cause (routerSrc r) (routerId r)

/-- DROVE-STALL (R394): recorded in DRVST, and as a trace event of kind 7. -/
def droveFault (s : State) (r reason part port : Nat) (stamp : BitVec 48) : State :=
  let w := BitVec.ofNat 64 (2 ^ 63 + reason % 4 * 2 ^ 61 + part % 8 * 2 ^ 58 + port % 8 * 2 ^ 55 + stamp.toNat)
  let s := s.onRouter r fun x => Router.stopFor part <| if bitAt x.drvst.toNat 63 then x else { x with drvst := w }
  let e := packageEvent part 7 reason (s.router r).drvst
  let e := { e with tid := if isEdge r then 0x1FF else r }
  ((raiseHalt s part cDROVE (routerSrc r) (routerId r)).traceAt r e).postEvent e

/-- An uncorrectable error met by a router (R294): recorded in the die's error record, the fault word unchanged.
(DEDUCED, log 51) -/
def routerEcc (s : State) (r part : Nat) : State :=
  let d := routerDie r
  let s := s.onRouter r (Router.stopFor part)
  raiseHalt { s with errRec := SMap.set 0 s.errRec d (SMap.get 0 s.errRec d + 1) } part cECC 11 0

/-! ## Strays (R239, R240, R434) -/

def Router.strayOf (x : Router) (part : Nat) : StrayQ := (SMap.find x.stray part).getD ⟨[], 0, 0⟩

/-- The stray status word (R240). -/
def StrayQ.word (q : StrayQ) : W64 :=
  BitVec.ofNat 64 (q.dropped.toNat * 2 ^ 32 + q.pkts.length % 32 * 2 ^ 16 + q.count.toNat)

/-- The stray event of a packet (R240, R434): in the trace ring, and in the event rings at most once a millisecond. -/
def strayEvent (s : State) (r port : Nat) (p : Packet) : State :=
  let e : TraceEvent := ⟨p.part, 1, p.fid.toNat,
    BitVec.ofNat 64 (p.spkg.toNat + p.stid.toNat * 2 ^ 10 + port % 8 * 2 ^ 19), BitVec.ofNat 64 p.pidx.toNat,
    if isEdge r then 0x1FF else r, 0, 0⟩
  let s := s.traceAt r e
  let due := match (s.router r).strayAt with
    | some t => decide (4000000 ≤ (s.ptc - t).toNat)
    | none => true
  if due then (s.onRouter r fun x => { x with strayAt := some s.ptc }).postEvent e else s

/-- A stray packet is queued for its partition, or discarded (R240). -/
def strayIn (s : State) (r port : Nat) (p : Packet) : State :=
  let q := (s.router r).strayOf p.part
  if q.pkts.length < 16 then
    strayEvent (s.onRouter r fun x => { x with
      stray := SMap.put x.stray p.part { q with pkts := q.pkts ++ [p], count := q.count + 1 } }) r port p
  else s.onRouter r fun x => { x with
    stray := SMap.put x.stray p.part { q with dropped := if q.dropped = 0xFFFF#16 then q.dropped else q.dropped + 1 } }

/-! ## Stamps (R386, R387) -/

/-- Does stamp a precede stamp b? -/
def stampBefore (a b : BitVec 48) : Bool := a != b && (b - a).toNat < 2 ^ 47
def stampMin (a b : BitVec 48) : BitVec 48 := if stampBefore b a then b else a
def stampLatest (a b : BitVec 48) : BitVec 48 := if stampBefore a b then b else a

/-- The order of keys (R387). -/
def keyBefore (a b : Packet) : Bool :=
  if a.stamp ≠ b.stamp then stampBefore a.stamp b.stamp
  else if a.spkg ≠ b.spkg then decide (a.spkg.toNat < b.spkg.toNat)
  else if a.stid ≠ b.stid then decide (a.stid.toNat < b.stid.toNat)
  else if a.sseq ≠ b.sseq then decide ((b.sseq - a.sseq).toNat < 2 ^ 31)
  else if a.fid ≠ b.fid then decide (a.fid.toNat < b.fid.toNat)
  else decide (a.pidx.toNat < b.pidx.toNat)

/-! ## What an arriving packet meets (R238, R239, R241) -/

/-- A header that a router may not take (R236): beside reserved bits and a PL that disagrees with LEN, a LEN outside the
table's range, and one of a signal or drop marker that is not 0. (DESIGN CHOICE, log 140) -/
def Packet.malformed (p : Packet) : Bool :=
  p.rsv != 0 || p.len > 256 || p.len % 4 != 0 || p.pl != (p.len + 63) / 64 || ((p.sig || p.drp) && p.len != 0) ||
  p.data.length != p.len

/-- The packet at the head of an input channel meets nothing, an uncorrectable error, a fault, no entry, a stamp out of
range, or an entry. -/
inductive Meet where
  | nothing
  | ecc (p : Packet)
  | fault (p : Packet) (reason : Nat)
  | stray (p : Packet)
  | range (p : Packet)
  | entry (p : Packet) (x : Entry)
  deriving DecidableEq, Repr, Inhabited

/-- The packet that a list of waiting packets offers: in the drove class, which the partitions share, the packets of
those whose traffic has stopped here are passed over (R349, R395). -/
def Router.offered (r : Router) (l : List Packet) : Option Packet := l.find? fun p => !r.stopped.contains p.part

/-- The head of a channel (R241). -/
def Router.headOf (r : Router) (port ch : Nat) : Option Packet :=
  if ch < 8 then (r.inputs port ch).head? else r.offered (r.inputs port ch)

/-- The head of the channel of the focus. -/
def State.headPacket (s : State) : Option Packet := (s.router s.focus.router).headOf s.focus.port s.focus.cls

/-- What the head of the focus channel meets, in the order of R241; the header is checked first. (DESIGN CHOICE, log 141) -/
def State.meet (s : State) : Meet :=
  let r := s.router s.focus.router
  match s.headPacket with
  | none => .nothing
  | some p =>
    if r.stopped.contains p.part then .nothing
    else if r.badIn.contains (16 * s.focus.port + s.focus.cls) then .ecc p
    else if p.malformed then .fault p 8
    else if p.hops = 255#8 then .fault p 4
    else if s.focus.cls = 9 then .stray p
    else if s.focus.cls = 10 then .range p
    else match r.entries.find? fun x => x.is p.part p.fid.toNat && bitAt x.e.ipm.toNat s.focus.port with
      | none => .stray p
      | some x => if r.badFid.contains (p.part, p.fid.toNat) then .ecc p else .entry p x

/-- A packet of a channel leaves its input buffer; what a scale-up port received owes its far side credits (R376). -/
def State.freeInput (s : State) (r port ch : Nat) (p : Packet) : State :=
  let s := s.onRouter r fun x => { x.setInputs port ch ((x.inputs port ch).erase p) with
    badIn := x.badIn.erase (16 * port + ch) }
  match (if port = 6 then scaleUpPort r else none) with
  | some n => s.onPort n fun x => { x with owed := SMap.set 0 x.owed p.channel (SMap.get 0 x.owed p.channel + p.pl + 1) }
  | none => s

/-- Take the packet at the head of the channel of the focus. -/
def State.takePacket (s : State) : State :=
  match s.headPacket with
  | some p => s.freeInput s.focus.router s.focus.port s.focus.cls p
  | none => s

/-! ## Delivery (R243 to R246, R260, R270) -/

/-- What an entry makes of a packet: it waits, raises a fault that concerns the packet, has raised one that concerns a
packet it held (R266), meets an uncorrectable error, or goes on. -/
inductive FlowAns where
  | wait (s : State)
  | fault (cause reason : Nat) (s : State)
  | raised (s : State)
  | ecc (s : State)
  | ok (s : State)
  deriving DecidableEq, Repr

/-- May the entry's deliveries and counter increments be made now (R270)? (DEDUCED, log 46) -/
def State.resident (s : State) (r : Nat) (x : Entry) : Bool :=
  isEdge r || match (s.tile r).res with
    | some t => t.part == x.e.part.toNat && (x.lid.isNone || x.lid == some t.lid)
    | none => false

/-- How a delivery changes a word: 0 it is written, 1 fadd, 2 iadd. -/
def deliverWord (kind : Nat) (old new : W32) : W32 :=
  match kind with
  | 0 => new
  | 1 => (fadd 0 0#32 old new).1
  | _ => old + new

/-- A word of a delivery whose NF the delivery reports. -/
def deliverNf (kind : Nat) (w : W32) : Bool := kind == 1 && nonFinite32 w

/-- The words of a delivery into the scratchpad of the router's tile, from an address on: bytes in range are written;
the answer says whether one of them came out non-finite. -/
def deliverSp (kind : Nat) : List W32 → Nat → Tile → Tile × Bool
  | [], _, t => (t, false)
  | w :: ws, a, t =>
    if a < 0x180000 then
      let v := deliverWord kind (BitVec.ofNat 32 (Mem.readN t.sp a 4)) w
      let x := deliverSp kind ws (a + 4) (t.spWrite a ((bytesOf 4 v.toNat).take (0x180000 - a)))
      (x.1, x.2 || deliverNf kind v)
    else deliverSp kind ws (a + 4) t

/-- The words of a delivery into memory at translated places. -/
def deliverMem (kind : Nat) : List (W32 × Nat × Nat) → State → State × Bool
  | [], s => (s, false)
  | (w, t, a) :: rest, s =>
    let v := deliverWord kind (BitVec.ofNat 32 (s.pread t a 4)) w
    let x := deliverMem kind rest (s.pwrite t a 4 v.toNat)
    (x.1, x.2 || deliverNf kind v)

/-- Log the words of a delivery in a fold, with their places (R289, R290). -/
def deliverLog (kind part fold : Nat) (task : W32) : List (W32 × Nat × Nat) → Nat → State → State
  | [], _, s => s
  | (w, l) :: ws, va, s => deliverLog kind part fold task ws (va + 4) (s.logItem part fold ⟨va, w, kind, task, l, false⟩)

/-- Write a delivery's bytes (R243 to R245, R260): nothing of it is written unless all of it may be. The second part
of the answer is the NF that an fadd found. -/
def deliverBytes (s : State) (r : Nat) (x : Entry) (kind ofs : Nat) (ws : List W32) : FlowAns × Bool :=
  let addr := x.e.daddr.toNat + ofs
  let n := 4 * ws.length
  if ws.isEmpty then (.ok s, false)
  else if x.e.dwin = 0#2 then
    let t := s.tile r
    let n' := min n (0x180000 - addr)
    if n' ≠ 0 ∧ t.regionFault true addr n' then (.fault cPERM 7 s, false)
    else if kind ≠ 0 ∧ t.spBad addr n' then (.ecc s, false)
    else
      let y := deliverSp kind ws addr t
      let t := if addr + n ≤ 0x180000 then y.1 else y.1.offend true 5 r (max addr 0x180000)
      (.ok (s.setTile r t), y.2)
  else
    let p := x.e.part.toNat
    let vas := tab ws.length fun k => addr + 4 * k
    if addr + n > 2 ^ 48 then (.fault cFLOW 6 s, false)
    else match s.gplaces p (routerWho r) x.secure (vas.map fun a => (a, 4, kind != 0, true)) with
      | (.error (_, .wait), s) => (.wait s, false)
      | (.error (_, .fault c), s) => if c = cECC then (.ecc s, false) else (.fault c 10 s, false)
      | (.error _, s) => (.fault cFLOW 6 s, false)
      | (.ok places, s) =>
        let fold := (x.lid.map (s.foldOf p)).getD 0
        if fold ≠ 0 then
          let task := if isEdge r then BitVec.allOnes 32 else (s.tile r).taskid
          (.ok (deliverLog kind p fold task (List.zip ws places) addr s), false)
        else
          let y := deliverMem kind (List.zip ws places) s
          (.ok y.1, y.2)

/-- Count a delivery (R246): the tile's completion counter, and FLAGS.NF with it. (DEDUCED, log 48) -/
def countDelivery (s : State) (r : Nat) (x : Entry) (nf : Bool) : State :=
  let unbounded := (x.op == 1 || x.op == 2) && x.e.npkt == 0#16
  let size := if unbounded then 1 else flowPackets x.e
  let full := x.count + 1 ≥ size
  let s := s.onEntry r x.e.part.toNat x.e.fid.toNat fun y =>
    { y with count := if full then 0 else x.count + 1, countNf := if full then false else x.countNf || nf }
  if full && !isEdge r then
    s.onTile r fun t => (t.setFc x.e.fc.toNat (t.fcReg x.e.fc.toNat + 1)).raise (if x.countNf || nf then fNF else f0)
  else s

/-- Deliver a packet and count it (R243, R246): a signal and a drop marker write nothing. -/
def deliverPacket (s : State) (r : Nat) (x : Entry) (kind : Nat) (p : Packet) : FlowAns :=
  if !flowDelivers x.e then .ok s
  else if !s.resident r x then .wait s
  else match deliverBytes s r x kind p.ofs.toNat (wordsOf p.data) with
    | (.ok s, nf) =>
      let nf := p.nf || nf
      let s := countDelivery s r x nf
      .ok (s.onEntry r x.e.part.toNat x.e.fid.toNat fun y => { y with nf := y.nf || nf })
    | (a, _) => a

/-! ## The link layer's sending side (R376, R377, R399, R400) -/

/-- The header flit of a packet (R236). -/
def Packet.header (p : Packet) : BitVec 512 :=
  BitVec.ofNat 512 (p.rsv * 2 ^ 186 + p.stamp.toNat * 2 ^ 138 + p.sseq.toNat * 2 ^ 106 + p.stid.toNat * 2 ^ 97 +
    p.spkg.toNat * 2 ^ 87 + p.ofs.toNat * 2 ^ 63 + p.pidx.toNat * 2 ^ 47 + p.hops.toNat * 2 ^ 39 +
    p.len % 512 * 2 ^ 30 + p.pl % 8 * 2 ^ 27 + b2n p.nf * 2 ^ 26 + b2n p.drp * 2 ^ 25 + b2n p.sig * 2 ^ 24 +
    b2n p.o * 2 ^ 23 + p.part % 8 * 2 ^ 20 + p.fid.toNat)

/-- The packet of a header flit and its payload bytes. (DEDUCED, log 49) -/
def packetOf (h : Nat) (payload : List W8) : Packet where
  rsv := h / 2 ^ 186
  stamp := BitVec.ofNat 48 (bits h 185 138)
  sseq := BitVec.ofNat 32 (bits h 137 106)
  stid := BitVec.ofNat 9 (bits h 105 97)
  spkg := BitVec.ofNat 10 (bits h 96 87)
  ofs := BitVec.ofNat 24 (bits h 86 63)
  pidx := BitVec.ofNat 16 (bits h 62 47)
  hops := BitVec.ofNat 8 (bits h 46 39)
  len := bits h 38 30
  pl := bits h 29 27
  nf := bitAt h 26
  drp := bitAt h 25
  sig := bitAt h 24
  o := bitAt h 23
  part := bits h 22 20
  fid := BitVec.ofNat 20 h
  data := payload.take (bits h 38 30)

/-- A packet's flits: the header, then the payload, zero-filled to whole flits. -/
def Packet.flits (p : Packet) : List (BitVec 512) :=
  p.header :: tab p.pl fun k => BitVec.ofNat 512 (natOfBytes ((p.data.drop (64 * k)).take 64))

/-- The slot wheel of a link (R340): the class of entry k. -/
def State.wheelClass (s : State) (wheel k : Nat) : Nat :=
  let w := (SMap.find s.wheels wheel).getD 0xA9800000000000000000000000000000#128
  bits w.toNat (4 * (k % 32) + 3) (4 * (k % 32))

/-- The wheel of the link at a router's port (R340, R426): of a mesh router its own, to an edge router the one of the
mesh router that the link joins, of a UCIe module and of an Ethernet port theirs; the links between the edge routers of
one side have no wheel that software reaches, and keep the reset wheel. (DESIGN CHOICE, log 127) -/
def linkWheel (r port : Nat) : Nat :=
  if port = 6 then 0x1100 + (ethPort r).getD 0
  else if !isEdge r then 4 * r + (port - 1)
  else if port = 5 then 0x1200 + 32 * routerDie r + (if edgeSide r = 1 then edgeNo r else 12 + edgeNo r)
  else match neighbour r port with
    | some (r', port') => if isEdge r' then 0x2000 else 4 * r' + (port' - 1)
    | none => 0x2000

/-- The class of a port's link in the `k`-th nclk of this clk (R3, R340). -/
def State.linkSlot (s : State) (r port k : Nat) : Nat := s.wheelClass (linkWheel r port) (2 * s.dcc + k)

/-- The flits that may leave: of a partition whose traffic has stopped at the router only the rest of a packet whose
header has left (R349, R395). `held` lists the partitions and classes of which a header stays. -/
def freeFlits (stopped : List Nat) (held : List (Nat × Nat)) : List OutFlit → List OutFlit
  | [] => []
  | f :: rest =>
    if f.kind = 0 && stopped.contains f.part && (f.head || held.contains (f.part, f.cls)) then
      freeFlits stopped ((f.part, f.cls) :: held) rest
    else f :: freeFlits stopped held rest

/-- A slot of a class with nothing to send. -/
def OutFlit.idle (cls : Nat) : OutFlit := ⟨cls, 3, 0, 0, false, 0⟩

/-- Fill the three slots of a link flit from the wheel position on (R376, R377): flits of a slot's class in their
order, else idle. -/
def fillSlots (s : State) (wheel : Nat) (stopped : List Nat) : Nat → Nat → List OutFlit → List OutFlit × List OutFlit
  | 0, _, w => ([], w)
  | n + 1, k, w =>
    let c := s.wheelClass wheel k
    match (freeFlits stopped [] w).find? fun x => x.cls == c with
    | some x => let r := fillSlots s wheel stopped n (k + 1) (w.erase x); (x :: r.1, r.2)
    | none => let r := fillSlots s wheel stopped n (k + 1) w; (.idle c :: r.1, r.2)

/-- The credits that the next link flit of a port returns: of the lowest class that is owed some (R376).
(DESIGN CHOICE, log 56) -/
def Port.returns (x : Port) : Nat × Nat :=
  match (List.range 11).find? fun c => SMap.get 0 x.owed c != 0 with
  | some c => (c, min 4095 (SMap.get 0 x.owed c))
  | none => (0, 0)

/-- A link flit (R376) with three slots, its sequence number, the acknowledgement and returned credits (class, flits). -/
def linkFlit (seq ack : BitVec 12) (nak : Bool) (cr : Nat × Nat) (slots : List OutFlit) : BitVec 2048 :=
  let sd := slots.foldr (fun x a => a * 64 + (x.kind % 4 * 16 + x.cls % 16)) 0
  let body := slots.foldr (fun x a => a * 2 ^ 512 + x.flit.toNat) 0
  let low : BitVec 1664 := BitVec.ofNat 1664
    (body * 2 ^ 128 + seq.toNat * 2 ^ 116 + ack.toNat * 2 ^ 104 + b2n nak * 2 ^ 103 + sd % 2 ^ 18 * 2 ^ 82 +
      cr.1 % 16 * 2 ^ 78 + cr.2 % 4096 * 2 ^ 66)
  let mid : BitVec 1728 := BitVec.ofNat 1728 (low.toNat + (Config.linkCrc low).toNat * 2 ^ 1664)
  BitVec.ofNat 2048 (mid.toNat + (Config.fecParity mid).toNat * 2 ^ 1728)

/-- Pod time with its fraction, 54 bits. -/
def State.now54 (s : State) : BitVec 54 := BitVec.ofNat 54 (s.ptc.toNat * 64 + s.ptcf.toNat)

/-- The time flit of a port that leaves now (R382). -/
def Port.timeFlit (x : Port) (now : BitVec 54) : BitVec 512 :=
  BitVec.ofNat 512 (x.eseq.toNat * 2 ^ 108 + (x.timeRecv.getD 0).toNat * 2 ^ 54 + now.toNat)

/-- The port once its time flit has left: the flit waits for its ECHO, with the stamps that it follows. -/
def Port.timeLeft (x : Port) (now : BitVec 54) : Port :=
  { x with eseq := x.eseq + 1, unanswered := x.unanswered ++ [(now, x.stamps)], stamps := none }

/-- Does a port's retry buffer hold its 512 flits, none of them acknowledged (R378)? -/
def Port.windowFull (x : Port) : Bool := decide (512 ≤ (x.sendSeq - 1 - x.acked).toNat)

/-- The next three slots of a scale-up port's wheel pass (R377): a link flit leaves that carries what waits for them and
returned credits; one with nothing to carry leaves only as a NAK. A time flit is stamped as it leaves (R382). While 512
flits are not acknowledged no new one leaves (R378): a NAK then goes in an idle flit under a number already acknowledged.
(DESIGN CHOICE, log 56) -/
def emitFlit (s : State) (p : Nat) (nak : Bool) : State :=
  let x := s.port p
  if x.windowFull then
    if nak then
      s.onPort p fun x => { x with
        wire := x.wire ++ [linkFlit x.acked (x.recvSeq - 1) true (0, 0) (List.replicate 3 (.idle 15))] }
    else s
  else
    let f := fillSlots s (0x1000 + p) (s.router (portRouter p)).stopped 3 x.wheelPos x.waiting
    let y := { x with waiting := f.2, wheelPos := (x.wheelPos + 3) % 32 }
    s.onPort p fun _ =>
      if !nak && f.1.all fun z => z.kind == 3 then y
      else
        let cr := x.returns
        let flit := linkFlit x.sendSeq (x.recvSeq - 1) nak cr
          (f.1.map fun z => if z.kind = 2 then { z with flit := x.timeFlit s.now54 } else z)
        let y := if f.1.any fun z => z.kind == 2 then y.timeLeft s.now54 else y
        { y with
          sendSeq := x.sendSeq + 1, sent := (x.sent ++ [flit]).drop (x.sent.length + 1 - 512), wire := x.wire ++ [flit]
          owed := if cr.2 = 0 then x.owed else SMap.set 0 x.owed cr.1 (SMap.get 0 x.owed cr.1 - cr.2) }

/-- Send link flits of a scale-up port while flits wait for slots (R377); a class without a wheel entry waits on.
(DESIGN CHOICE, log 56) -/
def sendLink (p : Nat) : Nat → State → State
  | 0, s => s
  | n + 1, s => if (s.port p).waiting.isEmpty then s else sendLink p n (emitFlit s p false)

/-- Send what the wheel of a scale-up port lets go. -/
def State.linkGo (s : State) (p : Nat) : State := sendLink p (32 * (s.port p).waiting.length) s

/-- Queue flits on a scale-up port and send what the wheel lets go; a bellwether goes before the drove packets that wait
(R390). -/
def State.linkQueue (s : State) (p : Nat) (l : List OutFlit) : State :=
  (s.onPort p fun x => { x with waiting := if l.any fun f => f.kind == 1 then l ++ x.waiting else x.waiting ++ l }).linkGo p

/-- The flits of a packet for a scale-up port. -/
def Packet.outFlits (p : Packet) : List OutFlit :=
  ⟨p.channel, 0, p.part, p.stamp, true, p.header⟩ ::
    (p.flits.drop 1).map fun f => ⟨p.channel, 0, p.part, p.stamp, false, f⟩

/-- The words of a packet in a datagram: the header flit and the payload flits. -/
def Packet.words (p : Packet) : List W32 :=
  p.flits.flatMap fun f => tab 16 fun k => BitVec.ofNat 32 (f.toNat / 2 ^ (32 * k))

/-- The 16-byte tunnel header (R399). -/
def tunnelHeader (seq ack : W32) (part : Nat) : BitVec 128 :=
  BitVec.ofNat 128 (seq.toNat + ack.toNat * 2 ^ 32 + part % 8 * 2 ^ 64)

/-- The words of up to `n` waiting packets of a partition that fit in `room` bytes, and the packets left (R399).
(DEDUCED, log 58) -/
def fillDatagram (part : Nat) : Nat → Nat → List (Nat × List W32) → List W32 × List (Nat × List W32)
  | 0, _, l => ([], l)
  | _ + 1, _, [] => ([], [])
  | n + 1, room, (q, ws) :: rest =>
    if q = part ∧ 4 * ws.length ≤ room then
      let r := fillDatagram part n (room - 4 * ws.length) rest
      (ws ++ r.1, r.2)
    else ([], (q, ws) :: rest)

/-- Send waiting packets of a peer while its window of 4,096 datagrams has room: in each as many packets as the MTU
allows beside the 64 bytes of IPv6, UDP and tunnel headers, from 1 to 16 (R399, R400). -/
def sendTunnel (n peer : Nat) : Nat → State → State
  | 0, s => s
  | k + 1, s =>
    let e := s.eth n
    let x := (SMap.find e.peers peer).getD Peer.reset
    match x.stash with
    | [] => s
    | (part, ws) :: rest =>
      if x.window.length ≥ 4096 then s
      else
        let more := fillDatagram part 15 (e.mtu - 64 - 4 * ws.length) rest
        let ws := ws ++ more.1
        let y := { x with
          stash := more.2, sendSeq := x.sendSeq + 1, window := x.window ++ [⟨x.sendSeq.toNat, part, ws, 0, 0⟩] }
        sendTunnel n peer k (s.onEth n fun e => { e with
          peers := SMap.put e.peers peer y
          wire := e.wire ++ [(peer, tunnelHeader x.sendSeq (x.recvSeq - 1) part, ws)] })

/-- The peer of a partition's flow in the egress table of an Ethernet port (R399). -/
def Eth.peerOf (e : Eth) (p : Packet) : Option Nat := SMap.find e.egress (2 ^ 20 * p.part + p.fid.toNat)

/-- A packet leaves on an Ethernet port (R399): it joins the tunnel of the peer that the egress table named. -/
def ethSend (s : State) (n peer : Nat) (p : Packet) : State :=
  match SMap.find (s.eth n).peers peer with
  | none => s
  | some x =>
    if x.down then s
    else
      sendTunnel n peer (x.stash.length + 1)
        (s.onEth n fun e => { e with peers := SMap.put e.peers peer { x with stash := x.stash ++ [(p.part, p.words)] } })

/-- The packets that wait for a link's slots. -/
def Router.outputs (x : Router) (port ch : Nat) : List Leaving := (SMap.find x.outq (16 * port + ch)).getD []
def Router.setOutputs (x : Router) (port ch : Nat) (l : List Leaving) : Router :=
  { x with outq := if l.isEmpty then SMap.del x.outq (16 * port + ch) else SMap.put x.outq (16 * port + ch) l }

/-- A packet waits for the slots of its class on a link (R235, R340), on an Ethernet port for a peer. -/
def State.queueOut (s : State) (r port : Nat) (p : Packet) (peer : Option Nat) : State :=
  s.onRouter r fun x => x.setOutputs port p.channel (x.outputs port p.channel ++ [⟨p, p.pl + 1, peer⟩])

/-- Send a packet that came by port `came` out of one port of a router (R242): it waits for the link to the router it
joins or to the Ethernet port, goes over a scale-up link that is up, or nowhere; on an Ethernet port with no egress entry
it is a stray (R399). (DEDUCED, log 52) -/
def sendOn (s : State) (r came port : Nat) (p : Packet) : State :=
  if (neighbour r port).isSome then s.queueOut r port p none
  else if port ≠ 6 then s
  else match scaleUpPort r, ethPort r with
    | some n, _ => if (s.port n).up then s.linkQueue n p.outFlits else s
    | none, some n => match (s.eth n).peerOf p with
      | some peer => s.queueOut r 6 p (some peer)
      | none => strayIn s r came p
    | none, none => s

/-- A packet whose last flit has moved is at the far end of its link. -/
def linkArrive (s : State) (r port : Nat) (y : Leaving) : State :=
  match neighbour r port with
  | some (r', port') => s.putPacket r' port' y.pkt
  | none => match ethPort r, y.peer with
    | some n, some peer => ethSend s n peer y.pkt
    | _, _ => s

/-- One flit of a class moves over a link (R235, R340); a partition's traffic that has stopped here stays (R349). -/
def moveFlit (s : State) (r port ch : Nat) : State :=
  let x := s.router r
  let l := x.outputs port ch
  match l.find? fun y => !x.stopped.contains y.pkt.part with
  | none => s
  | some z =>
    if z.left ≤ 1 then linkArrive (s.onRouter r fun x => x.setOutputs port ch (l.erase z)) r port z
    else s.onRouter r fun x => x.setOutputs port ch (l.map fun y => if y == z then { z with left := z.left - 1 } else y)

/-- Did a bellwether take the drove slot of a port in this clk (R390)? It took the first of the clk. -/
def State.bellTook (s : State) (r port k : Nat) : Bool :=
  SMap.find (s.router r).bellDcc port == some s.dcc && (k == 0 || s.linkSlot r port 0 != 8)

/-- The links of a router in one clk of two nclk: in each, every link moves at most one flit, of the class that its wheel
names (R340); what waits at a scale-up port goes on (R377). -/
def State.moveLinks (s : State) (r : Nat) : State :=
  let s := (List.range 2).foldl (fun s k => (List.range 6).foldl (fun s i =>
    let port := i + 1
    let ch := s.linkSlot r port k
    if ch = 8 ∧ s.bellTook r port k then s else moveFlit s r port ch) s) s
  match scaleUpPort r with
  | some n => s.linkGo n
  | none => s

/-- Does something wait for a slot at a router's links? -/
def State.linksWait (s : State) (r : Nat) : Bool :=
  ((s.router r).outq.any fun q => !q.2.isEmpty) ||
  match scaleUpPort r with
  | some n => !(s.port n).waiting.isEmpty
  | none => false

/-- Has one of a router's links a slot of the trace class in this clk (R340)? -/
def State.traceSlot (s : State) (r : Nat) : Bool :=
  (List.range 6).any fun i => (neighbour r (i + 1)).isSome && (s.linkSlot r (i + 1) 0 == 9 || s.linkSlot r (i + 1) 1 == 9)

/-- A router's trace channel in one clk (R340, R433): where a link has a trace slot, the oldest event leaves for its ring.
Which link it takes and how long it travels are free. (DESIGN CHOICE, log 40) -/
def State.traceStep (s : State) (r : Nat) : State := if s.traceSlot r then s.traceMove r else s

/-! ## Results (R242, R261, R263, R267, R435) -/

/-- The packet as it leaves an entry (R241, R242, R263): `keep` for fwd, dup and hold. -/
def outPacket (s : State) (r : Nat) (x : Entry) (keep : Bool) (p : Packet) : Packet :=
  let own := fun (p : Packet) => { p with
    spkg := BitVec.ofNat 10 s.pkg, stid := if isEdge r then 0 else BitVec.ofNat 9 r, sseq := x.outSeq }
  let p := { p with hops := p.hops + 1, fid := if x.e.ren then x.e.nfid else p.fid }
  if x.e.drv then
    if keep && p.o then p
    else own { p with o := true, stamp := if !keep && p.o then p.stamp else s.ptc.setWidth 48 }
  else
    let p := { p with o := false, stamp := 0 }
    if keep then p else own p

/-- Is the flow named by a valid slot of the router's TRCFID, and its partition traced (R435)? -/
def State.traced (s : State) (r part fid : Nat) : Bool :=
  (s.part part).trcOn && (List.range 4).any fun k =>
    let w := (SMap.get 0#32 (s.router r).trcfid k).toNat
    bitAt w 31 && bits w 22 20 == part && bits w 19 0 == fid

/-- The KIND 2 record of a result (R434, R435). -/
def traceResult (s : State) (r : Nat) (x : Entry) (pidx first last gap : Nat) : State :=
  let part := x.e.part.toNat
  let fid := x.e.fid.toNat
  if s.traced r part fid then
    let done := ((s.entry r part fid).map (·.done)).getD 0
    s.traceAt r ⟨part, 2, fid, BitVec.ofNat 64 done.toNat,
      BitVec.ofNat 64 (pidx % 2 ^ 16 + first % 8 * 2 ^ 16 + last % 8 * 2 ^ 19 + min gap (2 ^ 32 - 1) * 2 ^ 22),
      if isEdge r then 0x1FF else r, 0, 0⟩
  else s

/-- Is the port a connected, up port that carries the drove class (R388, R398)? -/
def State.drovePort (s : State) (r port : Nat) : Bool :=
  (neighbour r port).isSome ||
  (port == 6 && match scaleUpPort r with
    | some n => (s.port n).up
    | none => false)

/-- May a packet of an entry leave: no drove packet goes out of a port before the first bellwether there (R388)? -/
def State.mayLeave (s : State) (r : Nat) (x : Entry) (p : Packet) : Bool :=
  !p.o || (portList x.e.opm).all fun port => !s.drovePort r port || (s.router r).droveOut.contains port

/-- A result of an entry: delivered, then sent on every port of OPM, and counted in its status (R242, R261, R267). -/
def sendResult (s : State) (r : Nat) (x : Entry) (keep : Bool) (p : Packet) (first last gap : Nat) : FlowAns :=
  if !s.mayLeave r x (outPacket s r x keep p) then .wait s
  else match deliverPacket s r x 0 p with
  | .ok s =>
    let q := outPacket s r x keep p
    let s := (portList x.e.opm).foldl (fun s port => sendOn s r first port q) s
    let s := s.onEntry r x.e.part.toNat x.e.fid.toNat fun y => { y with
      done := y.done + 1, nf := y.nf || p.nf, outSeq := if x.e.opm = 0#7 then y.outSeq else y.outSeq + 1 }
    .ok (traceResult s r x p.pidx.toNat first last gap)
  | a => a

/-! ## Loading (R103, R234, R247, R268, R269, R391, R392) -/

/-- Does the op use ORD, and slots (R102)? -/
def opSlots (op : Nat) : Bool := 3 ≤ op && op ≤ 11

/-- Does an entry deliver, or hold, drove packets of a partition? Each such reserves 320 bytes (R391).
(DEDUCED, log 54) -/
def Entry.droveDelivers (x : Entry) (part : Nat) : Bool :=
  x.e.part.toNat == part && x.e.drv && (flowDelivers x.e || x.op == 11)

/-- The reorder store's share of a partition, in bytes (R389). -/
def State.droveShare (s : State) (part : Nat) : Nat := bits s.drovecfg.toNat (4 * part + 3) (4 * part) * 131072

/-- Bytes of the share that a die's entries reserve. -/
def State.droveReserved (s : State) (die part : Nat) : Nat :=
  s.routers.foldl (fun n x =>
    if routerDie x.1 = die then n + 320 * (x.2.entries.filter fun y => y.droveDelivers part).length else n) 0

/-- Bytes that a packet takes in the reorder store. -/
def Packet.bytes (p : Packet) : Nat := 64 * (p.pl + 1)

/-- Bytes of a partition's share in use on a die beyond the routers' reserves (R391). -/
def State.droveUsed (s : State) (die part : Nat) : Nat :=
  s.routers.foldl (fun n x =>
    if routerDie x.1 = die then
      x.2.entries.foldl (fun n y =>
        if y.e.part.toNat = part then y.reorder.foldl (fun n z => if z.reserve then n else n + z.pkt.bytes) n else n) n
    else n) 0

/-- Bytes of a router's reserve for a partition that are taken (R391). -/
def Router.reserveUsed (x : Router) (part : Nat) : Nat :=
  x.entries.foldl (fun n y => if y.e.part.toNat = part then
    y.reorder.foldl (fun n z => if z.reserve then n + z.pkt.bytes else n) n else n) 0

/-- Bytes of the dies' reserves for a partition that are taken on a die. -/
def State.reserveUsed (s : State) (die part : Nat) : Nat :=
  s.routers.foldl (fun n x => if routerDie x.1 = die then n + x.2.reserveUsed part else n) 0

/-- May an entry with V = 1 be installed (R103, R247, R391, R392)? (DEDUCED, log 71) -/
def State.loadable (s : State) (r part : Nat) (i : Instr) (op : Nat) (e : FlowEntry) : Bool :=
  let pc := (s.part part).reg.toNat
  let others := (s.router r).entries.filter fun x => x.e.part.toNat == part && x.e.fid != e.fid
  let slots := e.slot.toNat + e.nslot.toNat + 1
  let x : Entry := ⟨op, e, none, false, false, 0, 0, [], [], 0, [], [], 0, false, 0, 0, []⟩
  routerExists r && i.wellFormed && e.part.toNat == part &&
  (!opSlots op || (bits pc 42 35 ≤ e.slot.toNat && slots ≤ bits pc 42 35 + bits pc 34 26)) &&
  !(e.dwin == 0#2 && isEdge r) &&
  (portList (e.ipm ||| e.opm)).all (hasPort r) &&
  others.length < bits pc 53 43 &&
  !(e.drv && (ethPort r).isSome && bitAt e.opm.toNat 6) &&
  (!x.droveDelivers part ||
    s.droveUsed (routerDie r) part + s.droveReserved (routerDie r) part + 320 ≤ s.droveShare part ||
    (s.router r).entries.any fun y => y.is part e.fid.toNat && y.droveDelivers part)

/-- Load, replace or remove an entry; the reason code where the load faults: 1 LOAD, 9 BUSY (R103, R265, R269). A load that
breaks a check is LOAD whether or not it meets an active entry. (DESIGN CHOICE, log 154) -/
def State.loadEntry (s : State) (r part w : Nat) (lid : Option Nat) (secure : Bool) : Except Nat State :=
  let e := decFlow w
  let busy := (s.router r).entries.any fun x => x.is part e.fid.toNat && x.act
  if !e.v then
    if !e.removal || e.part.toNat ≠ part then .error 1
    else if busy then .error 9
    else .ok (s.onRouter r fun x => { x with
      entries := x.entries.filter fun y => !y.is part e.fid.toNat, badFid := x.badFid.erase (part, e.fid.toNat) })
  else match decodeFlow w with
    | none => .error 1
    | some i =>
      match flowOf i with
      | none => .error 1
      | some (op, e) =>
        if !s.loadable r part i op e then .error 1
        else if busy then .error 9
        else .ok (s.onRouter r fun x => { x with
          badFid := x.badFid.erase (part, e.fid.toNat)
          entries := (x.entries.filter fun y => !y.is part e.fid.toNat) ++
            [⟨op, e, lid, secure, false, 0, 0, [], [], 0, [], [], 0, false, 0, 0, []⟩] })

/-- What a load that faults leaves (R265, R269): reason LOAD is reported at the load alone; a load onto an entry with a
round in progress is a run-time fault of the router, and the entry stays. -/
def State.loadFault (s : State) (r part w reason : Nat) : State :=
  if reason = 9 then routerFault s r cFLOW 9 part 7 0 (decFlow w).fid.toNat else s

/-- ELOAD (R103, R425, R426): a load by a queue's partition, in the world of the queue; a faulting load installs
nothing. (DEDUCED, log 61) -/
def execEload (queue router : Nat) (w : BitVec 256) (s : State) : Out :=
  .next (match s.loadEntry router (queue % 8) w.toNat none (decide (8 ≤ queue)) with
    | .ok s => s
    | .error why => s.loadFault router (queue % 8) w.toNat why)

end Sys2Proof.Machine
end

