-- ==== Sys2Proof/Machine/Flow.lean ====
section
/-! DEFINITION. The router operations (08_network_program.md R248 to R262, R265, R426): what an entry does with a
packet it takes, the results that leave, stalls and strays. -/

namespace Sys2Proof.Machine

/-! ## Elements and nodes (R254 to R257, R261) -/

/-- Does the format hold floating-point values? -/
def floatFmt (fmt : Nat) : Bool := fmt ≤ 2

/-- The elements of a payload as 32-bit words: bf16 and f16 widened (R254). -/
def flowElems (fmt : Nat) (data : List W8) : List W32 :=
  if fmt = 1 ∨ fmt = 2 then
    (splitCodes 16 (data.length / 2) (natOfBytes data)).map fun c => (widenLane fmt false 127 c).1
  else wordsOf data

/-- The payload of a list of elements: bf16 and f16 converted once (R254). -/
def flowBytes (fmt : Nat) (l : List W32) : List W8 :=
  if fmt = 1 ∨ fmt = 2 then l.flatMap fun w => bytesOf 2 (conv fmt 0 false false 0#32 (ofF32 w)).1
  else l.flatMap fun w => bytesOf 4 w.toNat

/-- The kinds of element node: 0 sum, 1 max, 2 min, 3 or. -/
def flowNode (kind fmt : Nat) (a b : W32) : W32 :=
  match kind with
  | 0 => if floatFmt fmt then (fadd 0 0#32 a b).1 else a + b
  | 1 => if floatFmt fmt then fmax a b else if b.toInt ≤ a.toInt then a else b
  | 2 => if floatFmt fmt then fmin a b else if a.toInt ≤ b.toInt then a else b
  | _ => a ||| b

/-- What a drop marker enters as (R254, R257). -/
def flowIdentity (kind fmt : Nat) : W32 :=
  match kind with
  | 1 => if floatFmt fmt then ninf32 else 0x80000000#32
  | 2 => if floatFmt fmt then pinf32 else 0x7FFFFFFF#32
  | _ => 0#32

/-- The canonical form of a float element (R261). -/
def flowCanon (fmt : Nat) (w : W32) : W32 := if floatFmt fmt then canon w else w

/-- An operand's payload, `none` for a drop marker, in ORD order; the result's payload and whether one of its elements
is NaN or infinite. -/
abbrev Combine := List (Option (List W8)) → Nat → List W8 × Bool

/-- sum, max, min and or (R254), over TREE (R249). -/
def combineTree (kind fmt : Nat) : Combine := fun ops len =>
  let n := if fmt = 1 ∨ fmt = 2 then len / 2 else len / 4
  let xs := ops.map fun o => match o with
    | some d => flowElems fmt d
    | none => List.replicate n (flowIdentity kind fmt)
  let r := (tree (fun a b => List.zipWith (flowNode kind fmt) a b) [] xs).map (flowCanon fmt)
  let out := flowBytes fmt r
  (out, floatFmt fmt && (flowElems fmt out).any nonFinite32)

/-- scan (R249, R257): the sequential fold. -/
def combineScan (kind fmt : Nat) : Combine := fun ops len =>
  let xs := ops.map fun o => match o with
    | some d => flowElems fmt d
    | none => List.replicate (len / 4) (flowIdentity kind fmt)
  let r := match xs with
    | [] => []
    | x :: rest => (rest.foldl (fun a b => List.zipWith (flowNode kind fmt) a b) x).map (flowCanon fmt)
  (flowBytes fmt r, floatFmt fmt && r.any nonFinite32)

/-- wsum (R255). -/
def combineWsum : Combine := fun ops len =>
  let leaf := fun (o : Option (List W8)) => match o with
    | some d =>
      (match wordsOf d with
        | w :: xs => xs.map fun x => (fmul 0 0#32 w x).1
        | [] => [])
    | none => List.replicate (len / 4 - 1) 0#32
  let r := tree (fun a b => List.zipWith (fun x y => (fadd 0 0#32 x y).1) a b) [] (ops.map leaf)
  (flowBytes 0 (one32 :: r), r.any nonFinite32)

/-- merge (R256). -/
def combineMerge : Combine := fun ops len =>
  let triple := fun (o : Option (List W8)) => match o with
    | some d =>
      (match wordsOf d with
        | m :: l :: xs => Triple.mk m l xs
        | _ => Triple.empty 0)
    | none => Triple.empty (len / 4 - 2)
  let t := tree (fun a b => (mergeTriple a b).1) (Triple.empty (len / 4 - 2)) (ops.map triple)
  let t := Triple.mk (canon t.m) (canon t.l) (t.o.map canon)
  (flowBytes 0 (t.m :: t.l :: t.o), t.nonFinite)

/-- The node function of a combining entry. -/
def Entry.combine (x : Entry) : Combine :=
  match x.op with
  | 3 => combineTree 0 x.e.fmt.toNat
  | 4 => combineTree 1 x.e.fmt.toNat
  | 5 => combineTree 2 x.e.fmt.toNat
  | 6 => combineMerge
  | 7 => combineTree 3 x.e.fmt.toNat
  | 8 => combineWsum
  | _ => combineScan x.e.aux.toNat x.e.fmt.toNat

/-! ## Rounds and slots (R248 to R251) -/

/-- Held values of a tree over ORD slots `lo` to `lo + n − 1` of which those in `have_` have come. -/
def treeHeld (have_ : List Nat) : Nat → Nat → Nat → Nat
  | 0, _, _ => 0
  | fuel + 1, lo, n =>
    if (List.range n).all fun k => have_.contains (lo + k) then 1
    else if n ≤ 1 then 0
    else
      let h := halfPow n
      treeHeld have_ fuel lo h + treeHeld have_ fuel (lo + h) (n - h)

/-- Held values of an index: by trees, or for a scan the prefix and those after it (R250). -/
def Entry.heldValues (x : Entry) (n : Nat) (have_ : List Nat) : Nat :=
  if x.op = 9 then
    let pre := ((List.range n).takeWhile fun k => have_.contains k).length
    (if pre = 0 then 0 else 1) + (have_.length - pre)
  else treeHeld have_ 8 0 n

/-- The ORD slots of an index that have come. -/
def Entry.slotsOf (x : Entry) (num : Nat) : List Nat := (x.held.filter (·.num == num)).map (·.slot)

/-- The lowest index that is not complete. -/
def lowestOpen (ready : List Ready) : Nat → Nat → Nat
  | 0, k => k
  | fuel + 1, k => if ready.any (·.num == k) then lowestOpen ready fuel (k + 1) else k

def Entry.low (x : Entry) : Nat := lowestOpen x.ready x.ready.length x.outNum

/-- Slots used beyond the reserve of the lowest open index, were `num` to have the ORD slots `have_` (R250).
(DEDUCED, log 53) -/
def Entry.laterUse (x : Entry) (num : Nat) (have_ : List Nat) : Nat :=
  let n := (ordList x.e.ord).length
  let size := heldSlots x.e.fmt
  let nums := ((x.held.map (·.num)).filter fun k => k != num && k != x.low).eraseDups
  let waiting := (x.ready.filter fun y => y.num != x.outNum).length
  size * ((nums.map fun k => x.heldValues n (x.slotsOf k)).foldl (· + ·) 0 + waiting + x.heldValues n have_)

/-- The reserve of the lowest open index (R250). -/
def Entry.reserve (x : Entry) : Nat := max 1 (((ordList x.e.ord).length - 1) * heldSlots x.e.fmt)

/-- May an operand of an index be accepted (R250)? One of the lowest open index may, unless it completes a result that
must wait for an earlier one. -/
def Entry.accepts (x : Entry) (num : Nat) (have_ : List Nat) : Bool :=
  (num == x.low && (num == x.outNum || have_.length < (ordList x.e.ord).length)) || x.laterUse num have_ + x.reserve ≤ x.e.nslot.toNat + 1

/-- The shortest payload an operand may have (R255, R256). -/
def Entry.minLen (x : Entry) : Nat := if x.op = 8 then 8 else if x.op = 6 then 12 else 0

/-- The result of an index from its operands in ORD order (R248, R251, R261, R263). -/
def Entry.result (x : Entry) (ops : List Held) : Packet :=
  let pk := ops.map (·.pkt)
  let first := pk.headD default
  let len := ((pk.find? fun p => !p.drp).map (·.len)).getD 0
  let drp := pk.all (·.drp)
  let r := if drp then ([], false) else x.combine (pk.map fun p => if p.drp then none else some p.data) len
  { first with
    rsv := 0
    stamp := (pk.drop 1).foldl (fun a p => stampLatest a p.stamp) first.stamp
    hops := pk.foldl (fun a p => if a.toNat < p.hops.toNat then p.hops else a) first.hops
    len := r.1.length
    pl := (r.1.length + 63) / 64
    nf := r.2 || pk.any (·.nf)
    drp := drp
    sig := false
    o := pk.all (·.o)
    data := r.1 }

/-- The ready form of a result with the ports and times of its operands (R434). -/
def readyOf (num : Nat) (p : Packet) (ops : List Held) : Ready :=
  let a := ops.foldl (fun a h => if h.at_ < a.at_ ∨ (h.at_ = a.at_ ∧ h.port < a.port) then h else a) (ops.headD default)
  let b := ops.foldl (fun b h => if b.at_ < h.at_ ∨ (h.at_ = b.at_ ∧ b.port < h.port) then h else b) (ops.headD default)
  ⟨num, p, a.port, b.port, b.at_ - a.at_⟩

/-- nclk since package reset (R3). -/
def State.nclk (s : State) : Nat := 2 * s.dcc

/-- Packets taken from a port. -/
def Entry.taken (x : Entry) (port : Nat) : Nat := SMap.get 0 x.next port

/-- Note a packet taken from a port, and a drop marker (R262). (DEDUCED, log 47) -/
def Entry.take (x : Entry) (port : Nat) (drp : Bool) : Entry :=
  { x with next := SMap.set 0 x.next port (x.taken port + 1), drops := if drp then min 0xFFFF (x.drops + 1) else x.drops }

/-- A combining entry takes an operand (R248 to R251): its sequence is checked first, then its length, then the free slots.
(DESIGN CHOICE, log 155) -/
def combineStep (s : State) (r : Nat) (x : Entry) (port : Nat) (p : Packet) : FlowAns :=
  let num := x.taken port
  let n := flowPackets x.e
  let ord := ordList x.e.ord
  let slot := ord.findIdx (· == port)
  if p.pidx.toNat ≠ num % n then .fault cFLOW 2 s
  else if !p.drp && (p.len < x.minLen || x.held.any fun h => h.num == num && !h.pkt.drp && h.pkt.len != p.len) then
    .fault cFLOW 3 s
  else
    let have_ := slot :: x.slotsOf num
    if !x.accepts num have_ then .wait s
    else
      let held := x.held ++ [⟨num, slot, port, s.nclk, p⟩]
      .ok (s.onEntry r x.e.part.toNat x.e.fid.toNat fun y =>
        let y := y.take port p.drp
        if have_.length < ord.length then { y with held := held }
        else
          let ops := (List.range ord.length).filterMap fun k => held.find? fun h => h.num == num && h.slot == k
          { y with
            held := held.filter (·.num != num)
            ready := y.ready ++ [readyOf num (x.result ops) ops]
            waited := if num = x.low then 0 else y.waited })

/-! ## The other operations (R252, R253, R258 to R260) -/

/-- fwd and dup (R252). -/
def passStep (s : State) (r : Nat) (x : Entry) (port : Nat) (p : Packet) : FlowAns :=
  if x.e.npkt ≠ 0#16 ∧ p.pidx.toNat ≠ x.taken port % x.e.npkt.toNat then .fault cFLOW 2 s
  else match sendResult s r x true p port port 0 with
    | .ok s => .ok (s.onEntry r x.e.part.toNat x.e.fid.toNat fun y => y.take port p.drp)
    | a => a

/-- deliver, fadd and iadd (R253, R260). They check no sequence, nor PIDX against NPKT; no more do hold and drop.
(DESIGN CHOICE, log 144) -/
def deliverStep (kind : Nat) (s : State) (r : Nat) (x : Entry) (port : Nat) (p : Packet) : FlowAns :=
  match deliverPacket s r x kind p with
  | .ok s =>
    let s := s.onEntry r x.e.part.toNat x.e.fid.toNat fun y => { y.take port p.drp with done := y.done + 1 }
    .ok (traceResult s r x p.pidx.toNat port port 0)
  | a => a

/-- drop (R253): each packet counts once in DROPS, a drop marker too. (DESIGN CHOICE, log 143) -/
def dropStep (s : State) (r : Nat) (x : Entry) (port : Nat) (_p : Packet) : FlowAns :=
  .ok (s.onEntry r x.e.part.toNat x.e.fid.toNat fun y => y.take port true)

/-- The 64 outputs of a transposed block (R258). -/
def trnOutputs (num : Nat) (ops : List Held) : List Ready :=
  let pk := ops.map (·.pkt)
  let ws := pk.map fun p => wordsOf p.data
  let first := pk.headD default
  tab 64 fun j =>
    let data := ws.flatMap fun l => bytesOf 4 (l.getD j 0#32).toNat
    readyOf (num + j) { first with
      rsv := 0
      stamp := (pk.drop 1).foldl (fun a p => stampLatest a p.stamp) first.stamp
      hops := pk.foldl (fun a p => if a.toNat < p.hops.toNat then p.hops else a) first.hops
      pidx := BitVec.ofNat 16 j
      ofs := BitVec.ofNat 24 (4 * pk.length * j)
      len := data.length
      pl := (data.length + 63) / 64
      nf := pk.any (·.nf)
      drp := false
      sig := false
      o := pk.all (·.o)
      data := data } ops

/-- trn (R258). -/
def trnStep (s : State) (r : Nat) (x : Entry) (port : Nat) (p : Packet) : FlowAns :=
  let h := x.e.npkt.toNat
  let num := x.taken port
  if p.pidx.toNat ≠ num % h then .fault cFLOW 2 s
  else if p.drp ∨ p.len ≠ 256 then .fault cFLOW 3 s
  else if x.held.length + h * ((x.ready.length + 63) / 64) ≥ x.e.nslot.toNat + 1 then .wait s
  else
    let held := x.held ++ [⟨num, 0, port, s.nclk, p⟩]
    .ok (s.onEntry r x.e.part.toNat x.e.fid.toNat fun y =>
      let y := y.take port false
      if held.length < h then { y with held := held }
      else { y with held := [], ready := y.ready ++ trnOutputs (x.outNum + x.ready.length) held })

/-- Release held packets in their arrival order (R259). A fault concerns the held packet: its own arrival port and PIDX
are recorded (R266). -/
def releaseHeld (r part fid port : Nat) : List (Nat × Packet) → State → FlowAns
  | [], s => .ok s
  | (from_, p) :: ps, s =>
    match s.entry r part fid with
    | none => .ok s
    | some x =>
      match sendResult s r x true p port port 0 with
      | .ok s => releaseHeld r part fid port ps (s.onEntry r part fid fun y => { y with store := y.store.drop 1 })
      | .fault c why a => .raised (routerFault a r c why part from_ p.pidx.toNat fid)
      | a => a

/-- The translations that a step in vain has asked for or taken stay (R279). -/
def State.keepWalks (s a : State) : State :=
  { s with walks := a.walks, failed := a.failed, tlbs := a.tlbs, ccaches := a.ccaches }

/-- What follows the release of held packets: the signal is sent on, or absorbed and counted (R259). -/
def signalStep (s : State) (r : Nat) (x : Entry) (port : Nat) (p : Packet) : FlowAns :=
  if bitAt x.e.aux.toNat 0 then
    let q := outPacket s r x true p
    if !s.mayLeave r x q then .wait s
    else
      let s := (portList x.e.opm).foldl (fun s out => sendOn s r port out q) s
      .ok (s.onEntry r x.e.part.toNat x.e.fid.toNat fun y =>
        { y.take port false with nf := y.nf || p.nf, outSeq := if x.e.opm = 0#7 then y.outSeq else y.outSeq + 1 })
  else match deliverPacket s r x 0 p with
    | .ok s => .ok (s.onEntry r x.e.part.toNat x.e.fid.toNat fun y => y.take port false)
    | a => a

/-- hold (R259): what an update flow brought before a marker leaves at the marker (R374). The packets held are those that
the entry has as it takes the signal. (DESIGN CHOICE, log 142) -/
def holdStep (s : State) (r : Nat) (x : Entry) (port : Nat) (p : Packet) : FlowAns :=
  let part := x.e.part.toNat
  let fid := x.e.fid.toNat
  if p.sig then
    match releaseHeld r part fid port x.store s with
    | .ok s' =>
      (match s'.entry r part fid with
        | none => .ok s'
        | some x => match signalStep s' r x port p with
          | .wait a => .wait (s.keepWalks a)
          | a => a)
    | .wait a => .wait (s.keepWalks a)
    | a => a
  else if x.store.length ≥ x.e.nslot.toNat + 1 then .wait s
  else .ok (s.onEntry r part fid fun y => { y.take port p.drp with store := y.store ++ [(port, p)] })

/-- What an entry does with a packet (R252 to R260). -/
def opStep (s : State) (r : Nat) (x : Entry) (port : Nat) (p : Packet) : FlowAns :=
  if flowDelivers x.e && !s.resident r x then .wait s
  else match x.op with
    | 1 => passStep s r x port p
    | 2 => passStep s r x port p
    | 10 => trnStep s r x port p
    | 11 => holdStep s r x port p
    | 12 => deliverStep 0 s r x port p
    | 13 => deliverStep 1 s r x port p
    | 14 => deliverStep 2 s r x port p
    | 15 => dropStep s r x port p
    | _ => combineStep s r x port p

/-! ## Arrival (R241, R265, R391) -/

/-- Is the head of the focus channel the least by key among the drove heads of the router's inputs (R391)? -/
def State.leastHead (s : State) (p : Packet) : Bool :=
  let r := s.router s.focus.router
  (0 :: r.droveIn).all fun port =>
    match r.headOf port 8 with
    | some q => q.part != p.part || !keyBefore q p
    | none => true

/-- How a drove packet may enter the reorder store now (R391): in the share beyond what the die's entries reserve
(false), or as the least of its router's heads in what the entries of that router reserve (true). -/
def State.droveRoom (s : State) (p : Packet) : Option Bool :=
  let x := s.router s.focus.router
  let die := routerDie s.focus.router
  let reserve := 320 * (x.entries.filter fun y => y.droveDelivers p.part).length
  if s.droveUsed die p.part + p.bytes + s.droveReserved die p.part ≤ s.droveShare p.part then some false
  else if s.leastHead p && decide (x.reserveUsed p.part + p.bytes ≤ reserve) &&
      decide (s.droveUsed die p.part + s.reserveUsed die p.part + p.bytes ≤ s.droveShare p.part) then some true
  else none

/-- The answer of an entry to the packet at the head of the channel, made a state. -/
def flowDone (s : State) (r part port : Nat) (p : Packet) : FlowAns → State
  | .wait a => a
  | .fault c why a => routerFault a r c why part port p.pidx.toNat p.fid.toNat
  | .raised a => a
  | .ecc a => routerEcc a r part
  | .ok a => { a with focus := s.focus }.takePacket

/-- A packet at the head of the focus channel meets an entry of an op: it enters the reorder store, or the entry takes
it, or it waits (R241, R250, R391). -/
def flowOp (op : Nat) (e : FlowEntry) (s : State) : Out :=
  let r := s.focus.router
  let port := s.focus.port
  .next (match s.meet with
    | .entry p x =>
      if x.op ≠ op ∨ x.e ≠ e then s
      else if p.o && (flowDelivers x.e || x.op == 11) then
        (if flowDelivers x.e && !s.resident r x then s
        else match s.droveRoom p with
          | some b => (s.onEntry r x.e.part.toNat x.e.fid.toNat fun y =>
              { y with reorder := y.reorder ++ [⟨port, p, 0, b⟩] }).takePacket
          | none => s)
      else flowDone s r p.part port p (opStep s r x port p)
    | .ecc p => if (s.entry r p.part p.fid.toNat).map (fun x => (x.op, x.e)) = some (op, e) then
        routerEcc s.takePacket r p.part else s
    | .range p => if (s.entry r p.part p.fid.toNat).map (fun x => (x.op, x.e)) = some (op, e) then
        droveFault s r 2 p.part port p.stamp else s
    | .fault p why => if (s.entry r p.part p.fid.toNat).map (fun x => (x.op, x.e)) = some (op, e) then
        routerFault s r cFLOW why p.part port p.pidx.toNat p.fid.toNat else s
    | _ => s)

/-- fwd (R252). -/
def execFwd (e : FlowEntry) (s : State) : Out := flowOp 1 e s
/-- dup (R252). -/
def execDup (e : FlowEntry) (s : State) : Out := flowOp 2 e s
/-- sum (R254). -/
def execSum (e : FlowEntry) (s : State) : Out := flowOp 3 e s
/-- max (R254). -/
def execFlowMax (e : FlowEntry) (s : State) : Out := flowOp 4 e s
/-- min (R254). -/
def execFlowMin (e : FlowEntry) (s : State) : Out := flowOp 5 e s
/-- merge (R256). -/
def execMerge (e : FlowEntry) (s : State) : Out := flowOp 6 e s
/-- or (R254). -/
def execFlowOr (e : FlowEntry) (s : State) : Out := flowOp 7 e s
/-- wsum (R255). -/
def execWsum (e : FlowEntry) (s : State) : Out := flowOp 8 e s
/-- scan (R257). -/
def execScan (e : FlowEntry) (s : State) : Out := flowOp 9 e s
/-- trn (R258). -/
def execTrn (e : FlowEntry) (s : State) : Out := flowOp 10 e s
/-- hold (R259). -/
def execHold (e : FlowEntry) (s : State) : Out := flowOp 11 e s
/-- deliver (R253). -/
def execDeliver (e : FlowEntry) (s : State) : Out := flowOp 12 e s
/-- fadd (R260). (DEDUCED, log 50) -/
def execFadd (e : FlowEntry) (s : State) : Out := flowOp 13 e s
/-- iadd (R260). -/
def execIadd (e : FlowEntry) (s : State) : Out := flowOp 14 e s
/-- drop (R253). -/
def execDrop (e : FlowEntry) (s : State) : Out := flowOp 15 e s

/-- STRAY_PACKET (R239, R240, R389, R391): the packet at the head of the focus channel finds no entry; one that the
router may not take faults. -/
def execStrayPacket (s : State) : Out :=
  let r := s.focus.router
  .next (match s.meet with
    | .stray p => strayIn s.takePacket r s.focus.port p
    | .fault p why =>
      if (s.entry r p.part p.fid.toNat).isNone then
        routerFault s r cFLOW why p.part s.focus.port p.pidx.toNat p.fid.toNat else s
    | .range p => if (s.entry r p.part p.fid.toNat).isNone then droveFault s r 2 p.part s.focus.port p.stamp else s
    | .ecc p => if (s.entry r p.part p.fid.toNat).isNone then routerEcc s.takePacket r p.part else s
    | _ => s)

/-- ROUND_RESULT_SEND (R248, R258): the next result of the entry of the focus partition and flow (`focus.idx`)
leaves. -/
def execRoundResultSend (s : State) : Out :=
  let r := s.focus.router
  let part := s.focus.part
  let fid := s.focus.idx
  .next (match s.entry r part fid with
    | none => s
    | some x =>
      if (s.router r).stopped.contains part then s
      else if (s.router r).badFid.contains (part, fid) && x.ready.any (·.num == x.outNum) then routerEcc s r part
      else match x.ready.find? (·.num == x.outNum) with
        | none => s
        | some y =>
          match sendResult s r x false y.pkt y.first y.last y.gap with
          | .ok s => s.onEntry r part fid fun z =>
              { z with ready := z.ready.filter (·.num != x.outNum), outNum := z.outNum + 1 }
          | a => match a with
            | .wait a => a
            | .fault c why a => routerFault a r c why part 7 y.pkt.pidx.toNat fid
            | .raised a => a
            | .ecc a => routerEcc a r part
            | .ok a => a)

/-- The lowest unfinished PIDX of an entry (R265): of a trn, which takes a block at a time, the block's first. -/
def Entry.stalledPidx (x : Entry) : Nat := if x.op = 10 then 0 else x.low % flowPackets x.e

/-- FLOW_STALL (R265): an entry whose lowest unfinished index has waited past the limit. (DESIGN CHOICE, log 96) -/
def execFlowStall (s : State) : Out :=
  let r := s.focus.router
  let part := s.focus.part
  let fid := s.focus.idx
  .next (match s.entry r part fid with
    | none => s
    | some x =>
      if x.waited > 2 ^ s.stallK ∧ !(s.router r).stopped.contains part then
        routerFault s r cFLOW 5 part 7 x.stalledPidx fid
      else s)

/-- Does the entry's lowest unfinished index wait (R265): a round of a combining entry is in progress, whether or not an
operand of that index has come (R397), or a trn has part of a block? (DEDUCED, log 146) -/
def Entry.waiting (x : Entry) : Bool :=
  if combining x.op then x.next.any fun p => p.2 % flowPackets x.e != 0 || p.2 != x.low
  else x.op == 10 && !x.held.isEmpty

/-- Does a packet wait at a hold entry whose slots are full (R259, R265)? (DEDUCED, log 146) -/
def Router.holdWaits (r : Router) (x : Entry) : Bool :=
  x.op == 11 && decide (x.e.nslot.toNat + 1 ≤ x.store.length) &&
  (!x.reorder.isEmpty || (portList x.e.ipm).any fun port => [x.e.part.toNat, 8].any fun ch =>
    ((r.headOf port ch).map fun p => x.is p.part p.fid.toNat && !p.sig) == some true)

/-- A read of a router's stray queue at an offset (R426): a read at 0x238 pops the oldest packet. -/
def strayRead (s : State) (r off : Nat) : State :=
  let part := bits (s.router r).esel.toNat 22 20
  if off = 0x238 then
    s.onRouter r fun x =>
      let q := x.strayOf part
      { x with stray := SMap.put x.stray part { q with pkts := q.pkts.drop 1 } }
  else s

/-- The 8 bytes that a read of the stray queue answers (R426). -/
def strayWord (s : State) (r off : Nat) : Nat :=
  match ((s.router r).strayOf (bits (s.router r).esel.toNat 22 20)).pkts with
  | [] => 0
  | p :: _ =>
    let k := (off - 0x100) / 8
    ((p.flits.getD (k / 8) 0).toNat / 2 ^ (64 * (k % 8))) % 2 ^ 64

/-- STRAY_QUEUE_READ (R426). -/
def execStrayQueueRead (router off : Nat) (s : State) : Out := .next (strayRead s router off)

end Sys2Proof.Machine
end

