-- ==== Sys2Proof/Machine/Pod.lean ====
section
/-! DEFINITION. The pod (14_pod.md R376 to R401): watermarks and bellwethers, the release of drove packets, time
transfer, the scale-up links and the Ethernet tunnels. -/

namespace Sys2Proof.Machine

/-! ## Watermarks (R388) -/

/-- One below a stamp. -/
def stampPrev (a : BitVec 48) : BitVec 48 := a - 1#48

/-- Lower a bound by the drove packets of a partition in a list. -/
def boundBy (part : Nat) (l : List Packet) (w : BitVec 48) : BitVec 48 :=
  l.foldl (fun w p => if p.o && p.part == part then stampMin w (stampPrev p.stamp) else w) w

/-- Lower a bound by the drove flits of a partition that wait at a scale-up port. -/
def boundFlits (part : Nat) (l : List OutFlit) (w : BitVec 48) : BitVec 48 :=
  l.foldl (fun w f => if f.cls = 8 && f.kind == 0 && f.part == part then stampMin w (stampPrev f.stamp) else w) w

/-- The drove packet of which a port of a router has received the header and not yet all flits. -/
def State.partlyDrove (s : State) (r port : Nat) : List Packet :=
  match (if port = 6 then scaleUpPort r else none) with
  | some n => (((SMap.find (s.port n).partly 8).getD []).take 1).map fun h => packetOf h.toNat []
  | none => []

/-- The local term L of a router and partition. -/
def State.localMark (s : State) (r part : Nat) : BitVec 48 :=
  boundBy part ((s.router r).inputs 0 8) (stampPrev (s.ptc.setWidth 48))

/-- The input watermark of a drove input port; `none` before one has come. -/
def State.inputMark (s : State) (r part port : Nat) : Option (BitVec 48) :=
  (SMap.find (s.router r).wmIn (8 * port + part)).map fun w =>
    boundBy part ((s.router r).inputs port 8 ++ s.partlyDrove r port) w

/-- D (R391): the least of L and every drove input's watermark. -/
def State.passed (s : State) (r part : Nat) : Option (BitVec 48) :=
  (s.router r).droveIn.foldl (fun a port => match a, s.inputMark r part port with
    | some a, some w => some (stampMin a w)
    | _, _ => none) (some (s.localMark r part))

/-- The packets that an entry has accepted. -/
def Entry.accepted (x : Entry) : List Packet :=
  x.held.map (·.pkt) ++ x.ready.map (·.pkt) ++ x.store.map (·.2) ++ x.reorder.map (·.pkt)

/-- Does an entry send what it accepts to the port; on any port for `none`? -/
def Entry.leaves (x : Entry) : Option Nat → Bool
  | some port => bitAt x.e.opm.toNat port
  | none => x.e.opm.toNat != 0

/-- Every router of the package (R233). -/
def allRouters : List Nat := (List.range 0x600).filter routerExists

/-- What a router of the package holds against the watermarks of a partition (R388): its local term, the drove packets
that have arrived and are not accepted, its accepted packets that may still leave, queued for a link or in an entry, and
what a scale-up link last brought. `out` is the port asked for at the router that sends, `none` at the others. -/
def State.routerMark (s : State) (r part : Nat) (out : Option Nat) : Option (BitVec 48) :=
  let x := s.router r
  let w := (List.range 6).foldl (fun w i =>
    let w := boundBy part (x.inputs (i + 1) 8 ++ s.partlyDrove r (i + 1)) w
    if out = none ∨ out = some (i + 1) then boundBy part ((x.outputs (i + 1) 8).map (·.pkt)) w else w) (s.localMark r part)
  let w := match (if out = none ∨ out = some 6 then scaleUpPort r else none) with
    | some n => boundFlits part (s.port n).waiting w
    | none => w
  let w := x.entries.foldl (fun w e => if e.leaves out then boundBy part e.accepted w else w) w
  if x.droveIn.contains 6 ∧ out != some 6 then
    (SMap.find x.wmIn (8 * 6 + part)).map (stampMin w)
  else some w

/-- The output watermark of a port (R388). The minimum over the drove inputs is taken through the package's routers to
its end: every router but the one the port leads to bounds it. A mark that the far side would only hand back is left
out, since with it no watermark could ever advance. (DEDUCED, log 55) -/
def State.outputMark (s : State) (r part port : Nat) : Option (BitVec 48) :=
  let far := (neighbour r port).map (·.1)
  (allRouters.filter fun r' => some r' != far).foldl (fun a r' =>
    match a, s.routerMark r' part (if r' = r then some port else none) with
    | some a, some w => some (stampMin a w)
    | _, _ => none) (some (s.localMark r part))

/-! ## Bellwethers (R388 to R390) -/

/-- A bellwether with the given watermarks (R390). -/
def bellwether (ws : List (Option (BitVec 48))) (leave : Bool) : BitVec 512 :=
  let vq := ofMaskGo (ws.map (·.isSome))
  let wm := ws.foldr (fun w a => a * 2 ^ 48 + (w.getD 0).toNat) 0
  BitVec.ofNat 512 (if leave then 2 ^ 503 else vq % 256 * 2 ^ 504 + wm)

/-- A control flit takes a drove slot of a port: for the neighbour, or on the scale-up link. -/
def sendBell (s : State) (r port : Nat) (f : BitVec 512) : State :=
  match neighbour r port with
  | some (r', port') =>
    let s := s.onRouter r fun x => { x with bellDcc := SMap.put x.bellDcc port s.dcc }
    { s with agenda := .row s.focus (.bellwetherArrive r' port' f) :: s.agenda }
  | none => match scaleUpPort r with
    | some n => s.linkQueue n [⟨8, 1, 0, 0, false, f⟩]
    | none => s

/-- Has a port a drove slot for a bellwether in this clk (R340, R390), and would the slot be idle? On a scale-up link a
bellwether waits for its slot in the port, one at a time. -/
def State.bellSlot (s : State) (r port : Nat) : Bool × Bool :=
  match scaleUpPort r, port with
  | some n, 6 =>
    let l := (s.port n).waiting
    (!(l.any fun w => w.kind == 1), !(freeFlits (s.router r).stopped [] l).any fun w => w.cls == 8)
  | _, _ =>
    let x := s.router r
    (s.linkSlot r port 0 == 8 || s.linkSlot r port 1 == 8,
     !(x.outputs port 8).any fun y => !x.stopped.contains y.pkt.part)

/-- BELLWETHER_SEND (R389, R390): the router and port of the focus, in a drove slot: once 256 ns have passed since the
last, and before that in a slot that would be idle while a watermark has moved; a leave bellwether once after EN has been
cleared. -/
def execBellwetherSend (s : State) : Out :=
  let r := s.focus.router
  let port := s.focus.port
  let x := s.router r
  .next (
    if !s.drovePort r port || !(s.bellSlot r port).1 then s
    else if !s.droveOn then
      if x.droveOut.contains port then
        sendBell (s.onRouter r fun x => { x with
          droveOut := x.droveOut.erase port, wmSent := x.wmSent.filter fun w => w.1 / 8 != port }) r port (bellwether [] true)
      else s
    else
      let ws := tab 8 fun q => s.outputMark r q port
      let moved := (List.range 8).any fun q => ws.getD q none != SMap.find x.wmSent (8 * port + q)
      let due := 1024 ≤ (s.ptc - SMap.get 0 x.bellAt port).toNat
      if x.droveOut.contains port ∧ !due ∧ !(moved && (s.bellSlot r port).2) then s
      else
        let sent := (List.range 8).foldl (fun m q => match ws.getD q none with
          | some w => SMap.put m (8 * port + q) w
          | none => m) x.wmSent
        sendBell (s.onRouter r fun x => { x with
          droveOut := if x.droveOut.contains port then x.droveOut else x.droveOut ++ [port]
          wmSent := sent
          bellAt := SMap.put x.bellAt port s.ptc }) r port (bellwether ws false))

/-- A router takes a bellwether at a port (R388, R390). -/
def Router.takeBell (port : Nat) (flit : BitVec 512) (x : Router) : Router :=
  if bitAt flit.toNat 503 then
    { x with droveIn := x.droveIn.erase port, wmIn := x.wmIn.filter fun w => w.1 / 8 != port }
  else
    { x with
      droveIn := if x.droveIn.contains port then x.droveIn else x.droveIn ++ [port]
      wmIn := (List.range 8).foldl (fun m q =>
        if bitAt flit.toNat (504 + q) then
          SMap.put m (8 * port + q) (BitVec.ofNat 48 (bits flit.toNat (48 * q + 47) (48 * q)))
        else m) x.wmIn }

/-- BELLWETHER_ARRIVE (R388, R390). -/
def execBellwetherArrive (router port : Nat) (flit : BitVec 512) (s : State) : Out :=
  .next (s.onRouter router fun x => x.takeBell port flit)

/-! ## Release and stall (R391, R394) -/

/-- The drove packets of a partition in the router's reorder store, with their entries. -/
def Router.reordered (x : Router) (part : Nat) : List (Entry × DrovePkt) :=
  x.entries.flatMap fun e => if e.e.part.toNat = part then e.reorder.map fun d => (e, d) else []

/-- The least of them by key. -/
def leastDrove : List (Entry × DrovePkt) → Option (Entry × DrovePkt)
  | [] => none
  | a :: rest =>
    match leastDrove rest with
    | none => some a
    | some b => if keyBefore b.2.pkt a.2.pkt then some b else some a

/-- Is a drove result of the partition waiting to be delivered at the router? Deliveries follow the drove order over all
its entries, so no later packet is released before it (R373). -/
def Router.owesDelivery (x : Router) (part : Nat) : Bool :=
  x.entries.any fun e => e.e.part.toNat == part && flowDelivers e.e && e.ready.any fun y => y.num == e.outNum && y.pkt.o

/-- DROVE_RELEASE (R373, R391): the least accepted packet of the focus partition at the focus router, once D has reached
its stamp and what was released before it is delivered, is taken by its entry. All receivers take updates and markers in
this one order, so the later of two updates of a block stands everywhere, and which updates precede a marker is the same
at each (R374). -/
def execDroveRelease (s : State) : Out :=
  let r := s.focus.router
  let part := s.focus.part
  .next (match leastDrove ((s.router r).reordered part), s.passed r part with
    | some (x, d), some w =>
      if (s.router r).stopped.contains part || stampBefore w d.pkt.stamp || (s.router r).owesDelivery part then s
      else if (s.router r).badFid.contains (part, x.e.fid.toNat) then routerEcc s r part
      else match opStep s r x d.port d.pkt with
        | .ok s => s.onEntry r part x.e.fid.toNat fun y => { y with reorder := y.reorder.erase d }
        | .wait a => a
        | .fault c why a => routerFault a r c why part d.port d.pkt.pidx.toNat d.pkt.fid.toNat
        | .raised a => a
        | .ecc a => routerEcc a r part
    | _, _ => s)

/-- LIMIT in pod-time units (R389). -/
def State.droveLimit (s : State) : Nat := bits s.drovecfg.toNat 47 32 * 4000

/-- DROVE_STALL (R391): an accepted packet of the focus partition that has waited LIMIT. -/
def execDroveStall (s : State) : Out :=
  let r := s.focus.router
  let part := s.focus.part
  let late := ((s.router r).reordered part).filter fun x =>
    let w := (s.ptc.setWidth 48 - x.2.pkt.stamp).toNat
    decide (w < 2 ^ 47) && decide (s.droveLimit + x.2.paused ≤ w)
  .next (match leastDrove late with
    | some (_, d) =>
      if (s.part part).halt.isSome || (s.router r).stopped.contains part then s
      else droveFault s r 1 part d.port d.pkt.stamp
    | none => s)

/-! ## DROVECFG (R385, R389) -/

/-- Does the FI of a tile hold a drove packet that it has not injected? -/
def Tile.fiDrove (t : Tile) : Bool :=
  let drove := fun (p : Posting) => match p with
    | .fsend _ _ _ _ o => o
    | _ => false
  (t.fi.pq.any fun p => drove p.what) ||
  match t.fi.run with
  | none => false
  | some r =>
    (r.send.map drove).getD false ||
    (match r.instr with
      | some (.fsnd x) => flowO x.od1
      | some (.fsig x) => flowO x.od1
      | some (.fdrp x) => flowO x.od1
      | _ => false)

/-- Does the router hold a drove entry or a drove packet? -/
def Router.droveBusy (x : Router) : Bool :=
  x.entries.any (fun e => e.e.drv || e.accepted.any (·.o)) || x.inq.any (fun q => q.2.any (·.o)) ||
  x.outq.any fun q => q.2.any (·.pkt.o)

/-- Do flits of a drove packet wait at a scale-up port, or have some of one come in there? -/
def Port.droveBusy (x : Port) : Bool :=
  (x.waiting.any fun f => f.cls == 8 && f.kind == 0) || !((SMap.find x.partly 8).getD []).isEmpty

/-- The total of the reorder shares, in units (R389). -/
def shareTotal (v : Nat) : Nat := (List.range 8).foldl (fun n q => n + bits v (4 * q + 3) (4 * q)) 0

/-- A write of DROVECFG: `none` where it is refused (R385, R389). -/
def State.writeDrovecfg (s : State) (v : W64) : Option State :=
  let on := bitAt v.toNat 63
  let root := bitAt s.podcfg.toNat 63
  let busy := s.routers.any (fun r => r.2.droveBusy) || s.ports.any (fun x => x.2.droveBusy) || s.tiles.any fun t => t.2.fiDrove
  if bits v.toNat 47 32 = 0 ∨ shareTotal v.toNat > 16 then none
  else if on ∧ !s.droveOn ∧ !s.everLocked ∧ !root then none
  else if !on ∧ s.droveOn ∧ busy then none
  else some { s with drovecfg := v &&& 0x8000FFFFFFFFFFFF#64 }

/-- DROVECFG_WRITE (R389, R425): from a secure queue; a refused write changes nothing. -/
def execDrovecfgWrite (queue : Nat) (v : BitVec 64) (s : State) : Out :=
  .next (if queue < 8 then s else (s.writeDrovecfg v).getD s)

/-! ## Time transfer (R380 to R385) -/

/-- The port toward the root, for a package that is not the root (R381). -/
def State.parentPort (s : State) : Option Nat :=
  if bitAt s.podcfg.toNat 63 then none else some (bits s.podcfg.toNat 62 56)

/-- SYNCST (R384). -/
def syncWord (lock loss : Bool) (exch ofs : Nat) : W64 :=
  BitVec.ofNat 64 (b2n lock * 2 ^ 63 + b2n loss * 2 ^ 62 + exch % 2 ^ 16 * 2 ^ 32 + ofs % 2 ^ 32)

def State.locked (s : State) : Bool := bitAt s.syncst.toNat 63

/-- The lock is lost (R383): LOSS shows it, and an event of kind 5 is posted. -/
def loseLock (s : State) : State :=
  if !s.locked then { s with streak := 0 }
  else
    let w := syncWord false true (bits s.syncst.toNat 47 32) (bits s.syncst.toNat 31 0)
    ({ s with syncst := w, streak := 0 } : State).sysEvent 0 (packageEvent 0 5 0 w)

/-- TIME_FLIT_SEND (R382): the up link of the focus port, every 4,096 units; the flit is stamped as it leaves, and while
one waits for its slot no other is queued. -/
def execTimeFlitSend (s : State) : Out :=
  let p := s.focus.port
  let x := s.port p
  let due := match x.timeSent with
    | some t => decide (4096 * 64 ≤ (s.now54 - t).toNat)
    | none => true
  .next (
    if !x.up || !due || x.waiting.any (fun f => f.kind == 2) then s
    else (s.onPort p fun x => { x with timeSent := some s.now54 }).linkQueue p [⟨10, 2, 0, 0, false, 0⟩])

/-- The largest slew of 4,096 units, in PTCF units: 2 parts in 10,000 (R380). -/
def slewBound : Int := 52

/-- A port's own stamps after PTC has stepped by `d`. -/
def Port.shift (d : BitVec 54) (x : Port) : Port :=
  { x with
    timeSent := x.timeSent.map (· + d)
    stamps := x.stamps.map fun y => (y.1, y.2 + d)
    unanswered := x.unanswered.map fun y => (y.1 + d, y.2.map fun z => (z.1, z.2 + d))
    echoed := x.echoed.map fun y => (y.1, y.2 + d) }

/-- The first lock after reset steps PTC to the parent's; PTC does not decrease (R380, R385). (DEDUCED, log 60) -/
def stepPtc (s : State) (ofs : Int) : State :=
  let t := max ((s.ptc.toNat * 64 + s.ptcf.toNat : Nat) - ofs) ((s.ptc.toNat * 64 : Nat) : Int)
  let d := BitVec.ofInt 54 t - s.now54
  { s with
    ptc := BitVec.ofInt 64 (t / 64), ptcf := BitVec.ofInt 6 t, servo := 0, slewLeft := 0, everLocked := true
    ports := s.ports.each (Port.shift d) }

/-- An exchange with its offset (R382, R383). The first lock since reset steps PTC (R385), also where the drove class is
enabled because the package was the root before. (DESIGN CHOICE, log 158) -/
def exchanged (s : State) (ofs : Int) : State :=
  let near := ofs.natAbs ≤ 2
  let streak := if near then s.streak + 1 else 0
  let lock := s.locked || decide (16 ≤ streak)
  let s := { s with
    streak := streak
    servo := max (-slewBound) (min slewBound ofs)
    slewLeft := 4096
    syncst := syncWord lock (bitAt s.syncst.toNat 62) (bits s.syncst.toNat 47 32 + 1) (BitVec.ofInt 32 ofs).toNat }
  if lock && !s.everLocked then stepPtc s ofs
  else if s.locked ∧ ofs.natAbs > 64 * 64 then loseLock s
  else s

/-- The flits of this side from the one that an ECHO answers on (R382): none where the far side has received none since
its last flit. The link keeps the order (R378) and both sides send every 4,096 units, so an ECHO answers the oldest flit
not answered, unless the far side has received two since its last flit: then the time between the ECHOs tells
(DEDUCED, log 129). An ECHO of 0 before any other answers none. (DESIGN CHOICE, log 160) -/
def Port.answered (x : Port) (echo : BitVec 54) : List (BitVec 54 × Option (BitVec 54 × BitVec 54)) :=
  match x.echoed with
  | none => if echo = 0 then [] else x.unanswered
  | some (e, t) =>
    if echo = e then [] else x.unanswered.dropWhile fun y => decide (2048 * 64 < ((echo - e) - (y.1 - t)).toInt)

/-- The port takes the far side's stamps; on the PARENT port of a child the ECHO completes the exchange of the flit that it
answers (R382). An odd sum's half is left open. (DESIGN CHOICE, log 59) -/
def State.takeTime (s : State) (port : Nat) (flit : BitVec 512) : State :=
  let x := s.port port
  if !x.up then s
  else
    let tsend := BitVec.ofNat 54 (bits flit.toNat 53 0)
    let t4 := BitVec.ofNat 54 (bits flit.toNat 107 54)
    let now := s.now54
    let s' := s.onPort port fun x => { x with timeRecv := some now, stamps := some (tsend, now) }
    match x.answered t4 with
    | [] => s'
    | (t3, first) :: rest =>
      let s' := s'.onPort port fun x => { x with unanswered := rest, echoed := some (t4, t3) }
      if s.parentPort ≠ some port then s'
      else match first with
        | some (t1, t2) =>
          let a := (t2 - t1).toInt
          let b := (t4 - t3).toInt
          if a.natAbs ≥ 2 ^ 53 ∨ b.natAbs ≥ 2 ^ 53 then s'
          else
            let (h, s') := s'.freeBit
            exchanged s' ((a - b + (if h then 1 else 0)) / 2)
        | none => s'

/-- TIME_FLIT_RECEIVE (R382). -/
def execTimeFlitReceive (port : Nat) (flit : BitVec 512) (s : State) : Out := .next (s.takeTime port flit)

/-! ## The scale-up links (R376, R378) -/

/-- A negative acknowledgement leaves in the port's next link flit. -/
def sendNak (s : State) (p : Nat) : State := emitFlit s p true

/-- The payload bytes of flits. -/
def flitBytes (l : List (BitVec 512)) : List W8 := l.flatMap fun f => bytesOf 64 f.toNat

/-- A slot of a link flit received in order: a router flit joins its packet; a bellwether and a time flit reach the
edge router and the port, in the order of the slots. -/
def linkSlot (s : State) (p cls kind : Nat) (f : BitVec 512) : State :=
  match kind with
  | 0 =>
    let l := (SMap.find (s.port p).partly cls).getD [] ++ [f]
    (match l with
      | h :: rest =>
        if rest.length = bits h.toNat 29 27 then
          (s.onPort p fun x => { x with partly := SMap.del x.partly cls }).putPacket (portRouter p) 6
            (packetOf h.toNat (flitBytes rest))
        else s.onPort p fun x => { x with partly := SMap.put x.partly cls l }
      | [] => s)
  | 1 => s.onRouter (portRouter p) fun x => x.takeBell 6 f
  | 2 => s.takeTime p f
  | _ => s

/-- LINK_FLIT_RECEIVE (R376, R378): corrected, checked, and passed on in sequence; a flit that fails its check is
discarded and a NAK leaves. -/
def execLinkFlitReceive (port : Nat) (flit : BitVec 2048) (s : State) : Out :=
  .next (
    let x := s.port port
    let w := (Config.fecCorrect flit).toNat
    if !x.up then s
    else if (Config.linkCrc (BitVec.ofNat 1664 w)).toNat ≠ bits w 1727 1664 then sendNak s port
    else
      let ack := BitVec.ofNat 12 (bits w 115 104)
      let s := s.onPort port fun x => { x with acked := ack, retries := if ack = x.acked then x.retries else 0 }
      let s := if bitAt w 103 then { s with agenda := .row s.focus (.linkRetry port ack) :: s.agenda } else s
      if bits w 127 116 ≠ x.recvSeq.toNat then s
      else
        (List.range 3).foldl (fun s k =>
          let d := bits w (82 + 6 * k + 5) (82 + 6 * k)
          linkSlot s port (d % 16) (d / 16) (BitVec.ofNat 512 (w / 2 ^ (128 + 512 * k))))
          (s.onPort port fun x => { x with
            recvSeq := x.recvSeq + 1
            credit := SMap.set 0 x.credit (bits w 81 78) (SMap.get 0 x.credit (bits w 81 78) + bits w 77 66) }))

/-- The flits of a retry buffer after a sequence number. -/
def resendFrom (x : Port) (ack : BitVec 12) : List (BitVec 2048) :=
  let n := (x.sendSeq - 1 - ack).toNat
  x.sent.drop (x.sent.length - n)

/-- LINK_RETRY (R378): the flits from ACK + 1 leave again in their order, counted in the field records; after 64
retries of one flit in a row the port goes down instead. -/
def execLinkRetry (port : Nat) (ack : BitVec 12) (s : State) : Out :=
  .next (
    let x := s.port port
    let l := resendFrom x ack
    if !x.up || l.isEmpty then s
    else if 64 ≤ x.retries then { s with agenda := .row { s.focus with port := port } .portDown :: s.agenda }
    else (s.onPort port fun x => { x with wire := x.wire ++ l, retries := x.retries + 1 }).countRecord 7 l.length)

/-- Port `p` is no longer a drove input or output of its edge router (R388). -/
def dropDrove (s : State) (p : Nat) : State :=
  s.onRouter (portRouter p) fun x => { x with
    droveIn := x.droveIn.erase 6, droveOut := x.droveOut.erase 6
    wmIn := x.wmIn.filter fun w => w.1 / 8 != 6, wmSent := x.wmSent.filter fun w => w.1 / 8 != 6 }

/-- PORT_DOWN (R378, R383, R388, R432, R434): the focus port goes down, after 64 failed retries of one flit or when it
loses lane lock. -/
def execPortDown (s : State) : Out :=
  .next (
    let p := s.focus.port
    if !(s.port p).up then s
    else
      let s := s.onPort p fun x => { Port.reset with eseq := x.eseq }
      let s := ((dropDrove s p).countRecord 8 1).sysEvent (p / 36) (packageEvent 0 4 p 0)
      if s.parentPort = some p then loseLock s else s)

/-- PORT_UP (R378, R388, R434): system software brings the focus port up. -/
def execPortUp (s : State) : Out :=
  .next (
    let p := s.focus.port
    if (s.port p).up || 72 ≤ p then s
    else (s.onPort p fun x => { Port.reset with up := true, eseq := x.eseq }).sysEvent (p / 36) (packageEvent 0 4 p 1))

/-! ## Ethernet (R399 to R401) -/

/-- System software sets something of an Ethernet port through the management channel, at a place that R426 does not list
(R400): an MTU below 1,500, a 65th peer and a 257th egress entry are refused. (DESIGN CHOICE, log 128) -/
def Eth.set (e : Eth) : EthSetting → Eth
  | .mtu n => if n < 1500 then e else { e with mtu := n }
  | .udp n => { e with udp := n % 2 ^ 16 }
  | .peer n (some a) =>
    if 64 ≤ n then e else { e with address := SMap.put e.address n a, peers := SMap.put e.peers n Peer.reset }
  | .peer n none => { e with address := SMap.del e.address n, peers := SMap.del e.peers n }
  | .egress k (some peer) =>
    if 64 ≤ peer ∨ ((SMap.find e.egress k).isNone ∧ 256 ≤ e.egress.length) then e
    else { e with egress := SMap.put e.egress k peer }
  | .egress k none => { e with egress := SMap.del e.egress k }

/-- The packets of a datagram's flits. -/
def datagramPackets : Nat → List (BitVec 512) → List Packet
  | 0, _ => []
  | fuel + 1, l =>
    match l with
    | [] => []
    | h :: rest =>
      let n := bits h.toNat 29 27
      if rest.length < n then [] else packetOf h.toNat (flitBytes (rest.take n)) :: datagramPackets fuel (rest.drop n)

/-- Words as flits of 16. -/
def wordFlits : Nat → List W32 → List (BitVec 512)
  | 0, _ => []
  | k + 1, l =>
    if l.isEmpty then []
    else BitVec.ofNat 512 ((l.take 16).foldr (fun w a => a * 2 ^ 32 + w.toNat) 0) :: wordFlits k (l.drop 16)

/-- A datagram as it goes on the wire. -/
def Datagram.out (peer : Nat) (ack : W32) (w : Datagram) : Nat × BitVec 128 × List W32 :=
  (peer, tunnelHeader (BitVec.ofNat 32 w.seq) ack w.part, w.words)

/-- ETH_DATAGRAM_RECEIVE (R399, R400). -/
def execEthDatagramReceive (eth peer : Nat) (header : BitVec 128) (payload : List W32) (s : State) : Out :=
  .next (
    let x := (SMap.find (s.eth eth).peers peer).getD Peer.reset
    if x.down || (SMap.find (s.eth eth).peers peer).isNone then s
    else
      let seq := BitVec.ofNat 32 header.toNat
      let ack := BitVec.ofNat 32 (bits header.toNat 63 32)
      let inOrder := seq == x.recvSeq
      let y := { x with
        window := x.window.filter fun w => 2 ^ 31 ≤ (ack - BitVec.ofNat 32 w.seq).toNat
        recvSeq := if inOrder then x.recvSeq + 1 else x.recvSeq }
      let s := s.onEth eth fun e => { e with peers := SMap.put e.peers peer y }
      let s := sendTunnel eth peer (y.stash.length + 1) s
      if inOrder then
        (datagramPackets 16 (wordFlits payload.length payload)).foldl (fun s p => s.putPacket (ethRouter eth) 6 p) s
      else s)

/-- ETH_RESEND (R400): the peer `focus.idx` of Ethernet port `focus.port`, of which a datagram has waited 50 µs since it was
last sent: it and every later one are resent; after 64 resends of one the tunnel goes down. -/
def execEthResend (s : State) : Out :=
  .next (
    let n := s.focus.port
    match SMap.find (s.eth n).peers s.focus.idx with
    | none => s
    | some x =>
      let early := x.window.takeWhile fun w => decide (w.age < 200000)
      let late := x.window.drop early.length
      if x.down || late.isEmpty then s
      else if late.any fun w => decide (64 ≤ w.resends) then
        (s.onEth n fun e => { e with
          peers := SMap.put e.peers s.focus.idx { x with window := [], stash := [], down := true } }).sysEvent (n / 2)
            (packageEvent 0 4 (72 + n) 0)
      else s.onEth n fun e => { e with
        peers := SMap.put e.peers s.focus.idx { x with
          window := early ++ late.map fun w => { w with age := 0, resends := w.resends + 1 } }
        wire := e.wire ++ late.map (Datagram.out s.focus.idx (x.recvSeq - 1)) })

/-- PTP_EVENT_STAMP (R401, R434): firmware sets the trace clock from the stamp; it is valid from its first lock. -/
def execPtpEventStamp (eth : Nat) (tai : BitVec 64) (lock : Bool) (s : State) : Out :=
  .next (if eth < 4 then { s with trcClock := tai, trcValid := s.trcValid || lock } else s)

end Sys2Proof.Machine
end

