-- ==== Sys2Proof/Machine/Shepherd.lean ====
section
/-! DEFINITION. Work and the shepherd (11_scheduling.md R313 to R337, 04_control_strand.md R129 to R132): admission,
the choice rule, starting a launch, the ends of units, cancels, folds, pre-emption, saving and restoring
(12_faults.md R357 to R360). -/

namespace Sys2Proof.Machine

/-! ## Records (R317 to R319) -/

/-- A field of a unit's record. -/
def WorkUnit.f (u : WorkUnit) (hi lo : Nat) : Nat := bits u.record.toNat hi lo

def WorkUnit.prio (u : WorkUnit) : Nat := u.f 10 8
def WorkUnit.nt (u : WorkUnit) : Nat :=
  if u.f 15 14 = 0 then (u.f 18 16 + 1) * (u.f 21 19 + 1) else 48 * (u.f 24 22 + 1)
def WorkUnit.ftb (u : WorkUnit) : Nat := if u.fold = 0 then 0 else u.f 191 160
def WorkUnit.slice (u : WorkUnit) : Nat := u.f 415 384
def WorkUnit.grace (u : WorkUnit) : Nat := u.f 447 416

/-- Sizes of a task image (R319): code, private and ring regions, code and data bytes, hurdle declarations. -/
def imgCode (h : Nat) : Nat := bits h 95 64
def imgPriv (h : Nat) : Nat := bits h 127 96
def imgRing (h : Nat) : Nat := bits h 159 128
def imgData (h : Nat) : Nat := bits h 191 160
def imgCodeLen (h : Nat) : Nat := bits h 447 416
def imgNhd (h : Nat) : Nat := bits h 15 8
def roundUp64 (n : Nat) : Nat := (n + 63) / 64 * 64
/-- Offsets of the code and of the data in an image. -/
def imgCodeAt (h : Nat) : Nat := roundUp64 (704 + 8 * imgNhd h)
def imgDataAt (h : Nat) : Nat := roundUp64 (imgCodeAt h + imgCodeLen h)
/-- Does a header give a size of code or data beyond that of any image? -/
def imgTooLong (h : Nat) : Bool := 0x180000 < imgCodeLen h || 0x180000 < imgData h
/-- 64-byte pieces of an image; of one that is too long, those before its code. -/
def imgPieces (h : Nat) : Nat := if imgTooLong h then imgCodeAt h / 64 else (imgDataAt h + imgData h + 63) / 64

/-- Reserved bits of an image header (R319). -/
def imgReserved (h : Nat) : Bool :=
  bits h 511 448 != 0 || bits h 415 405 != 0 || bits h 383 383 != 0 || bits h 319 298 != 0 || bits h 255 234 != 0 ||
  bits h 63 16 != 0

/-- Does an image header keep R319 and the sizes of R320? -/
def imgOk (h : Nat) : Bool :=
  let pcs := [bits h 212 192, bits h 233 213, bits h 276 256, bits h 297 277]
  let tails := [bits h 340 320, bits h 361 341, bits h 382 362, bits h 404 384]
  bits h 7 0 == 0x10 && imgNhd h ≤ 128 &&
  imgCode h % 4096 == 0 && 4096 ≤ imgCode h && imgPriv h % 4096 == 0 && 4096 ≤ imgPriv h && imgRing h % 4096 == 0 &&
  imgCodeLen h % 8 == 0 && imgCodeLen h ≤ imgCode h && imgData h ≤ imgPriv h &&
  imgCode h + imgPriv h + imgRing h ≤ 0x180000 &&
  pcs.all (fun p => p < imgCode h && p % 8 == 0) && tails.all fun p => p < imgPriv h && p % 64 == 0

/-- A hurdle declaration: number, scope, target (R319). -/
def hdNo (d : Nat) : Nat := bits d 6 0
def hdScope (d : Nat) : Nat := bits d 9 8
def hdTarget (d : Nat) : Nat := bits d 31 16
/-- The declarations of an image. -/
def hurdleDecls (img : List W8) : List Nat :=
  tab (imgNhd (natOfBytes (img.take 64))) fun k => natOfBytes ((img.drop (704 + 8 * k)).take 8)

/-- Reserved codes of a stream image: RM 5 and 6, FMT 21 to 31 (R44, R177). (DEDUCED, log 63) -/
def streamReserved (r : Nat) : Bool := bits r 9 7 == 5 || bits r 9 7 == 6 || decide (21 ≤ bits r 4 0)

/-- Reserved bits and codes of the stream and ring images and of the hurdle declarations (R319, R320). -/
def imgBodyReserved (img : List W8) : Bool :=
  ((List.range 12).any fun k => streamReserved (natOfBytes ((img.drop (64 + 32 * k)).take 32))) ||
  ((List.range 8).any fun k =>
    let r := natOfBytes ((img.drop (448 + 16 * k)).take 16)
    bits r 63 37 != 0 || bits r 127 96 != 0) ||
  (hurdleDecls img).any fun d => bits d 7 7 != 0 || bits d 15 10 != 0 || bits d 63 32 != 0

/-- A fault of the declarations (R320, reason HURDLE). -/
def hurdlesBad (img : List W8) (ssv : Bool) (ssh : Nat) : Bool :=
  let l := hurdleDecls img
  l.any (fun d => 2 ≤ hdScope d || hdTarget d > (if hdScope d = 0 then 48 else 384) || (ssv && hdNo d == ssh)) ||
  (l.map hdNo).eraseDups.length != l.length

/-- Is a pointer global (R215, R320)? -/
def isGlobal (p : Nat) : Bool := p < 2 ^ 48

/-! ## Reading records and images -/

/-- The header of an image, the blocks before its code, or all of it, by 64-byte pieces of a count that the header
gives. -/
def State.readPart (s : State) (p : Nat) (secure : Bool) (img : Nat) (pieces : Nat → Nat) : Option (List W8) :=
  match s.vreadBytes p secure img 1 with
  | none => none
  | some h => s.vreadBytes p secure img (pieces (natOfBytes h))

/-- Does an uncorrectable error stop the reading of an image's part, of a network program (R294, R320)? -/
def State.partError (s : State) (p : Nat) (secure : Bool) (img : Nat) (pieces : Nat → Nat) : Bool :=
  match s.vreadBytes p secure img 1 with
  | none => s.vreadBytesError p secure img 1
  | some h => s.vreadBytesError p secure img (pieces (natOfBytes h))
def State.netError (s : State) (p : Nat) (secure : Bool) (net : Nat) : Bool :=
  net != 0 && match s.vreadBytes p secure net 1 with
    | none => s.vreadBytesError p secure net 1
    | some h => s.vreadBytesError p secure net (Config.netPieces h)

/-- The bytes of an image. -/
def State.readImage (s : State) (p : Nat) (secure : Bool) (img : Nat) : Option (List W8) :=
  s.readPart p secure img imgPieces

/-- The bytes of a network program; nothing where NET is 0. -/
def State.readNet (s : State) (p : Nat) (secure : Bool) (net : Nat) : Option (List W8) :=
  if net = 0 then some []
  else match s.vreadBytes p secure net 1 with
    | none => none
    | some h => s.vreadBytes p secure net (Config.netPieces h)

/-- The record that a submitter hands over, as a number with its bytes; `none` where it cannot be read (R126, R320). -/
def State.readRecord (s : State) (i : Incoming) (n : Nat) : Option Nat :=
  match i.words with
  | some l => if l.length < n / 8 then none else some (natOfBytes ((l.take (n / 8)).flatMap fun w => bytesOf 8 w.toNat))
  | none =>
    if bits i.ptr.toNat 63 60 = 9 then
      let t := s.tile (bits i.ptr.toNat 56 48)
      let a := bits i.ptr.toNat 20 0
      if a + n > 0x180000 ∨ t.spBad a n then none else some (Mem.readN t.sp a n)
    else (s.vreadBytes i.part i.secure (i.ptr.toNat % 2 ^ 48) (n / 64)).map natOfBytes

/-- Does an uncorrectable error stop the reading of a record? -/
def State.recordError (s : State) (i : Incoming) (n : Nat) : Bool :=
  match i.words with
  | some _ => false
  | none =>
    if bits i.ptr.toNat 63 60 = 9 then
      let a := bits i.ptr.toNat 20 0
      decide (a + n ≤ 0x180000) && (s.tile (bits i.ptr.toNat 56 48)).spBad a n
    else s.vreadBytesError i.part i.secure (i.ptr.toNat % 2 ^ 48) (n / 64)

/-! ## Units -/

/-- The units of the partition's last job of an identity, from the job's on (R313, R314). -/
def State.jobUnits (s : State) (p jid : Nat) : List WorkUnit :=
  let late := s.units.reverse
  let job := fun (u : WorkUnit) => u.part == p && u.level == 3 && u.id == jid
  let after := late.takeWhile fun u => !job u
  ((late.drop after.length).take 1 ++ after.reverse).filter fun u => u.part == p && (job u || u.jid == jid)

/-- The unit of a level and identity that was admitted last, ended or not (R129, R318). -/
def State.lastUnit (s : State) (p level id : Nat) : Option WorkUnit :=
  (s.units.filter fun u => u.part == p && u.level == level && u.id == id).getLast?

/-- An empty unit of a partition. -/
def WorkUnit.blank (p level id : Nat) (r : Nat) (secure : Bool) (die : Nat) : WorkUnit where
  part := p
  level := level
  id := id
  jid := 0
  gid := 0
  fold := 0
  record := BitVec.ofNat 1536 r
  stat := 0
  nl := 0
  members := 0
  closed := false
  ended := false
  state := 0
  resid := false
  cause := 0
  reason := 0
  ovr := 0
  deta := 0
  detb := 0
  counter := 0
  secure := secure
  die := die
  ready := none
  pass := 0
  place := []
  tasks := []
  starting := false
  loaded := false
  resumable := false
  preempting := false
  admitted := false
  chosen := 0
  stayed := 0
  log := []
  logFull := false
  committed := false

/-- The unit of a record (R317, R318). -/
def unitOf (i : Incoming) (level r : Nat) : WorkUnit :=
  if level = 0 then
    let u := WorkUnit.blank i.part 0 (bits r 63 32) r (bitAt r 13) i.die
    { u with
      jid := bits r 95 64, gid := bits r 127 96, fold := bits r 159 128, stat := BitVec.ofNat 64 (bits r 383 320)
      tasks := List.replicate u.nt 0 }
  else
    let u := WorkUnit.blank i.part level (bits r 63 32) r i.secure i.die
    { u with
      jid := if level = 3 then bits r 63 32 else bits r 95 64
      nl := bits r 127 96, stat := BitVec.ofNat 64 (bits r 191 128) }

/-- A unit whose counter has risen (R315). -/
def WorkUnit.counted (u : WorkUnit) (n : Nat) : WorkUnit := { u with counter := u.counter + BitVec.ofNat 32 n }

/-- Raise the counter of a unit that has not ended (R315); each value reaches the status block. -/
def State.count (s : State) (p level id n : Nat) : State :=
  if n = 0 then s else s.changeUnit p level id fun u => u.counted n

/-- A unit as it ends (R316): what explains a failure or a rejection goes with any other end. -/
def WorkUnit.atEnd (state : Nat) (u : WorkUnit) : WorkUnit :=
  let u := { u with ended := true, state := state, cause := 0 }
  if state = 5 then u else { u with reason := 0, deta := 0, detb := 0 }

/-- The unit of an identity ends in a state (R316). -/
def State.endUnit (s : State) (p level id state : Nat) : State := s.changeUnit p level id (WorkUnit.atEnd state)

/-- A closed job ends once every member has ended (R313). -/
def State.settleJob (s : State) (p jid : Nat) : State :=
  match s.unit p 3 jid with
  | some j =>
    if j.closed && !(s.units.any fun u => u.part == p && u.level != 3 && u.jid == jid && !u.ended) then
      s.endUnit p 3 jid 2 else s
  | none => s

/-- A graph ends once NL launches have been admitted to it and have ended (R313). -/
def State.settleGraph (s : State) (p gid : Nat) : State :=
  match s.unit p 1 gid with
  | some g =>
    if g.members ≥ g.nl && !(s.units.any fun u => u.part == p && u.level == 0 && u.gid == gid && u.jid == g.jid && !u.ended) then
      s.endUnit p 1 gid 2 else s
  | none => s

/-- Is a fold current (R335): has every fold of its job with a lower identity committed, and has it not? -/
def State.foldCurrent (s : State) (f : WorkUnit) : Bool :=
  !f.ended && !((s.jobUnits f.part f.jid).any fun u => u.level == 2 && u.id < f.id && !u.committed)

/-- Is a used wait slot satisfied (R318)? -/
def State.waitMet (s : State) (u : WorkUnit) (used : Bool) (level id count : Nat) : Bool :=
  !used || match s.lastUnit u.part level id with
    | some v => (s.jobUnits u.part u.jid).contains v && decide ((v.counter - BitVec.ofNat 32 count).toNat < 2 ^ 31)
    | none => false

/-- May a launch that has not started become ready (R324)? -/
def State.readyNow (s : State) (u : WorkUnit) : Bool :=
  u.level == 0 && !u.ended && !u.starting && !u.loaded &&
  s.waitMet u (bitAt u.record.toNat 642) (u.f 641 640) (u.f 543 512) (u.f 575 544) &&
  s.waitMet u (bitAt u.record.toNat 645) (u.f 644 643) (u.f 607 576) (u.f 639 608) &&
  (u.fold == 0 || match s.unit u.part 2 u.fold with
    | some f => s.foldCurrent f
    | none => false)

/-- A choice event of a partition (R324). -/
def State.choiceEvent (s : State) (p : Nat) : State := s.onPart p fun x => { x with choice := true }

/-- Launches that have become ready are noted, with the clk (R324). -/
def State.refresh (s : State) (p : Nat) : State :=
  let due := fun (u : WorkUnit) => u.part == p && u.ready.isNone && s.readyNow u
  if s.units.any due then
    ({ s with units := s.units.map fun u => if due u then { u with ready := some s.dcc, pass := 0 } else u } :
      State).choiceEvent p
  else s

/-! ## Admission (R320) -/

/-- The first failing check's reason, 0 for none. (DEDUCED, log 63) -/
def firstReason (l : List (Bool × Nat)) : Nat := ((l.find? (·.1)).map (·.2)).getD 0

/-- PARENT's condition for the job of a record (R320). -/
def State.jobBad (s : State) (i : Incoming) (jid : Nat) : Bool :=
  (match s.unit i.part 3 jid with
    | some j => j.closed
    | none => true) || (i.fromTile.isSome && i.jid != jid)

/-- PARENT's condition for the graph or fold of a launch. -/
def State.memberBad (s : State) (p level id jid : Nat) : Bool :=
  id != 0 && match s.unit p level id with
    | some u => u.jid != jid || u.members ≥ u.nl
    | none => true

/-- PARENT's condition for a wait slot. -/
def State.slotBad (s : State) (p jid : Nat) (used : Bool) (level id : Nat) : Bool :=
  used && match s.lastUnit p level id with
    | some u => u.jid != jid
    | none => false

/-- Does the range of task numbers overlap another launch's of the fold, or leave its bounds? -/
def State.ftbBad (s : State) (u : WorkUnit) : Bool :=
  u.fold != 0 && (u.ftb + u.nt - 1 ≥ 0xFFFFFFFF ||
    match s.unit u.part 2 u.fold with
    | none => false
    | some f => (s.jobUnits u.part f.jid).any fun v => v.level == 0 && v.fold == u.fold && v.admitted &&
        v.ftb < u.ftb + u.nt && u.ftb < v.ftb + v.nt)

/-- Clusters of a partition, in ascending number. -/
def Partition.clusters (x : Partition) : List Nat := (List.range 8).filter fun c => bitAt x.reg.toNat (54 + c)

/-- The checks of a launch record (R320). READ stands in place of the first check that needs data which cannot be read,
and last for what no check needs (DEDUCED, log 63); a block height code above 5 is a failure of SHAPE
(DESIGN CHOICE, log 157). -/
def State.launchReason (s : State) (i : Incoming) (r : Nat) : Nat :=
  let u := unitOf i 0 r
  let p := i.part
  let x := s.part p
  let img := bits r 255 192
  let net := bits r 319 256
  let imgPtrOk := isGlobal img && img % 64 == 0
  let part := fun (pieces : Nat → Nat) => if imgPtrOk then s.readPart p u.secure img pieces else some []
  let head := part fun _ => 1
  let blocks := part fun h => imgCodeAt h / 64
  let h := natOfBytes (head.getD [])
  let body := blocks.getD []
  let whole := imgPtrOk && head.isSome && blocks.isSome
  let stall := bits r 30 25
  let ssv := bitAt r 653
  firstReason [
    (bits r 1023 654 != 0 || bitAt r 31 || (imgPtrOk && head.isSome && imgReserved h) || (whole && imgBodyReserved body), 0x02),
    (head.isNone || blocks.isNone, 0x0C),
    (2 ≤ bits r 15 14 || u.nt > 48 * x.clusters.length || (bits r 15 14 == 0 && 5 < bits r 21 19), 0x03),
    (!imgPtrOk || !imgOk h, 0x04),
    (u.id == 0 || (s.unit p 0 u.id).isSome, 0x05),
    (s.jobBad i u.jid || s.memberBad p 1 u.gid u.jid || s.memberBad p 2 u.fold u.jid ||
      (u.fold != 0 && i.fold != 0 && u.fold ≤ i.fold) ||
      s.slotBad p u.jid (bitAt r 642) (bits r 641 640) (bits r 543 512) ||
      s.slotBad p u.jid (bitAt r 645) (bits r 644 643) (bits r 607 576), 0x06),
    (s.ftbBad u, 0x07),
    ((s.readNet p u.secure net).isNone, 0x0C),
    ((1 ≤ stall && stall ≤ 11) || 40 < stall, 0x09),
    (whole && hurdlesBad body ssv (bits r 652 646), 0x0A),
    (u.secure && (!i.secure || !bitAt x.reg.toNat 62), 0x0B),
    ((part imgPieces).isNone, 0x0C)]

/-- The checks of a unit record (R317, R320). -/
def State.unitReason (s : State) (i : Incoming) (level r : Nat) : Nat :=
  let p := i.part
  let id := bits r 63 32
  let jid := bits r 95 64
  let log := bits r 255 192
  firstReason [
    (bits r 511 288 != 0 || bits r 31 8 != 0 || (level == 3 && (bits r 127 96 != 0 || jid != 0)) ||
      (level != 2 && (log != 0 || bits r 287 256 != 0)), 0x02),
    (level != 3 && bits r 127 96 == 0, 0x03),
    (id == 0 || (s.unit p level id).isSome, 0x05),
    (level != 3 && (s.jobBad i jid || (level == 2 &&
      (s.jobUnits p jid).any fun u => u.level == 2 && id ≤ u.id)), 0x06),
    (level == 2 && (!isGlobal log || log % 16 != 0 || bits r 287 256 == 0), 0x0D)]

/-- A rejected record (R320): its status says why; a launch whose identity is its own counts as cancelled.
(DEDUCED, log 64) -/
def State.rejectRecord (s : State) (i : Incoming) (level r reason : Nat) : State :=
  let u := unitOf i level r
  let u := { u with
    state := 5, reason := reason, ended := true
    counter := if level = 0 then BitVec.ofNat 32 u.nt else 0
    tasks := u.tasks.map fun _ => 5 }
  let s := s.writeStat u
  if level = 0 ∧ u.id ≠ 0 ∧ (s.unit i.part 0 u.id).isNone then
    ({ s with units := s.units ++ [u] } : State).refresh i.part
  else s

/-- The level of a record's KIND. -/
def kindLevel (k : Nat) : Option Nat :=
  match k with
  | 1 => some 0
  | 2 => some 3
  | 3 => some 1
  | 4 => some 2
  | _ => none

/-- Does an uncorrectable error of the image or of the network program make the reason of a launch READ? -/
def State.launchError (s : State) (p r why : Nat) : Bool :=
  let img := bits r 255 192
  why == 0x0C &&
    ((isGlobal img && img % 64 == 0 && s.partError p (bitAt r 13) img imgPieces) || s.netError p (bitAt r 13) (bits r 319 256))

/-- Admit or reject one record (R320). One that cannot be read, or of a KIND that is none, names no status block. An
uncorrectable error that stops a reading is counted (R294, R432). -/
def State.takeIn (s : State) (i : Incoming) : State :=
  match s.readRecord i 64 with
  | none => s.countError (s.recordError i 64)
  | some w =>
    match kindLevel (bits w 7 0) with
    | none => s
    | some level =>
      if level = 3 ∧ i.fromTile.isSome then s.rejectRecord i 3 w 0x01
      else
        match (if level = 0 then s.readRecord i 192 else some w) with
        | none => (s.countError (s.recordError i 192)).rejectRecord i level w 0x0C
        | some r =>
          let why := if level = 0 then s.launchReason i r else s.unitReason i level r
          if why ≠ 0 then (s.countError (level == 0 && s.launchError i.part r why)).rejectRecord i level r why
          else
            let u := unitOf i level r
            let u := { u with admitted := true }
            let s := ({ s with units := s.units ++ [u] } : State).writeStat u
            let s := if level = 0 then
                (s.onUnit i.part 1 u.gid fun g => { g with members := g.members + 1 }).onUnit i.part 2 u.fold
                  fun f => { f with members := f.members + 1 }
              else s
            s.refresh i.part

/-- Do the next `k` rows of a write stream, from a cursor on, meet `n` bytes from an address? -/
def rowsMeet (t : Tile) (a n : Nat) : Nat → BitVec 256 → Bool
  | 0, _ => false
  | k + 1, r => let d := rowSpan t r; overlaps d.1 d.2 a n || rowsMeet t a n k (stAdvance r)

/-- Does a write of the D strand that was issued before the `seq`-th access still have to reach `n` bytes from an address
(R126)? -/
def Tile.writesDue (t : Tile) (seq a n : Nat) : Bool :=
  t.dacc.any (fun x => x.seq < seq && (match x.kind with
    | .store b true k _ => overlaps b k a n
    | .atomic _ _ b true k _ _ _ => overlaps b k a n
    | .imageStore b true _ => overlaps b 32 a n
    | _ => false)) ||
  [8, 9, 10, 11].any fun st =>
    let rows := ((t.reqs' st).filter (·.seq < seq)).foldl (fun k (q : StreamReq) => k + q.left) 0
    rowsMeet t a n rows (SMap.get 0 t.st st)

/-- Does the reading of a record wait for the D strand's earlier writes to it (R126)? -/
def State.recordWaits (s : State) (i : Incoming) : Bool :=
  match i.fromTile with
  | some tid => bits i.ptr.toNat 63 60 == 9 && (s.tile tid).writesDue i.after (bits i.ptr.toNat 20 0) 192
  | none => false

/-- RECORD_ADMIT (R126, R320): the first record that the focus partition's shepherds have received, read once the writes
of the D strand that were issued before its lnch have been performed. -/
def execRecordAdmit (s : State) : Out :=
  .next (match s.incoming.find? (·.part == s.focus.part) with
    | none => s
    | some i => if s.recordWaits i then s else ({ s with incoming := s.incoming.erase i } : State).takeIn i)

/-! ## Placement (R322) -/

/-- Does a tile stand claimed by a launch that starts, or by a task being restored? -/
def State.claimed (s : State) (tid : Nat) : Bool :=
  s.units.any (fun u => u.starting && u.place.contains tid) || s.saves.any fun x => x.go && x.tid == tid

/-- Does a tile run no task? -/
def State.tileFree (s : State) (tid : Nat) : Bool := (s.tile tid).res.isNone && !s.claimed tid

/-- The tiles of a block with its origin at row a, column b of a cluster. -/
def blockAt (cluster w h a b : Nat) : List Nat :=
  tab (w * h) fun r => tidOf cluster (8 * (a + r / w) + b + r % w)

/-- The first placement of a new launch on tiles that satisfy a condition. -/
def State.placement (s : State) (u : WorkUnit) (ok : Nat → Bool) : Option (List Nat) :=
  let cs := (s.part u.part).clusters
  if u.f 15 14 = 0 then
    let w := u.f 18 16 + 1
    let h := u.f 21 19 + 1
    cs.findSome? fun c =>
      (List.range (7 - h)).findSome? fun a =>
        (List.range (9 - w)).findSome? fun b =>
          let l := blockAt c w h a b
          if l.all ok then some l else none
  else
    let n := u.f 24 22 + 1
    let free := (cs.filter fun c => (List.range 48).all fun k => ok (tidOf c k)).take n
    if free.length < n then none else some (free.flatMap fun c => tab 48 fun k => tidOf c k)

/-! ## The ends of launches (R268, R269, R313, R315) -/

/-- Remove the flow entries of a launch from every router, and what their deliveries wait for; was one of them active?
(DESIGN CHOICE, log 99) -/
def State.dropEntries (s : State) (p lid : Nat) : State × Bool :=
  let mine := fun (x : Entry) => x.e.part.toNat == p && x.lid == some lid
  let gone := (s.routers.filter fun r => r.2.entries.any mine).map (·.1)
  (gone.foldl (fun (s : State) r => s.leaveWalks (routerWho r)) { s with routers := s.routers.map fun r => (r.1, { r.2 with
      entries := r.2.entries.filter fun x => !mine x
      badFid := r.2.badFid.filter fun b => !r.2.entries.any fun x => mine x && x.is b.1 b.2 }) },
   s.routers.any fun r => r.2.entries.any fun x => mine x && x.act)

/-- A launch ends in a state (R268, R326, R332, R359): its saves and preloads go, its members settle; its entries go in
the package's next action, so that a state shows the launch ended and what they hold. (DESIGN CHOICE, log 99) -/
def State.endLaunch (s : State) (p lid state : Nat) : State :=
  match s.unit p 0 lid with
  | none => s
  | some u =>
    let act := (s.dropEntries p lid).2
    let s := { s with
      agenda := .dropEntries p lid :: s.agenda
      saves := s.saves.filter fun x => !(x.part == p && x.lid == lid)
      hsets := s.hsets.filter fun x => !(x.part == p && x.lid == lid)
      homes := s.homes.filter fun x => !(x.part == p && x.lid == lid)
      tiles := s.tiles.map fun (t : Nat × Tile) => (t.1, { t.2 with preload :=
        match t.2.preload with
        | some x => if x.part = p ∧ x.lid = lid then none else some x
        | none => none }) }
    let s := s.onPart p fun x => { x with
      head := match x.head with
        | some h => if h.1 = lid then none else some h
        | none => none
      reserved := x.reserved.filter (·.1 != lid) }
    let s := s.onUnit p 0 lid fun u => { u with resid := u.resid || act, starting := false }
    let s := s.endUnit p 0 lid state
    let s := s.settleGraph p u.gid
    ((s.settleJob p u.jid).refresh p).choiceEvent p

/-- A tile without what a task leaves in it; what does not belong to a task stays. -/
def Tile.fresh (t : Tile) : Tile :=
  { Tile.reset with
    sp := t.sp, bad := t.bad, shadowStore := t.shadowStore, shadowImage := t.shadowImage, sseq := t.sseq
    preload := t.preload }

/-- A strand and an engine that no task runs any more. -/
def StrandSt.leave (x : StrandSt) : StrandSt := { x with running := false, waiting := false, faulted := false, notIssued := false }
def Engine.leave (e : Engine) : Engine := { e with pq := [], run := none, chain := none, away := none, ended := false, stopped := false }

/-- The tile gives its task up: registers, queues and memory keep what they hold until the next task starts, and whatever
is still on its way for the task goes. (DEDUCED, log 68) -/
def Tile.evict (t : Tile) : Tile :=
  { t with
    sc := t.sc.leave, sv := t.sv.leave, sd := t.sd.leave, se := t.se.leave
    mx := t.mx.leave, qz := t.qz.leave, cp := t.cp.leave, fi := t.fi.leave
    flight := [], dacc := [], streq := [], reqs := [], unseen := [], observed := [], spoorNow := none, shadow := none
    busyDiv := 0, busyFe := 0, busyFt := 0, busyXl := 0, busyPk := 0, busyAc := 0
    res := none, live := false, preq := none, drain := none, halted := false, frozen := false, cancelled := false
    stops := [] }

/-- Set the state of a launch's task. -/
def WorkUnit.setTask (u : WorkUnit) (rank : Nat) (st : TaskState) : WorkUnit := { u with tasks := u.tasks.set rank st }

/-- A task of a launch leaves its tile after a residence of `n` clk, in a state (R327). -/
def WorkUnit.leave (u : WorkUnit) (rank : Nat) (st : TaskState) (n : Nat) : WorkUnit :=
  { u.setTask rank st with stayed := max u.stayed n }

/-- Have all four strands of a task stopped, and every engine record it posted completed (R22)? -/
def Tile.finished (t : Tile) : Bool :=
  let idle := fun (e : Engine) => e.run.isNone && e.chain.isNone && e.pq.isEmpty && e.away.isNone
  !t.sc.running && !t.sv.running && !t.sd.running && !t.se.running && t.shadow.isNone &&
  idle t.mx && idle t.qz && idle t.cp && idle t.fi

/-- A launch pre-empted by request becomes resumable once none of its tasks runs: tasks that had yielded join it
(R328, R330). -/
def State.settlePreempt (s : State) (p lid : Nat) : State :=
  match s.unit p 0 lid with
  | none => s
  | some u =>
    if u.preempting ∧ u.tasks.all (fun t => t != 1) then
      let s : State := { s with saves := s.saves.map fun (x : Saved) =>
        if x.part = p ∧ x.lid = lid then { x with yielded := false } else x }
      s.changeUnit p 0 lid fun u => { u with
        preempting := false, resumable := true, ready := some s.dcc, pass := 0
        tasks := u.tasks.map fun t => if t = 2 then 3 else t }
    else s

/-- TASK_END (R22, R313, R315): the task of the focus tile ends, and its tile becomes free. -/
def execTaskEnd (s : State) : Out :=
  .next (match s.me.res with
    | none => s
    | some r =>
      if !s.me.live || !s.me.clockRuns || !s.me.finished then s
      else
        let n := s.me.resident
        let s := s.onMe Tile.evict
        let s := s.onPart r.part fun x => { x with reserved := x.reserved.filter (· != (r.lid, r.rank)) }
        match s.unit r.part 0 r.lid with
        | none => s.choiceEvent r.part
        | some u =>
          let s := s.onUnit r.part 0 r.lid fun u => u.leave r.rank 4 n
          let s := if u.fold ≠ 0 then s
            else ((s.count r.part 0 r.lid 1).count r.part 1 u.gid 1).count r.part 3 u.jid 1
          let s := if ((u.setTask r.rank 4).tasks).all (· == 4) then s.endLaunch r.part r.lid 2
            else s.settlePreempt r.part r.lid
          (s.refresh r.part).choiceEvent r.part)

/-! ## Cancels (R129, R337, R346, R361) -/

/-- A running task is stopped with CANCEL: it issues nothing more, a service ends (R346), and its stop records are to be
written. -/
def Tile.stopCancelled (dcc : Nat) (t : Tile) : Tile :=
  { t with cancelled := true, halted := true, stopDcc := if t.halted then t.stopDcc else dcc
           shadow := t.shadow.map fun h => { h with st := { h.st with running := false } } }

/-- Does a unit belong to a fold that has neither committed nor been cancelled? -/
def State.inOpenFold (s : State) (u : WorkUnit) : Bool := (s.unit u.part 2 u.fold).any fun f => f.jid == u.jid

/-- The tasks of a launch that the counters above it do not hold yet (R315). -/
def State.uncounted (s : State) (u : WorkUnit) : Nat :=
  if u.level ≠ 0 || !u.admitted then 0
  else if u.fold ≠ 0 then (if s.inOpenFold u then u.nt else 0)
  else if u.ended then 0 else (u.tasks.filter (· != 4)).length

/-- Raise the counter of the graph that a launch of a fold was admitted to, ended or not, unless a cancel of the graph has
counted its tasks (R315, R337). -/
def State.countGraphOf (s : State) (u : WorkUnit) (n : Nat) : State :=
  let before := s.units.takeWhile fun v => v != u
  match (before.filter fun g => g.part == u.part && g.level == 1 && g.id == u.gid).getLast? with
  | some g =>
    if g.state = 3 then s
    else ({ s with units := s.units.map fun v => if v = g then g.counted n else v } : State).writeStat (g.counted n)
  | none => s

/-- The counters of a fold that commits or is cancelled, and of what it belongs to, rise by all its tasks (R315). -/
def State.countFold (s : State) (p : Nat) (f : WorkUnit) : State :=
  let ls := (s.jobUnits p f.jid).filter fun u => u.level == 0 && u.fold == f.id && u.admitted
  let s := ls.foldl (fun (s : State) u => s.countGraphOf u u.nt) s
  let s := ls.foldl (fun (s : State) u =>
    let v := { u with counter := BitVec.ofNat 32 u.nt }
    let s := ({ s with units := s.units.map fun w => if w = u then v else w } : State)
    if v.counter = u.counter then s else s.writeStat v) s
  let n := (ls.map WorkUnit.nt).sum
  (s.count p 2 f.id n).count p 3 f.jid n

/-- Cancel a launch: its running tasks stop, and its counter counts every task; those of a fold's launch are counted above
it with the fold (R315, R337). (DEDUCED, log 74) -/
def State.cancelLaunch (s : State) (p lid : Nat) : State :=
  match s.unit p 0 lid with
  | none => s
  | some u =>
    let add := if u.fold = 0 then s.uncounted u else 0
    let s := u.place.foldl (fun s tid =>
      if (s.tile tid).res.map (fun r => (r.part, r.lid)) = some (p, lid) then s.onTile tid (Tile.stopCancelled s.dcc) else s) s
    let s := s.changeUnit p 0 lid fun u => { u with
      counter := BitVec.ofNat 32 u.nt, tasks := u.tasks.map fun t => if t = 4 then 4 else 5 }
    let s := (s.count p 1 u.gid add).count p 3 u.jid add
    s.endLaunch p lid 3

/-- Cancel the launches that satisfy a condition. -/
def State.cancelLaunches (s : State) (p : Nat) (c : WorkUnit → Bool) : State :=
  ((s.units.filter fun u => u.part == p && u.level == 0 && !u.ended && c u).map (·.id)).foldl
    (fun s lid => s.cancelLaunch p lid) s

/-- A unit above the launches ends by a cancel (R337): its counter counts every task of the launches `of` it. -/
def State.cancelTop (s : State) (p level id jid : Nat) (of : WorkUnit → Bool) : State :=
  let n := (((s.jobUnits p jid).filter of).map s.uncounted).sum
  s.changeUnit p level id fun u => WorkUnit.atEnd 3 (u.counted n)

/-- The identities of the units of a level that have not ended and satisfy a condition. -/
def State.openIds (s : State) (p level : Nat) (c : WorkUnit → Bool) : List Nat :=
  (s.units.filter fun (v : WorkUnit) => v.part == p && v.level == level && !v.ended && c v).map (·.id)

/-- Cancel a fold: its launches, its log, and every counter of its tasks counts them. -/
def State.cancelFold (s : State) (p id : Nat) : State :=
  match s.unit p 2 id with
  | none => s
  | some f =>
    let s := s.cancelLaunches p fun u => u.fold == id && u.jid == f.jid
    let s := (s.countFold p f).changeUnit p 2 id fun f => { f with log := [] }
    s.endUnit p 2 id 3

/-- Cancel a graph: it ends, and its launches with it. -/
def State.cancelGraph (s : State) (p id : Nat) : State :=
  match s.unit p 1 id with
  | none => s
  | some g =>
    let mine := fun (v : WorkUnit) => v.gid == id && v.jid == g.jid
    (s.cancelTop p 1 id g.jid mine).cancelLaunches p mine

/-- Cancel a unit, down the hierarchy (R337, R335). -/
def State.cancelUnit (s : State) (p level id : Nat) : State :=
  match s.unit p level id with
  | none => s
  | some u =>
    let s := match level with
      | 0 => s.cancelLaunch p id
      | 1 => s.cancelGraph p id
      | 2 => (s.openIds p 2 fun v => v.jid == u.jid && decide (id ≤ v.id)).foldl (fun (s : State) f => s.cancelFold p f) s
      | _ =>
        let mine := fun (v : WorkUnit) => v.jid == id
        let s := s.cancelTop p 3 id id mine
        let s := (s.openIds p 1 mine).foldl (fun (s : State) g => s.cancelGraph p g) s
        let s := (s.openIds p 2 mine).foldl (fun (s : State) f => s.cancelFold p f) s
        s.cancelLaunches p mine
    ((s.settleJob p u.jid).refresh p).choiceEvent p

/-- A cancel takes effect at the end of its clk, unless the partition's halt line is then raised: in that case it is put
off to the release (R361). -/
def State.cancelLater (s : State) (p level id : Nat) : State :=
  s.onPart p fun x => { x with cancels := x.cancels ++ [(level, id)] }

/-- The cancels of a clk take effect. -/
def State.takeCancels (s : State) (p : Nat) : State :=
  if (s.part p).halt.isSome then s
  else (s.part p).cancels.foldl (fun (s : State) c => s.cancelUnit p c.1 c.2) (s.onPart p fun x => { x with cancels := [] })

/-- Is the unit named by a cncl or lvwt outside the task's job (R129)? -/
def State.foreignUnit (s : State) (level id : Nat) : Bool :=
  match s.lastUnit s.me.partition level id with
  | some u => u.jid != s.jobOf s.me
  | none => false

/-- cncl (R129, R337). The identity is sa modulo 2^32, as in lvwt. (DESIGN CHOICE, log 115) -/
def execCncl (lvl : BitVec 2) (sa : BitVec 6) (s : State) : Out :=
  let id := (s.rs sa).toNat % 2 ^ 32
  issue s (s.taskOnly (Check.need (!s.foreignUnit lvl.toNat id) cPERM 0)) fun s =>
    s.retire.cancelLater s.myPart lvl.toNat id

/-- lvwt (R129). -/
def execLvwt (lvl : BitVec 2) (sa sb : BitVec 6) (s : State) : Out :=
  let id := (s.rs sa).toNat % 2 ^ 32
  let met := match s.lastUnit s.myPart lvl.toNat id with
    | some u => (s.jobUnits s.myPart (s.jobOf s.me)).contains u && reached u.counter ((s.rs sb).setWidth 32)
    | none => false
  let foreign := s.foreignUnit lvl.toNat id
  issue s (s.taskOnly ((Check.need (!foreign) cPERM 0).and (Check.wait (foreign || met) 5 lvl.toNat)))
    State.retire

/-! ## Save slots (R359) -/

/-- The slots of a partition's pool that hold no save. -/
def State.openSlots (s : State) (p : Nat) : List Nat :=
  let x := s.part p
  if !bitAt x.savebase.toNat 63 then []
  else (List.range (bits x.saven.toNat 15 0)).filter fun k => !s.saves.any fun y => y.part == p && y.slot == k

/-- How many slots no save holds and none is reserved for. -/
def State.spareSlots (s : State) (p : Nat) : Nat := (s.openSlots p).length - (s.part p).reserved.length

/-- Is a slot reserved for the task of a tile? -/
def State.reservedFor (s : State) (r : Residence) : Bool := (s.part r.part).reserved.contains (r.lid, r.rank)

/-! ## Pre-emption (R130, R132, R327, R328, R357) -/

/-- A pre-emption is taken at a hint or a yield: other strands still issue in its clk. -/
def Tile.takeDrain (t : Tile) (bm : BitVec 24) : Tile := { t with drain := some ⟨bm, false, t.preq.isSome, []⟩ }

/-- phint (R130). -/
def execPhint (imm : BitVec 24) (s : State) : Out :=
  issue s (s.taskOnly .go) fun s => if s.me.preq.isSome then s.retire.onMe fun t => t.takeDrain imm else s.retire

/-- Reserve a slot for the task of the focus tile. -/
def State.reserveMine (s : State) : State :=
  match s.me.res with
  | some r => if s.reservedFor r then s else s.onPart r.part fun x => { x with reserved := x.reserved ++ [(r.lid, r.rank)] }
  | none => s

/-- yield (R132, R359): without a free slot and without a request it does nothing. (DEDUCED, log 69) -/
def execYield (imm : BitVec 24) (s : State) : Out :=
  issue s (s.taskOnly .go) fun s =>
    if s.me.preq.isNone ∧ s.spareSlots s.myPart = 0 then s.retire
    else s.reserveMine.retire.onMe fun t => t.takeDrain imm

/-- EP (R325). -/
def State.effPrio (s : State) (u : WorkUnit) : Nat :=
  min 7 (u.prio + (s.dcc - u.ready.getD s.dcc) / 2 ^ bits (s.part u.part).reg.toNat 25 20)

/-- The running tasks of a launch: rank and tile. -/
def WorkUnit.runningTasks (u : WorkUnit) : List (Nat × Nat) :=
  (List.zip (List.range u.place.length) u.place).filter fun x => u.tasks.getD x.1 0 == 1

/-- PREEMPT_REQUEST (R327, R328): a request to every task of launch `focus.idx` of the focus partition, with a slot
reserved for each that has none; tasks that stand saved stay so. (DEDUCED, log 112) -/
def execPreemptRequest (s : State) : Out :=
  let p := s.focus.part
  .next (match s.unit p 0 s.focus.idx, (s.part p).head with
    | some u, some (hid, place) =>
      (match s.unit p 0 hid with
        | none => s
        | some h =>
          let run := u.runningTasks
          let ask := (run.map fun x => (u.id, x.1)).filter fun x => !(s.part p).reserved.contains x
          if u.preempting || !u.loaded || u.resumable || u.id == hid || (s.part p).halt.isSome || !(u.place.any (place.contains ·)) ||
              s.effPrio h ≤ u.prio || u.slice == 0 || s.spareSlots p < ask.length ||
              !(decide (u.slice ≤ u.stayed) || run.any fun x => decide (u.slice ≤ (s.tile x.2).resident)) then s
          else
            let s := run.foldl (fun s x => s.onTile x.2 fun t => { t with preq := some ⟨u.grace⟩ }) s
            let s := s.onPart p fun y => { y with reserved := y.reserved ++ ask }
            let s := { s with saves := s.saves.map fun (x : Saved) => if x.part = p ∧ x.lid = u.id then { x with go := false } else x }
            s.onUnit p 0 u.id fun u => { u with preempting := true })
    | _, _ => s)

/-- Does a D access stand behind rows that stay counted through a drain, so that it is saved with them (R198, R205)?
(DEDUCED, log 125) -/
def Tile.heldBack (t : Tile) (a : DAcc) : Bool := a.delay == 0 && !t.mayPerform a.kind.isStore a.seq a.epoch

/-- Has an engine come to its boundary (R232)? A record that ran on a sibling has come back. -/
def Engine.quiescent (e : Engine) : Bool :=
  (match e.run with
    | some r => r.out.isNone && r.peer.isNone
    | none => true) && (e.away.map (·.phase == 4)).getD true

/-- Has everything issued before a pre-emption landed (R357)? -/
def Tile.drained (t : Tile) : Bool :=
  t.flight.isEmpty && t.dacc.all t.heldBack && t.reqs.isEmpty && t.mx.quiescent && t.shadow.isNone

/-- The engines that have come to their boundary in a drain, with DCC (R232, R352). -/
def Tile.noteQuiet (dcc : Nat) (t : Tile) : Tile :=
  { t with drain := t.drain.map fun (d : Drain) => { d with quiet := [0, 1, 2, 3].foldl (fun m e =>
      if (SMap.find m e).isNone && (t.eng e).quiescent then SMap.put m e dcc else m) d.quiet } }

/-- Zero the keys of a map that a group test marks dead. -/
def killKeys {α : Type} (m : SMap α) (dead : Nat → Bool) : SMap α := m.filter fun x => !dead x.1

/-- The saved state: groups that the bitmap marks dead read as zero after restore (R131, R358). -/
def Tile.forget (t : Tile) (bm : BitVec 24) : Tile :=
  let live := fun k => bitAt bm.toNat k
  let deadAcc := fun k => !live (16 + k / 128)
  { t with
    s := killKeys t.s fun k => !live (k / 16)
    v := killKeys t.v fun k => !live (4 + k / 8)
    k := killKeys t.k fun k => !live (12 + k / 8)
    acc := killKeys t.acc deadAcc
    accM := (List.range 1024).foldl (fun m k => if deadAcc k then SMap.set ninf32 m k 0#32 else m) t.accM
    accL := killKeys t.accL deadAcc
    accF := killKeys t.accF deadAcc
    badAcc := t.badAcc.filter fun w => !deadAcc (w / 67) }

/-- Does what a save reads hold an uncorrectable error: the regions, the queues, and the accumulators that the bitmap
marks live (R358, R359)? -/
def Tile.saveBad (t : Tile) (bm : BitVec 24) : Bool :=
  (match t.res with
    | some r => t.spBad r.codeBase (r.ringBase + r.ringSize - r.codeBase)
    | none => false) || !t.badQ.isEmpty || !(t.forget bm).badAcc.isEmpty

/-- A forced boundary more, for a unit whose task took it (R316, R328). -/
def WorkUnit.forced (u : WorkUnit) : WorkUnit := { u with ovr := min 255 (u.ovr + 1) }

/-- OVR of the launch of a task that takes a forced boundary rises, and of what the launch belongs to (R316, R328). -/
def State.countForced (s : State) (r : Residence) : State :=
  match s.unit r.part 0 r.lid with
  | some u => (((s.onUnit r.part 0 r.lid .forced).onUnit r.part 1 u.gid .forced).onUnit r.part 2 u.fold .forced).onUnit
      r.part 3 u.jid .forced
  | none => s

/-- The launch of a saved task (R328, R330). -/
def State.taskSaved (s : State) (r : Residence) (d : Drain) (n : Nat) : State :=
  (s.onUnit r.part 0 r.lid fun u => u.leave r.rank (if d.requested then 3 else 2) n).settlePreempt r.part r.lid

/-- Where a record of an engine has come to: RADDR, PROG, ABND (R354). -/
def runBits (eng : Nat) (own : Bool) (r : Run) : Nat :=
  let prog := if eng = 2 then 256 * r.prog else r.prog
  let abnd := r.abnd || r.out.isSome || r.stuck.isSome || (own && r.started && eng != 0)
  r.addr.toNat + prog % 2 ^ 48 * 2 ^ 64 + b2n abnd * 2 ^ 112

/-- The record that an engine's stop record shows, and whether it ran on a sibling: the one that faulted (`rel` where
the fault names a sibling), else the one at the head, the earlier of two (R227, R354). -/
def Engine.shown (e : Engine) (own rel : Bool) : Option Run × Bool :=
  let behind := (e.run.map (·.after)).getD true
  if e.away.isSome && (if own then rel else behind) then (e.away, true) else (e.run, false)

/-- Bits 511:128 of an engine's record, beside those that the fault fixed (R354). -/
def engineBits (t : Tile) (eng : Nat) (own rel : Bool) : Nat :=
  let e := t.eng eng
  let head := (e.shown own rel).1
  let at_ := match head with
    | some r => runBits eng own r
    | none => 0
  let mx := match eng, head with
    | 0, some r => r.stamp.toNat * 2 ^ 192 +
        (match (e.shown own rel).2, e.away.bind (·.peer) with
          | true, some k => 2 ^ 337 + k % 512 * 2 ^ 338
          | _, _ => 0)
    | _, _ => 0
  let xh := if eng = 2 ∧ (e.run.map (·.stuck.isSome)).getD false then 2 ^ 192 else 0
  at_ + e.csn.toNat * 2 ^ 128 + min 31 e.pq.length * 2 ^ 160 + mx + xh

/-- The stop record that an engine writes at its quiesce (R352, R354, R358): V, QSC, its unit and task, the DCC at which it
came to its boundary, and what R354 lays out. -/
def quiesceRecord (tid : Nat) (t : Tile) (d : Drain) (eng : Nat) : Nat :=
  t.taskid.toNat + tid % 512 * 2 ^ 47 + (4 + eng) % 8 * 2 ^ 56 + 2 ^ 59 + 2 ^ 63 +
    SMap.get 0 d.quiet eng % 2 ^ 64 * 2 ^ 64 + engineBits t eng false false * 2 ^ 128

/-- The engines' quiesce records reach the save slot. (DESIGN CHOICE, log 66) -/
def State.storeQuiesce (s : State) (p slot tid : Nat) (t : Tile) (d : Drain) : State :=
  let pool := bits (s.part p).savebase.toNat 51 22 * 2 ^ 22
  [0, 1, 2, 3].foldl (fun (s : State) eng =>
    s.pwrite 0 (pool + slot * 2 ^ 22 + 64 * (4 + eng)) 64 (quiesceRecord tid t d eng)) s

/-- SAVE (R357 to R359): the engines of the focus tile are seen to quiesce; the drained task is saved in the lowest free
slot, and its tile is free. -/
def execSave (s : State) : Out :=
  .next (match s.me.drain, s.me.res with
    | some d, some r =>
      if !d.on || s.me.halted || (s.part r.part).halt.isSome then s
      else if !s.me.drained then s.onMe (Tile.noteQuiet s.dcc)
      else if s.me.saveBad d.bitmap then raiseHalt s r.part cECC 10 0
      else match s.openSlots r.part with
        | [] => s
        | slot :: _ =>
          let t := { s.me with drain := none, preq := none, preload := none, live := false }
          let x : Saved := ⟨!d.requested, false, r.part, r.lid, r.rank, s.focus.tile, slot, d.bitmap, t.forget d.bitmap⟩
          let s := match (s.me.noteQuiet s.dcc).drain with
            | some d => s.storeQuiesce r.part slot s.focus.tile s.me d
            | none => s
          let s := ({ s with saves := s.saves ++ [x] } : State).onMe Tile.evict
          let s := s.onPart r.part fun y => { y with reserved := y.reserved.filter (· != (r.lid, r.rank)) }
          (s.taskSaved r d t.resident).choiceEvent r.part
    | _, _ => s)

/-! ## The start of a task (R139, R321, R403) -/

/-- The shadow image of a partition reaches a tile's shadow store (R139); `none` on an uncorrectable error. -/
def State.shadowCopy (s : State) (p : Nat) (t : Tile) : Option Tile :=
  let x := s.part p
  let len := bits x.shlen.toNat 14 0
  let pa := bits x.shbase.toNat 51 12 * 4096
  if !bitAt x.shbase.toNat 63 then some { t with shadowImage := none }
  else if t.shadowImage = some (p, x.shGen, len) then some t
  else if s.memBad 0 pa len then none
  else some { t with
    shadowStore := Mem.writeBytes [] 0 (s.preadBytes 0 pa len), shadowImage := some (p, x.shGen, len) }

/-- A pointer of an image in window 0x9 with TID zero is the tile's own, its offset from RB (R321). -/
def ownPointer (tid rb : Nat) (p : Nat) : Nat :=
  if bits p 63 60 = 9 ∧ bits p 56 48 = 0 then
    p / 2 ^ 57 * 2 ^ 57 + tid * 2 ^ 48 + bits p 47 21 * 2 ^ 21 + (bits p 20 0 + rb) % 2 ^ 21
  else p

/-- Set a list of keys from 0 on. -/
def setAll {α : Type} [DecidableEq α] (d : α) (l : List α) : SMap α :=
  (List.zip (List.range l.length) l).foldl (fun m x => SMap.set d m x.1 x.2) []

/-- Clear `n` bytes from an address of a memory on. -/
def Mem.clear (m : Mem) (a n : Nat) : Mem := m.filter fun x => !(a ≤ x.1 && x.1 < a + n)

/-- The ring of an image (R319, R321). The tag of every slot is 0 until an rpush or an smxu gives it one.
(DESIGN CHOICE, log 152) -/
def ringOf (img ringBase : Nat) : Ring where
  base := (bits img 20 0 + ringBase) % 2 ^ 21
  size := bits img 29 21
  count := bits img 36 30
  head := 0
  tail := 0
  level := 0
  etag := BitVec.ofNat 16 (bits img 79 64)
  ptag := BitVec.ofNat 16 (bits img 95 80)
  tags := []

/-- The hurdles of a task (R121, R321). -/
def startHurdles (u : WorkUnit) (tid : Nat) (decls : List Nat) : SMap Hurdle :=
  let m := decls.foldl (fun m d =>
    let all := (ranksIn u.place (scopeNo (hdScope d) tid)).length
    SMap.set Hurdle.idle m (hdNo d)
      ⟨true, false, hdScope d, false, false, if hdTarget d = 0 then all else hdTarget d⟩) []
  if bitAt u.record.toNat 653 then SMap.set Hurdle.idle m (u.f 652 646) ⟨true, true, 1, false, false, u.nt⟩ else m

/-- A strand at its entry. -/
def StrandSt.at_ (pc : Nat) : StrandSt := { StrandSt.reset with pc := BitVec.ofNat 21 pc, running := true, lastPc := BitVec.ofNat 21 pc }

/-- An engine with its initial chain pointer (R321). -/
def Engine.at_ (off : Nat) : Engine :=
  { Engine.reset with nxt := BitVec.ofNat 64 (2 ^ 63 + off), tail := BitVec.ofNat 64 (2 ^ 63 + off) }

/-- The task of a rank on its tile with its regions at `rb`: copies (unless they are made), fills and the state of R18
(R321, R403). -/
def startAt (u : WorkUnit) (img : List W8) (rank tid rb : Nat) (copied : Bool) (t : Tile) : Tile :=
  let h := natOfBytes (img.take 64)
  let priv := rb + imgCode h
  let ring := priv + imgPriv h
  let ws := fun (a n k : Nat) => tab n fun i => natOfBytes ((img.drop (a + k * i)).take k)
  let sp :=
    if copied then Mem.clear t.sp ring (imgRing h)
    else
      let m := Mem.clear t.sp rb (imgCode h + imgPriv h + imgRing h)
      let m := Mem.writeBytes m rb ((img.drop (imgCodeAt h)).take (imgCodeLen h))
      Mem.writeBytes m priv ((img.drop (imgDataAt h)).take (imgData h))
  let inside := fun w => decide (rb ≤ 4 * w) && decide (4 * w + 4 ≤ ring + imgRing h)
  let det := u.fold != 0
  let id := u.ftb + rank
  { t.fresh with
    sp := sp
    bad := t.bad.filter fun w => !inside w
    sc := StrandSt.at_ (rb + bits h 212 192)
    sv := StrandSt.at_ (rb + bits h 233 213)
    sd := StrandSt.at_ (rb + bits h 276 256)
    se := StrandSt.at_ (rb + bits h 297 277)
    s := setAll 0#64 (0#64 :: (tab 8 fun i => BitVec.ofNat 64 (u.f (1087 + 64 * i) (1024 + 64 * i))) ++ [BitVec.ofNat 64 rank])
    st := setAll 0#256 ((ws 64 12 32).map fun w =>
      BitVec.ofNat 256 (ownPointer tid rb (bits w 255 192) * 2 ^ 192 + w % 2 ^ 192))
    rg := setAll Ring.zero ((ws 448 8 16).map fun w => ringOf w ring)
    bt := setAll 0#64 ((ws 576 16 8).map fun w => BitVec.ofNat 64 (ownPointer tid rb w))
    hur := startHurdles u tid (hurdleDecls img)
    mx := Engine.at_ (bits h 340 320)
    qz := Engine.at_ (bits h 361 341)
    cp := Engine.at_ (bits h 382 362)
    fi := Engine.at_ (bits h 404 384)
    modeSt := bitAt u.record.toNat 11
    modeDet := det
    srseed := BitVec.ofNat 32 (u.f 479 448)
    taskid := BitVec.ofNat 32 id
    launchid := BitVec.ofNat 32 u.id
    world := u.secure
    live := true
    res := some ⟨u.part, u.id, rank, rb, imgCode h, priv, imgPriv h, ring, imgRing h, BitVec.ofNat 32 id, u.secure, det,
      if u.f 30 25 = 0 then 20 else u.f 30 25, bitAt u.record.toNat 12, u.f 511 480 * 2 ^ 16⟩ }

/-- The base of the task of a rank that a tile's standby region holds (R331). -/
def Tile.standby (t : Tile) (u : WorkUnit) (rank : Nat) : Option Nat :=
  match t.preload with
  | some x => if x.part = u.part ∧ x.lid = u.id ∧ x.rank = rank then some x.base else none
  | none => none

/-- The task of a rank as it starts: from its preload, else at base 0 (R331, R403). -/
def startTask (u : WorkUnit) (img : List W8) (rank tid : Nat) (t : Tile) : Tile :=
  match t.standby u rank with
  | some rb => { startAt u img rank tid rb true t with preload := none }
  | none => startAt u img rank tid 0 false t

/-! ## The choice rule (R323 to R326) -/

/-- RB of the task of a rank: of one that runs or stands saved, the base it has; of one that starts, R403's. -/
def State.regionBase (s : State) (u : WorkUnit) (rank tid : Nat) : Nat :=
  let mine := fun (r : Residence) => r.part == u.part && r.lid == u.id && r.rank == rank
  match (s.tile tid).res.filter mine, s.saves.find? fun x => (x.tile.res.filter mine).isSome with
  | some r, _ => r.codeBase
  | none, some x => (x.tile.res.map (·.codeBase)).getD 0
  | none, none => ((s.tile tid).standby u rank).getD 0

/-- How the detail word of a failed load names a router (R316): TID in bits 28:20, or the edge index with bit 31. -/
def routerDetail (r : Nat) : Nat := if isEdge r then (r - 0x400) % 2 ^ 11 * 2 ^ 20 + 2 ^ 31 else r % 512 * 2 ^ 20

/-- Why the loading of a network program fails: DETA, the reason of R265, and the load that failed (router, entry) where
the entry names a router that exists. -/
structure NetFail where
  deta : Nat
  reason : Nat
  load : Option (Nat × Nat)

/-- An entry with the region base added to its DADDR, in that field alone (R268). A sum beyond 48 bits is not made: DADDR
then has a bit of 47:21 set, and the entry is refused under R103 as it stands. -/
def addBase (e rb : Nat) : Nat := if bits e 173 126 + rb < 2 ^ 48 then e + rb * 2 ^ 126 else e

/-- Load the entries of a launch's network program in order (R268); the detail words where one fails (R316). An entry that
names a rank at or above NT has no TID, and the router bits of its detail word are 0. (DESIGN CHOICE, log 137) -/
def netLoadGo (u : WorkUnit) (place : List Nat) : List (Nat × Nat × BitVec 256) → State → Except NetFail State
  | [], s => .ok s
  | (kind, v, w) :: rest, s =>
    let fid := w.toNat % 2 ^ 20
    let router := match kind with
      | 0 => place[v]?
      | 2 => if routerExists (0x400 + v) ∧ v < 0x200 then some (0x400 + v) else none
      | _ => none
    match router with
    | none =>
      .error ⟨fid + (match kind with
        | 0 => 0
        | 1 => routerDetail (v % 512)
        | _ => routerDetail (0x400 + v)), 1, none⟩
    | some r =>
      let e := w.toNat
      let e := e / 2 ^ 23 * 2 ^ 23 + u.part % 8 * 2 ^ 20 + fid
      let rb := if bits e 125 124 = 0 ∧ kind = 0 then s.regionBase u v r else 0
      let e := addBase e rb
      match s.loadEntry r u.part e (some u.id) u.secure with
      | .ok s => netLoadGo u place rest s
      | .error c => .error ⟨fid + routerDetail r, c, some (r, e)⟩

/-- Load a launch's network program, all or nothing: the reason and detail words of its rejection, and the state in which
it is rejected (R265, R268). -/
def State.loadNet (s : State) (u : WorkUnit) (place : List Nat) : Except (State × Nat × Nat × Nat) State :=
  match s.readNet u.part u.secure (u.f 319 256) with
  | none => .error (s.countError (s.netError u.part u.secure (u.f 319 256)), 0x0C, 0, 0)
  | some l =>
    match netLoadGo u place (if u.f 319 256 = 0 then [] else Config.netEntries l) s with
    | .ok s => .ok s
    | .error x =>
      let s := match x.load with
        | some (r, e) => s.loadFault r u.part e x.reason
        | none => s
      .error (s, 0x08, x.deta, x.reason)

/-- A launch is rejected when it is placed: it counts as cancelled (R315, R320). -/
def State.rejectLaunch (s : State) (u : WorkUnit) (reason deta detb : Nat) : State :=
  let s := s.changeUnit u.part 0 u.id fun u => { u with
    reason := reason, deta := BitVec.ofNat 64 deta, detb := BitVec.ofNat 64 detb
    counter := BitVec.ofNat 32 u.nt, tasks := u.tasks.map fun _ => 5 }
  let n := if u.fold = 0 then u.nt else 0
  ((s.count u.part 1 u.gid n).count u.part 3 u.jid n).endLaunch u.part u.id 5

/-- Start a candidate on its tiles: a resumable launch restores its saves, a new one loads its network program. -/
def State.startUnit (s : State) (u : WorkUnit) (place : List Nat) : State × Bool :=
  let unhead := fun (s : State) => s.onPart u.part fun x =>
    { x with head := match x.head with
        | some h => if h.1 = u.id then none else some h
        | none => none }
  if u.resumable then
    (unhead { s with
      saves := s.saves.map fun x => if x.part = u.part ∧ x.lid = u.id then { x with go := true } else x
      units := s.units.map fun v => if v.is u.part 0 u.id then { v with resumable := false, starting := true } else v }, true)
  else match s.loadNet u place with
    | .ok s => (unhead (s.onUnit u.part 0 u.id fun u =>
        { u with starting := true, place := place, chosen := s.dcc }), true)
    | .error (s, why, a, b) => (s.rejectLaunch u why a b, false)

/-- Does candidate a stand before candidate b (R325, R326)? -/
def State.candBefore (s : State) (a b : WorkUnit) : Bool :=
  let ea := s.effPrio a
  let eb := s.effPrio b
  if ea ≠ eb then eb < ea
  else if a.ready.getD 0 ≠ b.ready.getD 0 then a.ready.getD 0 < b.ready.getD 0 else a.id ≤ b.id

/-- The candidates of a partition in order. -/
def State.candidates (s : State) (p : Nat) : List WorkUnit :=
  sortBy s.candBefore (s.units.filter fun u => u.part == p && u.level == 0 && !u.ended && !u.starting &&
    u.ready.isSome && (u.resumable || !u.loaded))

/-- The tiles of H's placement. -/
def Partition.held (x : Partition) : List Nat := (x.head.map (·.2)).getD []

/-- The choice loop over the candidates in order; `before` are those already passed that have not started. -/
def chooseGo (p : Nat) : List WorkUnit → List Nat → State → State
  | [], _, s => s
  | c :: rest, before, s =>
    let x := s.part p
    if x.head.map (·.1) = some c.id then
      if x.held.all s.tileFree then chooseGo p rest before (s.startUnit c x.held).1
      else chooseGo p rest (before ++ [c.id]) s
    else
      let ok := fun t => s.tileFree t && !x.held.contains t
      let place := if c.resumable then (if c.place.all ok then some c.place else none) else s.placement c ok
      match place with
      | none => chooseGo p rest (before ++ [c.id]) s
      | some l =>
        let r := s.startUnit c l
        if r.2 then
          chooseGo p rest before { r.1 with units := r.1.units.map fun u =>
            if u.part = p ∧ u.level = 0 ∧ before.contains u.id ∧ !u.ended then { u with pass := u.pass + 1 } else u }
        else chooseGo p rest before r.1

/-- Form the reserving head where none stands (R325). -/
def State.formHead (s : State) (p : Nat) : State :=
  let x := s.part p
  let resv := if bits x.reg.toNat 19 16 = 0 then 16 else bits x.reg.toNat 19 16
  if x.head.isSome then s
  else match (s.candidates p).find? (fun u => resv ≤ u.pass) with
    | none => s
    | some u =>
      let place := if u.resumable then some u.place else s.placement u fun _ => true
      match place with
      | some l => s.onPart p fun x => { x with head := some (u.id, l) }
      | none => s

/-- Tasks that yielded resume on their tiles, where free and not held for H, unless their launch is pre-empted
(R328, R330). -/
def State.resumeYielded (s : State) (p : Nat) : State :=
  s.saves.foldl (fun s x =>
    if x.part = p ∧ x.yielded ∧ !x.go ∧ !((s.unit p 0 x.lid).any (·.preempting)) ∧ s.tileFree x.tid ∧ !(s.part p).held.contains x.tid then
      { s with saves := s.saves.map fun y => if y = x then { y with go := true } else y }
    else s) s

/-- The choice of a partition: yielded tasks resume, the candidates are tried in order, and a head is formed where none
stands; not in the choice in which the head was rejected (R326). -/
def State.choose (s : State) (p : Nat) : State :=
  let s := (s.refresh p).resumeYielded p
  let t := chooseGo p (s.candidates p) [] s
  match (s.part p).head with
  | some h => if (t.unit p 0 h.1).isNone then t else t.formHead p
  | none => t.formHead p

/-- SHEPHERD_CHOICE (R324, R325): the choice of the focus partition, once a choice event has come. The claims of one
choice are granted in the order of its candidates. (DEDUCED, log 131) -/
def execShepherdChoice (s : State) : Out :=
  let p := s.focus.part
  .next (
    if !(s.part p).choice || (s.part p).halt.isSome then s
    else (s.onPart p fun x => { x with choice := false }).choose p)

/-- A unit above a launch starts with its first launch (R316). -/
def State.startParent (s : State) (p level id : Nat) : State :=
  match s.unit p level id with
  | some u => if u.state = 0 then s.changeUnit p level id fun u => { u with state := 1 } else s
  | none => s

/-- The preloads of a launch's tasks on its tiles, by rank. -/
def State.preloads (s : State) (u : WorkUnit) : List (Option Preloaded) :=
  (List.zip (List.range u.place.length) u.place).map fun x =>
    (s.tile x.2).preload.filter fun y => y.part == u.part && y.lid == u.id && y.rank == x.1

/-- Do all tasks of a launch stand preloaded (R331)? -/
def State.preloaded (s : State) (u : WorkUnit) : Bool := (s.preloads u).all (·.isSome)

/-- The image that a launch starts from: a preload has read it already (R331, R332). -/
def State.launchImage (s : State) (u : WorkUnit) : Option (List W8) :=
  if s.preloaded u then (s.preloads u).findSome? fun x => x.map (·.blocks)
  else s.readImage u.part u.secure (u.f 255 192)

/-- LAUNCH_START (R321, R323, R139): all tasks of launch `focus.idx` of the focus partition are loaded and issue first
in one clk. (DESIGN CHOICE, log 9; DEDUCED, log 65) -/
def execLaunchStart (s : State) : Out :=
  let p := s.focus.part
  .next (match s.unit p 0 s.focus.idx with
    | none => s
    | some u =>
      if !u.starting || u.loaded || (s.part p).halt.isSome then s
      else match s.launchImage u with
        | none => (s.countError (s.partError p u.secure (u.f 255 192) imgPieces)).rejectLaunch u 0x0C 0 0
        | some img =>
          let ranks := List.zip (List.range u.place.length) u.place
          let copies := ranks.map fun x => (x, s.shadowCopy p (s.tile x.2))
          if copies.any (·.2.isNone) then
            raiseHalt ((s.dropEntries p u.id).1.onUnit p 0 u.id fun u =>
              { u with starting := false, ready := none, place := [] }) p cECC 10 0
          else
            let s := copies.foldl (fun s x => match x.2 with
              | some t => (s.setTile x.1.2 (startTask u img x.1.1 x.1.2 t)).newTask x.1.2
              | none => s) s
            let s := s.changeUnit p 0 u.id fun u => { u with
              starting := false, loaded := true, state := 1, stayed := 0, tasks := u.tasks.map fun _ => 1 }
            ((s.startParent p 1 u.gid).startParent p 2 u.fold).startParent p 3 u.jid)

/-- RESTORE (R358 to R360, R139): the saves of launch `focus.idx` of the focus partition that are to be restored are
written back onto their tiles, which issue again in one clk. (DEDUCED, log 67) -/
def execRestore (s : State) : Out :=
  let p := s.focus.part
  let mine := fun (x : Saved) => x.part == p && x.lid == s.focus.idx && x.go
  let l := s.saves.filter mine
  let pool := bits (s.part p).savebase.toNat 51 22 * 2 ^ 22
  let copies := l.map fun x => (x, s.shadowCopy p (s.tile x.tid))
  .next (
    if l.isEmpty || (s.part p).halt.isSome || l.any (fun x => (s.tile x.tid).res.isSome) then s
    else if copies.any (·.2.isNone) || l.any (fun x => s.memBad 0 (pool + x.slot * 2 ^ 22) (2 ^ 22)) then
      raiseHalt s p cECC 10 0
    else
      let s := copies.foldl (fun s y => match y.2 with
        | some t => s.setTile y.1.tid { y.1.tile with
            live := true, preload := t.preload, sseq := t.sseq, shadowStore := t.shadowStore
            shadowImage := t.shadowImage, resident := if y.1.yielded then y.1.tile.resident else 0
            sp := restoreSp y.1.tile t
            bad := t.bad.filter fun w => !savedWord y.1.tile w }
        | none => s) s
      let s := l.foldl (fun (s : State) x => s.newTask x.tid) s
      let s := { s with saves := s.saves.filter fun x => !mine x }
      s.changeUnit p 0 s.focus.idx fun u => { u with
        starting := false, loaded := true, state := 1, stayed := if l.all (·.yielded) then u.stayed else 0
        tasks := l.foldl (fun t x => t.set x.rank 1) u.tasks })
where
  /-- the regions of a task come back; the rest of the scratchpad stays -/
  restoreSp (old now : Tile) : Mem :=
    match old.res with
    | some r =>
      let n := r.ringBase + r.ringSize - r.codeBase
      Mem.writeBytes (Mem.clear now.sp r.codeBase n) r.codeBase (Mem.readBytes old.sp r.codeBase n)
    | none => now.sp
  savedWord (old : Tile) (w : Nat) : Bool :=
    match old.res with
    | some r => decide (r.codeBase ≤ 4 * w) && decide (4 * w < r.ringBase + r.ringSize)
    | none => false

/-! ## Preloads (R331, R332) -/

/-- PRELOAD (R331, R332): the task of the reserving head that is to run on the focus tile is copied to a standby region
above the regions of the task that runs there; none is made while the partition is halted. -/
def execPreload (s : State) : Out :=
  let tid := s.focus.tile
  let p := s.focus.part
  .next (match (s.part p).head, s.me.res with
    | some (hid, place), some r =>
      (match s.unit p 0 hid with
        | none => s
        | some h =>
          if (s.part p).halt.isSome || !place.contains tid || h.loaded || s.me.preload.isSome || r.part ≠ p || (r.part, r.lid) = (p, hid) then s
          else match s.readImage p h.secure (h.f 255 192) with
            | none => s
            | some img =>
              let w := natOfBytes (img.take 64)
              let base := r.ringBase + r.ringSize
              let n := imgCode w + imgPriv w
              if base + n + imgRing w > 0x180000 then s
              else s.onMe fun t =>
                let m := Mem.clear t.sp base n
                let m := Mem.writeBytes m base ((img.drop (imgCodeAt w)).take (imgCodeLen w))
                let m := Mem.writeBytes m (base + imgCode w) ((img.drop (imgDataAt w)).take (imgData w))
                { t with sp := m, preload := some ⟨p, hid, place.findIdx (· == tid), base, n, img.take (imgCodeAt w)⟩
                         bad := t.bad.filter fun k => !(decide (base ≤ 4 * k) && decide (4 * k < base + n)) })
    | _, _ => s)

/-! ## Budgets (R329) -/

/-- BUDGET (R329): the task of the focus tile has used its limit; the fault is the C strand's unit's. -/
def execBudget (s : State) : Out :=
  .next (match s.me.res with
    | none => s
    | some r =>
      if r.limit = 0 || !s.me.clockRuns || s.me.used < r.limit || s.me.sc.faulted then s
      else (unitFault s s.focus.tile 0 cBUDGET 0 s.me.sc.pc 0).onMe fun t => { t with sc := { t.sc with faulted := true } })

/-! ## Commit (R291, R292, R315) -/

/-- The distinct tasks of some items, ascending. -/
def tasksOf (l : List LogItem) : List Nat := sortBy (· ≤ ·) (l.map fun i => i.task.toNat).eraseDups

/-- Why a word's items may not be committed: the reason and the two lowest tasks (R291). -/
def wordConflict (l : List LogItem) : Option (Nat × Nat × Nat) :=
  let plain := l.filter (·.kind == 0)
  let atomics := l.filter (·.kind != 0)
  let two := fun (t : List Nat) => (t.headD 0, (t.drop 1).headD (t.headD 0))
  let tp := tasksOf plain
  if 2 ≤ tp.length then some (1, two tp)
  else if !plain.isEmpty && !atomics.isEmpty then some (2, two (tasksOf l))
  else none

/-- The first offending word of a log in ascending address. -/
def logConflict (l : List LogItem) : Option (Nat × Nat × Nat × Nat) :=
  (sortBy (· ≤ ·) (l.map (·.va)).eraseDups).findSome? fun a =>
    (wordConflict (l.filter (·.va == a))).map fun c => (a, c)

/-- Apply one item to memory, at the place that its write's translation gave. (DEDUCED, log 134) -/
def applyItem (s : State) (i : LogItem) : State :=
  s.pwrite i.loc.1 i.loc.2 4 (deliverWord i.kind (BitVec.ofNat 32 (s.pread i.loc.1 i.loc.2 4)) i.val).toNat

/-- Does an atomic item meet an uncorrectable error in its word, which it reads (R294)? -/
def State.itemBad (s : State) (i : LogItem) : Bool := i.kind != 0 && s.memBad i.loc.1 i.loc.2 4

/-- The order of the two passes (R291): plain writes in log order, atomics by task and then log order. -/
def commitOrder (l : List LogItem) : List LogItem :=
  let atomics := l.filter (·.kind != 0)
  l.filter (·.kind == 0) ++ (tasksOf atomics).flatMap fun t => atomics.filter fun i => i.task.toNat == t

/-- Every open graph of the partition is looked at again. -/
def State.settleGraphs (s : State) (p : Nat) : State :=
  ((s.units.filter fun (u : WorkUnit) => u.part == p && u.level == 1 && !u.ended).map (·.id)).foldl
    (fun (s : State) (g : Nat) => s.settleGraph p g) s

/-- FOLD_COMMIT (R291, R292): fold `focus.idx` of the focus partition, once NL launches have been admitted to it and
have ended. -/
def execFoldCommit (s : State) : Out :=
  let p := s.focus.part
  .next (match s.unit p 2 s.focus.idx with
    | none => s
    | some f =>
      let open_ := s.units.any fun u => u.part == p && u.level == 0 && u.fold == f.id && u.jid == f.jid && !u.ended
      if f.members < f.nl || open_ || f.logFull || f.state = 4 || (s.part p).halt.isSome then s
      else match logConflict f.log with
        | some (va, why, a, b) =>
          raiseHalt (s.changeUnit p 2 f.id fun f => { f with
            state := 4, cause := cDETWW, reason := why, deta := BitVec.ofNat 64 va
            detb := BitVec.ofNat 64 (a % 2 ^ 32 + b % 2 ^ 32 * 2 ^ 32) }) p cDETWW 10 0
        | none =>
          if f.log.any s.itemBad then
            raiseHalt (s.changeUnit p 2 f.id fun f => { f with state := 4, cause := cECC, deta := 0xFFFFFFFF }) p cECC 10 0
          else
          let s := (commitOrder f.log).foldl applyItem s
          let s := s.countFold p f
          let s := s.onUnit p 2 f.id fun f => { f with committed := true, log := [] }
          let s := s.endUnit p 2 f.id 2
          ((s.settleGraphs p).settleJob p f.jid).refresh p)

end Sys2Proof.Machine
end

