-- ==== Sys2Proof/Machine/Faults.lean ====
section
/-! DEFINITION. Halts and their release (12_faults.md R343 to R356): the halt line at a die and at a router, stop
records, QUEUE-STALL (R27), and what RELEASE does. -/

namespace Sys2Proof.Machine

/-! ## The halt line (R347 to R350) -/

/-- HALT_LINE_RAISE (R347, R350): a terminal fault of a source raises its partition's halt line. (DEDUCED, log 79) -/
def execHaltLineRaise (part cause src id : Nat) (s : State) : Out :=
  .next (if part < 8 then raiseHalt s part cause src id else s)

/-- Does a tile run a task of the partition on the die? -/
def Tile.ofPart (t : Tile) (p : Nat) : Bool := (t.res.map (·.part)) == some p

/-- The halt line at a tile: the task issues nothing more (R348). A task held by a shadow service stays held; its
context stops, and the access stands as not completed (R138). -/
def Tile.haltNow (dcc : Nat) (t : Tile) : Tile :=
  { t with
    halted := true
    stopDcc := if t.halted then t.stopDcc else dcc
    shadow := t.shadow.map fun h => { h with st := { h.st with running := false } } }

/-- HALT_LINE_ARRIVE (R347, R348): at Ta the halt reaches the agents of die `focus.die`. -/
def execHaltLineArrive (s : State) : Out :=
  let p := s.focus.part
  let d := s.focus.die
  .next (match (s.part p).halt with
    | none => s
    | some h =>
      if (if d = 0 then h.on0 else h.on1) || h.age < (if d = 0 then h.ta0 else h.ta1) then s
      else
        let s := s.onPart p fun x => { x with
          halt := some (if d = 0 then { h with on0 := true } else { h with on1 := true }) }
        let here := (s.tiles.filter fun (t : Nat × Tile) => dieOf t.1 = d ∧ t.2.ofPart p).map (·.1)
        let s := here.foldl State.cutBeat s
        { s with tiles := s.tiles.map fun (t : Nat × Tile) =>
            (t.1, if dieOf t.1 = d ∧ t.2.ofPart p then t.2.haltNow s.dcc else t.2) })

/-- ROUTER_HALT_STOP (R349): the focus router stops for the partition whose halt line has arrived on its die. -/
def execRouterHaltStop (s : State) : Out :=
  let p := s.focus.part
  let r := s.focus.router
  .next (match (s.part p).halt with
    | none => s
    | some h =>
      if !(if routerDie r = 0 then h.on0 else h.on1) || (s.router r).stopped.contains p then s
      else s.onRouter r fun x => { x with stopped := x.stopped ++ [p] })

/-- The TASKID of a launch's own first faulting task at a halt: the lowest DCC, then TID, then unit. -/
def State.firstFaulter (s : State) (p lid : Nat) : Option W32 :=
  let own := s.tiles.flatMap fun (t : Nat × Tile) =>
    if (t.2.res.map fun r => (r.part, r.lid)) = some (p, lid) then
      (t.2.stops.filter (·.2.own)).map fun x => (x.2.dcc, t.2.taskid)
    else []
  (own.foldl (fun (a : Option (Nat × W32)) x => match a with
    | none => some x
    | some y => if x.1 < y.1 then some x else a) none).map (·.2)

/-- The stop record of a unit of a tile on which no task stands (R352, R354, R355): it stopped at Ta, and only an engine's
CSN is left to show. (DESIGN CHOICE, log 132) -/
def idleStop (t : Tile) (tid unit dcc : Nat) : Nat :=
  tid % 512 * 2 ^ 47 + unit % 8 * 2 ^ 56 + 2 ^ 63 + dcc % 2 ^ 64 * 2 ^ 64 +
    (if unit < 4 then 0 else (t.eng (unit - 4)).csn.toNat * 2 ^ 256)

/-- Where the record of a unit lies in a partition's stop area, where there is one that the partition owns (R351). -/
def Partition.stopPlace (x : Partition) (tid unit : Nat) : Option Nat :=
  let pa := bits x.stopbase.toNat 51 18 * 2 ^ 18 + 512 * tileNumber tid + 64 * unit
  if bitAt x.stopbase.toNat 63 && x.ownsRange 0 pa 64 then some pa else none

/-- The units of a partition's tiles without a task write their records of a halt (R355). -/
def State.idleStops (s : State) (p : Nat) (h : HaltSt) : State :=
  let x := s.part p
  if !bitAt x.stopbase.toNat 63 then s
  else
    let idle := (x.clusters.flatMap fun c => tab 48 fun k => tidOf c k).filter fun tid => (s.tile tid).res.isNone
    (idle.flatMap fun tid => (List.range 8).map fun u => (tid, u)).foldl (fun (s : State) y =>
      match x.stopPlace y.1 y.2 with
      | some pa =>
        let dcc := s.dcc - h.age + (if dieOf y.1 = 0 then h.ta0 else h.ta1)
        s.pwrite 0 pa 64 (idleStop (s.tile y.1) y.1 y.2 dcc)
      | none => s) s

/-- The end of the skid (R348, R356): the tasks stand frozen, their launches get STATE 4, folds they belong to lose
their logs, preloads of a job that is halted with them are discarded (R332), tiles without a task write their records, and
a halt without a resident task is done at once. (DEDUCED, log 75) -/
def freezeHalt (s : State) (p : Nat) : State :=
  let cause := bits (s.part p).halts.toNat 62 55
  let lids := ((s.tiles.filter fun (t : Nat × Tile) => t.2.ofPart p && !t.2.cancelled).map fun (t : Nat × Tile) =>
    (t.2.res.map (·.lid)).getD 0).eraseDups
  let s : State := { s with tiles := s.tiles.map fun (t : Nat × Tile) =>
      (t.1, if t.2.ofPart p then { t.2.haltNow s.dcc with frozen := true } else t.2) }
  let s := lids.foldl (fun (s : State) lid =>
    let deta := ((s.firstFaulter p lid).map (·.toNat)).getD 0xFFFFFFFF
    let fold := s.foldOf p lid
    let s := s.changeUnit p 0 lid fun u => { u with
      state := 4, cause := cause, reason := 0, deta := BitVec.ofNat 64 deta, detb := 0 }
    s.onUnit p 2 fold fun f => { f with log := [], logFull := false }) s
  let jobs := lids.map fun lid => ((s.unit p 0 lid).map (·.jid)).getD 0
  let keep := fun (x : Preloaded) => !(x.part == p && jobs.contains (((s.unit p 0 x.lid).map (·.jid)).getD 0))
  let s : State := { s with tiles := s.tiles.map fun (t : Nat × Tile) =>
      (t.1, { t.2 with preload := t.2.preload.filter keep }) }
  let s := match (s.part p).halt with
    | some h => s.idleStops p h
    | none => s
  if s.tiles.any fun (t : Nat × Tile) => t.2.ofPart p then s
  else s.onPart p fun x => { x with halts := x.halts ||| BitVec.ofNat 64 (2 ^ 41) }

/-! ## Stop records (R351 to R355) -/

/-- Bits 191:128 of a strand's record: LPC, PC, WAIT, WNUM (R352). -/
def strandBits (x : StrandSt) (pc : BitVec 21) : Nat :=
  pc.toNat + x.lastPc.toNat * 2 ^ 21 + (if x.waiting then x.wait % 8 * 2 ^ 42 + x.waitNum % 128 * 2 ^ 45 else 0)

/-- The destination of a result in flight. -/
def Target.sreg : Target → Nat
  | .scalar r _ => r
  | _ => 0

/-- Bits 511:192 of the C strand's record beside PTR and IMM (R353): SH, a division abandoned, and HOLD and TCC as the
task stopped, unless the strand's own fault fixed them. A tile freezes after its clk F + 32 has been counted, so that
what a division still needed in it is one more than what is left. -/
def cBits (s : State) (tid : Nat) (own : Bool) : Nat :=
  let t := s.tile tid
  let div := match t.flight.find? fun f => f.unit == 8 with
    | some f => 2 ^ 102 + f.tgt.sreg % 64 * 2 ^ 96 + min (f.rem + b2n t.frozen) 31 * 2 ^ 91
    | none => 0
  (if own then 0 else (t.hold + t.stopDcc - s.dcc) % 2 ^ 64 * 2 ^ 192 + (s.tcc tid).toNat * 2 ^ 128) + (if t.shadow.isSome then 2 ^ 103 else 0) + div

/-- The V strand's: the open span, and results abandoned. -/
def vBits (t : Tile) : Nat :=
  let open_ := match t.span with
    | some p => 2 ^ 63 + (p.left - 1) % 8 * 2 ^ 60 + p.pattern.toNat * 2 ^ 52 + p.phys % 32 * 2 ^ 47
    | none => 0
  open_ + min 0xFFFF (t.flight.filter (·.unit == 1)).length

/-- The D strand's: the request counts of the streams. -/
def dBits (t : Tile) : Nat := (List.range 12).foldl (fun n k => n + t.reqCount k % 2 ^ 24 * 2 ^ (24 * k)) 0

/-- The stop record of a unit (R352 to R354). -/
def State.stopRecord (s : State) (tid unit : Nat) : Nat :=
  let t := s.tile tid
  let info := if t.cancelled then none else SMap.find t.stops unit
  let own := (info.map (·.own)).getD false
  let st := match unit with
    | 0 => Strand.c
    | 1 => .v
    | 2 => .d
    | _ => .e
  let halts := (s.part t.partition).halts.toNat
  let pri := own && bits halts 54 51 == unit && bits halts 50 42 == tid
  let dcc := if own then (info.map (·.dcc)).getD 0 else t.stopDcc
  let cause := if t.cancelled then cCANCEL else if own then (info.map (·.cause)).getD 0 else 0
  let aux := ((info.map fun (i : StopInfo) => i.aux).getD 0).toNat
  let pc := if own then (info.map (·.pc)).getD 0 else (t.str st).pc
  let low := t.taskid.toNat + (if own then (info.map (·.xr)).getD 0 else 0) % 128 * 2 ^ 32 + cause % 256 * 2 ^ 39 +
    tid % 512 * 2 ^ 47 + unit % 8 * 2 ^ 56 + b2n (unit < 4 && !own && (t.str st).notIssued) * 2 ^ 60 +
    b2n own * 2 ^ 61 + b2n pri * 2 ^ 62 + 2 ^ 63 + dcc % 2 ^ 64 * 2 ^ 64
  let high : BitVec 384 := match unit with
    | 0 => BitVec.ofNat 384 (strandBits t.sc pc + 2 ^ 64 * aux) ||| BitVec.ofNat 384 (2 ^ 64 * cBits s tid own)
    | 1 => BitVec.ofNat 384 (strandBits t.sv pc + 2 ^ 64 * vBits t)
    | 2 => BitVec.ofNat 384 (strandBits t.sd pc + 2 ^ 64 * dBits t)
    | 3 => BitVec.ofNat 384 (strandBits t.se pc + 2 ^ 64 * aux) ||| BitVec.ofNat 384 (2 ^ 64 * (t.reqs.length % 16))
    | u => BitVec.ofNat 384 (engineBits t (u - 4) own (bitAt aux 273)) ||| BitVec.ofNat 384 (2 ^ 64 * aux)
  low + 2 ^ 128 * high.toNat

/-- Has the unit's record of this stop been written? -/
def Tile.recordWritten (t : Tile) (unit : Nat) : Bool := ((SMap.find t.stops unit).map (·.written)).getD false
/-- Have all eight? -/
def Tile.allWritten (t : Tile) : Bool := (List.range 8).all t.recordWritten

/-- A stopped task's skid is over (R348), so that its records may be written. -/
def State.skidOver (s : State) (t : Tile) : Bool := t.frozen || (t.cancelled && t.stopDcc + 32 ≤ s.dcc)

/-- Store a record in the stop area (R351), where there is one that the partition owns. -/
def State.storeRecord (s : State) (tid unit : Nat) : State :=
  match (s.part (s.tile tid).partition).stopPlace tid unit with
  | some pa => s.pwrite 0 pa 64 (s.stopRecord tid unit)
  | none => s

/-- STOP_RECORD_WRITE (R351 to R355): unit `focus.idx` of the focus tile writes its record; a cancelled task's tile is
then free, and DONE follows the last record of a halt. -/
def execStopRecordWrite (s : State) : Out :=
  let tid := s.focus.tile
  let unit := s.focus.idx
  .next (
    if s.me.res.isNone || !s.skidOver s.me || 8 ≤ unit || s.me.recordWritten unit then s
    else
      let p := s.myPart
      let s := s.storeRecord tid unit
      let s := s.onMe fun t => { t with
        stops := match SMap.find t.stops unit with
          | some i => SMap.put t.stops unit { i with written := true }
          | none => SMap.put t.stops unit ⟨false, false, 0, 0, t.stopDcc, 0, 0, true⟩ }
      let s := if s.me.cancelled && s.me.allWritten then (s.onMe Tile.evict).choiceEvent p else s
      if (s.part p).halt.isSome && bitAt (s.part p).halts.toNat 63 &&
          s.tiles.all (fun (t : Nat × Tile) => !t.2.ofPart p || (t.2.frozen && t.2.allWritten)) then
        s.onPart p fun x => { x with halts := x.halts ||| BitVec.ofNat 64 (2 ^ 41) }
      else s)

/-! ## QUEUE-STALL (R27) -/

/-- The other strands that stand at the bundle of a blocked member do not issue (R73, R352). (DEDUCED, log 108) -/
def Tile.partnersNotIssued (t : Tile) (st : Strand) : Tile :=
  [Strand.c, .v, .d, .e].foldl (fun (t : Tile) o =>
    if o ≠ st ∧ (t.str o).running ∧ (t.str o).waiting ∧ !(t.str o).faulted then
      t.onStr o fun y => { y with notIssued := true } else t) t

/-- QUEUE_STALL (R27): the focus strand has stood blocked at one instruction for its limit of clk of task time. It
faults as it stands, and with it a bundle. (DEDUCED, log 72) -/
def execQueueStall (s : State) : Out :=
  let x := s.me.str s.focus.strand
  let w := Mem.readN s.me.sp x.pc.toNat 8
  .next (
    if !s.me.clockRuns || !x.running || x.faulted || !x.waiting || x.wait = 7 || x.blocked < s.me.stallLimit then s
    else
      (unitFault s s.focus.tile s.focus.strand.code cSTALL 0 x.pc 0).onMe fun t =>
        let t := if bitAt w 63 then t.partnersNotIssued s.focus.strand else t
        t.onStr s.focus.strand fun x => { x with faulted := true })

/-! ## Release (R356) -/

/-- A task that restarts on its tile from the image, at the region base it had (R321, R332, R356). -/
def State.rerunTask (u : WorkUnit) (img : List W8) (s : State) (x : Nat × Nat) : State :=
  let t := s.tile x.2
  let rb := (t.res.map (·.codeBase)).getD 0
  (s.setTile x.2 (startAt u img x.1 x.2 rb false ((s.shadowCopy u.part t).getD t))).newTask x.2

/-- A saved task of a launch that reruns: its save holds the task as it starts. -/
def Saved.afresh (u : WorkUnit) (img : List W8) (alone : Bool) (x : Saved) : Saved :=
  let rb := (x.tile.res.map (·.codeBase)).getD 0
  { x with
    yielded := x.yielded || alone
    bitmap := BitVec.allOnes 24
    tile := { startAt u img x.rank x.tid rb false x.tile with live := false } }

/-- Give up the tiles of a halted launch. -/
def State.freeTiles (s : State) (p lid : Nat) : State :=
  { s with tiles := s.tiles.map fun (t : Nat × Tile) =>
      (t.1, if (t.2.res.map fun r => (r.part, r.lid)) = some (p, lid) then t.2.evict else t.2) }

/-- RERUN of one launch (R139, R356): entries removed and loaded afresh, and every task that had not ended restarted: on
its tile where it stands there, else in its save. (DEDUCED, log 80) -/
def State.rerunLaunch (s : State) (p lid : Nat) : State :=
  match s.unit p 0 lid with
  | none => s.freeTiles p lid
  | some u =>
    let (s, act) := s.dropEntries p lid
    let s := s.onUnit p 0 lid fun u => { u with resid := u.resid || act }
    let s : State := { s with
      homes := s.homes.filter fun h => !(h.part == p && h.lid == lid)
      hsets := s.hsets.filter fun h => !(h.part == p && h.lid == lid) }
    match s.readImage p u.secure (u.f 255 192) with
    | none => ((s.countError (s.partError p u.secure (u.f 255 192) imgPieces)).freeTiles p lid).rejectLaunch u 0x0C 0 0
    | some img =>
      match s.loadNet u u.place with
      | .error (s, why, a, b) => (s.freeTiles p lid).rejectLaunch u why a b
      | .ok s =>
        let again := (List.zip (List.range u.place.length) u.place).filter fun x =>
          (s.tile x.2).res.map (fun r => (r.part, r.lid, r.rank)) = some (p, lid, x.1)
        if again.any fun x => (s.shadowCopy p (s.tile x.2)).isNone then
          raiseHalt (again.foldl (fun (s : State) x => s.onTile x.2 fun t => { t with stops := [] }) s) p cECC 10 0
        else
          let alone := !again.isEmpty
          let s := again.foldl (State.rerunTask u img) s
          let s : State := { s with saves := s.saves.map fun (x : Saved) =>
              if x.part = p ∧ x.lid = lid then x.afresh u img alone else x }
          s.changeUnit p 0 lid fun u => { u with
            state := 1, cause := 0, reason := 0, deta := 0, detb := 0, preempting := false
            tasks := again.foldl (fun t (x : Nat × Nat) => t.set x.1 1) (if alone then u.tasks.map fun t => if t = 3 then 2 else t
              else u.tasks) }

/-- A launch of a fold of which some task has ended runs again from its image (R356): the log that held what it wrote is
gone. It is placed anew. (DESIGN CHOICE, log 80) -/
def WorkUnit.reopened (u : WorkUnit) : WorkUnit :=
  { u with
    ended := false, state := 1, cause := 0, reason := 0, deta := 0, detb := 0, counter := 0, ready := none, pass := 0
    place := [], tasks := u.tasks.map fun _ => 0, starting := false, loaded := false, resumable := false
    preempting := false }

/-- Reopen a launch of a fold: its entries, saves and tiles are given up. -/
def State.reopenLaunch (s : State) (u : WorkUnit) : State :=
  let (s, act) := s.dropEntries u.part u.id
  let v := { u.reopened with resid := u.resid || act }
  let s := (s.freeTiles u.part u.id).onPart u.part fun x => { x with reserved := x.reserved.filter (·.1 != u.id) }
  let s : State := { s with
    saves := s.saves.filter fun x => !(x.part == u.part && x.lid == u.id)
    homes := s.homes.filter fun h => !(h.part == u.part && h.lid == u.id)
    hsets := s.hsets.filter fun h => !(h.part == u.part && h.lid == u.id)
    units := s.units.map fun w => if w = u then v else w }
  s.writeStat v

/-- RERUN of a fold (R356): the fold goes on with an empty log, and its launches that had lost an ended task or had ended
run again from their images. -/
def State.rerunFold (s : State) (p fold : Nat) : State :=
  match s.unit p 2 fold with
  | none => s
  | some f =>
    let s := s.changeUnit p 2 fold fun f => { f with
      state := 1, cause := 0, reason := 0, deta := 0, detb := 0, log := [], logFull := false }
    ((s.jobUnits p f.jid).filter fun u => u.level == 0 && u.fold == fold && u.admitted && u.state != 3 && u.state != 5 &&
      u.tasks.contains 4 && (!u.ended || (s.unit p 0 u.id).isNone)).foldl (fun (s : State) u => s.reopenLaunch u) s

/-- The launches that a halt has stopped on their tiles. -/
def State.haltedLaunches (s : State) (p : Nat) : List Nat :=
  ((s.tiles.filter fun (t : Nat × Tile) => t.2.ofPart p).map fun (t : Nat × Tile) => (t.2.res.map (·.lid)).getD 0).eraseDups

/-- Does a cancel put off to the release reach a launch (R337, R361)? -/
def State.cancelReaches (s : State) (p lid : Nat) (c : Nat × Nat) : Bool :=
  match s.unit p 0 lid with
  | none => false
  | some u =>
    match c.1 with
    | 0 => c.2 == lid
    | 1 => c.2 == u.gid
    | 2 => u.fold != 0 && decide (c.2 ≤ u.fold) && (s.unit p 2 c.2).any fun f => f.jid == u.jid
    | _ => c.2 == u.jid

/-- RELEASE (R356, R361): per halted launch RERUN where the list says so, and with it every launch of its fold that has
started, those that have ended among them; the others are cancelled. The line is lowered, routers go on, cancels put off are applied, and
the shepherd chooses. -/
def State.releaseHalt (s : State) (p : Nat) (list : List (Nat × Nat)) : State :=
  let halted := s.haltedLaunches p
  let cancels := (s.part p).cancels
  let deferred := fun lid => cancels.any (s.cancelReaches p lid)
  let named := fun lid => (list.find? (·.1 == lid)).map (·.2) == some 1 && !deferred lid
  let folds := ((halted.filter named).map fun l => s.foldOf p l).filter (· != 0)
  let ofFold := fun lid => !deferred lid && folds.contains (s.foldOf p lid)
  let peers := (s.units.filter fun u => u.part == p && u.level == 0 && !u.ended && u.loaded &&
    !halted.contains u.id && ofFold u.id).map (·.id)
  let folds := folds.eraseDups.filter fun f => !(cancels.any fun c => match s.unit p 2 f with
    | some x => (c.1 == 2 && c.2 ≤ f && (s.unit p 2 c.2).any fun y => y.jid == x.jid) || (c.1 == 3 && c.2 == x.jid)
    | none => true)
  let again := halted.map (fun lid => (lid, named lid || ofFold lid)) ++ peers.map fun lid => (lid, true)
  let s := (s.leavePartWalks p).onPart p fun x => { x with halts := 0, halt := none, cancels := [], reserved := [] }
  let s : State := { s with routers := s.routers.map fun (r : Nat × Router) =>
      (r.1, { r.2 with stopped := r.2.stopped.filter (· != p) }) }
  let s := folds.foldl (fun (s : State) f => s.rerunFold p f) s
  let s := again.foldl (fun (s : State) x =>
    if x.2 then (if (s.unit p 0 x.1).any (!·.loaded) then s else s.rerunLaunch p x.1)
    else (s.freeTiles p x.1).cancelLaunch p x.1) s
  let s := cancels.foldl (fun (s : State) c => s.cancelUnit p c.1 c.2) s
  (s.refresh p).choiceEvent p

end Sys2Proof.Machine
end

