-- ==== Sys2Proof/Machine/Issue.lean ====
section
/-! DEFINITION. Results landing (R28, R29), the head of a strand (R14, R20 to R24, R30, R72, R105), bundles (R23, R24,
R73, R76) and the forced boundary (R328). -/

namespace Sys2Proof.Machine

/-! ## Landing (R28, R29, R31) -/

/-- Write the sub-elements that a mask names into a lane (R154). -/
def mergeLane (w mask : Nat) (old new : W32) : W32 :=
  BitVec.ofNat 32 ((List.range (32 / w)).foldl (fun n j =>
    n + bits (if bitAt mask j then new.toNat else old.toNat) (w * j + w - 1) (w * j) * 2 ^ (w * j)) 0)

/-- The rows allocated under a tag take their lanes, in order. -/
def fillRows (tag : Nat) : List QRow → List (List W32) → List QRow
  | [], _ => []
  | x :: xs, v =>
    if x.tag = tag ∧ x.row.isNone then
      match v with
      | r :: rs => { x with row := some r, age := 0 } :: fillRows tag xs rs
      | [] => x :: fillRows tag xs []
    else x :: fillRows tag xs v

/-- A result lands. -/
def Tile.land (t : Tile) : Target → Tile
  | .scalar r v => t.setS r v
  | .vector r m v => t.setV r (List.zipWith (fun b (x : W32 × W32) => if b then x.2 else x.1) (maskList m) (List.zip (t.vreg r) v))
  | .packed r w subs v =>
    t.setV r (List.zipWith (fun k (x : W32 × W32) => mergeLane w k x.1 x.2) subs (List.zip (t.vreg r) v))
  | .rows q tag v => t.setVq q (fillRows tag (t.vqRows q) v)
  | .pred r m v => t.setK r ((t.kreg r &&& ~~~m) ||| (v &&& m))
  | .slot n v => t.setSlot n v
  | .acc a v => (v.foldl (fun t x => t.setAccRow a (x.1 / 64) ((t.accRow a (x.1 / 64)).set (x.1 % 64) x.2)) t).accClear
      (v.map fun x => accWord (128 * a + x.1 / 64) (x.1 % 64))
  | .accRow a l v => (v.foldl (fun t x => if l then t.setAccDen a x.1 x.2 else t.setAccMax a x.1 x.2) t).accClear
      (v.map fun x => accWord (128 * a + x.1) (if l then 65 else 64))
  | .q14 v => { t with q14 := t.q14 ++ [v] }
  | .q15 tag v => { t with q15 := fillWord t.q15 tag v }
  | .csr n kind a => t.csrWrite n kind a
  | .bases vrb krb k stage =>
    { t with vrb := vrb, krb := krb }.setK k (if stage then BitVec.allOnes 1024 else 0#1024)
  | .base i v => t.setBt i v
  | .loopCount eng i v => t.setLc eng i v
  | .dq q13 tag v => t.dqFill q13 tag v
  | .flags => t

/-- The register that a result lands in: of the S, V or K file and its number. -/
def Target.register : Target → Option (Nat × Nat)
  | .scalar r _ => some (0, r)
  | .vector r _ _ => some (1, r)
  | .packed r _ _ _ => some (1, r)
  | .pred r _ _ => some (2, r)
  | .bases _ _ k _ => some (2, k)
  | _ => none

/-- Is the result lost beside one that was issued later and falls due in the same clk for the same register (R29)? -/
def Target.lostTo (a b : Target) : Bool := a.register.isSome && a.register == b.register

/-- A result whose register a later-issued one takes: none of it lands there, in elements that the other does not write
either (R29); the bases that loopr writes beside its predicate stay. (DEDUCED, log 161) -/
def Tile.landLost (t : Tile) : Target → Tile
  | .bases vrb krb _ _ => { t with vrb := vrb, krb := krb }
  | _ => t

/-- Results of one clk land in issue order, each register taking the one that was issued last (R29). -/
def Tile.landAll (t : Tile) : List Flight → Tile
  | [] => t
  | f :: fs => (if fs.any fun g => f.tgt.lostTo g.tgt then t.landLost f.tgt else t.land f.tgt).landAll fs

/-- The results of the tile that are due land, then raise their flags (R28, R29, R39, R63). -/
def Tile.landDue (t : Tile) : Tile :=
  let due := t.flight.filter (·.rem == 0)
  due.foldl (fun t f => t.raise f.fl) ({ t with flight := t.flight.filter (·.rem != 0) }.landAll due)

/-- The same in the shadow bank (R136). A result of the shadow context raises none of the task's flags.
(DESIGN CHOICE, log 147) -/
def Shadow.landDue (h : Shadow) : Shadow :=
  (h.flight.filter (·.rem == 0)).foldl (fun h f => match f.tgt with
      | .scalar r v => if r = 0 then h else { h with regs := SMap.set 0#64 h.regs r v }
      | _ => h)
    { h with flight := h.flight.filter (·.rem != 0) }

/-- RESULT_LAND (R28, R29): the due results of the focus tile. A frozen task's results are abandoned (R348). -/
def execResultLand (s : State) : Out :=
  .next (if s.me.frozen then s
    else s.onMe fun t => { t.landDue with shadow := t.shadow.map Shadow.landDue })

/-! ## The head of a strand -/

/-- What a strand's program counter names: a fetch that faults (R22, R294), a word that faults when it would issue
(R72), or an instruction. -/
inductive Head where
  | fault (cause : Nat)
  | bad (sync : Bool) (delay : Nat)
  | ok (x : Slot)
  deriving DecidableEq, Repr

/-- Read the word at the program counter of the focus strand or shadow context. -/
def State.head (s : State) : Head :=
  let pc := s.pcNow.toNat
  match s.targetFault pc with
  | some c => .fault c
  | none =>
    let w := if s.focus.shadow then Mem.readN s.me.shadowStore pc 8 else Mem.readN s.me.sp pc 8
    if !s.focus.shadow && s.me.spBad pc 8 then .fault cECC
    else match decodeSlot s.focus.strand w with
      | .ok x => .ok x
      | .error _ => .bad (bitAt w 63) (bits w 62 60)

/-- Are the delay and the branch bubbles over (R14, R105)? -/
def StrandSt.ready (x : StrandSt) (delay : Nat) : Bool := decide (x.minAge ≤ x.age) && decide (1 + delay ≤ x.age)

/-- Is the unit that an instruction uses free (R30, R104, R145)? -/
def Tile.unitFree (t : Tile) (i : Instr) : Bool :=
  match i with
  | .div _ _ _ _ | .rem _ _ _ _ => t.busyDiv == 0
  | .vexp2 _ _ | .vlog2 _ _ => t.busyFt == 0
  | .vrrot _ | .vcrot _ | .vrbc _ | .vcbc _ | .vrred _ _ | .vcred _ _ | .vrscan _ _ | .vcscan _ _ | .vbstep _ _ _ _ =>
    t.busyXl == 0
  | .kand _ | .kor _ | .kxor _ | .kandn _ | .knot _ | .kmov _ | .kset _ _ | .ptest _ => t.busyPk == 0
  | .vacrr _ | .vaccr _ | .vacrw _ | .vaccw _ | .vacsr _ _ | .vacsw _ _ => t.busyAc == 0
  | .vadd _ _ | .vsub _ _ | .vmul _ _ | .vfma _ _ | .vfms _ _ | .vfnma _ _ | .vmax _ | .vmin _ | .vabs _ | .vneg _
  | .vmov _ | .vrcpe _ | .vrsqe _ | .vrcpn _ | .vrsqn _ | .viadd _ _ | .visub _ _ | .vimul _ _ | .vimulh _ _
  | .vimin _ _ | .vimax _ _ | .viand _ _ | .vior _ _ | .vixor _ _ | .vishl _ _ | .vishr _ _ | .visra _ _ | .viabs _ _
  | .viota _ _ _ | .vcvt _ _ _ _ _ | .vwid _ _ _ _ | .vcvti _ _ _ | .vcvtf _ _ _ | .vicvt _ _ _ _ | .vcmp _ _
  | .vicmp _ _ => t.busyFe == 0
  | _ => true

/-- The focus of a strand of a tile. -/
def strandFocus (tid : Nat) (st : Strand) : Focus := { Focus.reset with tile := tid, strand := st }
def State.atStrand (s : State) (tid : Nat) (st : Strand) : State := { s with focus := strandFocus tid st }

/-- May a strand of the tile issue in this clk? -/
def Tile.mayIssue (t : Tile) (st : Strand) : Bool :=
  t.clockRuns && (t.str st).running && !(t.str st).faulted

/-- A strand tries its head in this clk (R14, R20 to R23): the instruction that is to issue, if it stands alone and its
delay and unit allow it; a fetch or an encoding fault is taken. -/
def prepareIssue (s : State) (tid : Nat) (st : Strand) : Option Instr × State :=
  let s := s.atStrand tid st
  let x := s.me.str st
  if !s.me.mayIssue st then (none, s)
  else match s.head with
    | .fault c => (none, if x.ready 0 then strandFault s tid st c (x.pc.setWidth 64) else s)
    | .bad sync d => (none, if !sync && x.ready d then strandFault s tid st cILLEGAL 0 else s)
    | .ok i => (if !i.sync && x.ready i.delay.toNat && s.me.unitFree i.instr then some i.instr else none, s)

/-- The shadow context tries its head (R136, R139): counted in DCC; it has no partners, so S = 1 is no word of it.
(DEDUCED, log 77) -/
def prepareShadow (s : State) (tid : Nat) : Option Instr × State :=
  let s := { s with focus := { Focus.reset with tile := tid, strand := .c, shadow := true } }
  match s.me.shadow with
  | none => (none, s)
  | some h =>
    if !h.st.running then (none, s)
    else match s.head with
      | .fault c => (none, if h.st.ready 0 then shadowFault s tid c 0 else s)
      | .bad _ d => (none, if h.st.ready d then shadowFault s tid cILLEGAL 0 else s)
      | .ok i =>
        if !h.st.ready i.delay.toNat then (none, s)
        else if i.sync then (none, shadowFault s tid cILLEGAL 0)
        else match i.instr with
          | .div _ _ _ _ | .rem _ _ _ _ => (if h.divBusy = 0 then some i.instr else none, s)
          | i => (some i, s)

/-! ## Bundles (R23, R24, R73, R76) -/

/-- One member of a bundle: the meaning of a slot word's instruction. -/
def member (i : Instr) (s : State) : Out :=
  match i with
  | .jmp off => execJmp off s
  | .lpf off => execLpf off s
  | .add sd sa sb => execAdd sd sa sb s
  | .sub sd sa sb => execSub sd sa sb s
  | .and sd sa sb => execAnd sd sa sb s
  | .or sd sa sb => execOr sd sa sb s
  | .xor sd sa sb => execXor sd sa sb s
  | .shl sd sa sb => execShl sd sa sb s
  | .shr sd sa sb => execShr sd sa sb s
  | .sra sd sa sb => execSra sd sa sb s
  | .mul sd sa sb => execMul sd sa sb s
  | .mulh n sd sa sb => execMulh n sd sa sb s
  | .div n sd sa sb => execDiv n sd sa sb s
  | .rem n sd sa sb => execRem n sd sa sb s
  | .min n sd sa sb => execMin n sd sa sb s
  | .max n sd sa sb => execMax n sd sa sb s
  | .cmp cond sd sa sb => execCmp cond sd sa sb s
  | .sel sd sa sb sc => execSel sd sa sb sc s
  | .ext n w sd sa => execExt n w sd sa s
  | .bitc k sd sa => execBitc k sd sa s
  | .addi sd sa imm => execAddi sd sa imm s
  | .andi sd sa imm => execAndi sd sa imm s
  | .ori sd sa imm => execOri sd sa imm s
  | .xori sd sa imm => execXori sd sa imm s
  | .shli sd sa imm => execShli sd sa imm s
  | .shri sd sa imm => execShri sd sa imm s
  | .srai sd sa imm => execSrai sd sa imm s
  | .muli sd sa imm => execMuli sd sa imm s
  | .cmpi cond sd sa imm => execCmpi cond sd sa imm s
  | .li sd imm => execLi sd imm s
  | .lih sd sa imm => execLih sd sa imm s
  | .br off => execBr off s
  | .bc cond sa sb off => execBc cond sa sb off s
  | .bf fs test inv off => execBf fs test inv off s
  | .jr sa => execJr sa s
  | .call sd off => execCall sd off s
  | .loopr sd off => execLoopr sd off s
  | .pop r n => execPop r n s
  | .push r n => execPush r n s
  | .qlen r n => execQlen r n s
  | .rdfs r n => execRdfs r n s
  | .csrr sd csr => execCsrr sd csr s
  | .csrw csr sa => execCsrw csr sa s
  | .csrs csr sa => execCsrs csr sa s
  | .csrc csr sa => execCsrc csr sa s
  | .rand u sd sa sb => execRand u sd sa sb s
  | .btr sd idx => execBtr sd idx s
  | .btw idx sa => execBtw idx sa s
  | .lcw eng idx sa => execLcw eng idx sa s
  | .harr idx => execHarr idx s
  | .hwt idx => execHwt idx s
  | .hset idx sa => execHset idx sa s
  | .hpoll sd idx => execHpoll sd idx s
  | .lnch sa => execLnch sa s
  | .fcrd sd idx => execFcrd sd idx s
  | .fcw idx sa => execFcw idx sa s
  | .fcwt idx sa => execFcwt idx sa s
  | .cncl lvl sa => execCncl lvl sa s
  | .lvwt lvl sa sb => execLvwt lvl sa sb s
  | .phint imm => execPhint imm s
  | .yield imm => execYield imm s
  | .trace sa imm => execTrace sa imm s
  | .trap imm => execTrap imm s
  | .shi sd imm => execShi sd imm s
  | .xlin sa sb => execXlin sa sb s
  | .pblk pattern cnt kp => execPblk pattern cnt kp s
  | .vadd o rm => execVadd o rm s
  | .vsub o rm => execVsub o rm s
  | .vmul o rm => execVmul o rm s
  | .vfma o rm => execVfma o rm s
  | .vfms o rm => execVfms o rm s
  | .vfnma o rm => execVfnma o rm s
  | .vmax o => execVmax o s
  | .vmin o => execVmin o s
  | .vabs o => execVabs o s
  | .vneg o => execVneg o s
  | .vmov o => execVmov o s
  | .vexp2 o rm => execVexp2 o rm s
  | .vlog2 o rm => execVlog2 o rm s
  | .vrcpe o => execVrcpe o s
  | .vrsqe o => execVrsqe o s
  | .vrcpn o => execVrcpn o s
  | .vrsqn o => execVrsqn o s
  | .viadd o lt => execViadd o lt s
  | .visub o lt => execVisub o lt s
  | .vimul o lt => execVimul o lt s
  | .vimulh o lt => execVimulh o lt s
  | .vimin o lt => execVimin o lt s
  | .vimax o lt => execVimax o lt s
  | .viand o lt => execViand o lt s
  | .vior o lt => execVior o lt s
  | .vixor o lt => execVixor o lt s
  | .vishl o lt => execVishl o lt s
  | .vishr o lt => execVishr o lt s
  | .visra o lt => execVisra o lt s
  | .viabs o lt => execViabs o lt s
  | .viota o lt k => execViota o lt k s
  | .vcvt o rm fmt x sat => execVcvt o rm fmt x sat s
  | .vwid o part fmt x => execVwid o part fmt x s
  | .vcvti o rm lt => execVcvti o rm lt s
  | .vcvtf o rm lt => execVcvtf o rm lt s
  | .vicvt o dt sl sat => execVicvt o dt sl sat s
  | .vrrot o => execVrrot o s
  | .vcrot o => execVcrot o s
  | .vrbc o => execVrbc o s
  | .vcbc o => execVcbc o s
  | .vrred o k => execVrred o k s
  | .vcred o k => execVcred o k s
  | .vrscan o k => execVrscan o k s
  | .vcscan o k => execVcscan o k s
  | .vbstep o b j dir => execVbstep o b j dir s
  | .vcmp o cond => execVcmp o cond s
  | .vicmp o cond => execVicmp o cond s
  | .kand o => execKand o s
  | .kor o => execKor o s
  | .kxor o => execKxor o s
  | .kandn o => execKandn o s
  | .knot o => execKnot o s
  | .kmov o => execKmov o s
  | .kset o k => execKset o k s
  | .ptest o => execPtest o s
  | .vacrr o => execVacrr o s
  | .vaccr o => execVaccr o s
  | .vacrw o => execVacrw o s
  | .vaccw o => execVaccw o s
  | .vacsr o k => execVacsr o k s
  | .vacsw o k => execVacsw o k s
  | .stset st fld sa => execStset st fld sa s
  | .stld st sa => execStld st sa s
  | .stsv st sa => execStsv st sa s
  | .srd st sa imm => execSrd st sa imm s
  | .swr st sa imm => execSwr st sa imm s
  | .sstop st => execSstop st s
  | .lds sx sz qs sa off => execLds sx sz qs sa off s
  | .sts sz sa off => execSts sz sa off s
  | .aadd w qs sa sb off => execAadd w qs sa sb off s
  | .amin n w qs sa sb off => execAmin n w qs sa sb off s
  | .amax n w qs sa sb off => execAmax n w qs sa sb off s
  | .aand w qs sa sb off => execAand w qs sa sb off s
  | .aor w qs sa sb off => execAor w qs sa sb off s
  | .axor w qs sa sb off => execAxor w qs sa sb off s
  | .axchg w qs sa sb off => execAxchg w qs sa sb off s
  | .acas w qs sa sb sc off => execAcas w qs sa sb sc off s
  | .afadd qs sa sb off => execAfadd qs sa sb off s
  | .rgset rg fld sa => execRgset rg fld sa s
  | .rgrd qs rg fld => execRgrd qs rg fld s
  | .rpush rg => execRpush rg s
  | .fence scope sc => execFence scope sc s
  | .xfence scope => execXfence scope s
  | .spt qs sa => execSpt qs sa s
  | .spc cs qs sa sb => execSpc cs qs sa sb s
  | .post eng sa => execPost eng sa s
  | .tadv eng sa => execTadv eng sa s
  | .cseq eng => execCseq eng s
  | .cwait eng sa => execCwait eng sa s
  | .fsend o fid sa sb fc => execFsend o fid sa sb fc s
  | .fwait fc sa => execFwait fc sa s
  | .aqry sa sb sc fc => execAqry sa sb sc fc s
  | .topk k sa sb sc fc => execTopk k sa sb sc fc s
  | .kvtrunc sa sb fc => execKvtrunc sa sb fc s
  | .nop => execNop s
  | .fin => execFin s
  | .shret => execShret s
  | .mark => execMark s
  | _ => .next s

/-- The state after a member (a member never stops the model). -/
def runMember (s : State) (f : Focus) (i : Instr) : State :=
  match member i { s with focus := f } with
  | .next s => s
  | _ => s

/-- The strands in the order in which they are taken. -/
def allStrands : List Strand := [.c, .v, .d, .e]

/-- A strand with the word it stands at. -/
abbrev Stand := Strand × Head

/-- Does a strand stand at an instruction with S = 1? -/
def Head.sync : Head → Bool
  | .fault _ => false
  | .bad b _ => b
  | .ok x => x.sync

def Head.delay : Head → Nat
  | .fault _ => 0
  | .bad _ d => d
  | .ok x => x.delay.toNat

/-- The strands of a tile that have not stopped, with the words they stand at. (DEDUCED, log 78) -/
def State.stands (s : State) (tid : Nat) : List Stand :=
  (allStrands.filter fun st => ((s.tile tid).str st).running).map fun st => (st, (s.atStrand tid st).head)

/-- The focus of a bundle's member: does a loopr close the loop, and is it taken (R76)? -/
def bundleFocus (s : State) (tid : Nat) (c : Head) (mode : Nat) (st : Strand) : Focus :=
  let f := { strandFocus tid st with mode := mode }
  match c with
  | .ok ⟨_, _, .loopr sd _⟩ => { f with closes := true, follow := (loopNext ((s.tile tid).sreg sd.toNat)).taken }
  | _ => f

/-- A member's verdict: 0 it may issue, 1 it blocks, 2 it faults. -/
def State.verdictOf (s : State) (tid : Nat) (c : Head) (x : Stand) : Nat :=
  match x.2 with
  | .ok i => (runMember s (bundleFocus s tid c 2 x.1) i.instr).focus.verdict
  | _ => 2

/-- What a tile's strands find together. -/
inductive Bundle where
  /-- no bundle can issue now; these strands stand at one -/
  | wait (c : Head) (l : List Stand)
  /-- a strand has stopped, and these stand at a bundle (R24) -/
  | orphan (l : List Strand)
  /-- some member would block -/
  | block (c : Head) (l : List (Stand × Nat))
  /-- some member faults -/
  | fault (c : Head) (l : List (Stand × Nat))
  | go (c : Head) (l : List Stand)
  deriving Repr

/-- Are a member's delay and unit over (R14, R30)? -/
def memberReady (t : Tile) (x : Stand) : Bool :=
  (t.str x.1).ready x.2.delay && match x.2 with
    | .ok i => t.unitFree i.instr
    | _ => true

def State.bundle (s : State) (tid : Nat) : Bundle :=
  let t := s.tile tid
  let l := s.stands tid
  let at_ := l.filter fun x => x.2.sync && decide ((t.str x.1).minAge ≤ (t.str x.1).age) && !(t.str x.1).faulted
  let c := ((l.find? fun x => x.1 == .c).map (·.2)).getD (.fault 0)
  if at_.length < l.length || l.isEmpty then .wait c at_
  else if l.length < 4 then .orphan (l.map (·.1))
  else
    let ready := l.filter (memberReady t)
    if ready.length < 4 then .wait c ready
    else
      let v := l.map fun x => (x, s.verdictOf tid c x)
      if v.any (·.2 == 1) then .block c v
      else if v.any (·.2 == 2) then .fault c v
      else .go c l

/-- A strand waits for its partners (WAIT code 7 of R352). -/
def waitPartners (s : State) (tid : Nat) (st : Strand) : State :=
  s.onTile tid fun t => t.onStr st fun x => { x with waiting := true, wait := 7, waitNum := 0, blocked := 0 }

/-- A member whose own check does not pass: its block is counted, or its fault taken; a word of no meaning is
ILLEGAL. (DEDUCED, log 76) -/
def memberStops (s : State) (tid : Nat) (c : Head) (x : Stand) : State :=
  match x.2 with
  | .ok i => runMember s (bundleFocus s tid c 0 x.1) i.instr
  | _ => strandFault s tid x.1 cILLEGAL 0

/-- A strand that stands at a bundle which cannot issue yet: where its own member would block, that block counts (R27);
else it waits for its partners. -/
def standAlone (s : State) (tid : Nat) (c : Head) (x : Stand) : State :=
  if memberReady (s.tile tid) x && s.verdictOf tid c x == 1 then memberStops s tid c x else waitPartners s tid x.1

/-- BUNDLE_ISSUE (R23, R24, R73): the four strands of the focus tile at their bundle. (DEDUCED, log 10) -/
def execBundleIssue (s : State) : Out :=
  let tid := s.focus.tile
  .next (if !s.me.clockRuns then s
    else match s.bundle tid with
      | .wait c l => l.foldl (fun s x => standAlone s tid c x) s
      | .orphan l => l.foldl (fun s st => strandFault s tid st cILLEGAL 0) s
      | .block c l => l.foldl (fun s x => if x.2 = 1 then memberStops s tid c x.1 else waitPartners s tid x.1.1) s
      | .fault c l => l.foldl (fun s x =>
          if x.2 = 2 then memberStops s tid c x.1
          else s.onTile tid fun t => t.onStr x.1.1 fun y => { y with notIssued := true }) s
      | .go c l => l.foldl (fun s' x => match x.2 with
          | .ok i => runMember s' (bundleFocus s tid c 1 x.1) i.instr
          | _ => s') s)

/-! ## The forced boundary (R328, R357, R361) -/

/-- Is an instruction a cooperative pre-emption point? -/
def isPoint : Instr → Bool
  | .phint _ => true
  | .yield _ => true
  | _ => false

/-- Would the C strand issue a phint or a yield in this clk? -/
def State.willYield (s : State) (tid : Nat) : Bool :=
  match prepareIssue s tid .c with
  | (some i, _) => isPoint i
  | (none, _) => match s.bundle tid with
    | .go (.ok x) _ => isPoint x.instr
    | _ => false

/-- FORCED_BOUNDARY (R132, R328, R357): the task of the focus tile has reached its request's deadline, and in this clk,
after its D accesses and its MX, no phint or yield would issue; OVR rises in this clk. -/
def execForcedBoundary (s : State) : Out :=
  .next (match s.me.preq with
    | some ⟨0⟩ =>
      if !s.me.clockRuns || s.me.drain.isSome || (s.part s.myPart).halt.isSome || s.willYield s.focus.tile then s
      else
        let s := match s.me.res with
          | some r => s.countForced r
          | none => s
        s.onMe fun t => { t with drain := some ⟨BitVec.allOnes 24, true, true, []⟩ }
    | _ => s)

end Sys2Proof.Machine
end

