-- ==== Sys2Proof/Machine/Sha.lean ====
section
/-! DEFINITION. SHA-512 and the RSASSA-PSS check that the boot ROM makes (17_system.md R427 to R430): SHA-512 as in FIPS
180-4, MGF1 and EMSA-PSS with SHA-512 and a 64-byte salt as in RFC 8017, with public exponent 65,537. -/

namespace Sys2Proof.Machine

/-- Round constants 0 to 19 of SHA-512. -/
def shaK0 : List W64 :=
  [0x428a2f98d728ae22#64, 0x7137449123ef65cd#64, 0xb5c0fbcfec4d3b2f#64, 0xe9b5dba58189dbbc#64,
   0x3956c25bf348b538#64, 0x59f111f1b605d019#64, 0x923f82a4af194f9b#64, 0xab1c5ed5da6d8118#64,
   0xd807aa98a3030242#64, 0x12835b0145706fbe#64, 0x243185be4ee4b28c#64, 0x550c7dc3d5ffb4e2#64,
   0x72be5d74f27b896f#64, 0x80deb1fe3b1696b1#64, 0x9bdc06a725c71235#64, 0xc19bf174cf692694#64,
   0xe49b69c19ef14ad2#64, 0xefbe4786384f25e3#64, 0x0fc19dc68b8cd5b5#64, 0x240ca1cc77ac9c65#64]
/-- Round constants 20 to 39 of SHA-512. -/
def shaK1 : List W64 :=
  [0x2de92c6f592b0275#64, 0x4a7484aa6ea6e483#64, 0x5cb0a9dcbd41fbd4#64, 0x76f988da831153b5#64,
   0x983e5152ee66dfab#64, 0xa831c66d2db43210#64, 0xb00327c898fb213f#64, 0xbf597fc7beef0ee4#64,
   0xc6e00bf33da88fc2#64, 0xd5a79147930aa725#64, 0x06ca6351e003826f#64, 0x142929670a0e6e70#64,
   0x27b70a8546d22ffc#64, 0x2e1b21385c26c926#64, 0x4d2c6dfc5ac42aed#64, 0x53380d139d95b3df#64,
   0x650a73548baf63de#64, 0x766a0abb3c77b2a8#64, 0x81c2c92e47edaee6#64, 0x92722c851482353b#64]
/-- Round constants 40 to 59 of SHA-512. -/
def shaK2 : List W64 :=
  [0xa2bfe8a14cf10364#64, 0xa81a664bbc423001#64, 0xc24b8b70d0f89791#64, 0xc76c51a30654be30#64,
   0xd192e819d6ef5218#64, 0xd69906245565a910#64, 0xf40e35855771202a#64, 0x106aa07032bbd1b8#64,
   0x19a4c116b8d2d0c8#64, 0x1e376c085141ab53#64, 0x2748774cdf8eeb99#64, 0x34b0bcb5e19b48a8#64,
   0x391c0cb3c5c95a63#64, 0x4ed8aa4ae3418acb#64, 0x5b9cca4f7763e373#64, 0x682e6ff3d6b2b8a3#64,
   0x748f82ee5defb2fc#64, 0x78a5636f43172f60#64, 0x84c87814a1f0ab72#64, 0x8cc702081a6439ec#64]
/-- Round constants 60 to 79 of SHA-512. -/
def shaK3 : List W64 :=
  [0x90befffa23631e28#64, 0xa4506cebde82bde9#64, 0xbef9a3f7b2c67915#64, 0xc67178f2e372532b#64,
   0xca273eceea26619c#64, 0xd186b8c721c0c207#64, 0xeada7dd6cde0eb1e#64, 0xf57d4f7fee6ed178#64,
   0x06f067aa72176fba#64, 0x0a637dc5a2c898a6#64, 0x113f9804bef90dae#64, 0x1b710b35131c471b#64,
   0x28db77f523047d84#64, 0x32caab7b40c72493#64, 0x3c9ebe0a15c9bebc#64, 0x431d67c49c100d4c#64,
   0x4cc5d4becb3e42b6#64, 0x597f299cfc657e2a#64, 0x5fcb6fab3ad6faec#64, 0x6c44198c4a475817#64]
/-- The round constants of SHA-512. -/
def shaK : List W64 := shaK0 ++ shaK1 ++ shaK2 ++ shaK3
/-- The initial hash value of SHA-512. -/
def shaInit : List W64 :=
  [0x6a09e667f3bcc908#64, 0xbb67ae8584caa73b#64, 0x3c6ef372fe94f82b#64, 0xa54ff53a5f1d36f1#64,
   0x510e527fade682d1#64, 0x9b05688c2b3e6c1f#64, 0x1f83d9abfb41bd6b#64, 0x5be0cd19137e2179#64]

/-- The message schedule: `n` more words from the last 16. -/
def shaSched : Nat → List W64 → List W64
  | 0, _ => []
  | n + 1, w =>
    let a := w.getD 14 0
    let b := w.getD 1 0
    let s1 := a.rotateRight 19 ^^^ a.rotateRight 61 ^^^ (a >>> 6)
    let s0 := b.rotateRight 1 ^^^ b.rotateRight 8 ^^^ (b >>> 7)
    w.headD 0 :: shaSched n (w.drop 1 ++ [s1 + w.getD 9 0 + s0 + w.headD 0])

/-- One round on the eight working variables. -/
def shaRound (v : List W64) (kw : W64) : List W64 :=
  let a := v.getD 0 0
  let b := v.getD 1 0
  let c := v.getD 2 0
  let e := v.getD 4 0
  let f := v.getD 5 0
  let g := v.getD 6 0
  let t1 := v.getD 7 0 + (e.rotateRight 14 ^^^ e.rotateRight 18 ^^^ e.rotateRight 41) + ((e &&& f) ^^^ (~~~e &&& g)) + kw
  let t2 := (a.rotateRight 28 ^^^ a.rotateRight 34 ^^^ a.rotateRight 39) + ((a &&& b) ^^^ (a &&& c) ^^^ (b &&& c))
  [t1 + t2, a, b, c, v.getD 3 0 + t1, e, f, g]

/-- One block of 16 words. -/
def shaBlock (h w : List W64) : List W64 :=
  List.zipWith (· + ·) h ((List.zipWith (· + ·) shaK (shaSched 80 w)).foldl shaRound h)

/-- A big-endian number of bytes. -/
def beNat (l : List W8) : Nat := l.foldl (fun n b => 256 * n + b.toNat) 0
/-- `n` bytes of a number, the most significant first. -/
def beBytes (n v : Nat) : List W8 := (bytesOf n v).reverse

/-- The hash over blocks of 128 bytes. -/
def shaGo : Nat → List W8 → List W64 → List W64
  | 0, _, h => h
  | n + 1, l, h =>
    shaGo n (l.drop 128) (shaBlock h (tab 16 fun i => BitVec.ofNat 64 (beNat ((l.drop (8 * i)).take 8))))

/-- SHA-512 of a message. -/
def sha512 (m : List W8) : List W8 :=
  let zeros := (239 - m.length % 128) % 128
  let l := m ++ [0x80#8] ++ List.replicate zeros 0#8 ++ beBytes 16 (8 * m.length)
  (shaGo (l.length / 128) l shaInit).flatMap fun w => beBytes 8 w.toNat

/-- MGF1 with SHA-512: `n` blocks of 64 bytes. -/
def mgf1 (seed : List W8) (n : Nat) : List W8 := (List.range n).flatMap fun i => sha512 (seed ++ beBytes 4 i)

/-- x to the power 2^k modulo m. -/
def squareMod (m : Nat) : Nat → Nat → Nat
  | 0, x => x
  | k + 1, x => squareMod m k (x * x % m)

/-- Is a 512-byte signature of a message valid under a 512-byte modulus? -/
def pssValid (key sig msg : List W8) : Bool :=
  let n := beNat key
  let x := beNat sig
  let em := beBytes 512 (squareMod n 16 (x % n) * x % n)
  let masked := em.take 447
  let h := (em.drop 447).take 64
  let db := List.zipWith (· ^^^ ·) masked (mgf1 h 7)
  let db := ((db.headD 0) &&& 0x7F#8) :: db.drop 1
  let salt := db.drop 383
  n != 0 && x < n && (masked.headD 0).toNat < 128 && em.getD 511 0 == 0xBC#8 &&
  (db.take 382).all (· == 0#8) && db.getD 382 0 == 1#8 &&
  sha512 (List.replicate 8 0#8 ++ sha512 msg ++ salt) == h

end Sys2Proof.Machine
end

