-- ==== Sys2Proof/Machine/Host.lean ====
section
/-! DEFINITION. The host (17_system.md R420 to R426): queue registers, the mailbox and its commands, management
registers, completions and events, and the verification of an image (R427 to R430). -/

namespace Sys2Proof.Machine

/-! ## Queue registers (R421) -/

/-- Fields of QCFG. -/
def HostQueue.enabled (q : HostQueue) : Bool := bitAt q.qcfg.toNat 63
/-- Entries of the submission, completion and event rings. -/
def HostQueue.sqEntries (q : HostQueue) : Nat := 2 ^ bits q.qcfg.toNat 47 44
def HostQueue.cqEntries (q : HostQueue) : Nat := 2 ^ bits q.qcfg.toNat 43 40
def HostQueue.eqEntries (q : HostQueue) : Nat := 2 ^ bits q.qcfg.toNat 39 36
/-- Fields of QST: submission head, completion tail, event tail, LOST. -/
def HostQueue.sqHead (q : HostQueue) : Nat := bits q.qst.toNat 11 0
def HostQueue.cqTail (q : HostQueue) : Nat := bits q.qst.toNat 27 16
def HostQueue.eqTail (q : HostQueue) : Nat := bits q.qst.toNat 43 32
def HostQueue.lost (q : HostQueue) : Nat := bits q.qst.toNat 63 48

/-- QST from its fields. -/
def qstWord (sq cq eq lost : Nat) : W64 :=
  BitVec.ofNat 64 (sq % 4096 + cq % 4096 * 2 ^ 16 + eq % 4096 * 2 ^ 32 + min lost 0xFFFF * 2 ^ 48)

/-- The size field that a write of QCFG leaves: ignored outside 4 to 12, and while the queue is enabled. -/
def sizeField (old : HostQueue) (v : W64) (hi lo : Nat) : Nat :=
  let n := bits v.toNat hi lo
  if old.enabled || n < 4 || 12 < n then bits old.qcfg.toNat hi lo else n

/-- QCFG after a write. -/
def qcfgWrite (q : HostQueue) (v : W64) : W64 :=
  BitVec.ofNat 64 (bits v.toNat 63 63 * 2 ^ 63 + sizeField q v 47 44 * 2 ^ 44 + sizeField q v 43 40 * 2 ^ 40 +
    sizeField q v 39 36 * 2 ^ 36 + bits v.toNat 10 0)

/-- A host write of a queue page's register (R421). (DEDUCED, log 88) -/
def HostQueue.write (q : HostQueue) (off : Nat) (v : W64) : HostQueue :=
  match off with
  | 0x00 => if q.enabled then q else { q with sqb := BitVec.ofNat 64 (v.toNat / 4096 * 4096) }
  | 0x08 => if q.enabled then q else { q with cqb := v }
  | 0x10 => if q.enabled then q else { q with eqb := v }
  | 0x18 => { q with qcfg := qcfgWrite q v }
  | 0x28 => { q with cqh := v &&& 0xFFF#64 }
  | 0x30 => { q with eqh := v &&& 0xFFF#64 }
  | _ => q

/-- The queue and the register of a function's BAR0 offset (R420): queue q's page lies at (q mod 8) × 0x1000. -/
def hostPage (function off : Nat) : Option (Nat × Nat) :=
  if function < 2 ∧ off < 0x8000 then some (8 * function + off / 0x1000, off % 0x1000) else none

/-- What a host read of a queue page's register returns (R9, R421): SQT is write-only and reads zero. -/
def HostQueue.read (q : HostQueue) (off : Nat) : W64 :=
  match off with
  | 0x00 => q.sqb
  | 0x08 => q.cqb
  | 0x10 => q.eqb
  | 0x18 => q.qcfg
  | 0x28 => q.cqh
  | 0x30 => q.eqh
  | 0x38 => q.qst
  | _ => 0

/-- A host read of a function's BAR0 (R420, R421): the value goes to the host. -/
def State.hostRead (s : State) (function off : Nat) : State :=
  let v := match hostPage function off with
    | some (k, reg) => (s.queue k).read reg
    | none => 0
  { s with hostReads := s.hostReads ++ [(function, off, v)] }

/-- The MSI-X message of a queue: its function and its vector (R420, R421). -/
def HostQueue.message (n : Nat) (q : HostQueue) : Nat × Nat := (n / 8, bits q.qcfg.toNat 10 0)

/-- HOST_QUEUE_REGISTER_WRITE (R421): SQB, CQB, EQB, QCFG, CQH and EQH. -/
def execHostQueueRegisterWrite (queue : Nat) (off : Nat) (v : BitVec 64) (s : State) : Out :=
  .next (if queue < 16 then s.onQueue queue fun q => q.write off v else s)

/-- SQ_DOORBELL (R421): the submission tail. -/
def execSqDoorbell (queue : Nat) (v : BitVec 64) (s : State) : Out :=
  .next (if queue < 16 then s.onQueue queue fun q => { q with sqt := v &&& 0xFFF#64 } else s)

/-- Submission entries pending: (SQT − head) mod 2^SQS. -/
def HostQueue.pending (q : HostQueue) : Nat := (q.sqt.toNat + 4096 - q.sqHead) % q.sqEntries

/-! ## Completions and events (R421, R423, R434) -/

/-- Has what a completion waits for still to be done (R280, R424)? -/
def State.awaits (s : State) : Option Wait → Bool
  | none => false
  | some (.migration _) => true
  | some (.inval p) => s.staleLogged p

/-- COMPLETION_WRITE (R421, R423, R424): the oldest completion of the focus queue is written once its command has been
performed and its ring has room.
(DEDUCED, log 89) -/
def execCompletionWrite (s : State) : Out :=
  let n := s.focus.queue
  let q := s.queue n
  .next (match q.comps with
    | [] => s
    | c :: rest =>
      let k := q.cqEntries
      if !q.enabled || s.awaits c.waits || (q.cqTail + k - q.cqh.toNat % k) % k ≥ k - 1 then s
      else
        let a := q.cqb.toNat + 16 * (q.cqTail % k)
        let m := Mem.writeBytes s.hostMem a (bytesOf 8 (c.tag.toNat + c.status % 256 * 2 ^ 32) ++ bytesOf 8 c.detail.toNat)
        let s : State := { s with hostMem := m, msix := s.msix ++ [q.message n] }
        s.onQueue n fun q => { q with
          comps := rest, qst := qstWord q.sqHead ((q.cqTail + 1) % k) q.eqTail q.lost })

/-- EVENT_WRITE (R421, R434): the oldest waiting event of the focus queue is written; in a full ring the oldest entry
is overwritten, EQH moves on and LOST increases. A queue that is not enabled has no ring. -/
def execEventWrite (s : State) : Out :=
  let n := s.focus.queue
  let q := s.queue n
  .next (match q.events with
    | [] => s
    | w :: rest =>
      if !q.enabled then s.onQueue n fun q => { q with events := rest }
      else
        let k := q.eqEntries
        let full := (q.eqTail + k - q.eqh.toNat % k) % k ≥ k - 1
        let a := q.eqb.toNat + 16 * (q.eqTail % k)
        let m := Mem.writeBytes s.hostMem a (bytesOf 8 (w.getD 0 0).toNat ++ bytesOf 8 (w.getD 1 0).toNat)
        let s : State := { s with hostMem := m, msix := s.msix ++ [q.message n] }
        s.onQueue n fun q => { q with
          events := rest
          eqh := if full then BitVec.ofNat 64 ((q.eqh.toNat + 1) % k) else q.eqh
          qst := qstWord q.sqHead q.cqTail ((q.eqTail + 1) % k) (q.lost + b2n full) })

/-! ## Commands (R422 to R424) -/

/-- Status codes (R423). -/
def mOK : Nat := 0x00
def mBADCMD : Nat := 0x01
def mXLATE : Nat := 0x02
def mPERM : Nat := 0x03
def mWORLD : Nat := 0x04
def mECC : Nat := 0x05
def mREFUSED : Nat := 0x06
def mBUSY : Nat := 0x07
def mAUTH : Nat := 0x08

/-- The status of an access cause. -/
def causeStatus (c : Nat) : Nat :=
  if c = cPERM then mPERM else if c = cWORLD then mWORLD else if c = cECC then mECC else mXLATE

/-- The mailbox goes on from the command of the focus queue, whose completion takes its place in the queue's order. -/
def State.goOn (s : State) (x : Completion) : State :=
  let n := s.focus.queue
  let s : State := { s with accepted := none, served := n }
  s.onQueue n fun q => { q with
    comps := q.comps ++ [x]
    qst := qstWord ((q.sqHead + 1) % q.sqEntries) q.cqTail q.eqTail q.lost }

/-- The command of the focus queue is done: its completion waits to be written, and the mailbox goes on. -/
def State.answer (s : State) (c : Cmd) (status : Nat) (detail : Nat) : State :=
  s.goOn ⟨c.tag, none, status, BitVec.ofNat 64 detail⟩

/-- A queue's partition and world (R420, R425). -/
def State.qPart (s : State) : Nat := s.focus.queue % 8
def State.qSecure (s : State) : Bool := 8 ≤ s.focus.queue

/-- In recovery, what a command may be (R428): from queue 8, MREAD of block 0x03, and FWUPD. -/
def State.recovering (s : State) : Bool := !bitAt s.bootst.toNat 63

/-- A command's common checks: the reserved bits, the FLG bits it uses, and that the package is not in recovery. -/
def State.cmdOk (s : State) (c : Cmd) (flgs : Nat) : Bool :=
  c.rsv == 0#16 && c.flg.toNat &&& (255 - flgs) == 0 && !s.recovering

/-- Pieces of a range that each lie in one 64 KiB page: address and bytes. -/
def pieces64K (va n : Nat) : Nat → List (Nat × Nat)
  | 0 => []
  | fuel + 1 =>
    if n = 0 then []
    else
      let k := min n (65536 - va % 65536)
      (va, k) :: pieces64K (va + k) (n - k) fuel

/-- The save slots and the stop area of a partition with SEC = 1 (R425): does a physical range meet them? -/
def Partition.guarded (x : Partition) (tier pa n : Nat) : Bool :=
  bitAt x.reg.toNat 62 && tier == 0 &&
  ((bitAt x.savebase.toNat 63 && overlaps pa n (bits x.savebase.toNat 51 22 * 2 ^ 22) (bits x.saven.toNat 15 0 * 2 ^ 22)) ||
   (bitAt x.stopbase.toNat 63 && overlaps pa n (bits x.stopbase.toNat 51 18 * 2 ^ 18) (384 * 512)))

/-- The operands that HWRITE and HREAD share. -/
def rangeOk (c : Cmd) : Bool :=
  c.a.toNat % 4 == 0 && c.n.toNat % 4 == 0 && 4 ≤ c.n.toNat && c.n.toNat ≤ 2 ^ 24 && c.a.toNat + c.n.toNat ≤ 2 ^ 48

/-- Why a copy does not take place now. -/
inductive CopyStop where
  | wait
  | stop (status va : Nat)
  deriving DecidableEq, Repr

/-- Translate every page of a range for the focus queue (R277 to R279, R422, R425). -/
def hostPlaces (s : State) (c : Cmd) (write : Bool) : Except CopyStop (List (Nat × (Nat × Nat))) × State :=
  let l := pieces64K c.a.toNat c.n.toNat 300
  match State.gplaces s.qPart mailboxWho s.qSecure (l.map fun x => (x.1, 0, !write, write)) s with
  | (.error (_, .wait), s) => (.error .wait, s)
  | (.error (i, .fault k), s) => (.error (.stop (causeStatus k) (l.getD i (0, 0)).1), s)
  | (.error (i, _), s) => (.error (.stop mXLATE (l.getD i (0, 0)).1), s)
  | (.ok places, s) =>
    let at_ := List.zip (l.map (·.2)) places
    match (List.zip l places).find? fun x => !s.qSecure && (s.part s.qPart).guarded x.2.1 x.2.2 x.1.2 with
    | some x => (.error (.stop mWORLD x.1.1), s)
    | none => (.ok at_, s)

/-- HWRITE (R288, R422): host memory to global memory. (DEDUCED, log 82) -/
def execHwrite (c : Cmd) (s : State) : Out :=
  .next (
    if !s.cmdOk c 0 || !rangeOk c then s.answer c mBADCMD 0
    else match hostPlaces s c true with
      | (.error .wait, s) => { s with accepted := some s.focus.queue }
      | (.error (.stop st va), s) => s.answer c st va
      | (.ok l, s) =>
        let r := l.foldl (fun (x : State × Nat) p =>
          (x.1.pwriteBytes p.2.1 p.2.2 (Mem.readBytes x.1.hostMem x.2 p.1), x.2 + p.1)) (s, c.h.toNat)
        r.1.answer c mOK 0)

/-- The address of the first word of a range that holds an uncorrectable error. -/
def firstBad (s : State) (l : List (Nat × (Nat × Nat))) (va : Nat) : Option Nat :=
  match l with
  | [] => none
  | (n, (tier, pa)) :: rest =>
    if s.memBad tier pa n then
      ((List.range (n / 4)).find? fun i => s.memBad tier (pa + 4 * i) 4).map fun i => va + 4 * i
    else firstBad s rest (va + n)

/-- HREAD (R288, R422): global memory to host memory; all data is checked before any is written. -/
def execHread (c : Cmd) (s : State) : Out :=
  .next (
    if !s.cmdOk c 0 || !rangeOk c then s.answer c mBADCMD 0
    else match hostPlaces s c false with
      | (.error .wait, s) => { s with accepted := some s.focus.queue }
      | (.error (.stop st va), s) => s.answer c st va
      | (.ok l, s) =>
        match firstBad s l c.a.toNat with
        | some va => (s.countRecord 6 1).answer c mECC va
        | none =>
          let bytes := l.flatMap fun p => s.preadBytes p.2.1 p.2.2 p.1
          ({ s with hostMem := Mem.writeBytes s.hostMem c.h.toNat bytes } : State).answer c mOK 0)

/-- 64-bit words of host memory. (DESIGN CHOICE, log 103) -/
def State.hostWords (s : State) (a n : Nat) : List W64 :=
  tab n fun i => BitVec.ofNat 64 (Mem.readN s.hostMem (a + 8 * i) 8)

/-- SUBMIT (R320, R422): the record goes to the shepherd of die FLG bit 0. (DEDUCED, log 83) -/
def execSubmit (c : Cmd) (s : State) : Out :=
  .next (
    if !s.cmdOk c 1 || c.a != 0 || !(c.n.toNat == 64 || c.n.toNat == 192) then s.answer c mBADCMD 0
    else
      ({ s with incoming := s.incoming ++
          [⟨s.qPart, c.flg.toNat % 2, c.h, none, some (s.hostWords c.h.toNat (c.n.toNat / 8)), s.qSecure, 0, 0, 0⟩] } :
        State).answer c mOK 0)

/-- CANCEL (R337, R422). -/
def execCancel (c : Cmd) (s : State) : Out :=
  .next (
    if !s.cmdOk c 0 || c.h != 0 || 4 ≤ c.n.toNat || 2 ^ 32 ≤ c.a.toNat then s.answer c mBADCMD 0
    else (s.cancelLater s.qPart c.n.toNat c.a.toNat).answer c mOK 0)

/-- RELEASE (R356, R422, R423). (DEDUCED, log 81) -/
def execRelease (c : Cmd) (s : State) : Out :=
  let n := c.n.toNat
  let list := (s.hostWords c.h.toNat (min n 4096)).map fun w => (bits w.toNat 31 0, bits w.toNat 63 32)
  let halts := (s.part s.qPart).halts.toNat
  .next (
    if !s.cmdOk c 0 || c.a != 0 || n < 1 || 4096 < n || list.any (fun x => x.2 != 1 && x.2 != 2) then s.answer c mBADCMD 0
    else if !bitAt halts 63 then s.answer c mBADCMD 0
    else if !bitAt halts 41 then s.answer c mBUSY 0
    else (s.releaseHalt s.qPart list).answer c mOK 0)

/-- CLOSE (R313, R422): no further record naming the job is admitted. -/
def execClose (c : Cmd) (s : State) : Out :=
  .next (
    if !s.cmdOk c 0 || c.h != 0 || c.n != 0 || 2 ^ 32 ≤ c.a.toNat then s.answer c mBADCMD 0
    else match s.unit s.qPart 3 c.a.toNat with
      | none => s.answer c mBADCMD 0
      | some j =>
        if j.closed then s.answer c mBADCMD 0
        else
          let p := s.qPart
          let s := (s.onUnit p 3 c.a.toNat fun u => { u with closed := true }).settleJob p c.a.toNat
          (s.refresh p).answer c mOK 0)

/-! ## Migration (R301, R312) -/

/-- The bits of an ownership entry that say where its page lies (R300): AD and SLICE, TIER and PPN. -/
def seMoved (e loc p : Nat) (mig : Bool) : Nat :=
  bits e 63 63 * 2 ^ 63 + bits loc 62 55 * 2 ^ 55 + p % 8 * 2 ^ 52 + b2n mig * 2 ^ 51 + bits loc 19 0

/-- The completion that a migration holds back is known. -/
def State.migrated (s : State) (m : Migration) (status detail : Nat) : State :=
  ({ s with migrations := s.migrations.filter fun x => x.num != m.num } : State).onQueue m.queue fun q => { q with
    comps := q.comps.map fun x =>
      if x.waits == some (.migration m.num) then { x with waits := none, status := status, detail := BitVec.ofNat 64 detail } else x }

/-- One step of a migration (R312): the next 64 bytes are copied; after the last the new entry is written with MIG = 0.
An uncorrectable error of the old page, met on the way, leaves the entry at the old location. (DESIGN CHOICE, log 130) -/
def State.migrateStep (s : State) (num : Nat) : State :=
  match s.migrations.find? fun x => x.num == num with
  | none => s
  | some m =>
    match s.ssEntry m.part m.gbn with
    | none => s.migrated m mXLATE m.gbn
    | some a =>
      let e := s.pread 1 a 8
      let old := seAddr e
      let new := seAddr m.loc
      let at_ := 64 * m.done
      if s.memBad old.1 (old.2 + at_) 64 then
        (((s.pwrite 1 a 8 (seMoved e e m.part false)).countRecord 6 1).migrated m mECC m.gbn)
      else
        let s := s.pwriteBytes new.1 (new.2 + at_) (s.preadBytes old.1 (old.2 + at_) 64)
        if m.done < 511 then
          { s with migrations := s.migrations.map fun x => if x.num == num then { x with done := x.done + 1 } else x }
        else (s.pwrite 1 a 8 (seMoved e m.loc m.part false)).migrated m mOK 0

/-- MIGRATE (R312): block A starts to move to the location N; MIG is set, and the mailbox accepts no command until the page
is copied and the command with it performed (R424). (DESIGN CHOICE, log 130) -/
def execMigrate (c : Cmd) (s : State) : Out :=
  let gbn := c.a.toNat
  let loc := c.n.toNat
  let p := s.qPart
  .next (
    if !s.cmdOk c 0 || c.h != 0 || 2 ^ 32 ≤ gbn || bits loc 63 63 != 0 || bits loc 54 20 != 0 then s.answer c mBADCMD 0
    else match s.ssEntry p gbn with
      | none => s.answer c mXLATE gbn
      | some a =>
        if s.memBad 1 a 8 then (s.countRecord 6 1).answer c mECC gbn
        else
          let e := s.pread 1 a 8
          let old := seAddr e
          let new := seAddr loc
          if !bitAt e 63 || bits e 50 20 != 0 || !seLocOk e || !seLocOk loc then s.answer c mXLATE gbn
          else if bits e 54 52 ≠ p || !(s.part p).ownsRange old.1 old.2 32768 || !(s.part p).ownsRange new.1 new.2 32768 then
            s.answer c mPERM gbn
          else if bitAt e 51 then s.answer c mBUSY gbn
          else if s.memBad old.1 old.2 32768 then (s.countRecord 6 1).answer c mECC gbn
          else
            let m : Migration := ⟨s.reqNum, s.focus.queue, p, gbn, loc, 0⟩
            let s : State := { s.pwrite 1 a 8 (seMoved e e p true) with
              reqNum := s.reqNum + 1, migrations := s.migrations ++ [m] }
            s.goOn ⟨c.tag, some (.migration m.num), 0, 0⟩)

/-! ## Management registers (R426) -/

/-- A management address: block type, instance, offset. -/
def mgBlock (a : Nat) : Nat := bits a 47 40
def mgInst (a : Nat) : Nat := bits a 39 24
def mgOff (a : Nat) : Nat := bits a 23 0

/-- The partition's register at an offset. -/
def Partition.mread (x : Partition) (off : Nat) : W64 :=
  match off with
  | 0x000 => x.reg
  | 0x008 => x.t0a
  | 0x010 => x.t0b
  | 0x018 => x.t1
  | 0x020 => x.t2
  | 0x028 => x.ptroot
  | 0x030 => x.ssbase
  | 0x038 => x.sslen
  | 0x040 => x.kvfree
  | 0x048 => x.kvfptr
  | 0x050 => x.stopbase
  | 0x058 => x.savebase
  | 0x060 => x.saven
  | 0x068 => x.halts
  | 0x070 => x.ringReg 0
  | 0x078 => x.ringReg 1
  | 0x080 => x.idxReg 0
  | 0x088 => x.idxReg 1
  | 0x090 => x.shbase
  | 0x098 => x.shlen
  | _ => 0

/-- Two 32-bit slots of TRCFID. -/
def Router.trcWord (x : Router) (k : Nat) : W64 :=
  BitVec.ofNat 64 ((SMap.get 0 x.trcfid k).toNat + (SMap.get 0 x.trcfid (k + 1)).toNat * 2 ^ 32)

/-- A router's register. -/
def State.rread (s : State) (r off : Nat) : W64 :=
  let x := s.router r
  match off with
  | 0x000 => x.fault
  | 0x008 => x.drvst
  | 0x020 => x.esel
  | 0x028 => ((s.entry r (bits x.esel.toNat 22 20) (bits x.esel.toNat 19 0)).map Entry.status).getD 0
  | 0x050 => x.trcWord 0
  | 0x058 => x.trcWord 2
  | _ =>
    if 0x060 ≤ off ∧ off < 0x0A0 ∧ off % 8 = 0 then (x.strayOf ((off - 0x060) / 8)).word
    else if 0x100 ≤ off ∧ off < 0x240 ∧ off % 8 = 0 then BitVec.ofNat 64 (strayWord s r off)
    else 0

/-- Records that a trace ring of an instance holds; `none` where there is no such ring. -/
def State.ringSize (s : State) (inst : Nat) : Option Nat :=
  if inst < 16 then
    let reg := (s.part (inst / 2)).ringReg (inst % 2)
    if bitAt reg.toNat 63 then some (ringRecords reg) else none
  else if inst < 18 then some (s.sysRecords (inst - 16)) else none

/-- Eight bytes of a trace ring at a byte offset (R433). -/
def State.traceWord (s : State) (inst off : Nat) : W64 :=
  match s.ringSize inst with
  | none => 0
  | some n =>
    match (s.ringList inst).find? fun w => bits (w.getD 0 0).toNat 31 0 % n == off / 64 with
    | some w => w.getD (off % 64 / 8) 0
    | none => 0

/-- A field record or histogram bin (R432): the key of an offset of block 0x04. -/
def recordKey (off : Nat) : Nat := off / 8

/-- The wheel of a link (R340); the reset wheel gives 0 to 28 to partition 0. -/
def State.wheel (s : State) (k : Nat) : BitVec 128 := (SMap.find s.wheels k).getD 0xA9800000000000000000000000000000#128

/-- Two 32-bit words as one. -/
def pairWord (x y : W32) : W64 := BitVec.ofNat 64 (x.toNat + y.toNat * 2 ^ 32)

/-- A 64-bit word of the frozen state of a tile (R18, R356), by the number of its kind and the number within it: scalar
registers, vector registers (512 words each), predicates (16 words each), accumulator rows (32 words each), their maxima
and sums, their row flags, queues, CSRs, flow counters, base table, flag slots, the scratchpad's regions, stream registers
(4 words each), ring fields (16 each) and tags (64 each), loop counts, hurdles, engines (NXT, TAIL, CSN) and program
counters. (DESIGN CHOICE, log 107) -/
def State.frozenWord (s : State) (tid k : Nat) : W64 :=
  let t := s.tile tid
  let i := k % 2 ^ 20
  let pair := fun (l : List W32) (j : Nat) => pairWord (l.getD (2 * j) 0) (l.getD (2 * j + 1) 0)
  let word := fun (l : List QWord) => ((l.map fun (x : QWord) => x.val.getD 0).getD (i % 1024) 0)
  match k / 2 ^ 20 with
  | 0 => t.sreg i
  | 1 => pair (t.vreg (i / 512)) (i % 512)
  | 2 => (t.kreg (i / 16) >>> (64 * (i % 16))).setWidth 64
  | 3 => pair (t.accRow (i / 32 / 128) (i / 32 % 128)) (i % 32)
  | 4 => pairWord (t.accMax (i / 128) (i % 128)) (t.accDen (i / 128) (i % 128))
  | 5 => pair (((SMap.get [] t.vq (i / 1024)).map fun (x : QRow) => x.row.getD []).getD (i / 32 % 32) []) (i % 32)
  | 6 => t.q14.getD i 0
  | 7 => match i / 1024 with
    | 0 => word t.q12
    | 1 => word t.q13
    | _ => word t.q15
  | 8 => s.csrValue tid i
  | 9 => pairWord (t.fcReg i) 0
  | 10 => t.btReg i
  | 11 => (t.slot i).setWidth 64
  | 12 => BitVec.ofNat 64 (Mem.readN t.sp (8 * i) 8)
  | 13 => (t.stReg (i / 4) >>> (64 * (i % 4))).setWidth 64
  | 14 => t.ringRead tid (i / 16) (i % 16)
  | 15 => pairWord (t.lcReg (i / 8) (i % 8)) 0
  | 16 => pairWord (t.accFl (i / 128) (i % 128)) 0
  | 17 => s.hurdleWord tid i
  | 18 => let e := t.eng (i / 4)
    match i % 4 with
    | 0 => e.nxt
    | 1 => e.tail
    | _ => pairWord e.csn 0
  | 19 => ((match i with
    | 0 => t.sc
    | 1 => t.sv
    | 2 => t.sd
    | _ => t.se).pc).setWidth 64
  | 20 => (SMap.get 0 (t.ring (i / 64)).tags (i % 64)).setWidth 64
  | _ => 0

/-- The frozen task whose state stands at a management address (R356). -/
def State.frozenAt (s : State) (a : Nat) : Option (Nat × Nat) :=
  if mgBlock a ≤ 6 then none
  else match Config.frozenPlace a with
    | some (tid, k) => if tidOk tid && (s.tile tid).frozen then some (tid, k) else none
    | none => none

/-- Is there a link of a wheel's instance (R426)? -/
def wheelExists (k : Nat) : Bool :=
  if k < 0x800 then tidOk (k / 4)
  else (0x1000 ≤ k && k < 0x1048) || (0x1100 ≤ k && k < 0x1104) || (0x1200 ≤ k && k < 0x1240 && k % 32 < 24)

/-- Eight bytes at a management address; an address that names no register reads as zero (R426), but for the frozen state
of a halted task (R356). (DESIGN CHOICE, log 107) -/
def State.mgRead (s : State) (a : Nat) : W64 :=
  let i := mgInst a
  let off := mgOff a
  match mgBlock a with
  | 1 => if i < 8 then (s.part i).mread off else 0
  | 2 => if routerExists i then s.rread i off else 0
  | 3 =>
    if i ≠ 0 then 0
    else match off with
      | 0x000 => s.podcfg
      | 0x008 => s.syncst
      | 0x010 => s.drovecfg
      | 0x018 => s.pwrcap
      | 0x020 => s.pwrst
      | 0x028 => s.bootst
      | _ => 0
  | 4 => if i = 0 ∧ off % 8 = 0 ∧ (off < 0x68 ∨ (0x100 ≤ off ∧ off < 0x200)) then SMap.get 0 s.records (recordKey off) else 0
  | 5 => if off % 8 = 0 then s.traceWord i off else 0
  | 6 =>
    if !wheelExists i then 0
    else match off with
      | 0 => (s.wheel i).setWidth 64
      | 8 => ((s.wheel i) >>> 64).setWidth 64
      | _ => 0
  | _ => match s.frozenAt a with
    | some (tid, k) => s.frozenWord tid k
    | none => 0

/-- What a read does besides answering (R426): a stray queue's last part pops it. -/
def State.mgReadEffect (s : State) (a : Nat) : State :=
  if mgBlock a = 2 ∧ routerExists (mgInst a) then strayRead s (mgInst a) (mgOff a) else s

/-- MREAD of `n` words in ascending address. -/
def mgReads (a : Nat) : Nat → State → List W64 × State
  | 0, s => ([], s)
  | n + 1, s =>
    let w := s.mgRead a
    let r := mgReads (a + 8) n (s.mgReadEffect a)
    (w :: r.1, r.2)

/-- Is the word at a management address withheld from the queues 0 to 7 (R425): the trace ring of a partition with
SEC = 1, or the frozen state of a secure task? -/
def State.mgHidden (s : State) (a : Nat) : Bool :=
  (mgBlock a == 5 && mgInst a < 16 && bitAt (s.part (mgInst a / 2)).reg.toNat 62) ||
  (match s.frozenAt a with
    | some (tid, _) => (s.tile tid).world
    | none => false)

/-- MREAD (R422, R425, R426). -/
def execMread (c : Cmd) (s : State) : Out :=
  let a := c.a.toNat
  let n := c.n.toNat
  let fine := c.rsv == 0#16 && c.flg == 0#8 && n % 8 == 0 && 8 ≤ n && n ≤ 4096 && a < 2 ^ 48 &&
    (!s.recovering || (s.focus.queue == 8 && mgBlock a == 3 && mgBlock (a + n - 8) == 3))
  .next (
    if !fine then s.answer c mBADCMD 0
    else if !s.qSecure && (List.range (n / 8)).any (fun i => s.mgHidden (a + 8 * i)) then s.answer c mWORLD 0
    else
      let r := mgReads a (n / 8) s
      let s := r.2
      ({ s with hostMem := Mem.writeBytes s.hostMem c.h.toNat (r.1.flatMap fun w => bytesOf 8 w.toNat) } : State).answer c mOK 0)

/-! ### Writes -/

/-- The partitions that exist beside one. -/
def State.others (s : State) (p : Nat) : List Partition :=
  ((List.range 8).filter (· != p)).map fun k => s.part k

/-- Fields of PCFG (R338). -/
def pcClu (v : Nat) : Nat := bits v 61 54
def pcEq (v : Nat) : Nat := bits v 53 43
def pcSlb (v : Nat) : Nat := bits v 42 35
def pcSln (v : Nat) : Nat := bits v 34 26
def pcWlk (v : Nat) : Nat := bits v 5 0

/-- May PCFG take a value (R234, R338)? -/
def State.pcfgOk (s : State) (p v : Nat) : Bool :=
  let old := (s.part p).reg.toNat
  let live := (s.others p).filter fun x => bitAt x.reg.toNat 63
  let total := fun (f : Nat → Nat) => live.foldl (fun n x => n + f x.reg.toNat) (f v)
  let busy := s.units.any fun u => u.part == p && !u.ended
  let apart := fun (x : Partition) =>
    let o := x.reg.toNat
    pcSln v == 0 || pcSln o == 0 || !overlaps (pcSlb v) (pcSln v) (pcSlb o) (pcSln o)
  let same := pcClu v == pcClu old && pcEq v == pcEq old && pcSlb v == pcSlb old && pcSln v == pcSln old &&
    pcWlk v == pcWlk old
  pcEq v ≤ 1024 && pcSlb v + pcSln v ≤ 256 && 10 ≤ bits v 25 20 && bits v 25 20 ≤ 40 && pcWlk v ≤ 32 &&
  (!busy || same) &&
  (!bitAt v 63 ||
    (live.all (fun x => pcClu x.reg.toNat &&& pcClu v == 0) && total pcEq ≤ 1024 && live.all apart &&
     1 ≤ pcWlk v && total pcWlk ≤ 32))

/-- Do the masks of a partition meet another's (R339)? -/
def State.masksOk (s : State) (p : Nat) (f : Partition → W64) (v : W64) : Bool :=
  (s.others p).all fun x => f x &&& v == 0

/-- Does every one of `n` blocks of 2^k bytes from an address lie in the partition's tier-0 groups? -/
def Partition.ownsBlocks (x : Partition) (pa k n : Nat) : Bool :=
  (List.range n).all fun i => x.ownsRange 0 (pa + i * 2 ^ k) (2 ^ k)

/-- Do all bytes of a small image lie in the partition's tier-0 groups (R139)? -/
def Partition.imageOk (x : Partition) (base : W64) (len : Nat) : Bool :=
  !bitAt base.toNat 63 || len == 0 || x.ownsRange 0 (bits base.toNat 51 12 * 4096) len

/-- Does a trace ring's place fit (R433)? -/
def State.trcOk (s : State) (p die : Nat) (v : Nat) : Bool :=
  bits v 19 10 + bits v 9 0 ≤ 1023 &&
  (!bitAt v 63 || (s.others p).all fun x =>
    let o := (x.ringReg die).toNat
    !bitAt o 63 || !overlaps (bits v 19 10) (bits v 9 0 + 1) (bits o 19 10) (bits o 9 0 + 1))

/-- Does an address name a register that is marked S (R426)? -/
def State.mgSecure (s : State) (a : Nat) : Bool :=
  match mgBlock a with
  | 1 => mgInst a < 8 && (match mgOff a with
    | 0x000 | 0x008 | 0x010 | 0x018 | 0x020 | 0x050 | 0x058 | 0x060 | 0x090 | 0x098 => true
    | 0x028 => bitAt (s.part (mgInst a)).reg.toNat 62
    | _ => false)
  | 3 => mgInst a == 0 && (mgOff a == 0 || mgOff a == 0x10 || mgOff a == 0x18)
  | 6 => wheelExists (mgInst a) && (mgOff a == 0 || mgOff a == 8)
  | _ => false

/-- A value where a condition holds, else refused. -/
def allow {α : Type} (ok : Bool) (x : α) : Except Nat α := if ok then .ok x else .error mREFUSED

/-- A write of a partition's register (R338, R339, R274, R299, R311, R351, R359, R433, R139); one of PCFG is a choice
event (R324). -/
def State.writePart (s : State) (p off : Nat) (v : W64) : Except Nat State :=
  let x := s.part p
  let n := v.toNat
  let put := fun (f : Partition → Partition) => s.onPart p f
  match off with
  | 0x000 => allow (s.pcfgOk p n) (put fun x => { x with reg := v &&& 0xFFFFFFFFFFFF803F#64, choice := true })
  | 0x008 => allow (s.masksOk p (·.t0a) v) (put fun x => { x with t0a := v })
  | 0x010 => allow (s.masksOk p (·.t0b) v) (put fun x => { x with t0b := v })
  | 0x018 => allow (s.masksOk p (·.t1) v) (put fun x => { x with t1 := v })
  | 0x020 => allow (s.masksOk p (·.t2) v) (put fun x => { x with t2 := v })
  | 0x028 => .ok (put fun x => { x with ptroot := v &&& 0x800FFFFFFFFFF000#64 })
  | 0x030 => allow (bits n 51 38 == 0) (put fun x => { x with ssbase := v &&& 0x800FFFFFFFFFF000#64 })
  | 0x038 => allow (bits n 32 0 ≤ 2 ^ 32) (put fun x => { x with sslen := v &&& 0x1FFFFFFFF#64 })
  | 0x040 => allow (!bitAt n 63 || (4 ≤ bits n 62 57 && bits n 62 57 ≤ 24))
      (put fun x => { x with kvfree := v &&& 0xFE0FFFFFFFFFF000#64 })
  | 0x048 =>
    let drops := if bits n 63 48 = 0xFFFF then 0 else bits x.kvfptr.toNat 63 48
    let w := BitVec.ofNat 64 (drops * 2 ^ 48 + bits n 47 24 * 2 ^ 24 + bits x.kvfptr.toNat 23 0)
    .ok (put fun x => { x with kvfptr := w })
  | 0x050 => .ok (put fun x => { x with stopbase := v &&& 0x800FFFFFFFFC0000#64 })
  | 0x058 => allow (!bitAt n 63 || x.ownsBlocks (bits n 51 22 * 2 ^ 22) 22 (bits x.saven.toNat 15 0))
      (put fun x => { x with savebase := v &&& 0x800FFFFFFFC00000#64 })
  | 0x060 => allow (!bitAt x.savebase.toNat 63 || x.ownsBlocks (bits x.savebase.toNat 51 22 * 2 ^ 22) 22 (bits n 15 0))
      (put fun x => { x with saven := v &&& 0xFFFF#64 })
  | 0x070 => allow (s.trcOk p 0 n) (put fun x => { x with trcring := SMap.set 0 x.trcring 0 (v &&& 0x80000000000FFFFF#64) })
  | 0x078 => allow (s.trcOk p 1 n) (put fun x => { x with trcring := SMap.set 0 x.trcring 1 (v &&& 0x80000000000FFFFF#64) })
  | 0x068 | 0x080 | 0x088 => .ok s
  | 0x090 => allow (x.imageOk v (bits x.shlen.toNat 14 0))
      (put fun x => { x with shbase := v &&& 0x800FFFFFFFFFF000#64, shGen := x.shGen + 1 })
  | 0x098 =>
    let len := bits n 14 0
    allow (len != 0 && len ≤ 16384 && len % 8 == 0 && x.imageOk x.shbase len)
      (put fun x => { x with shlen := v &&& 0x7FFF#64, shGen := x.shGen + 1 })
  | _ => .error mREFUSED

/-- The stray status after a write (R240). -/
def StrayQ.clear (q : StrayQ) (v : Nat) : StrayQ :=
  { q with
    dropped := if bits v 47 32 = 0xFFFF then 0 else q.dropped
    count := if bits v 15 0 = 0xFFFF then 0 else q.count }

/-- A 32-bit slot of TRCFID: V, PART, FID (R435). -/
def trcSlot (v : Nat) : W32 := BitVec.ofNat 32 v &&& 0x807FFFFF#32

/-- A write of a router's register (R266, R394, R426, R435, R240). -/
def State.writeRouter (s : State) (r off : Nat) (v : W64) : Except Nat State :=
  let n := v.toNat
  let put := fun (f : Router → Router) => s.onRouter r f
  match off with
  | 0x000 => .ok (put fun x => { x with fault := if bitAt n 63 then x.fault &&& 0x7FFFFFFFFFFFFFFF#64 else x.fault })
  | 0x008 => .ok (put fun x => { x with drvst := if bitAt n 63 then x.drvst &&& 0x7FFFFFFFFFFFFFFF#64 else x.drvst })
  | 0x020 => .ok (put fun x => { x with esel := v &&& 0x7FFFFF#64 })
  | 0x028 => .ok s
  | 0x050 => .ok (put fun x => { x with trcfid := SMap.set 0 (SMap.set 0 x.trcfid 0 (trcSlot n)) 1 (trcSlot (n / 2 ^ 32)) })
  | 0x058 => .ok (put fun x => { x with trcfid := SMap.set 0 (SMap.set 0 x.trcfid 2 (trcSlot n)) 3 (trcSlot (n / 2 ^ 32)) })
  | _ =>
    if 0x060 ≤ off ∧ off < 0x0A0 ∧ off % 8 = 0 then
      let p := (off - 0x060) / 8
      .ok (put fun x => { x with stray := SMap.put x.stray p ((x.strayOf p).clear n) })
    else if 0x100 ≤ off ∧ off < 0x240 ∧ off % 8 = 0 then .ok s
    else .error mREFUSED

/-- A write of a package register that has no row of its own (R381, R384, R431). -/
def State.writePackage (s : State) (off : Nat) (v : W64) : Except Nat State :=
  let n := v.toNat
  match off with
  | 0x000 => allow (bits n 62 56 ≤ 71) { s with podcfg := v &&& 0xFF00FFC000000000#64 }
  | 0x008 => .ok { s with syncst := if bitAt n 62 then s.syncst &&& 0xBFFFFFFFFFFFFFFF#64 else s.syncst }
  | 0x018 => allow (600 ≤ bits n 47 32 && bits n 47 32 ≤ 2400 && 1 ≤ bits n 9 0 && bits n 9 0 ≤ 1000)
      { s with pwrcap := v &&& 0x8000FFFF000003FF#64 }
  | 0x020 | 0x028 => .ok s
  | _ => .error mREFUSED

/-- May a slot wheel take a value (R340): no reserved code. -/
def wheelOk (v : BitVec 128) : Bool :=
  (List.range 32).all fun k => let c := bits v.toNat (4 * k + 3) (4 * k); c ≤ 10 || c == 15

/-- A management write of 8 bytes, or of 16 to a wheel, by a queue (R425, R426); INVAL, ELOAD and DROVECFG have
operations of their own. (DEDUCED, log 85, 87) -/
def State.mgWrite (s : State) (queue a : Nat) (v : BitVec 128) : Except Nat State :=
  let i := mgInst a
  if s.mgSecure a && queue < 8 then .error mWORLD
  else match mgBlock a with
    | 1 => if i < 8 then s.writePart i (mgOff a) (v.setWidth 64) else .error mREFUSED
    | 2 => if routerExists i then s.writeRouter i (mgOff a) (v.setWidth 64) else .error mREFUSED
    | 3 => if i = 0 then s.writePackage (mgOff a) (v.setWidth 64) else .error mREFUSED
    | 4 => if i = 0 ∧ mgOff a % 8 = 0 ∧ (mgOff a < 0x68 ∨ (0x100 ≤ mgOff a ∧ mgOff a < 0x200)) then .ok s else .error mREFUSED
    | 6 =>
      let w := match mgOff a with
        | 0 => some v
        | 8 => some (((v.setWidth 64).setWidth 128 <<< 64) ||| ((s.wheel i).setWidth 64).setWidth 128)
        | _ => none
      match w with
      | some w => if wheelExists i then allow (wheelOk w) { s with wheels := SMap.put s.wheels i w } else .error mREFUSED
      | none => .error mREFUSED
    | _ => .error mREFUSED

/-- REGISTER_WRITE (R426): one management register takes a value from a queue; a refused write changes nothing. -/
def execRegisterWrite (queue : Nat) (addr : BitVec 48) (v : BitVec 128) (s : State) : Out :=
  .next (match s.mgWrite queue addr.toNat v with
    | .ok s => s
    | .error _ => s)

/-- The words of a MWRITE in ascending address, all or none (R422): `l` holds (address, words left).
(DEDUCED, log 86) -/
def mwriteGo (queue part : Nat) : Nat → Nat → List W64 → State → Except (Nat × Nat) State
  | 0, _, _, s => .ok s
  | _, _, [], s => .ok s
  | fuel + 1, a, w :: rest, s =>
    let fail := fun (st : Nat) => Except.error (st, a)
    if mgBlock a = 2 ∧ 0x030 ≤ mgOff a ∧ mgOff a < 0x050 then
      if mgOff a = 0x030 ∧ rest.length = 3 ∧ routerExists (mgInst a) then
        let e := natOfBytes ((w :: rest).flatMap fun x => bytesOf 8 x.toNat)
        match s.loadEntry (mgInst a) part e none (decide (8 ≤ queue)) with
        | .ok s => .ok s
        | .error _ => fail mREFUSED
      else fail mREFUSED
    else if mgBlock a = 3 ∧ mgInst a = 0 ∧ mgOff a = 0x010 then
      if queue < 8 then fail mWORLD
      else match s.writeDrovecfg w with
        | some s => mwriteGo queue part fuel (a + 8) rest s
        | none => fail mREFUSED
    else if mgBlock a = 1 ∧ mgInst a < 8 ∧ mgOff a = 0x100 then
      mwriteGo queue part fuel (a + 8) rest (s.invalidate (mgInst a) w)
    else
      let wide := mgBlock a = 6 ∧ mgOff a = 0
      let v : BitVec 128 :=
        if wide then
          match rest with
          | x :: _ => (x.setWidth 128 <<< 64) ||| w.setWidth 128
          | [] => (((s.wheel (mgInst a)) >>> 64) <<< 64) ||| w.setWidth 128
        else w.setWidth 128
      match s.mgWrite queue a v with
      | .ok s => mwriteGo queue part fuel (a + (if wide then 16 else 8)) (if wide then rest.drop 1 else rest) s
      | .error st => fail st

/-- What a refused ELOAD leaves at its router (R265): the fault of a load onto an entry with a round in progress. -/
def State.eloadFault (s : State) (a : Nat) (words : List W64) : State :=
  if mgBlock a = 2 ∧ mgOff a = 0x030 ∧ words.length = 4 ∧ routerExists (mgInst a) then
    let e := natOfBytes (words.flatMap fun x => bytesOf 8 x.toNat)
    match s.loadEntry (mgInst a) s.qPart e none s.qSecure with
    | .ok _ => s
    | .error why => s.loadFault (mgInst a) s.qPart e why
  else s

/-- What the completion of a management write waits for: that of INVAL for the accesses translated before it (R280). -/
def mwriteWaits (a : Nat) : Option Wait :=
  if mgBlock a = 1 ∧ mgInst a < 8 ∧ mgOff a = 0x100 then some (.inval (mgInst a)) else none

/-- MWRITE (R422, R425, R426). -/
def execMwrite (c : Cmd) (s : State) : Out :=
  let n := c.n.toNat
  let words := tab (n / 8) fun i => BitVec.ofNat 64 (bits c.inl.toNat (64 * i + 63) (64 * i))
  .next (
    if !s.cmdOk c 0 || c.h != 0 || n % 8 != 0 || n < 8 || 32 < n || 2 ^ 48 ≤ c.a.toNat then s.answer c mBADCMD 0
    else match mwriteGo s.focus.queue s.qPart 5 c.a.toNat words s with
      | .ok s => s.goOn ⟨c.tag, mwriteWaits c.a.toNat, mOK, 0⟩
      | .error (st, a) => (s.eloadFault c.a.toNat words).answer c st a)

/-! ## Images, attestation, firmware (R427 to R430) -/

/-- A byte of the flash. -/
def State.flashByte (s : State) (a : Nat) : W8 := (SMap.find s.flash a).getD (Config.flashAtManufacture a)
def State.flashBytes (s : State) (a n : Nat) : List W8 := tab n fun i => s.flashByte (a + i)
/-- The base of an image slot: 0 A, 1 B. -/
def slotBase (slot : Nat) : Nat := slot * 2 ^ 25

/-- The SVN of a slot's image. -/
def State.slotSvn (s : State) (slot : Nat) : Nat := natOfBytes (s.flashBytes (slotBase slot + 8) 2)

/-- The fail code of a slot, 0 where its image verifies (R428). (DEDUCED, log 91) -/
def State.slotFail (s : State) (slot : Nat) : Nat :=
  let b := slotBase slot
  let h := s.flashBytes b 1112
  let field := fun (a n : Nat) => (h.drop a).take n
  let len := natOfBytes (field 12 4)
  let key := field 88 512
  let revoked := bits s.bootst.toNat 3 0
  if natOfBytes (field 0 8) ≠ 0x4548393037320001 ∨ natOfBytes (field 10 2) ≠ 0 ∨ natOfBytes (field 16 8) ≠ 0 then 6
  else if !(List.range 4).any (fun i => !bitAt revoked i && Config.fusedKeyHash i == sha512 key) then 2
  else if !pssValid key (field 600 512) (h.take 600) then 3
  else if len > 2 ^ 25 - 1152 ∨ sha512 (s.flashBytes (b + 1152) len) ≠ field 24 64 then 4
  else if s.slotSvn slot < s.minsvn then 5
  else 0

/-- BOOTST from its fields (R429). -/
def bootWord (ok : Bool) (slot next fail svn minsvn revk : Nat) : W64 :=
  BitVec.ofNat 64 (b2n ok * 2 ^ 63 + slot % 2 * 2 ^ 62 + next % 2 * 2 ^ 61 + fail % 256 * 2 ^ 48 + svn % 2 ^ 16 * 2 ^ 32 +
    minsvn % 2 ^ 16 * 2 ^ 16 + revk % 16)

/-- The slot that is not running (R429). -/
def State.stagingSlot (s : State) : Nat := 1 - bits s.bootst.toNat 62 62

/-- FWUPD (R422, R429). (DEDUCED, log 84) -/
def execFwupd (c : Cmd) (s : State) : Out :=
  let n := c.n.toNat
  let slot := s.stagingSlot
  .next (
    if c.rsv != 0#16 || c.flg.toNat &&& 252 != 0 || n < 1 || 2 ^ 20 < n || 2 ^ 25 < c.a.toNat + n ||
        (s.recovering && s.focus.queue != 8) then s.answer c mBADCMD 0
    else if !s.qSecure then s.answer c mWORLD 0
    else
      let bytes := Mem.readBytes s.hostMem c.h.toNat n
      let base := slotBase slot + c.a.toNat
      let s : State := { s with flash := (List.zip (List.range n) bytes).foldl (fun m x => SMap.put m (base + x.1) x.2) s.flash }
      if !bitAt c.flg.toNat 1 then s.answer c mOK 0
      else if s.slotFail slot ≠ 0 then s.answer c mAUTH 0
      else
        let b := s.bootst.toNat
        let low := if bitAt c.flg.toNat 0 then max s.minsvn (s.slotSvn slot) else s.minsvn
        let s : State := { s with
          minsvn := low
          bootst := bootWord (bitAt b 63) (bits b 62 62) slot (bits b 55 48) (bits b 47 32) low (bits b 3 0) }
        (s.countRecord 12 1).answer c mOK 0)

/-- The report of R430 for the focus queue, without its signature. -/
def State.report (s : State) (nonce : List W8) : List W8 :=
  let x := s.part s.qPart
  let b := s.bootst.toNat
  let regs := [x.reg, x.t0a, x.t0b, x.t1, x.t2, x.ptroot, x.ssbase, x.stopbase].flatMap fun w => bytesOf 8 w.toNat
  bytesOf 4 1 ++ bytesOf 4 s.qPart ++ bytesOf 8 s.ptc.toNat ++ nonce ++
    sha512 (s.flashBytes (slotBase (bits b 62 62)) 600) ++ sha512 regs ++ bytesOf 4 (bits b 47 32) ++
    bytesOf 4 (bits b 31 16) ++ List.replicate 296 0#8

/-- ATTEST (R422, R430): the signed report, or the identity certificate with its length. The signature is one that the
identity key's verification accepts; the package draws salts until it has one. (DESIGN CHOICE, log 98) -/
def execAttest (c : Cmd) (s : State) : Out :=
  .next (
    if !s.cmdOk c 1 || c.a != 0 || c.n != 0 then s.answer c mBADCMD 0
    else
      let out := c.h.toNat + 64
      if bitAt c.flg.toNat 0 then
        let cert := Config.identityCert.take 4032
        ({ s with hostMem := Mem.writeBytes s.hostMem out cert } : State).answer c mOK cert.length
      else
        let body := s.report (Mem.readBytes s.hostMem c.h.toNat 64)
        let sig := Config.identitySign body s.free
        let s : State := { s with free := s.free + 1 }
        if sig.length ≠ 512 || !pssValid Config.identityKey sig body then { s with accepted := some s.focus.queue }
        else ({ s with hostMem := Mem.writeBytes s.hostMem out (body ++ sig) } : State).answer c mOK 0)

/-! ## The mailbox's rotation (R424) -/

/-- The queue whose command is taken next: the one accepted, else the first with a command pending after the one last
served; in recovery only queue 8. A queue with a completion that waits for room accepts none, and while a migration is
performed no queue does. -/
def State.nextQueue (s : State) : Option Nat :=
  match s.accepted with
  | some q => some q
  | none =>
    if !s.booted || s.safePin || !s.migrations.isEmpty then none
    else ((List.range 16).map fun i => (s.served + 1 + i) % 16).find? fun k =>
      let q := s.queue k
      q.enabled && q.pending != 0 && q.comps.isEmpty && (!s.recovering || k == 8)

/-- The mailbox takes a command (R422, R424): one that names no command completes with BADCMD. -/
def prepareMailbox (s : State) : Option Instr × State :=
  match s.nextQueue with
  | none => (none, s)
  | some k =>
    let q := s.queue k
    let s : State := { s with focus := { Focus.reset with queue := k } }
    let w := Mem.readN s.hostMem (q.sqb.toNat + 64 * (q.sqHead % q.sqEntries)) 64
    match decodeCmd w with
    | some i => (some i, s)
    | none => (none, s.answer (decCmd w) mBADCMD 0)

end Sys2Proof.Machine
end

