-- ==== Sys2Proof/Machine/System.lean ====
section
/-! DEFINITION. Boot, power and field records (17_system.md R428, R431, R432). -/

namespace Sys2Proof.Machine

/-! ## Boot (R428, R429, R432) -/

/-- BOOT (R428): the boot ROM runs the slot marked next, else the other, else recovers; the field records are those
last written to flash, and the power-up is counted. A package whose rails were off has them raised (R427). -/
def execBoot (s : State) : Out :=
  .next (if s.booted then s
    else
      let b := s.bootst.toNat
      let next := bits b 61 61
      let other := 1 - next
      let f1 := s.slotFail next
      let f2 := s.slotFail other
      let ok := f1 == 0 || f2 == 0
      let slot := if f1 = 0 then next else if f2 = 0 then other else 0
      let fail := if f1 = 0 then 0 else if f2 = 0 then f1 else f2
      let s : State := { s with
        railsOn := true
        booted := true
        records := s.flushed
        recAcc := s.flushedAcc
        powerTime := 0
        bootst := bootWord ok slot next fail (if ok then s.slotSvn slot else 0) s.minsvn (bits b 3 0) }
      let s := s.countRecord 1 1
      if s.abrupt then { s.countRecord 2 1 with abrupt := false } else s)

/-! ## Field records (R432) -/

/-- Milliseconds, or watt milliseconds, gather under a key until they make a whole unit of a record; what has gathered is
written to flash with the records. -/
def State.gather (s : State) (key unit record n : Nat) : State :=
  let total := SMap.get 0 s.recAcc key + n
  let s : State := { s with recAcc := SMap.set 0 s.recAcc key (total % unit) }
  if total / unit = 0 then s else s.countRecord record (total / unit)

/-- The bin of a junction temperature. -/
def tjBin (tj : Nat) : Nat := if tj < 40 then 0 else min 15 ((tj - 35) / 5)
/-- The bin of a current. -/
def ampBin (amps : Nat) : Nat := min 15 (amps * 2 / 625)

/-- One millisecond of the field records; the current is free up to its limit of R431. (DESIGN CHOICE, log 93) -/
def State.recordMs (s : State) (watts tj : Nat) : State :=
  let (a, s) := s.freeNat
  let amps := a % 5001
  let s := s.gather 0 3600000 0 1
  let s := s.gather 1 3600000000 11 watts
  let s := s.gather (32 + tjBin tj) 60000 (32 + tjBin tj) 1
  let s := s.gather (48 + ampBin amps) 1000 (48 + ampBin amps) 1
  let peak := (SMap.get 0 s.records 10).toNat
  if peak < tj then { s with records := SMap.set 0 s.records 10 (BitVec.ofNat 64 tj) } else s

/-- The field records are written to flash. -/
def State.flushRecords (s : State) : State :=
  { s with flushed := s.records, flushedAcc := s.recAcc, flushedAt := s.ptc }

/-- FIELD_RECORD_FLUSH (R432): every 10 minutes of pod time. -/
def execFieldRecordFlush (s : State) : Out :=
  .next (if (s.ptc - s.flushedAt).toNat < 2400000000000 then s else s.flushRecords)

/-! ## Power (R431) -/

/-- The clock step K. -/
def State.stepK (s : State) : Nat := bits s.pwrst.toNat 63 57

/-- The window of PWRCAP in milliseconds. -/
def State.window (s : State) : Nat := bits s.pwrcap.toNat 9 0

/-- The next clock step at the power drawn in each millisecond of the window and at a temperature: the average stands
against CAP and 0.95 × CAP. (DEDUCED, log 92) -/
def State.nextK (s : State) (power : List Nat) (tj : Nat) : Nat :=
  let en := bitAt s.pwrcap.toNat 63
  let cap := bits s.pwrcap.toNat 47 32 * power.length
  let k := s.stepK
  if (en && cap < power.sum) || 105 ≤ tj then max 32 (k - 1)
  else if (!en || 100 * power.sum < 95 * cap) && tj < 100 then min 64 (k + 1)
  else k

/-- The THERMTRIP pin at a temperature (R431): at 120 °C it asserts; the trip is counted (R432). -/
def State.trip (s : State) (tj : Nat) : State :=
  if tj < 120 || s.thermtrip then s else ({ s with thermtrip := true } : State).countRecord 9 1

/-- Has a millisecond of pod time passed since the last clock step? -/
def State.msPassed (s : State) : Bool := 4000000 ≤ s.powerTime

/-- CLOCK_STEP_ADJUST (R431): at the end of each millisecond, from the power drawn in it, at most 2,400 W (R2), and the
highest junction temperature; the power is averaged over the window, and the field records gather the millisecond
(R432). A window that has not yet filled is the milliseconds since boot. (DEDUCED, log 92) -/
def execClockStepAdjust (watts tj : Nat) (s : State) : Out :=
  .next (
    if !s.msPassed || 2400 < watts then s
    else
      let power := (watts :: s.power).take 1000
      let seen := power.take s.window
      let k := s.nextK seen tj
      let avg := seen.sum / seen.length
      let s : State := { s with
        power := power
        powerTime := s.powerTime - 4000000
        pwrst := BitVec.ofNat 64 (k % 128 * 2 ^ 57 + avg % 2 ^ 16 * 2 ^ 32 + min tj 255 * 2 ^ 16) }
      (s.recordMs watts tj).trip tj)

/-- THERMTRIP (R431): at 120 °C the pin asserts. -/
def execThermtrip (tj : Nat) (s : State) : Out := .next (s.trip tj)

/-- SHUTDOWN (R431, R432): no further command is accepted, the field records are flushed, and SAFE asserts.
(DEDUCED, log 94) -/
def execShutdown (s : State) : Out :=
  .next { s.flushRecords with safePin := true }

/-- POWER_LOSS (R431, R432): all device state is lost but the serial flash, the fused values and the mark of the next
slot; it was abrupt where SHUTDOWN had not come. Whether THERMTRIP was the ground makes no difference. The host's memory
lies outside the package. -/
def execPowerLoss (_thermal : Bool) (s : State) : Out :=
  let b := s.bootst.toNat
  .next { State.reset with
    railsOn := false
    flash := s.flash
    minsvn := s.minsvn
    bootst := bootWord false 0 (bits b 61 61) 0 0 s.minsvn (bits b 3 0)
    flushed := s.flushed
    flushedAcc := s.flushedAcc
    abrupt := !s.safePin
    hostMem := s.hostMem
    msix := s.msix
    hostReads := s.hostReads
    inputs := s.inputs
    free := s.free }

end Sys2Proof.Machine
end

