-- ==== Sys2Proof/Machine/Agenda.lean ====
section
/-! DEFINITION. What moves when: the actions of a clk in the order in which the model takes them, how an action becomes
an instruction of the table, and the end of a clk (R3, R34 to R37, R43). One clk of the package is one agenda; the
order within it is the model's (notes/assumptions), and every row that is not enabled changes nothing. -/

namespace Sys2Proof.Machine

/-! ## From an action to an instruction -/

/-- Does an engine go on in the skid of a halt (R348)? The QZ does, with the groups of the record that it has started.
(DEDUCED, log 136) -/
def Tile.skidRuns (t : Tile) (eng : Nat) : Bool :=
  eng == 1 && !t.cancelled && (t.qz.run.map (·.started)).getD false

/-- May an engine take or continue work (R232, R348): its task is loaded, no quiesce or halt stops it, and for the MX
the task's clock runs? -/
def Tile.engineRuns (t : Tile) (eng : Nat) : Bool :=
  t.res.isSome && t.live && (!t.halted || t.skidRuns eng) && !t.frozen && !((t.drain.map (·.on)).getD false) &&
  !(t.eng eng).stopped && (eng != 0 || t.clockRuns)

/-- The instruction of the record or posting at the head of the focus engine, if it has work to do by itself: an MX
record that has started goes on by its steps, a CP record with a held access waits for its service. -/
def State.headWork (s : State) : Option Instr :=
  match s.myEng.run with
  | none => none
  | some run =>
    if s.myEng.stopped then none
    else match run.instr with
      | some i => if (s.focus.eng == 0 && run.started) || run.stuck.isSome || run.done then none else some i
      | none => if run.send.isSome then some .fiSendEntry else none

/-- An engine's turn: it takes its next work where it has none (R207). -/
def prepareEngine (s : State) (tid eng : Nat) : Option Instr × State :=
  let s := { s with focus := { Focus.reset with tile := tid, eng := eng } }
  if !s.me.engineRuns eng then (none, s)
  else
    let s := if eng = 0 && s.myEng.away.isSome then s.onEng Engine.recall else s
    let s := if s.myEng.run.isNone then s.takeWork else s
    (s.headWork, s)

/-- A packet at the head of an input channel: the operation of the entry it meets, or a stray (R239, R241). -/
def prepareArrive (s : State) (r port ch : Nat) : Option Instr × State :=
  let s := { s with focus := { Focus.reset with router := r, port := port, cls := ch } }
  let met := fun (p : Packet) => match s.entry r p.part p.fid.toNat with
    | some x => flowInstr x.op x.e
    | none => some .strayPacket
  (match s.meet with
    | .nothing => none
    | .stray _ => some .strayPacket
    | .ecc p => met p
    | .fault p _ => met p
    | .range p => met p
    | .entry _ x => flowInstr x.op x.e, s)

/-! ## The end of a clk -/

/-- A strand after one clk (R14, R27): `run` where it was a clk of task time. -/
def StrandSt.tick (run : Bool) (x : StrandSt) : StrandSt :=
  if run then
    { x with age := x.age + 1, blocked := if x.waiting && x.wait != 7 then x.blocked + 1 else x.blocked }
  else x

/-- An engine after one clk (R210, R219): `go` where its postings come nearer, `lat` where the step in progress advances
and the clk counts as one in which the next may begin. -/
def Engine.tick (go lat : Bool) (e : Engine) : Engine :=
  { e with
    ended := if lat then false else e.ended
    pq := if go then e.pq.map fun (p : Posted) => { p with delay := p.delay - 1 } else e.pq
    run := if lat then e.run.map fun (r : Run) => { r with rem := r.rem - 1 } else e.run }

/-- Delays grow shorter by one clk. -/
def tickFlight (l : List Flight) : List Flight := l.map fun (f : Flight) => { f with rem := f.rem - 1 }
def tickAcc (l : List DAcc) : List DAcc := l.map fun (a : DAcc) => { a with delay := a.delay - 1 }
def tickStream (l : List StreamReq) : List StreamReq := l.map fun (q : StreamReq) => { q with delay := q.delay - 1 }
def tickReq (l : List TileReq) : List TileReq := l.map fun (q : TileReq) => { q with delay := q.delay - 1 }
def tickRows (l : List QRow) : List QRow := l.map fun (r : QRow) => { r with age := r.age + 1 }
/-- A shadow context after one clk, counted in DCC (R136, R346). -/
def Shadow.tick (h : Shadow) : Shadow :=
  { h with
    st := h.st.tick true
    flight := tickFlight h.flight
    age := h.age + 1
    divBusy := h.divBusy - 1 }

/-- A tile after one clk: `run` a clk of task time, `lat` results in flight, postings and requests advance, `mx` the step
of its MX does (R35, R36, R172, R210, R327 to R329, R357). (DEDUCED, log 97) -/
def Tile.tick (run lat mx : Bool) (t : Tile) : Tile :=
  let go := t.res.isSome && !t.frozen
  let one := if run then 1 else 0
  let t := { t with
    sc := t.sc.tick run, sv := t.sv.tick run, sd := t.sd.tick run, se := t.se.tick run
    flight := if lat then tickFlight t.flight else t.flight
    busyDiv := t.busyDiv - one, busyFe := t.busyFe - one, busyFt := t.busyFt - one, busyXl := t.busyXl - one
    busyPk := t.busyPk - one, busyAc := t.busyAc - one
    dacc := if go then tickAcc t.dacc else t.dacc
    streq := if go then t.streq.each tickStream else t.streq
    reqs := if lat then tickReq t.reqs else t.reqs
    vq := if go then t.vq.each tickRows else t.vq
    mx := t.mx.tick lat mx, qz := t.qz.tick lat false, cp := t.cp.tick lat false, fi := t.fi.tick lat false
    hold := if t.res.isSome && !run then t.hold + 1 else t.hold
    used := t.used + one
    resident := t.resident + one
    preq := if run then t.preq.map fun (q : PreemptReq) => { q with left := q.left - 1 } else t.preq
    drain := t.drain.map fun (d : Drain) => { d with on := true }
    spoorNow := none
    raised := f0
    shadow := t.shadow.map Shadow.tick }
  t.serviceDone

/-- The tile whose clock an MX's step follows (R227). -/
def Tile.mxClock (tid : Nat) (t : Tile) : Nat := (t.mx.run.bind (·.peer)).getD tid

/-- Pod time after one clk (R2, R37, R380, R431): 20,480 / K units of PTCF, slewed by the servo while it works off an
offset, and from then on where the lock is lost (R383), also where the package has been made the root since.
(DESIGN CHOICE, log 159) -/
def State.tickPtc (s : State) : State :=
  let k := s.stepK
  let holdover := s.everLocked && !s.locked
  let rate : Int := 262144 - (if 0 < s.slewLeft || holdover then s.servo else 0)
  let acc := s.ptcr + 20480 * rate.toNat
  let unit := k * 262144
  let t := s.ptc.toNat * 64 + s.ptcf.toNat + acc / unit
  let ptc := BitVec.ofNat 64 (t / 64)
  { s with
    ptc := ptc
    ptcf := BitVec.ofNat 6 t
    ptcr := acc % unit
    slewLeft := s.slewLeft - (ptc - s.ptc).toNat
    trcClock := s.trcClock + BitVec.ofNat 64 (ptc.toNat / 4) - BitVec.ofNat 64 (s.ptc.toNat / 4) }

/-- A flow entry after one clk of two nclk and `d` units of pod time (R265, R391). -/
def Entry.tick (halted stopped waiting : Bool) (d : Nat) (x : Entry) : Entry :=
  { x with
    waited := if stopped then x.waited else if waiting then x.waited + 2 else 0
    reorder := if halted then x.reorder.map fun p => { p with paused := p.paused + d } else x.reorder }

/-- A router's entries after one clk. -/
def Router.tick (halted : Nat → Bool) (d : Nat) (x : Router) : Router :=
  { x with entries := x.entries.map fun (e : Entry) =>
      e.tick (halted e.e.part.toNat) (x.stopped.contains e.e.part.toNat) (e.waiting || x.holdWaits e) d }

/-- A tunnel peer's datagrams that are not acknowledged wait (R400). -/
def Peer.tick (d : Nat) (x : Peer) : Peer :=
  { x with window := x.window.map fun (w : Datagram) => { w with age := w.age + d } }
def Eth.tick (d : Nat) (x : Eth) : Eth := { x with peers := x.peers.each (Peer.tick d) }

/-- The halts after one clk: in the clk of the first fault its event is posted, and recorded through the trace channel of
the tile or router that is its source, in the source's order (R433, R434); at the end of the skid the tasks freeze
(R348). (DEDUCED, log 41) -/
def State.tickHalt (s : State) (p : Nat) : State :=
  match (s.part p).halt with
  | none => s
  | some h =>
    let w := (s.part p).halts
    let src := bits w.toNat 54 51
    let id := bits w.toNat 50 42
    let e := { packageEvent p 3 (bits w.toNat 62 55) w with tid := if src < 9 then id else 0x1FF }
    let s := if h.age = 0 then
        (if src < 10 then (s.traceAt (if src = 9 then 0x400 + id else id) e).postEvent e else s.partEvent 0 e)
      else s
    let s := if h.age = 32 then freezeHalt s p else s
    s.onPart p fun x => { x with halt := x.halt.map fun h => { h with age := h.age + 1 } }

/-- The end of a clk (R34 to R37): the clk's cancels take effect where no halt stops them (R361). -/
def State.endClk (s : State) : State :=
  let s := (List.range 8).foldl State.takeCancels s
  let old := s
  let s : State := { s with
    tiles := s.tiles.map fun (x : Nat × Tile) =>
      (x.1, x.2.tick x.2.clockRuns (old.latencyRuns x.1) (old.latencyRuns (x.2.mxClock x.1)))
    saves := s.saves.map fun (x : Saved) => { x with tile := { x.tile with hold := x.tile.hold + 1 } }
    homes := s.homes.map Home.tick
    hsets := s.hsets.map fun (h : HurdleSet) => { h with left := h.left - 1 } }
  let s := (List.range 8).foldl (fun (s : State) p => s.tickHalt p) s
  let s := s.tickPtc
  let d := (s.ptc - old.ptc).toNat
  { s with
    dcc := s.dcc + 1
    powerTime := s.powerTime + d
    routers := s.routers.each (Router.tick (fun p => (s.part p).halt.isSome) d)
    eths := s.eths.each (Eth.tick d) }

/-! ## An action -/

/-- Is the time of an action free from its earliest clk on? Memory and network accesses, walks, requests, records in an
engine, the mailbox and loads from memory take a time that the manual bounds from below at most (R172, R181, R201,
R279, R321); what they do and in which order is theirs (R197, R208, R239). (DESIGN CHOICE, log 101) -/
def Action.mayWait : Action → Bool
  | .engine _ eng => eng != 0
  | .arrive _ port _ => port != 0
  | .mailbox => true
  | .row _ i => match i with
    | .dAccessPerform | .stldPerform | .streamRowRead | .streamRowWrite | .pageWalkDone | .aqryPerform | .topkPerform
    | .kvtruncPerform | .kvReleaseAppend | .recordAdmit | .launchStart | .restore | .preload | .roundResultSend
    | .completionWrite | .eventWrite | .routerHaltStop => true
    | _ => false
  | .migrate _ => true
  | .traceMove _ => true
  | _ => false

/-- May an action wait in this state? A launch whose tasks are all preloaded issues first no later than 64 clk after the
choice that starts it (R331); a router stops no later than 256 nclk after the halt line has reached its die (R349). -/
def State.mayWait (s : State) (a : Action) : Bool :=
  a.mayWait && (match a with
    | .row f .launchStart => match s.unit f.part 0 f.idx with
      | some u => !s.preloaded u || decide (s.dcc < u.chosen + 63)
      | none => true
    | .row f .routerHaltStop => match (s.part f.part).halt with
      | some h => decide (h.age < (if routerDie f.router = 0 then h.ta0 else h.ta1) + 128)
      | none => true
    | _ => true)

/-- Does an entry of a tile's queue hold a value that can be popped (R25)? -/
def Tile.holdsEntry (t : Tile) (q place : Nat) : Bool :=
  match q with
  | 12 => ((t.q12[place]?).any fun (x : QWord) => x.val.isSome)
  | 13 => ((t.q13[place]?).any fun (x : QWord) => x.val.isSome)
  | 14 => decide (place < t.q14.length)
  | 15 => ((t.q15[place]?).any fun (x : QWord) => x.val.isSome)
  | _ => (((SMap.get [] t.vq q)[place]?).any fun (x : QRow) => x.row.isSome)

/-- A list with an element that it lacks. -/
def addOnce {α : Type} [BEq α] (l : List α) (x : α) : List α := if l.contains x then l else l ++ [x]

/-- A host write of a function's BAR0 (R420, R421): the row of the table that it makes the package run. -/
def prepareHostWrite (function off : Nat) (v : W64) : Option Instr :=
  (hostPage function off).map fun x => if x.2 = 0x20 then .sqDoorbell x.1 v else .hostQueueRegisterWrite x.1 x.2 v

/-- Take one action: the instruction of the table that it makes the machine run, if any, and the state in which it
runs. -/
def prepare (s : State) (a : Action) : Option Instr × State :=
  match a with
  | .issue tid st => prepareIssue s tid st
  | .shadowIssue tid => prepareShadow s tid
  | .engine tid eng => prepareEngine s tid eng
  | .arrive r port ch => prepareArrive s r port ch
  | .mailbox => prepareMailbox s
  | .row f i => (some i, { s with focus := f })
  | .upsetTile tid w => (none, s.onTile tid fun t => { t with bad := addOnce t.bad w })
  | .upsetMem tier w => (none, { s with badMem := addOnce s.badMem (tier, w) })
  | .upsetQueue tid q k => (none, s.onTile tid fun t => if t.holdsEntry q k then { t with badQ := addOnce t.badQ (q, k) } else t)
  | .upsetAcc tid w => (none, if w < 67 * 1024 then s.onTile tid fun t => { t with badAcc := addOnce t.badAcc w } else s)
  | .upsetInput r ch => (none, s.onRouter r fun x =>
      if (SMap.get [] x.inq ch).isEmpty then x else { x with badIn := addOnce x.badIn ch })
  | .upsetEntry r p f => (none, if (s.entry r p f).isNone then s
      else s.onRouter r fun x => { x with badFid := addOnce x.badFid (p, f) })
  | .corrected r => (none, s.countRecord r 1)
  | .stallLimit k => (none, if 16 ≤ k ∧ k ≤ 40 then { s with stallK := k } else s)
  | .links r => (none, s.moveLinks r)
  | .traceMove r => (none, s.traceStep r)
  | .kvArrive m => (none, s.kvReceive m)
  | .migrate n => (none, s.migrateStep n)
  | .dropEntries p lid => (none, (s.dropEntries p lid).1)
  | .ethSet e x => (none, s.onEth e fun y => y.set x)
  | .hostWrite f off v => (prepareHostWrite f off v, s)
  | .hostRead f off => (none, s.hostRead f off)
  | .late x => (none, if s.mayWait x then { s with agenda := s.agenda.erase x } else s)
  | .clk => (none, s.endClk)

/-! ## The agenda of a clk -/

/-- The focus of a tile, with a number. -/
def tileAct (tid idx : Nat) (i : Instr) : Action := .row { Focus.reset with tile := tid, idx := idx } i
/-- The focus of a partition, with a number. -/
def partAct (p idx : Nat) (i : Instr) : Action := .row { Focus.reset with part := p, idx := idx } i
/-- The focus of a router and a partition, with a number. -/
def routerAct (r p idx : Nat) (i : Instr) : Action := .row { Focus.reset with router := r, part := p, idx := idx } i

/-- The focus of a home's step: a tile of its scope that runs a task of its launch, else one whose task is saved
(R125). -/
def State.homeFocus (s : State) (h : Home) : Option Focus :=
  let inScope := fun tid => h.scope == 8 || clusterOf tid == h.scope
  match (s.placeOf h.part h.lid).find? fun tid =>
    inScope tid && ((s.tile tid).res.map fun r => (r.part, r.lid)) == some (h.part, h.lid) with
  | some tid => some { Focus.reset with tile := tid, idx := h.hurdle, part := h.part, queue := h.lid }
  | none => (s.saves.find? fun x => x.part == h.part && x.lid == h.lid && inScope x.tid).map fun x =>
    { Focus.reset with tile := x.tid, idx := h.hurdle, part := h.part, queue := h.lid, follow := true }

/-- Hurdle steps of a clk (R123, R124), at the homes known at its start. An arrival reaches its home at the end of the
clk of its issue, or of the next clk where it is the home's first. (DESIGN CHOICE, log 114) -/
def hurdleActs (s : State) (i : Instr) (go : Home → Bool) : List Action :=
  s.homes.filterMap fun h => if go h then (s.homeFocus h).map fun f => .row f i else none

/-- Is a D access a ring push? -/
def DKind.isPush : DKind → Bool
  | .ringPush _ => true
  | _ => false

/-- The ring pushes that may be performed: before an smxu of the same clk publishes, and before a step begins
(R193, R220, R224). -/
def pushActs (tid : Nat) (t : Tile) : List Action :=
  (t.dacc.filter fun a => a.delay == 0 && a.kind.isPush).map fun a => tileAct tid a.seq .dAccessPerform

/-- The D strand's other accesses and streams that may be performed (R172, R181, R182, R197). -/
def dActs (tid : Nat) (t : Tile) : List Action :=
  (t.dacc.filter fun a => a.delay == 0 && !a.kind.isPush).map (fun a => match a.kind with
    | .imageLoad st _ _ => tileAct tid st .stldPerform
    | _ => tileAct tid a.seq .dAccessPerform) ++
  (t.streq.filter fun x => !x.2.isEmpty).map fun x =>
    tileAct tid x.1 (if x.1 < 8 then .streamRowRead else .streamRowWrite)

/-- The request that a tile's first place holds. -/
def reqActs (tid : Nat) (t : Tile) : List Action :=
  match t.reqs with
  | [] => []
  | q :: _ => [tileAct tid 0 (match q.kind with
      | 0 => .aqryPerform
      | 1 => .topkPerform
      | _ => .kvtruncPerform)]

/-- The strands of a tile, then what they do together. -/
def strandActs (tid : Nat) : List Action :=
  [.issue tid .c, .issue tid .v, .issue tid .d, .issue tid .e, tileAct tid 0 .bundleIssue]

/-- The end of a tile's clk: its engines, then its own router, which takes a packet injected in this clk (R213), then the
strands' stalls and what stops a task; the end of the task comes later in the clk. -/
def lastActs (s : State) (tid : Nat) (t : Tile) : List Action :=
  [.engine tid 1, .engine tid 2, .engine tid 3, .arrive tid 0 t.partition, .arrive tid 0 8] ++
  allStrands.map (fun st => .row (strandFocus tid st) .queueStall) ++
  (if t.drain.isSome then [tileAct tid 0 .save] else []) ++
  (if t.shadow.isSome || t.cp.run.isSome then [.shadowIssue tid] else []) ++
  (if s.skidOver t then (List.range 8).map fun u => tileAct tid u .stopRecordWrite else [])

/-- The halt lines of a clk: they arrive at the dies, then at the routers that hold something of the partition or stand on
a tile of one of its tasks (R347, R349). -/
def haltActs (s : State) : List Action :=
  (List.range 8).flatMap fun p => if (s.part p).halt.isNone then [] else
    [.row { Focus.reset with part := p, die := 0 } .haltLineArrive,
     .row { Focus.reset with part := p, die := 1 } .haltLineArrive] ++
    (((s.routers.map (·.1)) ++ ((s.tiles.filter fun x => x.2.ofPart p).map (·.1))).eraseDups.filter fun r =>
      !(s.router r).stopped.contains p).map fun r => routerAct r p 0 .routerHaltStop

/-- The routers' steps of a clk: arrivals in ascending port, results, drove releases, stalls. -/
def routerActs (s : State) (r : Nat) (x : Router) : List Action :=
  (x.inq.filter fun q => !q.2.isEmpty).map (fun q => .arrive r (q.1 / 16) (q.1 % 16)) ++
  x.entries.flatMap (fun e =>
    let row := routerAct r e.e.part.toNat e.e.fid.toNat
    List.replicate e.ready.length (row .roundResultSend) ++ (if e.waited > 2 ^ s.stallK then [row .flowStall] else [])) ++
  (List.range 8).flatMap fun p =>
    let n := (x.reordered p).length
    List.replicate n (routerAct r p 0 .droveRelease) ++ (if n = 0 then [] else [routerAct r p 0 .droveStall])

/-- Bellwethers, while the drove class is enabled or a port has yet to leave (R389, R390). -/
def bellActs (s : State) : List Action :=
  let rs := if s.droveOn then allRouters else (s.routers.filter fun x => !x.2.droveOut.isEmpty).map (·.1)
  rs.flatMap fun r => (List.range 7).map fun port => .row { Focus.reset with router := r, port := port } .bellwetherSend

/-- The links of the routers in which something waits for a slot (R340), and the trace channels that hold an event
(R433). -/
def linkActs (s : State) : List Action :=
  (((s.routers.map (·.1)) ++ (s.ports.map fun x => portRouter x.1)).eraseDups.filter s.linksWait).map (fun r => .links r) ++
  (s.routers.filter fun x => !x.2.trq.isEmpty).map fun x => .traceMove x.1

/-- The end of a millisecond, where one has passed (R431): the power drawn in it and the temperature are free. -/
def msActs (s : State) : List Action :=
  if s.msPassed then [.row Focus.reset (.clockStepAdjust (Config.powerDrawn s.free % 2401) (Config.junction s.free % 256))]
  else []

/-- The steps of the ports. -/
def portActs (s : State) : List Action :=
  ((s.ports.filter (·.2.up)).map fun x => .row { Focus.reset with port := x.1 } .timeFlitSend) ++
  s.eths.flatMap fun x => x.2.peers.map fun y => .row { Focus.reset with port := x.1, idx := y.1 } .ethResend

/-- The mailbox's and the shepherds' steps of a clk. -/
def workActs (s : State) : List Action :=
  [.mailbox] ++
  (List.range 8).flatMap (fun p => List.replicate (s.incoming.filter (·.part == p)).length (partAct p 0 .recordAdmit)) ++
  s.units.flatMap (fun u =>
    if u.ended then []
    else if u.level = 2 then [partAct u.part u.id .foldCommit]
    else if u.level ≠ 0 then []
    else
      (if u.starting then [partAct u.part u.id .launchStart] else []) ++
      (if u.loaded then [partAct u.part u.id .preemptRequest] else [])) ++
  ((s.saves.filter (·.go)).map fun (x : Saved) => (x.part, x.lid)).eraseDups.map (fun x => partAct x.1 x.2 .restore) ++
  (List.range 8).flatMap (fun p =>
    [partAct p 0 .shepherdChoice] ++
    List.replicate (s.part p).releases.length (partAct p 0 .kvReleaseAppend) ++
    ((s.part p).head.map fun h => h.2.map fun tid => .row { Focus.reset with tile := tid, part := p } .preload).getD []) ++
  (List.range 16).flatMap (fun q =>
    let x := s.queue q
    List.replicate x.comps.length (.row { Focus.reset with queue := q } .completionWrite) ++
    List.replicate x.events.length (.row { Focus.reset with queue := q } .eventWrite)) ++
  s.migrations.map (fun m => .migrate m.num) ++ [.row Focus.reset .fieldRecordFlush] ++ msActs s

/-- The tiles with a task, and those that a launch or a restore may give one at the start of this clk. -/
def State.activeTiles (s : State) : SMap Tile :=
  let soon := ((s.units.filter (·.starting)).flatMap (·.place)) ++ ((s.saves.filter (·.go)).map (·.tid))
  if soon.isEmpty then s.tiles.filter fun (x : Nat × Tile) => x.2.res.isSome
  else ((List.range 512).filter fun tid => (s.tile tid).res.isSome || soon.contains tid).map fun tid => (tid, s.tile tid)

/-- The agenda of the next clk: what has come from outside, then the package's own steps, then the end of the clk.
(DESIGN CHOICE, log 5) -/
def State.schedule (s : State) : List Action :=
  if !s.booted then [.row Focus.reset .boot] ++ s.inputs ++ [.clk]
  else
    let ts := s.activeTiles
    let each := fun (f : Nat → Tile → List Action) => ts.flatMap fun x => f x.1 x.2
    s.inputs ++ workActs s ++
    haltActs s ++
    each (fun tid _ => [tileAct tid 0 .cpXlateMiss]) ++
    each pushActs ++
    each (fun tid _ => [tileAct tid 0 .resultLand, tileAct tid 0 .mxStepEnd]) ++
    (if s.hsets.isEmpty then [] else [.row Focus.reset .hurdleConfigEffect]) ++
    hurdleActs s .hurdlePhaseComplete (fun h => h.due == some 0) ++
    each (fun tid _ => [tileAct tid 0 .shadowTimeout, tileAct tid 0 .budget]) ++
    each dActs ++
    each (fun tid _ => [.engine tid 0, tileAct tid 0 .mxStepBegin, tileAct tid 0 .schedMiss]) ++
    ((List.range s.walks.length).reverse.map fun k => .row { Focus.reset with idx := k } .pageWalkDone) ++
    each (fun tid _ => [tileAct tid 0 .forcedBoundary]) ++
    each (fun tid _ => strandActs tid) ++
    each reqActs ++
    each (lastActs s) ++
    hurdleActs s .hurdleArrival (fun _ => true) ++
    s.routers.flatMap (fun x => routerActs s x.1 x.2) ++
    each (fun tid _ => [tileAct tid 0 .taskEnd]) ++
    bellActs s ++ linkActs s ++ portActs s ++ [.clk]

/-- What a step without an agenda does: the next clk begins. Without rails only a power-up from outside is heard (R427,
R431). -/
def State.nextClk (s : State) : Option State :=
  if s.railsOn then some { s with agenda := s.schedule, inputs := [] }
  else
    let isBoot := fun (a : Action) => match a with
      | .row _ .boot => true
      | _ => false
    match s.inputs.dropWhile fun a => !isBoot a with
    | [] => none
    | _ :: rest => some { s with agenda := [.row Focus.reset .boot], inputs := rest }

end Sys2Proof.Machine
end

