-- ==== Sys2Proof/Machine/Dispatch.lean ====
section
/-! DEFINITION. The dispatch: one arm per constructor of Instr, each a direct call of that step's meaning. -/

namespace Sys2Proof.Machine

/-- The meaning of every step of the opcode table. -/
def exec (i : Instr) (s : State) : Host.Outcome State Fault Refusal :=
  match i with
  | .jmp off => Sys2Proof.Machine.execJmp off s
  | .lpf off => Sys2Proof.Machine.execLpf off s
  | .add sd sa sb => Sys2Proof.Machine.execAdd sd sa sb s
  | .sub sd sa sb => Sys2Proof.Machine.execSub sd sa sb s
  | .and sd sa sb => Sys2Proof.Machine.execAnd sd sa sb s
  | .or sd sa sb => Sys2Proof.Machine.execOr sd sa sb s
  | .xor sd sa sb => Sys2Proof.Machine.execXor sd sa sb s
  | .shl sd sa sb => Sys2Proof.Machine.execShl sd sa sb s
  | .shr sd sa sb => Sys2Proof.Machine.execShr sd sa sb s
  | .sra sd sa sb => Sys2Proof.Machine.execSra sd sa sb s
  | .mul sd sa sb => Sys2Proof.Machine.execMul sd sa sb s
  | .mulh n sd sa sb => Sys2Proof.Machine.execMulh n sd sa sb s
  | .div n sd sa sb => Sys2Proof.Machine.execDiv n sd sa sb s
  | .rem n sd sa sb => Sys2Proof.Machine.execRem n sd sa sb s
  | .min n sd sa sb => Sys2Proof.Machine.execMin n sd sa sb s
  | .max n sd sa sb => Sys2Proof.Machine.execMax n sd sa sb s
  | .cmp cond sd sa sb => Sys2Proof.Machine.execCmp cond sd sa sb s
  | .sel sd sa sb sc => Sys2Proof.Machine.execSel sd sa sb sc s
  | .ext n w sd sa => Sys2Proof.Machine.execExt n w sd sa s
  | .bitc k sd sa => Sys2Proof.Machine.execBitc k sd sa s
  | .addi sd sa imm => Sys2Proof.Machine.execAddi sd sa imm s
  | .andi sd sa imm => Sys2Proof.Machine.execAndi sd sa imm s
  | .ori sd sa imm => Sys2Proof.Machine.execOri sd sa imm s
  | .xori sd sa imm => Sys2Proof.Machine.execXori sd sa imm s
  | .shli sd sa imm => Sys2Proof.Machine.execShli sd sa imm s
  | .shri sd sa imm => Sys2Proof.Machine.execShri sd sa imm s
  | .srai sd sa imm => Sys2Proof.Machine.execSrai sd sa imm s
  | .muli sd sa imm => Sys2Proof.Machine.execMuli sd sa imm s
  | .cmpi cond sd sa imm => Sys2Proof.Machine.execCmpi cond sd sa imm s
  | .li sd imm => Sys2Proof.Machine.execLi sd imm s
  | .lih sd sa imm => Sys2Proof.Machine.execLih sd sa imm s
  | .br off => Sys2Proof.Machine.execBr off s
  | .bc cond sa sb off => Sys2Proof.Machine.execBc cond sa sb off s
  | .bf fs test inv off => Sys2Proof.Machine.execBf fs test inv off s
  | .jr sa => Sys2Proof.Machine.execJr sa s
  | .call sd off => Sys2Proof.Machine.execCall sd off s
  | .loopr sd off => Sys2Proof.Machine.execLoopr sd off s
  | .pop r n => Sys2Proof.Machine.execPop r n s
  | .push r n => Sys2Proof.Machine.execPush r n s
  | .qlen r n => Sys2Proof.Machine.execQlen r n s
  | .rdfs r n => Sys2Proof.Machine.execRdfs r n s
  | .csrr sd csr => Sys2Proof.Machine.execCsrr sd csr s
  | .csrw csr sa => Sys2Proof.Machine.execCsrw csr sa s
  | .csrs csr sa => Sys2Proof.Machine.execCsrs csr sa s
  | .csrc csr sa => Sys2Proof.Machine.execCsrc csr sa s
  | .rand u sd sa sb => Sys2Proof.Machine.execRand u sd sa sb s
  | .btr sd idx => Sys2Proof.Machine.execBtr sd idx s
  | .btw idx sa => Sys2Proof.Machine.execBtw idx sa s
  | .lcw eng idx sa => Sys2Proof.Machine.execLcw eng idx sa s
  | .harr idx => Sys2Proof.Machine.execHarr idx s
  | .hwt idx => Sys2Proof.Machine.execHwt idx s
  | .hset idx sa => Sys2Proof.Machine.execHset idx sa s
  | .hpoll sd idx => Sys2Proof.Machine.execHpoll sd idx s
  | .lnch sa => Sys2Proof.Machine.execLnch sa s
  | .fcrd sd idx => Sys2Proof.Machine.execFcrd sd idx s
  | .fcw idx sa => Sys2Proof.Machine.execFcw idx sa s
  | .fcwt idx sa => Sys2Proof.Machine.execFcwt idx sa s
  | .cncl lvl sa => Sys2Proof.Machine.execCncl lvl sa s
  | .lvwt lvl sa sb => Sys2Proof.Machine.execLvwt lvl sa sb s
  | .phint imm => Sys2Proof.Machine.execPhint imm s
  | .yield imm => Sys2Proof.Machine.execYield imm s
  | .trace sa imm => Sys2Proof.Machine.execTrace sa imm s
  | .trap imm => Sys2Proof.Machine.execTrap imm s
  | .shi sd imm => Sys2Proof.Machine.execShi sd imm s
  | .xlin sa sb => Sys2Proof.Machine.execXlin sa sb s
  | .pblk pattern cnt kp => Sys2Proof.Machine.execPblk pattern cnt kp s
  | .vadd o rm => Sys2Proof.Machine.execVadd o rm s
  | .vsub o rm => Sys2Proof.Machine.execVsub o rm s
  | .vmul o rm => Sys2Proof.Machine.execVmul o rm s
  | .vfma o rm => Sys2Proof.Machine.execVfma o rm s
  | .vfms o rm => Sys2Proof.Machine.execVfms o rm s
  | .vfnma o rm => Sys2Proof.Machine.execVfnma o rm s
  | .vmax o => Sys2Proof.Machine.execVmax o s
  | .vmin o => Sys2Proof.Machine.execVmin o s
  | .vabs o => Sys2Proof.Machine.execVabs o s
  | .vneg o => Sys2Proof.Machine.execVneg o s
  | .vmov o => Sys2Proof.Machine.execVmov o s
  | .vexp2 o rm => Sys2Proof.Machine.execVexp2 o rm s
  | .vlog2 o rm => Sys2Proof.Machine.execVlog2 o rm s
  | .vrcpe o => Sys2Proof.Machine.execVrcpe o s
  | .vrsqe o => Sys2Proof.Machine.execVrsqe o s
  | .vrcpn o => Sys2Proof.Machine.execVrcpn o s
  | .vrsqn o => Sys2Proof.Machine.execVrsqn o s
  | .viadd o lt => Sys2Proof.Machine.execViadd o lt s
  | .visub o lt => Sys2Proof.Machine.execVisub o lt s
  | .vimul o lt => Sys2Proof.Machine.execVimul o lt s
  | .vimulh o lt => Sys2Proof.Machine.execVimulh o lt s
  | .vimin o lt => Sys2Proof.Machine.execVimin o lt s
  | .vimax o lt => Sys2Proof.Machine.execVimax o lt s
  | .viand o lt => Sys2Proof.Machine.execViand o lt s
  | .vior o lt => Sys2Proof.Machine.execVior o lt s
  | .vixor o lt => Sys2Proof.Machine.execVixor o lt s
  | .vishl o lt => Sys2Proof.Machine.execVishl o lt s
  | .vishr o lt => Sys2Proof.Machine.execVishr o lt s
  | .visra o lt => Sys2Proof.Machine.execVisra o lt s
  | .viabs o lt => Sys2Proof.Machine.execViabs o lt s
  | .viota o lt k => Sys2Proof.Machine.execViota o lt k s
  | .vcvt o rm fmt x sat => Sys2Proof.Machine.execVcvt o rm fmt x sat s
  | .vwid o part fmt x => Sys2Proof.Machine.execVwid o part fmt x s
  | .vcvti o rm lt => Sys2Proof.Machine.execVcvti o rm lt s
  | .vcvtf o rm lt => Sys2Proof.Machine.execVcvtf o rm lt s
  | .vicvt o dt sl sat => Sys2Proof.Machine.execVicvt o dt sl sat s
  | .vrrot o => Sys2Proof.Machine.execVrrot o s
  | .vcrot o => Sys2Proof.Machine.execVcrot o s
  | .vrbc o => Sys2Proof.Machine.execVrbc o s
  | .vcbc o => Sys2Proof.Machine.execVcbc o s
  | .vrred o k => Sys2Proof.Machine.execVrred o k s
  | .vcred o k => Sys2Proof.Machine.execVcred o k s
  | .vrscan o k => Sys2Proof.Machine.execVrscan o k s
  | .vcscan o k => Sys2Proof.Machine.execVcscan o k s
  | .vbstep o b j dir => Sys2Proof.Machine.execVbstep o b j dir s
  | .vcmp o cond => Sys2Proof.Machine.execVcmp o cond s
  | .vicmp o cond => Sys2Proof.Machine.execVicmp o cond s
  | .kand o => Sys2Proof.Machine.execKand o s
  | .kor o => Sys2Proof.Machine.execKor o s
  | .kxor o => Sys2Proof.Machine.execKxor o s
  | .kandn o => Sys2Proof.Machine.execKandn o s
  | .knot o => Sys2Proof.Machine.execKnot o s
  | .kmov o => Sys2Proof.Machine.execKmov o s
  | .kset o k => Sys2Proof.Machine.execKset o k s
  | .ptest o => Sys2Proof.Machine.execPtest o s
  | .vacrr o => Sys2Proof.Machine.execVacrr o s
  | .vaccr o => Sys2Proof.Machine.execVaccr o s
  | .vacrw o => Sys2Proof.Machine.execVacrw o s
  | .vaccw o => Sys2Proof.Machine.execVaccw o s
  | .vacsr o k => Sys2Proof.Machine.execVacsr o k s
  | .vacsw o k => Sys2Proof.Machine.execVacsw o k s
  | .stset st fld sa => Sys2Proof.Machine.execStset st fld sa s
  | .stld st sa => Sys2Proof.Machine.execStld st sa s
  | .stsv st sa => Sys2Proof.Machine.execStsv st sa s
  | .srd st sa imm => Sys2Proof.Machine.execSrd st sa imm s
  | .swr st sa imm => Sys2Proof.Machine.execSwr st sa imm s
  | .sstop st => Sys2Proof.Machine.execSstop st s
  | .lds sx sz qs sa off => Sys2Proof.Machine.execLds sx sz qs sa off s
  | .sts sz sa off => Sys2Proof.Machine.execSts sz sa off s
  | .aadd w qs sa sb off => Sys2Proof.Machine.execAadd w qs sa sb off s
  | .amin n w qs sa sb off => Sys2Proof.Machine.execAmin n w qs sa sb off s
  | .amax n w qs sa sb off => Sys2Proof.Machine.execAmax n w qs sa sb off s
  | .aand w qs sa sb off => Sys2Proof.Machine.execAand w qs sa sb off s
  | .aor w qs sa sb off => Sys2Proof.Machine.execAor w qs sa sb off s
  | .axor w qs sa sb off => Sys2Proof.Machine.execAxor w qs sa sb off s
  | .axchg w qs sa sb off => Sys2Proof.Machine.execAxchg w qs sa sb off s
  | .acas w qs sa sb sc off => Sys2Proof.Machine.execAcas w qs sa sb sc off s
  | .afadd qs sa sb off => Sys2Proof.Machine.execAfadd qs sa sb off s
  | .rgset rg fld sa => Sys2Proof.Machine.execRgset rg fld sa s
  | .rgrd qs rg fld => Sys2Proof.Machine.execRgrd qs rg fld s
  | .rpush rg => Sys2Proof.Machine.execRpush rg s
  | .fence scope sc => Sys2Proof.Machine.execFence scope sc s
  | .xfence scope => Sys2Proof.Machine.execXfence scope s
  | .spt qs sa => Sys2Proof.Machine.execSpt qs sa s
  | .spc cs qs sa sb => Sys2Proof.Machine.execSpc cs qs sa sb s
  | .post eng sa => Sys2Proof.Machine.execPost eng sa s
  | .tadv eng sa => Sys2Proof.Machine.execTadv eng sa s
  | .cseq eng => Sys2Proof.Machine.execCseq eng s
  | .cwait eng sa => Sys2Proof.Machine.execCwait eng sa s
  | .fsend o fid sa sb fc => Sys2Proof.Machine.execFsend o fid sa sb fc s
  | .fwait fc sa => Sys2Proof.Machine.execFwait fc sa s
  | .aqry sa sb sc fc => Sys2Proof.Machine.execAqry sa sb sc fc s
  | .topk k sa sb sc fc => Sys2Proof.Machine.execTopk k sa sb sc fc s
  | .kvtrunc sa sb fc => Sys2Proof.Machine.execKvtrunc sa sb fc s
  | .linkRecord r => Sys2Proof.Machine.execLinkRecord r s
  | .nil r => Sys2Proof.Machine.execNil r s
  | .mma r => Sys2Proof.Machine.execMma r s
  | .mmai r => Sys2Proof.Machine.execMmai r s
  | .smxu r => Sys2Proof.Machine.execSmxu r s
  | .smxm r => Sys2Proof.Machine.execSmxm r s
  | .smxf r => Sys2Proof.Machine.execSmxf r s
  | .acld r => Sys2Proof.Machine.execAcld r s
  | .acst r => Sys2Proof.Machine.execAcst r s
  | .aczr r => Sys2Proof.Machine.execAczr r s
  | .qscl r => Sys2Proof.Machine.execQscl r s
  | .qpak r => Sys2Proof.Machine.execQpak r s
  | .qdeq r => Sys2Proof.Machine.execQdeq r s
  | .qcvt r => Sys2Proof.Machine.execQcvt r s
  | .qamx r => Sys2Proof.Machine.execQamx r s
  | .copy r => Sys2Proof.Machine.execCopy r s
  | .gath r => Sys2Proof.Machine.execGath r s
  | .scat r => Sys2Proof.Machine.execScat r s
  | .fill r => Sys2Proof.Machine.execFill r s
  | .fsnd r => Sys2Proof.Machine.execFsnd r s
  | .fsig r => Sys2Proof.Machine.execFsig r s
  | .fdrp r => Sys2Proof.Machine.execFdrp r s
  | .fwd e => Sys2Proof.Machine.execFwd e s
  | .dup e => Sys2Proof.Machine.execDup e s
  | .sum e => Sys2Proof.Machine.execSum e s
  | .flowMax e => Sys2Proof.Machine.execFlowMax e s
  | .flowMin e => Sys2Proof.Machine.execFlowMin e s
  | .flowOr e => Sys2Proof.Machine.execFlowOr e s
  | .wsum e => Sys2Proof.Machine.execWsum e s
  | .merge e => Sys2Proof.Machine.execMerge e s
  | .scan e => Sys2Proof.Machine.execScan e s
  | .trn e => Sys2Proof.Machine.execTrn e s
  | .hold e => Sys2Proof.Machine.execHold e s
  | .deliver e => Sys2Proof.Machine.execDeliver e s
  | .fadd e => Sys2Proof.Machine.execFadd e s
  | .iadd e => Sys2Proof.Machine.execIadd e s
  | .drop e => Sys2Proof.Machine.execDrop e s
  | .bellwetherArrive router port flit => Sys2Proof.Machine.execBellwetherArrive router port flit s
  | .timeFlitReceive port flit => Sys2Proof.Machine.execTimeFlitReceive port flit s
  | .linkFlitReceive port flit => Sys2Proof.Machine.execLinkFlitReceive port flit s
  | .linkRetry port ack => Sys2Proof.Machine.execLinkRetry port ack s
  | .ethDatagramReceive eth peer header payload => Sys2Proof.Machine.execEthDatagramReceive eth peer header payload s
  | .ptpEventStamp eth tai lock => Sys2Proof.Machine.execPtpEventStamp eth tai lock s
  | .haltLineRaise part cause src id => Sys2Proof.Machine.execHaltLineRaise part cause src id s
  | .inval part v => Sys2Proof.Machine.execInval part v s
  | .sqDoorbell queue v => Sys2Proof.Machine.execSqDoorbell queue v s
  | .hwrite c => Sys2Proof.Machine.execHwrite c s
  | .hread c => Sys2Proof.Machine.execHread c s
  | .submit c => Sys2Proof.Machine.execSubmit c s
  | .cancel c => Sys2Proof.Machine.execCancel c s
  | .release c => Sys2Proof.Machine.execRelease c s
  | .mread c => Sys2Proof.Machine.execMread c s
  | .mwrite c => Sys2Proof.Machine.execMwrite c s
  | .migrate c => Sys2Proof.Machine.execMigrate c s
  | .attest c => Sys2Proof.Machine.execAttest c s
  | .fwupd c => Sys2Proof.Machine.execFwupd c s
  | .close c => Sys2Proof.Machine.execClose c s
  | .hostQueueRegisterWrite queue off v => Sys2Proof.Machine.execHostQueueRegisterWrite queue off v s
  | .eload queue router w => Sys2Proof.Machine.execEload queue router w s
  | .strayQueueRead router off => Sys2Proof.Machine.execStrayQueueRead router off s
  | .drovecfgWrite queue v => Sys2Proof.Machine.execDrovecfgWrite queue v s
  | .registerWrite queue addr v => Sys2Proof.Machine.execRegisterWrite queue addr v s
  | .clockStepAdjust watts tj => Sys2Proof.Machine.execClockStepAdjust watts tj s
  | .thermtrip tj => Sys2Proof.Machine.execThermtrip tj s
  | .powerLoss thermal => Sys2Proof.Machine.execPowerLoss thermal s
  | .nop => Sys2Proof.Machine.execNop s
  | .fin => Sys2Proof.Machine.execFin s
  | .bundleIssue => Sys2Proof.Machine.execBundleIssue s
  | .queueStall => Sys2Proof.Machine.execQueueStall s
  | .resultLand => Sys2Proof.Machine.execResultLand s
  | .taskEnd => Sys2Proof.Machine.execTaskEnd s
  | .hurdleArrival => Sys2Proof.Machine.execHurdleArrival s
  | .hurdlePhaseComplete => Sys2Proof.Machine.execHurdlePhaseComplete s
  | .hurdleConfigEffect => Sys2Proof.Machine.execHurdleConfigEffect s
  | .shret => Sys2Proof.Machine.execShret s
  | .cpXlateMiss => Sys2Proof.Machine.execCpXlateMiss s
  | .shadowTimeout => Sys2Proof.Machine.execShadowTimeout s
  | .stldPerform => Sys2Proof.Machine.execStldPerform s
  | .streamRowRead => Sys2Proof.Machine.execStreamRowRead s
  | .streamRowWrite => Sys2Proof.Machine.execStreamRowWrite s
  | .mark => Sys2Proof.Machine.execMark s
  | .dAccessPerform => Sys2Proof.Machine.execDAccessPerform s
  | .aqryPerform => Sys2Proof.Machine.execAqryPerform s
  | .topkPerform => Sys2Proof.Machine.execTopkPerform s
  | .kvtruncPerform => Sys2Proof.Machine.execKvtruncPerform s
  | .kvReleaseAppend => Sys2Proof.Machine.execKvReleaseAppend s
  | .fiSendEntry => Sys2Proof.Machine.execFiSendEntry s
  | .mxStepBegin => Sys2Proof.Machine.execMxStepBegin s
  | .mxStepEnd => Sys2Proof.Machine.execMxStepEnd s
  | .schedMiss => Sys2Proof.Machine.execSchedMiss s
  | .mxRelocate => Sys2Proof.Machine.execMxRelocate s
  | .strayPacket => Sys2Proof.Machine.execStrayPacket s
  | .roundResultSend => Sys2Proof.Machine.execRoundResultSend s
  | .flowStall => Sys2Proof.Machine.execFlowStall s
  | .bellwetherSend => Sys2Proof.Machine.execBellwetherSend s
  | .droveRelease => Sys2Proof.Machine.execDroveRelease s
  | .droveStall => Sys2Proof.Machine.execDroveStall s
  | .timeFlitSend => Sys2Proof.Machine.execTimeFlitSend s
  | .portDown => Sys2Proof.Machine.execPortDown s
  | .portUp => Sys2Proof.Machine.execPortUp s
  | .ethResend => Sys2Proof.Machine.execEthResend s
  | .recordAdmit => Sys2Proof.Machine.execRecordAdmit s
  | .shepherdChoice => Sys2Proof.Machine.execShepherdChoice s
  | .launchStart => Sys2Proof.Machine.execLaunchStart s
  | .preload => Sys2Proof.Machine.execPreload s
  | .preemptRequest => Sys2Proof.Machine.execPreemptRequest s
  | .forcedBoundary => Sys2Proof.Machine.execForcedBoundary s
  | .budget => Sys2Proof.Machine.execBudget s
  | .save => Sys2Proof.Machine.execSave s
  | .restore => Sys2Proof.Machine.execRestore s
  | .foldCommit => Sys2Proof.Machine.execFoldCommit s
  | .haltLineArrive => Sys2Proof.Machine.execHaltLineArrive s
  | .routerHaltStop => Sys2Proof.Machine.execRouterHaltStop s
  | .stopRecordWrite => Sys2Proof.Machine.execStopRecordWrite s
  | .pageWalkDone => Sys2Proof.Machine.execPageWalkDone s
  | .completionWrite => Sys2Proof.Machine.execCompletionWrite s
  | .eventWrite => Sys2Proof.Machine.execEventWrite s
  | .boot => Sys2Proof.Machine.execBoot s
  | .shutdown => Sys2Proof.Machine.execShutdown s
  | .fieldRecordFlush => Sys2Proof.Machine.execFieldRecordFlush s

end Sys2Proof.Machine
end

