-- ==== Sys2Proof/Machine/Step.lean ====
section
/-! DEFINITION. One step of the machine: the next action of the clk's agenda, or the next agenda. -/

namespace Sys2Proof.Machine

/-- One step: the first action of the agenda, run as the instruction of the table that it makes the machine run; with
an empty agenda the next clk begins (R34). -/
def step (s : State) : Host.Outcome State Fault Refusal :=
  match s.agenda with
  | [] =>
    match s.nextClk with
    | none => .fault .noPower
    | some s' => .next s'
  | a :: rest =>
    match prepare { s with agenda := rest } a with
    | (none, s') => .next s'
    | (some i, s') => exec i s'

/-! ## Placing one instruction -/

/-- A task alone in tile 0: its code region at 0, its private region behind it (R42). MODEL. -/
def Residence.probe : Residence where
  part := 0
  lid := 0
  rank := 0
  codeBase := 0
  codeSize := 0x10000
  privBase := 0x10000
  privSize := 0x20000
  ringBase := 0x180000
  ringSize := 0
  taskId := 0
  secure := false
  det := false
  stallN := 0
  rl := false
  limit := 0

/-- A strand that runs at an address. -/
def StrandSt.standAt (x : StrandSt) (pc : BitVec 21) : StrandSt :=
  { x with pc := pc, running := true, age := 9, minAge := 1, blocked := 0, waiting := false, faulted := false,
           notIssued := false }

/-- Tile 0 with the probe task and a word at address 0 of its scratchpad, one strand standing at it; with S = 1 the
other three stand at a `nop` with S = 1 (R23). -/
def Tile.withWord (t : Tile) (st : Strand) (w : Nat) : Tile :=
  let t := { t with
    res := some .probe, live := true, halted := false, frozen := false, drain := none
    bad := [], busyDiv := 0, busyFe := 0, busyFt := 0, busyXl := 0, busyPk := 0, busyAc := 0
    sp := Mem.writeN (Mem.writeN t.sp 0 8 w) 8 8 (2 ^ 63)
    sc := t.sc.standAt 8, sv := t.sv.standAt 8, sd := t.sd.standAt 8, se := t.se.standAt 8 }
  t.onStr st fun x => x.standAt 0

/-- The strand whose word this is: the first whose map accepts it. -/
def strandOfWord (w : Nat) : List Strand → Strand
  | [] => .c
  | st :: rest => match decodeSlot st w with
    | .ok _ => st
    | .error _ => strandOfWord w rest

/-- Is this word one of the shadow context alone (R78)? -/
def shadowWord (w : Nat) : Bool :=
  match decodeSlot .c w with
  | .ok ⟨_, _, .shi _ _⟩ => true
  | .ok ⟨_, _, .xlin _ _⟩ => true
  | .ok ⟨_, _, .shret⟩ => true
  | _ => false

/-- A slot word placed where a strand of tile 0, or its shadow context, issues next. -/
def State.withSlotWord (s : State) (w : Nat) : State :=
  let st := strandOfWord w allStrands
  if shadowWord w then
    { s with
      tiles := SMap.put s.tiles 0 { (s.tile 0).withWord .c 0 with
        shadowStore := Mem.writeN (s.tile 0).shadowStore 0 8 w
        shadowImage := some (0, 0, 64)
        shadow := some ⟨StrandSt.reset.standAt 0, [], [], [], 0, 0, false⟩ }
      agenda := [.shadowIssue 0] }
  else
    { s with
      tiles := SMap.put s.tiles 0 ({ s.tile 0 with shadow := none }.withWord st w)
      agenda := [if bitAt w 63 then tileAct 0 0 .bundleIssue else .issue 0 st] }

/-- A record at the private address 0x1000 of tile 0 and its posting at the head of its engine. -/
def State.withRecord (s : State) (w : Nat) : State :=
  let eng := ((decodeRecord w).bind recEngine).getD 0
  let post : Posted := ⟨.single 0x8000000000001000#64, 0, 0, 0⟩
  let t := { s.tile 0 with shadow := none }.withWord .c 0
  let t := { t with sp := Mem.writeN t.sp 0x11000 64 w }
  { s with
    tiles := SMap.put s.tiles 0 (t.onEng eng fun e => { e with pq := [post], run := none, chain := none, away := none, stopped := false })
    agenda := [.engine 0 eng] }

/-- The lowest port of a set. -/
def firstPort (m : Nat) : Nat := ((List.range 7).find? fun p => bitAt m p).getD 0

/-- A flow entry in the match table of the router of tile 0, and a packet of one word that meets it. -/
def State.withFlowWord (s : State) (w : Nat) : State :=
  let e := decFlow w
  let port := firstPort e.ipm.toNat
  let x : Entry := ⟨bits w 31 24, e, none, false, false, 0, 0, [], [], 0, [], [], 0, false, 0, 0, []⟩
  let p : Packet := ⟨0, 0, 0, 0, 0, 0, 0, 0, 4, 1, false, false, false, false, e.part.toNat, e.fid, [0, 0, 0, 0]⟩
  { s with
    tiles := SMap.put s.tiles 0 ({ s.tile 0 with shadow := none }.withWord .c 0)
    routers := SMap.put s.routers 0 { Router.reset with
      entries := [x], inq := [(16 * port + e.part.toNat, [p])] }
    agenda := [.arrive 0 port e.part.toNat] }

/-- The state with an instruction of `nbits` bits placed where the next step takes its instruction: a slot word under
the program counter of a strand of tile 0, a record at the head of an engine of tile 0, a flow entry that the head
packet of a router meets. How a program comes to tile 0 by itself is the work of the boot ROM, the mailbox and the
shepherds (R428, R422, R321): this stands for that. (DESIGN CHOICE, log 4) -/
def State.withFetchWord (s : State) (nbits w : Nat) : State :=
  if nbits ≤ 64 then s.withSlotWord w
  else if nbits ≤ 256 then s.withFlowWord w
  else s.withRecord w

end Sys2Proof.Machine
end

