-- ==== Sys2Proof/Laws/Map.lean ====
section
/-! SUPPORT. Laws of sparse data by key and of memory: a read after a write, the canonical form, and what a write of
bytes leaves alone. -/

namespace Sys2Proof.Laws

open Sys2Proof.Machine

variable {α : Type}

/-! ## Maps of records -/

@[simp] theorem find_put (m : SMap α) (k : Nat) (v : α) : SMap.find (SMap.put m k v) k = some v := by
  induction m with
  | nil => simp [SMap.put, SMap.find]
  | cons x m ih =>
    obtain ⟨a, w⟩ := x
    by_cases h1 : k < a
    · simp [SMap.put, SMap.find, h1]
    · by_cases h2 : k = a
      · simp [SMap.put, SMap.find, h2]
      · simp [SMap.put, SMap.find, h1, h2, ih]

theorem find_put_ne (m : SMap α) {k j : Nat} (v : α) (h : j ≠ k) :
    SMap.find (SMap.put m k v) j = SMap.find m j := by
  induction m with
  | nil => simp [SMap.put, SMap.find, h]
  | cons x m ih =>
    obtain ⟨a, w⟩ := x
    by_cases h1 : k < a
    · simp [SMap.put, SMap.find, h1, h]
    · by_cases h2 : k = a
      · subst h2; simp [SMap.put, SMap.find, h]
      · simp [SMap.put, SMap.find, h1, h2, ih]

@[simp] theorem put_put (m : SMap α) (k : Nat) (v w : α) : SMap.put (SMap.put m k v) k w = SMap.put m k w := by
  induction m with
  | nil => simp [SMap.put]
  | cons x m ih =>
    obtain ⟨a, u⟩ := x
    by_cases h1 : k < a
    · simp [SMap.put, h1]
    · by_cases h2 : k = a
      · simp [SMap.put, h2]
      · simp [SMap.put, h1, h2, ih]

/-! ## Maps with a default -/

variable [DecidableEq α] {d : α}

/-- A well-formed map from above a key lists nothing at or below that key. -/
theorem get_below {m : SMap α} {a k : Nat} (h : SMap.wfFrom d (some a) m = true) (hk : k ≤ a) : SMap.get d m k = d := by
  induction m generalizing a with
  | nil => rfl
  | cons x m ih =>
    obtain ⟨b, w⟩ := x
    simp only [SMap.wfFrom, Bool.and_eq_true, decide_eq_true_eq] at h
    rw [SMap.get, if_neg (by omega)]
    exact ih h.2 (by omega)

theorem wfFrom_weaken {m : SMap α} {a b : Option Nat} (h : SMap.wfFrom d a m = true)
    (hb : ∀ l, b = some l → ∃ l', a = some l' ∧ l ≤ l') : SMap.wfFrom d b m = true := by
  cases m with
  | nil => rfl
  | cons x m =>
    obtain ⟨k, w⟩ := x
    cases b with
    | none => cases a <;> simp_all [SMap.wfFrom]
    | some l =>
      obtain ⟨l', rfl, hl⟩ := hb l rfl
      simp only [SMap.wfFrom, Bool.and_eq_true, decide_eq_true_eq] at h ⊢
      exact ⟨⟨by omega, h.1.2⟩, h.2⟩

theorem get_set_self {m : SMap α} {lo : Option Nat} (h : SMap.wfFrom d lo m = true) (k : Nat) (v : α) :
    SMap.get d (SMap.set d m k v) k = v := by
  induction m generalizing lo with
  | nil => by_cases hv : v = d <;> simp [SMap.set, SMap.get, hv]
  | cons x m ih =>
    obtain ⟨a, w⟩ := x
    have h2 : SMap.wfFrom d (some a) m = true := by
      cases lo <;> simp_all [SMap.wfFrom]
    by_cases h1 : k < a
    · by_cases hv : v = d
      · simp only [SMap.set, h1, if_true, hv, SMap.get]
        rw [if_neg (by omega)]
        exact get_below h2 (by omega)
      · simp [SMap.set, h1, hv, SMap.get]
    · by_cases h3 : k = a
      · subst h3
        by_cases hv : v = d
        · simp only [SMap.set, Nat.lt_irrefl, if_false, if_true, hv]
          exact get_below h2 (Nat.le_refl _)
        · simp [SMap.set, hv, SMap.get]
      · simp [SMap.set, h1, h3, SMap.get, ih h2]

theorem get_set_ne (m : SMap α) {k j : Nat} (v : α) (h : j ≠ k) :
    SMap.get d (SMap.set d m k v) j = SMap.get d m j := by
  induction m with
  | nil => by_cases hv : v = d <;> simp [SMap.set, SMap.get, hv, h]
  | cons x m ih =>
    obtain ⟨a, w⟩ := x
    by_cases h1 : k < a
    · by_cases hv : v = d <;> simp [SMap.set, SMap.get, h1, hv, h]
    · by_cases h2 : k = a
      · subst h2; by_cases hv : v = d <;> simp [SMap.set, SMap.get, hv, h]
      · simp [SMap.set, SMap.get, h1, h2, ih]

theorem wfFrom_set {m : SMap α} {lo : Option Nat} (h : SMap.wfFrom d lo m = true) (k : Nat) (v : α)
    (hk : ∀ l, lo = some l → l < k) : SMap.wfFrom d lo (SMap.set d m k v) = true := by
  induction m generalizing lo with
  | nil =>
    by_cases hv : v = d
    · simp [SMap.set, SMap.wfFrom, hv]
    · cases lo with
      | none => simp [SMap.set, SMap.wfFrom, hv]
      | some l => simp [SMap.set, SMap.wfFrom, hv, hk l rfl]
  | cons x m ih =>
    obtain ⟨a, w⟩ := x
    simp only [SMap.wfFrom, Bool.and_eq_true, decide_eq_true_eq] at h
    obtain ⟨⟨hlo, hw⟩, hm⟩ := h
    by_cases h1 : k < a
    · by_cases hv : v = d
      · simp [SMap.set, h1, hv, SMap.wfFrom, hw, hm]
        cases lo <;> simp_all
      · simp only [SMap.set, h1, if_true, hv, if_false, SMap.wfFrom, Bool.and_eq_true, decide_eq_true_eq]
        refine ⟨⟨?_, hv⟩, ⟨trivial, hw⟩, hm⟩
        cases lo with
        | none => rfl
        | some l => simpa using hk l rfl
    · by_cases h2 : k = a
      · subst h2
        by_cases hv : v = d
        · simp only [SMap.set, Nat.lt_irrefl, if_false, if_true, hv]
          refine wfFrom_weaken hm fun l hl => ⟨k, rfl, Nat.le_of_lt (hk l hl)⟩
        · simp only [SMap.set, Nat.lt_irrefl, if_false, if_true, hv, SMap.wfFrom, Bool.and_eq_true, decide_eq_true_eq]
          exact ⟨⟨hlo, hv⟩, hm⟩
      · simp only [SMap.set, h1, h2, if_false, SMap.wfFrom, Bool.and_eq_true, decide_eq_true_eq]
        refine ⟨⟨hlo, hw⟩, ih hm fun l hl => ?_⟩
        cases hl; omega

/-! ## Memory -/

@[simp] theorem mem_get_set_self {m : Mem} (h : m.wf = true) (a : Nat) (v : W8) : (m.set a v).get a = v :=
  get_set_self (lo := none) h a v

theorem mem_get_set_ne (m : Mem) {a b : Nat} (v : W8) (h : b ≠ a) : (m.set a v).get b = m.get b :=
  get_set_ne m v h

theorem mem_wf_set {m : Mem} (h : m.wf = true) (a : Nat) (v : W8) : (m.set a v).wf = true :=
  wfFrom_set (lo := none) h a v nofun

theorem mem_wf_writeN {m : Mem} (h : m.wf = true) (a n v : Nat) : (m.writeN a n v).wf = true := by
  induction n generalizing m a v with
  | zero => exact h
  | succ n ih => exact ih (mem_wf_set h _ _) _ _

theorem mem_wf_writeBytes {m : Mem} (h : m.wf = true) (a : Nat) (l : List W8) : (m.writeBytes a l).wf = true := by
  induction l generalizing m a with
  | nil => exact h
  | cons b l ih => exact ih (mem_wf_set h _ _) _

/-- A write of bytes changes no byte outside them. -/
theorem mem_get_writeBytes_out (m : Mem) (a : Nat) (l : List W8) {b : Nat} (h : b < a ∨ a + l.length ≤ b) :
    (m.writeBytes a l).get b = m.get b := by
  induction l generalizing m a with
  | nil => rfl
  | cons x l ih =>
    simp only [List.length_cons] at h
    rw [Mem.writeBytes, ih _ _ (by omega), mem_get_set_ne _ _ (by omega)]

/-- A write of bytes puts each in its place. -/
theorem mem_get_writeBytes_in {m : Mem} (hm : m.wf = true) (a : Nat) (l : List W8) (i : Nat) (h : i < l.length) :
    (m.writeBytes a l).get (a + i) = l[i] := by
  induction l generalizing m a i with
  | nil => simp at h
  | cons x l ih =>
    rw [Mem.writeBytes]
    cases i with
    | zero => rw [mem_get_writeBytes_out _ _ _ (by omega)]; exact mem_get_set_self hm _ _
    | succ i =>
      have := ih (mem_wf_set hm a x) (a + 1) i (by simpa using h)
      rw [show a + (i + 1) = a + 1 + i by omega, this]
      rfl

theorem mem_get_writeN_out (m : Mem) (a n v : Nat) {b : Nat} (h : b < a ∨ a + n ≤ b) :
    (m.writeN a n v).get b = m.get b := by
  induction n generalizing m a v with
  | zero => rfl
  | succ n ih => rw [Mem.writeN, ih _ _ _ (by omega), mem_get_set_ne _ _ (by omega)]

/-- Memories in the canonical form are equal data where every byte reads alike. -/
theorem smap_ext {d : α} {m m' : SMap α} {lo : Option Nat} (h : SMap.wfFrom d lo m = true) (h' : SMap.wfFrom d lo m' = true)
    (he : ∀ k, SMap.get d m k = SMap.get d m' k) : m = m' := by
  induction m generalizing m' lo with
  | nil =>
    cases m' with
    | nil => rfl
    | cons x m' =>
      obtain ⟨a, w⟩ := x
      have := he a
      simp only [SMap.wfFrom, Bool.and_eq_true, decide_eq_true_eq] at h'
      simp [SMap.get] at this
      exact absurd this.symm h'.1.2
  | cons x m ih =>
    obtain ⟨a, w⟩ := x
    have hx := h
    simp only [SMap.wfFrom, Bool.and_eq_true, decide_eq_true_eq] at h
    cases m' with
    | nil =>
      have := he a
      simp [SMap.get] at this
      exact absurd this h.1.2
    | cons y m' =>
      obtain ⟨b, u⟩ := y
      simp only [SMap.wfFrom, Bool.and_eq_true, decide_eq_true_eq] at h'
      have hab : a = b := by
        rcases Nat.lt_trichotomy a b with hl | hl | hl
        · have := he a
          rw [SMap.get, if_pos rfl, SMap.get, if_neg (by omega), get_below h'.2 (by omega)] at this
          exact absurd this h.1.2
        · exact hl
        · have := he b
          rw [SMap.get, if_neg (by omega), get_below h.2 (by omega), SMap.get, if_pos rfl] at this
          exact absurd this.symm h'.1.2
      subst hab
      have hwu : w = u := by simpa [SMap.get] using he a
      subst hwu
      rw [ih h.2 h'.2 fun k => ?_]
      by_cases hk : k = a
      · subst hk; rw [get_below h.2 (Nat.le_refl _), get_below h'.2 (Nat.le_refl _)]
      · have := he k
        rwa [SMap.get, if_neg hk, SMap.get, if_neg hk] at this

end Sys2Proof.Laws
end

