-- ==== Sys2Proof/Laws/State.lean ====
section
/-! SUPPORT. What each named update of the state and of a tile changes, field by field: no later proof unfolds a record
update. -/

namespace Sys2Proof.Laws

open Sys2Proof.Machine

/-! ## Units by number -/

@[simp] theorem tile_setTile (s : State) (t : Nat) (x : Tile) : (s.setTile t x).tile t = x := by
  simp [State.tile, State.setTile]

theorem tile_setTile_ne (s : State) {t u : Nat} (x : Tile) (h : u ≠ t) : (s.setTile t x).tile u = s.tile u := by
  simp [State.tile, State.setTile, find_put_ne _ _ h]

@[simp] theorem setTile_setTile (s : State) (t : Nat) (x y : Tile) : (s.setTile t x).setTile t y = s.setTile t y := by
  simp [State.setTile]

@[simp] theorem tile_onTile (s : State) (t : Nat) (f : Tile → Tile) : (s.onTile t f).tile t = f (s.tile t) := by
  simp [State.onTile]

theorem tile_onTile_ne (s : State) {t u : Nat} (f : Tile → Tile) (h : u ≠ t) : (s.onTile t f).tile u = s.tile u :=
  tile_setTile_ne s _ h

theorem onTile_onTile (s : State) (t : Nat) (f g : Tile → Tile) :
    (s.onTile t f).onTile t g = s.onTile t fun x => g (f x) := by
  simp [State.onTile]

@[simp] theorem me_setTile (s : State) (x : Tile) : (s.setTile s.focus.tile x).me = x := by
  simp [State.me, State.setTile, State.tile]

@[simp] theorem me_onMe (s : State) (f : Tile → Tile) : (s.onMe f).me = f s.me := by
  simp [State.me, State.onMe, State.onTile, State.setTile, State.tile]

theorem onMe_onMe (s : State) (f g : Tile → Tile) : (s.onMe f).onMe g = s.onMe fun x => g (f x) := by
  simp only [State.onMe]; exact onTile_onTile s _ f g

theorem onMe_eq (s : State) (f : Tile → Tile) : s.onMe f = s.setTile s.focus.tile (f s.me) := rfl

@[simp] theorem router_setRouter (s : State) (r : Nat) (x : Router) : (s.setRouter r x).router r = x := by
  simp [State.router, State.setRouter]

theorem router_setRouter_ne (s : State) {r u : Nat} (x : Router) (h : u ≠ r) :
    (s.setRouter r x).router u = s.router u := by
  simp [State.router, State.setRouter, find_put_ne _ _ h]

@[simp] theorem router_onRouter (s : State) (r : Nat) (f : Router → Router) :
    (s.onRouter r f).router r = f (s.router r) := by
  simp [State.onRouter]

@[simp] theorem part_setPart (s : State) (p : Nat) (x : Partition) : (s.setPart p x).part p = x := by
  simp [State.part, State.setPart]

theorem part_setPart_ne (s : State) {p q : Nat} (x : Partition) (h : q ≠ p) : (s.setPart p x).part q = s.part q := by
  simp [State.part, State.setPart, find_put_ne _ _ h]

@[simp] theorem part_onPart (s : State) (p : Nat) (f : Partition → Partition) :
    (s.onPart p f).part p = f (s.part p) := by
  simp [State.onPart]

@[simp] theorem port_onPort (s : State) (p : Nat) (f : Port → Port) : (s.onPort p f).port p = f (s.port p) := by
  simp [State.port, State.onPort]

@[simp] theorem eth_onEth (s : State) (e : Nat) (f : Eth → Eth) : (s.onEth e f).eth e = f (s.eth e) := by
  simp [State.eth, State.onEth]

@[simp] theorem queue_onQueue (s : State) (q : Nat) (f : HostQueue → HostQueue) :
    (s.onQueue q f).queue q = f (s.queue q) := by
  simp [State.queue, State.onQueue]

/-! ## Fields of the state that an update of a unit leaves alone -/

@[simp] theorem setTile_dcc (s : State) (t : Nat) (x : Tile) : (s.setTile t x).dcc = s.dcc := rfl
@[simp] theorem setTile_ptc (s : State) (t : Nat) (x : Tile) : (s.setTile t x).ptc = s.ptc := rfl
@[simp] theorem setTile_ptcf (s : State) (t : Nat) (x : Tile) : (s.setTile t x).ptcf = s.ptcf := rfl
@[simp] theorem setTile_ptcr (s : State) (t : Nat) (x : Tile) : (s.setTile t x).ptcr = s.ptcr := rfl
@[simp] theorem setTile_servo (s : State) (t : Nat) (x : Tile) : (s.setTile t x).servo = s.servo := rfl
@[simp] theorem setTile_slewLeft (s : State) (t : Nat) (x : Tile) : (s.setTile t x).slewLeft = s.slewLeft := rfl
@[simp] theorem setTile_streak (s : State) (t : Nat) (x : Tile) : (s.setTile t x).streak = s.streak := rfl
@[simp] theorem setTile_everLocked (s : State) (t : Nat) (x : Tile) : (s.setTile t x).everLocked = s.everLocked := rfl
@[simp] theorem setTile_routers (s : State) (t : Nat) (x : Tile) : (s.setTile t x).routers = s.routers := rfl
@[simp] theorem setTile_mem0 (s : State) (t : Nat) (x : Tile) : (s.setTile t x).mem0 = s.mem0 := rfl
@[simp] theorem setTile_mem1 (s : State) (t : Nat) (x : Tile) : (s.setTile t x).mem1 = s.mem1 := rfl
@[simp] theorem setTile_mem2 (s : State) (t : Nat) (x : Tile) : (s.setTile t x).mem2 = s.mem2 := rfl
@[simp] theorem setTile_badMem (s : State) (t : Nat) (x : Tile) : (s.setTile t x).badMem = s.badMem := rfl
@[simp] theorem setTile_parts (s : State) (t : Nat) (x : Tile) : (s.setTile t x).parts = s.parts := rfl
@[simp] theorem setTile_units (s : State) (t : Nat) (x : Tile) : (s.setTile t x).units = s.units := rfl
@[simp] theorem setTile_saves (s : State) (t : Nat) (x : Tile) : (s.setTile t x).saves = s.saves := rfl
@[simp] theorem setTile_incoming (s : State) (t : Nat) (x : Tile) : (s.setTile t x).incoming = s.incoming := rfl
@[simp] theorem setTile_homes (s : State) (t : Nat) (x : Tile) : (s.setTile t x).homes = s.homes := rfl
@[simp] theorem setTile_hsets (s : State) (t : Nat) (x : Tile) : (s.setTile t x).hsets = s.hsets := rfl
@[simp] theorem setTile_tlbs (s : State) (t : Nat) (x : Tile) : (s.setTile t x).tlbs = s.tlbs := rfl
@[simp] theorem setTile_ccaches (s : State) (t : Nat) (x : Tile) : (s.setTile t x).ccaches = s.ccaches := rfl
@[simp] theorem setTile_walks (s : State) (t : Nat) (x : Tile) : (s.setTile t x).walks = s.walks := rfl
@[simp] theorem setTile_failed (s : State) (t : Nat) (x : Tile) : (s.setTile t x).failed = s.failed := rfl
@[simp] theorem setTile_stallK (s : State) (t : Nat) (x : Tile) : (s.setTile t x).stallK = s.stallK := rfl
@[simp] theorem setTile_wheels (s : State) (t : Nat) (x : Tile) : (s.setTile t x).wheels = s.wheels := rfl
@[simp] theorem setTile_ports (s : State) (t : Nat) (x : Tile) : (s.setTile t x).ports = s.ports := rfl
@[simp] theorem setTile_podcfg (s : State) (t : Nat) (x : Tile) : (s.setTile t x).podcfg = s.podcfg := rfl
@[simp] theorem setTile_syncst (s : State) (t : Nat) (x : Tile) : (s.setTile t x).syncst = s.syncst := rfl
@[simp] theorem setTile_drovecfg (s : State) (t : Nat) (x : Tile) : (s.setTile t x).drovecfg = s.drovecfg := rfl
@[simp] theorem setTile_eths (s : State) (t : Nat) (x : Tile) : (s.setTile t x).eths = s.eths := rfl
@[simp] theorem setTile_queues (s : State) (t : Nat) (x : Tile) : (s.setTile t x).queues = s.queues := rfl
@[simp] theorem setTile_served (s : State) (t : Nat) (x : Tile) : (s.setTile t x).served = s.served := rfl
@[simp] theorem setTile_accepted (s : State) (t : Nat) (x : Tile) : (s.setTile t x).accepted = s.accepted := rfl
@[simp] theorem setTile_pwrcap (s : State) (t : Nat) (x : Tile) : (s.setTile t x).pwrcap = s.pwrcap := rfl
@[simp] theorem setTile_pwrst (s : State) (t : Nat) (x : Tile) : (s.setTile t x).pwrst = s.pwrst := rfl
@[simp] theorem setTile_bootst (s : State) (t : Nat) (x : Tile) : (s.setTile t x).bootst = s.bootst := rfl
@[simp] theorem setTile_safePin (s : State) (t : Nat) (x : Tile) : (s.setTile t x).safePin = s.safePin := rfl
@[simp] theorem setTile_thermtrip (s : State) (t : Nat) (x : Tile) : (s.setTile t x).thermtrip = s.thermtrip := rfl
@[simp] theorem setTile_railsOn (s : State) (t : Nat) (x : Tile) : (s.setTile t x).railsOn = s.railsOn := rfl
@[simp] theorem setTile_booted (s : State) (t : Nat) (x : Tile) : (s.setTile t x).booted = s.booted := rfl
@[simp] theorem setTile_flash (s : State) (t : Nat) (x : Tile) : (s.setTile t x).flash = s.flash := rfl
@[simp] theorem setTile_minsvn (s : State) (t : Nat) (x : Tile) : (s.setTile t x).minsvn = s.minsvn := rfl
@[simp] theorem setTile_records (s : State) (t : Nat) (x : Tile) : (s.setTile t x).records = s.records := rfl
@[simp] theorem setTile_flushed (s : State) (t : Nat) (x : Tile) : (s.setTile t x).flushed = s.flushed := rfl
@[simp] theorem setTile_recAcc (s : State) (t : Nat) (x : Tile) : (s.setTile t x).recAcc = s.recAcc := rfl
@[simp] theorem setTile_flushedAt (s : State) (t : Nat) (x : Tile) : (s.setTile t x).flushedAt = s.flushedAt := rfl
@[simp] theorem setTile_abrupt (s : State) (t : Nat) (x : Tile) : (s.setTile t x).abrupt = s.abrupt := rfl
@[simp] theorem setTile_trcClock (s : State) (t : Nat) (x : Tile) : (s.setTile t x).trcClock = s.trcClock := rfl
@[simp] theorem setTile_trcValid (s : State) (t : Nat) (x : Tile) : (s.setTile t x).trcValid = s.trcValid := rfl
@[simp] theorem setTile_trace (s : State) (t : Nat) (x : Tile) : (s.setTile t x).trace = s.trace := rfl
@[simp] theorem setTile_errRec (s : State) (t : Nat) (x : Tile) : (s.setTile t x).errRec = s.errRec := rfl
@[simp] theorem setTile_hostMem (s : State) (t : Nat) (x : Tile) : (s.setTile t x).hostMem = s.hostMem := rfl
@[simp] theorem setTile_msix (s : State) (t : Nat) (x : Tile) : (s.setTile t x).msix = s.msix := rfl
@[simp] theorem setTile_inputs (s : State) (t : Nat) (x : Tile) : (s.setTile t x).inputs = s.inputs := rfl
@[simp] theorem setTile_agenda (s : State) (t : Nat) (x : Tile) : (s.setTile t x).agenda = s.agenda := rfl
@[simp] theorem setTile_focus (s : State) (t : Nat) (x : Tile) : (s.setTile t x).focus = s.focus := rfl
@[simp] theorem setTile_free (s : State) (t : Nat) (x : Tile) : (s.setTile t x).free = s.free := rfl
@[simp] theorem setTile_reqNum (s : State) (t : Nat) (x : Tile) : (s.setTile t x).reqNum = s.reqNum := rfl
@[simp] theorem setTile_kvOpen (s : State) (t : Nat) (x : Tile) : (s.setTile t x).kvOpen = s.kvOpen := rfl
@[simp] theorem setTile_kvGot (s : State) (t : Nat) (x : Tile) : (s.setTile t x).kvGot = s.kvGot := rfl
@[simp] theorem setTile_kvWire (s : State) (t : Nat) (x : Tile) : (s.setTile t x).kvWire = s.kvWire := rfl
@[simp] theorem setTile_migrations (s : State) (t : Nat) (x : Tile) : (s.setTile t x).migrations = s.migrations := rfl
@[simp] theorem setTile_power (s : State) (t : Nat) (x : Tile) : (s.setTile t x).power = s.power := rfl
@[simp] theorem setTile_powerTime (s : State) (t : Nat) (x : Tile) : (s.setTile t x).powerTime = s.powerTime := rfl
@[simp] theorem setTile_flushedAcc (s : State) (t : Nat) (x : Tile) : (s.setTile t x).flushedAcc = s.flushedAcc := rfl
@[simp] theorem setTile_hostReads (s : State) (t : Nat) (x : Tile) : (s.setTile t x).hostReads = s.hostReads := rfl
@[simp] theorem onTile_dcc (s : State) (t : Nat) (f : Tile → Tile) : (s.onTile t f).dcc = s.dcc := rfl
@[simp] theorem onTile_ptc (s : State) (t : Nat) (f : Tile → Tile) : (s.onTile t f).ptc = s.ptc := rfl
@[simp] theorem onTile_ptcf (s : State) (t : Nat) (f : Tile → Tile) : (s.onTile t f).ptcf = s.ptcf := rfl
@[simp] theorem onTile_ptcr (s : State) (t : Nat) (f : Tile → Tile) : (s.onTile t f).ptcr = s.ptcr := rfl
@[simp] theorem onTile_servo (s : State) (t : Nat) (f : Tile → Tile) : (s.onTile t f).servo = s.servo := rfl
@[simp] theorem onTile_slewLeft (s : State) (t : Nat) (f : Tile → Tile) : (s.onTile t f).slewLeft = s.slewLeft := rfl
@[simp] theorem onTile_streak (s : State) (t : Nat) (f : Tile → Tile) : (s.onTile t f).streak = s.streak := rfl
@[simp] theorem onTile_everLocked (s : State) (t : Nat) (f : Tile → Tile) : (s.onTile t f).everLocked = s.everLocked := rfl
@[simp] theorem onTile_routers (s : State) (t : Nat) (f : Tile → Tile) : (s.onTile t f).routers = s.routers := rfl
@[simp] theorem onTile_mem0 (s : State) (t : Nat) (f : Tile → Tile) : (s.onTile t f).mem0 = s.mem0 := rfl
@[simp] theorem onTile_mem1 (s : State) (t : Nat) (f : Tile → Tile) : (s.onTile t f).mem1 = s.mem1 := rfl
@[simp] theorem onTile_mem2 (s : State) (t : Nat) (f : Tile → Tile) : (s.onTile t f).mem2 = s.mem2 := rfl
@[simp] theorem onTile_badMem (s : State) (t : Nat) (f : Tile → Tile) : (s.onTile t f).badMem = s.badMem := rfl
@[simp] theorem onTile_parts (s : State) (t : Nat) (f : Tile → Tile) : (s.onTile t f).parts = s.parts := rfl
@[simp] theorem onTile_units (s : State) (t : Nat) (f : Tile → Tile) : (s.onTile t f).units = s.units := rfl
@[simp] theorem onTile_saves (s : State) (t : Nat) (f : Tile → Tile) : (s.onTile t f).saves = s.saves := rfl
@[simp] theorem onTile_incoming (s : State) (t : Nat) (f : Tile → Tile) : (s.onTile t f).incoming = s.incoming := rfl
@[simp] theorem onTile_homes (s : State) (t : Nat) (f : Tile → Tile) : (s.onTile t f).homes = s.homes := rfl
@[simp] theorem onTile_hsets (s : State) (t : Nat) (f : Tile → Tile) : (s.onTile t f).hsets = s.hsets := rfl
@[simp] theorem onTile_tlbs (s : State) (t : Nat) (f : Tile → Tile) : (s.onTile t f).tlbs = s.tlbs := rfl
@[simp] theorem onTile_ccaches (s : State) (t : Nat) (f : Tile → Tile) : (s.onTile t f).ccaches = s.ccaches := rfl
@[simp] theorem onTile_walks (s : State) (t : Nat) (f : Tile → Tile) : (s.onTile t f).walks = s.walks := rfl
@[simp] theorem onTile_failed (s : State) (t : Nat) (f : Tile → Tile) : (s.onTile t f).failed = s.failed := rfl
@[simp] theorem onTile_stallK (s : State) (t : Nat) (f : Tile → Tile) : (s.onTile t f).stallK = s.stallK := rfl
@[simp] theorem onTile_wheels (s : State) (t : Nat) (f : Tile → Tile) : (s.onTile t f).wheels = s.wheels := rfl
@[simp] theorem onTile_ports (s : State) (t : Nat) (f : Tile → Tile) : (s.onTile t f).ports = s.ports := rfl
@[simp] theorem onTile_podcfg (s : State) (t : Nat) (f : Tile → Tile) : (s.onTile t f).podcfg = s.podcfg := rfl
@[simp] theorem onTile_syncst (s : State) (t : Nat) (f : Tile → Tile) : (s.onTile t f).syncst = s.syncst := rfl
@[simp] theorem onTile_drovecfg (s : State) (t : Nat) (f : Tile → Tile) : (s.onTile t f).drovecfg = s.drovecfg := rfl
@[simp] theorem onTile_eths (s : State) (t : Nat) (f : Tile → Tile) : (s.onTile t f).eths = s.eths := rfl
@[simp] theorem onTile_queues (s : State) (t : Nat) (f : Tile → Tile) : (s.onTile t f).queues = s.queues := rfl
@[simp] theorem onTile_served (s : State) (t : Nat) (f : Tile → Tile) : (s.onTile t f).served = s.served := rfl
@[simp] theorem onTile_accepted (s : State) (t : Nat) (f : Tile → Tile) : (s.onTile t f).accepted = s.accepted := rfl
@[simp] theorem onTile_pwrcap (s : State) (t : Nat) (f : Tile → Tile) : (s.onTile t f).pwrcap = s.pwrcap := rfl
@[simp] theorem onTile_pwrst (s : State) (t : Nat) (f : Tile → Tile) : (s.onTile t f).pwrst = s.pwrst := rfl
@[simp] theorem onTile_bootst (s : State) (t : Nat) (f : Tile → Tile) : (s.onTile t f).bootst = s.bootst := rfl
@[simp] theorem onTile_safePin (s : State) (t : Nat) (f : Tile → Tile) : (s.onTile t f).safePin = s.safePin := rfl
@[simp] theorem onTile_thermtrip (s : State) (t : Nat) (f : Tile → Tile) : (s.onTile t f).thermtrip = s.thermtrip := rfl
@[simp] theorem onTile_railsOn (s : State) (t : Nat) (f : Tile → Tile) : (s.onTile t f).railsOn = s.railsOn := rfl
@[simp] theorem onTile_booted (s : State) (t : Nat) (f : Tile → Tile) : (s.onTile t f).booted = s.booted := rfl
@[simp] theorem onTile_flash (s : State) (t : Nat) (f : Tile → Tile) : (s.onTile t f).flash = s.flash := rfl
@[simp] theorem onTile_minsvn (s : State) (t : Nat) (f : Tile → Tile) : (s.onTile t f).minsvn = s.minsvn := rfl
@[simp] theorem onTile_records (s : State) (t : Nat) (f : Tile → Tile) : (s.onTile t f).records = s.records := rfl
@[simp] theorem onTile_flushed (s : State) (t : Nat) (f : Tile → Tile) : (s.onTile t f).flushed = s.flushed := rfl
@[simp] theorem onTile_recAcc (s : State) (t : Nat) (f : Tile → Tile) : (s.onTile t f).recAcc = s.recAcc := rfl
@[simp] theorem onTile_flushedAt (s : State) (t : Nat) (f : Tile → Tile) : (s.onTile t f).flushedAt = s.flushedAt := rfl
@[simp] theorem onTile_abrupt (s : State) (t : Nat) (f : Tile → Tile) : (s.onTile t f).abrupt = s.abrupt := rfl
@[simp] theorem onTile_trcClock (s : State) (t : Nat) (f : Tile → Tile) : (s.onTile t f).trcClock = s.trcClock := rfl
@[simp] theorem onTile_trcValid (s : State) (t : Nat) (f : Tile → Tile) : (s.onTile t f).trcValid = s.trcValid := rfl
@[simp] theorem onTile_trace (s : State) (t : Nat) (f : Tile → Tile) : (s.onTile t f).trace = s.trace := rfl
@[simp] theorem onTile_errRec (s : State) (t : Nat) (f : Tile → Tile) : (s.onTile t f).errRec = s.errRec := rfl
@[simp] theorem onTile_hostMem (s : State) (t : Nat) (f : Tile → Tile) : (s.onTile t f).hostMem = s.hostMem := rfl
@[simp] theorem onTile_msix (s : State) (t : Nat) (f : Tile → Tile) : (s.onTile t f).msix = s.msix := rfl
@[simp] theorem onTile_inputs (s : State) (t : Nat) (f : Tile → Tile) : (s.onTile t f).inputs = s.inputs := rfl
@[simp] theorem onTile_agenda (s : State) (t : Nat) (f : Tile → Tile) : (s.onTile t f).agenda = s.agenda := rfl
@[simp] theorem onTile_focus (s : State) (t : Nat) (f : Tile → Tile) : (s.onTile t f).focus = s.focus := rfl
@[simp] theorem onTile_free (s : State) (t : Nat) (f : Tile → Tile) : (s.onTile t f).free = s.free := rfl
@[simp] theorem onTile_reqNum (s : State) (t : Nat) (f : Tile → Tile) : (s.onTile t f).reqNum = s.reqNum := rfl
@[simp] theorem onTile_kvOpen (s : State) (t : Nat) (f : Tile → Tile) : (s.onTile t f).kvOpen = s.kvOpen := rfl
@[simp] theorem onTile_kvGot (s : State) (t : Nat) (f : Tile → Tile) : (s.onTile t f).kvGot = s.kvGot := rfl
@[simp] theorem onTile_kvWire (s : State) (t : Nat) (f : Tile → Tile) : (s.onTile t f).kvWire = s.kvWire := rfl
@[simp] theorem onTile_migrations (s : State) (t : Nat) (f : Tile → Tile) : (s.onTile t f).migrations = s.migrations := rfl
@[simp] theorem onTile_power (s : State) (t : Nat) (f : Tile → Tile) : (s.onTile t f).power = s.power := rfl
@[simp] theorem onTile_powerTime (s : State) (t : Nat) (f : Tile → Tile) : (s.onTile t f).powerTime = s.powerTime := rfl
@[simp] theorem onTile_flushedAcc (s : State) (t : Nat) (f : Tile → Tile) : (s.onTile t f).flushedAcc = s.flushedAcc := rfl
@[simp] theorem onTile_hostReads (s : State) (t : Nat) (f : Tile → Tile) : (s.onTile t f).hostReads = s.hostReads := rfl
@[simp] theorem onMe_dcc (s : State) (f : Tile → Tile) : (s.onMe f).dcc = s.dcc := rfl
@[simp] theorem onMe_ptc (s : State) (f : Tile → Tile) : (s.onMe f).ptc = s.ptc := rfl
@[simp] theorem onMe_ptcf (s : State) (f : Tile → Tile) : (s.onMe f).ptcf = s.ptcf := rfl
@[simp] theorem onMe_ptcr (s : State) (f : Tile → Tile) : (s.onMe f).ptcr = s.ptcr := rfl
@[simp] theorem onMe_servo (s : State) (f : Tile → Tile) : (s.onMe f).servo = s.servo := rfl
@[simp] theorem onMe_slewLeft (s : State) (f : Tile → Tile) : (s.onMe f).slewLeft = s.slewLeft := rfl
@[simp] theorem onMe_streak (s : State) (f : Tile → Tile) : (s.onMe f).streak = s.streak := rfl
@[simp] theorem onMe_everLocked (s : State) (f : Tile → Tile) : (s.onMe f).everLocked = s.everLocked := rfl
@[simp] theorem onMe_routers (s : State) (f : Tile → Tile) : (s.onMe f).routers = s.routers := rfl
@[simp] theorem onMe_mem0 (s : State) (f : Tile → Tile) : (s.onMe f).mem0 = s.mem0 := rfl
@[simp] theorem onMe_mem1 (s : State) (f : Tile → Tile) : (s.onMe f).mem1 = s.mem1 := rfl
@[simp] theorem onMe_mem2 (s : State) (f : Tile → Tile) : (s.onMe f).mem2 = s.mem2 := rfl
@[simp] theorem onMe_badMem (s : State) (f : Tile → Tile) : (s.onMe f).badMem = s.badMem := rfl
@[simp] theorem onMe_parts (s : State) (f : Tile → Tile) : (s.onMe f).parts = s.parts := rfl
@[simp] theorem onMe_units (s : State) (f : Tile → Tile) : (s.onMe f).units = s.units := rfl
@[simp] theorem onMe_saves (s : State) (f : Tile → Tile) : (s.onMe f).saves = s.saves := rfl
@[simp] theorem onMe_incoming (s : State) (f : Tile → Tile) : (s.onMe f).incoming = s.incoming := rfl
@[simp] theorem onMe_homes (s : State) (f : Tile → Tile) : (s.onMe f).homes = s.homes := rfl
@[simp] theorem onMe_hsets (s : State) (f : Tile → Tile) : (s.onMe f).hsets = s.hsets := rfl
@[simp] theorem onMe_tlbs (s : State) (f : Tile → Tile) : (s.onMe f).tlbs = s.tlbs := rfl
@[simp] theorem onMe_ccaches (s : State) (f : Tile → Tile) : (s.onMe f).ccaches = s.ccaches := rfl
@[simp] theorem onMe_walks (s : State) (f : Tile → Tile) : (s.onMe f).walks = s.walks := rfl
@[simp] theorem onMe_failed (s : State) (f : Tile → Tile) : (s.onMe f).failed = s.failed := rfl
@[simp] theorem onMe_stallK (s : State) (f : Tile → Tile) : (s.onMe f).stallK = s.stallK := rfl
@[simp] theorem onMe_wheels (s : State) (f : Tile → Tile) : (s.onMe f).wheels = s.wheels := rfl
@[simp] theorem onMe_ports (s : State) (f : Tile → Tile) : (s.onMe f).ports = s.ports := rfl
@[simp] theorem onMe_podcfg (s : State) (f : Tile → Tile) : (s.onMe f).podcfg = s.podcfg := rfl
@[simp] theorem onMe_syncst (s : State) (f : Tile → Tile) : (s.onMe f).syncst = s.syncst := rfl
@[simp] theorem onMe_drovecfg (s : State) (f : Tile → Tile) : (s.onMe f).drovecfg = s.drovecfg := rfl
@[simp] theorem onMe_eths (s : State) (f : Tile → Tile) : (s.onMe f).eths = s.eths := rfl
@[simp] theorem onMe_queues (s : State) (f : Tile → Tile) : (s.onMe f).queues = s.queues := rfl
@[simp] theorem onMe_served (s : State) (f : Tile → Tile) : (s.onMe f).served = s.served := rfl
@[simp] theorem onMe_accepted (s : State) (f : Tile → Tile) : (s.onMe f).accepted = s.accepted := rfl
@[simp] theorem onMe_pwrcap (s : State) (f : Tile → Tile) : (s.onMe f).pwrcap = s.pwrcap := rfl
@[simp] theorem onMe_pwrst (s : State) (f : Tile → Tile) : (s.onMe f).pwrst = s.pwrst := rfl
@[simp] theorem onMe_bootst (s : State) (f : Tile → Tile) : (s.onMe f).bootst = s.bootst := rfl
@[simp] theorem onMe_safePin (s : State) (f : Tile → Tile) : (s.onMe f).safePin = s.safePin := rfl
@[simp] theorem onMe_thermtrip (s : State) (f : Tile → Tile) : (s.onMe f).thermtrip = s.thermtrip := rfl
@[simp] theorem onMe_railsOn (s : State) (f : Tile → Tile) : (s.onMe f).railsOn = s.railsOn := rfl
@[simp] theorem onMe_booted (s : State) (f : Tile → Tile) : (s.onMe f).booted = s.booted := rfl
@[simp] theorem onMe_flash (s : State) (f : Tile → Tile) : (s.onMe f).flash = s.flash := rfl
@[simp] theorem onMe_minsvn (s : State) (f : Tile → Tile) : (s.onMe f).minsvn = s.minsvn := rfl
@[simp] theorem onMe_records (s : State) (f : Tile → Tile) : (s.onMe f).records = s.records := rfl
@[simp] theorem onMe_flushed (s : State) (f : Tile → Tile) : (s.onMe f).flushed = s.flushed := rfl
@[simp] theorem onMe_recAcc (s : State) (f : Tile → Tile) : (s.onMe f).recAcc = s.recAcc := rfl
@[simp] theorem onMe_flushedAt (s : State) (f : Tile → Tile) : (s.onMe f).flushedAt = s.flushedAt := rfl
@[simp] theorem onMe_abrupt (s : State) (f : Tile → Tile) : (s.onMe f).abrupt = s.abrupt := rfl
@[simp] theorem onMe_trcClock (s : State) (f : Tile → Tile) : (s.onMe f).trcClock = s.trcClock := rfl
@[simp] theorem onMe_trcValid (s : State) (f : Tile → Tile) : (s.onMe f).trcValid = s.trcValid := rfl
@[simp] theorem onMe_trace (s : State) (f : Tile → Tile) : (s.onMe f).trace = s.trace := rfl
@[simp] theorem onMe_errRec (s : State) (f : Tile → Tile) : (s.onMe f).errRec = s.errRec := rfl
@[simp] theorem onMe_hostMem (s : State) (f : Tile → Tile) : (s.onMe f).hostMem = s.hostMem := rfl
@[simp] theorem onMe_msix (s : State) (f : Tile → Tile) : (s.onMe f).msix = s.msix := rfl
@[simp] theorem onMe_inputs (s : State) (f : Tile → Tile) : (s.onMe f).inputs = s.inputs := rfl
@[simp] theorem onMe_agenda (s : State) (f : Tile → Tile) : (s.onMe f).agenda = s.agenda := rfl
@[simp] theorem onMe_focus (s : State) (f : Tile → Tile) : (s.onMe f).focus = s.focus := rfl
@[simp] theorem onMe_free (s : State) (f : Tile → Tile) : (s.onMe f).free = s.free := rfl
@[simp] theorem onMe_reqNum (s : State) (f : Tile → Tile) : (s.onMe f).reqNum = s.reqNum := rfl
@[simp] theorem onMe_kvOpen (s : State) (f : Tile → Tile) : (s.onMe f).kvOpen = s.kvOpen := rfl
@[simp] theorem onMe_kvGot (s : State) (f : Tile → Tile) : (s.onMe f).kvGot = s.kvGot := rfl
@[simp] theorem onMe_kvWire (s : State) (f : Tile → Tile) : (s.onMe f).kvWire = s.kvWire := rfl
@[simp] theorem onMe_migrations (s : State) (f : Tile → Tile) : (s.onMe f).migrations = s.migrations := rfl
@[simp] theorem onMe_power (s : State) (f : Tile → Tile) : (s.onMe f).power = s.power := rfl
@[simp] theorem onMe_powerTime (s : State) (f : Tile → Tile) : (s.onMe f).powerTime = s.powerTime := rfl
@[simp] theorem onMe_flushedAcc (s : State) (f : Tile → Tile) : (s.onMe f).flushedAcc = s.flushedAcc := rfl
@[simp] theorem onMe_hostReads (s : State) (f : Tile → Tile) : (s.onMe f).hostReads = s.hostReads := rfl
@[simp] theorem setRouter_dcc (s : State) (r : Nat) (x : Router) : (s.setRouter r x).dcc = s.dcc := rfl
@[simp] theorem setRouter_ptc (s : State) (r : Nat) (x : Router) : (s.setRouter r x).ptc = s.ptc := rfl
@[simp] theorem setRouter_ptcf (s : State) (r : Nat) (x : Router) : (s.setRouter r x).ptcf = s.ptcf := rfl
@[simp] theorem setRouter_ptcr (s : State) (r : Nat) (x : Router) : (s.setRouter r x).ptcr = s.ptcr := rfl
@[simp] theorem setRouter_servo (s : State) (r : Nat) (x : Router) : (s.setRouter r x).servo = s.servo := rfl
@[simp] theorem setRouter_slewLeft (s : State) (r : Nat) (x : Router) : (s.setRouter r x).slewLeft = s.slewLeft := rfl
@[simp] theorem setRouter_streak (s : State) (r : Nat) (x : Router) : (s.setRouter r x).streak = s.streak := rfl
@[simp] theorem setRouter_everLocked (s : State) (r : Nat) (x : Router) : (s.setRouter r x).everLocked = s.everLocked := rfl
@[simp] theorem setRouter_tiles (s : State) (r : Nat) (x : Router) : (s.setRouter r x).tiles = s.tiles := rfl
@[simp] theorem setRouter_mem0 (s : State) (r : Nat) (x : Router) : (s.setRouter r x).mem0 = s.mem0 := rfl
@[simp] theorem setRouter_mem1 (s : State) (r : Nat) (x : Router) : (s.setRouter r x).mem1 = s.mem1 := rfl
@[simp] theorem setRouter_mem2 (s : State) (r : Nat) (x : Router) : (s.setRouter r x).mem2 = s.mem2 := rfl
@[simp] theorem setRouter_badMem (s : State) (r : Nat) (x : Router) : (s.setRouter r x).badMem = s.badMem := rfl
@[simp] theorem setRouter_parts (s : State) (r : Nat) (x : Router) : (s.setRouter r x).parts = s.parts := rfl
@[simp] theorem setRouter_units (s : State) (r : Nat) (x : Router) : (s.setRouter r x).units = s.units := rfl
@[simp] theorem setRouter_saves (s : State) (r : Nat) (x : Router) : (s.setRouter r x).saves = s.saves := rfl
@[simp] theorem setRouter_incoming (s : State) (r : Nat) (x : Router) : (s.setRouter r x).incoming = s.incoming := rfl
@[simp] theorem setRouter_homes (s : State) (r : Nat) (x : Router) : (s.setRouter r x).homes = s.homes := rfl
@[simp] theorem setRouter_hsets (s : State) (r : Nat) (x : Router) : (s.setRouter r x).hsets = s.hsets := rfl
@[simp] theorem setRouter_tlbs (s : State) (r : Nat) (x : Router) : (s.setRouter r x).tlbs = s.tlbs := rfl
@[simp] theorem setRouter_ccaches (s : State) (r : Nat) (x : Router) : (s.setRouter r x).ccaches = s.ccaches := rfl
@[simp] theorem setRouter_walks (s : State) (r : Nat) (x : Router) : (s.setRouter r x).walks = s.walks := rfl
@[simp] theorem setRouter_failed (s : State) (r : Nat) (x : Router) : (s.setRouter r x).failed = s.failed := rfl
@[simp] theorem setRouter_stallK (s : State) (r : Nat) (x : Router) : (s.setRouter r x).stallK = s.stallK := rfl
@[simp] theorem setRouter_wheels (s : State) (r : Nat) (x : Router) : (s.setRouter r x).wheels = s.wheels := rfl
@[simp] theorem setRouter_ports (s : State) (r : Nat) (x : Router) : (s.setRouter r x).ports = s.ports := rfl
@[simp] theorem setRouter_podcfg (s : State) (r : Nat) (x : Router) : (s.setRouter r x).podcfg = s.podcfg := rfl
@[simp] theorem setRouter_syncst (s : State) (r : Nat) (x : Router) : (s.setRouter r x).syncst = s.syncst := rfl
@[simp] theorem setRouter_drovecfg (s : State) (r : Nat) (x : Router) : (s.setRouter r x).drovecfg = s.drovecfg := rfl
@[simp] theorem setRouter_eths (s : State) (r : Nat) (x : Router) : (s.setRouter r x).eths = s.eths := rfl
@[simp] theorem setRouter_queues (s : State) (r : Nat) (x : Router) : (s.setRouter r x).queues = s.queues := rfl
@[simp] theorem setRouter_served (s : State) (r : Nat) (x : Router) : (s.setRouter r x).served = s.served := rfl
@[simp] theorem setRouter_accepted (s : State) (r : Nat) (x : Router) : (s.setRouter r x).accepted = s.accepted := rfl
@[simp] theorem setRouter_pwrcap (s : State) (r : Nat) (x : Router) : (s.setRouter r x).pwrcap = s.pwrcap := rfl
@[simp] theorem setRouter_pwrst (s : State) (r : Nat) (x : Router) : (s.setRouter r x).pwrst = s.pwrst := rfl
@[simp] theorem setRouter_bootst (s : State) (r : Nat) (x : Router) : (s.setRouter r x).bootst = s.bootst := rfl
@[simp] theorem setRouter_safePin (s : State) (r : Nat) (x : Router) : (s.setRouter r x).safePin = s.safePin := rfl
@[simp] theorem setRouter_thermtrip (s : State) (r : Nat) (x : Router) : (s.setRouter r x).thermtrip = s.thermtrip := rfl
@[simp] theorem setRouter_railsOn (s : State) (r : Nat) (x : Router) : (s.setRouter r x).railsOn = s.railsOn := rfl
@[simp] theorem setRouter_booted (s : State) (r : Nat) (x : Router) : (s.setRouter r x).booted = s.booted := rfl
@[simp] theorem setRouter_flash (s : State) (r : Nat) (x : Router) : (s.setRouter r x).flash = s.flash := rfl
@[simp] theorem setRouter_minsvn (s : State) (r : Nat) (x : Router) : (s.setRouter r x).minsvn = s.minsvn := rfl
@[simp] theorem setRouter_records (s : State) (r : Nat) (x : Router) : (s.setRouter r x).records = s.records := rfl
@[simp] theorem setRouter_flushed (s : State) (r : Nat) (x : Router) : (s.setRouter r x).flushed = s.flushed := rfl
@[simp] theorem setRouter_recAcc (s : State) (r : Nat) (x : Router) : (s.setRouter r x).recAcc = s.recAcc := rfl
@[simp] theorem setRouter_flushedAt (s : State) (r : Nat) (x : Router) : (s.setRouter r x).flushedAt = s.flushedAt := rfl
@[simp] theorem setRouter_abrupt (s : State) (r : Nat) (x : Router) : (s.setRouter r x).abrupt = s.abrupt := rfl
@[simp] theorem setRouter_trcClock (s : State) (r : Nat) (x : Router) : (s.setRouter r x).trcClock = s.trcClock := rfl
@[simp] theorem setRouter_trcValid (s : State) (r : Nat) (x : Router) : (s.setRouter r x).trcValid = s.trcValid := rfl
@[simp] theorem setRouter_trace (s : State) (r : Nat) (x : Router) : (s.setRouter r x).trace = s.trace := rfl
@[simp] theorem setRouter_errRec (s : State) (r : Nat) (x : Router) : (s.setRouter r x).errRec = s.errRec := rfl
@[simp] theorem setRouter_hostMem (s : State) (r : Nat) (x : Router) : (s.setRouter r x).hostMem = s.hostMem := rfl
@[simp] theorem setRouter_msix (s : State) (r : Nat) (x : Router) : (s.setRouter r x).msix = s.msix := rfl
@[simp] theorem setRouter_inputs (s : State) (r : Nat) (x : Router) : (s.setRouter r x).inputs = s.inputs := rfl
@[simp] theorem setRouter_agenda (s : State) (r : Nat) (x : Router) : (s.setRouter r x).agenda = s.agenda := rfl
@[simp] theorem setRouter_focus (s : State) (r : Nat) (x : Router) : (s.setRouter r x).focus = s.focus := rfl
@[simp] theorem setRouter_free (s : State) (r : Nat) (x : Router) : (s.setRouter r x).free = s.free := rfl
@[simp] theorem setRouter_reqNum (s : State) (r : Nat) (x : Router) : (s.setRouter r x).reqNum = s.reqNum := rfl
@[simp] theorem setRouter_kvOpen (s : State) (r : Nat) (x : Router) : (s.setRouter r x).kvOpen = s.kvOpen := rfl
@[simp] theorem setRouter_kvGot (s : State) (r : Nat) (x : Router) : (s.setRouter r x).kvGot = s.kvGot := rfl
@[simp] theorem setRouter_kvWire (s : State) (r : Nat) (x : Router) : (s.setRouter r x).kvWire = s.kvWire := rfl
@[simp] theorem setRouter_migrations (s : State) (r : Nat) (x : Router) : (s.setRouter r x).migrations = s.migrations := rfl
@[simp] theorem setRouter_power (s : State) (r : Nat) (x : Router) : (s.setRouter r x).power = s.power := rfl
@[simp] theorem setRouter_powerTime (s : State) (r : Nat) (x : Router) : (s.setRouter r x).powerTime = s.powerTime := rfl
@[simp] theorem setRouter_flushedAcc (s : State) (r : Nat) (x : Router) : (s.setRouter r x).flushedAcc = s.flushedAcc := rfl
@[simp] theorem setRouter_hostReads (s : State) (r : Nat) (x : Router) : (s.setRouter r x).hostReads = s.hostReads := rfl
@[simp] theorem onRouter_dcc (s : State) (r : Nat) (f : Router → Router) : (s.onRouter r f).dcc = s.dcc := rfl
@[simp] theorem onRouter_ptc (s : State) (r : Nat) (f : Router → Router) : (s.onRouter r f).ptc = s.ptc := rfl
@[simp] theorem onRouter_ptcf (s : State) (r : Nat) (f : Router → Router) : (s.onRouter r f).ptcf = s.ptcf := rfl
@[simp] theorem onRouter_ptcr (s : State) (r : Nat) (f : Router → Router) : (s.onRouter r f).ptcr = s.ptcr := rfl
@[simp] theorem onRouter_servo (s : State) (r : Nat) (f : Router → Router) : (s.onRouter r f).servo = s.servo := rfl
@[simp] theorem onRouter_slewLeft (s : State) (r : Nat) (f : Router → Router) : (s.onRouter r f).slewLeft = s.slewLeft := rfl
@[simp] theorem onRouter_streak (s : State) (r : Nat) (f : Router → Router) : (s.onRouter r f).streak = s.streak := rfl
@[simp] theorem onRouter_everLocked (s : State) (r : Nat) (f : Router → Router) : (s.onRouter r f).everLocked = s.everLocked := rfl
@[simp] theorem onRouter_tiles (s : State) (r : Nat) (f : Router → Router) : (s.onRouter r f).tiles = s.tiles := rfl
@[simp] theorem onRouter_mem0 (s : State) (r : Nat) (f : Router → Router) : (s.onRouter r f).mem0 = s.mem0 := rfl
@[simp] theorem onRouter_mem1 (s : State) (r : Nat) (f : Router → Router) : (s.onRouter r f).mem1 = s.mem1 := rfl
@[simp] theorem onRouter_mem2 (s : State) (r : Nat) (f : Router → Router) : (s.onRouter r f).mem2 = s.mem2 := rfl
@[simp] theorem onRouter_badMem (s : State) (r : Nat) (f : Router → Router) : (s.onRouter r f).badMem = s.badMem := rfl
@[simp] theorem onRouter_parts (s : State) (r : Nat) (f : Router → Router) : (s.onRouter r f).parts = s.parts := rfl
@[simp] theorem onRouter_units (s : State) (r : Nat) (f : Router → Router) : (s.onRouter r f).units = s.units := rfl
@[simp] theorem onRouter_saves (s : State) (r : Nat) (f : Router → Router) : (s.onRouter r f).saves = s.saves := rfl
@[simp] theorem onRouter_incoming (s : State) (r : Nat) (f : Router → Router) : (s.onRouter r f).incoming = s.incoming := rfl
@[simp] theorem onRouter_homes (s : State) (r : Nat) (f : Router → Router) : (s.onRouter r f).homes = s.homes := rfl
@[simp] theorem onRouter_hsets (s : State) (r : Nat) (f : Router → Router) : (s.onRouter r f).hsets = s.hsets := rfl
@[simp] theorem onRouter_tlbs (s : State) (r : Nat) (f : Router → Router) : (s.onRouter r f).tlbs = s.tlbs := rfl
@[simp] theorem onRouter_ccaches (s : State) (r : Nat) (f : Router → Router) : (s.onRouter r f).ccaches = s.ccaches := rfl
@[simp] theorem onRouter_walks (s : State) (r : Nat) (f : Router → Router) : (s.onRouter r f).walks = s.walks := rfl
@[simp] theorem onRouter_failed (s : State) (r : Nat) (f : Router → Router) : (s.onRouter r f).failed = s.failed := rfl
@[simp] theorem onRouter_stallK (s : State) (r : Nat) (f : Router → Router) : (s.onRouter r f).stallK = s.stallK := rfl
@[simp] theorem onRouter_wheels (s : State) (r : Nat) (f : Router → Router) : (s.onRouter r f).wheels = s.wheels := rfl
@[simp] theorem onRouter_ports (s : State) (r : Nat) (f : Router → Router) : (s.onRouter r f).ports = s.ports := rfl
@[simp] theorem onRouter_podcfg (s : State) (r : Nat) (f : Router → Router) : (s.onRouter r f).podcfg = s.podcfg := rfl
@[simp] theorem onRouter_syncst (s : State) (r : Nat) (f : Router → Router) : (s.onRouter r f).syncst = s.syncst := rfl
@[simp] theorem onRouter_drovecfg (s : State) (r : Nat) (f : Router → Router) : (s.onRouter r f).drovecfg = s.drovecfg := rfl
@[simp] theorem onRouter_eths (s : State) (r : Nat) (f : Router → Router) : (s.onRouter r f).eths = s.eths := rfl
@[simp] theorem onRouter_queues (s : State) (r : Nat) (f : Router → Router) : (s.onRouter r f).queues = s.queues := rfl
@[simp] theorem onRouter_served (s : State) (r : Nat) (f : Router → Router) : (s.onRouter r f).served = s.served := rfl
@[simp] theorem onRouter_accepted (s : State) (r : Nat) (f : Router → Router) : (s.onRouter r f).accepted = s.accepted := rfl
@[simp] theorem onRouter_pwrcap (s : State) (r : Nat) (f : Router → Router) : (s.onRouter r f).pwrcap = s.pwrcap := rfl
@[simp] theorem onRouter_pwrst (s : State) (r : Nat) (f : Router → Router) : (s.onRouter r f).pwrst = s.pwrst := rfl
@[simp] theorem onRouter_bootst (s : State) (r : Nat) (f : Router → Router) : (s.onRouter r f).bootst = s.bootst := rfl
@[simp] theorem onRouter_safePin (s : State) (r : Nat) (f : Router → Router) : (s.onRouter r f).safePin = s.safePin := rfl
@[simp] theorem onRouter_thermtrip (s : State) (r : Nat) (f : Router → Router) : (s.onRouter r f).thermtrip = s.thermtrip := rfl
@[simp] theorem onRouter_railsOn (s : State) (r : Nat) (f : Router → Router) : (s.onRouter r f).railsOn = s.railsOn := rfl
@[simp] theorem onRouter_booted (s : State) (r : Nat) (f : Router → Router) : (s.onRouter r f).booted = s.booted := rfl
@[simp] theorem onRouter_flash (s : State) (r : Nat) (f : Router → Router) : (s.onRouter r f).flash = s.flash := rfl
@[simp] theorem onRouter_minsvn (s : State) (r : Nat) (f : Router → Router) : (s.onRouter r f).minsvn = s.minsvn := rfl
@[simp] theorem onRouter_records (s : State) (r : Nat) (f : Router → Router) : (s.onRouter r f).records = s.records := rfl
@[simp] theorem onRouter_flushed (s : State) (r : Nat) (f : Router → Router) : (s.onRouter r f).flushed = s.flushed := rfl
@[simp] theorem onRouter_recAcc (s : State) (r : Nat) (f : Router → Router) : (s.onRouter r f).recAcc = s.recAcc := rfl
@[simp] theorem onRouter_flushedAt (s : State) (r : Nat) (f : Router → Router) : (s.onRouter r f).flushedAt = s.flushedAt := rfl
@[simp] theorem onRouter_abrupt (s : State) (r : Nat) (f : Router → Router) : (s.onRouter r f).abrupt = s.abrupt := rfl
@[simp] theorem onRouter_trcClock (s : State) (r : Nat) (f : Router → Router) : (s.onRouter r f).trcClock = s.trcClock := rfl
@[simp] theorem onRouter_trcValid (s : State) (r : Nat) (f : Router → Router) : (s.onRouter r f).trcValid = s.trcValid := rfl
@[simp] theorem onRouter_trace (s : State) (r : Nat) (f : Router → Router) : (s.onRouter r f).trace = s.trace := rfl
@[simp] theorem onRouter_errRec (s : State) (r : Nat) (f : Router → Router) : (s.onRouter r f).errRec = s.errRec := rfl
@[simp] theorem onRouter_hostMem (s : State) (r : Nat) (f : Router → Router) : (s.onRouter r f).hostMem = s.hostMem := rfl
@[simp] theorem onRouter_msix (s : State) (r : Nat) (f : Router → Router) : (s.onRouter r f).msix = s.msix := rfl
@[simp] theorem onRouter_inputs (s : State) (r : Nat) (f : Router → Router) : (s.onRouter r f).inputs = s.inputs := rfl
@[simp] theorem onRouter_agenda (s : State) (r : Nat) (f : Router → Router) : (s.onRouter r f).agenda = s.agenda := rfl
@[simp] theorem onRouter_focus (s : State) (r : Nat) (f : Router → Router) : (s.onRouter r f).focus = s.focus := rfl
@[simp] theorem onRouter_free (s : State) (r : Nat) (f : Router → Router) : (s.onRouter r f).free = s.free := rfl
@[simp] theorem onRouter_reqNum (s : State) (r : Nat) (f : Router → Router) : (s.onRouter r f).reqNum = s.reqNum := rfl
@[simp] theorem onRouter_kvOpen (s : State) (r : Nat) (f : Router → Router) : (s.onRouter r f).kvOpen = s.kvOpen := rfl
@[simp] theorem onRouter_kvGot (s : State) (r : Nat) (f : Router → Router) : (s.onRouter r f).kvGot = s.kvGot := rfl
@[simp] theorem onRouter_kvWire (s : State) (r : Nat) (f : Router → Router) : (s.onRouter r f).kvWire = s.kvWire := rfl
@[simp] theorem onRouter_migrations (s : State) (r : Nat) (f : Router → Router) : (s.onRouter r f).migrations = s.migrations := rfl
@[simp] theorem onRouter_power (s : State) (r : Nat) (f : Router → Router) : (s.onRouter r f).power = s.power := rfl
@[simp] theorem onRouter_powerTime (s : State) (r : Nat) (f : Router → Router) : (s.onRouter r f).powerTime = s.powerTime := rfl
@[simp] theorem onRouter_flushedAcc (s : State) (r : Nat) (f : Router → Router) : (s.onRouter r f).flushedAcc = s.flushedAcc := rfl
@[simp] theorem onRouter_hostReads (s : State) (r : Nat) (f : Router → Router) : (s.onRouter r f).hostReads = s.hostReads := rfl
@[simp] theorem setPart_dcc (s : State) (p : Nat) (x : Partition) : (s.setPart p x).dcc = s.dcc := rfl
@[simp] theorem setPart_ptc (s : State) (p : Nat) (x : Partition) : (s.setPart p x).ptc = s.ptc := rfl
@[simp] theorem setPart_ptcf (s : State) (p : Nat) (x : Partition) : (s.setPart p x).ptcf = s.ptcf := rfl
@[simp] theorem setPart_ptcr (s : State) (p : Nat) (x : Partition) : (s.setPart p x).ptcr = s.ptcr := rfl
@[simp] theorem setPart_servo (s : State) (p : Nat) (x : Partition) : (s.setPart p x).servo = s.servo := rfl
@[simp] theorem setPart_slewLeft (s : State) (p : Nat) (x : Partition) : (s.setPart p x).slewLeft = s.slewLeft := rfl
@[simp] theorem setPart_streak (s : State) (p : Nat) (x : Partition) : (s.setPart p x).streak = s.streak := rfl
@[simp] theorem setPart_everLocked (s : State) (p : Nat) (x : Partition) : (s.setPart p x).everLocked = s.everLocked := rfl
@[simp] theorem setPart_tiles (s : State) (p : Nat) (x : Partition) : (s.setPart p x).tiles = s.tiles := rfl
@[simp] theorem setPart_routers (s : State) (p : Nat) (x : Partition) : (s.setPart p x).routers = s.routers := rfl
@[simp] theorem setPart_mem0 (s : State) (p : Nat) (x : Partition) : (s.setPart p x).mem0 = s.mem0 := rfl
@[simp] theorem setPart_mem1 (s : State) (p : Nat) (x : Partition) : (s.setPart p x).mem1 = s.mem1 := rfl
@[simp] theorem setPart_mem2 (s : State) (p : Nat) (x : Partition) : (s.setPart p x).mem2 = s.mem2 := rfl
@[simp] theorem setPart_badMem (s : State) (p : Nat) (x : Partition) : (s.setPart p x).badMem = s.badMem := rfl
@[simp] theorem setPart_units (s : State) (p : Nat) (x : Partition) : (s.setPart p x).units = s.units := rfl
@[simp] theorem setPart_saves (s : State) (p : Nat) (x : Partition) : (s.setPart p x).saves = s.saves := rfl
@[simp] theorem setPart_incoming (s : State) (p : Nat) (x : Partition) : (s.setPart p x).incoming = s.incoming := rfl
@[simp] theorem setPart_homes (s : State) (p : Nat) (x : Partition) : (s.setPart p x).homes = s.homes := rfl
@[simp] theorem setPart_hsets (s : State) (p : Nat) (x : Partition) : (s.setPart p x).hsets = s.hsets := rfl
@[simp] theorem setPart_tlbs (s : State) (p : Nat) (x : Partition) : (s.setPart p x).tlbs = s.tlbs := rfl
@[simp] theorem setPart_ccaches (s : State) (p : Nat) (x : Partition) : (s.setPart p x).ccaches = s.ccaches := rfl
@[simp] theorem setPart_walks (s : State) (p : Nat) (x : Partition) : (s.setPart p x).walks = s.walks := rfl
@[simp] theorem setPart_failed (s : State) (p : Nat) (x : Partition) : (s.setPart p x).failed = s.failed := rfl
@[simp] theorem setPart_stallK (s : State) (p : Nat) (x : Partition) : (s.setPart p x).stallK = s.stallK := rfl
@[simp] theorem setPart_wheels (s : State) (p : Nat) (x : Partition) : (s.setPart p x).wheels = s.wheels := rfl
@[simp] theorem setPart_ports (s : State) (p : Nat) (x : Partition) : (s.setPart p x).ports = s.ports := rfl
@[simp] theorem setPart_podcfg (s : State) (p : Nat) (x : Partition) : (s.setPart p x).podcfg = s.podcfg := rfl
@[simp] theorem setPart_syncst (s : State) (p : Nat) (x : Partition) : (s.setPart p x).syncst = s.syncst := rfl
@[simp] theorem setPart_drovecfg (s : State) (p : Nat) (x : Partition) : (s.setPart p x).drovecfg = s.drovecfg := rfl
@[simp] theorem setPart_eths (s : State) (p : Nat) (x : Partition) : (s.setPart p x).eths = s.eths := rfl
@[simp] theorem setPart_queues (s : State) (p : Nat) (x : Partition) : (s.setPart p x).queues = s.queues := rfl
@[simp] theorem setPart_served (s : State) (p : Nat) (x : Partition) : (s.setPart p x).served = s.served := rfl
@[simp] theorem setPart_accepted (s : State) (p : Nat) (x : Partition) : (s.setPart p x).accepted = s.accepted := rfl
@[simp] theorem setPart_pwrcap (s : State) (p : Nat) (x : Partition) : (s.setPart p x).pwrcap = s.pwrcap := rfl
@[simp] theorem setPart_pwrst (s : State) (p : Nat) (x : Partition) : (s.setPart p x).pwrst = s.pwrst := rfl
@[simp] theorem setPart_bootst (s : State) (p : Nat) (x : Partition) : (s.setPart p x).bootst = s.bootst := rfl
@[simp] theorem setPart_safePin (s : State) (p : Nat) (x : Partition) : (s.setPart p x).safePin = s.safePin := rfl
@[simp] theorem setPart_thermtrip (s : State) (p : Nat) (x : Partition) : (s.setPart p x).thermtrip = s.thermtrip := rfl
@[simp] theorem setPart_railsOn (s : State) (p : Nat) (x : Partition) : (s.setPart p x).railsOn = s.railsOn := rfl
@[simp] theorem setPart_booted (s : State) (p : Nat) (x : Partition) : (s.setPart p x).booted = s.booted := rfl
@[simp] theorem setPart_flash (s : State) (p : Nat) (x : Partition) : (s.setPart p x).flash = s.flash := rfl
@[simp] theorem setPart_minsvn (s : State) (p : Nat) (x : Partition) : (s.setPart p x).minsvn = s.minsvn := rfl
@[simp] theorem setPart_records (s : State) (p : Nat) (x : Partition) : (s.setPart p x).records = s.records := rfl
@[simp] theorem setPart_flushed (s : State) (p : Nat) (x : Partition) : (s.setPart p x).flushed = s.flushed := rfl
@[simp] theorem setPart_recAcc (s : State) (p : Nat) (x : Partition) : (s.setPart p x).recAcc = s.recAcc := rfl
@[simp] theorem setPart_flushedAt (s : State) (p : Nat) (x : Partition) : (s.setPart p x).flushedAt = s.flushedAt := rfl
@[simp] theorem setPart_abrupt (s : State) (p : Nat) (x : Partition) : (s.setPart p x).abrupt = s.abrupt := rfl
@[simp] theorem setPart_trcClock (s : State) (p : Nat) (x : Partition) : (s.setPart p x).trcClock = s.trcClock := rfl
@[simp] theorem setPart_trcValid (s : State) (p : Nat) (x : Partition) : (s.setPart p x).trcValid = s.trcValid := rfl
@[simp] theorem setPart_trace (s : State) (p : Nat) (x : Partition) : (s.setPart p x).trace = s.trace := rfl
@[simp] theorem setPart_errRec (s : State) (p : Nat) (x : Partition) : (s.setPart p x).errRec = s.errRec := rfl
@[simp] theorem setPart_hostMem (s : State) (p : Nat) (x : Partition) : (s.setPart p x).hostMem = s.hostMem := rfl
@[simp] theorem setPart_msix (s : State) (p : Nat) (x : Partition) : (s.setPart p x).msix = s.msix := rfl
@[simp] theorem setPart_inputs (s : State) (p : Nat) (x : Partition) : (s.setPart p x).inputs = s.inputs := rfl
@[simp] theorem setPart_agenda (s : State) (p : Nat) (x : Partition) : (s.setPart p x).agenda = s.agenda := rfl
@[simp] theorem setPart_focus (s : State) (p : Nat) (x : Partition) : (s.setPart p x).focus = s.focus := rfl
@[simp] theorem setPart_free (s : State) (p : Nat) (x : Partition) : (s.setPart p x).free = s.free := rfl
@[simp] theorem setPart_reqNum (s : State) (p : Nat) (x : Partition) : (s.setPart p x).reqNum = s.reqNum := rfl
@[simp] theorem setPart_kvOpen (s : State) (p : Nat) (x : Partition) : (s.setPart p x).kvOpen = s.kvOpen := rfl
@[simp] theorem setPart_kvGot (s : State) (p : Nat) (x : Partition) : (s.setPart p x).kvGot = s.kvGot := rfl
@[simp] theorem setPart_kvWire (s : State) (p : Nat) (x : Partition) : (s.setPart p x).kvWire = s.kvWire := rfl
@[simp] theorem setPart_migrations (s : State) (p : Nat) (x : Partition) : (s.setPart p x).migrations = s.migrations := rfl
@[simp] theorem setPart_power (s : State) (p : Nat) (x : Partition) : (s.setPart p x).power = s.power := rfl
@[simp] theorem setPart_powerTime (s : State) (p : Nat) (x : Partition) : (s.setPart p x).powerTime = s.powerTime := rfl
@[simp] theorem setPart_flushedAcc (s : State) (p : Nat) (x : Partition) : (s.setPart p x).flushedAcc = s.flushedAcc := rfl
@[simp] theorem setPart_hostReads (s : State) (p : Nat) (x : Partition) : (s.setPart p x).hostReads = s.hostReads := rfl
@[simp] theorem onPart_dcc (s : State) (p : Nat) (f : Partition → Partition) : (s.onPart p f).dcc = s.dcc := rfl
@[simp] theorem onPart_ptc (s : State) (p : Nat) (f : Partition → Partition) : (s.onPart p f).ptc = s.ptc := rfl
@[simp] theorem onPart_ptcf (s : State) (p : Nat) (f : Partition → Partition) : (s.onPart p f).ptcf = s.ptcf := rfl
@[simp] theorem onPart_ptcr (s : State) (p : Nat) (f : Partition → Partition) : (s.onPart p f).ptcr = s.ptcr := rfl
@[simp] theorem onPart_servo (s : State) (p : Nat) (f : Partition → Partition) : (s.onPart p f).servo = s.servo := rfl
@[simp] theorem onPart_slewLeft (s : State) (p : Nat) (f : Partition → Partition) : (s.onPart p f).slewLeft = s.slewLeft := rfl
@[simp] theorem onPart_streak (s : State) (p : Nat) (f : Partition → Partition) : (s.onPart p f).streak = s.streak := rfl
@[simp] theorem onPart_everLocked (s : State) (p : Nat) (f : Partition → Partition) : (s.onPart p f).everLocked = s.everLocked := rfl
@[simp] theorem onPart_tiles (s : State) (p : Nat) (f : Partition → Partition) : (s.onPart p f).tiles = s.tiles := rfl
@[simp] theorem onPart_routers (s : State) (p : Nat) (f : Partition → Partition) : (s.onPart p f).routers = s.routers := rfl
@[simp] theorem onPart_mem0 (s : State) (p : Nat) (f : Partition → Partition) : (s.onPart p f).mem0 = s.mem0 := rfl
@[simp] theorem onPart_mem1 (s : State) (p : Nat) (f : Partition → Partition) : (s.onPart p f).mem1 = s.mem1 := rfl
@[simp] theorem onPart_mem2 (s : State) (p : Nat) (f : Partition → Partition) : (s.onPart p f).mem2 = s.mem2 := rfl
@[simp] theorem onPart_badMem (s : State) (p : Nat) (f : Partition → Partition) : (s.onPart p f).badMem = s.badMem := rfl
@[simp] theorem onPart_units (s : State) (p : Nat) (f : Partition → Partition) : (s.onPart p f).units = s.units := rfl
@[simp] theorem onPart_saves (s : State) (p : Nat) (f : Partition → Partition) : (s.onPart p f).saves = s.saves := rfl
@[simp] theorem onPart_incoming (s : State) (p : Nat) (f : Partition → Partition) : (s.onPart p f).incoming = s.incoming := rfl
@[simp] theorem onPart_homes (s : State) (p : Nat) (f : Partition → Partition) : (s.onPart p f).homes = s.homes := rfl
@[simp] theorem onPart_hsets (s : State) (p : Nat) (f : Partition → Partition) : (s.onPart p f).hsets = s.hsets := rfl
@[simp] theorem onPart_tlbs (s : State) (p : Nat) (f : Partition → Partition) : (s.onPart p f).tlbs = s.tlbs := rfl
@[simp] theorem onPart_ccaches (s : State) (p : Nat) (f : Partition → Partition) : (s.onPart p f).ccaches = s.ccaches := rfl
@[simp] theorem onPart_walks (s : State) (p : Nat) (f : Partition → Partition) : (s.onPart p f).walks = s.walks := rfl
@[simp] theorem onPart_failed (s : State) (p : Nat) (f : Partition → Partition) : (s.onPart p f).failed = s.failed := rfl
@[simp] theorem onPart_stallK (s : State) (p : Nat) (f : Partition → Partition) : (s.onPart p f).stallK = s.stallK := rfl
@[simp] theorem onPart_wheels (s : State) (p : Nat) (f : Partition → Partition) : (s.onPart p f).wheels = s.wheels := rfl
@[simp] theorem onPart_ports (s : State) (p : Nat) (f : Partition → Partition) : (s.onPart p f).ports = s.ports := rfl
@[simp] theorem onPart_podcfg (s : State) (p : Nat) (f : Partition → Partition) : (s.onPart p f).podcfg = s.podcfg := rfl
@[simp] theorem onPart_syncst (s : State) (p : Nat) (f : Partition → Partition) : (s.onPart p f).syncst = s.syncst := rfl
@[simp] theorem onPart_drovecfg (s : State) (p : Nat) (f : Partition → Partition) : (s.onPart p f).drovecfg = s.drovecfg := rfl
@[simp] theorem onPart_eths (s : State) (p : Nat) (f : Partition → Partition) : (s.onPart p f).eths = s.eths := rfl
@[simp] theorem onPart_queues (s : State) (p : Nat) (f : Partition → Partition) : (s.onPart p f).queues = s.queues := rfl
@[simp] theorem onPart_served (s : State) (p : Nat) (f : Partition → Partition) : (s.onPart p f).served = s.served := rfl
@[simp] theorem onPart_accepted (s : State) (p : Nat) (f : Partition → Partition) : (s.onPart p f).accepted = s.accepted := rfl
@[simp] theorem onPart_pwrcap (s : State) (p : Nat) (f : Partition → Partition) : (s.onPart p f).pwrcap = s.pwrcap := rfl
@[simp] theorem onPart_pwrst (s : State) (p : Nat) (f : Partition → Partition) : (s.onPart p f).pwrst = s.pwrst := rfl
@[simp] theorem onPart_bootst (s : State) (p : Nat) (f : Partition → Partition) : (s.onPart p f).bootst = s.bootst := rfl
@[simp] theorem onPart_safePin (s : State) (p : Nat) (f : Partition → Partition) : (s.onPart p f).safePin = s.safePin := rfl
@[simp] theorem onPart_thermtrip (s : State) (p : Nat) (f : Partition → Partition) : (s.onPart p f).thermtrip = s.thermtrip := rfl
@[simp] theorem onPart_railsOn (s : State) (p : Nat) (f : Partition → Partition) : (s.onPart p f).railsOn = s.railsOn := rfl
@[simp] theorem onPart_booted (s : State) (p : Nat) (f : Partition → Partition) : (s.onPart p f).booted = s.booted := rfl
@[simp] theorem onPart_flash (s : State) (p : Nat) (f : Partition → Partition) : (s.onPart p f).flash = s.flash := rfl
@[simp] theorem onPart_minsvn (s : State) (p : Nat) (f : Partition → Partition) : (s.onPart p f).minsvn = s.minsvn := rfl
@[simp] theorem onPart_records (s : State) (p : Nat) (f : Partition → Partition) : (s.onPart p f).records = s.records := rfl
@[simp] theorem onPart_flushed (s : State) (p : Nat) (f : Partition → Partition) : (s.onPart p f).flushed = s.flushed := rfl
@[simp] theorem onPart_recAcc (s : State) (p : Nat) (f : Partition → Partition) : (s.onPart p f).recAcc = s.recAcc := rfl
@[simp] theorem onPart_flushedAt (s : State) (p : Nat) (f : Partition → Partition) : (s.onPart p f).flushedAt = s.flushedAt := rfl
@[simp] theorem onPart_abrupt (s : State) (p : Nat) (f : Partition → Partition) : (s.onPart p f).abrupt = s.abrupt := rfl
@[simp] theorem onPart_trcClock (s : State) (p : Nat) (f : Partition → Partition) : (s.onPart p f).trcClock = s.trcClock := rfl
@[simp] theorem onPart_trcValid (s : State) (p : Nat) (f : Partition → Partition) : (s.onPart p f).trcValid = s.trcValid := rfl
@[simp] theorem onPart_trace (s : State) (p : Nat) (f : Partition → Partition) : (s.onPart p f).trace = s.trace := rfl
@[simp] theorem onPart_errRec (s : State) (p : Nat) (f : Partition → Partition) : (s.onPart p f).errRec = s.errRec := rfl
@[simp] theorem onPart_hostMem (s : State) (p : Nat) (f : Partition → Partition) : (s.onPart p f).hostMem = s.hostMem := rfl
@[simp] theorem onPart_msix (s : State) (p : Nat) (f : Partition → Partition) : (s.onPart p f).msix = s.msix := rfl
@[simp] theorem onPart_inputs (s : State) (p : Nat) (f : Partition → Partition) : (s.onPart p f).inputs = s.inputs := rfl
@[simp] theorem onPart_agenda (s : State) (p : Nat) (f : Partition → Partition) : (s.onPart p f).agenda = s.agenda := rfl
@[simp] theorem onPart_focus (s : State) (p : Nat) (f : Partition → Partition) : (s.onPart p f).focus = s.focus := rfl
@[simp] theorem onPart_free (s : State) (p : Nat) (f : Partition → Partition) : (s.onPart p f).free = s.free := rfl
@[simp] theorem onPart_reqNum (s : State) (p : Nat) (f : Partition → Partition) : (s.onPart p f).reqNum = s.reqNum := rfl
@[simp] theorem onPart_kvOpen (s : State) (p : Nat) (f : Partition → Partition) : (s.onPart p f).kvOpen = s.kvOpen := rfl
@[simp] theorem onPart_kvGot (s : State) (p : Nat) (f : Partition → Partition) : (s.onPart p f).kvGot = s.kvGot := rfl
@[simp] theorem onPart_kvWire (s : State) (p : Nat) (f : Partition → Partition) : (s.onPart p f).kvWire = s.kvWire := rfl
@[simp] theorem onPart_migrations (s : State) (p : Nat) (f : Partition → Partition) : (s.onPart p f).migrations = s.migrations := rfl
@[simp] theorem onPart_power (s : State) (p : Nat) (f : Partition → Partition) : (s.onPart p f).power = s.power := rfl
@[simp] theorem onPart_powerTime (s : State) (p : Nat) (f : Partition → Partition) : (s.onPart p f).powerTime = s.powerTime := rfl
@[simp] theorem onPart_flushedAcc (s : State) (p : Nat) (f : Partition → Partition) : (s.onPart p f).flushedAcc = s.flushedAcc := rfl
@[simp] theorem onPart_hostReads (s : State) (p : Nat) (f : Partition → Partition) : (s.onPart p f).hostReads = s.hostReads := rfl

/-! ## Fields of a tile -/

@[simp] theorem fly_sc (t : Tile) (l : Nat) (g : Target) (fl : Flags) (u : Nat) : (t.fly l g fl u).sc = t.sc := rfl
@[simp] theorem fly_sv (t : Tile) (l : Nat) (g : Target) (fl : Flags) (u : Nat) : (t.fly l g fl u).sv = t.sv := rfl
@[simp] theorem fly_sd (t : Tile) (l : Nat) (g : Target) (fl : Flags) (u : Nat) : (t.fly l g fl u).sd = t.sd := rfl
@[simp] theorem fly_se (t : Tile) (l : Nat) (g : Target) (fl : Flags) (u : Nat) : (t.fly l g fl u).se = t.se := rfl
@[simp] theorem fly_s (t : Tile) (l : Nat) (g : Target) (fl : Flags) (u : Nat) : (t.fly l g fl u).s = t.s := rfl
@[simp] theorem fly_v (t : Tile) (l : Nat) (g : Target) (fl : Flags) (u : Nat) : (t.fly l g fl u).v = t.v := rfl
@[simp] theorem fly_k (t : Tile) (l : Nat) (g : Target) (fl : Flags) (u : Nat) : (t.fly l g fl u).k = t.k := rfl
@[simp] theorem fly_fs (t : Tile) (l : Nat) (g : Target) (fl : Flags) (u : Nat) : (t.fly l g fl u).fs = t.fs := rfl
@[simp] theorem fly_vq (t : Tile) (l : Nat) (g : Target) (fl : Flags) (u : Nat) : (t.fly l g fl u).vq = t.vq := rfl
@[simp] theorem fly_q12 (t : Tile) (l : Nat) (g : Target) (fl : Flags) (u : Nat) : (t.fly l g fl u).q12 = t.q12 := rfl
@[simp] theorem fly_q13 (t : Tile) (l : Nat) (g : Target) (fl : Flags) (u : Nat) : (t.fly l g fl u).q13 = t.q13 := rfl
@[simp] theorem fly_q14 (t : Tile) (l : Nat) (g : Target) (fl : Flags) (u : Nat) : (t.fly l g fl u).q14 = t.q14 := rfl
@[simp] theorem fly_q15 (t : Tile) (l : Nat) (g : Target) (fl : Flags) (u : Nat) : (t.fly l g fl u).q15 = t.q15 := rfl
@[simp] theorem fly_st (t : Tile) (l : Nat) (g : Target) (fl : Flags) (u : Nat) : (t.fly l g fl u).st = t.st := rfl
@[simp] theorem fly_streq (t : Tile) (l : Nat) (g : Target) (fl : Flags) (u : Nat) : (t.fly l g fl u).streq = t.streq := rfl
@[simp] theorem fly_rg (t : Tile) (l : Nat) (g : Target) (fl : Flags) (u : Nat) : (t.fly l g fl u).rg = t.rg := rfl
@[simp] theorem fly_acc (t : Tile) (l : Nat) (g : Target) (fl : Flags) (u : Nat) : (t.fly l g fl u).acc = t.acc := rfl
@[simp] theorem fly_accM (t : Tile) (l : Nat) (g : Target) (fl : Flags) (u : Nat) : (t.fly l g fl u).accM = t.accM := rfl
@[simp] theorem fly_accL (t : Tile) (l : Nat) (g : Target) (fl : Flags) (u : Nat) : (t.fly l g fl u).accL = t.accL := rfl
@[simp] theorem fly_accF (t : Tile) (l : Nat) (g : Target) (fl : Flags) (u : Nat) : (t.fly l g fl u).accF = t.accF := rfl
@[simp] theorem fly_bt (t : Tile) (l : Nat) (g : Target) (fl : Flags) (u : Nat) : (t.fly l g fl u).bt = t.bt := rfl
@[simp] theorem fly_lc (t : Tile) (l : Nat) (g : Target) (fl : Flags) (u : Nat) : (t.fly l g fl u).lc = t.lc := rfl
@[simp] theorem fly_fc (t : Tile) (l : Nat) (g : Target) (fl : Flags) (u : Nat) : (t.fly l g fl u).fc = t.fc := rfl
@[simp] theorem fly_hur (t : Tile) (l : Nat) (g : Target) (fl : Flags) (u : Nat) : (t.fly l g fl u).hur = t.hur := rfl
@[simp] theorem fly_mx (t : Tile) (l : Nat) (g : Target) (fl : Flags) (u : Nat) : (t.fly l g fl u).mx = t.mx := rfl
@[simp] theorem fly_qz (t : Tile) (l : Nat) (g : Target) (fl : Flags) (u : Nat) : (t.fly l g fl u).qz = t.qz := rfl
@[simp] theorem fly_cp (t : Tile) (l : Nat) (g : Target) (fl : Flags) (u : Nat) : (t.fly l g fl u).cp = t.cp := rfl
@[simp] theorem fly_fi (t : Tile) (l : Nat) (g : Target) (fl : Flags) (u : Nat) : (t.fly l g fl u).fi = t.fi := rfl
@[simp] theorem fly_empty (t : Tile) (l : Nat) (g : Target) (fl : Flags) (u : Nat) : (t.fly l g fl u).empty = t.empty := rfl
@[simp] theorem fly_hold (t : Tile) (l : Nat) (g : Target) (fl : Flags) (u : Nat) : (t.fly l g fl u).hold = t.hold := rfl
@[simp] theorem fly_flags (t : Tile) (l : Nat) (g : Target) (fl : Flags) (u : Nat) : (t.fly l g fl u).flags = t.flags := rfl
@[simp] theorem fly_modeRm (t : Tile) (l : Nat) (g : Target) (fl : Flags) (u : Nat) : (t.fly l g fl u).modeRm = t.modeRm := rfl
@[simp] theorem fly_modeSt (t : Tile) (l : Nat) (g : Target) (fl : Flags) (u : Nat) : (t.fly l g fl u).modeSt = t.modeSt := rfl
@[simp] theorem fly_modeDet (t : Tile) (l : Nat) (g : Target) (fl : Flags) (u : Nat) : (t.fly l g fl u).modeDet = t.modeDet := rfl
@[simp] theorem fly_srseed (t : Tile) (l : Nat) (g : Target) (fl : Flags) (u : Nat) : (t.fly l g fl u).srseed = t.srseed := rfl
@[simp] theorem fly_spoor (t : Tile) (l : Nat) (g : Target) (fl : Flags) (u : Nat) : (t.fly l g fl u).spoor = t.spoor := rfl
@[simp] theorem fly_slip (t : Tile) (l : Nat) (g : Target) (fl : Flags) (u : Nat) : (t.fly l g fl u).slip = t.slip := rfl
@[simp] theorem fly_vrb (t : Tile) (l : Nat) (g : Target) (fl : Flags) (u : Nat) : (t.fly l g fl u).vrb = t.vrb := rfl
@[simp] theorem fly_krb (t : Tile) (l : Nat) (g : Target) (fl : Flags) (u : Nat) : (t.fly l g fl u).krb = t.krb := rfl
@[simp] theorem fly_taskid (t : Tile) (l : Nat) (g : Target) (fl : Flags) (u : Nat) : (t.fly l g fl u).taskid = t.taskid := rfl
@[simp] theorem fly_launchid (t : Tile) (l : Nat) (g : Target) (fl : Flags) (u : Nat) : (t.fly l g fl u).launchid = t.launchid := rfl
@[simp] theorem fly_world (t : Tile) (l : Nat) (g : Target) (fl : Flags) (u : Nat) : (t.fly l g fl u).world = t.world := rfl
@[simp] theorem fly_span (t : Tile) (l : Nat) (g : Target) (fl : Flags) (u : Nat) : (t.fly l g fl u).span = t.span := rfl
@[simp] theorem fly_busyDiv (t : Tile) (l : Nat) (g : Target) (fl : Flags) (u : Nat) : (t.fly l g fl u).busyDiv = t.busyDiv := rfl
@[simp] theorem fly_busyFe (t : Tile) (l : Nat) (g : Target) (fl : Flags) (u : Nat) : (t.fly l g fl u).busyFe = t.busyFe := rfl
@[simp] theorem fly_busyFt (t : Tile) (l : Nat) (g : Target) (fl : Flags) (u : Nat) : (t.fly l g fl u).busyFt = t.busyFt := rfl
@[simp] theorem fly_busyXl (t : Tile) (l : Nat) (g : Target) (fl : Flags) (u : Nat) : (t.fly l g fl u).busyXl = t.busyXl := rfl
@[simp] theorem fly_busyPk (t : Tile) (l : Nat) (g : Target) (fl : Flags) (u : Nat) : (t.fly l g fl u).busyPk = t.busyPk := rfl
@[simp] theorem fly_busyAc (t : Tile) (l : Nat) (g : Target) (fl : Flags) (u : Nat) : (t.fly l g fl u).busyAc = t.busyAc := rfl
@[simp] theorem fly_dacc (t : Tile) (l : Nat) (g : Target) (fl : Flags) (u : Nat) : (t.fly l g fl u).dacc = t.dacc := rfl
@[simp] theorem fly_dseq (t : Tile) (l : Nat) (g : Target) (fl : Flags) (u : Nat) : (t.fly l g fl u).dseq = t.dseq := rfl
@[simp] theorem fly_depoch (t : Tile) (l : Nat) (g : Target) (fl : Flags) (u : Nat) : (t.fly l g fl u).depoch = t.depoch := rfl
@[simp] theorem fly_spoorNow (t : Tile) (l : Nat) (g : Target) (fl : Flags) (u : Nat) : (t.fly l g fl u).spoorNow = t.spoorNow := rfl
@[simp] theorem fly_reqs (t : Tile) (l : Nat) (g : Target) (fl : Flags) (u : Nat) : (t.fly l g fl u).reqs = t.reqs := rfl
@[simp] theorem fly_sseq (t : Tile) (l : Nat) (g : Target) (fl : Flags) (u : Nat) : (t.fly l g fl u).sseq = t.sseq := rfl
@[simp] theorem fly_sp (t : Tile) (l : Nat) (g : Target) (fl : Flags) (u : Nat) : (t.fly l g fl u).sp = t.sp := rfl
@[simp] theorem fly_bad (t : Tile) (l : Nat) (g : Target) (fl : Flags) (u : Nat) : (t.fly l g fl u).bad = t.bad := rfl
@[simp] theorem fly_shadow (t : Tile) (l : Nat) (g : Target) (fl : Flags) (u : Nat) : (t.fly l g fl u).shadow = t.shadow := rfl
@[simp] theorem fly_shadowStore (t : Tile) (l : Nat) (g : Target) (fl : Flags) (u : Nat) : (t.fly l g fl u).shadowStore = t.shadowStore := rfl
@[simp] theorem fly_shadowImage (t : Tile) (l : Nat) (g : Target) (fl : Flags) (u : Nat) : (t.fly l g fl u).shadowImage = t.shadowImage := rfl
@[simp] theorem fly_res (t : Tile) (l : Nat) (g : Target) (fl : Flags) (u : Nat) : (t.fly l g fl u).res = t.res := rfl
@[simp] theorem fly_live (t : Tile) (l : Nat) (g : Target) (fl : Flags) (u : Nat) : (t.fly l g fl u).live = t.live := rfl
@[simp] theorem fly_used (t : Tile) (l : Nat) (g : Target) (fl : Flags) (u : Nat) : (t.fly l g fl u).used = t.used := rfl
@[simp] theorem fly_resident (t : Tile) (l : Nat) (g : Target) (fl : Flags) (u : Nat) : (t.fly l g fl u).resident = t.resident := rfl
@[simp] theorem fly_preq (t : Tile) (l : Nat) (g : Target) (fl : Flags) (u : Nat) : (t.fly l g fl u).preq = t.preq := rfl
@[simp] theorem fly_drain (t : Tile) (l : Nat) (g : Target) (fl : Flags) (u : Nat) : (t.fly l g fl u).drain = t.drain := rfl
@[simp] theorem fly_preload (t : Tile) (l : Nat) (g : Target) (fl : Flags) (u : Nat) : (t.fly l g fl u).preload = t.preload := rfl
@[simp] theorem fly_halted (t : Tile) (l : Nat) (g : Target) (fl : Flags) (u : Nat) : (t.fly l g fl u).halted = t.halted := rfl
@[simp] theorem fly_frozen (t : Tile) (l : Nat) (g : Target) (fl : Flags) (u : Nat) : (t.fly l g fl u).frozen = t.frozen := rfl
@[simp] theorem fly_cancelled (t : Tile) (l : Nat) (g : Target) (fl : Flags) (u : Nat) : (t.fly l g fl u).cancelled = t.cancelled := rfl
@[simp] theorem fly_stopDcc (t : Tile) (l : Nat) (g : Target) (fl : Flags) (u : Nat) : (t.fly l g fl u).stopDcc = t.stopDcc := rfl
@[simp] theorem fly_stops (t : Tile) (l : Nat) (g : Target) (fl : Flags) (u : Nat) : (t.fly l g fl u).stops = t.stops := rfl
@[simp] theorem fly_unseen (t : Tile) (l : Nat) (g : Target) (fl : Flags) (u : Nat) : (t.fly l g fl u).unseen = t.unseen := rfl
@[simp] theorem fly_observed (t : Tile) (l : Nat) (g : Target) (fl : Flags) (u : Nat) : (t.fly l g fl u).observed = t.observed := rfl
@[simp] theorem fly_badQ (t : Tile) (l : Nat) (g : Target) (fl : Flags) (u : Nat) : (t.fly l g fl u).badQ = t.badQ := rfl
@[simp] theorem fly_badAcc (t : Tile) (l : Nat) (g : Target) (fl : Flags) (u : Nat) : (t.fly l g fl u).badAcc = t.badAcc := rfl
@[simp] theorem fly_raised (t : Tile) (l : Nat) (g : Target) (fl : Flags) (u : Nat) : (t.fly l g fl u).raised = t.raised := rfl
@[simp] theorem fly_kept (t : Tile) (l : Nat) (g : Target) (fl : Flags) (u : Nat) : (t.fly l g fl u).kept = t.kept := rfl
@[simp] theorem raise_sc (t : Tile) (fl : Flags) : (t.raise fl).sc = t.sc := rfl
@[simp] theorem raise_sv (t : Tile) (fl : Flags) : (t.raise fl).sv = t.sv := rfl
@[simp] theorem raise_sd (t : Tile) (fl : Flags) : (t.raise fl).sd = t.sd := rfl
@[simp] theorem raise_se (t : Tile) (fl : Flags) : (t.raise fl).se = t.se := rfl
@[simp] theorem raise_s (t : Tile) (fl : Flags) : (t.raise fl).s = t.s := rfl
@[simp] theorem raise_v (t : Tile) (fl : Flags) : (t.raise fl).v = t.v := rfl
@[simp] theorem raise_k (t : Tile) (fl : Flags) : (t.raise fl).k = t.k := rfl
@[simp] theorem raise_fs (t : Tile) (fl : Flags) : (t.raise fl).fs = t.fs := rfl
@[simp] theorem raise_vq (t : Tile) (fl : Flags) : (t.raise fl).vq = t.vq := rfl
@[simp] theorem raise_q12 (t : Tile) (fl : Flags) : (t.raise fl).q12 = t.q12 := rfl
@[simp] theorem raise_q13 (t : Tile) (fl : Flags) : (t.raise fl).q13 = t.q13 := rfl
@[simp] theorem raise_q14 (t : Tile) (fl : Flags) : (t.raise fl).q14 = t.q14 := rfl
@[simp] theorem raise_q15 (t : Tile) (fl : Flags) : (t.raise fl).q15 = t.q15 := rfl
@[simp] theorem raise_st (t : Tile) (fl : Flags) : (t.raise fl).st = t.st := rfl
@[simp] theorem raise_streq (t : Tile) (fl : Flags) : (t.raise fl).streq = t.streq := rfl
@[simp] theorem raise_rg (t : Tile) (fl : Flags) : (t.raise fl).rg = t.rg := rfl
@[simp] theorem raise_acc (t : Tile) (fl : Flags) : (t.raise fl).acc = t.acc := rfl
@[simp] theorem raise_accM (t : Tile) (fl : Flags) : (t.raise fl).accM = t.accM := rfl
@[simp] theorem raise_accL (t : Tile) (fl : Flags) : (t.raise fl).accL = t.accL := rfl
@[simp] theorem raise_accF (t : Tile) (fl : Flags) : (t.raise fl).accF = t.accF := rfl
@[simp] theorem raise_bt (t : Tile) (fl : Flags) : (t.raise fl).bt = t.bt := rfl
@[simp] theorem raise_lc (t : Tile) (fl : Flags) : (t.raise fl).lc = t.lc := rfl
@[simp] theorem raise_fc (t : Tile) (fl : Flags) : (t.raise fl).fc = t.fc := rfl
@[simp] theorem raise_hur (t : Tile) (fl : Flags) : (t.raise fl).hur = t.hur := rfl
@[simp] theorem raise_mx (t : Tile) (fl : Flags) : (t.raise fl).mx = t.mx := rfl
@[simp] theorem raise_qz (t : Tile) (fl : Flags) : (t.raise fl).qz = t.qz := rfl
@[simp] theorem raise_cp (t : Tile) (fl : Flags) : (t.raise fl).cp = t.cp := rfl
@[simp] theorem raise_fi (t : Tile) (fl : Flags) : (t.raise fl).fi = t.fi := rfl
@[simp] theorem raise_empty (t : Tile) (fl : Flags) : (t.raise fl).empty = t.empty := rfl
@[simp] theorem raise_hold (t : Tile) (fl : Flags) : (t.raise fl).hold = t.hold := rfl
@[simp] theorem raise_modeRm (t : Tile) (fl : Flags) : (t.raise fl).modeRm = t.modeRm := rfl
@[simp] theorem raise_modeSt (t : Tile) (fl : Flags) : (t.raise fl).modeSt = t.modeSt := rfl
@[simp] theorem raise_modeDet (t : Tile) (fl : Flags) : (t.raise fl).modeDet = t.modeDet := rfl
@[simp] theorem raise_srseed (t : Tile) (fl : Flags) : (t.raise fl).srseed = t.srseed := rfl
@[simp] theorem raise_spoor (t : Tile) (fl : Flags) : (t.raise fl).spoor = t.spoor := rfl
@[simp] theorem raise_slip (t : Tile) (fl : Flags) : (t.raise fl).slip = t.slip := rfl
@[simp] theorem raise_vrb (t : Tile) (fl : Flags) : (t.raise fl).vrb = t.vrb := rfl
@[simp] theorem raise_krb (t : Tile) (fl : Flags) : (t.raise fl).krb = t.krb := rfl
@[simp] theorem raise_taskid (t : Tile) (fl : Flags) : (t.raise fl).taskid = t.taskid := rfl
@[simp] theorem raise_launchid (t : Tile) (fl : Flags) : (t.raise fl).launchid = t.launchid := rfl
@[simp] theorem raise_world (t : Tile) (fl : Flags) : (t.raise fl).world = t.world := rfl
@[simp] theorem raise_span (t : Tile) (fl : Flags) : (t.raise fl).span = t.span := rfl
@[simp] theorem raise_flight (t : Tile) (fl : Flags) : (t.raise fl).flight = t.flight := rfl
@[simp] theorem raise_busyDiv (t : Tile) (fl : Flags) : (t.raise fl).busyDiv = t.busyDiv := rfl
@[simp] theorem raise_busyFe (t : Tile) (fl : Flags) : (t.raise fl).busyFe = t.busyFe := rfl
@[simp] theorem raise_busyFt (t : Tile) (fl : Flags) : (t.raise fl).busyFt = t.busyFt := rfl
@[simp] theorem raise_busyXl (t : Tile) (fl : Flags) : (t.raise fl).busyXl = t.busyXl := rfl
@[simp] theorem raise_busyPk (t : Tile) (fl : Flags) : (t.raise fl).busyPk = t.busyPk := rfl
@[simp] theorem raise_busyAc (t : Tile) (fl : Flags) : (t.raise fl).busyAc = t.busyAc := rfl
@[simp] theorem raise_dacc (t : Tile) (fl : Flags) : (t.raise fl).dacc = t.dacc := rfl
@[simp] theorem raise_dseq (t : Tile) (fl : Flags) : (t.raise fl).dseq = t.dseq := rfl
@[simp] theorem raise_depoch (t : Tile) (fl : Flags) : (t.raise fl).depoch = t.depoch := rfl
@[simp] theorem raise_spoorNow (t : Tile) (fl : Flags) : (t.raise fl).spoorNow = t.spoorNow := rfl
@[simp] theorem raise_reqs (t : Tile) (fl : Flags) : (t.raise fl).reqs = t.reqs := rfl
@[simp] theorem raise_sseq (t : Tile) (fl : Flags) : (t.raise fl).sseq = t.sseq := rfl
@[simp] theorem raise_sp (t : Tile) (fl : Flags) : (t.raise fl).sp = t.sp := rfl
@[simp] theorem raise_bad (t : Tile) (fl : Flags) : (t.raise fl).bad = t.bad := rfl
@[simp] theorem raise_shadow (t : Tile) (fl : Flags) : (t.raise fl).shadow = t.shadow := rfl
@[simp] theorem raise_shadowStore (t : Tile) (fl : Flags) : (t.raise fl).shadowStore = t.shadowStore := rfl
@[simp] theorem raise_shadowImage (t : Tile) (fl : Flags) : (t.raise fl).shadowImage = t.shadowImage := rfl
@[simp] theorem raise_res (t : Tile) (fl : Flags) : (t.raise fl).res = t.res := rfl
@[simp] theorem raise_live (t : Tile) (fl : Flags) : (t.raise fl).live = t.live := rfl
@[simp] theorem raise_used (t : Tile) (fl : Flags) : (t.raise fl).used = t.used := rfl
@[simp] theorem raise_resident (t : Tile) (fl : Flags) : (t.raise fl).resident = t.resident := rfl
@[simp] theorem raise_preq (t : Tile) (fl : Flags) : (t.raise fl).preq = t.preq := rfl
@[simp] theorem raise_drain (t : Tile) (fl : Flags) : (t.raise fl).drain = t.drain := rfl
@[simp] theorem raise_preload (t : Tile) (fl : Flags) : (t.raise fl).preload = t.preload := rfl
@[simp] theorem raise_halted (t : Tile) (fl : Flags) : (t.raise fl).halted = t.halted := rfl
@[simp] theorem raise_frozen (t : Tile) (fl : Flags) : (t.raise fl).frozen = t.frozen := rfl
@[simp] theorem raise_cancelled (t : Tile) (fl : Flags) : (t.raise fl).cancelled = t.cancelled := rfl
@[simp] theorem raise_stopDcc (t : Tile) (fl : Flags) : (t.raise fl).stopDcc = t.stopDcc := rfl
@[simp] theorem raise_stops (t : Tile) (fl : Flags) : (t.raise fl).stops = t.stops := rfl
@[simp] theorem raise_unseen (t : Tile) (fl : Flags) : (t.raise fl).unseen = t.unseen := rfl
@[simp] theorem raise_observed (t : Tile) (fl : Flags) : (t.raise fl).observed = t.observed := rfl
@[simp] theorem raise_badQ (t : Tile) (fl : Flags) : (t.raise fl).badQ = t.badQ := rfl
@[simp] theorem raise_badAcc (t : Tile) (fl : Flags) : (t.raise fl).badAcc = t.badAcc := rfl
@[simp] theorem spWrite_sc (t : Tile) (a : Nat) (l : List W8) : (t.spWrite a l).sc = t.sc := rfl
@[simp] theorem spWrite_sv (t : Tile) (a : Nat) (l : List W8) : (t.spWrite a l).sv = t.sv := rfl
@[simp] theorem spWrite_sd (t : Tile) (a : Nat) (l : List W8) : (t.spWrite a l).sd = t.sd := rfl
@[simp] theorem spWrite_se (t : Tile) (a : Nat) (l : List W8) : (t.spWrite a l).se = t.se := rfl
@[simp] theorem spWrite_s (t : Tile) (a : Nat) (l : List W8) : (t.spWrite a l).s = t.s := rfl
@[simp] theorem spWrite_v (t : Tile) (a : Nat) (l : List W8) : (t.spWrite a l).v = t.v := rfl
@[simp] theorem spWrite_k (t : Tile) (a : Nat) (l : List W8) : (t.spWrite a l).k = t.k := rfl
@[simp] theorem spWrite_fs (t : Tile) (a : Nat) (l : List W8) : (t.spWrite a l).fs = t.fs := rfl
@[simp] theorem spWrite_vq (t : Tile) (a : Nat) (l : List W8) : (t.spWrite a l).vq = t.vq := rfl
@[simp] theorem spWrite_q12 (t : Tile) (a : Nat) (l : List W8) : (t.spWrite a l).q12 = t.q12 := rfl
@[simp] theorem spWrite_q13 (t : Tile) (a : Nat) (l : List W8) : (t.spWrite a l).q13 = t.q13 := rfl
@[simp] theorem spWrite_q14 (t : Tile) (a : Nat) (l : List W8) : (t.spWrite a l).q14 = t.q14 := rfl
@[simp] theorem spWrite_q15 (t : Tile) (a : Nat) (l : List W8) : (t.spWrite a l).q15 = t.q15 := rfl
@[simp] theorem spWrite_st (t : Tile) (a : Nat) (l : List W8) : (t.spWrite a l).st = t.st := rfl
@[simp] theorem spWrite_streq (t : Tile) (a : Nat) (l : List W8) : (t.spWrite a l).streq = t.streq := rfl
@[simp] theorem spWrite_rg (t : Tile) (a : Nat) (l : List W8) : (t.spWrite a l).rg = t.rg := rfl
@[simp] theorem spWrite_acc (t : Tile) (a : Nat) (l : List W8) : (t.spWrite a l).acc = t.acc := rfl
@[simp] theorem spWrite_accM (t : Tile) (a : Nat) (l : List W8) : (t.spWrite a l).accM = t.accM := rfl
@[simp] theorem spWrite_accL (t : Tile) (a : Nat) (l : List W8) : (t.spWrite a l).accL = t.accL := rfl
@[simp] theorem spWrite_accF (t : Tile) (a : Nat) (l : List W8) : (t.spWrite a l).accF = t.accF := rfl
@[simp] theorem spWrite_bt (t : Tile) (a : Nat) (l : List W8) : (t.spWrite a l).bt = t.bt := rfl
@[simp] theorem spWrite_lc (t : Tile) (a : Nat) (l : List W8) : (t.spWrite a l).lc = t.lc := rfl
@[simp] theorem spWrite_fc (t : Tile) (a : Nat) (l : List W8) : (t.spWrite a l).fc = t.fc := rfl
@[simp] theorem spWrite_hur (t : Tile) (a : Nat) (l : List W8) : (t.spWrite a l).hur = t.hur := rfl
@[simp] theorem spWrite_mx (t : Tile) (a : Nat) (l : List W8) : (t.spWrite a l).mx = t.mx := rfl
@[simp] theorem spWrite_qz (t : Tile) (a : Nat) (l : List W8) : (t.spWrite a l).qz = t.qz := rfl
@[simp] theorem spWrite_cp (t : Tile) (a : Nat) (l : List W8) : (t.spWrite a l).cp = t.cp := rfl
@[simp] theorem spWrite_fi (t : Tile) (a : Nat) (l : List W8) : (t.spWrite a l).fi = t.fi := rfl
@[simp] theorem spWrite_empty (t : Tile) (a : Nat) (l : List W8) : (t.spWrite a l).empty = t.empty := rfl
@[simp] theorem spWrite_hold (t : Tile) (a : Nat) (l : List W8) : (t.spWrite a l).hold = t.hold := rfl
@[simp] theorem spWrite_flags (t : Tile) (a : Nat) (l : List W8) : (t.spWrite a l).flags = t.flags := rfl
@[simp] theorem spWrite_modeRm (t : Tile) (a : Nat) (l : List W8) : (t.spWrite a l).modeRm = t.modeRm := rfl
@[simp] theorem spWrite_modeSt (t : Tile) (a : Nat) (l : List W8) : (t.spWrite a l).modeSt = t.modeSt := rfl
@[simp] theorem spWrite_modeDet (t : Tile) (a : Nat) (l : List W8) : (t.spWrite a l).modeDet = t.modeDet := rfl
@[simp] theorem spWrite_srseed (t : Tile) (a : Nat) (l : List W8) : (t.spWrite a l).srseed = t.srseed := rfl
@[simp] theorem spWrite_spoor (t : Tile) (a : Nat) (l : List W8) : (t.spWrite a l).spoor = t.spoor := rfl
@[simp] theorem spWrite_slip (t : Tile) (a : Nat) (l : List W8) : (t.spWrite a l).slip = t.slip := rfl
@[simp] theorem spWrite_vrb (t : Tile) (a : Nat) (l : List W8) : (t.spWrite a l).vrb = t.vrb := rfl
@[simp] theorem spWrite_krb (t : Tile) (a : Nat) (l : List W8) : (t.spWrite a l).krb = t.krb := rfl
@[simp] theorem spWrite_taskid (t : Tile) (a : Nat) (l : List W8) : (t.spWrite a l).taskid = t.taskid := rfl
@[simp] theorem spWrite_launchid (t : Tile) (a : Nat) (l : List W8) : (t.spWrite a l).launchid = t.launchid := rfl
@[simp] theorem spWrite_world (t : Tile) (a : Nat) (l : List W8) : (t.spWrite a l).world = t.world := rfl
@[simp] theorem spWrite_span (t : Tile) (a : Nat) (l : List W8) : (t.spWrite a l).span = t.span := rfl
@[simp] theorem spWrite_flight (t : Tile) (a : Nat) (l : List W8) : (t.spWrite a l).flight = t.flight := rfl
@[simp] theorem spWrite_busyDiv (t : Tile) (a : Nat) (l : List W8) : (t.spWrite a l).busyDiv = t.busyDiv := rfl
@[simp] theorem spWrite_busyFe (t : Tile) (a : Nat) (l : List W8) : (t.spWrite a l).busyFe = t.busyFe := rfl
@[simp] theorem spWrite_busyFt (t : Tile) (a : Nat) (l : List W8) : (t.spWrite a l).busyFt = t.busyFt := rfl
@[simp] theorem spWrite_busyXl (t : Tile) (a : Nat) (l : List W8) : (t.spWrite a l).busyXl = t.busyXl := rfl
@[simp] theorem spWrite_busyPk (t : Tile) (a : Nat) (l : List W8) : (t.spWrite a l).busyPk = t.busyPk := rfl
@[simp] theorem spWrite_busyAc (t : Tile) (a : Nat) (l : List W8) : (t.spWrite a l).busyAc = t.busyAc := rfl
@[simp] theorem spWrite_dacc (t : Tile) (a : Nat) (l : List W8) : (t.spWrite a l).dacc = t.dacc := rfl
@[simp] theorem spWrite_dseq (t : Tile) (a : Nat) (l : List W8) : (t.spWrite a l).dseq = t.dseq := rfl
@[simp] theorem spWrite_depoch (t : Tile) (a : Nat) (l : List W8) : (t.spWrite a l).depoch = t.depoch := rfl
@[simp] theorem spWrite_spoorNow (t : Tile) (a : Nat) (l : List W8) : (t.spWrite a l).spoorNow = t.spoorNow := rfl
@[simp] theorem spWrite_reqs (t : Tile) (a : Nat) (l : List W8) : (t.spWrite a l).reqs = t.reqs := rfl
@[simp] theorem spWrite_sseq (t : Tile) (a : Nat) (l : List W8) : (t.spWrite a l).sseq = t.sseq := rfl
@[simp] theorem spWrite_shadow (t : Tile) (a : Nat) (l : List W8) : (t.spWrite a l).shadow = t.shadow := rfl
@[simp] theorem spWrite_shadowStore (t : Tile) (a : Nat) (l : List W8) : (t.spWrite a l).shadowStore = t.shadowStore := rfl
@[simp] theorem spWrite_shadowImage (t : Tile) (a : Nat) (l : List W8) : (t.spWrite a l).shadowImage = t.shadowImage := rfl
@[simp] theorem spWrite_res (t : Tile) (a : Nat) (l : List W8) : (t.spWrite a l).res = t.res := rfl
@[simp] theorem spWrite_live (t : Tile) (a : Nat) (l : List W8) : (t.spWrite a l).live = t.live := rfl
@[simp] theorem spWrite_used (t : Tile) (a : Nat) (l : List W8) : (t.spWrite a l).used = t.used := rfl
@[simp] theorem spWrite_resident (t : Tile) (a : Nat) (l : List W8) : (t.spWrite a l).resident = t.resident := rfl
@[simp] theorem spWrite_preq (t : Tile) (a : Nat) (l : List W8) : (t.spWrite a l).preq = t.preq := rfl
@[simp] theorem spWrite_drain (t : Tile) (a : Nat) (l : List W8) : (t.spWrite a l).drain = t.drain := rfl
@[simp] theorem spWrite_preload (t : Tile) (a : Nat) (l : List W8) : (t.spWrite a l).preload = t.preload := rfl
@[simp] theorem spWrite_halted (t : Tile) (a : Nat) (l : List W8) : (t.spWrite a l).halted = t.halted := rfl
@[simp] theorem spWrite_frozen (t : Tile) (a : Nat) (l : List W8) : (t.spWrite a l).frozen = t.frozen := rfl
@[simp] theorem spWrite_cancelled (t : Tile) (a : Nat) (l : List W8) : (t.spWrite a l).cancelled = t.cancelled := rfl
@[simp] theorem spWrite_stopDcc (t : Tile) (a : Nat) (l : List W8) : (t.spWrite a l).stopDcc = t.stopDcc := rfl
@[simp] theorem spWrite_stops (t : Tile) (a : Nat) (l : List W8) : (t.spWrite a l).stops = t.stops := rfl
@[simp] theorem spWrite_observed (t : Tile) (a : Nat) (l : List W8) : (t.spWrite a l).observed = t.observed := rfl
@[simp] theorem spWrite_badQ (t : Tile) (a : Nat) (l : List W8) : (t.spWrite a l).badQ = t.badQ := rfl
@[simp] theorem spWrite_badAcc (t : Tile) (a : Nat) (l : List W8) : (t.spWrite a l).badAcc = t.badAcc := rfl
@[simp] theorem spWrite_raised (t : Tile) (a : Nat) (l : List W8) : (t.spWrite a l).raised = t.raised := rfl
@[simp] theorem spWrite_kept (t : Tile) (a : Nat) (l : List W8) : (t.spWrite a l).kept = t.kept := rfl
@[simp] theorem onStr_s (t : Tile) (st : Strand) (f : StrandSt → StrandSt) : (t.onStr st f).s = t.s := by cases st <;> rfl
@[simp] theorem onStr_v (t : Tile) (st : Strand) (f : StrandSt → StrandSt) : (t.onStr st f).v = t.v := by cases st <;> rfl
@[simp] theorem onStr_k (t : Tile) (st : Strand) (f : StrandSt → StrandSt) : (t.onStr st f).k = t.k := by cases st <;> rfl
@[simp] theorem onStr_fs (t : Tile) (st : Strand) (f : StrandSt → StrandSt) : (t.onStr st f).fs = t.fs := by cases st <;> rfl
@[simp] theorem onStr_vq (t : Tile) (st : Strand) (f : StrandSt → StrandSt) : (t.onStr st f).vq = t.vq := by cases st <;> rfl
@[simp] theorem onStr_q12 (t : Tile) (st : Strand) (f : StrandSt → StrandSt) : (t.onStr st f).q12 = t.q12 := by cases st <;> rfl
@[simp] theorem onStr_q13 (t : Tile) (st : Strand) (f : StrandSt → StrandSt) : (t.onStr st f).q13 = t.q13 := by cases st <;> rfl
@[simp] theorem onStr_q14 (t : Tile) (st : Strand) (f : StrandSt → StrandSt) : (t.onStr st f).q14 = t.q14 := by cases st <;> rfl
@[simp] theorem onStr_q15 (t : Tile) (st : Strand) (f : StrandSt → StrandSt) : (t.onStr st f).q15 = t.q15 := by cases st <;> rfl
@[simp] theorem onStr_st (t : Tile) (st : Strand) (f : StrandSt → StrandSt) : (t.onStr st f).st = t.st := by cases st <;> rfl
@[simp] theorem onStr_streq (t : Tile) (st : Strand) (f : StrandSt → StrandSt) : (t.onStr st f).streq = t.streq := by cases st <;> rfl
@[simp] theorem onStr_rg (t : Tile) (st : Strand) (f : StrandSt → StrandSt) : (t.onStr st f).rg = t.rg := by cases st <;> rfl
@[simp] theorem onStr_acc (t : Tile) (st : Strand) (f : StrandSt → StrandSt) : (t.onStr st f).acc = t.acc := by cases st <;> rfl
@[simp] theorem onStr_accM (t : Tile) (st : Strand) (f : StrandSt → StrandSt) : (t.onStr st f).accM = t.accM := by cases st <;> rfl
@[simp] theorem onStr_accL (t : Tile) (st : Strand) (f : StrandSt → StrandSt) : (t.onStr st f).accL = t.accL := by cases st <;> rfl
@[simp] theorem onStr_accF (t : Tile) (st : Strand) (f : StrandSt → StrandSt) : (t.onStr st f).accF = t.accF := by cases st <;> rfl
@[simp] theorem onStr_bt (t : Tile) (st : Strand) (f : StrandSt → StrandSt) : (t.onStr st f).bt = t.bt := by cases st <;> rfl
@[simp] theorem onStr_lc (t : Tile) (st : Strand) (f : StrandSt → StrandSt) : (t.onStr st f).lc = t.lc := by cases st <;> rfl
@[simp] theorem onStr_fc (t : Tile) (st : Strand) (f : StrandSt → StrandSt) : (t.onStr st f).fc = t.fc := by cases st <;> rfl
@[simp] theorem onStr_hur (t : Tile) (st : Strand) (f : StrandSt → StrandSt) : (t.onStr st f).hur = t.hur := by cases st <;> rfl
@[simp] theorem onStr_mx (t : Tile) (st : Strand) (f : StrandSt → StrandSt) : (t.onStr st f).mx = t.mx := by cases st <;> rfl
@[simp] theorem onStr_qz (t : Tile) (st : Strand) (f : StrandSt → StrandSt) : (t.onStr st f).qz = t.qz := by cases st <;> rfl
@[simp] theorem onStr_cp (t : Tile) (st : Strand) (f : StrandSt → StrandSt) : (t.onStr st f).cp = t.cp := by cases st <;> rfl
@[simp] theorem onStr_fi (t : Tile) (st : Strand) (f : StrandSt → StrandSt) : (t.onStr st f).fi = t.fi := by cases st <;> rfl
@[simp] theorem onStr_empty (t : Tile) (st : Strand) (f : StrandSt → StrandSt) : (t.onStr st f).empty = t.empty := by cases st <;> rfl
@[simp] theorem onStr_hold (t : Tile) (st : Strand) (f : StrandSt → StrandSt) : (t.onStr st f).hold = t.hold := by cases st <;> rfl
@[simp] theorem onStr_flags (t : Tile) (st : Strand) (f : StrandSt → StrandSt) : (t.onStr st f).flags = t.flags := by cases st <;> rfl
@[simp] theorem onStr_modeRm (t : Tile) (st : Strand) (f : StrandSt → StrandSt) : (t.onStr st f).modeRm = t.modeRm := by cases st <;> rfl
@[simp] theorem onStr_modeSt (t : Tile) (st : Strand) (f : StrandSt → StrandSt) : (t.onStr st f).modeSt = t.modeSt := by cases st <;> rfl
@[simp] theorem onStr_modeDet (t : Tile) (st : Strand) (f : StrandSt → StrandSt) : (t.onStr st f).modeDet = t.modeDet := by cases st <;> rfl
@[simp] theorem onStr_srseed (t : Tile) (st : Strand) (f : StrandSt → StrandSt) : (t.onStr st f).srseed = t.srseed := by cases st <;> rfl
@[simp] theorem onStr_spoor (t : Tile) (st : Strand) (f : StrandSt → StrandSt) : (t.onStr st f).spoor = t.spoor := by cases st <;> rfl
@[simp] theorem onStr_slip (t : Tile) (st : Strand) (f : StrandSt → StrandSt) : (t.onStr st f).slip = t.slip := by cases st <;> rfl
@[simp] theorem onStr_vrb (t : Tile) (st : Strand) (f : StrandSt → StrandSt) : (t.onStr st f).vrb = t.vrb := by cases st <;> rfl
@[simp] theorem onStr_krb (t : Tile) (st : Strand) (f : StrandSt → StrandSt) : (t.onStr st f).krb = t.krb := by cases st <;> rfl
@[simp] theorem onStr_taskid (t : Tile) (st : Strand) (f : StrandSt → StrandSt) : (t.onStr st f).taskid = t.taskid := by cases st <;> rfl
@[simp] theorem onStr_launchid (t : Tile) (st : Strand) (f : StrandSt → StrandSt) : (t.onStr st f).launchid = t.launchid := by cases st <;> rfl
@[simp] theorem onStr_world (t : Tile) (st : Strand) (f : StrandSt → StrandSt) : (t.onStr st f).world = t.world := by cases st <;> rfl
@[simp] theorem onStr_span (t : Tile) (st : Strand) (f : StrandSt → StrandSt) : (t.onStr st f).span = t.span := by cases st <;> rfl
@[simp] theorem onStr_flight (t : Tile) (st : Strand) (f : StrandSt → StrandSt) : (t.onStr st f).flight = t.flight := by cases st <;> rfl
@[simp] theorem onStr_busyDiv (t : Tile) (st : Strand) (f : StrandSt → StrandSt) : (t.onStr st f).busyDiv = t.busyDiv := by cases st <;> rfl
@[simp] theorem onStr_busyFe (t : Tile) (st : Strand) (f : StrandSt → StrandSt) : (t.onStr st f).busyFe = t.busyFe := by cases st <;> rfl
@[simp] theorem onStr_busyFt (t : Tile) (st : Strand) (f : StrandSt → StrandSt) : (t.onStr st f).busyFt = t.busyFt := by cases st <;> rfl
@[simp] theorem onStr_busyXl (t : Tile) (st : Strand) (f : StrandSt → StrandSt) : (t.onStr st f).busyXl = t.busyXl := by cases st <;> rfl
@[simp] theorem onStr_busyPk (t : Tile) (st : Strand) (f : StrandSt → StrandSt) : (t.onStr st f).busyPk = t.busyPk := by cases st <;> rfl
@[simp] theorem onStr_busyAc (t : Tile) (st : Strand) (f : StrandSt → StrandSt) : (t.onStr st f).busyAc = t.busyAc := by cases st <;> rfl
@[simp] theorem onStr_dacc (t : Tile) (st : Strand) (f : StrandSt → StrandSt) : (t.onStr st f).dacc = t.dacc := by cases st <;> rfl
@[simp] theorem onStr_dseq (t : Tile) (st : Strand) (f : StrandSt → StrandSt) : (t.onStr st f).dseq = t.dseq := by cases st <;> rfl
@[simp] theorem onStr_depoch (t : Tile) (st : Strand) (f : StrandSt → StrandSt) : (t.onStr st f).depoch = t.depoch := by cases st <;> rfl
@[simp] theorem onStr_spoorNow (t : Tile) (st : Strand) (f : StrandSt → StrandSt) : (t.onStr st f).spoorNow = t.spoorNow := by cases st <;> rfl
@[simp] theorem onStr_reqs (t : Tile) (st : Strand) (f : StrandSt → StrandSt) : (t.onStr st f).reqs = t.reqs := by cases st <;> rfl
@[simp] theorem onStr_sseq (t : Tile) (st : Strand) (f : StrandSt → StrandSt) : (t.onStr st f).sseq = t.sseq := by cases st <;> rfl
@[simp] theorem onStr_sp (t : Tile) (st : Strand) (f : StrandSt → StrandSt) : (t.onStr st f).sp = t.sp := by cases st <;> rfl
@[simp] theorem onStr_bad (t : Tile) (st : Strand) (f : StrandSt → StrandSt) : (t.onStr st f).bad = t.bad := by cases st <;> rfl
@[simp] theorem onStr_shadow (t : Tile) (st : Strand) (f : StrandSt → StrandSt) : (t.onStr st f).shadow = t.shadow := by cases st <;> rfl
@[simp] theorem onStr_shadowStore (t : Tile) (st : Strand) (f : StrandSt → StrandSt) : (t.onStr st f).shadowStore = t.shadowStore := by cases st <;> rfl
@[simp] theorem onStr_shadowImage (t : Tile) (st : Strand) (f : StrandSt → StrandSt) : (t.onStr st f).shadowImage = t.shadowImage := by cases st <;> rfl
@[simp] theorem onStr_res (t : Tile) (st : Strand) (f : StrandSt → StrandSt) : (t.onStr st f).res = t.res := by cases st <;> rfl
@[simp] theorem onStr_live (t : Tile) (st : Strand) (f : StrandSt → StrandSt) : (t.onStr st f).live = t.live := by cases st <;> rfl
@[simp] theorem onStr_used (t : Tile) (st : Strand) (f : StrandSt → StrandSt) : (t.onStr st f).used = t.used := by cases st <;> rfl
@[simp] theorem onStr_resident (t : Tile) (st : Strand) (f : StrandSt → StrandSt) : (t.onStr st f).resident = t.resident := by cases st <;> rfl
@[simp] theorem onStr_preq (t : Tile) (st : Strand) (f : StrandSt → StrandSt) : (t.onStr st f).preq = t.preq := by cases st <;> rfl
@[simp] theorem onStr_drain (t : Tile) (st : Strand) (f : StrandSt → StrandSt) : (t.onStr st f).drain = t.drain := by cases st <;> rfl
@[simp] theorem onStr_preload (t : Tile) (st : Strand) (f : StrandSt → StrandSt) : (t.onStr st f).preload = t.preload := by cases st <;> rfl
@[simp] theorem onStr_halted (t : Tile) (st : Strand) (f : StrandSt → StrandSt) : (t.onStr st f).halted = t.halted := by cases st <;> rfl
@[simp] theorem onStr_frozen (t : Tile) (st : Strand) (f : StrandSt → StrandSt) : (t.onStr st f).frozen = t.frozen := by cases st <;> rfl
@[simp] theorem onStr_cancelled (t : Tile) (st : Strand) (f : StrandSt → StrandSt) : (t.onStr st f).cancelled = t.cancelled := by cases st <;> rfl
@[simp] theorem onStr_stopDcc (t : Tile) (st : Strand) (f : StrandSt → StrandSt) : (t.onStr st f).stopDcc = t.stopDcc := by cases st <;> rfl
@[simp] theorem onStr_stops (t : Tile) (st : Strand) (f : StrandSt → StrandSt) : (t.onStr st f).stops = t.stops := by cases st <;> rfl
@[simp] theorem onStr_unseen (t : Tile) (st : Strand) (f : StrandSt → StrandSt) : (t.onStr st f).unseen = t.unseen := by cases st <;> rfl
@[simp] theorem onStr_observed (t : Tile) (st : Strand) (f : StrandSt → StrandSt) : (t.onStr st f).observed = t.observed := by cases st <;> rfl
@[simp] theorem onStr_badQ (t : Tile) (st : Strand) (f : StrandSt → StrandSt) : (t.onStr st f).badQ = t.badQ := by cases st <;> rfl
@[simp] theorem onStr_badAcc (t : Tile) (st : Strand) (f : StrandSt → StrandSt) : (t.onStr st f).badAcc = t.badAcc := by cases st <;> rfl
@[simp] theorem onStr_raised (t : Tile) (st : Strand) (f : StrandSt → StrandSt) : (t.onStr st f).raised = t.raised := by cases st <;> rfl
@[simp] theorem onStr_kept (t : Tile) (st : Strand) (f : StrandSt → StrandSt) : (t.onStr st f).kept = t.kept := by cases st <;> rfl

@[simp] theorem fly_flight (t : Tile) (l : Nat) (g : Target) (fl : Flags) (u : Nat) :
    (t.fly l g fl u).flight = t.flight ++ [⟨l, g, fl, u⟩] := rfl

@[simp] theorem raise_flags (t : Tile) (fl : Flags) : (t.raise fl).flags = t.flags ||| fl := rfl

@[simp] theorem str_onStr (t : Tile) (st : Strand) (f : StrandSt → StrandSt) : (t.onStr st f).str st = f (t.str st) := by
  cases st <;> rfl

@[simp] theorem sreg_zero (t : Tile) : t.sreg 0 = 0#64 := rfl

/-- s0 discards writes (R18, R74). -/
@[simp] theorem setS_zero (t : Tile) (v : W64) : t.setS 0 v = t := rfl

/-- k0 discards writes (R18). -/
@[simp] theorem setK_zero (t : Tile) (v : BitVec 1024) : t.setK 0 v = t := rfl

/-- A scalar register reads as it was written. -/
theorem sreg_setS (t : Tile) {r : Nat} (v : W64) (hr : r ≠ 0) (h : SMap.wf 0#64 t.s = true) : (t.setS r v).sreg r = v := by
  simp only [Tile.sreg, Tile.setS, hr, if_false]
  exact get_set_self (lo := none) h r v

theorem sreg_setS_ne (t : Tile) {r q : Nat} (v : W64) (h : q ≠ r) : (t.setS r v).sreg q = t.sreg q := by
  unfold Tile.sreg Tile.setS
  by_cases hr : r = 0
  · simp [hr]
  · simp only [hr, if_false, get_set_ne _ _ h]

end Sys2Proof.Laws
end

