-- ==== Sys2Proof/Safety.lean ====
section
/-! DEFINITION. The terms in which claims about the Tsunor are stated: who issues, where an issuing strand stands after
its instruction, what an instruction leaves alone, and the canonical form of every memory of the package. -/

namespace Sys2Proof.Machine

/-! ## Who issues -/

/-- The instruction issues alone, from a strand of the focus tile's task: neither a bundle's member nor a probe of its
verdict, and not from the shadow context (R20, R23, R136). -/
def Alone (s : State) (st : Strand) : Prop := s.focus.mode = 0 ∧ s.focus.shadow = false ∧ s.focus.strand = st

/-- The instruction issues from the shadow context in service on the focus tile (R136). -/
def InShadow (s : State) (h : Shadow) : Prop :=
  s.focus.mode = 0 ∧ s.focus.shadow = true ∧ s.focus.strand = .c ∧ s.me.shadow = some h

/-! ## The issuing strand afterwards (R14, R21, R105) -/

/-- The tile after its strand has moved to an address and waits at least `gap` clk; a V strand counts a covered
instruction of an open pblk span (R86). -/
def Tile.movedTo (t : Tile) (st : Strand) (pc : BitVec 21) (gap : Nat) : Tile :=
  match st with
  | .c => { t with sc := t.sc.issued pc gap }
  | .v => { t with sv := t.sv.issued pc gap, span := Span.tick t.span }
  | .d => { t with sd := t.sd.issued pc gap }
  | .e => { t with se := t.se.issued pc gap }

/-- The strand at its next word. -/
def Tile.moved (t : Tile) (st : Strand) : Tile := t.movedTo st ((t.str st).pc + 8#21) 1

/-- A result in flight is added to the tile (R28). -/
def Tile.flying (t : Tile) (lat : Nat) (tgt : Target) (fl : Flags) (unit : Nat) : Tile :=
  { t with flight := t.flight ++ [⟨lat, tgt, fl, unit⟩] }

/-- The shadow context at its next word (R136). -/
def Shadow.moved (h : Shadow) : Shadow := { h with st := h.st.issued (h.st.pc + 8#21) 1 }

/-- A scalar source of the task: s0 reads as zero (R18). -/
def State.src (s : State) (r : BitVec 6) : W64 := s.me.sreg r.toNat

/-- The state in which the focus tile is another and nothing else of the package has changed. -/
def State.withMe (s : State) (t : Tile) : State := s.setTile s.focus.tile t

/-- No fault of the issuing strand's own stands in its stop record yet (R352). -/
def State.unfaulted (s : State) : Prop := ∀ r, SMap.find s.me.stops s.focus.strand.code = some r → r.own = false

/-- The outcome is a terminal fault of the issuing strand at its instruction (R72, R343, R347, R352): the stop record takes
the cause and the instruction's address, the strand stands faulted, the partition's halt line is raised, and no register,
no queue, no result on its way and no byte of memory has changed. -/
def FaultsAt (s : State) (o : Out) (cause : Nat) : Prop :=
  ∃ t r, o = .next t ∧ SMap.find t.me.stops s.focus.strand.code = some r ∧ r.own = true ∧ r.cause = cause ∧
    r.pc = (s.me.str s.focus.strand).pc ∧
    t.me = { (s.me.onStr s.focus.strand fun x => { x with waiting := false, faulted := true }) with stops := t.me.stops } ∧
    (t.part s.me.partition).halts.toNat.testBit 63 = true ∧
    t = { s with tiles := t.tiles, parts := t.parts, records := t.records, free := t.free } ∧
    (∀ k, k ≠ s.focus.tile → t.tile k = s.tile k) ∧ ∀ q, q ≠ s.me.partition → t.part q = s.part q

/-- The outcome is a strand that stands blocked at its instruction, with a wait code and number (R26, R352), and nothing
else changed. -/
def WaitsAt (s : State) (o : Out) (code num : Nat) : Prop :=
  o = .next (s.withMe (s.me.onStr s.focus.strand fun x => { x with waiting := true, wait := code, waitNum := num }))

/-- An address outside the code region of the focus tile's task (R22, R111). -/
def State.outsideCode (s : State) (x : Int) : Prop :=
  ∃ r, s.me.res = some r ∧ (x < r.codeBase ∨ (r.codeBase : Int) + r.codeSize ≤ x)

/-- An address within the code region of the focus tile's task that is no multiple of 8 (R22, R111). -/
def State.misaligned (s : State) (x : Int) : Prop :=
  ∃ r, s.me.res = some r ∧ (r.codeBase : Int) ≤ x ∧ x < r.codeBase + r.codeSize ∧ x % 8 ≠ 0 ∧ x < 2 ^ 21

/-- The condition codes of integers (R79): eq, ne, lt, ge, ltn, gen; codes 6 and 7 are reserved. -/
def CondHolds (c : BitVec 3) (a b : W64) : Prop :=
  match c.toNat with
  | 0 => a = b
  | 1 => a ≠ b
  | 2 => a.toInt < b.toInt
  | 3 => b.toInt ≤ a.toInt
  | 4 => a.toNat < b.toNat
  | 5 => b.toNat ≤ a.toNat
  | _ => False

/-- A word address within the code region of the focus tile's task (R22). -/
def State.inCode (s : State) (x : Int) : Prop :=
  ∃ r, s.me.res = some r ∧ (r.codeBase : Int) ≤ x ∧ x + 8 ≤ r.codeBase + r.codeSize ∧ x % 8 = 0 ∧ x < 2 ^ 21

/-! ## The V strand (R26, R86, R142, R143) -/

/-- A V instruction may issue: under a span it names no guard, the queues it pops hold 16 landed rows for each pop, with
no uncorrectable error (R294), and the queue it pushes has its 16 entries free. -/
def Tile.vReady (t : Tile) (kg : BitVec 5) (kn : Bool) (srcs : List (BitVec 7)) (dst : Option (BitVec 7)) : Prop :=
  (t.span = none ∨ (kg = 0#5 ∧ kn = false)) ∧
  (∀ q ∈ srcs.filterMap srcQueue, 16 * ((srcs.filterMap srcQueue).filter (· == q)).length ≤ (landedRows (t.vqRows q)).length) ∧
  (∀ d q, dst = some d → dstQueue d = some q → (t.vqRows q).length = 0) ∧ t.popBad srcs = false

/-- The tile after a V instruction with one vector result: the result on its way, the unit held, the strand moved. -/
def Tile.vdone (t : Tile) (vd : BitVec 7) (lat : Nat) (g : BitVec 1024) (r : List W32 × Flags) (u : VUnit) : Tile :=
  ((t.vdst vd lat g r.1 r.2).holdUnit u).moved .v

/-- The tile after a V instruction with one result that is no vector. -/
def Tile.vput (t : Tile) (lat : Nat) (tgt : Target) (u : VUnit) : Tile :=
  ((t.flying lat tgt f0 1).holdUnit u).moved .v

/-! ## The D strand (R173 to R176, R196) -/

/-- The pointer names the task's private region or the issuing tile's scratchpad, every reserved bit zero (R173,
R174). -/
def State.OwnPointer (s : State) (p : W64) : Prop :=
  let x := p.toNat
  (x / 2 ^ 60 = 8 ∧ x / 2 ^ 21 % 2 ^ 39 = 0) ∨
  (x / 2 ^ 60 = 9 ∧ x / 2 ^ 57 % 2 ^ 3 = 0 ∧ x / 2 ^ 48 % 2 ^ 9 = s.focus.tile ∧ x / 2 ^ 48 % 2 ^ 6 ≤ 47 ∧
    x / 2 ^ 21 % 2 ^ 27 = 0)

/-- An access of `n` bytes raises no fault at its issue: an own pointer, an aligned address, and, where it is in range,
neither the standby region nor, for a store, the code region (R173, R176). -/
def State.MayAccess (s : State) (p : W64) (off : Int) (n : Nat) (write : Bool) : Prop :=
  s.OwnPointer p ∧ ((p.toNat % 2 ^ 21 : Nat) + off) % n = 0 ∧
  ((s.me.place p off n).2 = true → s.me.regionFault write (s.me.place p off n).1 n = false)

/-- What a pointer that D dereferences at `off` bytes, in units of `n` bytes, faults with: the first condition of R173 that
holds. -/
def State.PointerFault (s : State) (p : W64) (off : Int) (n cause : Nat) : Prop :=
  let x := p.toNat
  let win := x / 2 ^ 60
  let reserved := (win = 8 ∧ x / 2 ^ 21 % 2 ^ 39 ≠ 0) ∨
    (win = 9 ∧ (x / 2 ^ 57 % 2 ^ 3 ≠ 0 ∨ x / 2 ^ 21 % 2 ^ 27 ≠ 0 ∨ 47 < x / 2 ^ 48 % 2 ^ 6))
  (cause = 0x12 ∧ ((win ≠ 8 ∧ win ≠ 9 ∧ win ≠ 10) ∨ reserved)) ∨ (cause = 0x04 ∧ win = 10) ∨
  (cause = 0x03 ∧ win = 9 ∧ ¬ reserved ∧ x / 2 ^ 48 % 2 ^ 9 ≠ s.focus.tile) ∨
  (cause = 0x02 ∧ s.OwnPointer p ∧ ((x % 2 ^ 21 : Nat) + off) % n ≠ 0)

/-- What a scalar, atomic or image access of `n` bytes faults with at its issue: its pointer's fault, or where it is in
range PERM, in the standby region and, for a store, in the code region (R173, R176). -/
def State.AccessFault (s : State) (p : W64) (off : Int) (n : Nat) (write : Bool) (cause : Nat) : Prop :=
  s.PointerFault p off n cause ∨
  (cause = 0x06 ∧ s.OwnPointer p ∧ ((p.toNat % 2 ^ 21 : Nat) + off) % n = 0 ∧ (s.me.place p off n).2 = true ∧
    s.me.regionFault write (s.me.place p off n).1 n = true)

/-- A D access is added to those to be performed, no earlier than `delay` clk from now (R172, R196). -/
def Tile.accessing (t : Tile) (delay : Nat) (k : DKind) : Tile :=
  { t with dacc := t.dacc ++ [⟨t.dseq, t.depoch, delay, k, t.sd.pc⟩], dseq := t.dseq + 1 }

/-- An access that may be performed now (R196 to R198). -/
def State.MayPerform (s : State) (a : DAcc) : Prop :=
  a.delay = 0 ∧ s.me.frozen = false ∧ s.me.mayPerform a.kind.isStore a.seq a.epoch = true ∧ s.me.accessBad a.kind = false

/-- A global pointer: window and bits 59:48 zero (R215). -/
def GlobalPointer (p : W64) (align : Nat) : Prop := p.toNat < 2 ^ 48 ∧ p.toNat % align = 0

/-- An own pointer at a multiple of 64 (R209, R215). -/
def State.OwnLine (s : State) (p : W64) : Prop := s.OwnPointer p ∧ p.toNat % 64 = 0

/-! ## The matrix engine's operands (R45, R50, R60, R222) -/

/-- Element `k` of row (or column) `i` of the tile in the head slot of a ring, a tile of `rows` rows in a format: its code
and, in a block format, its scale byte are read from the scratchpad, beyond which bytes are zero, and widened. -/
def Tile.ringElem (t : Tile) (ring rows fmt : Nat) (x : Bool) (i k : Nat) : Num :=
  let slot := (t.ring ring).base + 256 * (t.ring ring).size * (t.ring ring).head
  let byte : Nat → Nat := fun a => if a < 0x180000 then (Mem.get t.sp a).toNat else 0
  let w := fmtWidth fmt
  let a := slot + 8 * w * i + k * w / 8
  let code := if w = 4 then byte a / (if k % 2 = 0 then 1 else 16) % 16 else if w = 8 then byte a else byte a + 256 * byte (a + 1)
  let scale := if fmt = 7 ∨ fmt = 8 then byte (slot + 8 * w * rows + 2 * i + k / 32) else 127
  (widenNum fmt x scale code).1

/-! ## Engines (R98, R207, R216) -/

/-- The record at the head of the focus engine, which has not stopped. -/
def State.AtHead (s : State) (i : Instr) (run : Run) : Prop :=
  s.myEng.run = some run ∧ s.myEng.stopped = false ∧ run.instr = some i

/-- A record that has reached the head of the focus engine and passes the checks of its start: a well-formed encoding
of this engine, a stamp for the MX alone, no trip count of zero, and a legal pointer for every memory operand, each
given by its descriptor's number and alignment. -/
def State.Starts (s : State) (i : Instr) (r : Rec) (ops : List (Nat × Nat)) (run : Run) : Prop :=
  s.AtHead i run ∧ run.started = false ∧ i.wellFormed = true ∧ recEngine i = some s.focus.eng ∧
  (s.focus.eng ≠ 0 → r.stamp = 0#40) ∧ 0 ∉ tripCounts r s.me s.focus.eng ∧
  ∀ o ∈ ops, let d := [r.od0, r.od1, r.od2, r.od3].getD o.1 0
    ptrFault s.focus.tile (engineReach s.focus.eng) (s.me.btReg (descBt d)) (descOff d) o.2 = none

/-- A record under way, its base-table pointers, counts, rounding mode and stamp fixed (R216). -/
def Run.resolved (run : Run) (r : Rec) (t : Tile) (eng : Nat) : Run :=
  { run with
    started := true
    bases := [r.od0, r.od1, r.od2, r.od3].map fun d => t.btReg (descBt d)
    trips := tripCounts r t eng
    rm := if r.rm = 7 then run.rm else r.rm
    stamp := r.stamp }

/-- The record of the focus engine as it goes on with its next unit, or retired with its last (R208). -/
def State.unitDone (s : State) (run : Run) (units : Nat) : State :=
  if run.prog + 1 = units then s.retireRecord else s.onRun fun x => { x with prog := x.prog + 1 }

/-- The ops of flow entries by their codes (R102). -/
def flowOps (e : FlowEntry) : List (Nat × Instr) :=
  [(1, .fwd e), (2, .dup e), (3, .sum e), (4, .flowMax e), (5, .flowMin e), (6, .merge e), (7, .flowOr e), (8, .wsum e),
   (9, .scan e), (10, .trn e), (11, .hold e), (12, .deliver e), (13, .fadd e), (14, .iadd e), (15, .drop e)]

/-- Outside `n` bytes from an address, a memory reads as another does. -/
def Mem.sameBut (a n : Nat) (m m' : Mem) : Prop := ∀ x, x < a ∨ a + n ≤ x → Mem.get m' x = Mem.get m x

/-! ## Frames -/

/-- Nothing of the package but the focus tile has changed. -/
def OnlyMe (s t : State) : Prop :=
  t = { s with tiles := t.tiles } ∧ ∀ k, k ≠ s.focus.tile → t.tile k = s.tile k

/-- Nothing of the package but one router has changed. -/
def OnlyRouter (r : Nat) (s t : State) : Prop :=
  t = { s with routers := t.routers } ∧ ∀ k, k ≠ r → t.router k = s.router k

/-! ## Memory (R272) -/

/-- The scratchpad and the shadow store of a tile are in the canonical form. -/
def Tile.memOk (t : Tile) : Prop := t.sp.wf = true ∧ t.shadowStore.wf = true

/-- Every memory of the package, and of the host beside it, is in the canonical form. -/
def MemOk (s : State) : Prop :=
  s.mem0.wf = true ∧ s.mem1.wf = true ∧ s.mem2.wf = true ∧ s.hostMem.wf = true ∧
  (∀ x ∈ s.tiles, x.2.memOk) ∧ ∀ x ∈ s.saves, x.tile.memOk

/-! ## Safe steps -/

/-- A step that ends in a next state: the machine neither stops nor lacks a meaning. -/
def StepsOn (s : State) : Prop := ∃ t, step s = .next t

end Sys2Proof.Machine
end

