-- ==== Sys2Proof/Laws/Issue.lean ====
section
/-! SUPPORT. The issue of an instruction, said once: what it answers for each verdict, and what a result in flight and
the move to the next word make of the focus tile. -/

namespace Sys2Proof.Laws

open Sys2Proof.Machine

/-! ## issue -/

theorem issue_go {s : State} {c : Check} (e : State → State) (h : s.focus.mode = 0) (hc : c = .go) :
    issue s c e = .next (e s) := by
  simp [issue, h, hc]

theorem issue_member {s : State} (c : Check) (e : State → State) (h : s.focus.mode = 1) : issue s c e = .next (e s) := by
  simp [issue, h]

theorem issue_block {s : State} {c : Check} (e : State → State) {w n : Nat} (h : s.focus.mode = 0)
    (hc : c = .block w n) : issue s c e = .next (blockStrand s w n) := by
  simp [issue, h, hc]

theorem issue_fault {s : State} {c : Check} (e : State → State) {cause : Nat} {p : W64} (h : s.focus.mode = 0)
    (hc : c = .fault cause p) : issue s c e = .next (issueFault s cause p) := by
  simp [issue, h, hc]

/-- A probe notes the verdict and changes nothing else. -/
theorem issue_probe {s : State} (c : Check) (e : State → State) (h : s.focus.mode = 2) :
    issue s c e = .next { s with focus := { s.focus with verdict := c.verdict } } := by
  simp [issue, h]

/-- Everything that an issue can do. -/
theorem issue_cases {s t : State} {c : Check} {e : State → State} (h : issue s c e = .next t) :
    (s.focus.mode = 2 ∧ t = { s with focus := { s.focus with verdict := c.verdict } }) ∨ t = e s ∨
    (∃ w n, c = .block w n ∧ t = blockStrand s w n) ∨ ∃ cause p, c = .fault cause p ∧ t = issueFault s cause p := by
  unfold issue at h
  split at h
  · exact .inl ⟨‹_›, by simpa using h.symm⟩
  · split at h
    · exact .inr (.inl (by simpa using h.symm))
    · cases c with
      | go => exact .inr (.inl (by simpa using h.symm))
      | block w n => exact .inr (.inr (.inl ⟨w, n, rfl, by simpa using h.symm⟩))
      | fault cause p => exact .inr (.inr (.inr ⟨cause, p, rfl, by simpa using h.symm⟩))

/-! ## Checks -/

@[simp] theorem and_go (c : Check) : c.and .go = c := by cases c <;> rfl
@[simp] theorem go_and (c : Check) : Check.go.and c = c := rfl
@[simp] theorem and_eq_go {a b : Check} : a.and b = .go ↔ a = .go ∧ b = .go := by
  cases a <;> cases b <;> simp [Check.and]
@[simp] theorem need_eq_go {b : Bool} {c : Nat} {p : W64} : Check.need b c p = .go ↔ b = true := by
  cases b <;> simp [Check.need]
@[simp] theorem wait_eq_go {b : Bool} {w n : Nat} : Check.wait b w n = .go ↔ b = true := by
  cases b <;> simp [Check.wait]

/-! ## The next word -/

theorem withMe_withMe (s : State) (t u : Tile) : (s.withMe t).withMe u = s.withMe u := setTile_setTile s _ t u
@[simp] theorem withMe_focus (s : State) (t : Tile) : (s.withMe t).focus = s.focus := rfl
@[simp] theorem withMe_me (s : State) (t : Tile) : (s.withMe t).me = t := me_setTile s t
theorem onMe_withMe (s : State) (f : Tile → Tile) : s.onMe f = s.withMe (f s.me) := rfl
theorem withMe_onMe (s : State) (t : Tile) (f : Tile → Tile) : (s.withMe t).onMe f = s.withMe (f t) := by
  rw [onMe_withMe, withMe_me, withMe_withMe]

theorem pcNow_eq {s : State} (h : s.focus.shadow = false) : s.pcNow = (s.me.str s.focus.strand).pc := by
  simp [State.pcNow, h]

theorem moveTo_eq {s : State} (h : s.focus.shadow = false) (pc : BitVec 21) (gap : Nat) :
    s.moveTo pc gap = s.withMe (s.me.movedTo s.focus.strand pc gap) := by
  simp only [State.moveTo, h, Bool.false_eq_true, if_false, onMe_withMe]
  congr 1
  cases s.focus.strand <;> rfl

theorem retire_eq {s : State} (h : s.focus.shadow = false) : s.retire = s.withMe (s.me.moved s.focus.strand) := by
  rw [State.retire, moveTo_eq h, pcNow_eq h]; rfl

theorem withMe_retire {s : State} (h : s.focus.shadow = false) (t : Tile) :
    (s.withMe t).retire = s.withMe (t.moved s.focus.strand) := by
  rw [retire_eq (by simpa using h), withMe_me, withMe_withMe, withMe_focus]

theorem result_eq {s : State} (h : s.focus.shadow = false) (sd : BitVec 6) (lat : Nat) (v : W64) (fl : Flags) :
    s.result sd lat v fl = s.withMe (s.me.flying lat (.scalar sd.toNat v) fl 0) := by
  simp [State.result, h]; rfl

theorem fly_eq (s : State) (lat : Nat) (g : Target) (fl : Flags) (u : Nat) :
    s.fly lat g fl u = s.withMe (s.me.flying lat g fl u) := rfl

theorem rs_eq {s : State} (h : s.focus.shadow = false) (r : BitVec 6) : s.rs r = s.src r := by
  simp [State.rs, h, State.src]

theorem taskOnly_eq {s : State} (h : s.focus.shadow = false) (c : Check) : s.taskOnly c = c := by
  simp [State.taskOnly, h]

/-- An instruction with one scalar result (R104, R107). -/
theorem scalarOp_alone {s : State} (h : Alone s .c) (sd : BitVec 6) (lat : Nat) (v : W64) :
    scalarOp s sd lat v = .next (s.withMe ((s.me.flying lat (.scalar sd.toNat v) f0 0).moved .c)) := by
  obtain ⟨hm, hs, hst⟩ := h
  rw [scalarOp, issue_go _ hm rfl, result_eq hs, withMe_retire hs, hst]

end Sys2Proof.Laws
end

