-- ==== Sys2Proof/Laws/Data.lean ====
section
/-! SUPPORT. The accesses of the D strand, said once: which pointers pass the checks, and what an access in the list
leaves. -/

namespace Sys2Proof.Laws

open Sys2Proof.Machine

/-- An own pointer at an aligned address raises no pointer fault (R173). -/
theorem ptrFault_none {s : State} {p : W64} (h : s.OwnPointer p) (r : Reach) {off : Int} {align : Nat}
    (ha : ((p.toNat % 2 ^ 21 : Nat) + off) % align = 0) : ptrFault s.focus.tile r p off align = none := by
  have hp := p.isLt
  have b1 : bits p.toNat 63 60 = p.toNat / 2 ^ 60 := by simp only [bits]; omega
  have b2 : bits p.toNat 20 0 = p.toNat % 2 ^ 21 := by simp [bits]
  obtain ⟨h1, h2⟩ | ⟨h1, h2, h3, h4, h5⟩ := h
  · have hr : ptrReserved p.toNat = false := by
      simp only [ptrReserved, b1, h1]; simp [bits]; omega
    simp only [ptrFault, b1, h1, hr, b2]
    rw [if_neg (by simp), if_neg (by simp), if_neg (by simp), if_neg (by simp), if_neg (by simp), if_neg (by simpa using ha)]
  · have hr : ptrReserved p.toNat = false := by
      simp only [ptrReserved, b1, h1]; simp [bits]; omega
    have b3 : bits p.toNat 53 48 = p.toNat / 2 ^ 48 % 2 ^ 6 := by simp [bits]
    have b4 : bits p.toNat 56 48 = p.toNat / 2 ^ 48 % 2 ^ 9 := by simp [bits]
    simp only [ptrFault, b1, h1, hr, b2, b3, b4, h3]
    rw [if_neg (by omega), if_neg (by simp), if_neg (by simp), if_neg (by simpa using h4), if_neg (by simp),
      if_neg (by simpa using ha)]

theorem ptrCheck_go {s : State} {p : W64} (h : s.OwnPointer p) (r : Reach) {off : Int} {align : Nat}
    (ha : ((p.toNat % 2 ^ 21 : Nat) + off) % align = 0) : ptrCheck s.focus.tile r p off align = .go := by
  rw [ptrCheck, ptrFault_none h r ha]

/-- An access that may be made passes the checks of its issue (R173, R176). -/
theorem accessCheck_go {s : State} {p : W64} {off : Int} {n : Nat} {w : Bool} (h : s.MayAccess p off n w) :
    s.accessCheck p off n n w = .go := by
  obtain ⟨h1, h2, h3⟩ := h
  simp only [State.accessCheck, and_eq_go, ptrCheck_go h1 _ h2, need_eq_go, true_and, Bool.or_eq_true,
    Bool.not_eq_true']
  cases hp : (s.me.place p off n).2 with
  | false => exact .inl rfl
  | true => exact .inr (h3 hp)

/-- Little-endian reading, byte by byte. -/
theorem readN_eq (m : Mem) (a n : Nat) : Mem.readN m a n = natOfBytes (Mem.readBytes m a n) := by
  induction n generalizing a with
  | zero => rfl
  | succ n ih => simp [Mem.readN, Mem.readBytes, natOfBytes, ih]

theorem bytesOf_length (n v : Nat) : (bytesOf n v).length = n := by
  induction n generalizing v with
  | zero => rfl
  | succ n ih => simp [bytesOf, ih]

theorem bytesOf_getElem (n v i : Nat) (h : i < (bytesOf n v).length) :
    (bytesOf n v)[i] = BitVec.ofNat 8 (v / 256 ^ i) := by
  induction n generalizing v i with
  | zero => simp [bytesOf] at h
  | succ n ih =>
    cases i with
    | zero => simp [bytesOf]
    | succ i =>
      simp only [bytesOf, List.getElem_cons_succ]
      rw [ih, Nat.div_div_eq_div_mul, Nat.pow_succ, Nat.mul_comm]

/-- The access that the focus names, where it may be performed, is performed (R172, R197, R198). -/
theorem dAccessPerform_eq {s : State} {a : DAcc} (h : s.me.dacc.find? (fun x => x.seq == s.focus.idx) = some a)
    (hk : ∀ st addr ok, a.kind ≠ .imageLoad st addr ok) (hp : s.MayPerform a) :
    execDAccessPerform s = .next (s.withMe (s.me.perform s.dcc s.focus.tile a)) := by
  obtain ⟨h1, h2, h3, h4⟩ := hp
  simp only [execDAccessPerform, h]
  cases hkind : a.kind with
  | imageLoad st addr ok => exact absurd hkind (hk st addr ok)
  | _ => simp only [hkind] at h3 h4; simp [h1, h2, h3, h4, onMe_withMe]

/-! ## What the D strand sees (R201, R212, R285) -/

/-- D's view differs from the tile in the scratchpad alone. -/
theorem seen_frame (t : Tile) (dcc : Nat) : t.seen dcc = { t with sp := (t.seen dcc).sp } := rfl

/-- With no word hidden any more, D sees the scratchpad as it stands. -/
theorem seen_eq {t : Tile} {dcc : Nat} (h : ∀ u ∈ t.unseen, u.till ≤ dcc) : t.seen dcc = t := by
  have go : ∀ (l : List Unseen) (m : Mem), (∀ u ∈ l, u.till ≤ dcc) →
      l.foldl (fun m u => if dcc < u.till then Mem.writeN m (4 * u.word) 4 u.old else m) m = m := by
    intro l
    induction l with
    | nil => intro m _; rfl
    | cons u l ih =>
      intro m g
      have hu := g u (by simp)
      simp only [List.foldl_cons, if_neg (by omega : ¬ dcc < u.till)]
      exact ih m fun x hx => g x (by simp [hx])
  unfold Tile.seen
  rw [go _ _ h]

/-- An acquire ends the hiding of some words and does nothing else. -/
theorem acquire_frame (t : Tile) : ∃ l, t.acquire = { t with unseen := l } ∧ ∀ u ∈ l, u ∈ t.unseen :=
  ⟨_, rfl, fun _ h => (List.mem_filter.mp h).1⟩

/-- What a strand has observed of an engine never falls back (R212). -/
theorem observe_reached (t : Tile) (eng : Nat) (c : W32) :
    csnReached ((SMap.find (t.observe eng c).observed eng).getD 0) c = true := by
  unfold Tile.observe
  split
  · assumption
  · simp [csnReached]

end Sys2Proof.Laws
end

