-- ==== Sys2Proof/Laws/Faults.lean ====
section
/-! SUPPORT. Taking a terminal fault (R343, R347 to R350, R352), said once. -/

namespace Sys2Proof.Laws

open Sys2Proof.Machine

/-- A bit of a number, as `Nat.testBit` reads it. -/
theorem bitAt_testBit (w i : Nat) : bitAt w i = w.testBit i := by
  rw [bitAt, Nat.testBit, Nat.shiftRight_eq_div_pow, Nat.one_and_eq_mod_two]
  rcases Nat.mod_two_eq_zero_or_one (w / 2 ^ i) with h | h <;> simp [h]

/-- A partition's first fault: HALTS is set, and the line will reach each die 2 to 16 clk later. -/
theorem raiseHalt_first {s : State} {p cause : Nat} (src id : Nat) (hc : cause ≠ cECC)
    (hH : (s.part p).halts.toNat.testBit 63 = false) :
    ∃ a b, 2 ≤ a ∧ a ≤ 16 ∧ 2 ≤ b ∧ b ≤ 16 ∧ raiseHalt s p cause src id =
      { s with
        parts := SMap.put s.parts p { s.part p with
          halts := haltsWord cause src id s.dcc, halt := some ⟨0, a, b, false, false⟩ }
        free := s.free + 2 } := by
  refine ⟨2 + Config.freeNat s.free % 15, 2 + Config.freeNat (s.free + 1) % 15, by omega, by omega, by omega, by omega, ?_⟩
  have hb : bitAt (s.part p).halts.toNat 63 = false := by rw [bitAt_testBit, hH]
  simp [raiseHalt, hc, hb, State.freeNat, State.setPart]

/-- A later fault whose source does not come before the recorded one changes nothing. -/
theorem raiseHalt_later {s : State} {p cause src id : Nat} (hc : cause ≠ cECC)
    (hH : (s.part p).halts.toNat.testBit 63 = true) (ha : (s.part p).halt.map (·.age) ≠ some 0) :
    raiseHalt s p cause src id = s := by
  have hb : bitAt (s.part p).halts.toNat 63 = true := by rw [bitAt_testBit, hH]
  simp [raiseHalt, hc, hb, ha]

/-- A unit's fault where it is the partition's first and the unit has none: the stop information is kept and the line
is raised. -/
theorem unitFault_first {s : State} {tid unit cause xr : Nat} {pc : BitVec 21} {aux : BitVec 320} (hc : cause ≠ cECC)
    (hs : SMap.find (s.tile tid).stops unit = none)
    (hH : (s.part (s.tile tid).partition).halts.toNat.testBit 63 = false) :
    ∃ a b, 2 ≤ a ∧ a ≤ 16 ∧ 2 ≤ b ∧ b ≤ 16 ∧ unitFault s tid unit cause xr pc aux =
      { s with
        tiles := SMap.put s.tiles tid { s.tile tid with
          stops := SMap.put (s.tile tid).stops unit
            ⟨true, false, cause, xr, s.dcc, pc, if unit = 0 then aux ||| s.clockBits tid else aux, false⟩ }
        parts := SMap.put s.parts (s.tile tid).partition { s.part (s.tile tid).partition with
          halts := haltsWord cause unit tid s.dcc, halt := some ⟨0, a, b, false, false⟩ }
        free := s.free + 2 } := by
  have := raiseHalt_first (s := s.setTile tid { s.tile tid with
    stops := SMap.put (s.tile tid).stops unit
      ⟨true, false, cause, xr, s.dcc, pc, if unit = 0 then aux ||| s.clockBits tid else aux, false⟩ }) unit tid hc
    (p := (s.tile tid).partition) hH
  obtain ⟨a, b, ha, ha', hb, hb', h⟩ := this
  refine ⟨a, b, ha, ha', hb, hb', ?_⟩
  have e : ∀ x, unitFault s tid unit cause xr pc aux = x ↔ raiseHalt (s.setTile tid { s.tile tid with
    stops := SMap.put (s.tile tid).stops unit
      ⟨true, false, cause, xr, s.dcc, pc, if unit = 0 then aux ||| s.clockBits tid else aux, false⟩ })
    (s.tile tid).partition cause unit tid = x := by
    intro x
    rw [unitFault]
    simp only [hs, Option.map_none, Option.getD_none, Bool.false_eq_true, if_false]
  rw [e]
  exact h

/-- HALTS holds its H bit whatever else it says (R350). -/
theorem haltsWord_H (cause src id dcc : Nat) : (haltsWord cause src id dcc).toNat.testBit 63 = true := by
  have : (haltsWord cause src id dcc).toNat / 2 ^ 63 = 1 := by rw [haltsWord, BitVec.toNat_ofNat]; omega
  rw [Nat.testBit, Nat.shiftRight_eq_div_pow, this]; rfl

/-- All that a fault can do to its partition: the halt line stands raised, no other partition has changed, and nothing of
the package but the field records and the count of free values. -/
theorem raiseHalt_does (s : State) (p cause src id : Nat) :
    let t := raiseHalt s p cause src id
    t = { s with parts := t.parts, records := t.records, free := t.free } ∧
      (t.part p).halts.toNat.testBit 63 = true ∧ ∀ q, q ≠ p → t.part q = s.part q := by
  have h0 : ∀ u : State, u.parts = s.parts → (∀ q, u.part q = s.part q) := by
    intro u hu q; simp [State.part, hu]
  intro t
  by_cases hc : cause = cECC
  all_goals
    simp only [t, raiseHalt, hc, if_true, if_false, bitAt_testBit]
    split
    · refine ⟨rfl, ?_, fun q hq => ?_⟩
      · simp [State.part, State.setPart, State.freeNat, haltsWord_H]
      · simp [State.part, State.setPart, State.freeNat, State.countRecord, find_put_ne _ _ hq]
    · rename_i h
      split
      · refine ⟨rfl, ?_, fun q hq => ?_⟩
        · simp [State.part, State.setPart, haltsWord_H]
        · simp [State.part, State.setPart, State.countRecord, find_put_ne _ _ hq]
      · exact ⟨rfl, by simpa using h, fun q _ => rfl⟩

/-- A strand's fault at its instruction, where it has taken none: the terminal fault of R72. -/
theorem strandFault_faultsAt {s : State} (cause : Nat) (ptr : W64) (hu : s.unfaulted) :
    FaultsAt s (.next (strandFault s s.focus.tile s.focus.strand cause ptr)) cause := by
  have hown : ((SMap.find (s.tile s.focus.tile).stops s.focus.strand.code).map (·.own)).getD false = false := by
    cases h : SMap.find (s.tile s.focus.tile).stops s.focus.strand.code with
    | none => rfl
    | some r => exact hu r h
  rw [strandFault]
  simp only [unitFault, hown, Bool.false_eq_true, if_false]
  generalize hi : StopInfo.mk true false cause 0 s.dcc ((s.tile s.focus.tile).str s.focus.strand).pc _ false = info
  obtain ⟨h1, h2, h3⟩ := raiseHalt_does (s.setTile s.focus.tile { s.tile s.focus.tile with
    stops := SMap.put (s.tile s.focus.tile).stops s.focus.strand.code info }) (s.tile s.focus.tile).partition cause
    s.focus.strand.code s.focus.tile
  generalize raiseHalt _ _ _ _ _ = u at h1 h2 h3 ⊢
  have hme : u.tile s.focus.tile = { s.tile s.focus.tile with
      stops := SMap.put (s.tile s.focus.tile).stops s.focus.strand.code info } := by
    rw [h1]; exact tile_setTile _ _ _
  have hne : ∀ k, k ≠ s.focus.tile → u.tile k = s.tile k := by
    intro k hk; rw [h1]; exact tile_setTile_ne _ _ hk
  have hf : u.focus = s.focus := by rw [h1]; rfl
  have hstop : (stopStrand u s.focus.tile s.focus.strand).me = { (s.me.onStr s.focus.strand fun x =>
      { x with waiting := false, faulted := true }) with
      stops := SMap.put (s.tile s.focus.tile).stops s.focus.strand.code info } := by
    simp only [stopStrand, State.onTile, State.me, hf, State.setTile, State.tile]
    have hme' := hme
    simp only [State.tile] at hme'
    simp only [find_put, Option.getD_some]
    rw [hme']
    cases s.focus.strand <;> rfl
  refine ⟨_, info, rfl, ?_, by rw [← hi], by rw [← hi], by rw [← hi]; rfl, ?_, ?_, ?_, ?_, ?_⟩
  · rw [hstop]; exact find_put _ _ _
  · rw [hstop]
  · exact h2
  · rw [h1]; rfl
  · intro k hk
    simp only [stopStrand, State.onTile]
    rw [tile_setTile_ne _ _ hk, hne k hk]
  · intro q hq; exact h3 q hq

/-- An instruction whose check fails takes the terminal fault of its strand. -/
theorem issue_faultsAt {s : State} {c : Check} {cause : Nat} {p : W64} (e : State → State) (hm : s.focus.mode = 0)
    (hs : s.focus.shadow = false) (hu : s.unfaulted) (hc : c = .fault cause p) : FaultsAt s (issue s c e) cause := by
  rw [issue_fault e hm hc, issueFault, if_neg (by simp [hs])]
  exact strandFault_faultsAt cause p hu

/-- An instruction whose check blocks leaves its strand waiting. -/
theorem issue_waitsAt {s : State} {c : Check} {w n : Nat} (e : State → State) (hm : s.focus.mode = 0)
    (hc : c = .block w n) : WaitsAt s (issue s c e) w n := by
  rw [issue_block e hm hc]; rfl

end Sys2Proof.Laws
end

