-- ==== Sys2Proof/Laws/Decode.lean ====
section
/-! SUPPORT. Fields of encoded words: a word of each format gives its fields back, and each map reads the instruction
that OP names. The round trip of every instruction (Laws/PerInstr.lean) rests on these. -/

namespace Sys2Proof.Laws

theorem b2n_lt (b : Bool) : b2n b < 2 := by cases b <;> decide

/-- A Boolean field is the bit it was written to. -/
theorem bitAt_of {w i : Nat} {b : Bool} (h : w / 2 ^ i % 2 = b2n b) : bitAt w i = b := by
  unfold bitAt; rw [h]; cases b <;> rfl

/-- A one-bit field read as a number and as a Boolean. -/
theorem bitAt_bits {w i : Nat} {b : Bool} (h : bits w i i = b2n b) : bitAt w i = b := by
  refine bitAt_of ?_
  have : bits w i i = w / 2 ^ i % 2 := by simp [bits]
  omega

/-- A field of k bits as a bit vector again. -/
theorem ofNat_of {k n : Nat} {v : BitVec k} (h : n = v.toNat) : BitVec.ofNat k n = v := by
  subst h; simp

/-- S and D of a slot word (R70). -/
theorem slotWord_sync {s : Bool} {d : BitVec 3} {n : Nat} (h : n < 2 ^ 60) : bitAt (slotWord s d n) 63 = s := by
  refine bitAt_of ?_
  have := b2n_lt s; have := d.isLt
  simp only [slotWord]; omega

theorem slotWord_delay {s : Bool} {d : BitVec 3} {n : Nat} (h : n < 2 ^ 60) :
    BitVec.ofNat 3 (bits (slotWord s d n) 62 60) = d := by
  refine ofNat_of ?_
  have := b2n_lt s; have := d.isLt
  simp only [slotWord, bits]; omega

/-- A word is accepted when its map reads a well-formed instruction whose encoding it is (R72). -/
theorem decodeSlot_ok {st : Strand} {i : Instr} {s : Bool} {d : BitVec 3} {n : Nat} (he : encOps st i = some n)
    (hn : n < 2 ^ 60) (hd : decOps st (slotWord s d n) = some i) (hw : i.wellFormed = true) :
    decodeSlot st (slotWord s d n) = .ok ⟨s, d, i⟩ := by
  have hs : encodeSlot st ⟨s, d, i⟩ = some (slotWord s d n) := by simp [encodeSlot, he]
  simp [decodeSlot, hd, hw, slotWord_sync hn, slotWord_delay hn, hs]

/-- The fields of a word of format CR. -/
theorem fCR_fields {op mod sd sa sb sc : Nat} {sy : Bool} {d : BitVec 3} (ho : op < 128) (hm : mod < 32) (h0 : sd < 2 ^ 6) (h1 : sa < 2 ^ 6) (h2 : sb < 2 ^ 6) (h3 : sc < 2 ^ 6) :
    fCR op mod sd sa sb sc < 2 ^ 60 ∧
    bits (slotWord sy d (fCR op mod sd sa sb sc)) 59 53 = op ∧
    bits (slotWord sy d (fCR op mod sd sa sb sc)) 52 48 = mod ∧
    bits (slotWord sy d (fCR op mod sd sa sb sc)) 47 42 = sd ∧
    bits (slotWord sy d (fCR op mod sd sa sb sc)) 41 36 = sa ∧
    bits (slotWord sy d (fCR op mod sd sa sb sc)) 35 30 = sb ∧
    bits (slotWord sy d (fCR op mod sd sa sb sc)) 29 24 = sc := by
  have := b2n_lt sy; have := d.isLt
  refine ⟨?_, ?_, ?_, ?_, ?_, ?_, ?_⟩ <;> simp only [slotWord, fCR, wOp, bits] <;> omega

/-- The fields of a word of format CI. -/
theorem fCI_fields {op mod sd sa imm : Nat} {sy : Bool} {d : BitVec 3} (ho : op < 128) (hm : mod < 32) (h0 : sd < 2 ^ 6) (h1 : sa < 2 ^ 6) (h2 : imm < 2 ^ 32) :
    fCI op mod sd sa imm < 2 ^ 60 ∧
    bits (slotWord sy d (fCI op mod sd sa imm)) 59 53 = op ∧
    bits (slotWord sy d (fCI op mod sd sa imm)) 52 48 = mod ∧
    bits (slotWord sy d (fCI op mod sd sa imm)) 47 42 = sd ∧
    bits (slotWord sy d (fCI op mod sd sa imm)) 41 36 = sa ∧
    bits (slotWord sy d (fCI op mod sd sa imm)) 31 0 = imm := by
  have := b2n_lt sy; have := d.isLt
  refine ⟨?_, ?_, ?_, ?_, ?_, ?_⟩ <;> simp only [slotWord, fCI, wOp, bits] <;> omega

/-- The fields of a word of format CB. -/
theorem fCB_fields {op mod sa sb sd off : Nat} {sy : Bool} {d : BitVec 3} (ho : op < 128) (hm : mod < 32) (h0 : sa < 2 ^ 6) (h1 : sb < 2 ^ 6) (h2 : sd < 2 ^ 6) (h3 : off < 2 ^ 21) :
    fCB op mod sa sb sd off < 2 ^ 60 ∧
    bits (slotWord sy d (fCB op mod sa sb sd off)) 59 53 = op ∧
    bits (slotWord sy d (fCB op mod sa sb sd off)) 52 48 = mod ∧
    bits (slotWord sy d (fCB op mod sa sb sd off)) 47 42 = sa ∧
    bits (slotWord sy d (fCB op mod sa sb sd off)) 41 36 = sb ∧
    bits (slotWord sy d (fCB op mod sa sb sd off)) 35 30 = sd ∧
    bits (slotWord sy d (fCB op mod sa sb sd off)) 20 0 = off := by
  have := b2n_lt sy; have := d.isLt
  refine ⟨?_, ?_, ?_, ?_, ?_, ?_, ?_⟩ <;> simp only [slotWord, fCB, wOp, bits] <;> omega

/-- The fields of a word of format CQ. -/
theorem fCQ_fields {op mod s n : Nat} {sy : Bool} {d : BitVec 3} (ho : op < 128) (hm : mod < 32) (h0 : s < 2 ^ 6) (h1 : n < 2 ^ 4) :
    fCQ op mod s n < 2 ^ 60 ∧
    bits (slotWord sy d (fCQ op mod s n)) 59 53 = op ∧
    bits (slotWord sy d (fCQ op mod s n)) 52 48 = mod ∧
    bits (slotWord sy d (fCQ op mod s n)) 47 42 = s ∧
    bits (slotWord sy d (fCQ op mod s n)) 41 38 = n := by
  have := b2n_lt sy; have := d.isLt
  refine ⟨?_, ?_, ?_, ?_, ?_⟩ <;> simp only [slotWord, fCQ, wOp, bits] <;> omega

/-- The fields of a word of format CX. -/
theorem fCX_fields {op mod sd sa idx imm : Nat} {sy : Bool} {d : BitVec 3} (ho : op < 128) (hm : mod < 32) (h0 : sd < 2 ^ 6) (h1 : sa < 2 ^ 6) (h2 : idx < 2 ^ 12) (h3 : imm < 2 ^ 24) :
    fCX op mod sd sa idx imm < 2 ^ 60 ∧
    bits (slotWord sy d (fCX op mod sd sa idx imm)) 59 53 = op ∧
    bits (slotWord sy d (fCX op mod sd sa idx imm)) 52 48 = mod ∧
    bits (slotWord sy d (fCX op mod sd sa idx imm)) 47 42 = sd ∧
    bits (slotWord sy d (fCX op mod sd sa idx imm)) 41 36 = sa ∧
    bits (slotWord sy d (fCX op mod sd sa idx imm)) 35 24 = idx ∧
    bits (slotWord sy d (fCX op mod sd sa idx imm)) 23 0 = imm := by
  have := b2n_lt sy; have := d.isLt
  refine ⟨?_, ?_, ?_, ?_, ?_, ?_, ?_⟩ <;> simp only [slotWord, fCX, wOp, bits] <;> omega

/-- The fields of a word of format J. -/
theorem fJ_fields {op mod off : Nat} {sy : Bool} {d : BitVec 3} (ho : op < 128) (hm : mod < 32) (h0 : off < 2 ^ 21) :
    fJ op mod off < 2 ^ 60 ∧
    bits (slotWord sy d (fJ op mod off)) 59 53 = op ∧
    bits (slotWord sy d (fJ op mod off)) 52 48 = mod ∧
    bits (slotWord sy d (fJ op mod off)) 20 0 = off := by
  have := b2n_lt sy; have := d.isLt
  refine ⟨?_, ?_, ?_, ?_⟩ <;> simp only [slotWord, fJ, wOp, bits] <;> omega

/-- The fields of a word of format VB. -/
theorem fVB_fields {op mod pattern cnt kp : Nat} {sy : Bool} {d : BitVec 3} (ho : op < 128) (hm : mod < 32) (h0 : pattern < 2 ^ 8) (h1 : cnt < 2 ^ 3) (h2 : kp < 2 ^ 5) :
    fVB op mod pattern cnt kp < 2 ^ 60 ∧
    bits (slotWord sy d (fVB op mod pattern cnt kp)) 59 53 = op ∧
    bits (slotWord sy d (fVB op mod pattern cnt kp)) 52 48 = mod ∧
    bits (slotWord sy d (fVB op mod pattern cnt kp)) 47 40 = pattern ∧
    bits (slotWord sy d (fVB op mod pattern cnt kp)) 39 37 = cnt ∧
    bits (slotWord sy d (fVB op mod pattern cnt kp)) 36 32 = kp := by
  have := b2n_lt sy; have := d.isLt
  refine ⟨?_, ?_, ?_, ?_, ?_, ?_⟩ <;> simp only [slotWord, fVB, wOp, bits] <;> omega

/-- The fields of a word of format DS. -/
theorem fDS_fields {op mod st fld sa imm : Nat} {sy : Bool} {d : BitVec 3} (ho : op < 128) (hm : mod < 32) (h0 : st < 2 ^ 4) (h1 : fld < 2 ^ 4) (h2 : sa < 2 ^ 6) (h3 : imm < 2 ^ 16) :
    fDS op mod st fld sa imm < 2 ^ 60 ∧
    bits (slotWord sy d (fDS op mod st fld sa imm)) 59 53 = op ∧
    bits (slotWord sy d (fDS op mod st fld sa imm)) 52 48 = mod ∧
    bits (slotWord sy d (fDS op mod st fld sa imm)) 47 44 = st ∧
    bits (slotWord sy d (fDS op mod st fld sa imm)) 43 40 = fld ∧
    bits (slotWord sy d (fDS op mod st fld sa imm)) 39 34 = sa ∧
    bits (slotWord sy d (fDS op mod st fld sa imm)) 15 0 = imm := by
  have := b2n_lt sy; have := d.isLt
  refine ⟨?_, ?_, ?_, ?_, ?_, ?_, ?_⟩ <;> simp only [slotWord, fDS, wOp, bits] <;> omega

/-- The fields of a word of format DM. -/
theorem fDM_fields {op mod sa sb sc qs off : Nat} {sy : Bool} {d : BitVec 3} (ho : op < 128) (hm : mod < 32) (h0 : sa < 2 ^ 6) (h1 : sb < 2 ^ 6) (h2 : sc < 2 ^ 6) (h3 : qs < 2 ^ 1) (h4 : off < 2 ^ 16) :
    fDM op mod sa sb sc qs off < 2 ^ 60 ∧
    bits (slotWord sy d (fDM op mod sa sb sc qs off)) 59 53 = op ∧
    bits (slotWord sy d (fDM op mod sa sb sc qs off)) 52 48 = mod ∧
    bits (slotWord sy d (fDM op mod sa sb sc qs off)) 47 42 = sa ∧
    bits (slotWord sy d (fDM op mod sa sb sc qs off)) 41 36 = sb ∧
    bits (slotWord sy d (fDM op mod sa sb sc qs off)) 35 30 = sc ∧
    bits (slotWord sy d (fDM op mod sa sb sc qs off)) 29 29 = qs ∧
    bits (slotWord sy d (fDM op mod sa sb sc qs off)) 15 0 = off := by
  have := b2n_lt sy; have := d.isLt
  refine ⟨?_, ?_, ?_, ?_, ?_, ?_, ?_, ?_⟩ <;> simp only [slotWord, fDM, wOp, bits] <;> omega

/-- The fields of a word of format DR. -/
theorem fDR_fields {op mod rg fld sa qs : Nat} {sy : Bool} {d : BitVec 3} (ho : op < 128) (hm : mod < 32) (h0 : rg < 2 ^ 3) (h1 : fld < 2 ^ 5) (h2 : sa < 2 ^ 6) (h3 : qs < 2 ^ 1) :
    fDR op mod rg fld sa qs < 2 ^ 60 ∧
    bits (slotWord sy d (fDR op mod rg fld sa qs)) 59 53 = op ∧
    bits (slotWord sy d (fDR op mod rg fld sa qs)) 52 48 = mod ∧
    bits (slotWord sy d (fDR op mod rg fld sa qs)) 47 45 = rg ∧
    bits (slotWord sy d (fDR op mod rg fld sa qs)) 44 40 = fld ∧
    bits (slotWord sy d (fDR op mod rg fld sa qs)) 39 34 = sa ∧
    bits (slotWord sy d (fDR op mod rg fld sa qs)) 33 33 = qs := by
  have := b2n_lt sy; have := d.isLt
  refine ⟨?_, ?_, ?_, ?_, ?_, ?_, ?_⟩ <;> simp only [slotWord, fDR, wOp, bits] <;> omega

/-- The fields of a word of format EP. -/
theorem fEP_fields {op mod eng sa : Nat} {sy : Bool} {d : BitVec 3} (ho : op < 128) (hm : mod < 32) (h0 : eng < 2 ^ 2) (h1 : sa < 2 ^ 6) :
    fEP op mod eng sa < 2 ^ 60 ∧
    bits (slotWord sy d (fEP op mod eng sa)) 59 53 = op ∧
    bits (slotWord sy d (fEP op mod eng sa)) 52 48 = mod ∧
    bits (slotWord sy d (fEP op mod eng sa)) 47 46 = eng ∧
    bits (slotWord sy d (fEP op mod eng sa)) 45 40 = sa := by
  have := b2n_lt sy; have := d.isLt
  refine ⟨?_, ?_, ?_, ?_, ?_⟩ <;> simp only [slotWord, fEP, wOp, bits] <;> omega

/-- The fields of a word of format EF. -/
theorem fEF_fields {op mod fid sa sb fc : Nat} {sy : Bool} {d : BitVec 3} (ho : op < 128) (hm : mod < 32) (h0 : fid < 2 ^ 20) (h1 : sa < 2 ^ 6) (h2 : sb < 2 ^ 6) (h3 : fc < 2 ^ 5) :
    fEF op mod fid sa sb fc < 2 ^ 60 ∧
    bits (slotWord sy d (fEF op mod fid sa sb fc)) 59 53 = op ∧
    bits (slotWord sy d (fEF op mod fid sa sb fc)) 52 48 = mod ∧
    bits (slotWord sy d (fEF op mod fid sa sb fc)) 47 28 = fid ∧
    bits (slotWord sy d (fEF op mod fid sa sb fc)) 27 22 = sa ∧
    bits (slotWord sy d (fEF op mod fid sa sb fc)) 21 16 = sb ∧
    bits (slotWord sy d (fEF op mod fid sa sb fc)) 15 11 = fc := by
  have := b2n_lt sy; have := d.isLt
  refine ⟨?_, ?_, ?_, ?_, ?_, ?_, ?_⟩ <;> simp only [slotWord, fEF, wOp, bits] <;> omega

/-- The fields of a word of format EQ. -/
theorem fEQ_fields {op mod sa sb sc fc : Nat} {sy : Bool} {d : BitVec 3} (ho : op < 128) (hm : mod < 32) (h0 : sa < 2 ^ 6) (h1 : sb < 2 ^ 6) (h2 : sc < 2 ^ 6) (h3 : fc < 2 ^ 5) :
    fEQ op mod sa sb sc fc < 2 ^ 60 ∧
    bits (slotWord sy d (fEQ op mod sa sb sc fc)) 59 53 = op ∧
    bits (slotWord sy d (fEQ op mod sa sb sc fc)) 52 48 = mod ∧
    bits (slotWord sy d (fEQ op mod sa sb sc fc)) 47 42 = sa ∧
    bits (slotWord sy d (fEQ op mod sa sb sc fc)) 41 36 = sb ∧
    bits (slotWord sy d (fEQ op mod sa sb sc fc)) 35 30 = sc ∧
    bits (slotWord sy d (fEQ op mod sa sb sc fc)) 29 25 = fc := by
  have := b2n_lt sy; have := d.isLt
  refine ⟨?_, ?_, ?_, ?_, ?_, ?_, ?_⟩ <;> simp only [slotWord, fEQ, wOp, bits] <;> omega

/-- The fields of a word of format VR. -/
theorem fVR_fields {op mod ty : Nat} {o : VOps} {sy : Bool} {d : BitVec 3} (ho : op < 128) (hm : mod < 32) (ht : ty < 256) :
    fVR op mod o ty < 2 ^ 60 ∧
    bits (slotWord sy d (fVR op mod o ty)) 59 53 = op ∧
    bits (slotWord sy d (fVR op mod o ty)) 52 48 = mod ∧
    bits (slotWord sy d (fVR op mod o ty)) 7 0 = ty ∧
    decVR (slotWord sy d (fVR op mod o ty)) = o := by
  obtain ⟨vd, va, vb, vc, kg, kn, ss⟩ := o
  have := b2n_lt sy; have := d.isLt; have := b2n_lt kn
  have := vd.isLt; have := va.isLt; have := vb.isLt; have := vc.isLt; have := kg.isLt; have := ss.isLt
  refine ⟨?_, ?_, ?_, ?_, ?_⟩
  all_goals try (simp only [slotWord, fVR, wOp, bits]; omega)
  simp only [decVR, VOps.mk.injEq]
  refine ⟨ofNat_of ?_, ofNat_of ?_, ofNat_of ?_, ofNat_of ?_, ofNat_of ?_, bitAt_of ?_, ofNat_of ?_⟩
  all_goals simp only [slotWord, fVR, wOp, bits]; omega

/-- The fields of a word of format VP. -/
theorem fVP_fields {op mod : Nat} {o : VPOps} {sy : Bool} {d : BitVec 3} (ho : op < 128) (hm : mod < 32) :
    fVP op mod o < 2 ^ 60 ∧
    bits (slotWord sy d (fVP op mod o)) 59 53 = op ∧
    bits (slotWord sy d (fVP op mod o)) 52 48 = mod ∧
    decVP (slotWord sy d (fVP op mod o)) = o := by
  obtain ⟨kd, ka, kb, va, vb, kg, kn, ss, fs, lt⟩ := o
  have := b2n_lt sy; have := d.isLt; have := b2n_lt kn
  have := kd.isLt; have := ka.isLt; have := kb.isLt; have := va.isLt; have := vb.isLt; have := kg.isLt; have := ss.isLt; have := fs.isLt; have := lt.isLt
  refine ⟨?_, ?_, ?_, ?_⟩
  all_goals try (simp only [slotWord, fVP, wOp, bits]; omega)
  simp only [decVP, VPOps.mk.injEq]
  refine ⟨ofNat_of ?_, ofNat_of ?_, ofNat_of ?_, ofNat_of ?_, ofNat_of ?_, ofNat_of ?_, bitAt_of ?_, ofNat_of ?_, ofNat_of ?_, ofNat_of ?_⟩
  all_goals simp only [slotWord, fVP, wOp, bits]; omega

/-- The fields of a word of format VA. -/
theorem fVA_fields {op mod : Nat} {o : VAOps} {sy : Bool} {d : BitVec 3} (ho : op < 128) (hm : mod < 32) :
    fVA op mod o < 2 ^ 60 ∧
    bits (slotWord sy d (fVA op mod o)) 59 53 = op ∧
    bits (slotWord sy d (fVA op mod o)) 52 48 = mod ∧
    decVA (slotWord sy d (fVA op mod o)) = o := by
  obtain ⟨v, acc, si, kg, kn, ss⟩ := o
  have := b2n_lt sy; have := d.isLt; have := b2n_lt kn
  have := v.isLt; have := acc.isLt; have := si.isLt; have := kg.isLt; have := ss.isLt
  refine ⟨?_, ?_, ?_, ?_⟩
  all_goals try (simp only [slotWord, fVA, wOp, bits]; omega)
  simp only [decVA, VAOps.mk.injEq]
  refine ⟨ofNat_of ?_, ofNat_of ?_, ofNat_of ?_, ofNat_of ?_, bitAt_of ?_, ofNat_of ?_⟩
  all_goals simp only [slotWord, fVA, wOp, bits]; omega

/-- The fields of a record. -/
theorem encRec_fields {op : Nat} {r : Rec} (ho : op < 256) : bits (encRec op r) 7 0 = op ∧ decRec (encRec op r) = r := by
  obtain ⟨od0, od1, od2, od3, trip0, trip1, trip2, trip3, stamp, fmt0, fmt1, fmt2, fmt3, fl, rsv⟩ := r
  have := od0.isLt; have := od1.isLt; have := od2.isLt; have := od3.isLt; have := trip0.isLt; have := trip1.isLt; have := trip2.isLt; have := trip3.isLt; have := stamp.isLt; have := fmt0.isLt; have := fmt1.isLt; have := fmt2.isLt; have := fmt3.isLt; have := fl.isLt; have := rsv.isLt
  refine ⟨by simp only [encRec, bits]; omega, ?_⟩
  simp only [decRec, Rec.mk.injEq]
  refine ⟨ofNat_of ?_, ofNat_of ?_, ofNat_of ?_, ofNat_of ?_, ofNat_of ?_, ofNat_of ?_, ofNat_of ?_, ofNat_of ?_, ofNat_of ?_, ofNat_of ?_, ofNat_of ?_, ofNat_of ?_, ofNat_of ?_, ofNat_of ?_, ofNat_of ?_⟩
  all_goals simp only [encRec, bits]; omega

/-- The fields of a flow entry. -/
theorem encFlow_fields {op : Nat} {r : FlowEntry} (ho : op < 256) : bits (encFlow op r) 31 24 = op ∧ decFlow (encFlow op r) = r := by
  obtain ⟨rsvHi, aux, fc, daddr, dwin, npkt, nslot, slot, nfid, ren, opm, ord, ipm, rsv, drv, fmt, v, part, fid⟩ := r
  have := rsvHi.isLt; have := aux.isLt; have := fc.isLt; have := daddr.isLt; have := dwin.isLt; have := npkt.isLt; have := nslot.isLt; have := slot.isLt; have := nfid.isLt; have := b2n_lt ren; have := opm.isLt; have := ord.isLt; have := ipm.isLt; have := rsv.isLt; have := b2n_lt drv; have := fmt.isLt; have := b2n_lt v; have := part.isLt; have := fid.isLt
  refine ⟨by simp only [encFlow, bits]; omega, ?_⟩
  simp only [decFlow, FlowEntry.mk.injEq]
  refine ⟨ofNat_of ?_, ofNat_of ?_, ofNat_of ?_, ofNat_of ?_, ofNat_of ?_, ofNat_of ?_, ofNat_of ?_, ofNat_of ?_, ofNat_of ?_, bitAt_of ?_, ofNat_of ?_, ofNat_of ?_, ofNat_of ?_, ofNat_of ?_, bitAt_of ?_, ofNat_of ?_, bitAt_of ?_, ofNat_of ?_, ofNat_of ?_⟩
  all_goals simp only [encFlow, bits]; omega

/-- The fields of a submission entry. -/
theorem encCmd_fields {op : Nat} {r : Cmd} (ho : op < 256) : bits (encCmd op r) 7 0 = op ∧ decCmd (encCmd op r) = r := by
  obtain ⟨flg, rsv, tag, a, h, n, inl⟩ := r
  have := flg.isLt; have := rsv.isLt; have := tag.isLt; have := a.isLt; have := h.isLt; have := n.isLt; have := inl.isLt
  refine ⟨by simp only [encCmd, bits]; omega, ?_⟩
  simp only [decCmd, Cmd.mk.injEq]
  refine ⟨ofNat_of ?_, ofNat_of ?_, ofNat_of ?_, ofNat_of ?_, ofNat_of ?_, ofNat_of ?_, ofNat_of ?_⟩
  all_goals simp only [encCmd, bits]; omega

theorem decC_nop {w : Nat} (h : bits w 59 53 = 0x00) : decC w = some (.nop) := by unfold decC; rw [h]; rfl
theorem decC_fin {w : Nat} (h : bits w 59 53 = 0x01) : decC w = some (.fin) := by unfold decC; rw [h]; rfl
theorem decC_add {w : Nat} (h : bits w 59 53 = 0x08) : decC w = some (.add (BitVec.ofNat 6 (bits w 47 42)) (BitVec.ofNat 6 (bits w 41 36)) (BitVec.ofNat 6 (bits w 35 30))) := by unfold decC; rw [h]; rfl
theorem decC_sub {w : Nat} (h : bits w 59 53 = 0x09) : decC w = some (.sub (BitVec.ofNat 6 (bits w 47 42)) (BitVec.ofNat 6 (bits w 41 36)) (BitVec.ofNat 6 (bits w 35 30))) := by unfold decC; rw [h]; rfl
theorem decC_and {w : Nat} (h : bits w 59 53 = 0x0A) : decC w = some (.and (BitVec.ofNat 6 (bits w 47 42)) (BitVec.ofNat 6 (bits w 41 36)) (BitVec.ofNat 6 (bits w 35 30))) := by unfold decC; rw [h]; rfl
theorem decC_or {w : Nat} (h : bits w 59 53 = 0x0B) : decC w = some (.or (BitVec.ofNat 6 (bits w 47 42)) (BitVec.ofNat 6 (bits w 41 36)) (BitVec.ofNat 6 (bits w 35 30))) := by unfold decC; rw [h]; rfl
theorem decC_xor {w : Nat} (h : bits w 59 53 = 0x0C) : decC w = some (.xor (BitVec.ofNat 6 (bits w 47 42)) (BitVec.ofNat 6 (bits w 41 36)) (BitVec.ofNat 6 (bits w 35 30))) := by unfold decC; rw [h]; rfl
theorem decC_shl {w : Nat} (h : bits w 59 53 = 0x0D) : decC w = some (.shl (BitVec.ofNat 6 (bits w 47 42)) (BitVec.ofNat 6 (bits w 41 36)) (BitVec.ofNat 6 (bits w 35 30))) := by unfold decC; rw [h]; rfl
theorem decC_shr {w : Nat} (h : bits w 59 53 = 0x0E) : decC w = some (.shr (BitVec.ofNat 6 (bits w 47 42)) (BitVec.ofNat 6 (bits w 41 36)) (BitVec.ofNat 6 (bits w 35 30))) := by unfold decC; rw [h]; rfl
theorem decC_sra {w : Nat} (h : bits w 59 53 = 0x0F) : decC w = some (.sra (BitVec.ofNat 6 (bits w 47 42)) (BitVec.ofNat 6 (bits w 41 36)) (BitVec.ofNat 6 (bits w 35 30))) := by unfold decC; rw [h]; rfl
theorem decC_mul {w : Nat} (h : bits w 59 53 = 0x10) : decC w = some (.mul (BitVec.ofNat 6 (bits w 47 42)) (BitVec.ofNat 6 (bits w 41 36)) (BitVec.ofNat 6 (bits w 35 30))) := by unfold decC; rw [h]; rfl
theorem decC_mulh {w : Nat} (h : bits w 59 53 = 0x11) : decC w = some (.mulh (bitAt w 48) (BitVec.ofNat 6 (bits w 47 42)) (BitVec.ofNat 6 (bits w 41 36)) (BitVec.ofNat 6 (bits w 35 30))) := by unfold decC; rw [h]; rfl
theorem decC_div {w : Nat} (h : bits w 59 53 = 0x12) : decC w = some (.div (bitAt w 48) (BitVec.ofNat 6 (bits w 47 42)) (BitVec.ofNat 6 (bits w 41 36)) (BitVec.ofNat 6 (bits w 35 30))) := by unfold decC; rw [h]; rfl
theorem decC_rem {w : Nat} (h : bits w 59 53 = 0x13) : decC w = some (.rem (bitAt w 48) (BitVec.ofNat 6 (bits w 47 42)) (BitVec.ofNat 6 (bits w 41 36)) (BitVec.ofNat 6 (bits w 35 30))) := by unfold decC; rw [h]; rfl
theorem decC_min {w : Nat} (h : bits w 59 53 = 0x14) : decC w = some (.min (bitAt w 48) (BitVec.ofNat 6 (bits w 47 42)) (BitVec.ofNat 6 (bits w 41 36)) (BitVec.ofNat 6 (bits w 35 30))) := by unfold decC; rw [h]; rfl
theorem decC_max {w : Nat} (h : bits w 59 53 = 0x15) : decC w = some (.max (bitAt w 48) (BitVec.ofNat 6 (bits w 47 42)) (BitVec.ofNat 6 (bits w 41 36)) (BitVec.ofNat 6 (bits w 35 30))) := by unfold decC; rw [h]; rfl
theorem decC_cmp {w : Nat} (h : bits w 59 53 = 0x16) : decC w = some (.cmp (BitVec.ofNat 3 (bits w 52 50)) (BitVec.ofNat 6 (bits w 47 42)) (BitVec.ofNat 6 (bits w 41 36)) (BitVec.ofNat 6 (bits w 35 30))) := by unfold decC; rw [h]; rfl
theorem decC_sel {w : Nat} (h : bits w 59 53 = 0x17) : decC w = some (.sel (BitVec.ofNat 6 (bits w 47 42)) (BitVec.ofNat 6 (bits w 41 36)) (BitVec.ofNat 6 (bits w 35 30)) (BitVec.ofNat 6 (bits w 29 24))) := by unfold decC; rw [h]; rfl
theorem decC_ext {w : Nat} (h : bits w 59 53 = 0x18) : decC w = some (.ext (bitAt w 50) (BitVec.ofNat 2 (bits w 49 48)) (BitVec.ofNat 6 (bits w 47 42)) (BitVec.ofNat 6 (bits w 41 36))) := by unfold decC; rw [h]; rfl
theorem decC_bitc {w : Nat} (h : bits w 59 53 = 0x19) : decC w = some (.bitc (BitVec.ofNat 2 (bits w 49 48)) (BitVec.ofNat 6 (bits w 47 42)) (BitVec.ofNat 6 (bits w 41 36))) := by unfold decC; rw [h]; rfl
theorem decC_addi {w : Nat} (h : bits w 59 53 = 0x20) : decC w = some (.addi (BitVec.ofNat 6 (bits w 47 42)) (BitVec.ofNat 6 (bits w 41 36)) (BitVec.ofNat 32 (bits w 31 0))) := by unfold decC; rw [h]; rfl
theorem decC_andi {w : Nat} (h : bits w 59 53 = 0x21) : decC w = some (.andi (BitVec.ofNat 6 (bits w 47 42)) (BitVec.ofNat 6 (bits w 41 36)) (BitVec.ofNat 32 (bits w 31 0))) := by unfold decC; rw [h]; rfl
theorem decC_ori {w : Nat} (h : bits w 59 53 = 0x22) : decC w = some (.ori (BitVec.ofNat 6 (bits w 47 42)) (BitVec.ofNat 6 (bits w 41 36)) (BitVec.ofNat 32 (bits w 31 0))) := by unfold decC; rw [h]; rfl
theorem decC_xori {w : Nat} (h : bits w 59 53 = 0x23) : decC w = some (.xori (BitVec.ofNat 6 (bits w 47 42)) (BitVec.ofNat 6 (bits w 41 36)) (BitVec.ofNat 32 (bits w 31 0))) := by unfold decC; rw [h]; rfl
theorem decC_shli {w : Nat} (h : bits w 59 53 = 0x24) : decC w = some (.shli (BitVec.ofNat 6 (bits w 47 42)) (BitVec.ofNat 6 (bits w 41 36)) (BitVec.ofNat 32 (bits w 31 0))) := by unfold decC; rw [h]; rfl
theorem decC_shri {w : Nat} (h : bits w 59 53 = 0x25) : decC w = some (.shri (BitVec.ofNat 6 (bits w 47 42)) (BitVec.ofNat 6 (bits w 41 36)) (BitVec.ofNat 32 (bits w 31 0))) := by unfold decC; rw [h]; rfl
theorem decC_srai {w : Nat} (h : bits w 59 53 = 0x26) : decC w = some (.srai (BitVec.ofNat 6 (bits w 47 42)) (BitVec.ofNat 6 (bits w 41 36)) (BitVec.ofNat 32 (bits w 31 0))) := by unfold decC; rw [h]; rfl
theorem decC_muli {w : Nat} (h : bits w 59 53 = 0x27) : decC w = some (.muli (BitVec.ofNat 6 (bits w 47 42)) (BitVec.ofNat 6 (bits w 41 36)) (BitVec.ofNat 32 (bits w 31 0))) := by unfold decC; rw [h]; rfl
theorem decC_cmpi {w : Nat} (h : bits w 59 53 = 0x28) : decC w = some (.cmpi (BitVec.ofNat 3 (bits w 52 50)) (BitVec.ofNat 6 (bits w 47 42)) (BitVec.ofNat 6 (bits w 41 36)) (BitVec.ofNat 32 (bits w 31 0))) := by unfold decC; rw [h]; rfl
theorem decC_li {w : Nat} (h : bits w 59 53 = 0x29) : decC w = some (.li (BitVec.ofNat 6 (bits w 47 42)) (BitVec.ofNat 32 (bits w 31 0))) := by unfold decC; rw [h]; rfl
theorem decC_lih {w : Nat} (h : bits w 59 53 = 0x2A) : decC w = some (.lih (BitVec.ofNat 6 (bits w 47 42)) (BitVec.ofNat 6 (bits w 41 36)) (BitVec.ofNat 32 (bits w 31 0))) := by unfold decC; rw [h]; rfl
theorem decC_br {w : Nat} (h : bits w 59 53 = 0x30) : decC w = some (.br (BitVec.ofNat 21 (bits w 20 0))) := by unfold decC; rw [h]; rfl
theorem decC_bc {w : Nat} (h : bits w 59 53 = 0x31) : decC w = some (.bc (BitVec.ofNat 3 (bits w 52 50)) (BitVec.ofNat 6 (bits w 47 42)) (BitVec.ofNat 6 (bits w 41 36)) (BitVec.ofNat 21 (bits w 20 0))) := by unfold decC; rw [h]; rfl
theorem decC_bf {w : Nat} (h : bits w 59 53 = 0x32) : decC w = some (.bf (BitVec.ofNat 2 (bits w 52 51)) (BitVec.ofNat 2 (bits w 50 49)) (bitAt w 48) (BitVec.ofNat 21 (bits w 20 0))) := by unfold decC; rw [h]; rfl
theorem decC_jr {w : Nat} (h : bits w 59 53 = 0x33) : decC w = some (.jr (BitVec.ofNat 6 (bits w 47 42))) := by unfold decC; rw [h]; rfl
theorem decC_call {w : Nat} (h : bits w 59 53 = 0x34) : decC w = some (.call (BitVec.ofNat 6 (bits w 35 30)) (BitVec.ofNat 21 (bits w 20 0))) := by unfold decC; rw [h]; rfl
theorem decC_loopr {w : Nat} (h : bits w 59 53 = 0x35) : decC w = some (.loopr (BitVec.ofNat 6 (bits w 35 30)) (BitVec.ofNat 21 (bits w 20 0))) := by unfold decC; rw [h]; rfl
theorem decC_pop {w : Nat} (h : bits w 59 53 = 0x38) : decC w = some (.pop (BitVec.ofNat 6 (bits w 47 42)) (BitVec.ofNat 4 (bits w 41 38))) := by unfold decC; rw [h]; rfl
theorem decC_push {w : Nat} (h : bits w 59 53 = 0x39) : decC w = some (.push (BitVec.ofNat 6 (bits w 47 42)) (BitVec.ofNat 4 (bits w 41 38))) := by unfold decC; rw [h]; rfl
theorem decC_qlen {w : Nat} (h : bits w 59 53 = 0x3A) : decC w = some (.qlen (BitVec.ofNat 6 (bits w 47 42)) (BitVec.ofNat 4 (bits w 41 38))) := by unfold decC; rw [h]; rfl
theorem decC_rdfs {w : Nat} (h : bits w 59 53 = 0x3B) : decC w = some (.rdfs (BitVec.ofNat 6 (bits w 47 42)) (BitVec.ofNat 4 (bits w 41 38))) := by unfold decC; rw [h]; rfl
theorem decC_csrr {w : Nat} (h : bits w 59 53 = 0x40) : decC w = some (.csrr (BitVec.ofNat 6 (bits w 47 42)) (BitVec.ofNat 12 (bits w 35 24))) := by unfold decC; rw [h]; rfl
theorem decC_csrw {w : Nat} (h : bits w 59 53 = 0x41) : decC w = some (.csrw (BitVec.ofNat 12 (bits w 35 24)) (BitVec.ofNat 6 (bits w 41 36))) := by unfold decC; rw [h]; rfl
theorem decC_csrs {w : Nat} (h : bits w 59 53 = 0x42) : decC w = some (.csrs (BitVec.ofNat 12 (bits w 35 24)) (BitVec.ofNat 6 (bits w 41 36))) := by unfold decC; rw [h]; rfl
theorem decC_csrc {w : Nat} (h : bits w 59 53 = 0x43) : decC w = some (.csrc (BitVec.ofNat 12 (bits w 35 24)) (BitVec.ofNat 6 (bits w 41 36))) := by unfold decC; rw [h]; rfl
theorem decC_rand {w : Nat} (h : bits w 59 53 = 0x44) : decC w = some (.rand (bitAt w 48) (BitVec.ofNat 6 (bits w 47 42)) (BitVec.ofNat 6 (bits w 41 36)) (BitVec.ofNat 6 (bits w 35 30))) := by unfold decC; rw [h]; rfl
theorem decC_btr {w : Nat} (h : bits w 59 53 = 0x45) : decC w = some (.btr (BitVec.ofNat 6 (bits w 47 42)) (BitVec.ofNat 12 (bits w 35 24))) := by unfold decC; rw [h]; rfl
theorem decC_btw {w : Nat} (h : bits w 59 53 = 0x46) : decC w = some (.btw (BitVec.ofNat 12 (bits w 35 24)) (BitVec.ofNat 6 (bits w 41 36))) := by unfold decC; rw [h]; rfl
theorem decC_lcw {w : Nat} (h : bits w 59 53 = 0x47) : decC w = some (.lcw (BitVec.ofNat 2 (bits w 49 48)) (BitVec.ofNat 12 (bits w 35 24)) (BitVec.ofNat 6 (bits w 41 36))) := by unfold decC; rw [h]; rfl
theorem decC_harr {w : Nat} (h : bits w 59 53 = 0x48) : decC w = some (.harr (BitVec.ofNat 12 (bits w 35 24))) := by unfold decC; rw [h]; rfl
theorem decC_hwt {w : Nat} (h : bits w 59 53 = 0x49) : decC w = some (.hwt (BitVec.ofNat 12 (bits w 35 24))) := by unfold decC; rw [h]; rfl
theorem decC_hset {w : Nat} (h : bits w 59 53 = 0x4A) : decC w = some (.hset (BitVec.ofNat 12 (bits w 35 24)) (BitVec.ofNat 6 (bits w 41 36))) := by unfold decC; rw [h]; rfl
theorem decC_hpoll {w : Nat} (h : bits w 59 53 = 0x4B) : decC w = some (.hpoll (BitVec.ofNat 6 (bits w 47 42)) (BitVec.ofNat 12 (bits w 35 24))) := by unfold decC; rw [h]; rfl
theorem decC_lnch {w : Nat} (h : bits w 59 53 = 0x50) : decC w = some (.lnch (BitVec.ofNat 6 (bits w 41 36))) := by unfold decC; rw [h]; rfl
theorem decC_fcrd {w : Nat} (h : bits w 59 53 = 0x51) : decC w = some (.fcrd (BitVec.ofNat 6 (bits w 47 42)) (BitVec.ofNat 12 (bits w 35 24))) := by unfold decC; rw [h]; rfl
theorem decC_fcw {w : Nat} (h : bits w 59 53 = 0x52) : decC w = some (.fcw (BitVec.ofNat 12 (bits w 35 24)) (BitVec.ofNat 6 (bits w 41 36))) := by unfold decC; rw [h]; rfl
theorem decC_fcwt {w : Nat} (h : bits w 59 53 = 0x53) : decC w = some (.fcwt (BitVec.ofNat 12 (bits w 35 24)) (BitVec.ofNat 6 (bits w 41 36))) := by unfold decC; rw [h]; rfl
theorem decC_cncl {w : Nat} (h : bits w 59 53 = 0x54) : decC w = some (.cncl (BitVec.ofNat 2 (bits w 49 48)) (BitVec.ofNat 6 (bits w 41 36))) := by unfold decC; rw [h]; rfl
theorem decC_lvwt {w : Nat} (h : bits w 59 53 = 0x55) : decC w = some (.lvwt (BitVec.ofNat 2 (bits w 49 48)) (BitVec.ofNat 6 (bits w 41 36)) (BitVec.ofNat 6 (bits w 35 30))) := by unfold decC; rw [h]; rfl
theorem decC_phint {w : Nat} (h : bits w 59 53 = 0x58) : decC w = some (.phint (BitVec.ofNat 24 (bits w 23 0))) := by unfold decC; rw [h]; rfl
theorem decC_yield {w : Nat} (h : bits w 59 53 = 0x59) : decC w = some (.yield (BitVec.ofNat 24 (bits w 23 0))) := by unfold decC; rw [h]; rfl
theorem decC_trace {w : Nat} (h : bits w 59 53 = 0x5A) : decC w = some (.trace (BitVec.ofNat 6 (bits w 41 36)) (BitVec.ofNat 24 (bits w 23 0))) := by unfold decC; rw [h]; rfl
theorem decC_trap {w : Nat} (h : bits w 59 53 = 0x5B) : decC w = some (.trap (BitVec.ofNat 24 (bits w 23 0))) := by unfold decC; rw [h]; rfl
theorem decC_shi {w : Nat} (h : bits w 59 53 = 0x60) : decC w = some (.shi (BitVec.ofNat 6 (bits w 47 42)) (BitVec.ofNat 24 (bits w 23 0))) := by unfold decC; rw [h]; rfl
theorem decC_xlin {w : Nat} (h : bits w 59 53 = 0x61) : decC w = some (.xlin (BitVec.ofNat 6 (bits w 41 36)) (BitVec.ofNat 6 (bits w 35 30))) := by unfold decC; rw [h]; rfl
theorem decC_shret {w : Nat} (h : bits w 59 53 = 0x62) : decC w = some (.shret) := by unfold decC; rw [h]; rfl
theorem decV_nop {w : Nat} (h : bits w 59 53 = 0x00) : decV w = some (.nop) := by unfold decV; rw [h]; rfl
theorem decV_fin {w : Nat} (h : bits w 59 53 = 0x01) : decV w = some (.fin) := by unfold decV; rw [h]; rfl
theorem decV_jmp {w : Nat} (h : bits w 59 53 = 0x02) : decV w = some (.jmp (BitVec.ofNat 21 (bits w 20 0))) := by unfold decV; rw [h]; rfl
theorem decV_lpf {w : Nat} (h : bits w 59 53 = 0x03) : decV w = some (.lpf (BitVec.ofNat 21 (bits w 20 0))) := by unfold decV; rw [h]; rfl
theorem decV_pblk {w : Nat} (h : bits w 59 53 = 0x04) : decV w = some (.pblk (BitVec.ofNat 8 (bits w 47 40)) (BitVec.ofNat 3 (bits w 39 37)) (BitVec.ofNat 5 (bits w 36 32))) := by unfold decV; rw [h]; rfl
theorem decV_vadd {w : Nat} (h : bits w 59 53 = 0x08) : decV w = some (.vadd (decVR w) (BitVec.ofNat 3 (bits w 52 50))) := by unfold decV; rw [h]; rfl
theorem decV_vsub {w : Nat} (h : bits w 59 53 = 0x09) : decV w = some (.vsub (decVR w) (BitVec.ofNat 3 (bits w 52 50))) := by unfold decV; rw [h]; rfl
theorem decV_vmul {w : Nat} (h : bits w 59 53 = 0x0A) : decV w = some (.vmul (decVR w) (BitVec.ofNat 3 (bits w 52 50))) := by unfold decV; rw [h]; rfl
theorem decV_vfma {w : Nat} (h : bits w 59 53 = 0x0B) : decV w = some (.vfma (decVR w) (BitVec.ofNat 3 (bits w 52 50))) := by unfold decV; rw [h]; rfl
theorem decV_vfms {w : Nat} (h : bits w 59 53 = 0x0C) : decV w = some (.vfms (decVR w) (BitVec.ofNat 3 (bits w 52 50))) := by unfold decV; rw [h]; rfl
theorem decV_vfnma {w : Nat} (h : bits w 59 53 = 0x0D) : decV w = some (.vfnma (decVR w) (BitVec.ofNat 3 (bits w 52 50))) := by unfold decV; rw [h]; rfl
theorem decV_vmax {w : Nat} (h : bits w 59 53 = 0x0E) : decV w = some (.vmax (decVR w)) := by unfold decV; rw [h]; rfl
theorem decV_vmin {w : Nat} (h : bits w 59 53 = 0x0F) : decV w = some (.vmin (decVR w)) := by unfold decV; rw [h]; rfl
theorem decV_vabs {w : Nat} (h : bits w 59 53 = 0x10) : decV w = some (.vabs (decVR w)) := by unfold decV; rw [h]; rfl
theorem decV_vneg {w : Nat} (h : bits w 59 53 = 0x11) : decV w = some (.vneg (decVR w)) := by unfold decV; rw [h]; rfl
theorem decV_vmov {w : Nat} (h : bits w 59 53 = 0x13) : decV w = some (.vmov (decVR w)) := by unfold decV; rw [h]; rfl
theorem decV_vexp2 {w : Nat} (h : bits w 59 53 = 0x18) : decV w = some (.vexp2 (decVR w) (BitVec.ofNat 3 (bits w 52 50))) := by unfold decV; rw [h]; rfl
theorem decV_vlog2 {w : Nat} (h : bits w 59 53 = 0x19) : decV w = some (.vlog2 (decVR w) (BitVec.ofNat 3 (bits w 52 50))) := by unfold decV; rw [h]; rfl
theorem decV_vrcpe {w : Nat} (h : bits w 59 53 = 0x1A) : decV w = some (.vrcpe (decVR w)) := by unfold decV; rw [h]; rfl
theorem decV_vrsqe {w : Nat} (h : bits w 59 53 = 0x1B) : decV w = some (.vrsqe (decVR w)) := by unfold decV; rw [h]; rfl
theorem decV_vrcpn {w : Nat} (h : bits w 59 53 = 0x1C) : decV w = some (.vrcpn (decVR w)) := by unfold decV; rw [h]; rfl
theorem decV_vrsqn {w : Nat} (h : bits w 59 53 = 0x1D) : decV w = some (.vrsqn (decVR w)) := by unfold decV; rw [h]; rfl
theorem decV_viadd {w : Nat} (h : bits w 59 53 = 0x20) : decV w = some (.viadd (decVR w) (BitVec.ofNat 3 (bits w 7 5))) := by unfold decV; rw [h]; rfl
theorem decV_visub {w : Nat} (h : bits w 59 53 = 0x21) : decV w = some (.visub (decVR w) (BitVec.ofNat 3 (bits w 7 5))) := by unfold decV; rw [h]; rfl
theorem decV_vimul {w : Nat} (h : bits w 59 53 = 0x22) : decV w = some (.vimul (decVR w) (BitVec.ofNat 3 (bits w 7 5))) := by unfold decV; rw [h]; rfl
theorem decV_vimulh {w : Nat} (h : bits w 59 53 = 0x23) : decV w = some (.vimulh (decVR w) (BitVec.ofNat 3 (bits w 7 5))) := by unfold decV; rw [h]; rfl
theorem decV_vimin {w : Nat} (h : bits w 59 53 = 0x24) : decV w = some (.vimin (decVR w) (BitVec.ofNat 3 (bits w 7 5))) := by unfold decV; rw [h]; rfl
theorem decV_vimax {w : Nat} (h : bits w 59 53 = 0x25) : decV w = some (.vimax (decVR w) (BitVec.ofNat 3 (bits w 7 5))) := by unfold decV; rw [h]; rfl
theorem decV_viand {w : Nat} (h : bits w 59 53 = 0x26) : decV w = some (.viand (decVR w) (BitVec.ofNat 3 (bits w 7 5))) := by unfold decV; rw [h]; rfl
theorem decV_vior {w : Nat} (h : bits w 59 53 = 0x27) : decV w = some (.vior (decVR w) (BitVec.ofNat 3 (bits w 7 5))) := by unfold decV; rw [h]; rfl
theorem decV_vixor {w : Nat} (h : bits w 59 53 = 0x28) : decV w = some (.vixor (decVR w) (BitVec.ofNat 3 (bits w 7 5))) := by unfold decV; rw [h]; rfl
theorem decV_vishl {w : Nat} (h : bits w 59 53 = 0x29) : decV w = some (.vishl (decVR w) (BitVec.ofNat 3 (bits w 7 5))) := by unfold decV; rw [h]; rfl
theorem decV_vishr {w : Nat} (h : bits w 59 53 = 0x2A) : decV w = some (.vishr (decVR w) (BitVec.ofNat 3 (bits w 7 5))) := by unfold decV; rw [h]; rfl
theorem decV_visra {w : Nat} (h : bits w 59 53 = 0x2B) : decV w = some (.visra (decVR w) (BitVec.ofNat 3 (bits w 7 5))) := by unfold decV; rw [h]; rfl
theorem decV_viabs {w : Nat} (h : bits w 59 53 = 0x2C) : decV w = some (.viabs (decVR w) (BitVec.ofNat 3 (bits w 7 5))) := by unfold decV; rw [h]; rfl
theorem decV_viota {w : Nat} (h : bits w 59 53 = 0x2D) : decV w = some (.viota (decVR w) (BitVec.ofNat 3 (bits w 7 5)) (BitVec.ofNat 2 (bits w 49 48))) := by unfold decV; rw [h]; rfl
theorem decV_vcvt {w : Nat} (h : bits w 59 53 = 0x30) : decV w = some (.vcvt (decVR w) (BitVec.ofNat 3 (bits w 52 50)) (BitVec.ofNat 5 (bits w 7 3)) (bitAt w 2) (bitAt w 1)) := by unfold decV; rw [h]; rfl
theorem decV_vwid {w : Nat} (h : bits w 59 53 = 0x31) : decV w = some (.vwid (decVR w) (BitVec.ofNat 2 (bits w 49 48)) (BitVec.ofNat 5 (bits w 7 3)) (bitAt w 2)) := by unfold decV; rw [h]; rfl
theorem decV_vcvti {w : Nat} (h : bits w 59 53 = 0x32) : decV w = some (.vcvti (decVR w) (BitVec.ofNat 3 (bits w 52 50)) (BitVec.ofNat 3 (bits w 7 5))) := by unfold decV; rw [h]; rfl
theorem decV_vcvtf {w : Nat} (h : bits w 59 53 = 0x33) : decV w = some (.vcvtf (decVR w) (BitVec.ofNat 3 (bits w 52 50)) (BitVec.ofNat 3 (bits w 7 5))) := by unfold decV; rw [h]; rfl
theorem decV_vicvt {w : Nat} (h : bits w 59 53 = 0x34) : decV w = some (.vicvt (decVR w) (BitVec.ofNat 3 (bits w 7 5)) (BitVec.ofNat 3 (bits w 4 2)) (bitAt w 1)) := by unfold decV; rw [h]; rfl
theorem decV_vrrot {w : Nat} (h : bits w 59 53 = 0x38) : decV w = some (.vrrot (decVR w)) := by unfold decV; rw [h]; rfl
theorem decV_vcrot {w : Nat} (h : bits w 59 53 = 0x39) : decV w = some (.vcrot (decVR w)) := by unfold decV; rw [h]; rfl
theorem decV_vrbc {w : Nat} (h : bits w 59 53 = 0x3A) : decV w = some (.vrbc (decVR w)) := by unfold decV; rw [h]; rfl
theorem decV_vcbc {w : Nat} (h : bits w 59 53 = 0x3B) : decV w = some (.vcbc (decVR w)) := by unfold decV; rw [h]; rfl
theorem decV_vrred {w : Nat} (h : bits w 59 53 = 0x3C) : decV w = some (.vrred (decVR w) (BitVec.ofNat 2 (bits w 49 48))) := by unfold decV; rw [h]; rfl
theorem decV_vcred {w : Nat} (h : bits w 59 53 = 0x3D) : decV w = some (.vcred (decVR w) (BitVec.ofNat 2 (bits w 49 48))) := by unfold decV; rw [h]; rfl
theorem decV_vrscan {w : Nat} (h : bits w 59 53 = 0x3E) : decV w = some (.vrscan (decVR w) (BitVec.ofNat 2 (bits w 49 48))) := by unfold decV; rw [h]; rfl
theorem decV_vcscan {w : Nat} (h : bits w 59 53 = 0x3F) : decV w = some (.vcscan (decVR w) (BitVec.ofNat 2 (bits w 49 48))) := by unfold decV; rw [h]; rfl
theorem decV_vbstep {w : Nat} (h : bits w 59 53 = 0x40) : decV w = some (.vbstep (decVR w) (BitVec.ofNat 3 (bits w 52 50)) (BitVec.ofNat 3 (bits w 7 5)) (bitAt w 4)) := by unfold decV; rw [h]; rfl
theorem decV_vcmp {w : Nat} (h : bits w 59 53 = 0x48) : decV w = some (.vcmp (decVP w) (BitVec.ofNat 3 (bits w 52 50))) := by unfold decV; rw [h]; rfl
theorem decV_vicmp {w : Nat} (h : bits w 59 53 = 0x49) : decV w = some (.vicmp (decVP w) (BitVec.ofNat 3 (bits w 52 50))) := by unfold decV; rw [h]; rfl
theorem decV_kand {w : Nat} (h : bits w 59 53 = 0x4A) : decV w = some (.kand (decVP w)) := by unfold decV; rw [h]; rfl
theorem decV_kor {w : Nat} (h : bits w 59 53 = 0x4B) : decV w = some (.kor (decVP w)) := by unfold decV; rw [h]; rfl
theorem decV_kxor {w : Nat} (h : bits w 59 53 = 0x4C) : decV w = some (.kxor (decVP w)) := by unfold decV; rw [h]; rfl
theorem decV_kandn {w : Nat} (h : bits w 59 53 = 0x4D) : decV w = some (.kandn (decVP w)) := by unfold decV; rw [h]; rfl
theorem decV_knot {w : Nat} (h : bits w 59 53 = 0x4E) : decV w = some (.knot (decVP w)) := by unfold decV; rw [h]; rfl
theorem decV_kmov {w : Nat} (h : bits w 59 53 = 0x4F) : decV w = some (.kmov (decVP w)) := by unfold decV; rw [h]; rfl
theorem decV_kset {w : Nat} (h : bits w 59 53 = 0x50) : decV w = some (.kset (decVP w) (BitVec.ofNat 2 (bits w 49 48))) := by unfold decV; rw [h]; rfl
theorem decV_ptest {w : Nat} (h : bits w 59 53 = 0x51) : decV w = some (.ptest (decVP w)) := by unfold decV; rw [h]; rfl
theorem decV_vacrr {w : Nat} (h : bits w 59 53 = 0x58) : decV w = some (.vacrr (decVA w)) := by unfold decV; rw [h]; rfl
theorem decV_vaccr {w : Nat} (h : bits w 59 53 = 0x59) : decV w = some (.vaccr (decVA w)) := by unfold decV; rw [h]; rfl
theorem decV_vacrw {w : Nat} (h : bits w 59 53 = 0x5A) : decV w = some (.vacrw (decVA w)) := by unfold decV; rw [h]; rfl
theorem decV_vaccw {w : Nat} (h : bits w 59 53 = 0x5B) : decV w = some (.vaccw (decVA w)) := by unfold decV; rw [h]; rfl
theorem decV_vacsr {w : Nat} (h : bits w 59 53 = 0x5C) : decV w = some (.vacsr (decVA w) (BitVec.ofNat 2 (bits w 49 48))) := by unfold decV; rw [h]; rfl
theorem decV_vacsw {w : Nat} (h : bits w 59 53 = 0x5D) : decV w = some (.vacsw (decVA w) (BitVec.ofNat 2 (bits w 49 48))) := by unfold decV; rw [h]; rfl
theorem decD_nop {w : Nat} (h : bits w 59 53 = 0x00) : decD w = some (.nop) := by unfold decD; rw [h]; rfl
theorem decD_fin {w : Nat} (h : bits w 59 53 = 0x01) : decD w = some (.fin) := by unfold decD; rw [h]; rfl
theorem decD_jmp {w : Nat} (h : bits w 59 53 = 0x02) : decD w = some (.jmp (BitVec.ofNat 21 (bits w 20 0))) := by unfold decD; rw [h]; rfl
theorem decD_lpf {w : Nat} (h : bits w 59 53 = 0x03) : decD w = some (.lpf (BitVec.ofNat 21 (bits w 20 0))) := by unfold decD; rw [h]; rfl
theorem decD_stset {w : Nat} (h : bits w 59 53 = 0x08) : decD w = some (.stset (BitVec.ofNat 4 (bits w 47 44)) (BitVec.ofNat 4 (bits w 43 40)) (BitVec.ofNat 6 (bits w 39 34))) := by unfold decD; rw [h]; rfl
theorem decD_stld {w : Nat} (h : bits w 59 53 = 0x09) : decD w = some (.stld (BitVec.ofNat 4 (bits w 47 44)) (BitVec.ofNat 6 (bits w 39 34))) := by unfold decD; rw [h]; rfl
theorem decD_stsv {w : Nat} (h : bits w 59 53 = 0x0A) : decD w = some (.stsv (BitVec.ofNat 4 (bits w 47 44)) (BitVec.ofNat 6 (bits w 39 34))) := by unfold decD; rw [h]; rfl
theorem decD_srd {w : Nat} (h : bits w 59 53 = 0x0B) : decD w = some (.srd (BitVec.ofNat 4 (bits w 47 44)) (BitVec.ofNat 6 (bits w 39 34)) (BitVec.ofNat 16 (bits w 15 0))) := by unfold decD; rw [h]; rfl
theorem decD_swr {w : Nat} (h : bits w 59 53 = 0x0C) : decD w = some (.swr (BitVec.ofNat 4 (bits w 47 44)) (BitVec.ofNat 6 (bits w 39 34)) (BitVec.ofNat 16 (bits w 15 0))) := by unfold decD; rw [h]; rfl
theorem decD_sstop {w : Nat} (h : bits w 59 53 = 0x0D) : decD w = some (.sstop (BitVec.ofNat 4 (bits w 47 44))) := by unfold decD; rw [h]; rfl
theorem decD_lds {w : Nat} (h : bits w 59 53 = 0x10) : decD w = some (.lds (bitAt w 50) (BitVec.ofNat 2 (bits w 49 48)) (bitAt w 29) (BitVec.ofNat 6 (bits w 47 42)) (BitVec.ofNat 16 (bits w 15 0))) := by unfold decD; rw [h]; rfl
theorem decD_sts {w : Nat} (h : bits w 59 53 = 0x11) : decD w = some (.sts (BitVec.ofNat 2 (bits w 49 48)) (BitVec.ofNat 6 (bits w 47 42)) (BitVec.ofNat 16 (bits w 15 0))) := by unfold decD; rw [h]; rfl
theorem decD_aadd {w : Nat} (h : bits w 59 53 = 0x18) : decD w = some (.aadd (bitAt w 48) (bitAt w 29) (BitVec.ofNat 6 (bits w 47 42)) (BitVec.ofNat 6 (bits w 41 36)) (BitVec.ofNat 16 (bits w 15 0))) := by unfold decD; rw [h]; rfl
theorem decD_amin {w : Nat} (h : bits w 59 53 = 0x19) : decD w = some (.amin (bitAt w 49) (bitAt w 48) (bitAt w 29) (BitVec.ofNat 6 (bits w 47 42)) (BitVec.ofNat 6 (bits w 41 36)) (BitVec.ofNat 16 (bits w 15 0))) := by unfold decD; rw [h]; rfl
theorem decD_amax {w : Nat} (h : bits w 59 53 = 0x1A) : decD w = some (.amax (bitAt w 49) (bitAt w 48) (bitAt w 29) (BitVec.ofNat 6 (bits w 47 42)) (BitVec.ofNat 6 (bits w 41 36)) (BitVec.ofNat 16 (bits w 15 0))) := by unfold decD; rw [h]; rfl
theorem decD_aand {w : Nat} (h : bits w 59 53 = 0x1B) : decD w = some (.aand (bitAt w 48) (bitAt w 29) (BitVec.ofNat 6 (bits w 47 42)) (BitVec.ofNat 6 (bits w 41 36)) (BitVec.ofNat 16 (bits w 15 0))) := by unfold decD; rw [h]; rfl
theorem decD_aor {w : Nat} (h : bits w 59 53 = 0x1C) : decD w = some (.aor (bitAt w 48) (bitAt w 29) (BitVec.ofNat 6 (bits w 47 42)) (BitVec.ofNat 6 (bits w 41 36)) (BitVec.ofNat 16 (bits w 15 0))) := by unfold decD; rw [h]; rfl
theorem decD_axor {w : Nat} (h : bits w 59 53 = 0x1D) : decD w = some (.axor (bitAt w 48) (bitAt w 29) (BitVec.ofNat 6 (bits w 47 42)) (BitVec.ofNat 6 (bits w 41 36)) (BitVec.ofNat 16 (bits w 15 0))) := by unfold decD; rw [h]; rfl
theorem decD_axchg {w : Nat} (h : bits w 59 53 = 0x1E) : decD w = some (.axchg (bitAt w 48) (bitAt w 29) (BitVec.ofNat 6 (bits w 47 42)) (BitVec.ofNat 6 (bits w 41 36)) (BitVec.ofNat 16 (bits w 15 0))) := by unfold decD; rw [h]; rfl
theorem decD_acas {w : Nat} (h : bits w 59 53 = 0x1F) : decD w = some (.acas (bitAt w 48) (bitAt w 29) (BitVec.ofNat 6 (bits w 47 42)) (BitVec.ofNat 6 (bits w 41 36)) (BitVec.ofNat 6 (bits w 35 30)) (BitVec.ofNat 16 (bits w 15 0))) := by unfold decD; rw [h]; rfl
theorem decD_afadd {w : Nat} (h : bits w 59 53 = 0x20) : decD w = some (.afadd (bitAt w 29) (BitVec.ofNat 6 (bits w 47 42)) (BitVec.ofNat 6 (bits w 41 36)) (BitVec.ofNat 16 (bits w 15 0))) := by unfold decD; rw [h]; rfl
theorem decD_rgset {w : Nat} (h : bits w 59 53 = 0x28) : decD w = some (.rgset (BitVec.ofNat 3 (bits w 47 45)) (BitVec.ofNat 5 (bits w 44 40)) (BitVec.ofNat 6 (bits w 39 34))) := by unfold decD; rw [h]; rfl
theorem decD_rgrd {w : Nat} (h : bits w 59 53 = 0x29) : decD w = some (.rgrd (bitAt w 33) (BitVec.ofNat 3 (bits w 47 45)) (BitVec.ofNat 5 (bits w 44 40))) := by unfold decD; rw [h]; rfl
theorem decD_rpush {w : Nat} (h : bits w 59 53 = 0x2A) : decD w = some (.rpush (BitVec.ofNat 3 (bits w 47 45))) := by unfold decD; rw [h]; rfl
theorem decD_mark {w : Nat} (h : bits w 59 53 = 0x30) : decD w = some (.mark) := by unfold decD; rw [h]; rfl
theorem decD_fence {w : Nat} (h : bits w 59 53 = 0x31) : decD w = some (.fence (BitVec.ofNat 3 (bits w 52 50)) (bitAt w 49)) := by unfold decD; rw [h]; rfl
theorem decD_xfence {w : Nat} (h : bits w 59 53 = 0x32) : decD w = some (.xfence (BitVec.ofNat 3 (bits w 52 50))) := by unfold decD; rw [h]; rfl
theorem decD_spt {w : Nat} (h : bits w 59 53 = 0x38) : decD w = some (.spt (bitAt w 29) (BitVec.ofNat 6 (bits w 47 42))) := by unfold decD; rw [h]; rfl
theorem decD_spc {w : Nat} (h : bits w 59 53 = 0x39) : decD w = some (.spc (bitAt w 48) (bitAt w 29) (BitVec.ofNat 6 (bits w 47 42)) (BitVec.ofNat 6 (bits w 41 36))) := by unfold decD; rw [h]; rfl
theorem decE_nop {w : Nat} (h : bits w 59 53 = 0x00) : decE w = some (.nop) := by unfold decE; rw [h]; rfl
theorem decE_fin {w : Nat} (h : bits w 59 53 = 0x01) : decE w = some (.fin) := by unfold decE; rw [h]; rfl
theorem decE_jmp {w : Nat} (h : bits w 59 53 = 0x02) : decE w = some (.jmp (BitVec.ofNat 21 (bits w 20 0))) := by unfold decE; rw [h]; rfl
theorem decE_lpf {w : Nat} (h : bits w 59 53 = 0x03) : decE w = some (.lpf (BitVec.ofNat 21 (bits w 20 0))) := by unfold decE; rw [h]; rfl
theorem decE_post {w : Nat} (h : bits w 59 53 = 0x08) : decE w = some (.post (BitVec.ofNat 2 (bits w 47 46)) (BitVec.ofNat 6 (bits w 45 40))) := by unfold decE; rw [h]; rfl
theorem decE_tadv {w : Nat} (h : bits w 59 53 = 0x09) : decE w = some (.tadv (BitVec.ofNat 2 (bits w 47 46)) (BitVec.ofNat 6 (bits w 45 40))) := by unfold decE; rw [h]; rfl
theorem decE_cseq {w : Nat} (h : bits w 59 53 = 0x0A) : decE w = some (.cseq (BitVec.ofNat 2 (bits w 47 46))) := by unfold decE; rw [h]; rfl
theorem decE_cwait {w : Nat} (h : bits w 59 53 = 0x0B) : decE w = some (.cwait (BitVec.ofNat 2 (bits w 47 46)) (BitVec.ofNat 6 (bits w 45 40))) := by unfold decE; rw [h]; rfl
theorem decE_fsend {w : Nat} (h : bits w 59 53 = 0x10) : decE w = some (.fsend (bitAt w 48) (BitVec.ofNat 20 (bits w 47 28)) (BitVec.ofNat 6 (bits w 27 22)) (BitVec.ofNat 6 (bits w 21 16)) (BitVec.ofNat 5 (bits w 15 11))) := by unfold decE; rw [h]; rfl
theorem decE_fwait {w : Nat} (h : bits w 59 53 = 0x11) : decE w = some (.fwait (BitVec.ofNat 5 (bits w 15 11)) (BitVec.ofNat 6 (bits w 27 22))) := by unfold decE; rw [h]; rfl
theorem decE_aqry {w : Nat} (h : bits w 59 53 = 0x18) : decE w = some (.aqry (BitVec.ofNat 6 (bits w 47 42)) (BitVec.ofNat 6 (bits w 41 36)) (BitVec.ofNat 6 (bits w 35 30)) (BitVec.ofNat 5 (bits w 29 25))) := by unfold decE; rw [h]; rfl
theorem decE_topk {w : Nat} (h : bits w 59 53 = 0x19) : decE w = some (.topk (BitVec.ofNat 3 (bits w 50 48)) (BitVec.ofNat 6 (bits w 47 42)) (BitVec.ofNat 6 (bits w 41 36)) (BitVec.ofNat 6 (bits w 35 30)) (BitVec.ofNat 5 (bits w 29 25))) := by unfold decE; rw [h]; rfl
theorem decE_kvtrunc {w : Nat} (h : bits w 59 53 = 0x1A) : decE w = some (.kvtrunc (BitVec.ofNat 6 (bits w 47 42)) (BitVec.ofNat 6 (bits w 41 36)) (BitVec.ofNat 5 (bits w 29 25))) := by unfold decE; rw [h]; rfl

end Sys2Proof.Laws
end

