-- ==== Sys2Proof/Laws/PerInstr.lean ====
section
/-! SUPPORT. The round trip of every instruction, one lemma per constructor: what the encoder writes of a well-formed
instruction, the decoder reads as that instruction (R70 to R91, R92, R97, R100, R102, R422). -/

namespace Sys2Proof.Laws

/-- The word of the instruction, in each encoding that it has, decodes to it, with S and D as they were. -/
def Encoding.Statement (i : Instr) : Prop :=
  (∀ st s d w, i.wellFormed = true → encodeSlot st ⟨s, d, i⟩ = some w → decodeSlot st w = .ok ⟨s, d, i⟩) ∧
  (∀ w, encodeRecord i = some w → decodeRecord w = some i) ∧
  (∀ w, encodeFlow i = some w → decodeFlow w = some i) ∧
  (∀ w, encodeCmd i = some w → decodeCmd w = some i)

/-- What the slot part needs of each map: no word, or a word that reads back. -/
def MapRound (st : Strand) (i : Instr) : Prop :=
  encOps st i = none ∨ ∃ n, encOps st i = some n ∧ n < 2 ^ 60 ∧ ∀ s d, decOps st (slotWord s d n) = some i

theorem MapRound.round {st : Strand} {i : Instr} (h : MapRound st i) (s : Bool) (d : BitVec 3) (w : Nat)
    (hw : i.wellFormed = true) (he : encodeSlot st ⟨s, d, i⟩ = some w) : decodeSlot st w = .ok ⟨s, d, i⟩ := by
  rcases h with h | ⟨n, h, hn, hd⟩
  · simp [encodeSlot, h] at he
  · have : slotWord s d n = w := by simpa [encodeSlot, h] using he
    subst this
    exact decodeSlot_ok h hn (hd s d) hw

/-- An instruction with slot words alone. -/
theorem Encoding.ofSlot {i : Instr} (hc : MapRound .c i) (hv : MapRound .v i) (hd : MapRound .d i)
    (he : MapRound .e i) (h1 : encodeRecord i = none) (h2 : encodeFlow i = none) (h3 : encodeCmd i = none) :
    Encoding.Statement i := by
  refine ⟨fun st s d w hw h => ?_, by simp [h1], by simp [h2], by simp [h3]⟩
  cases st
  · exact hc.round s d w hw h
  · exact hv.round s d w hw h
  · exact hd.round s d w hw h
  · exact he.round s d w hw h

/-- An instruction with no slot word. -/
theorem Encoding.noSlot {i : Instr} (h : ∀ st, encOps st i = none)
    (h1 : ∀ w, encodeRecord i = some w → decodeRecord w = some i)
    (h2 : ∀ w, encodeFlow i = some w → decodeFlow w = some i)
    (h3 : ∀ w, encodeCmd i = some w → decodeCmd w = some i) : Encoding.Statement i :=
  ⟨fun st s d w _ he => by simp [encodeSlot, h st] at he, h1, h2, h3⟩

theorem noOps {i : Instr} (hc : encC i = none) (hv : encV i = none) (hd : encD i = none) (he : encE i = none)
    (st : Strand) : encOps st i = none := by
  cases st <;> assumption

/-- An instruction with a record alone. -/
theorem Encoding.ofRec {i : Instr} {op : Nat} {r : Rec} (ho : op < 256) (h : ∀ st, encOps st i = none)
    (h0 : encodeRecord i = some (encRec op r)) (h1 : recInstr op r = some i) (h2 : encodeFlow i = none)
    (h3 : encodeCmd i = none) : Encoding.Statement i := by
  refine Encoding.noSlot h (fun w hw => ?_) (by simp [h2]) (by simp [h3])
  have : encRec op r = w := by simpa [h0] using hw
  subst this
  simp [decodeRecord, encRec_fields ho, h1]

/-- An instruction with a flow entry alone. -/
theorem Encoding.ofFlow {i : Instr} {op : Nat} {e : FlowEntry} (ho : op < 256) (h : ∀ st, encOps st i = none)
    (h0 : encodeFlow i = some (encFlow op e)) (h1 : flowInstr op e = some i) (h2 : encodeRecord i = none)
    (h3 : encodeCmd i = none) : Encoding.Statement i := by
  refine Encoding.noSlot h (by simp [h2]) (fun w hw => ?_) (by simp [h3])
  have : encFlow op e = w := by simpa [h0] using hw
  subst this
  simp [decodeFlow, encFlow_fields ho, h1]

/-- An instruction with a mailbox command alone. -/
theorem Encoding.ofCmd {i : Instr} {op : Nat} {c : Cmd} (ho : op < 256) (h : ∀ st, encOps st i = none)
    (h0 : encodeCmd i = some (encCmd op c)) (h1 : cmdInstr op c = some i) (h2 : encodeRecord i = none)
    (h3 : encodeFlow i = none) : Encoding.Statement i := by
  refine Encoding.noSlot h (by simp [h2]) (by simp [h3]) (fun w hw => ?_)
  have : encCmd op c = w := by simpa [h0] using hw
  subst this
  simp [decodeCmd, encCmd_fields ho, h1]

/-- An event, which has no word. -/
theorem Encoding.ofEvent {i : Instr} (h : ∀ st, encOps st i = none) (h1 : encodeRecord i = none)
    (h2 : encodeFlow i = none) (h3 : encodeCmd i = none) : Encoding.Statement i :=
  Encoding.noSlot h (by simp [h1]) (by simp [h2]) (by simp [h3])

theorem Encoding.jmp (off : BitVec 21) : Encoding.Statement (.jmp off) := by
  refine Encoding.ofSlot ?_ ?_ ?_ ?_ rfl rfl rfl
  · exact .inl rfl
  · refine .inr ⟨_, rfl, (fJ_fields (sy := false) (d := 0) (by decide) (by decide) off.isLt).1, fun sy dl => ?_⟩
    have F := fJ_fields (sy := sy) (d := dl) (op := 0x02) (mod := 0) (off := off.toNat) (by decide) (by decide) off.isLt
    generalize slotWord sy dl (fJ 0x02 0 off.toNat) = wd at F ⊢
    obtain ⟨h0, ho, hm, e0⟩ := F
    refine (decV_jmp ho).trans (congrArg some ?_)
    rw [ofNat_of (v := off) e0]
  · refine .inr ⟨_, rfl, (fJ_fields (sy := false) (d := 0) (by decide) (by decide) off.isLt).1, fun sy dl => ?_⟩
    have F := fJ_fields (sy := sy) (d := dl) (op := 0x02) (mod := 0) (off := off.toNat) (by decide) (by decide) off.isLt
    generalize slotWord sy dl (fJ 0x02 0 off.toNat) = wd at F ⊢
    obtain ⟨h0, ho, hm, e0⟩ := F
    refine (decD_jmp ho).trans (congrArg some ?_)
    rw [ofNat_of (v := off) e0]
  · refine .inr ⟨_, rfl, (fJ_fields (sy := false) (d := 0) (by decide) (by decide) off.isLt).1, fun sy dl => ?_⟩
    have F := fJ_fields (sy := sy) (d := dl) (op := 0x02) (mod := 0) (off := off.toNat) (by decide) (by decide) off.isLt
    generalize slotWord sy dl (fJ 0x02 0 off.toNat) = wd at F ⊢
    obtain ⟨h0, ho, hm, e0⟩ := F
    refine (decE_jmp ho).trans (congrArg some ?_)
    rw [ofNat_of (v := off) e0]
theorem Encoding.lpf (off : BitVec 21) : Encoding.Statement (.lpf off) := by
  refine Encoding.ofSlot ?_ ?_ ?_ ?_ rfl rfl rfl
  · exact .inl rfl
  · refine .inr ⟨_, rfl, (fJ_fields (sy := false) (d := 0) (by decide) (by decide) off.isLt).1, fun sy dl => ?_⟩
    have F := fJ_fields (sy := sy) (d := dl) (op := 0x03) (mod := 0) (off := off.toNat) (by decide) (by decide) off.isLt
    generalize slotWord sy dl (fJ 0x03 0 off.toNat) = wd at F ⊢
    obtain ⟨h0, ho, hm, e0⟩ := F
    refine (decV_lpf ho).trans (congrArg some ?_)
    rw [ofNat_of (v := off) e0]
  · refine .inr ⟨_, rfl, (fJ_fields (sy := false) (d := 0) (by decide) (by decide) off.isLt).1, fun sy dl => ?_⟩
    have F := fJ_fields (sy := sy) (d := dl) (op := 0x03) (mod := 0) (off := off.toNat) (by decide) (by decide) off.isLt
    generalize slotWord sy dl (fJ 0x03 0 off.toNat) = wd at F ⊢
    obtain ⟨h0, ho, hm, e0⟩ := F
    refine (decD_lpf ho).trans (congrArg some ?_)
    rw [ofNat_of (v := off) e0]
  · refine .inr ⟨_, rfl, (fJ_fields (sy := false) (d := 0) (by decide) (by decide) off.isLt).1, fun sy dl => ?_⟩
    have F := fJ_fields (sy := sy) (d := dl) (op := 0x03) (mod := 0) (off := off.toNat) (by decide) (by decide) off.isLt
    generalize slotWord sy dl (fJ 0x03 0 off.toNat) = wd at F ⊢
    obtain ⟨h0, ho, hm, e0⟩ := F
    refine (decE_lpf ho).trans (congrArg some ?_)
    rw [ofNat_of (v := off) e0]
theorem Encoding.add (sd : BitVec 6) (sa : BitVec 6) (sb : BitVec 6) : Encoding.Statement (.add sd sa sb) := by
  refine Encoding.ofSlot ?_ ?_ ?_ ?_ rfl rfl rfl
  · refine .inr ⟨_, rfl, (fCR_fields (sy := false) (d := 0) (by decide) (by decide) sd.isLt sa.isLt sb.isLt (by decide)).1, fun sy dl => ?_⟩
    have F := fCR_fields (sy := sy) (d := dl) (op := 0x08) (mod := 0) (sd := sd.toNat) (sa := sa.toNat) (sb := sb.toNat) (sc := 0) (by decide) (by decide) sd.isLt sa.isLt sb.isLt (by decide)
    generalize slotWord sy dl (fCR 0x08 0 sd.toNat sa.toNat sb.toNat 0) = wd at F ⊢
    obtain ⟨h0, ho, hm, e0, e1, e2, e3⟩ := F
    refine (decC_add ho).trans (congrArg some ?_)
    rw [ofNat_of (v := sd) e0, ofNat_of (v := sa) e1, ofNat_of (v := sb) e2]
  · exact .inl rfl
  · exact .inl rfl
  · exact .inl rfl
theorem Encoding.sub (sd : BitVec 6) (sa : BitVec 6) (sb : BitVec 6) : Encoding.Statement (.sub sd sa sb) := by
  refine Encoding.ofSlot ?_ ?_ ?_ ?_ rfl rfl rfl
  · refine .inr ⟨_, rfl, (fCR_fields (sy := false) (d := 0) (by decide) (by decide) sd.isLt sa.isLt sb.isLt (by decide)).1, fun sy dl => ?_⟩
    have F := fCR_fields (sy := sy) (d := dl) (op := 0x09) (mod := 0) (sd := sd.toNat) (sa := sa.toNat) (sb := sb.toNat) (sc := 0) (by decide) (by decide) sd.isLt sa.isLt sb.isLt (by decide)
    generalize slotWord sy dl (fCR 0x09 0 sd.toNat sa.toNat sb.toNat 0) = wd at F ⊢
    obtain ⟨h0, ho, hm, e0, e1, e2, e3⟩ := F
    refine (decC_sub ho).trans (congrArg some ?_)
    rw [ofNat_of (v := sd) e0, ofNat_of (v := sa) e1, ofNat_of (v := sb) e2]
  · exact .inl rfl
  · exact .inl rfl
  · exact .inl rfl
theorem Encoding.and (sd : BitVec 6) (sa : BitVec 6) (sb : BitVec 6) : Encoding.Statement (.and sd sa sb) := by
  refine Encoding.ofSlot ?_ ?_ ?_ ?_ rfl rfl rfl
  · refine .inr ⟨_, rfl, (fCR_fields (sy := false) (d := 0) (by decide) (by decide) sd.isLt sa.isLt sb.isLt (by decide)).1, fun sy dl => ?_⟩
    have F := fCR_fields (sy := sy) (d := dl) (op := 0x0A) (mod := 0) (sd := sd.toNat) (sa := sa.toNat) (sb := sb.toNat) (sc := 0) (by decide) (by decide) sd.isLt sa.isLt sb.isLt (by decide)
    generalize slotWord sy dl (fCR 0x0A 0 sd.toNat sa.toNat sb.toNat 0) = wd at F ⊢
    obtain ⟨h0, ho, hm, e0, e1, e2, e3⟩ := F
    refine (decC_and ho).trans (congrArg some ?_)
    rw [ofNat_of (v := sd) e0, ofNat_of (v := sa) e1, ofNat_of (v := sb) e2]
  · exact .inl rfl
  · exact .inl rfl
  · exact .inl rfl
theorem Encoding.or (sd : BitVec 6) (sa : BitVec 6) (sb : BitVec 6) : Encoding.Statement (.or sd sa sb) := by
  refine Encoding.ofSlot ?_ ?_ ?_ ?_ rfl rfl rfl
  · refine .inr ⟨_, rfl, (fCR_fields (sy := false) (d := 0) (by decide) (by decide) sd.isLt sa.isLt sb.isLt (by decide)).1, fun sy dl => ?_⟩
    have F := fCR_fields (sy := sy) (d := dl) (op := 0x0B) (mod := 0) (sd := sd.toNat) (sa := sa.toNat) (sb := sb.toNat) (sc := 0) (by decide) (by decide) sd.isLt sa.isLt sb.isLt (by decide)
    generalize slotWord sy dl (fCR 0x0B 0 sd.toNat sa.toNat sb.toNat 0) = wd at F ⊢
    obtain ⟨h0, ho, hm, e0, e1, e2, e3⟩ := F
    refine (decC_or ho).trans (congrArg some ?_)
    rw [ofNat_of (v := sd) e0, ofNat_of (v := sa) e1, ofNat_of (v := sb) e2]
  · exact .inl rfl
  · exact .inl rfl
  · exact .inl rfl
theorem Encoding.xor (sd : BitVec 6) (sa : BitVec 6) (sb : BitVec 6) : Encoding.Statement (.xor sd sa sb) := by
  refine Encoding.ofSlot ?_ ?_ ?_ ?_ rfl rfl rfl
  · refine .inr ⟨_, rfl, (fCR_fields (sy := false) (d := 0) (by decide) (by decide) sd.isLt sa.isLt sb.isLt (by decide)).1, fun sy dl => ?_⟩
    have F := fCR_fields (sy := sy) (d := dl) (op := 0x0C) (mod := 0) (sd := sd.toNat) (sa := sa.toNat) (sb := sb.toNat) (sc := 0) (by decide) (by decide) sd.isLt sa.isLt sb.isLt (by decide)
    generalize slotWord sy dl (fCR 0x0C 0 sd.toNat sa.toNat sb.toNat 0) = wd at F ⊢
    obtain ⟨h0, ho, hm, e0, e1, e2, e3⟩ := F
    refine (decC_xor ho).trans (congrArg some ?_)
    rw [ofNat_of (v := sd) e0, ofNat_of (v := sa) e1, ofNat_of (v := sb) e2]
  · exact .inl rfl
  · exact .inl rfl
  · exact .inl rfl
theorem Encoding.shl (sd : BitVec 6) (sa : BitVec 6) (sb : BitVec 6) : Encoding.Statement (.shl sd sa sb) := by
  refine Encoding.ofSlot ?_ ?_ ?_ ?_ rfl rfl rfl
  · refine .inr ⟨_, rfl, (fCR_fields (sy := false) (d := 0) (by decide) (by decide) sd.isLt sa.isLt sb.isLt (by decide)).1, fun sy dl => ?_⟩
    have F := fCR_fields (sy := sy) (d := dl) (op := 0x0D) (mod := 0) (sd := sd.toNat) (sa := sa.toNat) (sb := sb.toNat) (sc := 0) (by decide) (by decide) sd.isLt sa.isLt sb.isLt (by decide)
    generalize slotWord sy dl (fCR 0x0D 0 sd.toNat sa.toNat sb.toNat 0) = wd at F ⊢
    obtain ⟨h0, ho, hm, e0, e1, e2, e3⟩ := F
    refine (decC_shl ho).trans (congrArg some ?_)
    rw [ofNat_of (v := sd) e0, ofNat_of (v := sa) e1, ofNat_of (v := sb) e2]
  · exact .inl rfl
  · exact .inl rfl
  · exact .inl rfl
theorem Encoding.shr (sd : BitVec 6) (sa : BitVec 6) (sb : BitVec 6) : Encoding.Statement (.shr sd sa sb) := by
  refine Encoding.ofSlot ?_ ?_ ?_ ?_ rfl rfl rfl
  · refine .inr ⟨_, rfl, (fCR_fields (sy := false) (d := 0) (by decide) (by decide) sd.isLt sa.isLt sb.isLt (by decide)).1, fun sy dl => ?_⟩
    have F := fCR_fields (sy := sy) (d := dl) (op := 0x0E) (mod := 0) (sd := sd.toNat) (sa := sa.toNat) (sb := sb.toNat) (sc := 0) (by decide) (by decide) sd.isLt sa.isLt sb.isLt (by decide)
    generalize slotWord sy dl (fCR 0x0E 0 sd.toNat sa.toNat sb.toNat 0) = wd at F ⊢
    obtain ⟨h0, ho, hm, e0, e1, e2, e3⟩ := F
    refine (decC_shr ho).trans (congrArg some ?_)
    rw [ofNat_of (v := sd) e0, ofNat_of (v := sa) e1, ofNat_of (v := sb) e2]
  · exact .inl rfl
  · exact .inl rfl
  · exact .inl rfl
theorem Encoding.sra (sd : BitVec 6) (sa : BitVec 6) (sb : BitVec 6) : Encoding.Statement (.sra sd sa sb) := by
  refine Encoding.ofSlot ?_ ?_ ?_ ?_ rfl rfl rfl
  · refine .inr ⟨_, rfl, (fCR_fields (sy := false) (d := 0) (by decide) (by decide) sd.isLt sa.isLt sb.isLt (by decide)).1, fun sy dl => ?_⟩
    have F := fCR_fields (sy := sy) (d := dl) (op := 0x0F) (mod := 0) (sd := sd.toNat) (sa := sa.toNat) (sb := sb.toNat) (sc := 0) (by decide) (by decide) sd.isLt sa.isLt sb.isLt (by decide)
    generalize slotWord sy dl (fCR 0x0F 0 sd.toNat sa.toNat sb.toNat 0) = wd at F ⊢
    obtain ⟨h0, ho, hm, e0, e1, e2, e3⟩ := F
    refine (decC_sra ho).trans (congrArg some ?_)
    rw [ofNat_of (v := sd) e0, ofNat_of (v := sa) e1, ofNat_of (v := sb) e2]
  · exact .inl rfl
  · exact .inl rfl
  · exact .inl rfl
theorem Encoding.mul (sd : BitVec 6) (sa : BitVec 6) (sb : BitVec 6) : Encoding.Statement (.mul sd sa sb) := by
  refine Encoding.ofSlot ?_ ?_ ?_ ?_ rfl rfl rfl
  · refine .inr ⟨_, rfl, (fCR_fields (sy := false) (d := 0) (by decide) (by decide) sd.isLt sa.isLt sb.isLt (by decide)).1, fun sy dl => ?_⟩
    have F := fCR_fields (sy := sy) (d := dl) (op := 0x10) (mod := 0) (sd := sd.toNat) (sa := sa.toNat) (sb := sb.toNat) (sc := 0) (by decide) (by decide) sd.isLt sa.isLt sb.isLt (by decide)
    generalize slotWord sy dl (fCR 0x10 0 sd.toNat sa.toNat sb.toNat 0) = wd at F ⊢
    obtain ⟨h0, ho, hm, e0, e1, e2, e3⟩ := F
    refine (decC_mul ho).trans (congrArg some ?_)
    rw [ofNat_of (v := sd) e0, ofNat_of (v := sa) e1, ofNat_of (v := sb) e2]
  · exact .inl rfl
  · exact .inl rfl
  · exact .inl rfl
theorem Encoding.mulh (n : Bool) (sd : BitVec 6) (sa : BitVec 6) (sb : BitVec 6) : Encoding.Statement (.mulh n sd sa sb) := by
  refine Encoding.ofSlot ?_ ?_ ?_ ?_ rfl rfl rfl
  · refine .inr ⟨_, rfl, (fCR_fields (sy := false) (d := 0) (by decide) (by have := b2n_lt n; omega) sd.isLt sa.isLt sb.isLt (by decide)).1, fun sy dl => ?_⟩
    have F := fCR_fields (sy := sy) (d := dl) (op := 0x11) (mod := (b2n n)) (sd := sd.toNat) (sa := sa.toNat) (sb := sb.toNat) (sc := 0) (by decide) (by have := b2n_lt n; omega) sd.isLt sa.isLt sb.isLt (by decide)
    generalize slotWord sy dl (fCR 0x11 (b2n n) sd.toNat sa.toNat sb.toNat 0) = wd at F ⊢
    obtain ⟨h0, ho, hm, e0, e1, e2, e3⟩ := F
    refine (decC_mulh ho).trans (congrArg some ?_)
    rw [bitAt_of (b := n) (show wd / 2 ^ 48 % 2 = _ by have := b2n_lt n; have := sd.isLt; have := sa.isLt; have := sb.isLt; unfold bits at hm; omega), ofNat_of (v := sd) e0, ofNat_of (v := sa) e1, ofNat_of (v := sb) e2]
  · exact .inl rfl
  · exact .inl rfl
  · exact .inl rfl
theorem Encoding.div (n : Bool) (sd : BitVec 6) (sa : BitVec 6) (sb : BitVec 6) : Encoding.Statement (.div n sd sa sb) := by
  refine Encoding.ofSlot ?_ ?_ ?_ ?_ rfl rfl rfl
  · refine .inr ⟨_, rfl, (fCR_fields (sy := false) (d := 0) (by decide) (by have := b2n_lt n; omega) sd.isLt sa.isLt sb.isLt (by decide)).1, fun sy dl => ?_⟩
    have F := fCR_fields (sy := sy) (d := dl) (op := 0x12) (mod := (b2n n)) (sd := sd.toNat) (sa := sa.toNat) (sb := sb.toNat) (sc := 0) (by decide) (by have := b2n_lt n; omega) sd.isLt sa.isLt sb.isLt (by decide)
    generalize slotWord sy dl (fCR 0x12 (b2n n) sd.toNat sa.toNat sb.toNat 0) = wd at F ⊢
    obtain ⟨h0, ho, hm, e0, e1, e2, e3⟩ := F
    refine (decC_div ho).trans (congrArg some ?_)
    rw [bitAt_of (b := n) (show wd / 2 ^ 48 % 2 = _ by have := b2n_lt n; have := sd.isLt; have := sa.isLt; have := sb.isLt; unfold bits at hm; omega), ofNat_of (v := sd) e0, ofNat_of (v := sa) e1, ofNat_of (v := sb) e2]
  · exact .inl rfl
  · exact .inl rfl
  · exact .inl rfl
theorem Encoding.rem (n : Bool) (sd : BitVec 6) (sa : BitVec 6) (sb : BitVec 6) : Encoding.Statement (.rem n sd sa sb) := by
  refine Encoding.ofSlot ?_ ?_ ?_ ?_ rfl rfl rfl
  · refine .inr ⟨_, rfl, (fCR_fields (sy := false) (d := 0) (by decide) (by have := b2n_lt n; omega) sd.isLt sa.isLt sb.isLt (by decide)).1, fun sy dl => ?_⟩
    have F := fCR_fields (sy := sy) (d := dl) (op := 0x13) (mod := (b2n n)) (sd := sd.toNat) (sa := sa.toNat) (sb := sb.toNat) (sc := 0) (by decide) (by have := b2n_lt n; omega) sd.isLt sa.isLt sb.isLt (by decide)
    generalize slotWord sy dl (fCR 0x13 (b2n n) sd.toNat sa.toNat sb.toNat 0) = wd at F ⊢
    obtain ⟨h0, ho, hm, e0, e1, e2, e3⟩ := F
    refine (decC_rem ho).trans (congrArg some ?_)
    rw [bitAt_of (b := n) (show wd / 2 ^ 48 % 2 = _ by have := b2n_lt n; have := sd.isLt; have := sa.isLt; have := sb.isLt; unfold bits at hm; omega), ofNat_of (v := sd) e0, ofNat_of (v := sa) e1, ofNat_of (v := sb) e2]
  · exact .inl rfl
  · exact .inl rfl
  · exact .inl rfl
theorem Encoding.min (n : Bool) (sd : BitVec 6) (sa : BitVec 6) (sb : BitVec 6) : Encoding.Statement (.min n sd sa sb) := by
  refine Encoding.ofSlot ?_ ?_ ?_ ?_ rfl rfl rfl
  · refine .inr ⟨_, rfl, (fCR_fields (sy := false) (d := 0) (by decide) (by have := b2n_lt n; omega) sd.isLt sa.isLt sb.isLt (by decide)).1, fun sy dl => ?_⟩
    have F := fCR_fields (sy := sy) (d := dl) (op := 0x14) (mod := (b2n n)) (sd := sd.toNat) (sa := sa.toNat) (sb := sb.toNat) (sc := 0) (by decide) (by have := b2n_lt n; omega) sd.isLt sa.isLt sb.isLt (by decide)
    generalize slotWord sy dl (fCR 0x14 (b2n n) sd.toNat sa.toNat sb.toNat 0) = wd at F ⊢
    obtain ⟨h0, ho, hm, e0, e1, e2, e3⟩ := F
    refine (decC_min ho).trans (congrArg some ?_)
    rw [bitAt_of (b := n) (show wd / 2 ^ 48 % 2 = _ by have := b2n_lt n; have := sd.isLt; have := sa.isLt; have := sb.isLt; unfold bits at hm; omega), ofNat_of (v := sd) e0, ofNat_of (v := sa) e1, ofNat_of (v := sb) e2]
  · exact .inl rfl
  · exact .inl rfl
  · exact .inl rfl
theorem Encoding.max (n : Bool) (sd : BitVec 6) (sa : BitVec 6) (sb : BitVec 6) : Encoding.Statement (.max n sd sa sb) := by
  refine Encoding.ofSlot ?_ ?_ ?_ ?_ rfl rfl rfl
  · refine .inr ⟨_, rfl, (fCR_fields (sy := false) (d := 0) (by decide) (by have := b2n_lt n; omega) sd.isLt sa.isLt sb.isLt (by decide)).1, fun sy dl => ?_⟩
    have F := fCR_fields (sy := sy) (d := dl) (op := 0x15) (mod := (b2n n)) (sd := sd.toNat) (sa := sa.toNat) (sb := sb.toNat) (sc := 0) (by decide) (by have := b2n_lt n; omega) sd.isLt sa.isLt sb.isLt (by decide)
    generalize slotWord sy dl (fCR 0x15 (b2n n) sd.toNat sa.toNat sb.toNat 0) = wd at F ⊢
    obtain ⟨h0, ho, hm, e0, e1, e2, e3⟩ := F
    refine (decC_max ho).trans (congrArg some ?_)
    rw [bitAt_of (b := n) (show wd / 2 ^ 48 % 2 = _ by have := b2n_lt n; have := sd.isLt; have := sa.isLt; have := sb.isLt; unfold bits at hm; omega), ofNat_of (v := sd) e0, ofNat_of (v := sa) e1, ofNat_of (v := sb) e2]
  · exact .inl rfl
  · exact .inl rfl
  · exact .inl rfl
theorem Encoding.cmp (cond : BitVec 3) (sd : BitVec 6) (sa : BitVec 6) (sb : BitVec 6) : Encoding.Statement (.cmp cond sd sa sb) := by
  refine Encoding.ofSlot ?_ ?_ ?_ ?_ rfl rfl rfl
  · refine .inr ⟨_, rfl, (fCR_fields (sy := false) (d := 0) (by decide) (by have := cond.isLt; omega) sd.isLt sa.isLt sb.isLt (by decide)).1, fun sy dl => ?_⟩
    have F := fCR_fields (sy := sy) (d := dl) (op := 0x16) (mod := (cond.toNat * 4)) (sd := sd.toNat) (sa := sa.toNat) (sb := sb.toNat) (sc := 0) (by decide) (by have := cond.isLt; omega) sd.isLt sa.isLt sb.isLt (by decide)
    generalize slotWord sy dl (fCR 0x16 (cond.toNat * 4) sd.toNat sa.toNat sb.toNat 0) = wd at F ⊢
    obtain ⟨h0, ho, hm, e0, e1, e2, e3⟩ := F
    refine (decC_cmp ho).trans (congrArg some ?_)
    rw [ofNat_of (v := cond) (show bits wd 52 50 = _ by have := cond.isLt; have := sd.isLt; have := sa.isLt; have := sb.isLt; unfold bits at hm ⊢; omega), ofNat_of (v := sd) e0, ofNat_of (v := sa) e1, ofNat_of (v := sb) e2]
  · exact .inl rfl
  · exact .inl rfl
  · exact .inl rfl
theorem Encoding.sel (sd : BitVec 6) (sa : BitVec 6) (sb : BitVec 6) (sc : BitVec 6) : Encoding.Statement (.sel sd sa sb sc) := by
  refine Encoding.ofSlot ?_ ?_ ?_ ?_ rfl rfl rfl
  · refine .inr ⟨_, rfl, (fCR_fields (sy := false) (d := 0) (by decide) (by decide) sd.isLt sa.isLt sb.isLt sc.isLt).1, fun sy dl => ?_⟩
    have F := fCR_fields (sy := sy) (d := dl) (op := 0x17) (mod := 0) (sd := sd.toNat) (sa := sa.toNat) (sb := sb.toNat) (sc := sc.toNat) (by decide) (by decide) sd.isLt sa.isLt sb.isLt sc.isLt
    generalize slotWord sy dl (fCR 0x17 0 sd.toNat sa.toNat sb.toNat sc.toNat) = wd at F ⊢
    obtain ⟨h0, ho, hm, e0, e1, e2, e3⟩ := F
    refine (decC_sel ho).trans (congrArg some ?_)
    rw [ofNat_of (v := sd) e0, ofNat_of (v := sa) e1, ofNat_of (v := sb) e2, ofNat_of (v := sc) e3]
  · exact .inl rfl
  · exact .inl rfl
  · exact .inl rfl
theorem Encoding.ext (n : Bool) (w : BitVec 2) (sd : BitVec 6) (sa : BitVec 6) : Encoding.Statement (.ext n w sd sa) := by
  refine Encoding.ofSlot ?_ ?_ ?_ ?_ rfl rfl rfl
  · refine .inr ⟨_, rfl, (fCR_fields (sy := false) (d := 0) (by decide) (by have := b2n_lt n; have := w.isLt; omega) sd.isLt sa.isLt (by decide) (by decide)).1, fun sy dl => ?_⟩
    have F := fCR_fields (sy := sy) (d := dl) (op := 0x18) (mod := (b2n n * 4 + w.toNat)) (sd := sd.toNat) (sa := sa.toNat) (sb := 0) (sc := 0) (by decide) (by have := b2n_lt n; have := w.isLt; omega) sd.isLt sa.isLt (by decide) (by decide)
    generalize slotWord sy dl (fCR 0x18 (b2n n * 4 + w.toNat) sd.toNat sa.toNat 0 0) = wd at F ⊢
    obtain ⟨h0, ho, hm, e0, e1, e2, e3⟩ := F
    refine (decC_ext ho).trans (congrArg some ?_)
    rw [bitAt_of (b := n) (show wd / 2 ^ 50 % 2 = _ by have := b2n_lt n; have := w.isLt; have := sd.isLt; have := sa.isLt; unfold bits at hm; omega), ofNat_of (v := w) (show bits wd 49 48 = _ by have := b2n_lt n; have := w.isLt; have := sd.isLt; have := sa.isLt; unfold bits at hm ⊢; omega), ofNat_of (v := sd) e0, ofNat_of (v := sa) e1]
  · exact .inl rfl
  · exact .inl rfl
  · exact .inl rfl
theorem Encoding.bitc (k : BitVec 2) (sd : BitVec 6) (sa : BitVec 6) : Encoding.Statement (.bitc k sd sa) := by
  refine Encoding.ofSlot ?_ ?_ ?_ ?_ rfl rfl rfl
  · refine .inr ⟨_, rfl, (fCR_fields (sy := false) (d := 0) (by decide) (by have := k.isLt; omega) sd.isLt sa.isLt (by decide) (by decide)).1, fun sy dl => ?_⟩
    have F := fCR_fields (sy := sy) (d := dl) (op := 0x19) (mod := (k.toNat)) (sd := sd.toNat) (sa := sa.toNat) (sb := 0) (sc := 0) (by decide) (by have := k.isLt; omega) sd.isLt sa.isLt (by decide) (by decide)
    generalize slotWord sy dl (fCR 0x19 (k.toNat) sd.toNat sa.toNat 0 0) = wd at F ⊢
    obtain ⟨h0, ho, hm, e0, e1, e2, e3⟩ := F
    refine (decC_bitc ho).trans (congrArg some ?_)
    rw [ofNat_of (v := k) (show bits wd 49 48 = _ by have := k.isLt; have := sd.isLt; have := sa.isLt; unfold bits at hm ⊢; omega), ofNat_of (v := sd) e0, ofNat_of (v := sa) e1]
  · exact .inl rfl
  · exact .inl rfl
  · exact .inl rfl
theorem Encoding.addi (sd : BitVec 6) (sa : BitVec 6) (imm : BitVec 32) : Encoding.Statement (.addi sd sa imm) := by
  refine Encoding.ofSlot ?_ ?_ ?_ ?_ rfl rfl rfl
  · refine .inr ⟨_, rfl, (fCI_fields (sy := false) (d := 0) (by decide) (by decide) sd.isLt sa.isLt imm.isLt).1, fun sy dl => ?_⟩
    have F := fCI_fields (sy := sy) (d := dl) (op := 0x20) (mod := 0) (sd := sd.toNat) (sa := sa.toNat) (imm := imm.toNat) (by decide) (by decide) sd.isLt sa.isLt imm.isLt
    generalize slotWord sy dl (fCI 0x20 0 sd.toNat sa.toNat imm.toNat) = wd at F ⊢
    obtain ⟨h0, ho, hm, e0, e1, e2⟩ := F
    refine (decC_addi ho).trans (congrArg some ?_)
    rw [ofNat_of (v := sd) e0, ofNat_of (v := sa) e1, ofNat_of (v := imm) e2]
  · exact .inl rfl
  · exact .inl rfl
  · exact .inl rfl
theorem Encoding.andi (sd : BitVec 6) (sa : BitVec 6) (imm : BitVec 32) : Encoding.Statement (.andi sd sa imm) := by
  refine Encoding.ofSlot ?_ ?_ ?_ ?_ rfl rfl rfl
  · refine .inr ⟨_, rfl, (fCI_fields (sy := false) (d := 0) (by decide) (by decide) sd.isLt sa.isLt imm.isLt).1, fun sy dl => ?_⟩
    have F := fCI_fields (sy := sy) (d := dl) (op := 0x21) (mod := 0) (sd := sd.toNat) (sa := sa.toNat) (imm := imm.toNat) (by decide) (by decide) sd.isLt sa.isLt imm.isLt
    generalize slotWord sy dl (fCI 0x21 0 sd.toNat sa.toNat imm.toNat) = wd at F ⊢
    obtain ⟨h0, ho, hm, e0, e1, e2⟩ := F
    refine (decC_andi ho).trans (congrArg some ?_)
    rw [ofNat_of (v := sd) e0, ofNat_of (v := sa) e1, ofNat_of (v := imm) e2]
  · exact .inl rfl
  · exact .inl rfl
  · exact .inl rfl
theorem Encoding.ori (sd : BitVec 6) (sa : BitVec 6) (imm : BitVec 32) : Encoding.Statement (.ori sd sa imm) := by
  refine Encoding.ofSlot ?_ ?_ ?_ ?_ rfl rfl rfl
  · refine .inr ⟨_, rfl, (fCI_fields (sy := false) (d := 0) (by decide) (by decide) sd.isLt sa.isLt imm.isLt).1, fun sy dl => ?_⟩
    have F := fCI_fields (sy := sy) (d := dl) (op := 0x22) (mod := 0) (sd := sd.toNat) (sa := sa.toNat) (imm := imm.toNat) (by decide) (by decide) sd.isLt sa.isLt imm.isLt
    generalize slotWord sy dl (fCI 0x22 0 sd.toNat sa.toNat imm.toNat) = wd at F ⊢
    obtain ⟨h0, ho, hm, e0, e1, e2⟩ := F
    refine (decC_ori ho).trans (congrArg some ?_)
    rw [ofNat_of (v := sd) e0, ofNat_of (v := sa) e1, ofNat_of (v := imm) e2]
  · exact .inl rfl
  · exact .inl rfl
  · exact .inl rfl
theorem Encoding.xori (sd : BitVec 6) (sa : BitVec 6) (imm : BitVec 32) : Encoding.Statement (.xori sd sa imm) := by
  refine Encoding.ofSlot ?_ ?_ ?_ ?_ rfl rfl rfl
  · refine .inr ⟨_, rfl, (fCI_fields (sy := false) (d := 0) (by decide) (by decide) sd.isLt sa.isLt imm.isLt).1, fun sy dl => ?_⟩
    have F := fCI_fields (sy := sy) (d := dl) (op := 0x23) (mod := 0) (sd := sd.toNat) (sa := sa.toNat) (imm := imm.toNat) (by decide) (by decide) sd.isLt sa.isLt imm.isLt
    generalize slotWord sy dl (fCI 0x23 0 sd.toNat sa.toNat imm.toNat) = wd at F ⊢
    obtain ⟨h0, ho, hm, e0, e1, e2⟩ := F
    refine (decC_xori ho).trans (congrArg some ?_)
    rw [ofNat_of (v := sd) e0, ofNat_of (v := sa) e1, ofNat_of (v := imm) e2]
  · exact .inl rfl
  · exact .inl rfl
  · exact .inl rfl
theorem Encoding.shli (sd : BitVec 6) (sa : BitVec 6) (imm : BitVec 32) : Encoding.Statement (.shli sd sa imm) := by
  refine Encoding.ofSlot ?_ ?_ ?_ ?_ rfl rfl rfl
  · refine .inr ⟨_, rfl, (fCI_fields (sy := false) (d := 0) (by decide) (by decide) sd.isLt sa.isLt imm.isLt).1, fun sy dl => ?_⟩
    have F := fCI_fields (sy := sy) (d := dl) (op := 0x24) (mod := 0) (sd := sd.toNat) (sa := sa.toNat) (imm := imm.toNat) (by decide) (by decide) sd.isLt sa.isLt imm.isLt
    generalize slotWord sy dl (fCI 0x24 0 sd.toNat sa.toNat imm.toNat) = wd at F ⊢
    obtain ⟨h0, ho, hm, e0, e1, e2⟩ := F
    refine (decC_shli ho).trans (congrArg some ?_)
    rw [ofNat_of (v := sd) e0, ofNat_of (v := sa) e1, ofNat_of (v := imm) e2]
  · exact .inl rfl
  · exact .inl rfl
  · exact .inl rfl
theorem Encoding.shri (sd : BitVec 6) (sa : BitVec 6) (imm : BitVec 32) : Encoding.Statement (.shri sd sa imm) := by
  refine Encoding.ofSlot ?_ ?_ ?_ ?_ rfl rfl rfl
  · refine .inr ⟨_, rfl, (fCI_fields (sy := false) (d := 0) (by decide) (by decide) sd.isLt sa.isLt imm.isLt).1, fun sy dl => ?_⟩
    have F := fCI_fields (sy := sy) (d := dl) (op := 0x25) (mod := 0) (sd := sd.toNat) (sa := sa.toNat) (imm := imm.toNat) (by decide) (by decide) sd.isLt sa.isLt imm.isLt
    generalize slotWord sy dl (fCI 0x25 0 sd.toNat sa.toNat imm.toNat) = wd at F ⊢
    obtain ⟨h0, ho, hm, e0, e1, e2⟩ := F
    refine (decC_shri ho).trans (congrArg some ?_)
    rw [ofNat_of (v := sd) e0, ofNat_of (v := sa) e1, ofNat_of (v := imm) e2]
  · exact .inl rfl
  · exact .inl rfl
  · exact .inl rfl
theorem Encoding.srai (sd : BitVec 6) (sa : BitVec 6) (imm : BitVec 32) : Encoding.Statement (.srai sd sa imm) := by
  refine Encoding.ofSlot ?_ ?_ ?_ ?_ rfl rfl rfl
  · refine .inr ⟨_, rfl, (fCI_fields (sy := false) (d := 0) (by decide) (by decide) sd.isLt sa.isLt imm.isLt).1, fun sy dl => ?_⟩
    have F := fCI_fields (sy := sy) (d := dl) (op := 0x26) (mod := 0) (sd := sd.toNat) (sa := sa.toNat) (imm := imm.toNat) (by decide) (by decide) sd.isLt sa.isLt imm.isLt
    generalize slotWord sy dl (fCI 0x26 0 sd.toNat sa.toNat imm.toNat) = wd at F ⊢
    obtain ⟨h0, ho, hm, e0, e1, e2⟩ := F
    refine (decC_srai ho).trans (congrArg some ?_)
    rw [ofNat_of (v := sd) e0, ofNat_of (v := sa) e1, ofNat_of (v := imm) e2]
  · exact .inl rfl
  · exact .inl rfl
  · exact .inl rfl
theorem Encoding.muli (sd : BitVec 6) (sa : BitVec 6) (imm : BitVec 32) : Encoding.Statement (.muli sd sa imm) := by
  refine Encoding.ofSlot ?_ ?_ ?_ ?_ rfl rfl rfl
  · refine .inr ⟨_, rfl, (fCI_fields (sy := false) (d := 0) (by decide) (by decide) sd.isLt sa.isLt imm.isLt).1, fun sy dl => ?_⟩
    have F := fCI_fields (sy := sy) (d := dl) (op := 0x27) (mod := 0) (sd := sd.toNat) (sa := sa.toNat) (imm := imm.toNat) (by decide) (by decide) sd.isLt sa.isLt imm.isLt
    generalize slotWord sy dl (fCI 0x27 0 sd.toNat sa.toNat imm.toNat) = wd at F ⊢
    obtain ⟨h0, ho, hm, e0, e1, e2⟩ := F
    refine (decC_muli ho).trans (congrArg some ?_)
    rw [ofNat_of (v := sd) e0, ofNat_of (v := sa) e1, ofNat_of (v := imm) e2]
  · exact .inl rfl
  · exact .inl rfl
  · exact .inl rfl
theorem Encoding.cmpi (cond : BitVec 3) (sd : BitVec 6) (sa : BitVec 6) (imm : BitVec 32) : Encoding.Statement (.cmpi cond sd sa imm) := by
  refine Encoding.ofSlot ?_ ?_ ?_ ?_ rfl rfl rfl
  · refine .inr ⟨_, rfl, (fCI_fields (sy := false) (d := 0) (by decide) (by have := cond.isLt; omega) sd.isLt sa.isLt imm.isLt).1, fun sy dl => ?_⟩
    have F := fCI_fields (sy := sy) (d := dl) (op := 0x28) (mod := (cond.toNat * 4)) (sd := sd.toNat) (sa := sa.toNat) (imm := imm.toNat) (by decide) (by have := cond.isLt; omega) sd.isLt sa.isLt imm.isLt
    generalize slotWord sy dl (fCI 0x28 (cond.toNat * 4) sd.toNat sa.toNat imm.toNat) = wd at F ⊢
    obtain ⟨h0, ho, hm, e0, e1, e2⟩ := F
    refine (decC_cmpi ho).trans (congrArg some ?_)
    rw [ofNat_of (v := cond) (show bits wd 52 50 = _ by have := cond.isLt; have := sd.isLt; have := sa.isLt; have := imm.isLt; unfold bits at hm ⊢; omega), ofNat_of (v := sd) e0, ofNat_of (v := sa) e1, ofNat_of (v := imm) e2]
  · exact .inl rfl
  · exact .inl rfl
  · exact .inl rfl
theorem Encoding.li (sd : BitVec 6) (imm : BitVec 32) : Encoding.Statement (.li sd imm) := by
  refine Encoding.ofSlot ?_ ?_ ?_ ?_ rfl rfl rfl
  · refine .inr ⟨_, rfl, (fCI_fields (sy := false) (d := 0) (by decide) (by decide) sd.isLt (by decide) imm.isLt).1, fun sy dl => ?_⟩
    have F := fCI_fields (sy := sy) (d := dl) (op := 0x29) (mod := 0) (sd := sd.toNat) (sa := 0) (imm := imm.toNat) (by decide) (by decide) sd.isLt (by decide) imm.isLt
    generalize slotWord sy dl (fCI 0x29 0 sd.toNat 0 imm.toNat) = wd at F ⊢
    obtain ⟨h0, ho, hm, e0, e1, e2⟩ := F
    refine (decC_li ho).trans (congrArg some ?_)
    rw [ofNat_of (v := sd) e0, ofNat_of (v := imm) e2]
  · exact .inl rfl
  · exact .inl rfl
  · exact .inl rfl
theorem Encoding.lih (sd : BitVec 6) (sa : BitVec 6) (imm : BitVec 32) : Encoding.Statement (.lih sd sa imm) := by
  refine Encoding.ofSlot ?_ ?_ ?_ ?_ rfl rfl rfl
  · refine .inr ⟨_, rfl, (fCI_fields (sy := false) (d := 0) (by decide) (by decide) sd.isLt sa.isLt imm.isLt).1, fun sy dl => ?_⟩
    have F := fCI_fields (sy := sy) (d := dl) (op := 0x2A) (mod := 0) (sd := sd.toNat) (sa := sa.toNat) (imm := imm.toNat) (by decide) (by decide) sd.isLt sa.isLt imm.isLt
    generalize slotWord sy dl (fCI 0x2A 0 sd.toNat sa.toNat imm.toNat) = wd at F ⊢
    obtain ⟨h0, ho, hm, e0, e1, e2⟩ := F
    refine (decC_lih ho).trans (congrArg some ?_)
    rw [ofNat_of (v := sd) e0, ofNat_of (v := sa) e1, ofNat_of (v := imm) e2]
  · exact .inl rfl
  · exact .inl rfl
  · exact .inl rfl
theorem Encoding.br (off : BitVec 21) : Encoding.Statement (.br off) := by
  refine Encoding.ofSlot ?_ ?_ ?_ ?_ rfl rfl rfl
  · refine .inr ⟨_, rfl, (fCB_fields (sy := false) (d := 0) (by decide) (by decide) (by decide) (by decide) (by decide) off.isLt).1, fun sy dl => ?_⟩
    have F := fCB_fields (sy := sy) (d := dl) (op := 0x30) (mod := 0) (sa := 0) (sb := 0) (sd := 0) (off := off.toNat) (by decide) (by decide) (by decide) (by decide) (by decide) off.isLt
    generalize slotWord sy dl (fCB 0x30 0 0 0 0 off.toNat) = wd at F ⊢
    obtain ⟨h0, ho, hm, e0, e1, e2, e3⟩ := F
    refine (decC_br ho).trans (congrArg some ?_)
    rw [ofNat_of (v := off) e3]
  · exact .inl rfl
  · exact .inl rfl
  · exact .inl rfl
theorem Encoding.bc (cond : BitVec 3) (sa : BitVec 6) (sb : BitVec 6) (off : BitVec 21) : Encoding.Statement (.bc cond sa sb off) := by
  refine Encoding.ofSlot ?_ ?_ ?_ ?_ rfl rfl rfl
  · refine .inr ⟨_, rfl, (fCB_fields (sy := false) (d := 0) (by decide) (by have := cond.isLt; omega) sa.isLt sb.isLt (by decide) off.isLt).1, fun sy dl => ?_⟩
    have F := fCB_fields (sy := sy) (d := dl) (op := 0x31) (mod := (cond.toNat * 4)) (sa := sa.toNat) (sb := sb.toNat) (sd := 0) (off := off.toNat) (by decide) (by have := cond.isLt; omega) sa.isLt sb.isLt (by decide) off.isLt
    generalize slotWord sy dl (fCB 0x31 (cond.toNat * 4) sa.toNat sb.toNat 0 off.toNat) = wd at F ⊢
    obtain ⟨h0, ho, hm, e0, e1, e2, e3⟩ := F
    refine (decC_bc ho).trans (congrArg some ?_)
    rw [ofNat_of (v := cond) (show bits wd 52 50 = _ by have := cond.isLt; have := sa.isLt; have := sb.isLt; have := off.isLt; unfold bits at hm ⊢; omega), ofNat_of (v := sa) e0, ofNat_of (v := sb) e1, ofNat_of (v := off) e3]
  · exact .inl rfl
  · exact .inl rfl
  · exact .inl rfl
theorem Encoding.bf (fs : BitVec 2) (test : BitVec 2) (inv : Bool) (off : BitVec 21) : Encoding.Statement (.bf fs test inv off) := by
  refine Encoding.ofSlot ?_ ?_ ?_ ?_ rfl rfl rfl
  · refine .inr ⟨_, rfl, (fCB_fields (sy := false) (d := 0) (by decide) (by have := fs.isLt; have := test.isLt; have := b2n_lt inv; omega) (by decide) (by decide) (by decide) off.isLt).1, fun sy dl => ?_⟩
    have F := fCB_fields (sy := sy) (d := dl) (op := 0x32) (mod := (fs.toNat * 8 + test.toNat * 2 + b2n inv)) (sa := 0) (sb := 0) (sd := 0) (off := off.toNat) (by decide) (by have := fs.isLt; have := test.isLt; have := b2n_lt inv; omega) (by decide) (by decide) (by decide) off.isLt
    generalize slotWord sy dl (fCB 0x32 (fs.toNat * 8 + test.toNat * 2 + b2n inv) 0 0 0 off.toNat) = wd at F ⊢
    obtain ⟨h0, ho, hm, e0, e1, e2, e3⟩ := F
    refine (decC_bf ho).trans (congrArg some ?_)
    rw [ofNat_of (v := fs) (show bits wd 52 51 = _ by have := fs.isLt; have := test.isLt; have := b2n_lt inv; have := off.isLt; unfold bits at hm ⊢; omega), ofNat_of (v := test) (show bits wd 50 49 = _ by have := fs.isLt; have := test.isLt; have := b2n_lt inv; have := off.isLt; unfold bits at hm ⊢; omega), bitAt_of (b := inv) (show wd / 2 ^ 48 % 2 = _ by have := fs.isLt; have := test.isLt; have := b2n_lt inv; have := off.isLt; unfold bits at hm; omega), ofNat_of (v := off) e3]
  · exact .inl rfl
  · exact .inl rfl
  · exact .inl rfl
theorem Encoding.jr (sa : BitVec 6) : Encoding.Statement (.jr sa) := by
  refine Encoding.ofSlot ?_ ?_ ?_ ?_ rfl rfl rfl
  · refine .inr ⟨_, rfl, (fCR_fields (sy := false) (d := 0) (by decide) (by decide) sa.isLt (by decide) (by decide) (by decide)).1, fun sy dl => ?_⟩
    have F := fCR_fields (sy := sy) (d := dl) (op := 0x33) (mod := 0) (sd := sa.toNat) (sa := 0) (sb := 0) (sc := 0) (by decide) (by decide) sa.isLt (by decide) (by decide) (by decide)
    generalize slotWord sy dl (fCR 0x33 0 sa.toNat 0 0 0) = wd at F ⊢
    obtain ⟨h0, ho, hm, e0, e1, e2, e3⟩ := F
    refine (decC_jr ho).trans (congrArg some ?_)
    rw [ofNat_of (v := sa) e0]
  · exact .inl rfl
  · exact .inl rfl
  · exact .inl rfl
theorem Encoding.call (sd : BitVec 6) (off : BitVec 21) : Encoding.Statement (.call sd off) := by
  refine Encoding.ofSlot ?_ ?_ ?_ ?_ rfl rfl rfl
  · refine .inr ⟨_, rfl, (fCB_fields (sy := false) (d := 0) (by decide) (by decide) (by decide) (by decide) sd.isLt off.isLt).1, fun sy dl => ?_⟩
    have F := fCB_fields (sy := sy) (d := dl) (op := 0x34) (mod := 0) (sa := 0) (sb := 0) (sd := sd.toNat) (off := off.toNat) (by decide) (by decide) (by decide) (by decide) sd.isLt off.isLt
    generalize slotWord sy dl (fCB 0x34 0 0 0 sd.toNat off.toNat) = wd at F ⊢
    obtain ⟨h0, ho, hm, e0, e1, e2, e3⟩ := F
    refine (decC_call ho).trans (congrArg some ?_)
    rw [ofNat_of (v := sd) e2, ofNat_of (v := off) e3]
  · exact .inl rfl
  · exact .inl rfl
  · exact .inl rfl
theorem Encoding.loopr (sd : BitVec 6) (off : BitVec 21) : Encoding.Statement (.loopr sd off) := by
  refine Encoding.ofSlot ?_ ?_ ?_ ?_ rfl rfl rfl
  · refine .inr ⟨_, rfl, (fCB_fields (sy := false) (d := 0) (by decide) (by decide) (by decide) (by decide) sd.isLt off.isLt).1, fun sy dl => ?_⟩
    have F := fCB_fields (sy := sy) (d := dl) (op := 0x35) (mod := 0) (sa := 0) (sb := 0) (sd := sd.toNat) (off := off.toNat) (by decide) (by decide) (by decide) (by decide) sd.isLt off.isLt
    generalize slotWord sy dl (fCB 0x35 0 0 0 sd.toNat off.toNat) = wd at F ⊢
    obtain ⟨h0, ho, hm, e0, e1, e2, e3⟩ := F
    refine (decC_loopr ho).trans (congrArg some ?_)
    rw [ofNat_of (v := sd) e2, ofNat_of (v := off) e3]
  · exact .inl rfl
  · exact .inl rfl
  · exact .inl rfl
theorem Encoding.pop (r : BitVec 6) (n : BitVec 4) : Encoding.Statement (.pop r n) := by
  refine Encoding.ofSlot ?_ ?_ ?_ ?_ rfl rfl rfl
  · refine .inr ⟨_, rfl, (fCQ_fields (sy := false) (d := 0) (by decide) (by decide) r.isLt n.isLt).1, fun sy dl => ?_⟩
    have F := fCQ_fields (sy := sy) (d := dl) (op := 0x38) (mod := 0) (s := r.toNat) (n := n.toNat) (by decide) (by decide) r.isLt n.isLt
    generalize slotWord sy dl (fCQ 0x38 0 r.toNat n.toNat) = wd at F ⊢
    obtain ⟨h0, ho, hm, e0, e1⟩ := F
    refine (decC_pop ho).trans (congrArg some ?_)
    rw [ofNat_of (v := r) e0, ofNat_of (v := n) e1]
  · exact .inl rfl
  · exact .inl rfl
  · exact .inl rfl
theorem Encoding.push (r : BitVec 6) (n : BitVec 4) : Encoding.Statement (.push r n) := by
  refine Encoding.ofSlot ?_ ?_ ?_ ?_ rfl rfl rfl
  · refine .inr ⟨_, rfl, (fCQ_fields (sy := false) (d := 0) (by decide) (by decide) r.isLt n.isLt).1, fun sy dl => ?_⟩
    have F := fCQ_fields (sy := sy) (d := dl) (op := 0x39) (mod := 0) (s := r.toNat) (n := n.toNat) (by decide) (by decide) r.isLt n.isLt
    generalize slotWord sy dl (fCQ 0x39 0 r.toNat n.toNat) = wd at F ⊢
    obtain ⟨h0, ho, hm, e0, e1⟩ := F
    refine (decC_push ho).trans (congrArg some ?_)
    rw [ofNat_of (v := r) e0, ofNat_of (v := n) e1]
  · exact .inl rfl
  · exact .inl rfl
  · exact .inl rfl
theorem Encoding.qlen (r : BitVec 6) (n : BitVec 4) : Encoding.Statement (.qlen r n) := by
  refine Encoding.ofSlot ?_ ?_ ?_ ?_ rfl rfl rfl
  · refine .inr ⟨_, rfl, (fCQ_fields (sy := false) (d := 0) (by decide) (by decide) r.isLt n.isLt).1, fun sy dl => ?_⟩
    have F := fCQ_fields (sy := sy) (d := dl) (op := 0x3A) (mod := 0) (s := r.toNat) (n := n.toNat) (by decide) (by decide) r.isLt n.isLt
    generalize slotWord sy dl (fCQ 0x3A 0 r.toNat n.toNat) = wd at F ⊢
    obtain ⟨h0, ho, hm, e0, e1⟩ := F
    refine (decC_qlen ho).trans (congrArg some ?_)
    rw [ofNat_of (v := r) e0, ofNat_of (v := n) e1]
  · exact .inl rfl
  · exact .inl rfl
  · exact .inl rfl
theorem Encoding.rdfs (r : BitVec 6) (n : BitVec 4) : Encoding.Statement (.rdfs r n) := by
  refine Encoding.ofSlot ?_ ?_ ?_ ?_ rfl rfl rfl
  · refine .inr ⟨_, rfl, (fCQ_fields (sy := false) (d := 0) (by decide) (by decide) r.isLt n.isLt).1, fun sy dl => ?_⟩
    have F := fCQ_fields (sy := sy) (d := dl) (op := 0x3B) (mod := 0) (s := r.toNat) (n := n.toNat) (by decide) (by decide) r.isLt n.isLt
    generalize slotWord sy dl (fCQ 0x3B 0 r.toNat n.toNat) = wd at F ⊢
    obtain ⟨h0, ho, hm, e0, e1⟩ := F
    refine (decC_rdfs ho).trans (congrArg some ?_)
    rw [ofNat_of (v := r) e0, ofNat_of (v := n) e1]
  · exact .inl rfl
  · exact .inl rfl
  · exact .inl rfl
theorem Encoding.csrr (sd : BitVec 6) (csr : BitVec 12) : Encoding.Statement (.csrr sd csr) := by
  refine Encoding.ofSlot ?_ ?_ ?_ ?_ rfl rfl rfl
  · refine .inr ⟨_, rfl, (fCX_fields (sy := false) (d := 0) (by decide) (by decide) sd.isLt (by decide) csr.isLt (by decide)).1, fun sy dl => ?_⟩
    have F := fCX_fields (sy := sy) (d := dl) (op := 0x40) (mod := 0) (sd := sd.toNat) (sa := 0) (idx := csr.toNat) (imm := 0) (by decide) (by decide) sd.isLt (by decide) csr.isLt (by decide)
    generalize slotWord sy dl (fCX 0x40 0 sd.toNat 0 csr.toNat 0) = wd at F ⊢
    obtain ⟨h0, ho, hm, e0, e1, e2, e3⟩ := F
    refine (decC_csrr ho).trans (congrArg some ?_)
    rw [ofNat_of (v := sd) e0, ofNat_of (v := csr) e2]
  · exact .inl rfl
  · exact .inl rfl
  · exact .inl rfl
theorem Encoding.csrw (csr : BitVec 12) (sa : BitVec 6) : Encoding.Statement (.csrw csr sa) := by
  refine Encoding.ofSlot ?_ ?_ ?_ ?_ rfl rfl rfl
  · refine .inr ⟨_, rfl, (fCX_fields (sy := false) (d := 0) (by decide) (by decide) (by decide) sa.isLt csr.isLt (by decide)).1, fun sy dl => ?_⟩
    have F := fCX_fields (sy := sy) (d := dl) (op := 0x41) (mod := 0) (sd := 0) (sa := sa.toNat) (idx := csr.toNat) (imm := 0) (by decide) (by decide) (by decide) sa.isLt csr.isLt (by decide)
    generalize slotWord sy dl (fCX 0x41 0 0 sa.toNat csr.toNat 0) = wd at F ⊢
    obtain ⟨h0, ho, hm, e0, e1, e2, e3⟩ := F
    refine (decC_csrw ho).trans (congrArg some ?_)
    rw [ofNat_of (v := csr) e2, ofNat_of (v := sa) e1]
  · exact .inl rfl
  · exact .inl rfl
  · exact .inl rfl
theorem Encoding.csrs (csr : BitVec 12) (sa : BitVec 6) : Encoding.Statement (.csrs csr sa) := by
  refine Encoding.ofSlot ?_ ?_ ?_ ?_ rfl rfl rfl
  · refine .inr ⟨_, rfl, (fCX_fields (sy := false) (d := 0) (by decide) (by decide) (by decide) sa.isLt csr.isLt (by decide)).1, fun sy dl => ?_⟩
    have F := fCX_fields (sy := sy) (d := dl) (op := 0x42) (mod := 0) (sd := 0) (sa := sa.toNat) (idx := csr.toNat) (imm := 0) (by decide) (by decide) (by decide) sa.isLt csr.isLt (by decide)
    generalize slotWord sy dl (fCX 0x42 0 0 sa.toNat csr.toNat 0) = wd at F ⊢
    obtain ⟨h0, ho, hm, e0, e1, e2, e3⟩ := F
    refine (decC_csrs ho).trans (congrArg some ?_)
    rw [ofNat_of (v := csr) e2, ofNat_of (v := sa) e1]
  · exact .inl rfl
  · exact .inl rfl
  · exact .inl rfl
theorem Encoding.csrc (csr : BitVec 12) (sa : BitVec 6) : Encoding.Statement (.csrc csr sa) := by
  refine Encoding.ofSlot ?_ ?_ ?_ ?_ rfl rfl rfl
  · refine .inr ⟨_, rfl, (fCX_fields (sy := false) (d := 0) (by decide) (by decide) (by decide) sa.isLt csr.isLt (by decide)).1, fun sy dl => ?_⟩
    have F := fCX_fields (sy := sy) (d := dl) (op := 0x43) (mod := 0) (sd := 0) (sa := sa.toNat) (idx := csr.toNat) (imm := 0) (by decide) (by decide) (by decide) sa.isLt csr.isLt (by decide)
    generalize slotWord sy dl (fCX 0x43 0 0 sa.toNat csr.toNat 0) = wd at F ⊢
    obtain ⟨h0, ho, hm, e0, e1, e2, e3⟩ := F
    refine (decC_csrc ho).trans (congrArg some ?_)
    rw [ofNat_of (v := csr) e2, ofNat_of (v := sa) e1]
  · exact .inl rfl
  · exact .inl rfl
  · exact .inl rfl
theorem Encoding.rand (u : Bool) (sd : BitVec 6) (sa : BitVec 6) (sb : BitVec 6) : Encoding.Statement (.rand u sd sa sb) := by
  refine Encoding.ofSlot ?_ ?_ ?_ ?_ rfl rfl rfl
  · refine .inr ⟨_, rfl, (fCR_fields (sy := false) (d := 0) (by decide) (by have := b2n_lt u; omega) sd.isLt sa.isLt sb.isLt (by decide)).1, fun sy dl => ?_⟩
    have F := fCR_fields (sy := sy) (d := dl) (op := 0x44) (mod := (b2n u)) (sd := sd.toNat) (sa := sa.toNat) (sb := sb.toNat) (sc := 0) (by decide) (by have := b2n_lt u; omega) sd.isLt sa.isLt sb.isLt (by decide)
    generalize slotWord sy dl (fCR 0x44 (b2n u) sd.toNat sa.toNat sb.toNat 0) = wd at F ⊢
    obtain ⟨h0, ho, hm, e0, e1, e2, e3⟩ := F
    refine (decC_rand ho).trans (congrArg some ?_)
    rw [bitAt_of (b := u) (show wd / 2 ^ 48 % 2 = _ by have := b2n_lt u; have := sd.isLt; have := sa.isLt; have := sb.isLt; unfold bits at hm; omega), ofNat_of (v := sd) e0, ofNat_of (v := sa) e1, ofNat_of (v := sb) e2]
  · exact .inl rfl
  · exact .inl rfl
  · exact .inl rfl
theorem Encoding.btr (sd : BitVec 6) (idx : BitVec 12) : Encoding.Statement (.btr sd idx) := by
  refine Encoding.ofSlot ?_ ?_ ?_ ?_ rfl rfl rfl
  · refine .inr ⟨_, rfl, (fCX_fields (sy := false) (d := 0) (by decide) (by decide) sd.isLt (by decide) idx.isLt (by decide)).1, fun sy dl => ?_⟩
    have F := fCX_fields (sy := sy) (d := dl) (op := 0x45) (mod := 0) (sd := sd.toNat) (sa := 0) (idx := idx.toNat) (imm := 0) (by decide) (by decide) sd.isLt (by decide) idx.isLt (by decide)
    generalize slotWord sy dl (fCX 0x45 0 sd.toNat 0 idx.toNat 0) = wd at F ⊢
    obtain ⟨h0, ho, hm, e0, e1, e2, e3⟩ := F
    refine (decC_btr ho).trans (congrArg some ?_)
    rw [ofNat_of (v := sd) e0, ofNat_of (v := idx) e2]
  · exact .inl rfl
  · exact .inl rfl
  · exact .inl rfl
theorem Encoding.btw (idx : BitVec 12) (sa : BitVec 6) : Encoding.Statement (.btw idx sa) := by
  refine Encoding.ofSlot ?_ ?_ ?_ ?_ rfl rfl rfl
  · refine .inr ⟨_, rfl, (fCX_fields (sy := false) (d := 0) (by decide) (by decide) (by decide) sa.isLt idx.isLt (by decide)).1, fun sy dl => ?_⟩
    have F := fCX_fields (sy := sy) (d := dl) (op := 0x46) (mod := 0) (sd := 0) (sa := sa.toNat) (idx := idx.toNat) (imm := 0) (by decide) (by decide) (by decide) sa.isLt idx.isLt (by decide)
    generalize slotWord sy dl (fCX 0x46 0 0 sa.toNat idx.toNat 0) = wd at F ⊢
    obtain ⟨h0, ho, hm, e0, e1, e2, e3⟩ := F
    refine (decC_btw ho).trans (congrArg some ?_)
    rw [ofNat_of (v := idx) e2, ofNat_of (v := sa) e1]
  · exact .inl rfl
  · exact .inl rfl
  · exact .inl rfl
theorem Encoding.lcw (eng : BitVec 2) (idx : BitVec 12) (sa : BitVec 6) : Encoding.Statement (.lcw eng idx sa) := by
  refine Encoding.ofSlot ?_ ?_ ?_ ?_ rfl rfl rfl
  · refine .inr ⟨_, rfl, (fCX_fields (sy := false) (d := 0) (by decide) (by have := eng.isLt; omega) (by decide) sa.isLt idx.isLt (by decide)).1, fun sy dl => ?_⟩
    have F := fCX_fields (sy := sy) (d := dl) (op := 0x47) (mod := (eng.toNat)) (sd := 0) (sa := sa.toNat) (idx := idx.toNat) (imm := 0) (by decide) (by have := eng.isLt; omega) (by decide) sa.isLt idx.isLt (by decide)
    generalize slotWord sy dl (fCX 0x47 (eng.toNat) 0 sa.toNat idx.toNat 0) = wd at F ⊢
    obtain ⟨h0, ho, hm, e0, e1, e2, e3⟩ := F
    refine (decC_lcw ho).trans (congrArg some ?_)
    rw [ofNat_of (v := eng) (show bits wd 49 48 = _ by have := eng.isLt; have := idx.isLt; have := sa.isLt; unfold bits at hm ⊢; omega), ofNat_of (v := idx) e2, ofNat_of (v := sa) e1]
  · exact .inl rfl
  · exact .inl rfl
  · exact .inl rfl
theorem Encoding.harr (idx : BitVec 12) : Encoding.Statement (.harr idx) := by
  refine Encoding.ofSlot ?_ ?_ ?_ ?_ rfl rfl rfl
  · refine .inr ⟨_, rfl, (fCX_fields (sy := false) (d := 0) (by decide) (by decide) (by decide) (by decide) idx.isLt (by decide)).1, fun sy dl => ?_⟩
    have F := fCX_fields (sy := sy) (d := dl) (op := 0x48) (mod := 0) (sd := 0) (sa := 0) (idx := idx.toNat) (imm := 0) (by decide) (by decide) (by decide) (by decide) idx.isLt (by decide)
    generalize slotWord sy dl (fCX 0x48 0 0 0 idx.toNat 0) = wd at F ⊢
    obtain ⟨h0, ho, hm, e0, e1, e2, e3⟩ := F
    refine (decC_harr ho).trans (congrArg some ?_)
    rw [ofNat_of (v := idx) e2]
  · exact .inl rfl
  · exact .inl rfl
  · exact .inl rfl
theorem Encoding.hwt (idx : BitVec 12) : Encoding.Statement (.hwt idx) := by
  refine Encoding.ofSlot ?_ ?_ ?_ ?_ rfl rfl rfl
  · refine .inr ⟨_, rfl, (fCX_fields (sy := false) (d := 0) (by decide) (by decide) (by decide) (by decide) idx.isLt (by decide)).1, fun sy dl => ?_⟩
    have F := fCX_fields (sy := sy) (d := dl) (op := 0x49) (mod := 0) (sd := 0) (sa := 0) (idx := idx.toNat) (imm := 0) (by decide) (by decide) (by decide) (by decide) idx.isLt (by decide)
    generalize slotWord sy dl (fCX 0x49 0 0 0 idx.toNat 0) = wd at F ⊢
    obtain ⟨h0, ho, hm, e0, e1, e2, e3⟩ := F
    refine (decC_hwt ho).trans (congrArg some ?_)
    rw [ofNat_of (v := idx) e2]
  · exact .inl rfl
  · exact .inl rfl
  · exact .inl rfl
theorem Encoding.hset (idx : BitVec 12) (sa : BitVec 6) : Encoding.Statement (.hset idx sa) := by
  refine Encoding.ofSlot ?_ ?_ ?_ ?_ rfl rfl rfl
  · refine .inr ⟨_, rfl, (fCX_fields (sy := false) (d := 0) (by decide) (by decide) (by decide) sa.isLt idx.isLt (by decide)).1, fun sy dl => ?_⟩
    have F := fCX_fields (sy := sy) (d := dl) (op := 0x4A) (mod := 0) (sd := 0) (sa := sa.toNat) (idx := idx.toNat) (imm := 0) (by decide) (by decide) (by decide) sa.isLt idx.isLt (by decide)
    generalize slotWord sy dl (fCX 0x4A 0 0 sa.toNat idx.toNat 0) = wd at F ⊢
    obtain ⟨h0, ho, hm, e0, e1, e2, e3⟩ := F
    refine (decC_hset ho).trans (congrArg some ?_)
    rw [ofNat_of (v := idx) e2, ofNat_of (v := sa) e1]
  · exact .inl rfl
  · exact .inl rfl
  · exact .inl rfl
theorem Encoding.hpoll (sd : BitVec 6) (idx : BitVec 12) : Encoding.Statement (.hpoll sd idx) := by
  refine Encoding.ofSlot ?_ ?_ ?_ ?_ rfl rfl rfl
  · refine .inr ⟨_, rfl, (fCX_fields (sy := false) (d := 0) (by decide) (by decide) sd.isLt (by decide) idx.isLt (by decide)).1, fun sy dl => ?_⟩
    have F := fCX_fields (sy := sy) (d := dl) (op := 0x4B) (mod := 0) (sd := sd.toNat) (sa := 0) (idx := idx.toNat) (imm := 0) (by decide) (by decide) sd.isLt (by decide) idx.isLt (by decide)
    generalize slotWord sy dl (fCX 0x4B 0 sd.toNat 0 idx.toNat 0) = wd at F ⊢
    obtain ⟨h0, ho, hm, e0, e1, e2, e3⟩ := F
    refine (decC_hpoll ho).trans (congrArg some ?_)
    rw [ofNat_of (v := sd) e0, ofNat_of (v := idx) e2]
  · exact .inl rfl
  · exact .inl rfl
  · exact .inl rfl
theorem Encoding.lnch (sa : BitVec 6) : Encoding.Statement (.lnch sa) := by
  refine Encoding.ofSlot ?_ ?_ ?_ ?_ rfl rfl rfl
  · refine .inr ⟨_, rfl, (fCR_fields (sy := false) (d := 0) (by decide) (by decide) (by decide) sa.isLt (by decide) (by decide)).1, fun sy dl => ?_⟩
    have F := fCR_fields (sy := sy) (d := dl) (op := 0x50) (mod := 0) (sd := 0) (sa := sa.toNat) (sb := 0) (sc := 0) (by decide) (by decide) (by decide) sa.isLt (by decide) (by decide)
    generalize slotWord sy dl (fCR 0x50 0 0 sa.toNat 0 0) = wd at F ⊢
    obtain ⟨h0, ho, hm, e0, e1, e2, e3⟩ := F
    refine (decC_lnch ho).trans (congrArg some ?_)
    rw [ofNat_of (v := sa) e1]
  · exact .inl rfl
  · exact .inl rfl
  · exact .inl rfl
theorem Encoding.fcrd (sd : BitVec 6) (idx : BitVec 12) : Encoding.Statement (.fcrd sd idx) := by
  refine Encoding.ofSlot ?_ ?_ ?_ ?_ rfl rfl rfl
  · refine .inr ⟨_, rfl, (fCX_fields (sy := false) (d := 0) (by decide) (by decide) sd.isLt (by decide) idx.isLt (by decide)).1, fun sy dl => ?_⟩
    have F := fCX_fields (sy := sy) (d := dl) (op := 0x51) (mod := 0) (sd := sd.toNat) (sa := 0) (idx := idx.toNat) (imm := 0) (by decide) (by decide) sd.isLt (by decide) idx.isLt (by decide)
    generalize slotWord sy dl (fCX 0x51 0 sd.toNat 0 idx.toNat 0) = wd at F ⊢
    obtain ⟨h0, ho, hm, e0, e1, e2, e3⟩ := F
    refine (decC_fcrd ho).trans (congrArg some ?_)
    rw [ofNat_of (v := sd) e0, ofNat_of (v := idx) e2]
  · exact .inl rfl
  · exact .inl rfl
  · exact .inl rfl
theorem Encoding.fcw (idx : BitVec 12) (sa : BitVec 6) : Encoding.Statement (.fcw idx sa) := by
  refine Encoding.ofSlot ?_ ?_ ?_ ?_ rfl rfl rfl
  · refine .inr ⟨_, rfl, (fCX_fields (sy := false) (d := 0) (by decide) (by decide) (by decide) sa.isLt idx.isLt (by decide)).1, fun sy dl => ?_⟩
    have F := fCX_fields (sy := sy) (d := dl) (op := 0x52) (mod := 0) (sd := 0) (sa := sa.toNat) (idx := idx.toNat) (imm := 0) (by decide) (by decide) (by decide) sa.isLt idx.isLt (by decide)
    generalize slotWord sy dl (fCX 0x52 0 0 sa.toNat idx.toNat 0) = wd at F ⊢
    obtain ⟨h0, ho, hm, e0, e1, e2, e3⟩ := F
    refine (decC_fcw ho).trans (congrArg some ?_)
    rw [ofNat_of (v := idx) e2, ofNat_of (v := sa) e1]
  · exact .inl rfl
  · exact .inl rfl
  · exact .inl rfl
theorem Encoding.fcwt (idx : BitVec 12) (sa : BitVec 6) : Encoding.Statement (.fcwt idx sa) := by
  refine Encoding.ofSlot ?_ ?_ ?_ ?_ rfl rfl rfl
  · refine .inr ⟨_, rfl, (fCX_fields (sy := false) (d := 0) (by decide) (by decide) (by decide) sa.isLt idx.isLt (by decide)).1, fun sy dl => ?_⟩
    have F := fCX_fields (sy := sy) (d := dl) (op := 0x53) (mod := 0) (sd := 0) (sa := sa.toNat) (idx := idx.toNat) (imm := 0) (by decide) (by decide) (by decide) sa.isLt idx.isLt (by decide)
    generalize slotWord sy dl (fCX 0x53 0 0 sa.toNat idx.toNat 0) = wd at F ⊢
    obtain ⟨h0, ho, hm, e0, e1, e2, e3⟩ := F
    refine (decC_fcwt ho).trans (congrArg some ?_)
    rw [ofNat_of (v := idx) e2, ofNat_of (v := sa) e1]
  · exact .inl rfl
  · exact .inl rfl
  · exact .inl rfl
theorem Encoding.cncl (lvl : BitVec 2) (sa : BitVec 6) : Encoding.Statement (.cncl lvl sa) := by
  refine Encoding.ofSlot ?_ ?_ ?_ ?_ rfl rfl rfl
  · refine .inr ⟨_, rfl, (fCR_fields (sy := false) (d := 0) (by decide) (by have := lvl.isLt; omega) (by decide) sa.isLt (by decide) (by decide)).1, fun sy dl => ?_⟩
    have F := fCR_fields (sy := sy) (d := dl) (op := 0x54) (mod := (lvl.toNat)) (sd := 0) (sa := sa.toNat) (sb := 0) (sc := 0) (by decide) (by have := lvl.isLt; omega) (by decide) sa.isLt (by decide) (by decide)
    generalize slotWord sy dl (fCR 0x54 (lvl.toNat) 0 sa.toNat 0 0) = wd at F ⊢
    obtain ⟨h0, ho, hm, e0, e1, e2, e3⟩ := F
    refine (decC_cncl ho).trans (congrArg some ?_)
    rw [ofNat_of (v := lvl) (show bits wd 49 48 = _ by have := lvl.isLt; have := sa.isLt; unfold bits at hm ⊢; omega), ofNat_of (v := sa) e1]
  · exact .inl rfl
  · exact .inl rfl
  · exact .inl rfl
theorem Encoding.lvwt (lvl : BitVec 2) (sa : BitVec 6) (sb : BitVec 6) : Encoding.Statement (.lvwt lvl sa sb) := by
  refine Encoding.ofSlot ?_ ?_ ?_ ?_ rfl rfl rfl
  · refine .inr ⟨_, rfl, (fCR_fields (sy := false) (d := 0) (by decide) (by have := lvl.isLt; omega) (by decide) sa.isLt sb.isLt (by decide)).1, fun sy dl => ?_⟩
    have F := fCR_fields (sy := sy) (d := dl) (op := 0x55) (mod := (lvl.toNat)) (sd := 0) (sa := sa.toNat) (sb := sb.toNat) (sc := 0) (by decide) (by have := lvl.isLt; omega) (by decide) sa.isLt sb.isLt (by decide)
    generalize slotWord sy dl (fCR 0x55 (lvl.toNat) 0 sa.toNat sb.toNat 0) = wd at F ⊢
    obtain ⟨h0, ho, hm, e0, e1, e2, e3⟩ := F
    refine (decC_lvwt ho).trans (congrArg some ?_)
    rw [ofNat_of (v := lvl) (show bits wd 49 48 = _ by have := lvl.isLt; have := sa.isLt; have := sb.isLt; unfold bits at hm ⊢; omega), ofNat_of (v := sa) e1, ofNat_of (v := sb) e2]
  · exact .inl rfl
  · exact .inl rfl
  · exact .inl rfl
theorem Encoding.phint (imm : BitVec 24) : Encoding.Statement (.phint imm) := by
  refine Encoding.ofSlot ?_ ?_ ?_ ?_ rfl rfl rfl
  · refine .inr ⟨_, rfl, (fCX_fields (sy := false) (d := 0) (by decide) (by decide) (by decide) (by decide) (by decide) imm.isLt).1, fun sy dl => ?_⟩
    have F := fCX_fields (sy := sy) (d := dl) (op := 0x58) (mod := 0) (sd := 0) (sa := 0) (idx := 0) (imm := imm.toNat) (by decide) (by decide) (by decide) (by decide) (by decide) imm.isLt
    generalize slotWord sy dl (fCX 0x58 0 0 0 0 imm.toNat) = wd at F ⊢
    obtain ⟨h0, ho, hm, e0, e1, e2, e3⟩ := F
    refine (decC_phint ho).trans (congrArg some ?_)
    rw [ofNat_of (v := imm) e3]
  · exact .inl rfl
  · exact .inl rfl
  · exact .inl rfl
theorem Encoding.yield (imm : BitVec 24) : Encoding.Statement (.yield imm) := by
  refine Encoding.ofSlot ?_ ?_ ?_ ?_ rfl rfl rfl
  · refine .inr ⟨_, rfl, (fCX_fields (sy := false) (d := 0) (by decide) (by decide) (by decide) (by decide) (by decide) imm.isLt).1, fun sy dl => ?_⟩
    have F := fCX_fields (sy := sy) (d := dl) (op := 0x59) (mod := 0) (sd := 0) (sa := 0) (idx := 0) (imm := imm.toNat) (by decide) (by decide) (by decide) (by decide) (by decide) imm.isLt
    generalize slotWord sy dl (fCX 0x59 0 0 0 0 imm.toNat) = wd at F ⊢
    obtain ⟨h0, ho, hm, e0, e1, e2, e3⟩ := F
    refine (decC_yield ho).trans (congrArg some ?_)
    rw [ofNat_of (v := imm) e3]
  · exact .inl rfl
  · exact .inl rfl
  · exact .inl rfl
theorem Encoding.trace (sa : BitVec 6) (imm : BitVec 24) : Encoding.Statement (.trace sa imm) := by
  refine Encoding.ofSlot ?_ ?_ ?_ ?_ rfl rfl rfl
  · refine .inr ⟨_, rfl, (fCX_fields (sy := false) (d := 0) (by decide) (by decide) (by decide) sa.isLt (by decide) imm.isLt).1, fun sy dl => ?_⟩
    have F := fCX_fields (sy := sy) (d := dl) (op := 0x5A) (mod := 0) (sd := 0) (sa := sa.toNat) (idx := 0) (imm := imm.toNat) (by decide) (by decide) (by decide) sa.isLt (by decide) imm.isLt
    generalize slotWord sy dl (fCX 0x5A 0 0 sa.toNat 0 imm.toNat) = wd at F ⊢
    obtain ⟨h0, ho, hm, e0, e1, e2, e3⟩ := F
    refine (decC_trace ho).trans (congrArg some ?_)
    rw [ofNat_of (v := sa) e1, ofNat_of (v := imm) e3]
  · exact .inl rfl
  · exact .inl rfl
  · exact .inl rfl
theorem Encoding.trap (imm : BitVec 24) : Encoding.Statement (.trap imm) := by
  refine Encoding.ofSlot ?_ ?_ ?_ ?_ rfl rfl rfl
  · refine .inr ⟨_, rfl, (fCX_fields (sy := false) (d := 0) (by decide) (by decide) (by decide) (by decide) (by decide) imm.isLt).1, fun sy dl => ?_⟩
    have F := fCX_fields (sy := sy) (d := dl) (op := 0x5B) (mod := 0) (sd := 0) (sa := 0) (idx := 0) (imm := imm.toNat) (by decide) (by decide) (by decide) (by decide) (by decide) imm.isLt
    generalize slotWord sy dl (fCX 0x5B 0 0 0 0 imm.toNat) = wd at F ⊢
    obtain ⟨h0, ho, hm, e0, e1, e2, e3⟩ := F
    refine (decC_trap ho).trans (congrArg some ?_)
    rw [ofNat_of (v := imm) e3]
  · exact .inl rfl
  · exact .inl rfl
  · exact .inl rfl
theorem Encoding.shi (sd : BitVec 6) (imm : BitVec 24) : Encoding.Statement (.shi sd imm) := by
  refine Encoding.ofSlot ?_ ?_ ?_ ?_ rfl rfl rfl
  · refine .inr ⟨_, rfl, (fCX_fields (sy := false) (d := 0) (by decide) (by decide) sd.isLt (by decide) (by decide) imm.isLt).1, fun sy dl => ?_⟩
    have F := fCX_fields (sy := sy) (d := dl) (op := 0x60) (mod := 0) (sd := sd.toNat) (sa := 0) (idx := 0) (imm := imm.toNat) (by decide) (by decide) sd.isLt (by decide) (by decide) imm.isLt
    generalize slotWord sy dl (fCX 0x60 0 sd.toNat 0 0 imm.toNat) = wd at F ⊢
    obtain ⟨h0, ho, hm, e0, e1, e2, e3⟩ := F
    refine (decC_shi ho).trans (congrArg some ?_)
    rw [ofNat_of (v := sd) e0, ofNat_of (v := imm) e3]
  · exact .inl rfl
  · exact .inl rfl
  · exact .inl rfl
theorem Encoding.xlin (sa : BitVec 6) (sb : BitVec 6) : Encoding.Statement (.xlin sa sb) := by
  refine Encoding.ofSlot ?_ ?_ ?_ ?_ rfl rfl rfl
  · refine .inr ⟨_, rfl, (fCR_fields (sy := false) (d := 0) (by decide) (by decide) (by decide) sa.isLt sb.isLt (by decide)).1, fun sy dl => ?_⟩
    have F := fCR_fields (sy := sy) (d := dl) (op := 0x61) (mod := 0) (sd := 0) (sa := sa.toNat) (sb := sb.toNat) (sc := 0) (by decide) (by decide) (by decide) sa.isLt sb.isLt (by decide)
    generalize slotWord sy dl (fCR 0x61 0 0 sa.toNat sb.toNat 0) = wd at F ⊢
    obtain ⟨h0, ho, hm, e0, e1, e2, e3⟩ := F
    refine (decC_xlin ho).trans (congrArg some ?_)
    rw [ofNat_of (v := sa) e1, ofNat_of (v := sb) e2]
  · exact .inl rfl
  · exact .inl rfl
  · exact .inl rfl
theorem Encoding.pblk (pattern : BitVec 8) (cnt : BitVec 3) (kp : BitVec 5) : Encoding.Statement (.pblk pattern cnt kp) := by
  refine Encoding.ofSlot ?_ ?_ ?_ ?_ rfl rfl rfl
  · exact .inl rfl
  · refine .inr ⟨_, rfl, (fVB_fields (sy := false) (d := 0) (by decide) (by decide) pattern.isLt cnt.isLt kp.isLt).1, fun sy dl => ?_⟩
    have F := fVB_fields (sy := sy) (d := dl) (op := 0x04) (mod := 0) (pattern := pattern.toNat) (cnt := cnt.toNat) (kp := kp.toNat) (by decide) (by decide) pattern.isLt cnt.isLt kp.isLt
    generalize slotWord sy dl (fVB 0x04 0 pattern.toNat cnt.toNat kp.toNat) = wd at F ⊢
    obtain ⟨h0, ho, hm, e0, e1, e2⟩ := F
    refine (decV_pblk ho).trans (congrArg some ?_)
    rw [ofNat_of (v := pattern) e0, ofNat_of (v := cnt) e1, ofNat_of (v := kp) e2]
  · exact .inl rfl
  · exact .inl rfl
theorem Encoding.vadd (o : VOps) (rm : BitVec 3) : Encoding.Statement (.vadd o rm) := by
  refine Encoding.ofSlot ?_ ?_ ?_ ?_ rfl rfl rfl
  · exact .inl rfl
  · refine .inr ⟨_, rfl, (fVR_fields (sy := false) (d := 0) (by decide) (by have := rm.isLt; omega) (by decide)).1, fun sy dl => ?_⟩
    have F := fVR_fields (sy := sy) (d := dl) (op := 0x08) (mod := (rm.toNat * 4)) (o := o) (ty := 0) (by decide) (by have := rm.isLt; omega) (by decide)
    generalize slotWord sy dl (fVR 0x08 (rm.toNat * 4) o 0) = wd at F ⊢
    obtain ⟨h0, ho, hm, e0, e1⟩ := F
    refine (decV_vadd ho).trans (congrArg some ?_)
    rw [e1, ofNat_of (v := rm) (show bits wd 52 50 = _ by have := rm.isLt; unfold bits at hm ⊢; omega)]
  · exact .inl rfl
  · exact .inl rfl
theorem Encoding.vsub (o : VOps) (rm : BitVec 3) : Encoding.Statement (.vsub o rm) := by
  refine Encoding.ofSlot ?_ ?_ ?_ ?_ rfl rfl rfl
  · exact .inl rfl
  · refine .inr ⟨_, rfl, (fVR_fields (sy := false) (d := 0) (by decide) (by have := rm.isLt; omega) (by decide)).1, fun sy dl => ?_⟩
    have F := fVR_fields (sy := sy) (d := dl) (op := 0x09) (mod := (rm.toNat * 4)) (o := o) (ty := 0) (by decide) (by have := rm.isLt; omega) (by decide)
    generalize slotWord sy dl (fVR 0x09 (rm.toNat * 4) o 0) = wd at F ⊢
    obtain ⟨h0, ho, hm, e0, e1⟩ := F
    refine (decV_vsub ho).trans (congrArg some ?_)
    rw [e1, ofNat_of (v := rm) (show bits wd 52 50 = _ by have := rm.isLt; unfold bits at hm ⊢; omega)]
  · exact .inl rfl
  · exact .inl rfl
theorem Encoding.vmul (o : VOps) (rm : BitVec 3) : Encoding.Statement (.vmul o rm) := by
  refine Encoding.ofSlot ?_ ?_ ?_ ?_ rfl rfl rfl
  · exact .inl rfl
  · refine .inr ⟨_, rfl, (fVR_fields (sy := false) (d := 0) (by decide) (by have := rm.isLt; omega) (by decide)).1, fun sy dl => ?_⟩
    have F := fVR_fields (sy := sy) (d := dl) (op := 0x0A) (mod := (rm.toNat * 4)) (o := o) (ty := 0) (by decide) (by have := rm.isLt; omega) (by decide)
    generalize slotWord sy dl (fVR 0x0A (rm.toNat * 4) o 0) = wd at F ⊢
    obtain ⟨h0, ho, hm, e0, e1⟩ := F
    refine (decV_vmul ho).trans (congrArg some ?_)
    rw [e1, ofNat_of (v := rm) (show bits wd 52 50 = _ by have := rm.isLt; unfold bits at hm ⊢; omega)]
  · exact .inl rfl
  · exact .inl rfl
theorem Encoding.vfma (o : VOps) (rm : BitVec 3) : Encoding.Statement (.vfma o rm) := by
  refine Encoding.ofSlot ?_ ?_ ?_ ?_ rfl rfl rfl
  · exact .inl rfl
  · refine .inr ⟨_, rfl, (fVR_fields (sy := false) (d := 0) (by decide) (by have := rm.isLt; omega) (by decide)).1, fun sy dl => ?_⟩
    have F := fVR_fields (sy := sy) (d := dl) (op := 0x0B) (mod := (rm.toNat * 4)) (o := o) (ty := 0) (by decide) (by have := rm.isLt; omega) (by decide)
    generalize slotWord sy dl (fVR 0x0B (rm.toNat * 4) o 0) = wd at F ⊢
    obtain ⟨h0, ho, hm, e0, e1⟩ := F
    refine (decV_vfma ho).trans (congrArg some ?_)
    rw [e1, ofNat_of (v := rm) (show bits wd 52 50 = _ by have := rm.isLt; unfold bits at hm ⊢; omega)]
  · exact .inl rfl
  · exact .inl rfl
theorem Encoding.vfms (o : VOps) (rm : BitVec 3) : Encoding.Statement (.vfms o rm) := by
  refine Encoding.ofSlot ?_ ?_ ?_ ?_ rfl rfl rfl
  · exact .inl rfl
  · refine .inr ⟨_, rfl, (fVR_fields (sy := false) (d := 0) (by decide) (by have := rm.isLt; omega) (by decide)).1, fun sy dl => ?_⟩
    have F := fVR_fields (sy := sy) (d := dl) (op := 0x0C) (mod := (rm.toNat * 4)) (o := o) (ty := 0) (by decide) (by have := rm.isLt; omega) (by decide)
    generalize slotWord sy dl (fVR 0x0C (rm.toNat * 4) o 0) = wd at F ⊢
    obtain ⟨h0, ho, hm, e0, e1⟩ := F
    refine (decV_vfms ho).trans (congrArg some ?_)
    rw [e1, ofNat_of (v := rm) (show bits wd 52 50 = _ by have := rm.isLt; unfold bits at hm ⊢; omega)]
  · exact .inl rfl
  · exact .inl rfl
theorem Encoding.vfnma (o : VOps) (rm : BitVec 3) : Encoding.Statement (.vfnma o rm) := by
  refine Encoding.ofSlot ?_ ?_ ?_ ?_ rfl rfl rfl
  · exact .inl rfl
  · refine .inr ⟨_, rfl, (fVR_fields (sy := false) (d := 0) (by decide) (by have := rm.isLt; omega) (by decide)).1, fun sy dl => ?_⟩
    have F := fVR_fields (sy := sy) (d := dl) (op := 0x0D) (mod := (rm.toNat * 4)) (o := o) (ty := 0) (by decide) (by have := rm.isLt; omega) (by decide)
    generalize slotWord sy dl (fVR 0x0D (rm.toNat * 4) o 0) = wd at F ⊢
    obtain ⟨h0, ho, hm, e0, e1⟩ := F
    refine (decV_vfnma ho).trans (congrArg some ?_)
    rw [e1, ofNat_of (v := rm) (show bits wd 52 50 = _ by have := rm.isLt; unfold bits at hm ⊢; omega)]
  · exact .inl rfl
  · exact .inl rfl
theorem Encoding.vmax (o : VOps) : Encoding.Statement (.vmax o) := by
  refine Encoding.ofSlot ?_ ?_ ?_ ?_ rfl rfl rfl
  · exact .inl rfl
  · refine .inr ⟨_, rfl, (fVR_fields (sy := false) (d := 0) (by decide) (by decide) (by decide)).1, fun sy dl => ?_⟩
    have F := fVR_fields (sy := sy) (d := dl) (op := 0x0E) (mod := 0) (o := o) (ty := 0) (by decide) (by decide) (by decide)
    generalize slotWord sy dl (fVR 0x0E 0 o 0) = wd at F ⊢
    obtain ⟨h0, ho, hm, e0, e1⟩ := F
    refine (decV_vmax ho).trans (congrArg some ?_)
    rw [e1]
  · exact .inl rfl
  · exact .inl rfl
theorem Encoding.vmin (o : VOps) : Encoding.Statement (.vmin o) := by
  refine Encoding.ofSlot ?_ ?_ ?_ ?_ rfl rfl rfl
  · exact .inl rfl
  · refine .inr ⟨_, rfl, (fVR_fields (sy := false) (d := 0) (by decide) (by decide) (by decide)).1, fun sy dl => ?_⟩
    have F := fVR_fields (sy := sy) (d := dl) (op := 0x0F) (mod := 0) (o := o) (ty := 0) (by decide) (by decide) (by decide)
    generalize slotWord sy dl (fVR 0x0F 0 o 0) = wd at F ⊢
    obtain ⟨h0, ho, hm, e0, e1⟩ := F
    refine (decV_vmin ho).trans (congrArg some ?_)
    rw [e1]
  · exact .inl rfl
  · exact .inl rfl
theorem Encoding.vabs (o : VOps) : Encoding.Statement (.vabs o) := by
  refine Encoding.ofSlot ?_ ?_ ?_ ?_ rfl rfl rfl
  · exact .inl rfl
  · refine .inr ⟨_, rfl, (fVR_fields (sy := false) (d := 0) (by decide) (by decide) (by decide)).1, fun sy dl => ?_⟩
    have F := fVR_fields (sy := sy) (d := dl) (op := 0x10) (mod := 0) (o := o) (ty := 0) (by decide) (by decide) (by decide)
    generalize slotWord sy dl (fVR 0x10 0 o 0) = wd at F ⊢
    obtain ⟨h0, ho, hm, e0, e1⟩ := F
    refine (decV_vabs ho).trans (congrArg some ?_)
    rw [e1]
  · exact .inl rfl
  · exact .inl rfl
theorem Encoding.vneg (o : VOps) : Encoding.Statement (.vneg o) := by
  refine Encoding.ofSlot ?_ ?_ ?_ ?_ rfl rfl rfl
  · exact .inl rfl
  · refine .inr ⟨_, rfl, (fVR_fields (sy := false) (d := 0) (by decide) (by decide) (by decide)).1, fun sy dl => ?_⟩
    have F := fVR_fields (sy := sy) (d := dl) (op := 0x11) (mod := 0) (o := o) (ty := 0) (by decide) (by decide) (by decide)
    generalize slotWord sy dl (fVR 0x11 0 o 0) = wd at F ⊢
    obtain ⟨h0, ho, hm, e0, e1⟩ := F
    refine (decV_vneg ho).trans (congrArg some ?_)
    rw [e1]
  · exact .inl rfl
  · exact .inl rfl
theorem Encoding.vmov (o : VOps) : Encoding.Statement (.vmov o) := by
  refine Encoding.ofSlot ?_ ?_ ?_ ?_ rfl rfl rfl
  · exact .inl rfl
  · refine .inr ⟨_, rfl, (fVR_fields (sy := false) (d := 0) (by decide) (by decide) (by decide)).1, fun sy dl => ?_⟩
    have F := fVR_fields (sy := sy) (d := dl) (op := 0x13) (mod := 0) (o := o) (ty := 0) (by decide) (by decide) (by decide)
    generalize slotWord sy dl (fVR 0x13 0 o 0) = wd at F ⊢
    obtain ⟨h0, ho, hm, e0, e1⟩ := F
    refine (decV_vmov ho).trans (congrArg some ?_)
    rw [e1]
  · exact .inl rfl
  · exact .inl rfl
theorem Encoding.vexp2 (o : VOps) (rm : BitVec 3) : Encoding.Statement (.vexp2 o rm) := by
  refine Encoding.ofSlot ?_ ?_ ?_ ?_ rfl rfl rfl
  · exact .inl rfl
  · refine .inr ⟨_, rfl, (fVR_fields (sy := false) (d := 0) (by decide) (by have := rm.isLt; omega) (by decide)).1, fun sy dl => ?_⟩
    have F := fVR_fields (sy := sy) (d := dl) (op := 0x18) (mod := (rm.toNat * 4)) (o := o) (ty := 0) (by decide) (by have := rm.isLt; omega) (by decide)
    generalize slotWord sy dl (fVR 0x18 (rm.toNat * 4) o 0) = wd at F ⊢
    obtain ⟨h0, ho, hm, e0, e1⟩ := F
    refine (decV_vexp2 ho).trans (congrArg some ?_)
    rw [e1, ofNat_of (v := rm) (show bits wd 52 50 = _ by have := rm.isLt; unfold bits at hm ⊢; omega)]
  · exact .inl rfl
  · exact .inl rfl
theorem Encoding.vlog2 (o : VOps) (rm : BitVec 3) : Encoding.Statement (.vlog2 o rm) := by
  refine Encoding.ofSlot ?_ ?_ ?_ ?_ rfl rfl rfl
  · exact .inl rfl
  · refine .inr ⟨_, rfl, (fVR_fields (sy := false) (d := 0) (by decide) (by have := rm.isLt; omega) (by decide)).1, fun sy dl => ?_⟩
    have F := fVR_fields (sy := sy) (d := dl) (op := 0x19) (mod := (rm.toNat * 4)) (o := o) (ty := 0) (by decide) (by have := rm.isLt; omega) (by decide)
    generalize slotWord sy dl (fVR 0x19 (rm.toNat * 4) o 0) = wd at F ⊢
    obtain ⟨h0, ho, hm, e0, e1⟩ := F
    refine (decV_vlog2 ho).trans (congrArg some ?_)
    rw [e1, ofNat_of (v := rm) (show bits wd 52 50 = _ by have := rm.isLt; unfold bits at hm ⊢; omega)]
  · exact .inl rfl
  · exact .inl rfl
theorem Encoding.vrcpe (o : VOps) : Encoding.Statement (.vrcpe o) := by
  refine Encoding.ofSlot ?_ ?_ ?_ ?_ rfl rfl rfl
  · exact .inl rfl
  · refine .inr ⟨_, rfl, (fVR_fields (sy := false) (d := 0) (by decide) (by decide) (by decide)).1, fun sy dl => ?_⟩
    have F := fVR_fields (sy := sy) (d := dl) (op := 0x1A) (mod := 0) (o := o) (ty := 0) (by decide) (by decide) (by decide)
    generalize slotWord sy dl (fVR 0x1A 0 o 0) = wd at F ⊢
    obtain ⟨h0, ho, hm, e0, e1⟩ := F
    refine (decV_vrcpe ho).trans (congrArg some ?_)
    rw [e1]
  · exact .inl rfl
  · exact .inl rfl
theorem Encoding.vrsqe (o : VOps) : Encoding.Statement (.vrsqe o) := by
  refine Encoding.ofSlot ?_ ?_ ?_ ?_ rfl rfl rfl
  · exact .inl rfl
  · refine .inr ⟨_, rfl, (fVR_fields (sy := false) (d := 0) (by decide) (by decide) (by decide)).1, fun sy dl => ?_⟩
    have F := fVR_fields (sy := sy) (d := dl) (op := 0x1B) (mod := 0) (o := o) (ty := 0) (by decide) (by decide) (by decide)
    generalize slotWord sy dl (fVR 0x1B 0 o 0) = wd at F ⊢
    obtain ⟨h0, ho, hm, e0, e1⟩ := F
    refine (decV_vrsqe ho).trans (congrArg some ?_)
    rw [e1]
  · exact .inl rfl
  · exact .inl rfl
theorem Encoding.vrcpn (o : VOps) : Encoding.Statement (.vrcpn o) := by
  refine Encoding.ofSlot ?_ ?_ ?_ ?_ rfl rfl rfl
  · exact .inl rfl
  · refine .inr ⟨_, rfl, (fVR_fields (sy := false) (d := 0) (by decide) (by decide) (by decide)).1, fun sy dl => ?_⟩
    have F := fVR_fields (sy := sy) (d := dl) (op := 0x1C) (mod := 0) (o := o) (ty := 0) (by decide) (by decide) (by decide)
    generalize slotWord sy dl (fVR 0x1C 0 o 0) = wd at F ⊢
    obtain ⟨h0, ho, hm, e0, e1⟩ := F
    refine (decV_vrcpn ho).trans (congrArg some ?_)
    rw [e1]
  · exact .inl rfl
  · exact .inl rfl
theorem Encoding.vrsqn (o : VOps) : Encoding.Statement (.vrsqn o) := by
  refine Encoding.ofSlot ?_ ?_ ?_ ?_ rfl rfl rfl
  · exact .inl rfl
  · refine .inr ⟨_, rfl, (fVR_fields (sy := false) (d := 0) (by decide) (by decide) (by decide)).1, fun sy dl => ?_⟩
    have F := fVR_fields (sy := sy) (d := dl) (op := 0x1D) (mod := 0) (o := o) (ty := 0) (by decide) (by decide) (by decide)
    generalize slotWord sy dl (fVR 0x1D 0 o 0) = wd at F ⊢
    obtain ⟨h0, ho, hm, e0, e1⟩ := F
    refine (decV_vrsqn ho).trans (congrArg some ?_)
    rw [e1]
  · exact .inl rfl
  · exact .inl rfl
theorem Encoding.viadd (o : VOps) (lt : BitVec 3) : Encoding.Statement (.viadd o lt) := by
  refine Encoding.ofSlot ?_ ?_ ?_ ?_ rfl rfl rfl
  · exact .inl rfl
  · refine .inr ⟨_, rfl, (fVR_fields (sy := false) (d := 0) (by decide) (by decide) (by have := lt.isLt; omega)).1, fun sy dl => ?_⟩
    have F := fVR_fields (sy := sy) (d := dl) (op := 0x20) (mod := 0) (o := o) (ty := (lt.toNat * 32)) (by decide) (by decide) (by have := lt.isLt; omega)
    generalize slotWord sy dl (fVR 0x20 0 o (lt.toNat * 32)) = wd at F ⊢
    obtain ⟨h0, ho, hm, e0, e1⟩ := F
    refine (decV_viadd ho).trans (congrArg some ?_)
    rw [e1, ofNat_of (v := lt) (show bits wd 7 5 = _ by have := lt.isLt; unfold bits at e0 ⊢; omega)]
  · exact .inl rfl
  · exact .inl rfl
theorem Encoding.visub (o : VOps) (lt : BitVec 3) : Encoding.Statement (.visub o lt) := by
  refine Encoding.ofSlot ?_ ?_ ?_ ?_ rfl rfl rfl
  · exact .inl rfl
  · refine .inr ⟨_, rfl, (fVR_fields (sy := false) (d := 0) (by decide) (by decide) (by have := lt.isLt; omega)).1, fun sy dl => ?_⟩
    have F := fVR_fields (sy := sy) (d := dl) (op := 0x21) (mod := 0) (o := o) (ty := (lt.toNat * 32)) (by decide) (by decide) (by have := lt.isLt; omega)
    generalize slotWord sy dl (fVR 0x21 0 o (lt.toNat * 32)) = wd at F ⊢
    obtain ⟨h0, ho, hm, e0, e1⟩ := F
    refine (decV_visub ho).trans (congrArg some ?_)
    rw [e1, ofNat_of (v := lt) (show bits wd 7 5 = _ by have := lt.isLt; unfold bits at e0 ⊢; omega)]
  · exact .inl rfl
  · exact .inl rfl
theorem Encoding.vimul (o : VOps) (lt : BitVec 3) : Encoding.Statement (.vimul o lt) := by
  refine Encoding.ofSlot ?_ ?_ ?_ ?_ rfl rfl rfl
  · exact .inl rfl
  · refine .inr ⟨_, rfl, (fVR_fields (sy := false) (d := 0) (by decide) (by decide) (by have := lt.isLt; omega)).1, fun sy dl => ?_⟩
    have F := fVR_fields (sy := sy) (d := dl) (op := 0x22) (mod := 0) (o := o) (ty := (lt.toNat * 32)) (by decide) (by decide) (by have := lt.isLt; omega)
    generalize slotWord sy dl (fVR 0x22 0 o (lt.toNat * 32)) = wd at F ⊢
    obtain ⟨h0, ho, hm, e0, e1⟩ := F
    refine (decV_vimul ho).trans (congrArg some ?_)
    rw [e1, ofNat_of (v := lt) (show bits wd 7 5 = _ by have := lt.isLt; unfold bits at e0 ⊢; omega)]
  · exact .inl rfl
  · exact .inl rfl
theorem Encoding.vimulh (o : VOps) (lt : BitVec 3) : Encoding.Statement (.vimulh o lt) := by
  refine Encoding.ofSlot ?_ ?_ ?_ ?_ rfl rfl rfl
  · exact .inl rfl
  · refine .inr ⟨_, rfl, (fVR_fields (sy := false) (d := 0) (by decide) (by decide) (by have := lt.isLt; omega)).1, fun sy dl => ?_⟩
    have F := fVR_fields (sy := sy) (d := dl) (op := 0x23) (mod := 0) (o := o) (ty := (lt.toNat * 32)) (by decide) (by decide) (by have := lt.isLt; omega)
    generalize slotWord sy dl (fVR 0x23 0 o (lt.toNat * 32)) = wd at F ⊢
    obtain ⟨h0, ho, hm, e0, e1⟩ := F
    refine (decV_vimulh ho).trans (congrArg some ?_)
    rw [e1, ofNat_of (v := lt) (show bits wd 7 5 = _ by have := lt.isLt; unfold bits at e0 ⊢; omega)]
  · exact .inl rfl
  · exact .inl rfl
theorem Encoding.vimin (o : VOps) (lt : BitVec 3) : Encoding.Statement (.vimin o lt) := by
  refine Encoding.ofSlot ?_ ?_ ?_ ?_ rfl rfl rfl
  · exact .inl rfl
  · refine .inr ⟨_, rfl, (fVR_fields (sy := false) (d := 0) (by decide) (by decide) (by have := lt.isLt; omega)).1, fun sy dl => ?_⟩
    have F := fVR_fields (sy := sy) (d := dl) (op := 0x24) (mod := 0) (o := o) (ty := (lt.toNat * 32)) (by decide) (by decide) (by have := lt.isLt; omega)
    generalize slotWord sy dl (fVR 0x24 0 o (lt.toNat * 32)) = wd at F ⊢
    obtain ⟨h0, ho, hm, e0, e1⟩ := F
    refine (decV_vimin ho).trans (congrArg some ?_)
    rw [e1, ofNat_of (v := lt) (show bits wd 7 5 = _ by have := lt.isLt; unfold bits at e0 ⊢; omega)]
  · exact .inl rfl
  · exact .inl rfl
theorem Encoding.vimax (o : VOps) (lt : BitVec 3) : Encoding.Statement (.vimax o lt) := by
  refine Encoding.ofSlot ?_ ?_ ?_ ?_ rfl rfl rfl
  · exact .inl rfl
  · refine .inr ⟨_, rfl, (fVR_fields (sy := false) (d := 0) (by decide) (by decide) (by have := lt.isLt; omega)).1, fun sy dl => ?_⟩
    have F := fVR_fields (sy := sy) (d := dl) (op := 0x25) (mod := 0) (o := o) (ty := (lt.toNat * 32)) (by decide) (by decide) (by have := lt.isLt; omega)
    generalize slotWord sy dl (fVR 0x25 0 o (lt.toNat * 32)) = wd at F ⊢
    obtain ⟨h0, ho, hm, e0, e1⟩ := F
    refine (decV_vimax ho).trans (congrArg some ?_)
    rw [e1, ofNat_of (v := lt) (show bits wd 7 5 = _ by have := lt.isLt; unfold bits at e0 ⊢; omega)]
  · exact .inl rfl
  · exact .inl rfl
theorem Encoding.viand (o : VOps) (lt : BitVec 3) : Encoding.Statement (.viand o lt) := by
  refine Encoding.ofSlot ?_ ?_ ?_ ?_ rfl rfl rfl
  · exact .inl rfl
  · refine .inr ⟨_, rfl, (fVR_fields (sy := false) (d := 0) (by decide) (by decide) (by have := lt.isLt; omega)).1, fun sy dl => ?_⟩
    have F := fVR_fields (sy := sy) (d := dl) (op := 0x26) (mod := 0) (o := o) (ty := (lt.toNat * 32)) (by decide) (by decide) (by have := lt.isLt; omega)
    generalize slotWord sy dl (fVR 0x26 0 o (lt.toNat * 32)) = wd at F ⊢
    obtain ⟨h0, ho, hm, e0, e1⟩ := F
    refine (decV_viand ho).trans (congrArg some ?_)
    rw [e1, ofNat_of (v := lt) (show bits wd 7 5 = _ by have := lt.isLt; unfold bits at e0 ⊢; omega)]
  · exact .inl rfl
  · exact .inl rfl
theorem Encoding.vior (o : VOps) (lt : BitVec 3) : Encoding.Statement (.vior o lt) := by
  refine Encoding.ofSlot ?_ ?_ ?_ ?_ rfl rfl rfl
  · exact .inl rfl
  · refine .inr ⟨_, rfl, (fVR_fields (sy := false) (d := 0) (by decide) (by decide) (by have := lt.isLt; omega)).1, fun sy dl => ?_⟩
    have F := fVR_fields (sy := sy) (d := dl) (op := 0x27) (mod := 0) (o := o) (ty := (lt.toNat * 32)) (by decide) (by decide) (by have := lt.isLt; omega)
    generalize slotWord sy dl (fVR 0x27 0 o (lt.toNat * 32)) = wd at F ⊢
    obtain ⟨h0, ho, hm, e0, e1⟩ := F
    refine (decV_vior ho).trans (congrArg some ?_)
    rw [e1, ofNat_of (v := lt) (show bits wd 7 5 = _ by have := lt.isLt; unfold bits at e0 ⊢; omega)]
  · exact .inl rfl
  · exact .inl rfl
theorem Encoding.vixor (o : VOps) (lt : BitVec 3) : Encoding.Statement (.vixor o lt) := by
  refine Encoding.ofSlot ?_ ?_ ?_ ?_ rfl rfl rfl
  · exact .inl rfl
  · refine .inr ⟨_, rfl, (fVR_fields (sy := false) (d := 0) (by decide) (by decide) (by have := lt.isLt; omega)).1, fun sy dl => ?_⟩
    have F := fVR_fields (sy := sy) (d := dl) (op := 0x28) (mod := 0) (o := o) (ty := (lt.toNat * 32)) (by decide) (by decide) (by have := lt.isLt; omega)
    generalize slotWord sy dl (fVR 0x28 0 o (lt.toNat * 32)) = wd at F ⊢
    obtain ⟨h0, ho, hm, e0, e1⟩ := F
    refine (decV_vixor ho).trans (congrArg some ?_)
    rw [e1, ofNat_of (v := lt) (show bits wd 7 5 = _ by have := lt.isLt; unfold bits at e0 ⊢; omega)]
  · exact .inl rfl
  · exact .inl rfl
theorem Encoding.vishl (o : VOps) (lt : BitVec 3) : Encoding.Statement (.vishl o lt) := by
  refine Encoding.ofSlot ?_ ?_ ?_ ?_ rfl rfl rfl
  · exact .inl rfl
  · refine .inr ⟨_, rfl, (fVR_fields (sy := false) (d := 0) (by decide) (by decide) (by have := lt.isLt; omega)).1, fun sy dl => ?_⟩
    have F := fVR_fields (sy := sy) (d := dl) (op := 0x29) (mod := 0) (o := o) (ty := (lt.toNat * 32)) (by decide) (by decide) (by have := lt.isLt; omega)
    generalize slotWord sy dl (fVR 0x29 0 o (lt.toNat * 32)) = wd at F ⊢
    obtain ⟨h0, ho, hm, e0, e1⟩ := F
    refine (decV_vishl ho).trans (congrArg some ?_)
    rw [e1, ofNat_of (v := lt) (show bits wd 7 5 = _ by have := lt.isLt; unfold bits at e0 ⊢; omega)]
  · exact .inl rfl
  · exact .inl rfl
theorem Encoding.vishr (o : VOps) (lt : BitVec 3) : Encoding.Statement (.vishr o lt) := by
  refine Encoding.ofSlot ?_ ?_ ?_ ?_ rfl rfl rfl
  · exact .inl rfl
  · refine .inr ⟨_, rfl, (fVR_fields (sy := false) (d := 0) (by decide) (by decide) (by have := lt.isLt; omega)).1, fun sy dl => ?_⟩
    have F := fVR_fields (sy := sy) (d := dl) (op := 0x2A) (mod := 0) (o := o) (ty := (lt.toNat * 32)) (by decide) (by decide) (by have := lt.isLt; omega)
    generalize slotWord sy dl (fVR 0x2A 0 o (lt.toNat * 32)) = wd at F ⊢
    obtain ⟨h0, ho, hm, e0, e1⟩ := F
    refine (decV_vishr ho).trans (congrArg some ?_)
    rw [e1, ofNat_of (v := lt) (show bits wd 7 5 = _ by have := lt.isLt; unfold bits at e0 ⊢; omega)]
  · exact .inl rfl
  · exact .inl rfl
theorem Encoding.visra (o : VOps) (lt : BitVec 3) : Encoding.Statement (.visra o lt) := by
  refine Encoding.ofSlot ?_ ?_ ?_ ?_ rfl rfl rfl
  · exact .inl rfl
  · refine .inr ⟨_, rfl, (fVR_fields (sy := false) (d := 0) (by decide) (by decide) (by have := lt.isLt; omega)).1, fun sy dl => ?_⟩
    have F := fVR_fields (sy := sy) (d := dl) (op := 0x2B) (mod := 0) (o := o) (ty := (lt.toNat * 32)) (by decide) (by decide) (by have := lt.isLt; omega)
    generalize slotWord sy dl (fVR 0x2B 0 o (lt.toNat * 32)) = wd at F ⊢
    obtain ⟨h0, ho, hm, e0, e1⟩ := F
    refine (decV_visra ho).trans (congrArg some ?_)
    rw [e1, ofNat_of (v := lt) (show bits wd 7 5 = _ by have := lt.isLt; unfold bits at e0 ⊢; omega)]
  · exact .inl rfl
  · exact .inl rfl
theorem Encoding.viabs (o : VOps) (lt : BitVec 3) : Encoding.Statement (.viabs o lt) := by
  refine Encoding.ofSlot ?_ ?_ ?_ ?_ rfl rfl rfl
  · exact .inl rfl
  · refine .inr ⟨_, rfl, (fVR_fields (sy := false) (d := 0) (by decide) (by decide) (by have := lt.isLt; omega)).1, fun sy dl => ?_⟩
    have F := fVR_fields (sy := sy) (d := dl) (op := 0x2C) (mod := 0) (o := o) (ty := (lt.toNat * 32)) (by decide) (by decide) (by have := lt.isLt; omega)
    generalize slotWord sy dl (fVR 0x2C 0 o (lt.toNat * 32)) = wd at F ⊢
    obtain ⟨h0, ho, hm, e0, e1⟩ := F
    refine (decV_viabs ho).trans (congrArg some ?_)
    rw [e1, ofNat_of (v := lt) (show bits wd 7 5 = _ by have := lt.isLt; unfold bits at e0 ⊢; omega)]
  · exact .inl rfl
  · exact .inl rfl
theorem Encoding.viota (o : VOps) (lt : BitVec 3) (k : BitVec 2) : Encoding.Statement (.viota o lt k) := by
  refine Encoding.ofSlot ?_ ?_ ?_ ?_ rfl rfl rfl
  · exact .inl rfl
  · refine .inr ⟨_, rfl, (fVR_fields (sy := false) (d := 0) (by decide) (by have := k.isLt; omega) (by have := lt.isLt; omega)).1, fun sy dl => ?_⟩
    have F := fVR_fields (sy := sy) (d := dl) (op := 0x2D) (mod := (k.toNat)) (o := o) (ty := (lt.toNat * 32)) (by decide) (by have := k.isLt; omega) (by have := lt.isLt; omega)
    generalize slotWord sy dl (fVR 0x2D (k.toNat) o (lt.toNat * 32)) = wd at F ⊢
    obtain ⟨h0, ho, hm, e0, e1⟩ := F
    refine (decV_viota ho).trans (congrArg some ?_)
    rw [e1, ofNat_of (v := lt) (show bits wd 7 5 = _ by have := lt.isLt; have := k.isLt; unfold bits at e0 ⊢; omega), ofNat_of (v := k) (show bits wd 49 48 = _ by have := lt.isLt; have := k.isLt; unfold bits at hm ⊢; omega)]
  · exact .inl rfl
  · exact .inl rfl
theorem Encoding.vcvt (o : VOps) (rm : BitVec 3) (fmt : BitVec 5) (x : Bool) (sat : Bool) : Encoding.Statement (.vcvt o rm fmt x sat) := by
  refine Encoding.ofSlot ?_ ?_ ?_ ?_ rfl rfl rfl
  · exact .inl rfl
  · refine .inr ⟨_, rfl, (fVR_fields (sy := false) (d := 0) (by decide) (by have := rm.isLt; omega) (by have := fmt.isLt; have := b2n_lt x; have := b2n_lt sat; omega)).1, fun sy dl => ?_⟩
    have F := fVR_fields (sy := sy) (d := dl) (op := 0x30) (mod := (rm.toNat * 4)) (o := o) (ty := (fmt.toNat * 8 + b2n x * 4 + b2n sat * 2)) (by decide) (by have := rm.isLt; omega) (by have := fmt.isLt; have := b2n_lt x; have := b2n_lt sat; omega)
    generalize slotWord sy dl (fVR 0x30 (rm.toNat * 4) o (fmt.toNat * 8 + b2n x * 4 + b2n sat * 2)) = wd at F ⊢
    obtain ⟨h0, ho, hm, e0, e1⟩ := F
    refine (decV_vcvt ho).trans (congrArg some ?_)
    rw [e1, ofNat_of (v := rm) (show bits wd 52 50 = _ by have := rm.isLt; have := fmt.isLt; have := b2n_lt x; have := b2n_lt sat; unfold bits at hm ⊢; omega), ofNat_of (v := fmt) (show bits wd 7 3 = _ by have := rm.isLt; have := fmt.isLt; have := b2n_lt x; have := b2n_lt sat; unfold bits at e0 ⊢; omega), bitAt_of (b := x) (show wd / 2 ^ 2 % 2 = _ by have := rm.isLt; have := fmt.isLt; have := b2n_lt x; have := b2n_lt sat; unfold bits at e0; omega), bitAt_of (b := sat) (show wd / 2 ^ 1 % 2 = _ by have := rm.isLt; have := fmt.isLt; have := b2n_lt x; have := b2n_lt sat; unfold bits at e0; omega)]
  · exact .inl rfl
  · exact .inl rfl
theorem Encoding.vwid (o : VOps) (part : BitVec 2) (fmt : BitVec 5) (x : Bool) : Encoding.Statement (.vwid o part fmt x) := by
  refine Encoding.ofSlot ?_ ?_ ?_ ?_ rfl rfl rfl
  · exact .inl rfl
  · refine .inr ⟨_, rfl, (fVR_fields (sy := false) (d := 0) (by decide) (by have := part.isLt; omega) (by have := fmt.isLt; have := b2n_lt x; omega)).1, fun sy dl => ?_⟩
    have F := fVR_fields (sy := sy) (d := dl) (op := 0x31) (mod := (part.toNat)) (o := o) (ty := (fmt.toNat * 8 + b2n x * 4)) (by decide) (by have := part.isLt; omega) (by have := fmt.isLt; have := b2n_lt x; omega)
    generalize slotWord sy dl (fVR 0x31 (part.toNat) o (fmt.toNat * 8 + b2n x * 4)) = wd at F ⊢
    obtain ⟨h0, ho, hm, e0, e1⟩ := F
    refine (decV_vwid ho).trans (congrArg some ?_)
    rw [e1, ofNat_of (v := part) (show bits wd 49 48 = _ by have := part.isLt; have := fmt.isLt; have := b2n_lt x; unfold bits at hm ⊢; omega), ofNat_of (v := fmt) (show bits wd 7 3 = _ by have := part.isLt; have := fmt.isLt; have := b2n_lt x; unfold bits at e0 ⊢; omega), bitAt_of (b := x) (show wd / 2 ^ 2 % 2 = _ by have := part.isLt; have := fmt.isLt; have := b2n_lt x; unfold bits at e0; omega)]
  · exact .inl rfl
  · exact .inl rfl
theorem Encoding.vcvti (o : VOps) (rm : BitVec 3) (lt : BitVec 3) : Encoding.Statement (.vcvti o rm lt) := by
  refine Encoding.ofSlot ?_ ?_ ?_ ?_ rfl rfl rfl
  · exact .inl rfl
  · refine .inr ⟨_, rfl, (fVR_fields (sy := false) (d := 0) (by decide) (by have := rm.isLt; omega) (by have := lt.isLt; omega)).1, fun sy dl => ?_⟩
    have F := fVR_fields (sy := sy) (d := dl) (op := 0x32) (mod := (rm.toNat * 4)) (o := o) (ty := (lt.toNat * 32)) (by decide) (by have := rm.isLt; omega) (by have := lt.isLt; omega)
    generalize slotWord sy dl (fVR 0x32 (rm.toNat * 4) o (lt.toNat * 32)) = wd at F ⊢
    obtain ⟨h0, ho, hm, e0, e1⟩ := F
    refine (decV_vcvti ho).trans (congrArg some ?_)
    rw [e1, ofNat_of (v := rm) (show bits wd 52 50 = _ by have := rm.isLt; have := lt.isLt; unfold bits at hm ⊢; omega), ofNat_of (v := lt) (show bits wd 7 5 = _ by have := rm.isLt; have := lt.isLt; unfold bits at e0 ⊢; omega)]
  · exact .inl rfl
  · exact .inl rfl
theorem Encoding.vcvtf (o : VOps) (rm : BitVec 3) (lt : BitVec 3) : Encoding.Statement (.vcvtf o rm lt) := by
  refine Encoding.ofSlot ?_ ?_ ?_ ?_ rfl rfl rfl
  · exact .inl rfl
  · refine .inr ⟨_, rfl, (fVR_fields (sy := false) (d := 0) (by decide) (by have := rm.isLt; omega) (by have := lt.isLt; omega)).1, fun sy dl => ?_⟩
    have F := fVR_fields (sy := sy) (d := dl) (op := 0x33) (mod := (rm.toNat * 4)) (o := o) (ty := (lt.toNat * 32)) (by decide) (by have := rm.isLt; omega) (by have := lt.isLt; omega)
    generalize slotWord sy dl (fVR 0x33 (rm.toNat * 4) o (lt.toNat * 32)) = wd at F ⊢
    obtain ⟨h0, ho, hm, e0, e1⟩ := F
    refine (decV_vcvtf ho).trans (congrArg some ?_)
    rw [e1, ofNat_of (v := rm) (show bits wd 52 50 = _ by have := rm.isLt; have := lt.isLt; unfold bits at hm ⊢; omega), ofNat_of (v := lt) (show bits wd 7 5 = _ by have := rm.isLt; have := lt.isLt; unfold bits at e0 ⊢; omega)]
  · exact .inl rfl
  · exact .inl rfl
theorem Encoding.vicvt (o : VOps) (dt : BitVec 3) (sl : BitVec 3) (sat : Bool) : Encoding.Statement (.vicvt o dt sl sat) := by
  refine Encoding.ofSlot ?_ ?_ ?_ ?_ rfl rfl rfl
  · exact .inl rfl
  · refine .inr ⟨_, rfl, (fVR_fields (sy := false) (d := 0) (by decide) (by decide) (by have := dt.isLt; have := sl.isLt; have := b2n_lt sat; omega)).1, fun sy dl => ?_⟩
    have F := fVR_fields (sy := sy) (d := dl) (op := 0x34) (mod := 0) (o := o) (ty := (dt.toNat * 32 + sl.toNat * 4 + b2n sat * 2)) (by decide) (by decide) (by have := dt.isLt; have := sl.isLt; have := b2n_lt sat; omega)
    generalize slotWord sy dl (fVR 0x34 0 o (dt.toNat * 32 + sl.toNat * 4 + b2n sat * 2)) = wd at F ⊢
    obtain ⟨h0, ho, hm, e0, e1⟩ := F
    refine (decV_vicvt ho).trans (congrArg some ?_)
    rw [e1, ofNat_of (v := dt) (show bits wd 7 5 = _ by have := dt.isLt; have := sl.isLt; have := b2n_lt sat; unfold bits at e0 ⊢; omega), ofNat_of (v := sl) (show bits wd 4 2 = _ by have := dt.isLt; have := sl.isLt; have := b2n_lt sat; unfold bits at e0 ⊢; omega), bitAt_of (b := sat) (show wd / 2 ^ 1 % 2 = _ by have := dt.isLt; have := sl.isLt; have := b2n_lt sat; unfold bits at e0; omega)]
  · exact .inl rfl
  · exact .inl rfl
theorem Encoding.vrrot (o : VOps) : Encoding.Statement (.vrrot o) := by
  refine Encoding.ofSlot ?_ ?_ ?_ ?_ rfl rfl rfl
  · exact .inl rfl
  · refine .inr ⟨_, rfl, (fVR_fields (sy := false) (d := 0) (by decide) (by decide) (by decide)).1, fun sy dl => ?_⟩
    have F := fVR_fields (sy := sy) (d := dl) (op := 0x38) (mod := 0) (o := o) (ty := 0) (by decide) (by decide) (by decide)
    generalize slotWord sy dl (fVR 0x38 0 o 0) = wd at F ⊢
    obtain ⟨h0, ho, hm, e0, e1⟩ := F
    refine (decV_vrrot ho).trans (congrArg some ?_)
    rw [e1]
  · exact .inl rfl
  · exact .inl rfl
theorem Encoding.vcrot (o : VOps) : Encoding.Statement (.vcrot o) := by
  refine Encoding.ofSlot ?_ ?_ ?_ ?_ rfl rfl rfl
  · exact .inl rfl
  · refine .inr ⟨_, rfl, (fVR_fields (sy := false) (d := 0) (by decide) (by decide) (by decide)).1, fun sy dl => ?_⟩
    have F := fVR_fields (sy := sy) (d := dl) (op := 0x39) (mod := 0) (o := o) (ty := 0) (by decide) (by decide) (by decide)
    generalize slotWord sy dl (fVR 0x39 0 o 0) = wd at F ⊢
    obtain ⟨h0, ho, hm, e0, e1⟩ := F
    refine (decV_vcrot ho).trans (congrArg some ?_)
    rw [e1]
  · exact .inl rfl
  · exact .inl rfl
theorem Encoding.vrbc (o : VOps) : Encoding.Statement (.vrbc o) := by
  refine Encoding.ofSlot ?_ ?_ ?_ ?_ rfl rfl rfl
  · exact .inl rfl
  · refine .inr ⟨_, rfl, (fVR_fields (sy := false) (d := 0) (by decide) (by decide) (by decide)).1, fun sy dl => ?_⟩
    have F := fVR_fields (sy := sy) (d := dl) (op := 0x3A) (mod := 0) (o := o) (ty := 0) (by decide) (by decide) (by decide)
    generalize slotWord sy dl (fVR 0x3A 0 o 0) = wd at F ⊢
    obtain ⟨h0, ho, hm, e0, e1⟩ := F
    refine (decV_vrbc ho).trans (congrArg some ?_)
    rw [e1]
  · exact .inl rfl
  · exact .inl rfl
theorem Encoding.vcbc (o : VOps) : Encoding.Statement (.vcbc o) := by
  refine Encoding.ofSlot ?_ ?_ ?_ ?_ rfl rfl rfl
  · exact .inl rfl
  · refine .inr ⟨_, rfl, (fVR_fields (sy := false) (d := 0) (by decide) (by decide) (by decide)).1, fun sy dl => ?_⟩
    have F := fVR_fields (sy := sy) (d := dl) (op := 0x3B) (mod := 0) (o := o) (ty := 0) (by decide) (by decide) (by decide)
    generalize slotWord sy dl (fVR 0x3B 0 o 0) = wd at F ⊢
    obtain ⟨h0, ho, hm, e0, e1⟩ := F
    refine (decV_vcbc ho).trans (congrArg some ?_)
    rw [e1]
  · exact .inl rfl
  · exact .inl rfl
theorem Encoding.vrred (o : VOps) (k : BitVec 2) : Encoding.Statement (.vrred o k) := by
  refine Encoding.ofSlot ?_ ?_ ?_ ?_ rfl rfl rfl
  · exact .inl rfl
  · refine .inr ⟨_, rfl, (fVR_fields (sy := false) (d := 0) (by decide) (by have := k.isLt; omega) (by decide)).1, fun sy dl => ?_⟩
    have F := fVR_fields (sy := sy) (d := dl) (op := 0x3C) (mod := (k.toNat)) (o := o) (ty := 0) (by decide) (by have := k.isLt; omega) (by decide)
    generalize slotWord sy dl (fVR 0x3C (k.toNat) o 0) = wd at F ⊢
    obtain ⟨h0, ho, hm, e0, e1⟩ := F
    refine (decV_vrred ho).trans (congrArg some ?_)
    rw [e1, ofNat_of (v := k) (show bits wd 49 48 = _ by have := k.isLt; unfold bits at hm ⊢; omega)]
  · exact .inl rfl
  · exact .inl rfl
theorem Encoding.vcred (o : VOps) (k : BitVec 2) : Encoding.Statement (.vcred o k) := by
  refine Encoding.ofSlot ?_ ?_ ?_ ?_ rfl rfl rfl
  · exact .inl rfl
  · refine .inr ⟨_, rfl, (fVR_fields (sy := false) (d := 0) (by decide) (by have := k.isLt; omega) (by decide)).1, fun sy dl => ?_⟩
    have F := fVR_fields (sy := sy) (d := dl) (op := 0x3D) (mod := (k.toNat)) (o := o) (ty := 0) (by decide) (by have := k.isLt; omega) (by decide)
    generalize slotWord sy dl (fVR 0x3D (k.toNat) o 0) = wd at F ⊢
    obtain ⟨h0, ho, hm, e0, e1⟩ := F
    refine (decV_vcred ho).trans (congrArg some ?_)
    rw [e1, ofNat_of (v := k) (show bits wd 49 48 = _ by have := k.isLt; unfold bits at hm ⊢; omega)]
  · exact .inl rfl
  · exact .inl rfl
theorem Encoding.vrscan (o : VOps) (k : BitVec 2) : Encoding.Statement (.vrscan o k) := by
  refine Encoding.ofSlot ?_ ?_ ?_ ?_ rfl rfl rfl
  · exact .inl rfl
  · refine .inr ⟨_, rfl, (fVR_fields (sy := false) (d := 0) (by decide) (by have := k.isLt; omega) (by decide)).1, fun sy dl => ?_⟩
    have F := fVR_fields (sy := sy) (d := dl) (op := 0x3E) (mod := (k.toNat)) (o := o) (ty := 0) (by decide) (by have := k.isLt; omega) (by decide)
    generalize slotWord sy dl (fVR 0x3E (k.toNat) o 0) = wd at F ⊢
    obtain ⟨h0, ho, hm, e0, e1⟩ := F
    refine (decV_vrscan ho).trans (congrArg some ?_)
    rw [e1, ofNat_of (v := k) (show bits wd 49 48 = _ by have := k.isLt; unfold bits at hm ⊢; omega)]
  · exact .inl rfl
  · exact .inl rfl
theorem Encoding.vcscan (o : VOps) (k : BitVec 2) : Encoding.Statement (.vcscan o k) := by
  refine Encoding.ofSlot ?_ ?_ ?_ ?_ rfl rfl rfl
  · exact .inl rfl
  · refine .inr ⟨_, rfl, (fVR_fields (sy := false) (d := 0) (by decide) (by have := k.isLt; omega) (by decide)).1, fun sy dl => ?_⟩
    have F := fVR_fields (sy := sy) (d := dl) (op := 0x3F) (mod := (k.toNat)) (o := o) (ty := 0) (by decide) (by have := k.isLt; omega) (by decide)
    generalize slotWord sy dl (fVR 0x3F (k.toNat) o 0) = wd at F ⊢
    obtain ⟨h0, ho, hm, e0, e1⟩ := F
    refine (decV_vcscan ho).trans (congrArg some ?_)
    rw [e1, ofNat_of (v := k) (show bits wd 49 48 = _ by have := k.isLt; unfold bits at hm ⊢; omega)]
  · exact .inl rfl
  · exact .inl rfl
theorem Encoding.vbstep (o : VOps) (b : BitVec 3) (j : BitVec 3) (dir : Bool) : Encoding.Statement (.vbstep o b j dir) := by
  refine Encoding.ofSlot ?_ ?_ ?_ ?_ rfl rfl rfl
  · exact .inl rfl
  · refine .inr ⟨_, rfl, (fVR_fields (sy := false) (d := 0) (by decide) (by have := b.isLt; omega) (by have := j.isLt; have := b2n_lt dir; omega)).1, fun sy dl => ?_⟩
    have F := fVR_fields (sy := sy) (d := dl) (op := 0x40) (mod := (b.toNat * 4)) (o := o) (ty := (j.toNat * 32 + b2n dir * 16)) (by decide) (by have := b.isLt; omega) (by have := j.isLt; have := b2n_lt dir; omega)
    generalize slotWord sy dl (fVR 0x40 (b.toNat * 4) o (j.toNat * 32 + b2n dir * 16)) = wd at F ⊢
    obtain ⟨h0, ho, hm, e0, e1⟩ := F
    refine (decV_vbstep ho).trans (congrArg some ?_)
    rw [e1, ofNat_of (v := b) (show bits wd 52 50 = _ by have := b.isLt; have := j.isLt; have := b2n_lt dir; unfold bits at hm ⊢; omega), ofNat_of (v := j) (show bits wd 7 5 = _ by have := b.isLt; have := j.isLt; have := b2n_lt dir; unfold bits at e0 ⊢; omega), bitAt_of (b := dir) (show wd / 2 ^ 4 % 2 = _ by have := b.isLt; have := j.isLt; have := b2n_lt dir; unfold bits at e0; omega)]
  · exact .inl rfl
  · exact .inl rfl
theorem Encoding.vcmp (o : VPOps) (cond : BitVec 3) : Encoding.Statement (.vcmp o cond) := by
  refine Encoding.ofSlot ?_ ?_ ?_ ?_ rfl rfl rfl
  · exact .inl rfl
  · refine .inr ⟨_, rfl, (fVP_fields (sy := false) (d := 0) (by decide) (by have := cond.isLt; omega)).1, fun sy dl => ?_⟩
    have F := fVP_fields (sy := sy) (d := dl) (op := 0x48) (mod := (cond.toNat * 4)) (o := o) (by decide) (by have := cond.isLt; omega)
    generalize slotWord sy dl (fVP 0x48 (cond.toNat * 4) o) = wd at F ⊢
    obtain ⟨h0, ho, hm, e0⟩ := F
    refine (decV_vcmp ho).trans (congrArg some ?_)
    rw [e0, ofNat_of (v := cond) (show bits wd 52 50 = _ by have := cond.isLt; unfold bits at hm ⊢; omega)]
  · exact .inl rfl
  · exact .inl rfl
theorem Encoding.vicmp (o : VPOps) (cond : BitVec 3) : Encoding.Statement (.vicmp o cond) := by
  refine Encoding.ofSlot ?_ ?_ ?_ ?_ rfl rfl rfl
  · exact .inl rfl
  · refine .inr ⟨_, rfl, (fVP_fields (sy := false) (d := 0) (by decide) (by have := cond.isLt; omega)).1, fun sy dl => ?_⟩
    have F := fVP_fields (sy := sy) (d := dl) (op := 0x49) (mod := (cond.toNat * 4)) (o := o) (by decide) (by have := cond.isLt; omega)
    generalize slotWord sy dl (fVP 0x49 (cond.toNat * 4) o) = wd at F ⊢
    obtain ⟨h0, ho, hm, e0⟩ := F
    refine (decV_vicmp ho).trans (congrArg some ?_)
    rw [e0, ofNat_of (v := cond) (show bits wd 52 50 = _ by have := cond.isLt; unfold bits at hm ⊢; omega)]
  · exact .inl rfl
  · exact .inl rfl
theorem Encoding.kand (o : VPOps) : Encoding.Statement (.kand o) := by
  refine Encoding.ofSlot ?_ ?_ ?_ ?_ rfl rfl rfl
  · exact .inl rfl
  · refine .inr ⟨_, rfl, (fVP_fields (sy := false) (d := 0) (by decide) (by decide)).1, fun sy dl => ?_⟩
    have F := fVP_fields (sy := sy) (d := dl) (op := 0x4A) (mod := 0) (o := o) (by decide) (by decide)
    generalize slotWord sy dl (fVP 0x4A 0 o) = wd at F ⊢
    obtain ⟨h0, ho, hm, e0⟩ := F
    refine (decV_kand ho).trans (congrArg some ?_)
    rw [e0]
  · exact .inl rfl
  · exact .inl rfl
theorem Encoding.kor (o : VPOps) : Encoding.Statement (.kor o) := by
  refine Encoding.ofSlot ?_ ?_ ?_ ?_ rfl rfl rfl
  · exact .inl rfl
  · refine .inr ⟨_, rfl, (fVP_fields (sy := false) (d := 0) (by decide) (by decide)).1, fun sy dl => ?_⟩
    have F := fVP_fields (sy := sy) (d := dl) (op := 0x4B) (mod := 0) (o := o) (by decide) (by decide)
    generalize slotWord sy dl (fVP 0x4B 0 o) = wd at F ⊢
    obtain ⟨h0, ho, hm, e0⟩ := F
    refine (decV_kor ho).trans (congrArg some ?_)
    rw [e0]
  · exact .inl rfl
  · exact .inl rfl
theorem Encoding.kxor (o : VPOps) : Encoding.Statement (.kxor o) := by
  refine Encoding.ofSlot ?_ ?_ ?_ ?_ rfl rfl rfl
  · exact .inl rfl
  · refine .inr ⟨_, rfl, (fVP_fields (sy := false) (d := 0) (by decide) (by decide)).1, fun sy dl => ?_⟩
    have F := fVP_fields (sy := sy) (d := dl) (op := 0x4C) (mod := 0) (o := o) (by decide) (by decide)
    generalize slotWord sy dl (fVP 0x4C 0 o) = wd at F ⊢
    obtain ⟨h0, ho, hm, e0⟩ := F
    refine (decV_kxor ho).trans (congrArg some ?_)
    rw [e0]
  · exact .inl rfl
  · exact .inl rfl
theorem Encoding.kandn (o : VPOps) : Encoding.Statement (.kandn o) := by
  refine Encoding.ofSlot ?_ ?_ ?_ ?_ rfl rfl rfl
  · exact .inl rfl
  · refine .inr ⟨_, rfl, (fVP_fields (sy := false) (d := 0) (by decide) (by decide)).1, fun sy dl => ?_⟩
    have F := fVP_fields (sy := sy) (d := dl) (op := 0x4D) (mod := 0) (o := o) (by decide) (by decide)
    generalize slotWord sy dl (fVP 0x4D 0 o) = wd at F ⊢
    obtain ⟨h0, ho, hm, e0⟩ := F
    refine (decV_kandn ho).trans (congrArg some ?_)
    rw [e0]
  · exact .inl rfl
  · exact .inl rfl
theorem Encoding.knot (o : VPOps) : Encoding.Statement (.knot o) := by
  refine Encoding.ofSlot ?_ ?_ ?_ ?_ rfl rfl rfl
  · exact .inl rfl
  · refine .inr ⟨_, rfl, (fVP_fields (sy := false) (d := 0) (by decide) (by decide)).1, fun sy dl => ?_⟩
    have F := fVP_fields (sy := sy) (d := dl) (op := 0x4E) (mod := 0) (o := o) (by decide) (by decide)
    generalize slotWord sy dl (fVP 0x4E 0 o) = wd at F ⊢
    obtain ⟨h0, ho, hm, e0⟩ := F
    refine (decV_knot ho).trans (congrArg some ?_)
    rw [e0]
  · exact .inl rfl
  · exact .inl rfl
theorem Encoding.kmov (o : VPOps) : Encoding.Statement (.kmov o) := by
  refine Encoding.ofSlot ?_ ?_ ?_ ?_ rfl rfl rfl
  · exact .inl rfl
  · refine .inr ⟨_, rfl, (fVP_fields (sy := false) (d := 0) (by decide) (by decide)).1, fun sy dl => ?_⟩
    have F := fVP_fields (sy := sy) (d := dl) (op := 0x4F) (mod := 0) (o := o) (by decide) (by decide)
    generalize slotWord sy dl (fVP 0x4F 0 o) = wd at F ⊢
    obtain ⟨h0, ho, hm, e0⟩ := F
    refine (decV_kmov ho).trans (congrArg some ?_)
    rw [e0]
  · exact .inl rfl
  · exact .inl rfl
theorem Encoding.kset (o : VPOps) (k : BitVec 2) : Encoding.Statement (.kset o k) := by
  refine Encoding.ofSlot ?_ ?_ ?_ ?_ rfl rfl rfl
  · exact .inl rfl
  · refine .inr ⟨_, rfl, (fVP_fields (sy := false) (d := 0) (by decide) (by have := k.isLt; omega)).1, fun sy dl => ?_⟩
    have F := fVP_fields (sy := sy) (d := dl) (op := 0x50) (mod := (k.toNat)) (o := o) (by decide) (by have := k.isLt; omega)
    generalize slotWord sy dl (fVP 0x50 (k.toNat) o) = wd at F ⊢
    obtain ⟨h0, ho, hm, e0⟩ := F
    refine (decV_kset ho).trans (congrArg some ?_)
    rw [e0, ofNat_of (v := k) (show bits wd 49 48 = _ by have := k.isLt; unfold bits at hm ⊢; omega)]
  · exact .inl rfl
  · exact .inl rfl
theorem Encoding.ptest (o : VPOps) : Encoding.Statement (.ptest o) := by
  refine Encoding.ofSlot ?_ ?_ ?_ ?_ rfl rfl rfl
  · exact .inl rfl
  · refine .inr ⟨_, rfl, (fVP_fields (sy := false) (d := 0) (by decide) (by decide)).1, fun sy dl => ?_⟩
    have F := fVP_fields (sy := sy) (d := dl) (op := 0x51) (mod := 0) (o := o) (by decide) (by decide)
    generalize slotWord sy dl (fVP 0x51 0 o) = wd at F ⊢
    obtain ⟨h0, ho, hm, e0⟩ := F
    refine (decV_ptest ho).trans (congrArg some ?_)
    rw [e0]
  · exact .inl rfl
  · exact .inl rfl
theorem Encoding.vacrr (o : VAOps) : Encoding.Statement (.vacrr o) := by
  refine Encoding.ofSlot ?_ ?_ ?_ ?_ rfl rfl rfl
  · exact .inl rfl
  · refine .inr ⟨_, rfl, (fVA_fields (sy := false) (d := 0) (by decide) (by decide)).1, fun sy dl => ?_⟩
    have F := fVA_fields (sy := sy) (d := dl) (op := 0x58) (mod := 0) (o := o) (by decide) (by decide)
    generalize slotWord sy dl (fVA 0x58 0 o) = wd at F ⊢
    obtain ⟨h0, ho, hm, e0⟩ := F
    refine (decV_vacrr ho).trans (congrArg some ?_)
    rw [e0]
  · exact .inl rfl
  · exact .inl rfl
theorem Encoding.vaccr (o : VAOps) : Encoding.Statement (.vaccr o) := by
  refine Encoding.ofSlot ?_ ?_ ?_ ?_ rfl rfl rfl
  · exact .inl rfl
  · refine .inr ⟨_, rfl, (fVA_fields (sy := false) (d := 0) (by decide) (by decide)).1, fun sy dl => ?_⟩
    have F := fVA_fields (sy := sy) (d := dl) (op := 0x59) (mod := 0) (o := o) (by decide) (by decide)
    generalize slotWord sy dl (fVA 0x59 0 o) = wd at F ⊢
    obtain ⟨h0, ho, hm, e0⟩ := F
    refine (decV_vaccr ho).trans (congrArg some ?_)
    rw [e0]
  · exact .inl rfl
  · exact .inl rfl
theorem Encoding.vacrw (o : VAOps) : Encoding.Statement (.vacrw o) := by
  refine Encoding.ofSlot ?_ ?_ ?_ ?_ rfl rfl rfl
  · exact .inl rfl
  · refine .inr ⟨_, rfl, (fVA_fields (sy := false) (d := 0) (by decide) (by decide)).1, fun sy dl => ?_⟩
    have F := fVA_fields (sy := sy) (d := dl) (op := 0x5A) (mod := 0) (o := o) (by decide) (by decide)
    generalize slotWord sy dl (fVA 0x5A 0 o) = wd at F ⊢
    obtain ⟨h0, ho, hm, e0⟩ := F
    refine (decV_vacrw ho).trans (congrArg some ?_)
    rw [e0]
  · exact .inl rfl
  · exact .inl rfl
theorem Encoding.vaccw (o : VAOps) : Encoding.Statement (.vaccw o) := by
  refine Encoding.ofSlot ?_ ?_ ?_ ?_ rfl rfl rfl
  · exact .inl rfl
  · refine .inr ⟨_, rfl, (fVA_fields (sy := false) (d := 0) (by decide) (by decide)).1, fun sy dl => ?_⟩
    have F := fVA_fields (sy := sy) (d := dl) (op := 0x5B) (mod := 0) (o := o) (by decide) (by decide)
    generalize slotWord sy dl (fVA 0x5B 0 o) = wd at F ⊢
    obtain ⟨h0, ho, hm, e0⟩ := F
    refine (decV_vaccw ho).trans (congrArg some ?_)
    rw [e0]
  · exact .inl rfl
  · exact .inl rfl
theorem Encoding.vacsr (o : VAOps) (k : BitVec 2) : Encoding.Statement (.vacsr o k) := by
  refine Encoding.ofSlot ?_ ?_ ?_ ?_ rfl rfl rfl
  · exact .inl rfl
  · refine .inr ⟨_, rfl, (fVA_fields (sy := false) (d := 0) (by decide) (by have := k.isLt; omega)).1, fun sy dl => ?_⟩
    have F := fVA_fields (sy := sy) (d := dl) (op := 0x5C) (mod := (k.toNat)) (o := o) (by decide) (by have := k.isLt; omega)
    generalize slotWord sy dl (fVA 0x5C (k.toNat) o) = wd at F ⊢
    obtain ⟨h0, ho, hm, e0⟩ := F
    refine (decV_vacsr ho).trans (congrArg some ?_)
    rw [e0, ofNat_of (v := k) (show bits wd 49 48 = _ by have := k.isLt; unfold bits at hm ⊢; omega)]
  · exact .inl rfl
  · exact .inl rfl
theorem Encoding.vacsw (o : VAOps) (k : BitVec 2) : Encoding.Statement (.vacsw o k) := by
  refine Encoding.ofSlot ?_ ?_ ?_ ?_ rfl rfl rfl
  · exact .inl rfl
  · refine .inr ⟨_, rfl, (fVA_fields (sy := false) (d := 0) (by decide) (by have := k.isLt; omega)).1, fun sy dl => ?_⟩
    have F := fVA_fields (sy := sy) (d := dl) (op := 0x5D) (mod := (k.toNat)) (o := o) (by decide) (by have := k.isLt; omega)
    generalize slotWord sy dl (fVA 0x5D (k.toNat) o) = wd at F ⊢
    obtain ⟨h0, ho, hm, e0⟩ := F
    refine (decV_vacsw ho).trans (congrArg some ?_)
    rw [e0, ofNat_of (v := k) (show bits wd 49 48 = _ by have := k.isLt; unfold bits at hm ⊢; omega)]
  · exact .inl rfl
  · exact .inl rfl
theorem Encoding.stset (st : BitVec 4) (fld : BitVec 4) (sa : BitVec 6) : Encoding.Statement (.stset st fld sa) := by
  refine Encoding.ofSlot ?_ ?_ ?_ ?_ rfl rfl rfl
  · exact .inl rfl
  · exact .inl rfl
  · refine .inr ⟨_, rfl, (fDS_fields (sy := false) (d := 0) (by decide) (by decide) st.isLt fld.isLt sa.isLt (by decide)).1, fun sy dl => ?_⟩
    have F := fDS_fields (sy := sy) (d := dl) (op := 0x08) (mod := 0) (st := st.toNat) (fld := fld.toNat) (sa := sa.toNat) (imm := 0) (by decide) (by decide) st.isLt fld.isLt sa.isLt (by decide)
    generalize slotWord sy dl (fDS 0x08 0 st.toNat fld.toNat sa.toNat 0) = wd at F ⊢
    obtain ⟨h0, ho, hm, e0, e1, e2, e3⟩ := F
    refine (decD_stset ho).trans (congrArg some ?_)
    rw [ofNat_of (v := st) e0, ofNat_of (v := fld) e1, ofNat_of (v := sa) e2]
  · exact .inl rfl
theorem Encoding.stld (st : BitVec 4) (sa : BitVec 6) : Encoding.Statement (.stld st sa) := by
  refine Encoding.ofSlot ?_ ?_ ?_ ?_ rfl rfl rfl
  · exact .inl rfl
  · exact .inl rfl
  · refine .inr ⟨_, rfl, (fDS_fields (sy := false) (d := 0) (by decide) (by decide) st.isLt (by decide) sa.isLt (by decide)).1, fun sy dl => ?_⟩
    have F := fDS_fields (sy := sy) (d := dl) (op := 0x09) (mod := 0) (st := st.toNat) (fld := 0) (sa := sa.toNat) (imm := 0) (by decide) (by decide) st.isLt (by decide) sa.isLt (by decide)
    generalize slotWord sy dl (fDS 0x09 0 st.toNat 0 sa.toNat 0) = wd at F ⊢
    obtain ⟨h0, ho, hm, e0, e1, e2, e3⟩ := F
    refine (decD_stld ho).trans (congrArg some ?_)
    rw [ofNat_of (v := st) e0, ofNat_of (v := sa) e2]
  · exact .inl rfl
theorem Encoding.stsv (st : BitVec 4) (sa : BitVec 6) : Encoding.Statement (.stsv st sa) := by
  refine Encoding.ofSlot ?_ ?_ ?_ ?_ rfl rfl rfl
  · exact .inl rfl
  · exact .inl rfl
  · refine .inr ⟨_, rfl, (fDS_fields (sy := false) (d := 0) (by decide) (by decide) st.isLt (by decide) sa.isLt (by decide)).1, fun sy dl => ?_⟩
    have F := fDS_fields (sy := sy) (d := dl) (op := 0x0A) (mod := 0) (st := st.toNat) (fld := 0) (sa := sa.toNat) (imm := 0) (by decide) (by decide) st.isLt (by decide) sa.isLt (by decide)
    generalize slotWord sy dl (fDS 0x0A 0 st.toNat 0 sa.toNat 0) = wd at F ⊢
    obtain ⟨h0, ho, hm, e0, e1, e2, e3⟩ := F
    refine (decD_stsv ho).trans (congrArg some ?_)
    rw [ofNat_of (v := st) e0, ofNat_of (v := sa) e2]
  · exact .inl rfl
theorem Encoding.srd (st : BitVec 4) (sa : BitVec 6) (imm : BitVec 16) : Encoding.Statement (.srd st sa imm) := by
  refine Encoding.ofSlot ?_ ?_ ?_ ?_ rfl rfl rfl
  · exact .inl rfl
  · exact .inl rfl
  · refine .inr ⟨_, rfl, (fDS_fields (sy := false) (d := 0) (by decide) (by decide) st.isLt (by decide) sa.isLt imm.isLt).1, fun sy dl => ?_⟩
    have F := fDS_fields (sy := sy) (d := dl) (op := 0x0B) (mod := 0) (st := st.toNat) (fld := 0) (sa := sa.toNat) (imm := imm.toNat) (by decide) (by decide) st.isLt (by decide) sa.isLt imm.isLt
    generalize slotWord sy dl (fDS 0x0B 0 st.toNat 0 sa.toNat imm.toNat) = wd at F ⊢
    obtain ⟨h0, ho, hm, e0, e1, e2, e3⟩ := F
    refine (decD_srd ho).trans (congrArg some ?_)
    rw [ofNat_of (v := st) e0, ofNat_of (v := sa) e2, ofNat_of (v := imm) e3]
  · exact .inl rfl
theorem Encoding.swr (st : BitVec 4) (sa : BitVec 6) (imm : BitVec 16) : Encoding.Statement (.swr st sa imm) := by
  refine Encoding.ofSlot ?_ ?_ ?_ ?_ rfl rfl rfl
  · exact .inl rfl
  · exact .inl rfl
  · refine .inr ⟨_, rfl, (fDS_fields (sy := false) (d := 0) (by decide) (by decide) st.isLt (by decide) sa.isLt imm.isLt).1, fun sy dl => ?_⟩
    have F := fDS_fields (sy := sy) (d := dl) (op := 0x0C) (mod := 0) (st := st.toNat) (fld := 0) (sa := sa.toNat) (imm := imm.toNat) (by decide) (by decide) st.isLt (by decide) sa.isLt imm.isLt
    generalize slotWord sy dl (fDS 0x0C 0 st.toNat 0 sa.toNat imm.toNat) = wd at F ⊢
    obtain ⟨h0, ho, hm, e0, e1, e2, e3⟩ := F
    refine (decD_swr ho).trans (congrArg some ?_)
    rw [ofNat_of (v := st) e0, ofNat_of (v := sa) e2, ofNat_of (v := imm) e3]
  · exact .inl rfl
theorem Encoding.sstop (st : BitVec 4) : Encoding.Statement (.sstop st) := by
  refine Encoding.ofSlot ?_ ?_ ?_ ?_ rfl rfl rfl
  · exact .inl rfl
  · exact .inl rfl
  · refine .inr ⟨_, rfl, (fDS_fields (sy := false) (d := 0) (by decide) (by decide) st.isLt (by decide) (by decide) (by decide)).1, fun sy dl => ?_⟩
    have F := fDS_fields (sy := sy) (d := dl) (op := 0x0D) (mod := 0) (st := st.toNat) (fld := 0) (sa := 0) (imm := 0) (by decide) (by decide) st.isLt (by decide) (by decide) (by decide)
    generalize slotWord sy dl (fDS 0x0D 0 st.toNat 0 0 0) = wd at F ⊢
    obtain ⟨h0, ho, hm, e0, e1, e2, e3⟩ := F
    refine (decD_sstop ho).trans (congrArg some ?_)
    rw [ofNat_of (v := st) e0]
  · exact .inl rfl
theorem Encoding.lds (sx : Bool) (sz : BitVec 2) (qs : Bool) (sa : BitVec 6) (off : BitVec 16) : Encoding.Statement (.lds sx sz qs sa off) := by
  refine Encoding.ofSlot ?_ ?_ ?_ ?_ rfl rfl rfl
  · exact .inl rfl
  · exact .inl rfl
  · refine .inr ⟨_, rfl, (fDM_fields (sy := false) (d := 0) (by decide) (by have := b2n_lt sx; have := sz.isLt; omega) sa.isLt (by decide) (by decide) (b2n_lt qs) off.isLt).1, fun sy dl => ?_⟩
    have F := fDM_fields (sy := sy) (d := dl) (op := 0x10) (mod := (b2n sx * 4 + sz.toNat)) (sa := sa.toNat) (sb := 0) (sc := 0) (qs := (b2n qs)) (off := off.toNat) (by decide) (by have := b2n_lt sx; have := sz.isLt; omega) sa.isLt (by decide) (by decide) (b2n_lt qs) off.isLt
    generalize slotWord sy dl (fDM 0x10 (b2n sx * 4 + sz.toNat) sa.toNat 0 0 (b2n qs) off.toNat) = wd at F ⊢
    obtain ⟨h0, ho, hm, e0, e1, e2, e3, e4⟩ := F
    refine (decD_lds ho).trans (congrArg some ?_)
    rw [bitAt_of (b := sx) (show wd / 2 ^ 50 % 2 = _ by have := b2n_lt sx; have := sz.isLt; have := b2n_lt qs; have := sa.isLt; have := off.isLt; unfold bits at hm; omega), ofNat_of (v := sz) (show bits wd 49 48 = _ by have := b2n_lt sx; have := sz.isLt; have := b2n_lt qs; have := sa.isLt; have := off.isLt; unfold bits at hm ⊢; omega), bitAt_bits (b := qs) e3, ofNat_of (v := sa) e0, ofNat_of (v := off) e4]
  · exact .inl rfl
theorem Encoding.sts (sz : BitVec 2) (sa : BitVec 6) (off : BitVec 16) : Encoding.Statement (.sts sz sa off) := by
  refine Encoding.ofSlot ?_ ?_ ?_ ?_ rfl rfl rfl
  · exact .inl rfl
  · exact .inl rfl
  · refine .inr ⟨_, rfl, (fDM_fields (sy := false) (d := 0) (by decide) (by have := sz.isLt; omega) sa.isLt (by decide) (by decide) (by decide) off.isLt).1, fun sy dl => ?_⟩
    have F := fDM_fields (sy := sy) (d := dl) (op := 0x11) (mod := (sz.toNat)) (sa := sa.toNat) (sb := 0) (sc := 0) (qs := 0) (off := off.toNat) (by decide) (by have := sz.isLt; omega) sa.isLt (by decide) (by decide) (by decide) off.isLt
    generalize slotWord sy dl (fDM 0x11 (sz.toNat) sa.toNat 0 0 0 off.toNat) = wd at F ⊢
    obtain ⟨h0, ho, hm, e0, e1, e2, e3, e4⟩ := F
    refine (decD_sts ho).trans (congrArg some ?_)
    rw [ofNat_of (v := sz) (show bits wd 49 48 = _ by have := sz.isLt; have := sa.isLt; have := off.isLt; unfold bits at hm ⊢; omega), ofNat_of (v := sa) e0, ofNat_of (v := off) e4]
  · exact .inl rfl
theorem Encoding.aadd (w : Bool) (qs : Bool) (sa : BitVec 6) (sb : BitVec 6) (off : BitVec 16) : Encoding.Statement (.aadd w qs sa sb off) := by
  refine Encoding.ofSlot ?_ ?_ ?_ ?_ rfl rfl rfl
  · exact .inl rfl
  · exact .inl rfl
  · refine .inr ⟨_, rfl, (fDM_fields (sy := false) (d := 0) (by decide) (by have := b2n_lt w; omega) sa.isLt sb.isLt (by decide) (b2n_lt qs) off.isLt).1, fun sy dl => ?_⟩
    have F := fDM_fields (sy := sy) (d := dl) (op := 0x18) (mod := (b2n w)) (sa := sa.toNat) (sb := sb.toNat) (sc := 0) (qs := (b2n qs)) (off := off.toNat) (by decide) (by have := b2n_lt w; omega) sa.isLt sb.isLt (by decide) (b2n_lt qs) off.isLt
    generalize slotWord sy dl (fDM 0x18 (b2n w) sa.toNat sb.toNat 0 (b2n qs) off.toNat) = wd at F ⊢
    obtain ⟨h0, ho, hm, e0, e1, e2, e3, e4⟩ := F
    refine (decD_aadd ho).trans (congrArg some ?_)
    rw [bitAt_of (b := w) (show wd / 2 ^ 48 % 2 = _ by have := b2n_lt w; have := b2n_lt qs; have := sa.isLt; have := sb.isLt; have := off.isLt; unfold bits at hm; omega), bitAt_bits (b := qs) e3, ofNat_of (v := sa) e0, ofNat_of (v := sb) e1, ofNat_of (v := off) e4]
  · exact .inl rfl
theorem Encoding.amin (n : Bool) (w : Bool) (qs : Bool) (sa : BitVec 6) (sb : BitVec 6) (off : BitVec 16) : Encoding.Statement (.amin n w qs sa sb off) := by
  refine Encoding.ofSlot ?_ ?_ ?_ ?_ rfl rfl rfl
  · exact .inl rfl
  · exact .inl rfl
  · refine .inr ⟨_, rfl, (fDM_fields (sy := false) (d := 0) (by decide) (by have := b2n_lt n; have := b2n_lt w; omega) sa.isLt sb.isLt (by decide) (b2n_lt qs) off.isLt).1, fun sy dl => ?_⟩
    have F := fDM_fields (sy := sy) (d := dl) (op := 0x19) (mod := (b2n n * 2 + b2n w)) (sa := sa.toNat) (sb := sb.toNat) (sc := 0) (qs := (b2n qs)) (off := off.toNat) (by decide) (by have := b2n_lt n; have := b2n_lt w; omega) sa.isLt sb.isLt (by decide) (b2n_lt qs) off.isLt
    generalize slotWord sy dl (fDM 0x19 (b2n n * 2 + b2n w) sa.toNat sb.toNat 0 (b2n qs) off.toNat) = wd at F ⊢
    obtain ⟨h0, ho, hm, e0, e1, e2, e3, e4⟩ := F
    refine (decD_amin ho).trans (congrArg some ?_)
    rw [bitAt_of (b := n) (show wd / 2 ^ 49 % 2 = _ by have := b2n_lt n; have := b2n_lt w; have := b2n_lt qs; have := sa.isLt; have := sb.isLt; have := off.isLt; unfold bits at hm; omega), bitAt_of (b := w) (show wd / 2 ^ 48 % 2 = _ by have := b2n_lt n; have := b2n_lt w; have := b2n_lt qs; have := sa.isLt; have := sb.isLt; have := off.isLt; unfold bits at hm; omega), bitAt_bits (b := qs) e3, ofNat_of (v := sa) e0, ofNat_of (v := sb) e1, ofNat_of (v := off) e4]
  · exact .inl rfl
theorem Encoding.amax (n : Bool) (w : Bool) (qs : Bool) (sa : BitVec 6) (sb : BitVec 6) (off : BitVec 16) : Encoding.Statement (.amax n w qs sa sb off) := by
  refine Encoding.ofSlot ?_ ?_ ?_ ?_ rfl rfl rfl
  · exact .inl rfl
  · exact .inl rfl
  · refine .inr ⟨_, rfl, (fDM_fields (sy := false) (d := 0) (by decide) (by have := b2n_lt n; have := b2n_lt w; omega) sa.isLt sb.isLt (by decide) (b2n_lt qs) off.isLt).1, fun sy dl => ?_⟩
    have F := fDM_fields (sy := sy) (d := dl) (op := 0x1A) (mod := (b2n n * 2 + b2n w)) (sa := sa.toNat) (sb := sb.toNat) (sc := 0) (qs := (b2n qs)) (off := off.toNat) (by decide) (by have := b2n_lt n; have := b2n_lt w; omega) sa.isLt sb.isLt (by decide) (b2n_lt qs) off.isLt
    generalize slotWord sy dl (fDM 0x1A (b2n n * 2 + b2n w) sa.toNat sb.toNat 0 (b2n qs) off.toNat) = wd at F ⊢
    obtain ⟨h0, ho, hm, e0, e1, e2, e3, e4⟩ := F
    refine (decD_amax ho).trans (congrArg some ?_)
    rw [bitAt_of (b := n) (show wd / 2 ^ 49 % 2 = _ by have := b2n_lt n; have := b2n_lt w; have := b2n_lt qs; have := sa.isLt; have := sb.isLt; have := off.isLt; unfold bits at hm; omega), bitAt_of (b := w) (show wd / 2 ^ 48 % 2 = _ by have := b2n_lt n; have := b2n_lt w; have := b2n_lt qs; have := sa.isLt; have := sb.isLt; have := off.isLt; unfold bits at hm; omega), bitAt_bits (b := qs) e3, ofNat_of (v := sa) e0, ofNat_of (v := sb) e1, ofNat_of (v := off) e4]
  · exact .inl rfl
theorem Encoding.aand (w : Bool) (qs : Bool) (sa : BitVec 6) (sb : BitVec 6) (off : BitVec 16) : Encoding.Statement (.aand w qs sa sb off) := by
  refine Encoding.ofSlot ?_ ?_ ?_ ?_ rfl rfl rfl
  · exact .inl rfl
  · exact .inl rfl
  · refine .inr ⟨_, rfl, (fDM_fields (sy := false) (d := 0) (by decide) (by have := b2n_lt w; omega) sa.isLt sb.isLt (by decide) (b2n_lt qs) off.isLt).1, fun sy dl => ?_⟩
    have F := fDM_fields (sy := sy) (d := dl) (op := 0x1B) (mod := (b2n w)) (sa := sa.toNat) (sb := sb.toNat) (sc := 0) (qs := (b2n qs)) (off := off.toNat) (by decide) (by have := b2n_lt w; omega) sa.isLt sb.isLt (by decide) (b2n_lt qs) off.isLt
    generalize slotWord sy dl (fDM 0x1B (b2n w) sa.toNat sb.toNat 0 (b2n qs) off.toNat) = wd at F ⊢
    obtain ⟨h0, ho, hm, e0, e1, e2, e3, e4⟩ := F
    refine (decD_aand ho).trans (congrArg some ?_)
    rw [bitAt_of (b := w) (show wd / 2 ^ 48 % 2 = _ by have := b2n_lt w; have := b2n_lt qs; have := sa.isLt; have := sb.isLt; have := off.isLt; unfold bits at hm; omega), bitAt_bits (b := qs) e3, ofNat_of (v := sa) e0, ofNat_of (v := sb) e1, ofNat_of (v := off) e4]
  · exact .inl rfl
theorem Encoding.aor (w : Bool) (qs : Bool) (sa : BitVec 6) (sb : BitVec 6) (off : BitVec 16) : Encoding.Statement (.aor w qs sa sb off) := by
  refine Encoding.ofSlot ?_ ?_ ?_ ?_ rfl rfl rfl
  · exact .inl rfl
  · exact .inl rfl
  · refine .inr ⟨_, rfl, (fDM_fields (sy := false) (d := 0) (by decide) (by have := b2n_lt w; omega) sa.isLt sb.isLt (by decide) (b2n_lt qs) off.isLt).1, fun sy dl => ?_⟩
    have F := fDM_fields (sy := sy) (d := dl) (op := 0x1C) (mod := (b2n w)) (sa := sa.toNat) (sb := sb.toNat) (sc := 0) (qs := (b2n qs)) (off := off.toNat) (by decide) (by have := b2n_lt w; omega) sa.isLt sb.isLt (by decide) (b2n_lt qs) off.isLt
    generalize slotWord sy dl (fDM 0x1C (b2n w) sa.toNat sb.toNat 0 (b2n qs) off.toNat) = wd at F ⊢
    obtain ⟨h0, ho, hm, e0, e1, e2, e3, e4⟩ := F
    refine (decD_aor ho).trans (congrArg some ?_)
    rw [bitAt_of (b := w) (show wd / 2 ^ 48 % 2 = _ by have := b2n_lt w; have := b2n_lt qs; have := sa.isLt; have := sb.isLt; have := off.isLt; unfold bits at hm; omega), bitAt_bits (b := qs) e3, ofNat_of (v := sa) e0, ofNat_of (v := sb) e1, ofNat_of (v := off) e4]
  · exact .inl rfl
theorem Encoding.axor (w : Bool) (qs : Bool) (sa : BitVec 6) (sb : BitVec 6) (off : BitVec 16) : Encoding.Statement (.axor w qs sa sb off) := by
  refine Encoding.ofSlot ?_ ?_ ?_ ?_ rfl rfl rfl
  · exact .inl rfl
  · exact .inl rfl
  · refine .inr ⟨_, rfl, (fDM_fields (sy := false) (d := 0) (by decide) (by have := b2n_lt w; omega) sa.isLt sb.isLt (by decide) (b2n_lt qs) off.isLt).1, fun sy dl => ?_⟩
    have F := fDM_fields (sy := sy) (d := dl) (op := 0x1D) (mod := (b2n w)) (sa := sa.toNat) (sb := sb.toNat) (sc := 0) (qs := (b2n qs)) (off := off.toNat) (by decide) (by have := b2n_lt w; omega) sa.isLt sb.isLt (by decide) (b2n_lt qs) off.isLt
    generalize slotWord sy dl (fDM 0x1D (b2n w) sa.toNat sb.toNat 0 (b2n qs) off.toNat) = wd at F ⊢
    obtain ⟨h0, ho, hm, e0, e1, e2, e3, e4⟩ := F
    refine (decD_axor ho).trans (congrArg some ?_)
    rw [bitAt_of (b := w) (show wd / 2 ^ 48 % 2 = _ by have := b2n_lt w; have := b2n_lt qs; have := sa.isLt; have := sb.isLt; have := off.isLt; unfold bits at hm; omega), bitAt_bits (b := qs) e3, ofNat_of (v := sa) e0, ofNat_of (v := sb) e1, ofNat_of (v := off) e4]
  · exact .inl rfl
theorem Encoding.axchg (w : Bool) (qs : Bool) (sa : BitVec 6) (sb : BitVec 6) (off : BitVec 16) : Encoding.Statement (.axchg w qs sa sb off) := by
  refine Encoding.ofSlot ?_ ?_ ?_ ?_ rfl rfl rfl
  · exact .inl rfl
  · exact .inl rfl
  · refine .inr ⟨_, rfl, (fDM_fields (sy := false) (d := 0) (by decide) (by have := b2n_lt w; omega) sa.isLt sb.isLt (by decide) (b2n_lt qs) off.isLt).1, fun sy dl => ?_⟩
    have F := fDM_fields (sy := sy) (d := dl) (op := 0x1E) (mod := (b2n w)) (sa := sa.toNat) (sb := sb.toNat) (sc := 0) (qs := (b2n qs)) (off := off.toNat) (by decide) (by have := b2n_lt w; omega) sa.isLt sb.isLt (by decide) (b2n_lt qs) off.isLt
    generalize slotWord sy dl (fDM 0x1E (b2n w) sa.toNat sb.toNat 0 (b2n qs) off.toNat) = wd at F ⊢
    obtain ⟨h0, ho, hm, e0, e1, e2, e3, e4⟩ := F
    refine (decD_axchg ho).trans (congrArg some ?_)
    rw [bitAt_of (b := w) (show wd / 2 ^ 48 % 2 = _ by have := b2n_lt w; have := b2n_lt qs; have := sa.isLt; have := sb.isLt; have := off.isLt; unfold bits at hm; omega), bitAt_bits (b := qs) e3, ofNat_of (v := sa) e0, ofNat_of (v := sb) e1, ofNat_of (v := off) e4]
  · exact .inl rfl
theorem Encoding.acas (w : Bool) (qs : Bool) (sa : BitVec 6) (sb : BitVec 6) (sc : BitVec 6) (off : BitVec 16) : Encoding.Statement (.acas w qs sa sb sc off) := by
  refine Encoding.ofSlot ?_ ?_ ?_ ?_ rfl rfl rfl
  · exact .inl rfl
  · exact .inl rfl
  · refine .inr ⟨_, rfl, (fDM_fields (sy := false) (d := 0) (by decide) (by have := b2n_lt w; omega) sa.isLt sb.isLt sc.isLt (b2n_lt qs) off.isLt).1, fun sy dl => ?_⟩
    have F := fDM_fields (sy := sy) (d := dl) (op := 0x1F) (mod := (b2n w)) (sa := sa.toNat) (sb := sb.toNat) (sc := sc.toNat) (qs := (b2n qs)) (off := off.toNat) (by decide) (by have := b2n_lt w; omega) sa.isLt sb.isLt sc.isLt (b2n_lt qs) off.isLt
    generalize slotWord sy dl (fDM 0x1F (b2n w) sa.toNat sb.toNat sc.toNat (b2n qs) off.toNat) = wd at F ⊢
    obtain ⟨h0, ho, hm, e0, e1, e2, e3, e4⟩ := F
    refine (decD_acas ho).trans (congrArg some ?_)
    rw [bitAt_of (b := w) (show wd / 2 ^ 48 % 2 = _ by have := b2n_lt w; have := b2n_lt qs; have := sa.isLt; have := sb.isLt; have := sc.isLt; have := off.isLt; unfold bits at hm; omega), bitAt_bits (b := qs) e3, ofNat_of (v := sa) e0, ofNat_of (v := sb) e1, ofNat_of (v := sc) e2, ofNat_of (v := off) e4]
  · exact .inl rfl
theorem Encoding.afadd (qs : Bool) (sa : BitVec 6) (sb : BitVec 6) (off : BitVec 16) : Encoding.Statement (.afadd qs sa sb off) := by
  refine Encoding.ofSlot ?_ ?_ ?_ ?_ rfl rfl rfl
  · exact .inl rfl
  · exact .inl rfl
  · refine .inr ⟨_, rfl, (fDM_fields (sy := false) (d := 0) (by decide) (by decide) sa.isLt sb.isLt (by decide) (b2n_lt qs) off.isLt).1, fun sy dl => ?_⟩
    have F := fDM_fields (sy := sy) (d := dl) (op := 0x20) (mod := 0) (sa := sa.toNat) (sb := sb.toNat) (sc := 0) (qs := (b2n qs)) (off := off.toNat) (by decide) (by decide) sa.isLt sb.isLt (by decide) (b2n_lt qs) off.isLt
    generalize slotWord sy dl (fDM 0x20 0 sa.toNat sb.toNat 0 (b2n qs) off.toNat) = wd at F ⊢
    obtain ⟨h0, ho, hm, e0, e1, e2, e3, e4⟩ := F
    refine (decD_afadd ho).trans (congrArg some ?_)
    rw [bitAt_bits (b := qs) e3, ofNat_of (v := sa) e0, ofNat_of (v := sb) e1, ofNat_of (v := off) e4]
  · exact .inl rfl
theorem Encoding.rgset (rg : BitVec 3) (fld : BitVec 5) (sa : BitVec 6) : Encoding.Statement (.rgset rg fld sa) := by
  refine Encoding.ofSlot ?_ ?_ ?_ ?_ rfl rfl rfl
  · exact .inl rfl
  · exact .inl rfl
  · refine .inr ⟨_, rfl, (fDR_fields (sy := false) (d := 0) (by decide) (by decide) rg.isLt fld.isLt sa.isLt (by decide)).1, fun sy dl => ?_⟩
    have F := fDR_fields (sy := sy) (d := dl) (op := 0x28) (mod := 0) (rg := rg.toNat) (fld := fld.toNat) (sa := sa.toNat) (qs := 0) (by decide) (by decide) rg.isLt fld.isLt sa.isLt (by decide)
    generalize slotWord sy dl (fDR 0x28 0 rg.toNat fld.toNat sa.toNat 0) = wd at F ⊢
    obtain ⟨h0, ho, hm, e0, e1, e2, e3⟩ := F
    refine (decD_rgset ho).trans (congrArg some ?_)
    rw [ofNat_of (v := rg) e0, ofNat_of (v := fld) e1, ofNat_of (v := sa) e2]
  · exact .inl rfl
theorem Encoding.rgrd (qs : Bool) (rg : BitVec 3) (fld : BitVec 5) : Encoding.Statement (.rgrd qs rg fld) := by
  refine Encoding.ofSlot ?_ ?_ ?_ ?_ rfl rfl rfl
  · exact .inl rfl
  · exact .inl rfl
  · refine .inr ⟨_, rfl, (fDR_fields (sy := false) (d := 0) (by decide) (by decide) rg.isLt fld.isLt (by decide) (b2n_lt qs)).1, fun sy dl => ?_⟩
    have F := fDR_fields (sy := sy) (d := dl) (op := 0x29) (mod := 0) (rg := rg.toNat) (fld := fld.toNat) (sa := 0) (qs := (b2n qs)) (by decide) (by decide) rg.isLt fld.isLt (by decide) (b2n_lt qs)
    generalize slotWord sy dl (fDR 0x29 0 rg.toNat fld.toNat 0 (b2n qs)) = wd at F ⊢
    obtain ⟨h0, ho, hm, e0, e1, e2, e3⟩ := F
    refine (decD_rgrd ho).trans (congrArg some ?_)
    rw [bitAt_bits (b := qs) e3, ofNat_of (v := rg) e0, ofNat_of (v := fld) e1]
  · exact .inl rfl
theorem Encoding.rpush (rg : BitVec 3) : Encoding.Statement (.rpush rg) := by
  refine Encoding.ofSlot ?_ ?_ ?_ ?_ rfl rfl rfl
  · exact .inl rfl
  · exact .inl rfl
  · refine .inr ⟨_, rfl, (fDR_fields (sy := false) (d := 0) (by decide) (by decide) rg.isLt (by decide) (by decide) (by decide)).1, fun sy dl => ?_⟩
    have F := fDR_fields (sy := sy) (d := dl) (op := 0x2A) (mod := 0) (rg := rg.toNat) (fld := 0) (sa := 0) (qs := 0) (by decide) (by decide) rg.isLt (by decide) (by decide) (by decide)
    generalize slotWord sy dl (fDR 0x2A 0 rg.toNat 0 0 0) = wd at F ⊢
    obtain ⟨h0, ho, hm, e0, e1, e2, e3⟩ := F
    refine (decD_rpush ho).trans (congrArg some ?_)
    rw [ofNat_of (v := rg) e0]
  · exact .inl rfl
theorem Encoding.fence (scope : BitVec 3) (sc : Bool) : Encoding.Statement (.fence scope sc) := by
  refine Encoding.ofSlot ?_ ?_ ?_ ?_ rfl rfl rfl
  · exact .inl rfl
  · exact .inl rfl
  · refine .inr ⟨_, rfl, by simp only [wOp]; have := scope.isLt; have := b2n_lt sc; omega, fun sy dl => ?_⟩
    have := b2n_lt sy; have := dl.isLt
    have := scope.isLt; have := b2n_lt sc
    refine (decD_fence (by simp only [slotWord, wOp, bits]; omega)).trans ?_
    congr 2
    · exact ofNat_of (by simp only [slotWord, wOp, bits]; omega)
    · exact bitAt_of (by simp only [slotWord, wOp]; omega)
  · exact .inl rfl
theorem Encoding.xfence (scope : BitVec 3) : Encoding.Statement (.xfence scope) := by
  refine Encoding.ofSlot ?_ ?_ ?_ ?_ rfl rfl rfl
  · exact .inl rfl
  · exact .inl rfl
  · refine .inr ⟨_, rfl, by simp only [wOp]; have := scope.isLt; omega, fun sy dl => ?_⟩
    have := b2n_lt sy; have := dl.isLt
    have := scope.isLt
    refine (decD_xfence (by simp only [slotWord, wOp, bits]; omega)).trans ?_
    congr 2
    · exact ofNat_of (by simp only [slotWord, wOp, bits]; omega)
  · exact .inl rfl
theorem Encoding.spt (qs : Bool) (sa : BitVec 6) : Encoding.Statement (.spt qs sa) := by
  refine Encoding.ofSlot ?_ ?_ ?_ ?_ rfl rfl rfl
  · exact .inl rfl
  · exact .inl rfl
  · refine .inr ⟨_, rfl, (fDM_fields (sy := false) (d := 0) (by decide) (by decide) sa.isLt (by decide) (by decide) (b2n_lt qs) (by decide)).1, fun sy dl => ?_⟩
    have F := fDM_fields (sy := sy) (d := dl) (op := 0x38) (mod := 0) (sa := sa.toNat) (sb := 0) (sc := 0) (qs := (b2n qs)) (off := 0) (by decide) (by decide) sa.isLt (by decide) (by decide) (b2n_lt qs) (by decide)
    generalize slotWord sy dl (fDM 0x38 0 sa.toNat 0 0 (b2n qs) 0) = wd at F ⊢
    obtain ⟨h0, ho, hm, e0, e1, e2, e3, e4⟩ := F
    refine (decD_spt ho).trans (congrArg some ?_)
    rw [bitAt_bits (b := qs) e3, ofNat_of (v := sa) e0]
  · exact .inl rfl
theorem Encoding.spc (cs : Bool) (qs : Bool) (sa : BitVec 6) (sb : BitVec 6) : Encoding.Statement (.spc cs qs sa sb) := by
  refine Encoding.ofSlot ?_ ?_ ?_ ?_ rfl rfl rfl
  · exact .inl rfl
  · exact .inl rfl
  · refine .inr ⟨_, rfl, (fDM_fields (sy := false) (d := 0) (by decide) (by have := b2n_lt cs; omega) sa.isLt sb.isLt (by decide) (b2n_lt qs) (by decide)).1, fun sy dl => ?_⟩
    have F := fDM_fields (sy := sy) (d := dl) (op := 0x39) (mod := (b2n cs)) (sa := sa.toNat) (sb := sb.toNat) (sc := 0) (qs := (b2n qs)) (off := 0) (by decide) (by have := b2n_lt cs; omega) sa.isLt sb.isLt (by decide) (b2n_lt qs) (by decide)
    generalize slotWord sy dl (fDM 0x39 (b2n cs) sa.toNat sb.toNat 0 (b2n qs) 0) = wd at F ⊢
    obtain ⟨h0, ho, hm, e0, e1, e2, e3, e4⟩ := F
    refine (decD_spc ho).trans (congrArg some ?_)
    rw [bitAt_of (b := cs) (show wd / 2 ^ 48 % 2 = _ by have := b2n_lt cs; have := b2n_lt qs; have := sa.isLt; have := sb.isLt; unfold bits at hm; omega), bitAt_bits (b := qs) e3, ofNat_of (v := sa) e0, ofNat_of (v := sb) e1]
  · exact .inl rfl
theorem Encoding.post (eng : BitVec 2) (sa : BitVec 6) : Encoding.Statement (.post eng sa) := by
  refine Encoding.ofSlot ?_ ?_ ?_ ?_ rfl rfl rfl
  · exact .inl rfl
  · exact .inl rfl
  · exact .inl rfl
  · refine .inr ⟨_, rfl, (fEP_fields (sy := false) (d := 0) (by decide) (by decide) eng.isLt sa.isLt).1, fun sy dl => ?_⟩
    have F := fEP_fields (sy := sy) (d := dl) (op := 0x08) (mod := 0) (eng := eng.toNat) (sa := sa.toNat) (by decide) (by decide) eng.isLt sa.isLt
    generalize slotWord sy dl (fEP 0x08 0 eng.toNat sa.toNat) = wd at F ⊢
    obtain ⟨h0, ho, hm, e0, e1⟩ := F
    refine (decE_post ho).trans (congrArg some ?_)
    rw [ofNat_of (v := eng) e0, ofNat_of (v := sa) e1]
theorem Encoding.tadv (eng : BitVec 2) (sa : BitVec 6) : Encoding.Statement (.tadv eng sa) := by
  refine Encoding.ofSlot ?_ ?_ ?_ ?_ rfl rfl rfl
  · exact .inl rfl
  · exact .inl rfl
  · exact .inl rfl
  · refine .inr ⟨_, rfl, (fEP_fields (sy := false) (d := 0) (by decide) (by decide) eng.isLt sa.isLt).1, fun sy dl => ?_⟩
    have F := fEP_fields (sy := sy) (d := dl) (op := 0x09) (mod := 0) (eng := eng.toNat) (sa := sa.toNat) (by decide) (by decide) eng.isLt sa.isLt
    generalize slotWord sy dl (fEP 0x09 0 eng.toNat sa.toNat) = wd at F ⊢
    obtain ⟨h0, ho, hm, e0, e1⟩ := F
    refine (decE_tadv ho).trans (congrArg some ?_)
    rw [ofNat_of (v := eng) e0, ofNat_of (v := sa) e1]
theorem Encoding.cseq (eng : BitVec 2) : Encoding.Statement (.cseq eng) := by
  refine Encoding.ofSlot ?_ ?_ ?_ ?_ rfl rfl rfl
  · exact .inl rfl
  · exact .inl rfl
  · exact .inl rfl
  · refine .inr ⟨_, rfl, (fEP_fields (sy := false) (d := 0) (by decide) (by decide) eng.isLt (by decide)).1, fun sy dl => ?_⟩
    have F := fEP_fields (sy := sy) (d := dl) (op := 0x0A) (mod := 0) (eng := eng.toNat) (sa := 0) (by decide) (by decide) eng.isLt (by decide)
    generalize slotWord sy dl (fEP 0x0A 0 eng.toNat 0) = wd at F ⊢
    obtain ⟨h0, ho, hm, e0, e1⟩ := F
    refine (decE_cseq ho).trans (congrArg some ?_)
    rw [ofNat_of (v := eng) e0]
theorem Encoding.cwait (eng : BitVec 2) (sa : BitVec 6) : Encoding.Statement (.cwait eng sa) := by
  refine Encoding.ofSlot ?_ ?_ ?_ ?_ rfl rfl rfl
  · exact .inl rfl
  · exact .inl rfl
  · exact .inl rfl
  · refine .inr ⟨_, rfl, (fEP_fields (sy := false) (d := 0) (by decide) (by decide) eng.isLt sa.isLt).1, fun sy dl => ?_⟩
    have F := fEP_fields (sy := sy) (d := dl) (op := 0x0B) (mod := 0) (eng := eng.toNat) (sa := sa.toNat) (by decide) (by decide) eng.isLt sa.isLt
    generalize slotWord sy dl (fEP 0x0B 0 eng.toNat sa.toNat) = wd at F ⊢
    obtain ⟨h0, ho, hm, e0, e1⟩ := F
    refine (decE_cwait ho).trans (congrArg some ?_)
    rw [ofNat_of (v := eng) e0, ofNat_of (v := sa) e1]
theorem Encoding.fsend (o : Bool) (fid : BitVec 20) (sa : BitVec 6) (sb : BitVec 6) (fc : BitVec 5) : Encoding.Statement (.fsend o fid sa sb fc) := by
  refine Encoding.ofSlot ?_ ?_ ?_ ?_ rfl rfl rfl
  · exact .inl rfl
  · exact .inl rfl
  · exact .inl rfl
  · refine .inr ⟨_, rfl, (fEF_fields (sy := false) (d := 0) (by decide) (by have := b2n_lt o; omega) fid.isLt sa.isLt sb.isLt fc.isLt).1, fun sy dl => ?_⟩
    have F := fEF_fields (sy := sy) (d := dl) (op := 0x10) (mod := (b2n o)) (fid := fid.toNat) (sa := sa.toNat) (sb := sb.toNat) (fc := fc.toNat) (by decide) (by have := b2n_lt o; omega) fid.isLt sa.isLt sb.isLt fc.isLt
    generalize slotWord sy dl (fEF 0x10 (b2n o) fid.toNat sa.toNat sb.toNat fc.toNat) = wd at F ⊢
    obtain ⟨h0, ho, hm, e0, e1, e2, e3⟩ := F
    refine (decE_fsend ho).trans (congrArg some ?_)
    rw [bitAt_of (b := o) (show wd / 2 ^ 48 % 2 = _ by have := b2n_lt o; have := fid.isLt; have := sa.isLt; have := sb.isLt; have := fc.isLt; unfold bits at hm; omega), ofNat_of (v := fid) e0, ofNat_of (v := sa) e1, ofNat_of (v := sb) e2, ofNat_of (v := fc) e3]
theorem Encoding.fwait (fc : BitVec 5) (sa : BitVec 6) : Encoding.Statement (.fwait fc sa) := by
  refine Encoding.ofSlot ?_ ?_ ?_ ?_ rfl rfl rfl
  · exact .inl rfl
  · exact .inl rfl
  · exact .inl rfl
  · refine .inr ⟨_, rfl, (fEF_fields (sy := false) (d := 0) (by decide) (by decide) (by decide) sa.isLt (by decide) fc.isLt).1, fun sy dl => ?_⟩
    have F := fEF_fields (sy := sy) (d := dl) (op := 0x11) (mod := 0) (fid := 0) (sa := sa.toNat) (sb := 0) (fc := fc.toNat) (by decide) (by decide) (by decide) sa.isLt (by decide) fc.isLt
    generalize slotWord sy dl (fEF 0x11 0 0 sa.toNat 0 fc.toNat) = wd at F ⊢
    obtain ⟨h0, ho, hm, e0, e1, e2, e3⟩ := F
    refine (decE_fwait ho).trans (congrArg some ?_)
    rw [ofNat_of (v := fc) e3, ofNat_of (v := sa) e1]
theorem Encoding.aqry (sa : BitVec 6) (sb : BitVec 6) (sc : BitVec 6) (fc : BitVec 5) : Encoding.Statement (.aqry sa sb sc fc) := by
  refine Encoding.ofSlot ?_ ?_ ?_ ?_ rfl rfl rfl
  · exact .inl rfl
  · exact .inl rfl
  · exact .inl rfl
  · refine .inr ⟨_, rfl, (fEQ_fields (sy := false) (d := 0) (by decide) (by decide) sa.isLt sb.isLt sc.isLt fc.isLt).1, fun sy dl => ?_⟩
    have F := fEQ_fields (sy := sy) (d := dl) (op := 0x18) (mod := 0) (sa := sa.toNat) (sb := sb.toNat) (sc := sc.toNat) (fc := fc.toNat) (by decide) (by decide) sa.isLt sb.isLt sc.isLt fc.isLt
    generalize slotWord sy dl (fEQ 0x18 0 sa.toNat sb.toNat sc.toNat fc.toNat) = wd at F ⊢
    obtain ⟨h0, ho, hm, e0, e1, e2, e3⟩ := F
    refine (decE_aqry ho).trans (congrArg some ?_)
    rw [ofNat_of (v := sa) e0, ofNat_of (v := sb) e1, ofNat_of (v := sc) e2, ofNat_of (v := fc) e3]
theorem Encoding.topk (k : BitVec 3) (sa : BitVec 6) (sb : BitVec 6) (sc : BitVec 6) (fc : BitVec 5) : Encoding.Statement (.topk k sa sb sc fc) := by
  refine Encoding.ofSlot ?_ ?_ ?_ ?_ rfl rfl rfl
  · exact .inl rfl
  · exact .inl rfl
  · exact .inl rfl
  · refine .inr ⟨_, rfl, (fEQ_fields (sy := false) (d := 0) (by decide) (by have := k.isLt; omega) sa.isLt sb.isLt sc.isLt fc.isLt).1, fun sy dl => ?_⟩
    have F := fEQ_fields (sy := sy) (d := dl) (op := 0x19) (mod := (k.toNat)) (sa := sa.toNat) (sb := sb.toNat) (sc := sc.toNat) (fc := fc.toNat) (by decide) (by have := k.isLt; omega) sa.isLt sb.isLt sc.isLt fc.isLt
    generalize slotWord sy dl (fEQ 0x19 (k.toNat) sa.toNat sb.toNat sc.toNat fc.toNat) = wd at F ⊢
    obtain ⟨h0, ho, hm, e0, e1, e2, e3⟩ := F
    refine (decE_topk ho).trans (congrArg some ?_)
    rw [ofNat_of (v := k) (show bits wd 50 48 = _ by have := k.isLt; have := sa.isLt; have := sb.isLt; have := sc.isLt; have := fc.isLt; unfold bits at hm ⊢; omega), ofNat_of (v := sa) e0, ofNat_of (v := sb) e1, ofNat_of (v := sc) e2, ofNat_of (v := fc) e3]
theorem Encoding.kvtrunc (sa : BitVec 6) (sb : BitVec 6) (fc : BitVec 5) : Encoding.Statement (.kvtrunc sa sb fc) := by
  refine Encoding.ofSlot ?_ ?_ ?_ ?_ rfl rfl rfl
  · exact .inl rfl
  · exact .inl rfl
  · exact .inl rfl
  · refine .inr ⟨_, rfl, (fEQ_fields (sy := false) (d := 0) (by decide) (by decide) sa.isLt sb.isLt (by decide) fc.isLt).1, fun sy dl => ?_⟩
    have F := fEQ_fields (sy := sy) (d := dl) (op := 0x1A) (mod := 0) (sa := sa.toNat) (sb := sb.toNat) (sc := 0) (fc := fc.toNat) (by decide) (by decide) sa.isLt sb.isLt (by decide) fc.isLt
    generalize slotWord sy dl (fEQ 0x1A 0 sa.toNat sb.toNat 0 fc.toNat) = wd at F ⊢
    obtain ⟨h0, ho, hm, e0, e1, e2, e3⟩ := F
    refine (decE_kvtrunc ho).trans (congrArg some ?_)
    rw [ofNat_of (v := sa) e0, ofNat_of (v := sb) e1, ofNat_of (v := fc) e3]
theorem Encoding.linkRecord (r : Rec) : Encoding.Statement (.linkRecord r) := Encoding.ofRec (op := 0x01) (by decide) (noOps rfl rfl rfl rfl) rfl rfl rfl rfl
theorem Encoding.nil (r : Rec) : Encoding.Statement (.nil r) := Encoding.ofRec (op := 0x02) (by decide) (noOps rfl rfl rfl rfl) rfl rfl rfl rfl
theorem Encoding.mma (r : Rec) : Encoding.Statement (.mma r) := Encoding.ofRec (op := 0x10) (by decide) (noOps rfl rfl rfl rfl) rfl rfl rfl rfl
theorem Encoding.mmai (r : Rec) : Encoding.Statement (.mmai r) := Encoding.ofRec (op := 0x11) (by decide) (noOps rfl rfl rfl rfl) rfl rfl rfl rfl
theorem Encoding.smxu (r : Rec) : Encoding.Statement (.smxu r) := Encoding.ofRec (op := 0x12) (by decide) (noOps rfl rfl rfl rfl) rfl rfl rfl rfl
theorem Encoding.smxm (r : Rec) : Encoding.Statement (.smxm r) := Encoding.ofRec (op := 0x13) (by decide) (noOps rfl rfl rfl rfl) rfl rfl rfl rfl
theorem Encoding.smxf (r : Rec) : Encoding.Statement (.smxf r) := Encoding.ofRec (op := 0x14) (by decide) (noOps rfl rfl rfl rfl) rfl rfl rfl rfl
theorem Encoding.acld (r : Rec) : Encoding.Statement (.acld r) := Encoding.ofRec (op := 0x15) (by decide) (noOps rfl rfl rfl rfl) rfl rfl rfl rfl
theorem Encoding.acst (r : Rec) : Encoding.Statement (.acst r) := Encoding.ofRec (op := 0x16) (by decide) (noOps rfl rfl rfl rfl) rfl rfl rfl rfl
theorem Encoding.aczr (r : Rec) : Encoding.Statement (.aczr r) := Encoding.ofRec (op := 0x17) (by decide) (noOps rfl rfl rfl rfl) rfl rfl rfl rfl
theorem Encoding.qscl (r : Rec) : Encoding.Statement (.qscl r) := Encoding.ofRec (op := 0x20) (by decide) (noOps rfl rfl rfl rfl) rfl rfl rfl rfl
theorem Encoding.qpak (r : Rec) : Encoding.Statement (.qpak r) := Encoding.ofRec (op := 0x21) (by decide) (noOps rfl rfl rfl rfl) rfl rfl rfl rfl
theorem Encoding.qdeq (r : Rec) : Encoding.Statement (.qdeq r) := Encoding.ofRec (op := 0x22) (by decide) (noOps rfl rfl rfl rfl) rfl rfl rfl rfl
theorem Encoding.qcvt (r : Rec) : Encoding.Statement (.qcvt r) := Encoding.ofRec (op := 0x23) (by decide) (noOps rfl rfl rfl rfl) rfl rfl rfl rfl
theorem Encoding.qamx (r : Rec) : Encoding.Statement (.qamx r) := Encoding.ofRec (op := 0x24) (by decide) (noOps rfl rfl rfl rfl) rfl rfl rfl rfl
theorem Encoding.copy (r : Rec) : Encoding.Statement (.copy r) := Encoding.ofRec (op := 0x30) (by decide) (noOps rfl rfl rfl rfl) rfl rfl rfl rfl
theorem Encoding.gath (r : Rec) : Encoding.Statement (.gath r) := Encoding.ofRec (op := 0x31) (by decide) (noOps rfl rfl rfl rfl) rfl rfl rfl rfl
theorem Encoding.scat (r : Rec) : Encoding.Statement (.scat r) := Encoding.ofRec (op := 0x32) (by decide) (noOps rfl rfl rfl rfl) rfl rfl rfl rfl
theorem Encoding.fill (r : Rec) : Encoding.Statement (.fill r) := Encoding.ofRec (op := 0x33) (by decide) (noOps rfl rfl rfl rfl) rfl rfl rfl rfl
theorem Encoding.fsnd (r : Rec) : Encoding.Statement (.fsnd r) := Encoding.ofRec (op := 0x40) (by decide) (noOps rfl rfl rfl rfl) rfl rfl rfl rfl
theorem Encoding.fsig (r : Rec) : Encoding.Statement (.fsig r) := Encoding.ofRec (op := 0x41) (by decide) (noOps rfl rfl rfl rfl) rfl rfl rfl rfl
theorem Encoding.fdrp (r : Rec) : Encoding.Statement (.fdrp r) := Encoding.ofRec (op := 0x42) (by decide) (noOps rfl rfl rfl rfl) rfl rfl rfl rfl
theorem Encoding.fwd (e : FlowEntry) : Encoding.Statement (.fwd e) := Encoding.ofFlow (op := 0x01) (by decide) (noOps rfl rfl rfl rfl) rfl rfl rfl rfl
theorem Encoding.dup (e : FlowEntry) : Encoding.Statement (.dup e) := Encoding.ofFlow (op := 0x02) (by decide) (noOps rfl rfl rfl rfl) rfl rfl rfl rfl
theorem Encoding.sum (e : FlowEntry) : Encoding.Statement (.sum e) := Encoding.ofFlow (op := 0x03) (by decide) (noOps rfl rfl rfl rfl) rfl rfl rfl rfl
theorem Encoding.flowMax (e : FlowEntry) : Encoding.Statement (.flowMax e) := Encoding.ofFlow (op := 0x04) (by decide) (noOps rfl rfl rfl rfl) rfl rfl rfl rfl
theorem Encoding.flowMin (e : FlowEntry) : Encoding.Statement (.flowMin e) := Encoding.ofFlow (op := 0x05) (by decide) (noOps rfl rfl rfl rfl) rfl rfl rfl rfl
theorem Encoding.flowOr (e : FlowEntry) : Encoding.Statement (.flowOr e) := Encoding.ofFlow (op := 0x07) (by decide) (noOps rfl rfl rfl rfl) rfl rfl rfl rfl
theorem Encoding.wsum (e : FlowEntry) : Encoding.Statement (.wsum e) := Encoding.ofFlow (op := 0x08) (by decide) (noOps rfl rfl rfl rfl) rfl rfl rfl rfl
theorem Encoding.merge (e : FlowEntry) : Encoding.Statement (.merge e) := Encoding.ofFlow (op := 0x06) (by decide) (noOps rfl rfl rfl rfl) rfl rfl rfl rfl
theorem Encoding.scan (e : FlowEntry) : Encoding.Statement (.scan e) := Encoding.ofFlow (op := 0x09) (by decide) (noOps rfl rfl rfl rfl) rfl rfl rfl rfl
theorem Encoding.trn (e : FlowEntry) : Encoding.Statement (.trn e) := Encoding.ofFlow (op := 0x0A) (by decide) (noOps rfl rfl rfl rfl) rfl rfl rfl rfl
theorem Encoding.hold (e : FlowEntry) : Encoding.Statement (.hold e) := Encoding.ofFlow (op := 0x0B) (by decide) (noOps rfl rfl rfl rfl) rfl rfl rfl rfl
theorem Encoding.deliver (e : FlowEntry) : Encoding.Statement (.deliver e) := Encoding.ofFlow (op := 0x0C) (by decide) (noOps rfl rfl rfl rfl) rfl rfl rfl rfl
theorem Encoding.fadd (e : FlowEntry) : Encoding.Statement (.fadd e) := Encoding.ofFlow (op := 0x0D) (by decide) (noOps rfl rfl rfl rfl) rfl rfl rfl rfl
theorem Encoding.iadd (e : FlowEntry) : Encoding.Statement (.iadd e) := Encoding.ofFlow (op := 0x0E) (by decide) (noOps rfl rfl rfl rfl) rfl rfl rfl rfl
theorem Encoding.drop (e : FlowEntry) : Encoding.Statement (.drop e) := Encoding.ofFlow (op := 0x0F) (by decide) (noOps rfl rfl rfl rfl) rfl rfl rfl rfl
theorem Encoding.bellwetherArrive (router : Nat) (port : Nat) (flit : BitVec 512) : Encoding.Statement (.bellwetherArrive router port flit) := Encoding.ofEvent (noOps rfl rfl rfl rfl) rfl rfl rfl
theorem Encoding.timeFlitReceive (port : Nat) (flit : BitVec 512) : Encoding.Statement (.timeFlitReceive port flit) := Encoding.ofEvent (noOps rfl rfl rfl rfl) rfl rfl rfl
theorem Encoding.linkFlitReceive (port : Nat) (flit : BitVec 2048) : Encoding.Statement (.linkFlitReceive port flit) := Encoding.ofEvent (noOps rfl rfl rfl rfl) rfl rfl rfl
theorem Encoding.linkRetry (port : Nat) (ack : BitVec 12) : Encoding.Statement (.linkRetry port ack) := Encoding.ofEvent (noOps rfl rfl rfl rfl) rfl rfl rfl
theorem Encoding.ethDatagramReceive (eth : Nat) (peer : Nat) (header : BitVec 128) (payload : List W32) : Encoding.Statement (.ethDatagramReceive eth peer header payload) := Encoding.ofEvent (noOps rfl rfl rfl rfl) rfl rfl rfl
theorem Encoding.ptpEventStamp (eth : Nat) (tai : BitVec 64) (lock : Bool) : Encoding.Statement (.ptpEventStamp eth tai lock) := Encoding.ofEvent (noOps rfl rfl rfl rfl) rfl rfl rfl
theorem Encoding.haltLineRaise (part : Nat) (cause : Nat) (src : Nat) (id : Nat) : Encoding.Statement (.haltLineRaise part cause src id) := Encoding.ofEvent (noOps rfl rfl rfl rfl) rfl rfl rfl
theorem Encoding.inval (part : Nat) (v : BitVec 64) : Encoding.Statement (.inval part v) := Encoding.ofEvent (noOps rfl rfl rfl rfl) rfl rfl rfl
theorem Encoding.sqDoorbell (queue : Nat) (v : BitVec 64) : Encoding.Statement (.sqDoorbell queue v) := Encoding.ofEvent (noOps rfl rfl rfl rfl) rfl rfl rfl
theorem Encoding.hwrite (c : Cmd) : Encoding.Statement (.hwrite c) := Encoding.ofCmd (op := 0x01) (by decide) (noOps rfl rfl rfl rfl) rfl rfl rfl rfl
theorem Encoding.hread (c : Cmd) : Encoding.Statement (.hread c) := Encoding.ofCmd (op := 0x02) (by decide) (noOps rfl rfl rfl rfl) rfl rfl rfl rfl
theorem Encoding.submit (c : Cmd) : Encoding.Statement (.submit c) := Encoding.ofCmd (op := 0x03) (by decide) (noOps rfl rfl rfl rfl) rfl rfl rfl rfl
theorem Encoding.cancel (c : Cmd) : Encoding.Statement (.cancel c) := Encoding.ofCmd (op := 0x04) (by decide) (noOps rfl rfl rfl rfl) rfl rfl rfl rfl
theorem Encoding.release (c : Cmd) : Encoding.Statement (.release c) := Encoding.ofCmd (op := 0x05) (by decide) (noOps rfl rfl rfl rfl) rfl rfl rfl rfl
theorem Encoding.mread (c : Cmd) : Encoding.Statement (.mread c) := Encoding.ofCmd (op := 0x06) (by decide) (noOps rfl rfl rfl rfl) rfl rfl rfl rfl
theorem Encoding.mwrite (c : Cmd) : Encoding.Statement (.mwrite c) := Encoding.ofCmd (op := 0x07) (by decide) (noOps rfl rfl rfl rfl) rfl rfl rfl rfl
theorem Encoding.migrate (c : Cmd) : Encoding.Statement (.migrate c) := Encoding.ofCmd (op := 0x08) (by decide) (noOps rfl rfl rfl rfl) rfl rfl rfl rfl
theorem Encoding.attest (c : Cmd) : Encoding.Statement (.attest c) := Encoding.ofCmd (op := 0x09) (by decide) (noOps rfl rfl rfl rfl) rfl rfl rfl rfl
theorem Encoding.fwupd (c : Cmd) : Encoding.Statement (.fwupd c) := Encoding.ofCmd (op := 0x0A) (by decide) (noOps rfl rfl rfl rfl) rfl rfl rfl rfl
theorem Encoding.close (c : Cmd) : Encoding.Statement (.close c) := Encoding.ofCmd (op := 0x0B) (by decide) (noOps rfl rfl rfl rfl) rfl rfl rfl rfl
theorem Encoding.hostQueueRegisterWrite (queue : Nat) (off : Nat) (v : BitVec 64) : Encoding.Statement (.hostQueueRegisterWrite queue off v) := Encoding.ofEvent (noOps rfl rfl rfl rfl) rfl rfl rfl
theorem Encoding.eload (queue : Nat) (router : Nat) (w : BitVec 256) : Encoding.Statement (.eload queue router w) := Encoding.ofEvent (noOps rfl rfl rfl rfl) rfl rfl rfl
theorem Encoding.strayQueueRead (router : Nat) (off : Nat) : Encoding.Statement (.strayQueueRead router off) := Encoding.ofEvent (noOps rfl rfl rfl rfl) rfl rfl rfl
theorem Encoding.drovecfgWrite (queue : Nat) (v : BitVec 64) : Encoding.Statement (.drovecfgWrite queue v) := Encoding.ofEvent (noOps rfl rfl rfl rfl) rfl rfl rfl
theorem Encoding.registerWrite (queue : Nat) (addr : BitVec 48) (v : BitVec 128) : Encoding.Statement (.registerWrite queue addr v) := Encoding.ofEvent (noOps rfl rfl rfl rfl) rfl rfl rfl
theorem Encoding.clockStepAdjust (watts : Nat) (tj : Nat) : Encoding.Statement (.clockStepAdjust watts tj) := Encoding.ofEvent (noOps rfl rfl rfl rfl) rfl rfl rfl
theorem Encoding.thermtrip (tj : Nat) : Encoding.Statement (.thermtrip tj) := Encoding.ofEvent (noOps rfl rfl rfl rfl) rfl rfl rfl
theorem Encoding.powerLoss (thermal : Bool) : Encoding.Statement (.powerLoss thermal) := Encoding.ofEvent (noOps rfl rfl rfl rfl) rfl rfl rfl
theorem Encoding.nop : Encoding.Statement .nop := by
  refine Encoding.ofSlot ?_ ?_ ?_ ?_ rfl rfl rfl
  · refine .inr ⟨_, rfl, by simp only [wOp]; omega, fun sy dl => ?_⟩
    have := b2n_lt sy; have := dl.isLt
    refine (decC_nop (by simp only [slotWord, wOp, bits]; omega)).trans ?_
    rfl
  · refine .inr ⟨_, rfl, by simp only [wOp]; omega, fun sy dl => ?_⟩
    have := b2n_lt sy; have := dl.isLt
    refine (decV_nop (by simp only [slotWord, wOp, bits]; omega)).trans ?_
    rfl
  · refine .inr ⟨_, rfl, by simp only [wOp]; omega, fun sy dl => ?_⟩
    have := b2n_lt sy; have := dl.isLt
    refine (decD_nop (by simp only [slotWord, wOp, bits]; omega)).trans ?_
    rfl
  · refine .inr ⟨_, rfl, by simp only [wOp]; omega, fun sy dl => ?_⟩
    have := b2n_lt sy; have := dl.isLt
    refine (decE_nop (by simp only [slotWord, wOp, bits]; omega)).trans ?_
    rfl
theorem Encoding.fin : Encoding.Statement .fin := by
  refine Encoding.ofSlot ?_ ?_ ?_ ?_ rfl rfl rfl
  · refine .inr ⟨_, rfl, by simp only [wOp]; omega, fun sy dl => ?_⟩
    have := b2n_lt sy; have := dl.isLt
    refine (decC_fin (by simp only [slotWord, wOp, bits]; omega)).trans ?_
    rfl
  · refine .inr ⟨_, rfl, by simp only [wOp]; omega, fun sy dl => ?_⟩
    have := b2n_lt sy; have := dl.isLt
    refine (decV_fin (by simp only [slotWord, wOp, bits]; omega)).trans ?_
    rfl
  · refine .inr ⟨_, rfl, by simp only [wOp]; omega, fun sy dl => ?_⟩
    have := b2n_lt sy; have := dl.isLt
    refine (decD_fin (by simp only [slotWord, wOp, bits]; omega)).trans ?_
    rfl
  · refine .inr ⟨_, rfl, by simp only [wOp]; omega, fun sy dl => ?_⟩
    have := b2n_lt sy; have := dl.isLt
    refine (decE_fin (by simp only [slotWord, wOp, bits]; omega)).trans ?_
    rfl
theorem Encoding.bundleIssue : Encoding.Statement .bundleIssue := Encoding.ofEvent (noOps rfl rfl rfl rfl) rfl rfl rfl
theorem Encoding.queueStall : Encoding.Statement .queueStall := Encoding.ofEvent (noOps rfl rfl rfl rfl) rfl rfl rfl
theorem Encoding.resultLand : Encoding.Statement .resultLand := Encoding.ofEvent (noOps rfl rfl rfl rfl) rfl rfl rfl
theorem Encoding.taskEnd : Encoding.Statement .taskEnd := Encoding.ofEvent (noOps rfl rfl rfl rfl) rfl rfl rfl
theorem Encoding.hurdleArrival : Encoding.Statement .hurdleArrival := Encoding.ofEvent (noOps rfl rfl rfl rfl) rfl rfl rfl
theorem Encoding.hurdlePhaseComplete : Encoding.Statement .hurdlePhaseComplete := Encoding.ofEvent (noOps rfl rfl rfl rfl) rfl rfl rfl
theorem Encoding.hurdleConfigEffect : Encoding.Statement .hurdleConfigEffect := Encoding.ofEvent (noOps rfl rfl rfl rfl) rfl rfl rfl
theorem Encoding.shret : Encoding.Statement .shret := by
  refine Encoding.ofSlot ?_ ?_ ?_ ?_ rfl rfl rfl
  · refine .inr ⟨_, rfl, by simp only [wOp]; omega, fun sy dl => ?_⟩
    have := b2n_lt sy; have := dl.isLt
    refine (decC_shret (by simp only [slotWord, wOp, bits]; omega)).trans ?_
    rfl
  · exact .inl rfl
  · exact .inl rfl
  · exact .inl rfl
theorem Encoding.cpXlateMiss : Encoding.Statement .cpXlateMiss := Encoding.ofEvent (noOps rfl rfl rfl rfl) rfl rfl rfl
theorem Encoding.shadowTimeout : Encoding.Statement .shadowTimeout := Encoding.ofEvent (noOps rfl rfl rfl rfl) rfl rfl rfl
theorem Encoding.stldPerform : Encoding.Statement .stldPerform := Encoding.ofEvent (noOps rfl rfl rfl rfl) rfl rfl rfl
theorem Encoding.streamRowRead : Encoding.Statement .streamRowRead := Encoding.ofEvent (noOps rfl rfl rfl rfl) rfl rfl rfl
theorem Encoding.streamRowWrite : Encoding.Statement .streamRowWrite := Encoding.ofEvent (noOps rfl rfl rfl rfl) rfl rfl rfl
theorem Encoding.mark : Encoding.Statement .mark := by
  refine Encoding.ofSlot ?_ ?_ ?_ ?_ rfl rfl rfl
  · exact .inl rfl
  · exact .inl rfl
  · refine .inr ⟨_, rfl, by simp only [wOp]; omega, fun sy dl => ?_⟩
    have := b2n_lt sy; have := dl.isLt
    refine (decD_mark (by simp only [slotWord, wOp, bits]; omega)).trans ?_
    rfl
  · exact .inl rfl
theorem Encoding.dAccessPerform : Encoding.Statement .dAccessPerform := Encoding.ofEvent (noOps rfl rfl rfl rfl) rfl rfl rfl
theorem Encoding.aqryPerform : Encoding.Statement .aqryPerform := Encoding.ofEvent (noOps rfl rfl rfl rfl) rfl rfl rfl
theorem Encoding.topkPerform : Encoding.Statement .topkPerform := Encoding.ofEvent (noOps rfl rfl rfl rfl) rfl rfl rfl
theorem Encoding.kvtruncPerform : Encoding.Statement .kvtruncPerform := Encoding.ofEvent (noOps rfl rfl rfl rfl) rfl rfl rfl
theorem Encoding.kvReleaseAppend : Encoding.Statement .kvReleaseAppend := Encoding.ofEvent (noOps rfl rfl rfl rfl) rfl rfl rfl
theorem Encoding.fiSendEntry : Encoding.Statement .fiSendEntry := Encoding.ofEvent (noOps rfl rfl rfl rfl) rfl rfl rfl
theorem Encoding.mxStepBegin : Encoding.Statement .mxStepBegin := Encoding.ofEvent (noOps rfl rfl rfl rfl) rfl rfl rfl
theorem Encoding.mxStepEnd : Encoding.Statement .mxStepEnd := Encoding.ofEvent (noOps rfl rfl rfl rfl) rfl rfl rfl
theorem Encoding.schedMiss : Encoding.Statement .schedMiss := Encoding.ofEvent (noOps rfl rfl rfl rfl) rfl rfl rfl
theorem Encoding.mxRelocate : Encoding.Statement .mxRelocate := Encoding.ofEvent (noOps rfl rfl rfl rfl) rfl rfl rfl
theorem Encoding.strayPacket : Encoding.Statement .strayPacket := Encoding.ofEvent (noOps rfl rfl rfl rfl) rfl rfl rfl
theorem Encoding.roundResultSend : Encoding.Statement .roundResultSend := Encoding.ofEvent (noOps rfl rfl rfl rfl) rfl rfl rfl
theorem Encoding.flowStall : Encoding.Statement .flowStall := Encoding.ofEvent (noOps rfl rfl rfl rfl) rfl rfl rfl
theorem Encoding.bellwetherSend : Encoding.Statement .bellwetherSend := Encoding.ofEvent (noOps rfl rfl rfl rfl) rfl rfl rfl
theorem Encoding.droveRelease : Encoding.Statement .droveRelease := Encoding.ofEvent (noOps rfl rfl rfl rfl) rfl rfl rfl
theorem Encoding.droveStall : Encoding.Statement .droveStall := Encoding.ofEvent (noOps rfl rfl rfl rfl) rfl rfl rfl
theorem Encoding.timeFlitSend : Encoding.Statement .timeFlitSend := Encoding.ofEvent (noOps rfl rfl rfl rfl) rfl rfl rfl
theorem Encoding.portDown : Encoding.Statement .portDown := Encoding.ofEvent (noOps rfl rfl rfl rfl) rfl rfl rfl
theorem Encoding.portUp : Encoding.Statement .portUp := Encoding.ofEvent (noOps rfl rfl rfl rfl) rfl rfl rfl
theorem Encoding.ethResend : Encoding.Statement .ethResend := Encoding.ofEvent (noOps rfl rfl rfl rfl) rfl rfl rfl
theorem Encoding.recordAdmit : Encoding.Statement .recordAdmit := Encoding.ofEvent (noOps rfl rfl rfl rfl) rfl rfl rfl
theorem Encoding.shepherdChoice : Encoding.Statement .shepherdChoice := Encoding.ofEvent (noOps rfl rfl rfl rfl) rfl rfl rfl
theorem Encoding.launchStart : Encoding.Statement .launchStart := Encoding.ofEvent (noOps rfl rfl rfl rfl) rfl rfl rfl
theorem Encoding.preload : Encoding.Statement .preload := Encoding.ofEvent (noOps rfl rfl rfl rfl) rfl rfl rfl
theorem Encoding.preemptRequest : Encoding.Statement .preemptRequest := Encoding.ofEvent (noOps rfl rfl rfl rfl) rfl rfl rfl
theorem Encoding.forcedBoundary : Encoding.Statement .forcedBoundary := Encoding.ofEvent (noOps rfl rfl rfl rfl) rfl rfl rfl
theorem Encoding.budget : Encoding.Statement .budget := Encoding.ofEvent (noOps rfl rfl rfl rfl) rfl rfl rfl
theorem Encoding.save : Encoding.Statement .save := Encoding.ofEvent (noOps rfl rfl rfl rfl) rfl rfl rfl
theorem Encoding.restore : Encoding.Statement .restore := Encoding.ofEvent (noOps rfl rfl rfl rfl) rfl rfl rfl
theorem Encoding.foldCommit : Encoding.Statement .foldCommit := Encoding.ofEvent (noOps rfl rfl rfl rfl) rfl rfl rfl
theorem Encoding.haltLineArrive : Encoding.Statement .haltLineArrive := Encoding.ofEvent (noOps rfl rfl rfl rfl) rfl rfl rfl
theorem Encoding.routerHaltStop : Encoding.Statement .routerHaltStop := Encoding.ofEvent (noOps rfl rfl rfl rfl) rfl rfl rfl
theorem Encoding.stopRecordWrite : Encoding.Statement .stopRecordWrite := Encoding.ofEvent (noOps rfl rfl rfl rfl) rfl rfl rfl
theorem Encoding.pageWalkDone : Encoding.Statement .pageWalkDone := Encoding.ofEvent (noOps rfl rfl rfl rfl) rfl rfl rfl
theorem Encoding.completionWrite : Encoding.Statement .completionWrite := Encoding.ofEvent (noOps rfl rfl rfl rfl) rfl rfl rfl
theorem Encoding.eventWrite : Encoding.Statement .eventWrite := Encoding.ofEvent (noOps rfl rfl rfl rfl) rfl rfl rfl
theorem Encoding.boot : Encoding.Statement .boot := Encoding.ofEvent (noOps rfl rfl rfl rfl) rfl rfl rfl
theorem Encoding.shutdown : Encoding.Statement .shutdown := Encoding.ofEvent (noOps rfl rfl rfl rfl) rfl rfl rfl
theorem Encoding.fieldRecordFlush : Encoding.Statement .fieldRecordFlush := Encoding.ofEvent (noOps rfl rfl rfl rfl) rfl rfl rfl

end Sys2Proof.Laws
end

