-- ==== Sys2Proof/Laws/Values.lean ====
section
/-! SUPPORT. The values of the C strand's instructions, said in integers and naturals. -/

namespace Sys2Proof.Laws

open Sys2Proof.Machine

theorem sshiftRight_value (a : W64) (k : Nat) : a.sshiftRight k = BitVec.ofInt 64 (a.toInt / 2 ^ k) := by
  rw [BitVec.sshiftRight, Int.shiftRight_eq_div_pow]; norm_cast

theorem mulHigh_natural (a b : W64) : mulHigh true a b = BitVec.ofNat 64 (a.toNat * b.toNat / 2 ^ 64) := by
  apply BitVec.eq_of_toNat_eq
  have ha := a.isLt; have hb := b.isLt
  have hp : a.toNat * b.toNat < 2 ^ 128 := by
    have : a.toNat * b.toNat < 2 ^ 64 * 2 ^ 64 := Nat.mul_lt_mul'' ha hb
    omega
  simp only [mulHigh, if_true, BitVec.extractLsb'_toNat, BitVec.toNat_mul, BitVec.toNat_setWidth, BitVec.toNat_ofNat,
    Nat.shiftRight_eq_div_pow]
  rw [Nat.mod_eq_of_lt (show a.toNat < 2 ^ 128 by omega), Nat.mod_eq_of_lt (show b.toNat < 2 ^ 128 by omega),
    Nat.mod_eq_of_lt hp]

theorem mulHigh_signed (a b : W64) : mulHigh false a b = BitVec.ofInt 64 (a.toInt * b.toInt / 2 ^ 64) := by
  have h : (a.signExtend 128 * b.signExtend 128) = BitVec.ofInt 128 (a.toInt * b.toInt) := by
    simp only [BitVec.signExtend, BitVec.ofInt_mul]
  generalize hz : a.toInt * b.toInt = z at h ⊢
  have h1 : (0 : Int) ≤ z % 2 ^ 128 := Int.emod_nonneg _ (by decide)
  have h2 : (mulHigh false a b).toNat = (z % 2 ^ 128).toNat / 2 ^ 64 % 2 ^ 64 := by
    rw [mulHigh, if_neg (by decide), h, BitVec.extractLsb'_toNat, BitVec.toNat_ofInt, Nat.shiftRight_eq_div_pow]
    norm_cast
  apply BitVec.eq_of_toNat_eq
  rw [h2, BitVec.toNat_ofInt]
  have h3 : (0 : Int) ≤ z / 2 ^ 64 % 2 ^ 64 := Int.emod_nonneg _ (by decide)
  have h4 : ((2 ^ 64 : Nat) : Int) = 2 ^ 64 := by norm_cast
  rw [h4]
  omega

theorem clzGo_value (w : Nat) (n : Nat) :
    clzGo w n = ((List.range n).find? fun i => w.testBit (n - 1 - i)).getD n := by
  induction n with
  | zero => rfl
  | succ n ih =>
    rw [List.range_succ_eq_map, List.find?_cons, List.find?_map, clzGo]
    have hb : bitAt w n = w.testBit n := by
      rw [bitAt, Nat.testBit, Nat.shiftRight_eq_div_pow, Nat.one_and_eq_mod_two]
      rcases Nat.mod_two_eq_zero_or_one (w / 2 ^ n) with h | h <;> simp [h]
    simp only [Nat.add_sub_cancel, Nat.sub_zero, hb]
    cases h : w.testBit n
    · simp only [Bool.false_eq_true, if_false, ih]
      have : ((fun i => w.testBit (n - i)) ∘ Nat.succ) = fun i => w.testBit (n - 1 - i) := by
        funext i; simp only [Function.comp]; congr 1; omega
      rw [this]
      cases (List.range n).find? fun i => w.testBit (n - 1 - i) <;> simp <;> omega
    · simp

theorem ctzGo_value (w : Nat) (n : Nat) : ctzGo w n = ((List.range n).find? fun i => w.testBit i).getD n := by
  induction n generalizing w with
  | zero => rfl
  | succ n ih =>
    rw [List.range_succ_eq_map, List.find?_cons, List.find?_map, ctzGo]
    have h2 : ((fun i => w.testBit i) ∘ Nat.succ) = fun i => (w / 2).testBit i := by
      funext i; simp [Function.comp, Nat.testBit_succ]
    rw [h2, ih]
    have h0 : w.testBit 0 = decide (w % 2 = 1) := Nat.testBit_zero w
    by_cases h : w % 2 = 1
    · simp [h0, h]
    · simp only [h, h0, if_false, decide_false]
      cases (List.range n).find? fun i => (w / 2).testBit i <;> simp <;> omega

theorem popGo_value (w : Nat) (n : Nat) : popGo w n = (List.range n).countP fun i => w.testBit i := by
  induction n generalizing w with
  | zero => rfl
  | succ n ih =>
    have h2 : ((fun i => w.testBit i) ∘ Nat.succ) = fun i => (w / 2).testBit i := by
      funext i; simp [Function.comp, Nat.testBit_succ]
    rw [List.range_succ_eq_map, List.countP_cons, List.countP_map, h2, popGo, ih, Nat.testBit_zero]
    rcases Nat.mod_two_eq_zero_or_one w with h | h <;> simp [h] <;> omega

theorem lih_value (a : W64) (imm : BitVec 32) :
    ((a &&& 0xFFFFFFFF#64) ||| (imm.setWidth 64 <<< 32)) = BitVec.ofNat 64 (imm.toNat * 2 ^ 32 + a.toNat % 2 ^ 32) := by
  apply BitVec.eq_of_toNat_eq
  have hi := imm.isLt
  have h1 : a.toNat &&& 4294967295 = a.toNat % 2 ^ 32 := by
    rw [show (4294967295 : Nat) = 2 ^ 32 - 1 by decide, Nat.and_two_pow_sub_one_eq_mod]
  simp only [BitVec.toNat_or, BitVec.toNat_and, BitVec.toNat_shiftLeft, BitVec.toNat_setWidth, BitVec.toNat_ofNat,
    Nat.shiftLeft_eq]
  rw [show (4294967295 : Nat) % 2 ^ 64 = 4294967295 by decide, h1, Nat.mod_eq_of_lt (show imm.toNat < 2 ^ 64 by omega),
    Nat.mod_eq_of_lt (show imm.toNat * 2 ^ 32 < 2 ^ 64 by omega), Nat.or_comm,
    Nat.mod_eq_of_lt (show imm.toNat * 2 ^ 32 + a.toNat % 2 ^ 32 < 2 ^ 64 by omega),
    Nat.mul_comm imm.toNat]
  exact (Nat.two_pow_add_eq_or_of_lt (Nat.mod_lt _ (by decide)) _).symm

end Sys2Proof.Laws
end

