-- ==== Sys2Proof/Laws/Vector.lean ====
section
/-! SUPPORT. The shared forms of the V strand, said once each: what an instruction of the form answers when it may issue. -/

namespace Sys2Proof.Laws

open Sys2Proof.Machine

/-- A ready instruction passes its checks (R26, R86, R143). -/
theorem vcheck_go {t : Tile} {kg : BitVec 5} {kn : Bool} {srcs : List (BitVec 7)} {dst : Option (BitVec 7)}
    (h : t.vReady kg kn srcs dst) : t.vcheck kg kn srcs dst = .go := by
  obtain ⟨h1, h2, h3, h4⟩ := h
  have hp : t.popWait srcs = none := by
    simp only [Tile.popWait, List.find?_eq_none, decide_eq_true_eq]
    intro q hq; have := h2 q hq; omega
  have hd : dst.bind t.pushWait = none := by
    cases dst with
    | none => rfl
    | some d =>
      simp only [Option.bind_some, Tile.pushWait]
      split
      · rw [if_pos (h3 d _ rfl ‹_›)]
      · rfl
  simp only [Tile.vcheck, and_eq_go, Tile.guardCheck, need_eq_go, hp, hd, h4, Bool.not_false, and_true]
  obtain h | ⟨h, h'⟩ := h1 <;> simp_all

/-- The issue of a V instruction that changes the focus tile alone. -/
theorem vissue {s : State} (hv : Alone s .v) {kg : BitVec 5} {kn : Bool} {srcs : List (BitVec 7)}
    {dst : Option (BitVec 7)} (h : s.me.vReady kg kn srcs dst) (f : Tile → Tile) :
    issue s (s.me.vcheck kg kn srcs dst) (fun s => (s.onMe f).retire) = .next (s.withMe ((f s.me).moved .v)) := by
  obtain ⟨hm, hs, hst⟩ := hv
  rw [issue_go _ hm (vcheck_go h), onMe_withMe, withMe_retire hs, hst]

theorem unaryOp_alone {s : State} (hv : Alone s .v) {o : VOps} (h : s.me.vReady o.kg o.kn [o.va] (some o.vd))
    (u : VUnit) (lat : Nat) (f : W32 → W32 × Flags) :
    unaryOp s o u lat f = .next (s.withMe ((s.me.vsrc o.va (s.me.sreg o.ss.toNat)).2.vdone o.vd lat
      (s.me.guard o.kg o.kn)
      (map1 f (maskList (s.me.guard o.kg o.kn)) (s.me.vsrc o.va (s.me.sreg o.ss.toNat)).1) u)) :=
  vissue hv h _

theorem binaryOp_alone {s : State} (hv : Alone s .v) {o : VOps}
    (h : s.me.vReady o.kg o.kn [o.va, o.vb] (some o.vd)) (u : VUnit) (lat : Nat) (f : W32 → W32 → W32 × Flags) :
    binaryOp s o u lat f =
      let a := s.me.vsrc o.va (s.me.sreg o.ss.toNat)
      let b := a.2.vsrc o.vb (s.me.sreg o.ss.toNat)
      .next (s.withMe (b.2.vdone o.vd lat (s.me.guard o.kg o.kn)
        (map2 f (maskList (s.me.guard o.kg o.kn)) a.1 b.1) u)) :=
  vissue hv h _

theorem ternaryOp_alone {s : State} (hv : Alone s .v) {o : VOps}
    (h : s.me.vReady o.kg o.kn [o.va, o.vb, o.vc] (some o.vd)) (u : VUnit) (lat : Nat)
    (f : W32 → W32 → W32 → W32 × Flags) :
    ternaryOp s o u lat f =
      let a := s.me.vsrc o.va (s.me.sreg o.ss.toNat)
      let b := a.2.vsrc o.vb (s.me.sreg o.ss.toNat)
      let c := b.2.vsrc o.vc (s.me.sreg o.ss.toNat)
      .next (s.withMe (c.2.vdone o.vd lat (s.me.guard o.kg o.kn)
        (map3 f (maskList (s.me.guard o.kg o.kn)) a.1 b.1 c.1) u)) :=
  vissue hv h _

theorem vectorOne_alone {s : State} (hv : Alone s .v) {o : VOps} (h : s.me.vReady o.kg o.kn [o.va] (some o.vd))
    (u : VUnit) (lat : Nat) (f : BitVec 1024 → List W32 → List W32 → List W32 → BitVec 1024 × List W32 × Flags) :
    vectorOp s o 1 u lat f =
      let a := s.me.vsrc o.va (s.me.sreg o.ss.toNat)
      let r := f (s.me.guard o.kg o.kn) a.1 zeroVec zeroVec
      .next (s.withMe (a.2.vdone o.vd lat r.1 r.2 u)) :=
  vissue hv h _

theorem narrowOp_alone {s : State} (hv : Alone s .v) {o : VOps} (h : s.me.vReady o.kg o.kn [o.va] (some o.vd))
    (w : Nat) (f : W32 → Nat × Flags) :
    narrowOp s o w f =
      let a := s.me.vsrc o.va (s.me.sreg o.ss.toNat)
      let m := maskList (s.me.guard o.kg o.kn)
      .next (s.withMe (((a.2.narrowDst o.vd w ((a.1.map f).map (·.1)) m (gatherFlags m (a.1.map f))).holdUnit
        .fe).moved .v)) :=
  vissue hv h _

theorem predOp_alone {s : State} (hv : Alone s .v) {o : VPOps} (h : s.me.vReady o.kg o.kn [] none)
    (u : VUnit) (lat : Nat) (f : List W32 → List W32 → List Bool → List Bool → List Bool) :
    predOp s o [] u lat f = .next (s.withMe (s.me.vput lat
      (.pred (physK s.me.krb o.kd.toNat) (s.me.guard o.kg o.kn)
        (ofMask (f zeroVec zeroVec (maskList (s.me.kreg (physK s.me.krb o.ka.toNat)))
          (maskList (s.me.kreg (physK s.me.krb o.kb.toNat)))))) u)) :=
  vissue hv h _

/-! ## What reading a source or writing a destination leaves alone -/

@[simp] theorem vsrc_vrb (t : Tile) (v : BitVec 7) (ss : W64) : (t.vsrc v ss).2.vrb = t.vrb := by
  unfold Tile.vsrc; split
  · rfl
  · split <;> rfl
@[simp] theorem vsrc_krb (t : Tile) (v : BitVec 7) (ss : W64) : (t.vsrc v ss).2.krb = t.krb := by
  unfold Tile.vsrc; split
  · rfl
  · split <;> rfl
@[simp] theorem vsrc_flight (t : Tile) (v : BitVec 7) (ss : W64) : (t.vsrc v ss).2.flight = t.flight := by
  unfold Tile.vsrc; split
  · rfl
  · split <;> rfl
@[simp] theorem vdst_vrb (t : Tile) (vd : BitVec 7) (lat : Nat) (g : BitVec 1024) (v : List W32) (fl : Flags) :
    (t.vdst vd lat g v fl).vrb = t.vrb := by
  unfold Tile.vdst; split <;> rfl
@[simp] theorem vdst_krb (t : Tile) (vd : BitVec 7) (lat : Nat) (g : BitVec 1024) (v : List W32) (fl : Flags) :
    (t.vdst vd lat g v fl).krb = t.krb := by
  unfold Tile.vdst; split <;> rfl

/-! ## Predicates as lists -/

theorem ofMaskGo_eq (l : List Bool) (i : Nat) : (ofMaskGo l).testBit i = (l.getD i false) := by
  induction l generalizing i with
  | nil => simp [ofMaskGo]
  | cons b bs ih =>
    cases i with
    | zero => cases b <;> simp [ofMaskGo, b2n, Nat.testBit_zero]
    | succ i =>
      rw [Nat.testBit_succ]
      have : (ofMaskGo (b :: bs)) / 2 = ofMaskGo bs := by cases b <;> simp [ofMaskGo, b2n] <;> omega
      rw [this, ih]; simp

@[simp] theorem getLsbD_ofMask (l : List Bool) (i : Nat) :
    (ofMask l).getLsbD i = (decide (i < 1024) && l.getD i false) := by
  simp [ofMask, BitVec.getLsbD_ofNat, ofMaskGo_eq]

theorem maskList_length (m : BitVec 1024) : (maskList m).length = 1024 := by simp [maskList, tab]

theorem maskList_getD (m : BitVec 1024) {i : Nat} (h : i < 1024) : (maskList m).getD i false = m.getLsbD i := by
  simp [maskList, tab, h]

theorem ofMask_map (f : Nat → Bool) (m : BitVec 1024) (h : ∀ i, i < 1024 → f i = m.getLsbD i) :
    ofMask ((List.range 1024).map f) = m := by
  ext i hi
  simp [← BitVec.getLsbD_eq_getElem, hi, h]

end Sys2Proof.Laws
end

