-- ==== Sys2Proof/Certificates/Slice0/Obligations.lean ====
section
/-! DEFINITION. The statements for the provers, in the terms of Sys2Proof/Safety.lean. Each docstring names the rules of
spec/ that the statement rests on. -/

section

open Sys2Proof Sys2Proof.Machine

/-- R18, R32, R74: a name from 32 up reaches a physical vector register through VRB, one from 16 up a physical
predicate register through KRB, the others stand for themselves, and both bases are 0 at a task's start; s0 reads as
zero and k0 as all true, and a write of either is discarded. -/
def Obligations.RegistersAreNamedThroughTheirBases : Prop :=
  (∀ (vrb : BitVec 5) (krb : BitVec 4) (n : Nat),
    (n < 32 → physV vrb n = n) ∧ (32 ≤ n → n < 64 → physV vrb n = 32 + (n - 32 + vrb.toNat) % 32) ∧
    (n < 16 → physK krb n = n) ∧ (16 ≤ n → n < 32 → physK krb n = 16 + (n - 16 + krb.toNat) % 16)) ∧
  (∀ (u : WorkUnit) (img : List W8) (rank tid : Nat) (t : Tile),
    (startTask u img rank tid t).vrb = 0 ∧ (startTask u img rank tid t).krb = 0) ∧
  (∀ (s : State) (kg : BitVec 5), s.me.span = none → s.me.guard kg false = s.me.kreg (physK s.me.krb kg.toNat)) ∧
  ∀ (t : Tile) (v : W64) (p : BitVec 1024), t.sreg 0 = 0 ∧ t.setS 0 v = t ∧ t.kreg 0 = BitVec.allOnes 1024 ∧ t.setK 0 p = t

/-- R70 to R72, R92, R97, R100, R102, R422: for every instruction, what the encoder writes of it, where it is
well-formed, the decoder reads as that instruction, with S and D as they were: as a slot word, a record, a flow entry
or a command. -/
def Obligations.EveryEncodingDecodesToItsInstruction : Prop :=
  ∀ i : Instr, Sys2Proof.Laws.Encoding.Statement i

/-- R70 to R72: a strand's decoder reads an instruction from a word exactly where the instruction is well-formed and
the encoder writes that word: no other word, with an unassigned opcode, a reserved bit or a field out of range, is any
instruction's. -/
def Obligations.TheDecoderReadsNothingElse : Prop :=
  ∀ (st : Strand) (w : Nat) (x : Slot), decodeSlot st w = .ok x ↔ x.instr.wellFormed = true ∧ encodeSlot st x = some w

/-- R70, R71, R77, R78, R80, R81, R86, R90, R91: slot words of the C, V and E strands, written out from the encodings
of the manual, decode to the instructions they stand for. -/
def Obligations.SampleWordsDecode : Prop :=
  decodeSlot .c 0x3100145180000000 = .ok ⟨false, 3#3, .add 5#6 5#6 6#6⟩ ∧
  decodeSlot .c 0x02401020C0000000 = .ok ⟨false, 0#3, .div false 4#6 2#6 3#6⟩ ∧
  decodeSlot .c 0x86A00001C01FFFFB = .ok ⟨true, 0#3, .loopr 7#6 0x1FFFFB#21⟩ ∧
  decodeSlot .c 0x0B00000000010023 = .ok ⟨false, 0#3, .phint 0x10023#24⟩ ∧
  decodeSlot .v 0x0080034500000000 = .ok ⟨false, 0#3, .pblk 3#8 2#3 5#5⟩ ∧
  decodeSlot .e 0x0201001231051000 = .ok ⟨false, 0#3, .fsend true 0x123#20 4#6 5#6 2#5⟩

/-- R18, R34, R38, R39, R41, R338, R384, R389, R421, R429, R431: what package reset leaves where the manual gives a
value: DCC at zero, PCFG with AGEQ 20, DROVECFG with a limit of 200 µs, PWRCAP at 2,400 W over 10 ms, PWRST at step
64, SYNCST, PODCFG, BOOTST, HALTS, QCFG and the flags and SPOOR of every tile zero, flag slots with NONE, accumulator
maxima at -infinity, and no task, packet or flow entry anywhere. That PTC and QST are zero too is the model's choice
(log 2), and so is a memory that reads zero (log 3). -/
def Obligations.ResetLeavesTheStatedValues : Prop :=
  State.reset.dcc = 0 ∧ State.reset.ptc = 0 ∧ State.reset.syncst = 0 ∧ State.reset.podcfg = 0 ∧ State.reset.bootst = 0 ∧
  State.reset.drovecfg = BitVec.ofNat 64 (200 * 2 ^ 32) ∧
  State.reset.pwrcap = BitVec.ofNat 64 (2400 * 2 ^ 32 + 10) ∧ State.reset.pwrst = BitVec.ofNat 64 (64 * 2 ^ 57) ∧
  (∀ p, State.reset.part p = Partition.reset ∧ (State.reset.part p).reg = BitVec.ofNat 64 (20 * 2 ^ 20) ∧ (State.reset.part p).halts = 0) ∧
  (∀ q, (State.reset.queue q).qcfg = 0 ∧ (State.reset.queue q).qst = 0) ∧
  (∀ tid, (State.reset.tile tid).res = none ∧ (State.reset.tile tid).flags = 0 ∧ (State.reset.tile tid).spoor = 0 ∧
    (∀ n, (State.reset.tile tid).slot n = BitVec.ofNat 14 (2 ^ 11)) ∧ (∀ a r, (State.reset.tile tid).accMax a r = 0xFF800000 ∧
      (State.reset.tile tid).accDen a r = 0)) ∧
  (∀ r, (State.reset.router r).entries = [] ∧ (State.reset.router r).fault = 0) ∧ State.reset.units = [] ∧
  State.reset.mem0 = [] ∧ State.reset.mem1 = [] ∧ State.reset.mem2 = []

/-- R14, R20, R22, R34, R72, R105, R207, R239, R422, R431: a step takes the first action of its agenda. A strand whose
fetched word decodes to an instruction that stands alone, is due and finds its unit free runs that instruction; a word
of no meaning faults with ILLEGAL; the record at the head of an engine, the entry that a packet meets and an event run
as they are named; the end of a clk raises DCC by one; and without rails, where nothing raises them, the machine
stops. Of this the model chose, and the manual does not state: the order of the agenda and what comes from outside,
the QZ in the skid of a halt (assumption log 5, 104, 136). -/
def Obligations.AStepRunsTheDecodedInstruction : Prop :=
  (∀ (s : State) (tid : Nat) (st : Strand) (rest : List Action), s.agenda = .issue tid st :: rest →
    let t := s.tile tid
    let pc := (t.str st).pc.toNat
    let s' : State := ({ s with agenda := rest } : State).atStrand tid st
    t.clockRuns = true → (t.str st).running = true → (t.str st).faulted = false →
    (∃ r, t.res = some r ∧ r.codeBase ≤ pc ∧ pc + 8 ≤ r.codeBase + r.codeSize) → pc % 8 = 0 → t.spBad pc 8 = false →
    let w := Mem.readN t.sp pc 8
    (∀ x, decodeSlot st w = .ok x → x.sync = false → (t.str st).minAge ≤ (t.str st).age →
      1 + x.delay.toNat ≤ (t.str st).age → t.unitFree x.instr = true → step s = exec x.instr s') ∧
    (∀ e, decodeSlot st w = .error e → w.testBit 63 = false → (t.str st).minAge ≤ (t.str st).age →
      1 + w / 2 ^ 60 % 8 ≤ (t.str st).age → step s = .next (strandFault s' tid st 0x01 0)) ∧
    ((t.str st).age < (t.str st).minAge → step s = .next s')) ∧
  (∀ (s : State) (tid : Nat) (h : Shadow) (len : Nat) (g : Nat × Nat) (rest : List Action) (x : Slot),
    s.agenda = .shadowIssue tid :: rest → (s.tile tid).shadow = some h → h.st.running = true →
    (s.tile tid).shadowImage = some (g.1, g.2, len) → h.st.pc.toNat + 8 ≤ len → h.st.pc.toNat % 8 = 0 →
    decodeSlot .c (Mem.readN (s.tile tid).shadowStore h.st.pc.toNat 8) = .ok x → x.sync = false → h.divBusy = 0 →
    h.st.minAge ≤ h.st.age → 1 + x.delay.toNat ≤ h.st.age →
    step s = exec x.instr { s with agenda := rest, focus := { Focus.reset with tile := tid, shadow := true } }) ∧
  (∀ (s : State) (tid eng : Nat) (run : Run) (i : Instr) (rest : List Action), s.agenda = .engine tid eng :: rest →
    (s.tile tid).engineRuns eng = true → ((s.tile tid).eng eng).run = some run → run.instr = some i →
    (eng = 0 → run.started = false ∧ ((s.tile tid).eng eng).away = none) → run.stuck = none → run.done = false →
    step s = exec i { s with agenda := rest, focus := { Focus.reset with tile := tid, eng := eng } }) ∧
  (∀ (s : State) (r port ch : Nat) (p : Packet) (x : Entry) (i : Instr) (rest : List Action),
    let s' : State := { s with agenda := rest, focus := { Focus.reset with router := r, port := port, cls := ch } }
    s.agenda = .arrive r port ch :: rest → s'.meet = .entry p x → flowInstr x.op x.e = some i → step s = exec i s') ∧
  (∀ (s : State) (k : Nat) (i : Instr) (rest : List Action), s.agenda = .mailbox :: rest → s.nextQueue = some k →
    let q := s.queue k
    decodeCmd (Mem.readN s.hostMem (q.sqb.toNat + 64 * (q.sqHead % q.sqEntries)) 64) = some i →
    step s = exec i { s with agenda := rest, focus := { Focus.reset with queue := k } }) ∧
  (∀ (s : State) (f : Focus) (i : Instr) (rest : List Action), s.agenda = .row f i :: rest →
    step s = exec i { s with agenda := rest, focus := f }) ∧
  (∀ (s : State) (rest : List Action), s.agenda = .clk :: rest →
    ∃ t, step s = .next t ∧ t.dcc = s.dcc + 1 ∧ ((∀ p, (s.part p).cancels = []) → t.agenda = rest)) ∧
  ∀ s : State, s.agenda = [] → s.railsOn = false → (∀ f, Action.row f .boot ∉ s.inputs) → step s = .fault .noPower

/-- R272: every memory of the package, and of the host beside it, is in its canonical form at reset. Of this the model
chose, and the manual does not state: what an unlisted byte reads as (assumption log 3). -/
def Obligations.MemoryIsCanonicalAtReset : Prop := MemOk State.reset

/-- R272: every step keeps every memory in its canonical form, whatever the step does: addresses rise strictly and no
byte is listed that an unlisted one reads as. Of this the model chose, and the manual does not state: what an unlisted
byte reads as (assumption log 3). -/
def Obligations.EveryStepKeepsMemoryCanonical : Prop :=
  ∀ s t : State, MemOk s → step s = .next t → MemOk t

/-- R107, R110: the register forms of the C strand's arithmetic put one scalar result in flight, of 1 clk (3 for the
products), and the strand moves to its next word; nothing else of the package changes. -/
def Obligations.RegisterArithmeticResults : Prop :=
  ∀ (s : State) (sd sa sb sc : BitVec 6), Alone s .c →
    let a := s.src sa
    let b := s.src sb
    let out : Nat → W64 → Out := fun lat v =>
      .next (s.withMe ((s.me.flying lat (.scalar sd.toNat v) f0 0).moved .c))
    exec (.add sd sa sb) s = out 1 (a + b) ∧
    exec (.sub sd sa sb) s = out 1 (a - b) ∧
    exec (.and sd sa sb) s = out 1 (a &&& b) ∧
    exec (.or sd sa sb) s = out 1 (a ||| b) ∧
    exec (.xor sd sa sb) s = out 1 (a ^^^ b) ∧
    exec (.shl sd sa sb) s = out 1 (a <<< (b.toNat % 64)) ∧
    exec (.shr sd sa sb) s = out 1 (a >>> (b.toNat % 64)) ∧
    exec (.sra sd sa sb) s = out 1 (BitVec.ofInt 64 (a.toInt / 2 ^ (b.toNat % 64))) ∧
    exec (.mul sd sa sb) s = out 3 (a * b) ∧
    exec (.mulh false sd sa sb) s = out 3 (BitVec.ofInt 64 (a.toInt * b.toInt / 2 ^ 64)) ∧
    exec (.mulh true sd sa sb) s = out 3 (BitVec.ofNat 64 (a.toNat * b.toNat / 2 ^ 64)) ∧
    exec (.min false sd sa sb) s = out 1 (if a.toInt ≤ b.toInt then a else b) ∧
    exec (.min true sd sa sb) s = out 1 (if a.toNat ≤ b.toNat then a else b) ∧
    exec (.max false sd sa sb) s = out 1 (if a.toInt ≤ b.toInt then b else a) ∧
    exec (.max true sd sa sb) s = out 1 (if a.toNat ≤ b.toNat then b else a) ∧
    exec (.sel sd sa sb sc) s = out 1 (if s.src sc ≠ 0#64 then a else b)

/-- R110: comparisons, extensions and bit counts of the C strand, code by code. R108: the immediate forms: signed
immediates sign-extended, logical ones zero-extended. -/
def Obligations.ComparisonAndImmediateResults : Prop :=
  (∀ (s : State) (sd sa sb : BitVec 6), Alone s .c →
    let a := s.src sa
    let b := s.src sb
    let out : W64 → Out := fun v => .next (s.withMe ((s.me.flying 1 (.scalar sd.toNat v) f0 0).moved .c))
    exec (.cmp 0#3 sd sa sb) s = out (if a = b then 1#64 else 0#64) ∧
    exec (.cmp 1#3 sd sa sb) s = out (if a ≠ b then 1#64 else 0#64) ∧
    exec (.cmp 2#3 sd sa sb) s = out (if a.toInt < b.toInt then 1#64 else 0#64) ∧
    exec (.cmp 3#3 sd sa sb) s = out (if b.toInt ≤ a.toInt then 1#64 else 0#64) ∧
    exec (.cmp 4#3 sd sa sb) s = out (if a.toNat < b.toNat then 1#64 else 0#64) ∧
    exec (.cmp 5#3 sd sa sb) s = out (if b.toNat ≤ a.toNat then 1#64 else 0#64) ∧
    exec (.ext true 0#2 sd sa) s = out (BitVec.ofNat 64 (a.toNat % 2 ^ 8)) ∧
    exec (.ext true 1#2 sd sa) s = out (BitVec.ofNat 64 (a.toNat % 2 ^ 16)) ∧
    exec (.ext true 2#2 sd sa) s = out (BitVec.ofNat 64 (a.toNat % 2 ^ 32)) ∧
    exec (.ext false 0#2 sd sa) s = out (BitVec.ofInt 64 (BitVec.ofNat 8 a.toNat).toInt) ∧
    exec (.ext false 1#2 sd sa) s = out (BitVec.ofInt 64 (BitVec.ofNat 16 a.toNat).toInt) ∧
    exec (.ext false 2#2 sd sa) s = out (BitVec.ofInt 64 (BitVec.ofNat 32 a.toNat).toInt) ∧
    exec (.bitc 0#2 sd sa) s = out (BitVec.ofNat 64 (((List.range 64).find? fun i => a.getLsbD (63 - i)).getD 64)) ∧
    exec (.bitc 1#2 sd sa) s = out (BitVec.ofNat 64 (((List.range 64).find? fun i => a.getLsbD i).getD 64)) ∧
    exec (.bitc 2#2 sd sa) s = out (BitVec.ofNat 64 ((List.range 64).countP fun i => a.getLsbD i)) ∧
    ∀ (c : BitVec 3) (off : BitVec 21) (imm : BitVec 32),
      (Instr.cmp c sd sa sb).wellFormed = decide (c.toNat < 6) ∧ (Instr.cmpi c sd sa imm).wellFormed = decide (c.toNat < 6) ∧
      (Instr.bc c sa sb off).wellFormed = decide (c.toNat < 6)) ∧
  ∀ (s : State) (sd sa : BitVec 6) (imm : BitVec 32), Alone s .c →
    let a := s.src sa
    let si : W64 := BitVec.ofInt 64 imm.toInt
    let zi : W64 := BitVec.ofNat 64 imm.toNat
    let out : Nat → W64 → Out := fun lat v =>
      .next (s.withMe ((s.me.flying lat (.scalar sd.toNat v) f0 0).moved .c))
    exec (.addi sd sa imm) s = out 1 (a + si) ∧
    exec (.andi sd sa imm) s = out 1 (a &&& zi) ∧
    exec (.ori sd sa imm) s = out 1 (a ||| zi) ∧
    exec (.xori sd sa imm) s = out 1 (a ^^^ zi) ∧
    (imm.toNat < 64 →
      exec (.shli sd sa imm) s = out 1 (a <<< imm.toNat) ∧
      exec (.shri sd sa imm) s = out 1 (a >>> imm.toNat) ∧
      exec (.srai sd sa imm) s = out 1 (BitVec.ofInt 64 (a.toInt / 2 ^ imm.toNat))) ∧
    exec (.muli sd sa imm) s = out 3 (a * si) ∧
    exec (.cmpi 0#3 sd sa imm) s = out 1 (if a = si then 1#64 else 0#64) ∧
    exec (.cmpi 1#3 sd sa imm) s = out 1 (if a ≠ si then 1#64 else 0#64) ∧
    exec (.cmpi 2#3 sd sa imm) s = out 1 (if a.toInt < si.toInt then 1#64 else 0#64) ∧
    exec (.cmpi 3#3 sd sa imm) s = out 1 (if si.toInt ≤ a.toInt then 1#64 else 0#64) ∧
    exec (.cmpi 4#3 sd sa imm) s = out 1 (if a.toNat < si.toNat then 1#64 else 0#64) ∧
    exec (.cmpi 5#3 sd sa imm) s = out 1 (if si.toNat ≤ a.toNat then 1#64 else 0#64) ∧
    exec (.li sd imm) s = out 1 si ∧
    exec (.lih sd sa imm) s = out 1 (BitVec.ofNat 64 (imm.toNat * 2 ^ 32 + a.toNat % 2 ^ 32))

/-- R109: quotient and remainder toward zero; a zero divisor gives all ones and the dividend and raises ZD when the
result lands; the divider is held 20 clk, in which the result lands. -/
def Obligations.DivisionResults : Prop :=
  ∀ (s : State) (sd sa sb : BitVec 6), Alone s .c →
    let a := s.src sa
    let b := s.src sb
    let out : W64 → Flags → Out := fun v fl =>
      .next (s.withMe ({ s.me.flying 20 (.scalar sd.toNat v) fl 8 with busyDiv := 20 }.moved .c))
    (b ≠ 0#64 →
      exec (.div false sd sa sb) s = out (BitVec.ofInt 64 (a.toInt.tdiv b.toInt)) f0 ∧
      exec (.div true sd sa sb) s = out (BitVec.ofNat 64 (a.toNat / b.toNat)) f0 ∧
      exec (.rem false sd sa sb) s = out (BitVec.ofInt 64 (a.toInt.tmod b.toInt)) f0 ∧
      exec (.rem true sd sa sb) s = out (BitVec.ofNat 64 (a.toNat % b.toNat)) f0) ∧
    (b = 0#64 → ∀ n,
      exec (.div n sd sa sb) s = out (BitVec.allOnes 64) fZD ∧
      exec (.rem n sd sa sb) s = out a fZD)

/-- R22, R75, R76, R105, R111: branches to a word of the code region. A taken one moves the strand to its target and
leaves two bubbles; one not taken goes on. `call` leaves its return address, `jr` takes its target from a register. A
taken branch to an address outside the code region faults with PERM, and one to an address within it that is no
multiple of 8 with ALIGN. R75, R76: the instructions common to the strands: `nop` moves on, `fin` stops its strand (a
D strand once its accesses are done, a V strand outside a pblk span), `jmp` is taken, and `lpf` follows the loopr of
its bundle. Of this the model chose, and the manual does not state: the order of the two faults of a target
(assumption log 21). -/
def Obligations.BranchesAndCommonInstructions : Prop :=
  (∀ (s : State) (off : BitVec 21) (sd sa sb : BitVec 6) (cond : BitVec 3), Alone s .c →
    let here : Int := s.me.sc.pc.toNat
    let there : Int := here + 8 * off.toInt
    let jump : Tile → Int → Out := fun t x => .next (s.withMe (t.movedTo .c (BitVec.ofInt 21 x) 3))
    (s.inCode there → exec (.br off) s = jump s.me there) ∧
    (s.inCode (s.src sa).toNat → exec (.jr sa) s = jump s.me (s.src sa).toNat) ∧
    (s.inCode there → exec (.call sd off) s =
      jump (s.me.flying 1 (.scalar sd.toNat (BitVec.ofNat 64 ((here.toNat + 8) % 2 ^ 21))) f0 0) there) ∧
    (cond.toNat < 6 → CondHolds cond (s.src sa) (s.src sb) → s.inCode there →
      exec (.bc cond sa sb off) s = jump s.me there) ∧
    (cond.toNat < 6 → ¬ CondHolds cond (s.src sa) (s.src sb) →
      exec (.bc cond sa sb off) s = .next (s.withMe (s.me.moved .c))) ∧
    (s.unfaulted →
      (s.outsideCode there → FaultsAt s (exec (.br off) s) 0x06 ∧ FaultsAt s (exec (.call sd off) s) 0x06 ∧
        (cond.toNat < 6 → CondHolds cond (s.src sa) (s.src sb) → FaultsAt s (exec (.bc cond sa sb off) s) 0x06)) ∧
      (s.outsideCode (s.src sa).toNat → FaultsAt s (exec (.jr sa) s) 0x06) ∧
      (s.misaligned (s.src sa).toNat → FaultsAt s (exec (.jr sa) s) 0x02))) ∧
  ∀ (s : State) (st : Strand) (off : BitVec 21), Alone s st →
    let there : Int := ((s.me.str st).pc.toNat : Int) + 8 * off.toInt
    let jump : Out := .next (s.withMe (s.me.movedTo st (BitVec.ofInt 21 there) 3))
    exec .nop s = .next (s.withMe (s.me.moved st)) ∧
    ((st = .v → s.me.span = none) → (st = .d → s.me.dIdle = true) →
      exec .fin s = .next (s.withMe ((s.me.moved st).onStr st fun x => { x with running := false }))) ∧
    (st ≠ .c → (st = .v → s.me.span = none) → s.inCode there →
      exec (.jmp off) s = jump ∧
      (s.focus.closes = true → s.focus.follow = true → exec (.lpf off) s = jump)) ∧
    (st ≠ .c → (st = .v → s.me.span = none) → s.focus.closes = true → s.focus.follow = false →
      exec (.lpf off) s = .next (s.withMe (s.me.moved st)))

/-- R112, R116: `bf` reads a flag slot as it stands: any, all, none, or a count that is not zero, inverted by bit 48.
R113: `loopr` counts LC down, then EC, rotates both bases and writes the newest stage predicate while it counts, and
is taken until EC has come to 1; with both counts 0 it changes nothing and falls through. Of this the model chose, and
the manual does not state: what the shadow context may not issue (assumption log 18). -/
def Obligations.FlagBranchesAndLoopClose : Prop :=
  (∀ (s : State) (fs : BitVec 2) (inv : Bool) (off : BitVec 21), Alone s .c →
    let v := (s.me.slot fs.toNat).toNat
    let there : Int := (s.me.sc.pc.toNat : Int) + 8 * off.toInt
    ∀ (test : BitVec 2),
      let holds := match test.toNat with
        | 0 => v.testBit 13
        | 1 => v.testBit 12
        | 2 => v.testBit 11
        | _ => v % 2 ^ 11 != 0
      (holds ≠ inv → s.inCode there →
        exec (.bf fs test inv off) s = .next (s.withMe (s.me.movedTo .c (BitVec.ofInt 21 there) 3))) ∧
      (holds = inv → exec (.bf fs test inv off) s = .next (s.withMe (s.me.moved .c)))) ∧
  ∀ (s : State) (sd : BitVec 6) (off : BitVec 21), Alone s .c →
    let v := (s.src sd).toNat
    let lc := v % 2 ^ 32
    let ec := v / 2 ^ 32 % 2 ^ 8
    let top := v / 2 ^ 40 * 2 ^ 40
    let there : Int := (s.me.sc.pc.toNat : Int) + 8 * off.toInt
    let out : Nat → Bool → Tile := fun w stage =>
      (s.me.flying 1 (.scalar sd.toNat (BitVec.ofNat 64 w)) f0 0).flying 1
        (.bases (s.me.vrb - 1) (s.me.krb - 1) (physK (s.me.krb - 1) 16) stage) f0 0
    (lc ≠ 0 → s.inCode there → exec (.loopr sd off) s =
      .next (s.withMe ((out (top + ec * 2 ^ 32 + (lc - 1)) true).movedTo .c (BitVec.ofInt 21 there) 3))) ∧
    (lc = 0 → ec > 1 → s.inCode there → exec (.loopr sd off) s =
      .next (s.withMe ((out (top + (ec - 1) * 2 ^ 32) false).movedTo .c (BitVec.ofInt 21 there) 3))) ∧
    (lc = 0 → ec = 1 → exec (.loopr sd off) s = .next (s.withMe ((out top false).moved .c))) ∧
    (lc = 0 → ec = 0 → exec (.loopr sd off) s =
      .next (s.withMe ((s.me.flying 1 (.scalar sd.toNat (BitVec.ofNat 64 top)) f0 0).moved .c)))

/-- R26, R115, R116: `pop` takes the oldest word of a queue that holds one and waits at one that holds none, `push`
sends a word into q14 while it has room and waits where it has none, `qlen` counts what may be popped and `rdfs` reads
a flag slot. R34, R35, R37 to R41, R117: a control and status register is read with latency 2 as it stands at issue,
each number with its own value; a write enters flight and takes effect in the next clk, a write of FLAGS leaving the
flags set in its own clk and in the next; one that would set MODE.RM to 5, 6 or 7 faults with ILLEGAL. Of this the
model chose, and the manual does not state: what qlen counts, and that a blocked word raises no fault, that a write of
FLAGS leaves the flags raised in its own clk and in the next (assumption log 19, 22, 109). -/
def Obligations.QueueSlotAndControlRegisterInstructions : Prop :=
  (∀ (s : State) (r : BitVec 6) (n : BitVec 4), Alone s .c →
    let out : Tile → W64 → Out := fun t v => .next (s.withMe ((t.flying 1 (.scalar r.toNat v) f0 0).moved .c))
    (∀ x xs, s.me.squeue n.toNat = x :: xs → n = 12#4 ∨ n = 13#4 ∨ n = 15#4 → s.me.queueBad n.toNat 1 = false →
      exec (.pop r n) s = .next (s.withMe (((s.me.flying 1 (.scalar r.toNat x) f0 0).squeuePop n.toNat).moved .c))) ∧
    (s.me.q14.length + s.me.q14Coming < 32 →
      exec (.push r 14#4) s = .next (s.withMe ((s.me.flying 1 (.q14 (s.src r)) f0 0).moved .c))) ∧
    (s.me.squeue n.toNat = [] → n = 12#4 ∨ n = 13#4 ∨ n = 15#4 → WaitsAt s (exec (.pop r n) s) 1 n.toNat) ∧
    (32 ≤ s.me.q14.length + s.me.q14Coming → WaitsAt s (exec (.push r 14#4) s) 1 14) ∧
    exec (.qlen r n) s = out s.me (BitVec.ofNat 64 (s.me.squeue n.toNat).length) ∧
    (n.toNat < 4 → exec (.rdfs r n) s = out s.me (BitVec.ofNat 64 (s.me.slot n.toNat).toNat))) ∧
  ∀ (s : State) (sd sa : BitVec 6) (csr : BitVec 12), Alone s .c →
    let cleared : Tile := { s.me with kept := s.me.raised }
    exec (.csrr sd csr) s =
      .next (s.withMe ((s.me.flying 2 (.scalar sd.toNat (s.csrValue s.focus.tile csr.toNat)) f0 0).moved .c)) ∧
    (csr ≠ 0x011#12 ∨ (s.src sa).toNat % 8 < 5 →
      exec (.csrw csr sa) s = .next (s.withMe ((cleared.flying 1 (.csr csr.toNat 0 (s.src sa)) f0 0).moved .c))) ∧
    (csr ≠ 0x011#12 ∨ (s.me.modeRm ||| (s.src sa).setWidth 3).toNat < 5 →
      exec (.csrs csr sa) s = .next (s.withMe ((cleared.flying 1 (.csr csr.toNat 1 (s.src sa)) f0 0).moved .c))) ∧
    (csr ≠ 0x011#12 ∨ (s.me.modeRm &&& ~~~((s.src sa).setWidth 3)).toNat < 5 →
      exec (.csrc csr sa) s = .next (s.withMe ((cleared.flying 1 (.csr csr.toNat 2 (s.src sa)) f0 0).moved .c))) ∧
    (s.unfaulted →
      (5 ≤ (s.src sa).toNat % 8 → FaultsAt s (exec (.csrw 0x011#12 sa) s) 0x01) ∧
      (5 ≤ (s.me.modeRm ||| (s.src sa).setWidth 3).toNat → FaultsAt s (exec (.csrs 0x011#12 sa) s) 0x01) ∧
      (5 ≤ (s.me.modeRm &&& ~~~((s.src sa).setWidth 3)).toNat → FaultsAt s (exec (.csrc 0x011#12 sa) s) 0x01)) ∧
    (let t := s.me
     let reads : Nat → Nat → Prop := fun n v => s.csrValue s.focus.tile n = BitVec.ofNat 64 v
     reads 0x000 (s.dcc + 2 ^ 64 - t.hold % 2 ^ 64) ∧ reads 0x001 s.dcc ∧ reads 0x002 s.ptc.toNat ∧ reads 0x010 t.flags.toNat ∧
     reads 0x011 (t.modeRm.toNat + (if t.modeDet then 8 else 0) + (if t.modeSt then 16 else 0)) ∧
     reads 0x012 t.srseed.toNat ∧ reads 0x013 t.spoor.toNat ∧ reads 0x014 t.slip.toNat ∧ reads 0x018 t.vrb.toNat ∧
     reads 0x019 t.krb.toNat ∧ reads 0x020 t.taskid.toNat ∧ reads 0x021 t.launchid.toNat ∧
     reads 0x022 (if t.world then 1 else 0)) ∧
    ∀ (t : Tile) (v : W64) (fl : Flags),
      (t.csrWrite 0x010 0 v).flags = t.flags &&& ~~~(v.setWidth 8 &&& ~~~t.kept) ∧
      (t.raise fl).flags = t.flags ||| fl ∧ (t.raise fl).raised = t.raised ||| fl ∧ (t.raise fl).kept = t.kept ||| fl

/-- R118 to R120, R127, R128: random numbers, the base table, the loop counts and the completion counters. -/
def Obligations.TableAndCounterInstructions : Prop :=
  ∀ (s : State) (sd sa sb : BitVec 6) (idx : BitVec 12) (eng : BitVec 2), Alone s .c →
    let out : Nat → W64 → Out := fun lat v =>
      .next (s.withMe ((s.me.flying lat (.scalar sd.toNat v) f0 0).moved .c))
    let z0 := s.src sa + (s.src sb + 1#64) * 0x9E3779B97F4A7C15#64
    let z1 := (z0 ^^^ (z0 >>> 30)) * 0xBF58476D1CE4E5B9#64
    let z2 := (z1 ^^^ (z1 >>> 27)) * 0x94D049BB133111EB#64
    let z := z2 ^^^ (z2 >>> 31)
    exec (.rand false sd sa sb) s = out 4 z ∧
    exec (.rand true sd sa sb) s = out 4 (uniform32 z) ∧
    (idx.toNat < 16 → exec (.btr sd idx) s = out 1 (s.me.btReg idx.toNat)) ∧
    (idx.toNat < 16 →
      exec (.btw idx sa) s = .next (s.withMe ((s.me.flying 1 (.base idx.toNat (s.src sa)) f0 0).moved .c))) ∧
    (idx.toNat < 8 →
      exec (.lcw eng idx sa) s =
        .next (s.withMe ((s.me.flying 1 (.loopCount eng.toNat idx.toNat ((s.src sa).setWidth 32)) f0 0).moved .c))) ∧
    (idx.toNat < 32 →
      exec (.fcrd sd idx) s = .next (s.withMe
        ((s.me.flying 2 (.scalar sd.toNat (BitVec.ofNat 64 (s.me.fcReg idx.toNat).toNat)) f0 0).acquire.moved .c)) ∧
      exec (.fcw idx sa) s = .next (s.withMe ((s.me.setFc idx.toNat ((s.src sa).setWidth 32)).moved .c)) ∧
      ((s.me.fcReg idx.toNat - (s.src sa).setWidth 32).toNat < 2 ^ 31 →
        exec (.fcwt idx sa) s = .next (s.withMe (s.me.acquire.moved .c))))

/-- R135, R347, R350, R352, R353: `trap` is a terminal TRAP of the C strand: the strand stands at it, the unit's stop
record holds HOLD, TCC and its immediate (bits 319:296 of the record), and as the partition's first fault it raises
the halt line and sets HALTS. Of this the model chose, and the manual does not state: HOLD and TCC of the record, and
the free arrival of the halt line (assumption log 8, 73). -/
def Obligations.TrapRaisesItsTerminalFault : Prop :=
  ∀ (s : State) (imm : BitVec 24), Alone s .c → s.me.stops = [] →
    let p := s.me.partition
    ((s.part p).halts.toNat.testBit 63) = false →
    ∃ t, exec (.trap imm) s = .next t ∧
      t = { s with tiles := t.tiles, parts := t.parts, free := s.free + 2 } ∧
      (∀ k, k ≠ s.focus.tile → t.tile k = s.tile k) ∧ (∀ q, q ≠ p → t.part q = s.part q) ∧
      t.me = { s.me with
        sc := { s.me.sc with waiting := false, faulted := true }
        stops := [(0, ⟨true, false, 0x0E, 0, s.dcc, s.me.sc.pc,
          BitVec.ofNat 320 (imm.toNat * 2 ^ 104) ||| BitVec.ofNat 320 (s.me.hold % 2 ^ 64 * 2 ^ 192 +
            (s.dcc + 2 ^ 64 - s.me.hold % 2 ^ 64) % 2 ^ 64 * 2 ^ 128), false⟩)] } ∧
      (t.part p).halts = BitVec.ofNat 64 (2 ^ 63 + 0x0E * 2 ^ 55 + s.focus.tile % 512 * 2 ^ 42 + s.dcc % 2 ^ 40) ∧
      ∃ a b, 2 ≤ a ∧ a ≤ 16 ∧ 2 ≤ b ∧ b ≤ 16 ∧ (t.part p).halt = some ⟨0, a, b, false, false⟩

/-- R135: `trap` raises the terminal fault TRAP (0x0E): the C strand's stop record takes the cause, its own address
and the immediate (bits 319:296 of the record), the partition's halt line stands raised, with that cause where no
fault came before, and from then on the C strand issues neither alone nor in a bundle. -/
def Obligations.TrapEndsTheCStrand : Prop :=
  (∀ (s : State) (imm : BitVec 24), Alone s .c → (∀ r, SMap.find s.me.stops 0 = some r → r.own = false) →
    let p := s.me.partition
    ∃ t r, exec (.trap imm) s = .next t ∧ SMap.find t.me.stops 0 = some r ∧ r.own = true ∧ r.cause = 0x0E ∧
      r.pc = s.me.sc.pc ∧ r.aux.toNat / 2 ^ 104 % 2 ^ 24 = imm.toNat ∧ t.me.sc.faulted = true ∧
      (t.part p).halts.toNat.testBit 63 = true ∧
      ((s.part p).halts.toNat.testBit 63 = false →
        (t.part p).halts.toNat / 2 ^ 55 % 2 ^ 8 = 0x0E ∧ (t.part p).halt.isSome = true)) ∧
  ∀ (u : State) (tid : Nat), (u.tile tid).sc.faulted = true →
    (∀ rest, u.agenda = .issue tid .c :: rest →
      step u = .next (({ u with agenda := rest } : State).atStrand tid .c)) ∧
    ∀ c l, u.bundle tid ≠ .go c l

/-- R136 to R138: in the shadow context `shi` reads an item of the service with latency 2, and `shret` ends the
service with its clk; the strands of the task stand still. Issued by a task, `shi`, `xlin` and `shret` fault with
ILLEGAL. R136: the shadow context computes with its own scalar registers, which the task's never see: the arithmetic
of the C strand leaves its result in flight in the context. R137, R279: `xlin` installs a valid page entry in the
translation caches of the tile and its cluster; an entry with V = 0 installs nothing. Of this the model chose, and the
manual does not state: what the shadow context may issue, and xlin of a table entry (assumption log 18, 28). -/
def Obligations.TheShadowContextComputesApart : Prop :=
  ((∀ (s : State) (sd sa sb : BitVec 6) (imm : BitVec 24), Alone s .c → s.unfaulted →
    FaultsAt s (exec (.shi sd imm) s) 0x01 ∧ FaultsAt s (exec (.xlin sa sb) s) 0x01 ∧ FaultsAt s (exec .shret s) 0x01) ∧
  ∀ (s : State) (h : Shadow) (sd : BitVec 6) (imm : BitVec 24), InShadow s h →
    (imm.toNat < 8 → exec (.shi sd imm) s =
      .next (s.withMe { s.me with
        shadow := some { h.moved with
          flight := h.flight ++ [⟨2, .scalar sd.toNat (h.items.getD imm.toNat 0), f0, 0⟩] } })) ∧
    exec .shret s =
      .next (s.withMe { s.me with
        shadow := some { h with done := true, st := { h.st.issued (h.st.pc + 8#21) 1 with running := false } } })) ∧
  (∀ (s : State) (h : Shadow) (sd sa sb : BitVec 6) (imm : BitVec 32), InShadow s h →
    let src : BitVec 6 → W64 := fun r => if r = 0#6 then 0#64 else SMap.get 0#64 h.regs r.toNat
    let out : W64 → Out := fun v => 
      .next (s.withMe { s.me with
        shadow := some { h.moved with flight := h.flight ++ [⟨1, .scalar sd.toNat v, f0, 0⟩] } })
    exec (.add sd sa sb) s = out (src sa + src sb) ∧
    exec (.sub sd sa sb) s = out (src sa - src sb) ∧
    exec (.addi sd sa imm) s = out (src sa + BitVec.ofInt 64 imm.toInt) ∧
    exec (.li sd imm) s = out (BitVec.ofInt 64 imm.toInt)) ∧
  ∀ (s : State) (h : Shadow) (sa sb : BitVec 6), InShadow s h →
    let e := s.rs sb
    let va := (s.rs sa).toNat % 2 ^ 48
    let on : State := s.withMe { s.me with shadow := some h.moved }
    (pteValid e.toNat = false → exec (.xlin sa sb) s = .next on) ∧
    (pteValid e.toNat = true → pteMalformed e.toNat = false → pteTable e.toNat = false →
      exec (.xlin sa sb) s = .next
        (((s.fillTlb s.focus.tile s.me.partition va e).fillCcache (s.focus.tile / 64) s.me.partition va e).retire))

/-- R121 to R123, R287: `harr` sends one arrival to the home and sets PEND; `hwt` issues once no arrival is pending;
both acquire; `hpoll` reads the hurdle's word with latency 2; `hset` starts a reconfiguration of the launch's hurdle,
whose homes of its present scope count and expect nothing; from another rank than 0, or of a superstep hurdle, it
faults with PERM, and with a scope or a target beyond the limits of R121 with ILLEGAL. Of this the model chose, and
the manual does not state: what harr waits for (assumption log 25). -/
def Obligations.HurdleInstructions : Prop :=
  ∀ (s : State) (r : Residence) (idx : BitVec 12) (sd sa : BitVec 6), Alone s .c → s.me.res = some r → idx.toNat < 128 →
    let n := idx.toNat
    let h := s.me.hurdle n
    let home := s.home r.part r.lid n (scopeNo h.scope s.focus.tile)
    let a := (s.src sa).toNat
    (h.cfg = true → h.pend = false → s.me.dIdle = true →
      exec (.harr idx) s = .next ((s.setHome { home with transit := home.transit ++ [(r.rank, 0)] }).withMe
        ((s.me.acquire.setHurdle n { h with pend := true }).moved .c))) ∧
    (h.pend = false → exec (.hwt idx) s = .next (s.withMe (s.me.acquire.moved .c))) ∧
    exec (.hpoll sd idx) s =
      .next (s.withMe ((s.me.flying 2 (.scalar sd.toNat (s.hurdleWord s.focus.tile n)) f0 0).moved .c)) ∧
    (r.rank = 0 → h.ss = false → a / 2 ^ 60 % 4 < 2 → 0 < a / 2 ^ 16 % 2 ^ 16 →
      a / 2 ^ 16 % 2 ^ 16 ≤ (if a / 2 ^ 60 % 4 = 0 then 48 else 384) →
      (∀ x ∈ s.homesOf r.part r.lid n h.scope, x.coming = false ∧ x.count = 0) →
      exec (.hset idx sa) s = .next (({ s with
        hsets := s.hsets ++ [⟨r.part, r.lid, n, a / 2 ^ 60 % 4, a / 2 ^ 16 % 2 ^ 16,
          hurdleLatency (s.placeOf r.part r.lid) 8⟩] } : State).withMe (s.me.moved .c))) ∧
    (s.unfaulted →
      (r.rank ≠ 0 ∨ h.ss = true → FaultsAt s (exec (.hset idx sa) s) 0x06) ∧
      (r.rank = 0 → h.ss = false →
        2 ≤ a / 2 ^ 60 % 4 ∨ a / 2 ^ 16 % 2 ^ 16 = 0 ∨
          (if a / 2 ^ 60 % 4 = 0 then 48 else 384) < a / 2 ^ 16 % 2 ^ 16 → FaultsAt s (exec (.hset idx sa) s) 0x01))

/-- R126: `lnch` hands a record pointer, of the global window or of the tile's own scratchpad, to the tile's shepherd,
which has room for 16 of the partition. R129, R337, R361: `cncl` asks for the cancel of a unit of the task's own job,
which takes effect at the end of the clk, and `lvwt` waits for a unit's counter; both move on. A unit of another job
faults with PERM, and a counter that has not come to its value blocks `lvwt`. Of this the model chose, and the manual
does not state: the check of lvwt before its wait, that bits 63:32 of a unit identity do not count, that cncl's cancel
takes effect at the end of the clk, from the list of cancels (assumption log 22, 74, 115). -/
def Obligations.LaunchCancelAndWaitInstructions : Prop :=
  (∀ (s : State) (sa : BitVec 6), Alone s .c →
    GlobalPointer (s.src sa) 64 ∨ (s.OwnLine (s.src sa) ∧ (s.src sa).toNat / 2 ^ 60 = 9) → s.launchQueue s.me.partition < 16 →
    exec (.lnch sa) s = .next (({ s with
      incoming := s.incoming ++ [⟨s.me.partition, s.focus.tile / 256, s.src sa, some s.focus.tile, none, s.me.world,
        s.jobOf s.me, s.me.dseq, s.foldOfTile s.me⟩] } : State).withMe (s.me.moved .c))) ∧
  ∀ (s : State) (lvl : BitVec 2) (sa sb : BitVec 6), Alone s .c →
    let id := (s.src sa).toNat % 2 ^ 32
    let p := s.me.partition
    (s.foreignUnit lvl.toNat id = false →
      exec (.cncl lvl sa) s = .next ((s.withMe (s.me.moved .c)).onPart p fun x =>
        { x with cancels := x.cancels ++ [(lvl.toNat, id)] }) ∧
      ∀ u, s.lastUnit p lvl.toNat id = some u → u ∈ s.jobUnits p (s.jobOf s.me) →
        ((u.counter - (s.src sb).setWidth 32).toNat < 2 ^ 31 → exec (.lvwt lvl sa sb) s = .next (s.withMe (s.me.moved .c))) ∧
        (2 ^ 31 ≤ (u.counter - (s.src sb).setWidth 32).toNat → WaitsAt s (exec (.lvwt lvl sa sb) s) 5 lvl.toNat)) ∧
    (s.foreignUnit lvl.toNat id = true → s.unfaulted →
      FaultsAt s (exec (.cncl lvl sa) s) 0x06 ∧ FaultsAt s (exec (.lvwt lvl sa sb) s) 0x06)

/-- R130, R132: `phint` goes on without a request and takes the pre-emption where one stands; `yield` takes it also
where a save slot is free, and does nothing otherwise. R134, R434: `trace` moves on; where the partition's tracing is
enabled it records one event of kind 0 with its immediate, the value of sa and the task's clock, and where it is not,
nothing else changes. Of this the model chose, and the manual does not state: the slot of a yield (assumption log 69).
-/
def Obligations.PreemptionPointsAndTrace : Prop :=
  (∀ (s : State) (imm : BitVec 24), Alone s .c →
    let on : Tile := s.me.moved .c
    (s.me.preq = none → exec (.phint imm) s = .next (s.withMe on)) ∧
    (s.me.preq.isSome = true →
      exec (.phint imm) s = .next (s.withMe { on with drain := some ⟨imm, false, true, []⟩ })) ∧
    (s.me.preq = none → s.spareSlots s.me.partition = 0 → exec (.yield imm) s = .next (s.withMe on)) ∧
    (s.me.preq.isSome = true ∨ s.spareSlots s.me.partition ≠ 0 →
      ∃ t, exec (.yield imm) s = .next t ∧ t = { s with tiles := t.tiles, parts := t.parts } ∧
        t.me = { on with drain := some ⟨imm, false, s.me.preq.isSome, []⟩ } ∧
        (∀ k, k ≠ s.focus.tile → t.tile k = s.tile k) ∧
        ∀ r, s.me.res = some r → (r.lid, r.rank) ∈ (t.part r.part).reserved)) ∧
  ∀ (s : State) (sa : BitVec 6) (imm : BitVec 24), Alone s .c →
    let tid := s.focus.tile
    let e : TraceEvent := ⟨s.me.partition, 0, imm.toNat, s.src sa, 0, tid, s.me.taskid, s.tcc tid⟩
    ((s.part s.me.partition).reg.toNat.testBit 15 = false →
      exec (.trace sa imm) s = .next (s.withMe (s.me.moved .c))) ∧
    ((s.part s.me.partition).reg.toNat.testBit 15 = true →
      exec (.trace sa imm) s = .next ((s.traceAt tid e).retire))

/-- R141 to R151: the floating-point forms of the V strand read their sources in field order at issue, popping queue
rows, work element by element under the guard, and land after their unit's latency with the enabled elements' flags.
Of this the model chose, and the manual does not state: EXP2 and log2 as computed, NaN operands, and the estimates
below 2^-126, the sign of a Newton result that is exactly zero, the sign of a zero under RDN (assumption log 15, 16,
17, 113, 138). -/
def Obligations.VectorFloatForms : Prop :=
  ∀ (s : State) (o : VOps) (rm : BitVec 3), Alone s .v →
    let t := s.me
    let ss := t.sreg o.ss.toNat
    let g := t.guard o.kg o.kn
    let m := maskList g
    let mode := t.rmode rm
    let a := t.vsrc o.va ss
    let b := a.2.vsrc o.vb ss
    let c := b.2.vsrc o.vc ss
    let one : Nat → VUnit → (W32 → W32 × Flags) → Out := fun lat u f =>
      .next (s.withMe (a.2.vdone o.vd lat g (map1 f m a.1) u))
    let two : Nat → (W32 → W32 → W32 × Flags) → Out := fun lat f =>
      .next (s.withMe (b.2.vdone o.vd lat g (map2 f m a.1 b.1) .fe))
    let three : (W32 → W32 → W32 → W32 × Flags) → Out := fun f =>
      .next (s.withMe (c.2.vdone o.vd 6 g (map3 f m a.1 b.1 c.1) .fe))
    (t.vReady o.kg o.kn [o.va] (some o.vd) →
      exec (.vabs o) s = one 6 .fe (fun x => (if isNan32 x then nan32 else x &&& 0x7FFFFFFF#32, f0)) ∧
      exec (.vneg o) s = one 6 .fe (fun x => (if isNan32 x then nan32 else x ^^^ 0x80000000#32, f0)) ∧
      exec (.vmov o) s = one 6 .fe (fun x => (x, f0)) ∧
      exec (.vexp2 o rm) s = one 10 .ft (fun x => exp2Of mode t.srseed (ofF32 x)) ∧
      exec (.vlog2 o rm) s = one 10 .ft (log2f mode t.srseed) ∧
      exec (.vrcpe o) s = one 6 .fe rcpe ∧
      exec (.vrsqe o) s = one 6 .fe rsqe) ∧
    (t.vReady o.kg o.kn [o.va, o.vb] (some o.vd) →
      exec (.vadd o rm) s = two 6 (fadd mode t.srseed) ∧
      exec (.vsub o rm) s = two 6 (fsub mode t.srseed) ∧
      exec (.vmul o rm) s = two 6 (fmul mode t.srseed) ∧
      exec (.vmax o) s = two 6 (fun x y => (fmax x y, f0)) ∧
      exec (.vmin o) s = two 6 (fun x y => (fmin x y, f0)) ∧
      exec (.vrcpn o) s = two 8 (newton false) ∧
      exec (.vrsqn o) s = two 8 (newton true)) ∧
    (t.vReady o.kg o.kn [o.va, o.vb, o.vc] (some o.vd) →
      exec (.vfma o rm) s = three (ffma mode t.srseed false false) ∧
      exec (.vfms o rm) s = three (ffma mode t.srseed false true) ∧
      exec (.vfnma o rm) s = three (ffma mode t.srseed true false))

/-- R152, R153: the integer forms work on the sub-elements of their lane type, each result modulo 2^w and raising no
flag, and viota writes an index; no sub-element depends on another. The scalar broadcast gives bits 31:0 to every
lane; a word with a lane type of 3 or 7 is no instruction of these forms, and viota is none without a 32-bit lane
type, with kind 3 or with a source. -/
def Obligations.VectorIntegerForms : Prop :=
  (∀ (s : State) (o : VOps) (lt : BitVec 3), Alone s .v →
    let t := s.me
    let ss := t.sreg o.ss.toNat
    let g := t.guard o.kg o.kn
    let m := maskList g
    let a := t.vsrc o.va ss
    let b := a.2.vsrc o.vb ss
    let w := ltWidth lt
    let sg : Nat → Int := asInt (ltNatural lt) w
    let two : (Nat → Nat → Nat) → Out := fun f =>
      .next (s.withMe (b.2.vdone o.vd 6 g (map2 (fun x y => (laneMap2 w f x y, f0)) m a.1 b.1) .fe))
    (t.vReady o.kg o.kn [o.va, o.vb] (some o.vd) →
      exec (.viadd o lt) s = two (fun x y => x + y) ∧
      exec (.visub o lt) s = two (fun x y => x + 2 ^ w - y) ∧
      exec (.vimul o lt) s = two (fun x y => x * y) ∧
      exec (.vimulh o lt) s = two (fun x y => (sg x * sg y / 2 ^ w % 2 ^ w).toNat) ∧
      exec (.vimin o lt) s = two (fun x y => if sg x ≤ sg y then x else y) ∧
      exec (.vimax o lt) s = two (fun x y => if sg y ≤ sg x then x else y) ∧
      exec (.viand o lt) s = two (fun x y => x &&& y) ∧
      exec (.vior o lt) s = two (fun x y => x ||| y) ∧
      exec (.vixor o lt) s = two (fun x y => x ^^^ y) ∧
      exec (.vishl o lt) s = two (fun x y => x * 2 ^ (y % w)) ∧
      exec (.vishr o lt) s = two (fun x y => x / 2 ^ (y % w)) ∧
      exec (.visra o lt) s = two (fun x y => (asInt false w x / 2 ^ (y % w) % 2 ^ w).toNat)) ∧
    (t.vReady o.kg o.kn [o.va] (some o.vd) →
      exec (.viabs o lt) s = .next (s.withMe (a.2.vdone o.vd 6 g
        (map1 (fun x => (laneMap2 w (fun y _ => (sg y).natAbs) x 0#32, f0)) m a.1) .fe))) ∧
    (t.vReady o.kg o.kn [] (some o.vd) → ∀ k : BitVec 2, k ≠ 3#2 →
      exec (.viota o lt k) s = .next (s.withMe (t.vdone o.vd 6 g
        ((List.range 1024).map (fun i => BitVec.ofNat 32
          (if k = 0#2 then i % 64 else if k = 1#2 then i / 64 else i)), f0) .fe)))) ∧
  (∀ (w : Nat) (f : Nat → Nat → Nat) (x y : W32), w = 8 ∨ w = 16 ∨ w = 32 → ∀ i, i < 32 / w →
    (laneMap2 w f x y).toNat / 2 ^ (w * i) % 2 ^ w =
      f (x.toNat / 2 ^ (w * i) % 2 ^ w) (y.toNat / 2 ^ (w * i) % 2 ^ w) % 2 ^ w) ∧
  (∀ (t : Tile) (ss : W64), t.vsrc 76#7 ss = (List.replicate 1024 (ss.setWidth 32), t)) ∧
  (ltWidth 0#3 = 32 ∧ ltWidth 4#3 = 32 ∧ ltWidth 1#3 = 16 ∧ ltWidth 5#3 = 16 ∧ ltWidth 2#3 = 8 ∧ ltWidth 6#3 = 8 ∧
    ∀ n w x, x < 2 ^ w → 0 < w → asInt n w x = if n = true ∨ x < 2 ^ (w - 1) then (x : Int) else x - 2 ^ w) ∧
  (∀ (o : VOps) (lt : BitVec 3), lt = 3#3 ∨ lt = 7#3 →
    ∀ i ∈ [Instr.viadd o lt, .visub o lt, .vimul o lt, .vimulh o lt, .vimin o lt, .vimax o lt, .viand o lt, .vior o lt,
      .vixor o lt, .vishl o lt, .vishr o lt, .visra o lt, .viabs o lt],
    ∀ (w : Nat) (y : Bool) (d : BitVec 3), decodeSlot .v w ≠ .ok ⟨y, d, i⟩) ∧
  ∀ (o : VOps) (lt : BitVec 3) (k : BitVec 2) (w : Nat) (y : Bool) (d : BitVec 3),
    decodeSlot .v w = .ok ⟨y, d, .viota o lt k⟩ →
    (lt = 0#3 ∨ lt = 4#3) ∧ k ≠ 3#2 ∧ o.va = 0#7 ∧ o.vb = 0#7 ∧ o.vc = 0#7

/-- R154 to R158: conversions between f32, narrow formats and integers; narrow results are packed along the column
axis, each where its source element says, and widening takes its part of the packed data. -/
def Obligations.VectorConversions : Prop :=
  (∀ (s : State) (o : VOps) (rm lt sl : BitVec 3) (fmt : BitVec 5) (p : BitVec 2) (x sat : Bool), Alone s .v →
    let t := s.me
    let g := t.guard o.kg o.kn
    let m := maskList g
    let a := t.vsrc o.va (t.sreg o.ss.toNat)
    let mode := t.rmode rm
    let narrow : Nat → (W32 → Nat × Flags) → Out := fun w f =>
      let r := a.1.map f
      .next (s.withMe (((a.2.narrowDst o.vd w (r.map (·.1)) m (gatherFlags m r)).holdUnit .fe).moved .v))
    let whole : (Nat → W32 × Flags) → Out := fun f =>
      let r := (List.range 1024).map f
      .next (s.withMe (a.2.vdone o.vd 6 g (r.map (·.1), gatherFlags m r) .fe))
    let each : (W32 → W32 × Flags) → Out := fun f => .next (s.withMe (a.2.vdone o.vd 6 g (map1 f m a.1) .fe))
    t.vReady o.kg o.kn [o.va] (some o.vd) →
      exec (.vcvt o rm fmt x sat) s =
        narrow (fmtWidth fmt.toNat) (fun v => conv fmt.toNat mode x sat t.srseed (ofF32 v)) ∧
      exec (.vwid o p fmt x) s =
        whole (fun i => widenLane fmt.toNat x 127 (widenSource (fmtWidth fmt.toNat) p.toNat i (splitRows a.1))) ∧
      exec (.vcvti o rm lt) s = each (toInt32 (ltNatural lt) mode t.srseed) ∧
      exec (.vcvtf o rm lt) s = each (fromInt32 (ltNatural lt) mode t.srseed) ∧
      (ltWidth lt < 32 → exec (.vicvt o lt sl sat) s =
        narrow (ltWidth lt) (fun v => clampLane (ltNatural lt) (ltWidth lt) sat (asInt (ltNatural sl) 32 v.toNat))) ∧
      (ltWidth lt = 32 → exec (.vicvt o lt sl sat) s =
        whole (fun i =>
          let y := clampLane (ltNatural lt) 32 sat
            (asInt (ltNatural sl) (ltWidth sl) (widenSource (ltWidth sl) 0 i (splitRows a.1)))
          (BitVec.ofNat 32 y.1, y.2)))) ∧
  ∀ (w : Nat) (codes : List Nat) (ms : List Bool), w = 8 ∨ w = 16 → codes.length = 1024 → ms.length = 1024 →
    ∀ r c, r < 16 → c < 64 →
      let n := 32 / w
      ((packRows w codes ms).getD (64 * (r / n) + c) []).getD (r % n) (false, 0) =
        (ms.getD (64 * r + c) false, codes.getD (64 * r + c) 0)

/-- R159 to R162: rotations and broadcasts along both axes, reductions and scans in the fixed order of the tree and of
the lanes, and the bitonic step; a disabled contributor enters as the identity and every element is written. -/
def Obligations.VectorCrossLaneForms : Prop :=
  ∀ (s : State) (o : VOps), Alone s .v →
    let t := s.me
    let n := (t.sreg o.ss.toNat).toNat
    let g := t.guard o.kg o.kn
    let a := t.vsrc o.va (t.sreg o.ss.toNat)
    let el : Nat → Nat → W32 := fun r c => ((splitRows a.1).getD r []).getD c 0#32
    let out : Nat → (Nat → Nat → W32) → Out := fun lat f =>
      .next (s.withMe (a.2.vdone o.vd lat g ((List.range 1024).map (fun i => f (i / 64) (i % 64)), f0) .xl))
    let all : Nat → List W32 → Flags → Out := fun lat v fl =>
      .next (s.withMe (a.2.vdone o.vd lat (BitVec.allOnes 1024) (v, fl) .xl))
    (t.vReady o.kg o.kn [o.va] (some o.vd) →
      exec (.vrrot o) s = out 5 (fun r c => el r ((c + 64 - n % 64) % 64)) ∧
      exec (.vcrot o) s = out 4 (fun r c => el ((r + 16 - n % 16) % 16) c) ∧
      exec (.vrbc o) s = out 4 (fun r _ => el r (n % 64)) ∧
      exec (.vcbc o) s = out 3 (fun _ c => el (n % 16) c) ∧
      ∀ k : BitVec 2, k ≠ 3#2 →
        let src := withIdentity k.toNat (maskList g) a.1
        let rows := (splitRows src).map (reduceLine k.toNat)
        let cols := (columns src).map (reduceLine k.toNat)
        let rscan := (splitRows src).map (scan32 (reduceOp k.toNat))
        let cscan := (columns src).map (scan32 (reduceOp k.toNat))
        exec (.vrred o k) s = all 12 ((rows.map fun x => List.replicate 64 x.1).flatten)
          (rows.foldl (fun acc x => acc ||| x.2) f0) ∧
        exec (.vcred o k) s = all 8 ((List.replicate 16 (cols.map (·.1))).flatten)
          (cols.foldl (fun acc x => acc ||| x.2) f0) ∧
        exec (.vrscan o k) s = all 16 ((rscan.map (·.1)).flatten) (rscan.foldl (fun acc x => acc ||| x.2) f0) ∧
        exec (.vcscan o k) s = all 9 (joinColumns (cscan.map (·.1))) (cscan.foldl (fun acc x => acc ||| x.2) f0)) ∧
    (∀ (b j : BitVec 3) (dir : Bool), t.vReady o.kg o.kn [o.va, o.vb] (some o.vd) →
      let keys := t.vsrc o.va 0
      let idx := keys.2.vsrc o.vb 0
      let step := ((List.zipWith List.zip (splitRows keys.1) (splitRows idx.1)).map
        (bitonicRow b.toNat j.toNat dir)).flatten
      exec (.vbstep o b j dir) s = .next (s.withMe
        ((((idx.2.vdst o.vd 6 g (step.map (·.1)) f0).flying 6
          (.vector (physV t.vrb o.vc.toNat) g (step.map (·.2))) f0 1).holdUnit .xl).moved .v)))

/-- R81, R86, R163 to R165, R169: comparisons and predicate logic write the enabled elements of kd, `ptest` counts
into a flag slot, and `pblk` opens a span with its predicate as it stands. R166, R167: block b of an accumulator,
where no word of it holds an uncorrectable error, is read into a vector destination and written from a vector source,
straight or transposed, and so are the running maximum and denominator of its rows; a read sees the accumulator as it
stands. -/
def Obligations.PredicateAndAccumulatorForms : Prop :=
  (∀ (s : State) (o : VPOps), Alone s .v →
    let t := s.me
    let ss := t.sreg o.ss.toNat
    let g := t.guard o.kg o.kn
    let a := t.vsrc o.va ss
    let b := a.2.vsrc o.vb ss
    let ka := t.kreg (physK t.krb o.ka.toNat)
    let kb := t.kreg (physK t.krb o.kb.toNat)
    let out : Tile → Nat → VUnit → BitVec 1024 → Out := fun u lat x k =>
      .next (s.withMe (u.vput lat (.pred (physK t.krb o.kd.toNat) g k) x))
    (t.vReady o.kg o.kn [o.va, o.vb] none → ∀ cond : BitVec 3,
      exec (.vcmp o cond) s = out b.2 6 .fe (ofMask (List.zipWith (fcond cond.toNat) a.1 b.1)) ∧
      exec (.vicmp o cond) s = out b.2 6 .fe
        (ofMask (List.zipWith (fun x y => icond cond.toNat (x.signExtend 64) (y.signExtend 64)) a.1 b.1))) ∧
    (t.vReady o.kg o.kn [] none →
      exec (.kand o) s = out t 2 .pk (ka &&& kb) ∧
      exec (.kor o) s = out t 2 .pk (ka ||| kb) ∧
      exec (.kxor o) s = out t 2 .pk (ka ^^^ kb) ∧
      exec (.kandn o) s = out t 2 .pk (ka &&& ~~~kb) ∧
      exec (.knot o) s = out t 2 .pk (~~~ka) ∧
      exec (.kmov o) s = out t 2 .pk ka ∧
      (∀ k : BitVec 2, k ≠ 3#2 → exec (.kset o k) s = out t 2 .pk
        (ofMask ((List.range 1024).map fun i =>
          decide ((if k = 0#2 then i % 64 else if k = 1#2 then i / 64 else i) < ss.toNat)))) ∧
      (let seen := (List.range 1024).countP fun i => g.getLsbD i
       let n := (List.range 1024).countP fun i => g.getLsbD i && ka.getLsbD i
       exec (.ptest o) s = .next (s.withMe (t.vput 6 (.slot o.fs.toNat (BitVec.ofNat 14
         (n + (if n = 0 then 2 ^ 11 else 0) + (if n = seen then 2 ^ 12 else 0) + (if n > 0 then 2 ^ 13 else 0)))) .pk)))) ∧
    (t.span = none → ∀ (pattern : BitVec 8) (cnt : BitVec 3) (kp : BitVec 5),
      let k := physK t.krb kp.toNat
      exec (.pblk pattern cnt kp) s =
        .next (s.withMe { t.moved .v with span := some ⟨t.kreg k, k, cnt.toNat + 1, pattern⟩ }))) ∧
  ∀ (s : State) (o : VAOps), Alone s .v →
    let t := s.me
    let b := (t.sreg o.si.toNat).toNat % 8
    let acc := o.acc.toNat
    let g := t.guard o.kg o.kn
    let v := t.vsrc o.v (t.sreg o.ss.toNat)
    let read : Nat → (Nat → Nat → W32) → Out := fun lat f =>
      .next (s.withMe (t.vdone o.v lat g ((List.range 1024).map (fun i => f (i / 64) (i % 64)), f0) .ac))
    let el : Nat → Nat → W32 := fun r c => (t.accRow acc r).getD c 0#32
    let on : List (Nat × W32) := (List.zip (List.range 1024) v.1).filter fun x => g.getLsbD x.1
    let write : Nat → Target → Out := fun lat tgt => .next (s.withMe (v.2.vput lat tgt .ac))
    (t.vReady o.kg o.kn [] (some o.v) → t.badAcc = [] →
      exec (.vacrr o) s = .next (s.withMe (t.vdone o.v 5 g
        (((List.range 16).map fun r => t.accRow acc (16 * b + r)).flatten, f0) .ac)) ∧
      exec (.vaccr o) s = read 9 (fun r c => el (64 * (b / 4) + c) (16 * (b % 4) + r)) ∧
      exec (.vacsr o 0#2) s = read 5 (fun r _ => t.accMax acc (16 * b + r)) ∧
      exec (.vacsr o 1#2) s = read 5 (fun r _ => t.accDen acc (16 * b + r)) ∧
      exec (.vacsr o 2#2) s = read 5 (fun r _ => t.accFl acc (16 * b + r))) ∧
    (t.vReady o.kg o.kn [o.v] none →
      exec (.vacrw o) s = write 5 (.acc acc (on.map fun x => (64 * (16 * b + x.1 / 64) + x.1 % 64, x.2))) ∧
      exec (.vaccw o) s = write 9 (.acc acc
        (on.map fun x => (64 * (64 * (b / 4) + x.1 % 64) + (16 * (b % 4) + x.1 / 64), x.2))) ∧
      (∀ k : BitVec 2, k.toNat < 2 → exec (.vacsw o k) s = write 5 (.accRow acc (k == 1#2)
        ((on.filter fun x => x.1 % 64 == 0).map fun x => (16 * b + x.1 / 64, x.2)))))

/-- R172 to R176, R188, R189: a scalar load, a store and an atomic with an own, aligned pointer whose region allows it
enter the list of accesses, a result's queue entry allocated at issue; a store takes its value from q14. An access in
range lies at the offset in the scratchpad or in the private region; one out of range is no fault. A form whose queue
is full, or a store that finds q14 empty, waits, whatever its pointer; one that need not wait faults where it breaks a
pointer rule or a region rule, with its cause, and a store whose word of q14 holds an uncorrectable error with
ECC-UNCORR. Of this the model chose, and the manual does not state: when an access is performed, and SPOOR at its
performance, that a wait comes before a fault of the operands (assumption log 7, 22, 23). -/
def Obligations.LoadsStoresAndAtomicsIssue : Prop :=
  ∀ (s : State) (sz : BitVec 2) (sa sb sc : BitVec 6) (off : BitVec 16) (n w sx qs : Bool), Alone s .d →
    let t := s.me
    let p := s.src sa
    let room := 0 < t.dqFree qs
    let atomics : List Instr := [.aadd w qs sa sb off, .amin n w qs sa sb off, .amax n w qs sa sb off, .aand w qs sa sb off,
      .aor w qs sa sb off, .axor w qs sa sb off, .axchg w qs sa sb off, .acas w qs sa sb sc off]
    (let b := 2 ^ sz.toNat
     let a := t.place p off.toInt b
     (s.MayAccess p off.toInt b false → room → exec (.lds sx sz qs sa off) s =
       .next (s.withMe (((t.dqAlloc qs t.dseq).accessing 6 (.load a.1 a.2 b sx qs)).moved .d))) ∧
     (s.MayAccess p off.toInt b true → ∀ x xs, t.q14 = x :: xs →
       (t.queueBad 14 1 = false → exec (.sts sz sa off) s =
         .next (s.withMe (({ t.queueMoved 14 1 with q14 := xs }.accessing 2 (.store a.1 a.2 b x)).moved .d))) ∧
       (t.queueBad 14 1 = true → s.unfaulted → FaultsAt s (exec (.sts sz sa off) s) 0x0F))) ∧
    (let atomic : Nat → Bool → Nat → W64 → W64 → Out := fun op n b x y =>
       let a := t.place p off.toInt b
       .next (s.withMe (((t.dqAlloc qs t.dseq).accessing 6 (.atomic op n a.1 a.2 b x y qs)).moved .d))
     let b := if w then 8 else 4
     room → (s.MayAccess p off.toInt b true →
       exec (.aadd w qs sa sb off) s = atomic 0 false b (s.src sb) 0 ∧
       exec (.amin n w qs sa sb off) s = atomic 1 n b (s.src sb) 0 ∧
       exec (.amax n w qs sa sb off) s = atomic 2 n b (s.src sb) 0 ∧
       exec (.aand w qs sa sb off) s = atomic 3 false b (s.src sb) 0 ∧
       exec (.aor w qs sa sb off) s = atomic 4 false b (s.src sb) 0 ∧
       exec (.axor w qs sa sb off) s = atomic 5 false b (s.src sb) 0 ∧
       exec (.axchg w qs sa sb off) s = atomic 6 false b (s.src sb) 0 ∧
       exec (.acas w qs sa sb sc off) s = atomic 7 false b (s.src sb) (s.src sc)) ∧
      (s.MayAccess p off.toInt 4 true → exec (.afadd qs sa sb off) s = atomic 8 false 4 (s.src sb) 0)) ∧
    (¬ room → ∀ i ∈ Instr.lds sx sz qs sa off :: .afadd qs sa sb off :: atomics,
      WaitsAt s (exec i s) 1 (if qs then 13 else 12)) ∧
    (t.q14 = [] → WaitsAt s (exec (.sts sz sa off) s) 1 14) ∧
    (s.unfaulted → ∀ c,
      (room → (s.AccessFault p off.toInt (2 ^ sz.toNat) false c → FaultsAt s (exec (.lds sx sz qs sa off) s) c) ∧
        (s.AccessFault p off.toInt (if w then 8 else 4) true c → ∀ i ∈ atomics, FaultsAt s (exec i s) c) ∧
        (s.AccessFault p off.toInt 4 true c → FaultsAt s (exec (.afadd qs sa sb off) s) c)) ∧
      (t.q14 ≠ [] → s.AccessFault p off.toInt (2 ^ sz.toNat) true c → FaultsAt s (exec (.sts sz sa off) s) c)) ∧
    ∀ r (b : Nat), t.res = some r → s.OwnPointer p →
      let priv := p.toNat / 2 ^ 60 = 8
      let at' : Int := (p.toNat % 2 ^ 21 : Nat) + off.toInt
      (0 ≤ at' → at' + b ≤ (if priv then (r.privSize : Int) else 0x180000) →
        t.place p off.toInt b = ((if priv then r.privBase else 0) + at'.toNat, true)) ∧
      (at' < 0 ∨ (if priv then (r.privSize : Int) else 0x180000) < at' + b → (t.place p off.toInt b).2 = false)

/-- R172, R175, R185, R188, R189: a scalar access is performed on little-endian bytes: a load fills its queue entry, a
store changes its own bytes and no other, an atomic leaves the old word in its queue entry and writes the new one,
`stsv` stores the 32 bytes of its register, and an access out of range reads zero or writes nothing and is noted in
SPOOR. A load reads the scratchpad as D sees it: a word that no engine's write still to be acquired has changed is
seen as it stands. Of this the model chose, and the manual does not state: when an access is performed, and SPOOR at
its performance, what the D strand sees of an engine's write, and that its own store ends that (assumption log 7, 23,
101). -/
def Obligations.ScalarAccessesArePerformed : Prop :=
  ∀ (s : State) (a : DAcc), s.me.sp.wf = true → s.me.dacc.find? (fun x => x.seq == s.focus.idx) = some a →
    s.MayPerform a →
    let t : Tile := { s.me with dacc := s.me.dacc.filter fun x => x.seq != a.seq }
    let word : Mem → Nat → Nat → Nat := fun m addr n => natOfBytes (Mem.readBytes m addr n)
    let seen := (t.seen s.dcc).sp
    let unseen : Nat → Nat → List Unseen := fun addr n => t.unseen.filter fun u => !overlaps addr n (4 * u.word) 4
    let ext : Bool → Nat → Nat → W64 := fun sx n v =>
      if sx = true ∧ 2 ^ (8 * n - 1) ≤ v then BitVec.ofInt 64 ((v : Int) - 2 ^ (8 * n)) else BitVec.ofNat 64 v
    let fill : Tile → Bool → W64 → Tile := fun u q v =>
      if q then { u with q13 := u.q13.map fun x => if x.tag = a.seq then { x with val := some v } else x }
      else { u with q12 := u.q12.map fun x => if x.tag = a.seq then { x with val := some v } else x }
    let noted : Bool → Nat → Tile := fun st off => t.offend st 0 s.focus.tile off
    let written : Mem → Nat → Nat → Nat → Prop := fun m addr n v =>
      Mem.sameBut addr n t.sp m ∧ ∀ i, i < n → Mem.get m (addr + i) = BitVec.ofNat 8 (v / 256 ^ i)
    (∀ addr n sx q, 0 < n → a.kind = .load addr true n sx q →
      exec .dAccessPerform s = .next (s.withMe (fill t q (ext sx n (word seen addr n))))) ∧
    (∀ addr, (∀ u ∈ t.unseen, u.word = addr / 4 → u.till ≤ s.dcc) → Mem.get seen addr = Mem.get t.sp addr) ∧
    (∀ addr n sx q, a.kind = .load addr false n sx q →
      exec .dAccessPerform s = .next (s.withMe (fill (noted false addr) q 0#64))) ∧
    (∀ addr n v, a.kind = .store addr true n v → ∃ m bad,
      exec .dAccessPerform s = .next (s.withMe { t with sp := m, bad := bad, unseen := unseen addr n }) ∧
        written m addr n v.toNat ∧ bad = t.bad.filter fun w => !coversWord addr n w) ∧
    (∀ addr v, a.kind = .imageStore addr true v → ∃ m bad,
      exec .dAccessPerform s = .next (s.withMe { t with sp := m, bad := bad, unseen := unseen addr 32 }) ∧
        written m addr 32 v.toNat ∧ bad = t.bad.filter fun w => !coversWord addr 32 w) ∧
    (∀ addr v, a.kind = .imageStore addr false v →
      exec .dAccessPerform s = .next (s.withMe (noted true addr))) ∧
    (∀ addr n v, a.kind = .store addr false n v →
      exec .dAccessPerform s = .next (s.withMe (noted true addr))) ∧
    (∀ op u addr n b c q, a.kind = .atomic op u addr true n b c q → op < 9 → n = 4 ∨ n = 8 → (op = 8 → n = 4) →
      let old := word t.sp addr n
      let m := 2 ^ (8 * n)
      let x := b.toNat % m
      let sg : Nat → Int := fun v => if u = false ∧ 2 ^ (8 * n - 1) ≤ v then (v : Int) - m else v
      let sum := fadd 0 0#32 (BitVec.ofNat 32 old) (BitVec.ofNat 32 x)
      let new := match op with
        | 0 => (old + x) % m
        | 1 => if sg x < sg old then x else old
        | 2 => if sg old < sg x then x else old
        | 3 => old &&& x
        | 4 => old ||| x
        | 5 => old ^^^ x
        | 6 => x
        | 7 => if old = x then c.toNat % m else old
        | _ => sum.1.toNat
      ∃ t', exec .dAccessPerform s = .next (s.withMe t') ∧ written t'.sp addr n new ∧
        fill ({ t with sp := t'.sp, unseen := unseen addr n }.raise (if op = 8 then sum.2 else f0)) q
          (BitVec.ofNat 64 old) = t') ∧
    (∀ op u addr n b c q, a.kind = .atomic op u addr false n b c q →
      exec .dAccessPerform s = .next (s.withMe (fill (noted true addr) q 0#64)))

/-- R184 to R186: a stream register's fields are set while its stream is idle, each group its own bits of the register
with the cursor cleared by the counts, and it is loaded and stored as a 32-byte image; on a stream that is not idle
they wait, whatever their operands, and `sstop` cancels the rows not yet moved. An image load is performed as a whole;
a cursor index beyond its count faults with ILLEGAL: of `stset` at its issue, of an image when its load is performed,
naming the `stld`. Of this the model chose, and the manual does not state: the clk in which stset takes effect, the
earliest clk of stld and stsv, that a wait comes before a fault (assumption log 22, 26, 119). -/
def Obligations.StreamRegisterInstructions : Prop :=
  ∀ (s : State) (st fld : BitVec 4) (sa : BitVec 6),
    let t := s.me
    let n := st.toNat
    let beyond : BitVec 256 → Prop := fun r => ∃ k, k < 4 ∧ stCnt r k < stCur r k
    (Alone s .d →
      let p := s.src sa
      let a := t.place p 0 32
      let r := stSet (t.stReg n) fld.toNat p
      exec (.sstop st) s = .next (s.withMe ((t.setReqs n []).moved .d)) ∧
      (fld.toNat < 6 → let at' := [(192, 255), (168, 191), (0, 23), (64, 103), (104, 167), (24, 63)].getD fld.toNat (0, 0)
        ∀ i, i < 256 → r.getLsbD i = if at'.1 ≤ i ∧ i ≤ at'.2 then p.getLsbD (i - at'.1)
          else (if fld = 3#4 ∧ 24 ≤ i ∧ i ≤ 63 then false else (t.stReg n).getLsbD i)) ∧
      (t.streamIdle n = true →
        (fld.toNat < 6 → (fld = 5#4 → ¬ beyond r) →
          exec (.stset st fld sa) s = .next (s.withMe ((t.setSt n r).moved .d))) ∧
        (s.MayAccess p 0 32 false →
          exec (.stld st sa) s = .next (s.withMe ((t.accessing 2 (.imageLoad n a.1 a.2)).moved .d))) ∧
        (s.MayAccess p 0 32 true →
          exec (.stsv st sa) s = .next (s.withMe ((t.accessing 2 (.imageStore a.1 a.2 (t.stReg n))).moved .d)))) ∧
      (t.streamIdle n = false →
        WaitsAt s (exec (.stset st fld sa) s) 6 0 ∧ WaitsAt s (exec (.stld st sa) s) 6 0 ∧
        WaitsAt s (exec (.stsv st sa) s) 6 0) ∧
      (s.unfaulted → t.streamIdle n = true →
        (fld = 5#4 → beyond r → FaultsAt s (exec (.stset st fld sa) s) 0x01) ∧
        ∀ c, (s.AccessFault p 0 32 false c → FaultsAt s (exec (.stld st sa) s) c) ∧
          (s.AccessFault p 0 32 true c → FaultsAt s (exec (.stsv st sa) s) c))) ∧
    (∀ a addr ok, t.dacc.find? (fun x => match x.kind with
          | .imageLoad k _ _ => k == s.focus.idx
          | _ => false) = some a → a.kind = .imageLoad s.focus.idx addr ok → s.MayPerform a →
      let t' : Tile := { t with dacc := t.dacc.filter fun x => x.seq != a.seq }
      let v : BitVec 256 := if ok then BitVec.ofNat 256 (natOfBytes (Mem.readBytes (t.seen s.dcc).sp addr 32)) else 0#256
      (¬ beyond v → t.reqs' s.focus.idx = [] → exec .stldPerform s = .next (s.withMe
        ((if ok then t' else t'.offend false 0 s.focus.tile addr).setSt s.focus.idx v))) ∧
      (beyond v → (∀ r, SMap.find t.stops 2 = some r → r.own = false) → ∃ u r, exec .stldPerform s = .next u ∧
        SMap.find u.me.stops 2 = some r ∧ r.own = true ∧ r.cause = 0x01 ∧ r.pc = a.pc ∧ u.me.sd.faulted = true ∧
        u.me.st = t.st ∧ (u.part t.partition).halts.toNat.testBit 63 = true))

/-- R177 to R183: `srd` and `swr` ask for rows; a row of a read stream enters its queue widened, lane by lane, and the
row of a write stream leaves its queue into the elements at the cursor and into no other byte; each row moves the
cursor on. A request whose rows do not fit the stream's count of 2^24 - 1 beside those it holds waits, and one that
never could is ILLEGAL; a register that breaks a rule of R183 faults at an `srd` or `swr` that need not wait, with its
BASE's pointer fault or with ILLEGAL; while a `stld` of the stream is still to be performed, the request is taken and
its check waits for the image. Of this the model chose, and the manual does not state: when a row is moved, and its
BASE, when a drained row frees its entry, an element out of range under a NaN scale and the offset that SPOOR takes,
accesses behind rows, the sum of a row count, and that a wait comes before a fault (assumption log 7, 22, 24, 118,
120, 124, 125). -/
def Obligations.StreamRowsMove : Prop :=
  ∀ (s : State) (st : BitVec 4) (sa : BitVec 6) (imm : BitVec 16),
    (Alone s .d →
      let n := st.toNat
      let rows := (s.src sa).toNat + imm.toNat
      let r := s.me.stReg n
      let f := stFmt r
      let scaled := f = 7 ∨ f = 8
      let read : Out := .next (s.withMe ((s.me.ask n rows 8).moved .d))
      let write : Out := .next (s.withMe ((s.me.ask n rows 0).moved .d))
      let common := f ≤ 19 ∧ stRm r ≠ 5 ∧ stRm r ≠ 6 ∧ (stX r = true → isB8 f = true)
      (s.me.reqCount n + rows < 2 ^ 24 →
        (s.OwnPointer (stBase r) → (stBase r).toNat % 16 = 0 → common →
          (stSat r = false → (scaled → stBlk r = 32 ∨ stBlk r = 64) → exec (.srd st sa imm) s = read) ∧
          (¬ scaled → exec (.swr st sa imm) s = write)) ∧
        (s.me.stldPending n = true → exec (.srd st sa imm) s = read ∧ exec (.swr st sa imm) s = write)) ∧
      (rows < 2 ^ 24 → 2 ^ 24 ≤ s.me.reqCount n + rows →
        WaitsAt s (exec (.srd st sa imm) s) 6 0 ∧ WaitsAt s (exec (.swr st sa imm) s) 6 0) ∧
      (s.unfaulted → 2 ^ 24 ≤ rows ∨ s.me.reqCount n + rows < 2 ^ 24 → s.me.stldPending n = false →
        (∀ c, s.PointerFault (stBase r) 0 16 c →
          FaultsAt s (exec (.srd st sa imm) s) c ∧ FaultsAt s (exec (.swr st sa imm) s) c) ∧
        (s.OwnPointer (stBase r) → (stBase r).toNat % 16 = 0 →
          (¬ common ∨ stSat r = true ∨ (scaled ∧ stBlk r ≠ 32 ∧ stBlk r ≠ 64) →
            FaultsAt s (exec (.srd st sa imm) s) 0x01) ∧
          (¬ common ∨ scaled → FaultsAt s (exec (.swr st sa imm) s) 0x01))) ∧
      (s.unfaulted → 2 ^ 24 ≤ rows → s.me.stldPending n = true ∨ (s.OwnPointer (stBase r) ∧ (stBase r).toNat % 16 = 0) →
        FaultsAt s (exec (.srd st sa imm) s) 0x01 ∧ FaultsAt s (exec (.swr st sa imm) s) 0x01)) ∧
    (let n := s.focus.idx
     let t := s.me
     let r := t.stReg n
     ∀ q, t.nextRow n = some q → s.OwnPointer (stBase r) → (stBase r).toNat % 16 = 0 →
      (n < 8 → (t.vqRows n).length < 16 → (readRow (t.seen s.dcc) r).perm = false →
        (readRow (t.seen s.dcc) r).ecc = false →
        let row := readRow (t.seen s.dcc) r
        let noted := match row.bad with
          | some off => t.offend false 0 s.focus.tile (off % 2 ^ 21).toNat
          | none => t
        exec .streamRowRead s =
          .next (s.withMe (((noted.setVq n (t.vqRows n ++ [⟨0, some row.vals, 0⟩])).raise row.fl).rowDone n))) ∧
      (8 ≤ n → ∀ x xs lanes, t.vqRows n = x :: xs → x.row = some lanes → 2 ≤ x.age →
        writeRowPerm t r = false → writeRowBad t r = false → t.queueBad n 1 = false → t.sp.wf = true → blockFmt (stFmt r) = false →
        ∃ t', exec .streamRowWrite s = .next (s.withMe t') ∧ t'.vqRows n = xs ∧ t'.st = SMap.set 0#256 t.st n (stAdvance r) ∧
          (let w := fmtWidth (stFmt r)
           let d : Nat → Nat × Bool := fun e => t.place (stBase r) (elemOff r w e) (elemBytes w)
           (∀ e, e < stBlk r → e < lanes.length → (d e).2 = true →
             Mem.readN t'.sp (d e).1 (elemBytes w) =
               (storeCode (stFmt r) (stX r) (stSat r) (rowMode r q) q.seed (lanes.getD e 0#32)).1 % 2 ^ w) ∧
           ∀ x, (∀ e, e < stBlk r → (d e).2 = true → x < (d e).1 ∨ (d e).1 + elemBytes w ≤ x) →
             Mem.get t'.sp x = Mem.get t.sp x)))

/-- R190 to R193, R198 to R203: ring descriptors are written and read, a push is counted at its performance; marks and
fences start a new epoch of accesses, fences once the accesses they wait for are done; `spt` describes a pointer and
`spc` moves one between windows. What must wait blocks, whatever its operands; a ring field out of its range faults
with ILLEGAL, and a pointer that cannot be cast with WINDOW. Of this the model chose, and the manual does not state:
the clk in which rgset takes effect, and when a push is performed, FREE below 0 and a slot beyond 2^21, that a wait
comes before a fault (assumption log 7, 22, 26, 121, 122). -/
def Obligations.RingOrderAndPointerInstructions : Prop :=
  ∀ (s : State) (rg scope : BitVec 3) (fld : BitVec 5) (sa sb : BitVec 6) (sc qs cs : Bool),
    let t := s.me
    let n := rg.toNat
    (Alone s .d →
      let p := (s.src sa).toNat
      let win := p / 2 ^ 60
      let push : W64 → Out := fun v => .next (s.withMe
        (({ t.dqAlloc qs t.dseq with dseq := t.dseq + 1 }.flying 2 (.dq qs t.dseq v) f0 2).moved .d))
      let epoch : Out := .next (s.withMe ({ t with depoch := t.depoch + 1 }.moved .d))
      (fld.toNat < 8 → ringSetOk (t.ring n) fld.toNat (ringValue fld.toNat (s.src sa)) = true →
        exec (.rgset rg fld sa) s =
          .next (s.withMe ((t.setRing n ((t.ring n).put fld.toNat (ringValue fld.toNat (s.src sa)))).moved .d))) ∧
      (0 < t.ringFree n →
        exec (.rpush rg) s = .next (s.withMe ((t.accessing 2 (.ringPush n)).moved .d))) ∧
      exec .mark s = epoch ∧
      (t.dIdle = true → exec (.fence scope sc) s = epoch) ∧
      (t.storesDone = true →
        exec (.xfence scope) s = .next (s.withMe (({ t with depoch := t.depoch + 1 } : Tile).acquire.moved .d))) ∧
      (0 < t.ringFree n ∨ WaitsAt s (exec (.rpush rg) s) 6 0) ∧
      (t.dIdle = true ∨ WaitsAt s (exec (.fence scope sc) s) 6 0) ∧
      (t.storesDone = true ∨ WaitsAt s (exec (.xfence scope) s) 6 0) ∧
      (s.unfaulted →
        (fld.toNat < 8 → ringSetOk (t.ring n) fld.toNat (ringValue fld.toNat (s.src sa)) = false →
          FaultsAt s (exec (.rgset rg fld sa) s) 0x01) ∧
        (castOk s.focus.tile cs (s.src sa) = false → 0 < t.dqFree qs → FaultsAt s (exec (.spc cs qs sa sb) s) 0x12)) ∧
      (t.dqFree qs = 0 → ∀ i ∈ [Instr.rgrd qs rg fld, .spt qs sa, .spc cs qs sa sb],
        WaitsAt s (exec i s) 1 (if qs then 13 else 12)) ∧
      (0 < t.dqFree qs →
        (fld.toNat < 11 → exec (.rgrd qs rg fld) s = push (t.ringRead s.focus.tile n fld.toNat)) ∧
        exec (.spt qs sa) s = push (BitVec.ofNat 64 (win +
          (if win = 8 ∨ (win = 9 ∧ p / 2 ^ 48 % 2 ^ 9 = s.focus.tile) ∨
              (win = 10 ∧ p / 2 ^ 48 % 2 ^ 6 = s.focus.tile % 64) then 16 else 0) +
          (if win = 0 ∨ win = 8 ∨ win = 9 ∨ win = 10 then 32 else 0))) ∧
        (castOk s.focus.tile cs (s.src sa) = true →
          let idx := p / 2 ^ 48 % 2 ^ 6
          let off := (p + (s.src sb).toNat) % 2 ^ 21
          exec (.spc cs qs sa sb) s = push (BitVec.ofNat 64 (if cs = true then 10 * 2 ^ 60 + idx * 2 ^ 48 + off
            else 9 * 2 ^ 60 + (if win = 9 then p / 2 ^ 48 % 2 ^ 9 else s.focus.tile / 64 * 64 + idx) * 2 ^ 48 + off))))) ∧
    (∀ a k, t.dacc.find? (fun x => x.seq == s.focus.idx) = some a → a.kind = .ringPush k → s.MayPerform a →
      let r := t.ring k
      exec .dAccessPerform s = .next (s.withMe
        ({ t with dacc := t.dacc.filter fun x => x.seq != a.seq }.setRing k { r with
          tags := SMap.set 0#16 r.tags r.tail r.ptag, tail := (r.tail + 1) % r.count, ptag := r.ptag + 1,
          level := r.level + 1 })))

/-- R207, R210 to R214: postings enter an engine's queue while it holds fewer than 16, `tadv` with a tail that differs
from TAIL moving TAIL; `cseq` pushes the engine's status word, and the two waits issue once their count is reached:
`cwait` observes the CSN, `fwait` acquires. What must wait blocks, whatever its pointer; a record pointer that breaks
a rule faults where it need not wait. R215, R310: the three requests that leave the tile are placed in order, while
fewer than 8 are outstanding, with the pointers and operands that each requires. Of this the model chose, and the
manual does not state: tadv of the present TAIL, fsend of length 0, and the operands of topk, that a wait comes before
a fault (assumption log 22, 31, 35, 43). -/
def Obligations.EngineInstructionsPostAndAsk : Prop :=
  (∀ (s : State) (eng : BitVec 2) (sa sb : BitVec 6) (fid : BitVec 20) (fc : BitVec 5) (o : Bool), Alone s .e →
    let t := s.me
    let n := eng.toNat
    let e : Engine := t.eng n
    let p := s.src sa
    let posted : Posting → Posted := fun w => ⟨w, t.modeRm.toNat, t.srseed, 2⟩
    (e.pq.length < 16 → s.OwnLine p →
      exec (.post eng sa) s =
        .next (s.withMe ((t.onEng n fun e => { e with pq := e.pq ++ [posted (.single p)] }).moved .e)) ∧
      (e.tail ≠ p → exec (.tadv eng sa) s =
        .next (s.withMe ((t.onEng n fun e => { e with pq := e.pq ++ [posted (.chain p)], tail := p }).moved .e))) ∧
      (e.tail = p → exec (.tadv eng sa) s = .next (s.withMe (t.moved .e)))) ∧
    (t.fi.pq.length < 16 → exec (.fsend o fid sa sb fc) s =
      .next (s.withMe ({ t with fi := { t.fi with
        pq := t.fi.pq ++ [posted (.fsend fid.toNat (s.src sa) (s.src sb) fc.toNat o)] } }.moved .e))) ∧
    (t.q15.length < 8 → exec (.cseq eng) s =
      .next (s.withMe ((({ t with q15 := t.q15 ++ [⟨t.dseq, none⟩], dseq := t.dseq + 1 } : Tile).flying 2
        (.q15 t.dseq (BitVec.ofNat 64 (n * 2 ^ 62 + (if n = 0 then t.empty.toNat else 0) * 2 ^ 40 +
          (e.pq.countP fun x : Posted => x.delay == 0) * 2 ^ 32 + e.csn.toNat))) f0 3).moved .e))) ∧
    ((e.csn - (s.src sa).setWidth 32).toNat < 2 ^ 31 →
      exec (.cwait eng sa) s = .next (s.withMe ((t.observe n e.csn).moved .e))) ∧
    ((t.fcReg fc.toNat - (s.src sa).setWidth 32).toNat < 2 ^ 31 →
      exec (.fwait fc sa) s = .next (s.withMe (t.acquire.moved .e))) ∧
    (16 ≤ e.pq.length →
      WaitsAt s (exec (.post eng sa) s) 6 0 ∧ WaitsAt s (exec (.tadv eng sa) s) 6 0) ∧
    (16 ≤ t.fi.pq.length → WaitsAt s (exec (.fsend o fid sa sb fc) s) 6 0) ∧
    (8 ≤ t.q15.length → WaitsAt s (exec (.cseq eng) s) 1 15) ∧
    (2 ^ 31 ≤ (e.csn - (s.src sa).setWidth 32).toNat → WaitsAt s (exec (.cwait eng sa) s) 4 n) ∧
    (2 ^ 31 ≤ (t.fcReg fc.toNat - (s.src sa).setWidth 32).toNat → WaitsAt s (exec (.fwait fc sa) s) 3 fc.toNat) ∧
    (s.unfaulted → e.pq.length < 16 → ∀ c, s.PointerFault p 0 64 c →
      FaultsAt s (exec (.post eng sa) s) c ∧ FaultsAt s (exec (.tadv eng sa) s) c)) ∧
  ∀ (s : State) (sa sb sc : BitVec 6) (fc : BitVec 5), Alone s .e → s.me.reqs.length < 8 →
    let t := s.me
    let a := s.src sa
    let b := s.src sb
    let c := s.src sc
    let out : TileReq → Out := fun q =>
      .next (({ s with reqNum := s.reqNum + 1 } : State).withMe ({ t with reqs := t.reqs ++ [q] }.moved .e))
    (s.OwnLine a → GlobalPointer b 64 → s.OwnLine c →
      exec (.aqry sa sb sc fc) s = out ⟨0, a, b, c, fc.toNat, 0, t.se.pc, 2, s.reqNum, none⟩) ∧
    (∀ k : BitVec 3, GlobalPointer a 64 → s.OwnLine c →
      (let n := b.toNat
       1 ≤ n % 2 ^ 32 ∧ n % 2 ^ 32 ≤ 65536 ∧ 2 ≤ n / 2 ^ 32 % 2 ^ 16 ∧ n / 2 ^ 32 % 2 ^ 16 ≤ 4096 ∧ n / 2 ^ 48 < 2 ∧
         k.toNat + 1 ≤ n / 2 ^ 32 % 2 ^ 16) →
      exec (.topk k sa sb sc fc) s = out ⟨1, a, b, c, fc.toNat, k.toNat + 1, t.se.pc, 2, s.reqNum, none⟩) ∧
    (t.modeDet = false → GlobalPointer a 64 →
      exec (.kvtrunc sa sb fc) s = out ⟨2, a, b, 0, fc.toNat, 0, t.se.pc, 2, s.reqNum, none⟩)

/-- R215, R302 to R311, R362 to R365: the first request of the tile is performed: what it read decides its result,
which lands in the scratchpad before the counter increments; a query waits for the answers of other packages that hold
pages of it; a truncation's releases enter the partition's free ring, behind the requests accepted before it, before
its counter increments, or are dropped and counted where the ring has no room; a tile that has frozen or been
cancelled counts none. Of this the model chose, and the manual does not state: other packages, the empty row, and that
a request is performed in one step, which requests a release waits for, and which page of several is reported
(assumption log 36, 37, 42, 106, 135, 145). -/
def Obligations.RequestsArePerformed : Prop :=
  (∀ (s : State) (q : TileReq) (nf : Bool), reqComplete s q nf = s.withMe
    (let t := { s.me with reqs := s.me.reqs.drop 1 }.setFc q.fc (s.me.fcReg q.fc + 1)
     t.raise (if nf then fNF else f0))) ∧
  (∀ (s s1 : State) (r : TileReq) (x : AqryData), s.headReq 0 = some r → aqryGather s r = (.ok x, s1) →
    let parts := x.pages.map (pagePartials s1 r x)
    ((∃ p ∈ parts, p = none) → exec .aqryPerform s = .next (sendQueries s1 r x)) ∧
    (∀ (lists : List (List Triple)) (s2 : State), parts = lists.map (fun l => some (.ok l)) →
      let ts := tab x.q.nq fun i => rowTriple x.h.d (lists.map fun l => l.getD i (Triple.empty x.h.d))
      let empty := tab x.q.nq fun i => rowEmpty x.q x.endT i x.pages
      let nf := ts.any (·.2)
      let head := resultHeader x.pages.length (x.pages.filter fun p => p.loc == .absent).length nf empty
      let rows := (List.zip empty ts).flatMap fun y => resultRow x.q y.1 y.2.1
      let s1' := s1.dropQueries r.num
      State.ewrites (unitWrites r.c 0 (head ++ rows)) { s1' with focus := { s1'.focus with eng := 4 } } = .ok s2 →
      exec .aqryPerform s = .next (reqComplete s2 r nf)) ∧
    (∀ (pre : List (List Triple)) (c : Nat) (rest : List (Option (Except Nat (List Triple)))),
      parts = pre.map (fun l => some (.ok l)) ++ some (.error c) :: rest → (∀ p ∈ parts, p ≠ none) →
      ∀ p, x.pages[pre.length]? = some p → exec .aqryPerform s =
        .next (reqFault (s1.dropQueries r.num) r c (BitVec.ofNat 64 (r.b.toNat + 64 + 8 * p.idx)) p.idx))) ∧
  (∀ (s s1 s2 : State) (q : TileReq) (o : TopkOps) (rows : List (List W32)),
    s.headReq 1 = some q → topkOps q.b = some o → logitRows o q.a.toNat s = (.ok rows, s1) →
    let out := rows.map (tokenResult q.k)
    State.ewrites (unitWrites q.c 0 (out.flatMap (·.1))) { s1 with focus := { s1.focus with eng := 4 } } = .ok s2 →
    exec .topkPerform s = .next (reqComplete s2 q (out.any (·.2)))) ∧
  (∀ (s s1 : State) (r : TileReq) (hw : Nat) (h : KvHeader), s.headReq 2 = some r →
    reqRead s r.a.toNat 64 0 = (.ok hw, s1) → kvHeader hw = some h →
    (h.len ≤ r.b.toNat → exec .kvtruncPerform s = .next (reqComplete s1 r false)) ∧
    (r.b.toNat < h.len →
      let n := r.b.toNat
      let first := (n + 63) / 64
      let cut := (List.range ((h.len + 63) / 64 - first)).map (first + ·)
      let p := s.myPart
      ∀ l s2 s3 t a, truncEntries r.a.toNat first (cut ++ if n % 64 ≠ 0 then [n / 64] else []) s1 = (.ok l, s2) →
        reqPlace s2 r.a.toNat 64 true true 0 = (.ok (t, a), s3) → s3.myPart = p →
        (∀ y ∈ (s3.part p).releases, y.owner ≠ some r.num) →
        (∀ x ∈ s3.parts, ∀ y ∈ x.2.releases, y.num < s3.reqNum) →
        (∀ x ∈ s3.tiles, ∀ q rest, x.2.reqs = q :: rest → q.num = r.num → q.rel = none) →
        let own := l.filter fun x => first ≤ x.1 ∧ feTier x.2.2.2 ≠ 0 ∧ feShared x.2.2.2 = false ∧ fePkg x.2.2.2 = s3.pkg
        ∃ u, exec .kvtruncPerform s = .next (if own = [] then reqComplete u r false
            else u.onMe fun t => { t with reqs := match t.reqs with
              | q :: rest => { q with rel := some own.length } :: rest
              | [] => [] }) ∧
          u.tiles = s3.tiles ∧ (MemOk s3 → u.pread t a 8 = h.cap * 2 ^ 32 + n) ∧
          u.reqNum = s3.reqNum + own.length ∧
          (u.part p).releases = (s3.part p).releases ++ (List.zip (List.range own.length) own).map fun x =>
            ⟨s3.reqNum + x.1, BitVec.ofNat 64 (feGbn x.2.2.2.2), some r.num, s3.reqsOpen s3.reqNum⟩)) ∧
  (∀ (s : State) (n k : Nat), k ∈ s.reqsOpen n ↔ ∃ x ∈ s.tiles, x.2.frozen = false ∧ x.2.cancelled = false ∧
    (∃ q rest, x.2.reqs = q :: rest ∧
      (q.rel = none ∨ ∃ z ∈ s.parts, ∃ y ∈ z.2.releases, y.owner = some q.num ∧ y.num < n)) ∧
    ∃ q ∈ x.2.reqs, q.delay = 0 ∧ q.num = k) ∧
  (∀ (s : State) (y : KvRelease) (rest : List KvRelease),
    let p := s.focus.part
    let x := s.part p
    let free := x.kvfree.toNat
    let w := x.kvfptr.toNat
    let head := w / 2 ^ 24 % 2 ^ 24
    let tail := w % 2 ^ 24
    let size := 2 ^ (free / 2 ^ 57 % 2 ^ 6)
    x.releases = y :: rest →
    ((∃ k ∈ y.after, k ∈ s.reqsOpen y.num) → exec .kvReleaseAppend s = .next s) ∧
    ((∀ k ∈ y.after, k ∉ s.reqsOpen y.num) →
    (free.testBit 63 = true → (tail + 2 ^ 24 - head) % 2 ^ 24 ≠ size → exec .kvReleaseAppend s = .next
      ((((s.setPart p { x with releases := rest }).pwrite 0 (free / 2 ^ 12 % 2 ^ 40 * 4096 + 4 * (tail % size)) 4
        y.gbn.toNat).onPart p fun x =>
        { x with kvfptr := BitVec.ofNat 64 (w / 2 ^ 48 * 2 ^ 48 + head * 2 ^ 24 + (tail + 1) % 2 ^ 24) }).releaseDone
          y.owner)) ∧
    (free.testBit 63 = false ∨ (tail + 2 ^ 24 - head) % 2 ^ 24 = size → exec .kvReleaseAppend s = .next
      ((((s.setPart p { x with releases := rest }).onPart p fun x =>
        { x with kvfptr := BitVec.ofNat 64 (min 0xFFFF (w / 2 ^ 48 + 1) * 2 ^ 48 + head * 2 ^ 24 + tail) }).partEvent 0
        (packageEvent p 6 0 y.gbn)).releaseDone y.owner)))) ∧
  (∀ s : State, s.releaseDone none = s) ∧
  ∀ (s : State) (num tid k : Nat) (t : Tile) (q : TileReq) (rest : List TileReq),
    s.tiles.find? (fun x => x.2.reqsStand && x.2.reqs.any fun q => q.num == num && q.rel.isSome) = some (tid, t) → t.reqs = q :: rest →
    q.rel = some k → s.releaseDone (some num) = s.onTile tid fun t =>
      if k ≤ 1 then t.reqDone.setFc q.fc (t.fcReg q.fc + 1)
      else { t with reqs := { q with rel := some (k - 1) } :: rest }

/-- R363, R364: topk takes the K greatest logits, ties to the lower expert and NaN last, in order, and the weights of
logits that are all −inf are zero. Of this the model chose, and the manual does not state: the weights of logits that
are all minus infinity (assumption log 44). -/
def Obligations.TopkSelectsTheGreatestLogits : Prop :=
  (∀ (k : Nat) (row : List W32), k ≤ row.length →
    let sel := selectTop k row
    sel.length = k ∧ sel.Pairwise (fun a b => logitBefore a b = true) ∧
    (∀ x ∈ sel, row[x.2]? = some x.1) ∧
    ∀ i v, row[i]? = some v → (v, i) ∉ sel → ∀ x ∈ sel, logitBefore x (v, i) = true) ∧
  (∀ a b : W32 × Nat, isNan32 a.1 = false → isNan32 b.1 = true → logitBefore a b = true ∧ logitBefore b a = false) ∧
  (∀ a b : W32 × Nat, isNan32 a.1 = false → isNan32 b.1 = false →
    (logitBefore a b = true ↔ f32Val b.1 < f32Val a.1 ∨ f32Val a.1 = f32Val b.1 ∧ a.2 ≤ b.2)) ∧
  ∀ xs : List W32, (∀ x ∈ xs, x = ninf32) → topWeights xs = List.replicate xs.length 0#32

/-- R95, R96, R98, R207 to R209, R216, R228: a link record moves NXT to its target uncounted, nil is counted and has
no other effect, and so is a link with a zero trip count; in the MX either waits for its stamp. A record of the QZ,
the CP or the FI that reaches the head of its queue fixes its bases, counts and rounding mode and does its first unit
in that step; one with a zero trip count retires without effect, and one that breaks a check faults. A quantisation
record under way writes the codes of one group, raises its flags, and retires with its last group. R45, R59 to R61:
what a group of a quantisation record is made of: its elements are read and its codes written in their places, packed;
the scale of a block follows its largest magnitude by FLOOR or FIT, and is 0xFF where an element is not finite; codes
are the values divided by the scale and rounded once, and a maximum is taken of the magnitudes. Of this the model
chose, and the manual does not state: the trip counts of a link record, and a stamped nil, the flags of a NaN operand,
the sign of a zero sum, and the QZ in the skid (assumption log 16, 20, 29, 32, 136, 138). -/
def Obligations.LinkNilAndQuantisationRecords : Prop :=
  ((∀ (s : State) (r : Rec) (run : Run), run.started = false → (s.focus.eng ≠ 0 → r.stamp = 0#40) → s.myEng.away = none →
    let trips := tripCounts r s.me s.focus.eng
    let counted : Out := .next (s.onEng fun e => { e with
      nxt := if run.single then e.nxt else e.nxt + 64#64, run := none, csn := e.csn + 1 })
    let target := BitVec.ofNat 64 r.od0.toNat
    let now := s.tcc s.focus.tile
    let later : Out := .next (s.onEng fun e => { e with run := some { run with
      started := true, trips := trips, stamp := r.stamp, late := false, due := now + (r.stamp - now.setWidth 40).setWidth 64 } })
    (s.AtHead (.nil r) run → (Instr.nil r).wellFormed = true →
      (r.stamp = 0#40 → exec (.nil r) s = counted) ∧
      (r.stamp ≠ 0#40 → (dueOf now r.stamp).2 = false → exec (.nil r) s = later)) ∧
    (s.AtHead (.linkRecord r) run → (Instr.linkRecord r).wellFormed = true →
      (0 ∈ trips → r.stamp = 0#40 → exec (.linkRecord r) s = counted) ∧
      (0 ∉ trips → s.OwnLine target →
        (r.stamp = 0#40 → exec (.linkRecord r) s = .next (s.onEng fun e => { e with nxt := target, run := none })) ∧
        (r.stamp ≠ 0#40 → (dueOf now r.stamp).2 = false → exec (.linkRecord r) s = later)) ∧
      (0 ∉ trips → ∀ c, s.PointerFault target 0 64 c →
        exec (.linkRecord r) s = .next (engineFaultAt s c target)))) ∧
  (∀ (s : State) (r : Rec), ∀ x ∈ [(Instr.qscl r, [(0, 16), (1, 16), (2, 1)]), (.qpak r, [(0, 16), (1, 16), (3, 1)]),
      (.qdeq r, [(0, 16), (1, 16), (3, 1)]), (.qcvt r, [(0, 16), (1, 16)]), (.qamx r, [(0, 16), (1, 4)]),
      (.copy r, [(0, 16), (1, 16)]), (.gath r, [(0, 16), (1, 16), (2, 4)]), (.scat r, [(0, 16), (1, 16), (2, 4)]),
      (.fill r, [(1, 16)]), (.fsnd r, [(0, 16)]), (.fsig r, []), (.fdrp r, [])],
    let i : Instr := x.1
    let ops : List (Nat × Nat) := x.2
    let eng := s.focus.eng
    let ptr : Nat → W64 := fun k => s.me.btReg (descBt ([r.od0, r.od1, r.od2, r.od3].getD k 0))
    let off : Nat → Nat := fun k => descOff ([r.od0, r.od1, r.od2, r.od3].getD k 0)
    ∀ run, s.AtHead i run → run.started = false →
      (s.Starts i r ops run →
        exec i s = exec i (s.onEng fun e => { e with run := some (run.resolved r s.me eng) })) ∧
      (i.wellFormed = false ∨ recEngine i ≠ some eng ∨ r.stamp ≠ 0#40 →
        exec i s = .next (engineFaultAt s 0x01 run.addr)) ∧
      (i.wellFormed = true → recEngine i = some eng → r.stamp = 0#40 →
        (0 ∈ tripCounts r s.me eng → exec i s = .next s.retireRecord) ∧
        (0 ∉ tripCounts r s.me eng → ∀ pre o post c, ops = pre ++ o :: post →
          (∀ y ∈ pre, ptrFault s.focus.tile (engineReach eng) (ptr y.1) (off y.1) y.2 = none) →
          ptrFault s.focus.tile (engineReach eng) (ptr o.1) (off o.1) o.2 = some c →
          exec i s = .next (engineFaultAt s c (elemPtr (ptr o.1) (off o.1)))))) ∧
  ∀ (s s1 s2 : State) (i : Instr) (r : Rec) (run : Run) (ws : List (W64 × Int × List W8)) (fl : Flags),
    i = .qscl r ∨ i = .qpak r ∨ i = .qdeq r ∨ i = .qcvt r ∨ i = .qamx r →
    s.AtHead i run → run.started = true →
    ((∀ x ∈ qzAccesses i r run, s.regionBad x = false) → qzGroup s i r run = .ok (ws, fl, s1) →
      State.ewrites ws s1 = .ok s2 →
      exec i s = .next ((s2.onMe fun t => t.raise fl).unitDone run (points run.trips))) ∧
    (∀ pre x post, qzAccesses i r run = pre ++ x :: post → (∀ y ∈ pre, s.regionBad y = false) → s.regionBad x = true →
      exec i s = .next (engineFaultAt s 0x06 (elemPtr x.1 x.2.1)))) ∧
  (let val : Machine.Num → ℚ := fun x => match x with
      | .fin n m e _ => (if n = true then -(m : ℚ) else m) * 2 ^ e
      | _ => 0
   let finite : Machine.Num → Prop := fun x => ∃ n m e, x = .fin n m e false
   (∀ (fit : Bool) (fmt : Nat) (l : List Machine.Num), fmt = 7 ∨ fmt = 8 →
     let top : ℚ := if fmt = 7 then 7 else 6
     ((∃ x ∈ l, x.isFinite = false) → blockScale fit fmt l = 0xFF) ∧
     ((∀ x ∈ l, finite x) →
       ((∀ x ∈ l, val x = 0) → blockScale fit fmt l = 0) ∧
       ∀ e : ℤ,
         (if fit = true then (∀ x ∈ l, |val x| ≤ top * 2 ^ e) ∧ ∃ x ∈ l, top * 2 ^ (e - 1) < |val x|
           else (∀ x ∈ l, |val x| < 2 ^ (e + 3)) ∧ ∃ x ∈ l, 2 ^ (e + 2) ≤ |val x|) →
         (blockScale fit fmt l : ℤ) = max (-127) (min 127 e) + 127)) ∧
   (∀ (fmt mode sc : Nat) (seed : W32) (v : Machine.Num), fmt = 7 ∨ fmt = 8 →
     convBlock fmt mode seed 0xFF v = (0, fIV) ∧
     (sc ≠ 0xFF → ∃ q, (finite v → finite q ∧ val q = val v * 2 ^ (127 - (sc : ℤ))) ∧ (v.isFinite = false → q = v) ∧
       convBlock fmt mode seed sc v = if fmt = 7 then convI4 mode seed q else convFF ffF4 mode true seed q)) ∧
   ∀ (v : Machine.Num) (seed : W32) (k : ℤ), finite v → |val v - k| < 1 / 2 ∨ (|val v - k| = 1 / 2 ∧ k % 2 = 0) →
     ((convI4 0 seed v).1 : ℤ) = (max (-8) (min 7 k)) % 16) ∧
  (∀ (w : Nat) (cs : List Nat),
    (w = 4 → cs.length % 2 = 0 → ∀ k, 2 * k + 1 < cs.length →
      ((packCodes w cs).getD k 0).toNat = cs.getD (2 * k) 0 % 16 + 16 * (cs.getD (2 * k + 1) 0 % 16)) ∧
    (w = 8 ∨ w = 16 ∨ w = 32 → ∀ k, k < cs.length →
      natOfBytes (((packCodes w cs).drop (k * (w / 8))).take (w / 8)) = cs.getD k 0 % 2 ^ w)) ∧
  (∀ (s : State) (p : W64) (d : Int) (g fmt : Nat),
    let w := fmtWidth fmt
    (w = 4 → g % 2 = 0 → ∀ v s', s.eread p d (g / 2) = .ok (v, s') → ∃ l, readGroup s p d g fmt = .ok (l, s') ∧
      l.length = g ∧ ∀ e, e < g → l.getD e 0 = v / 16 ^ e % 16) ∧
    (w ≠ 4 → readGroup s p d g fmt = State.ereads p (w / 8) ((List.range g).map fun e => d + (e * (w / 8) : Nat)) s)) ∧
  ∀ (s s1 : State) (r : Rec) (run : Run) (l : List Nat),
    let src := r.fmt0.toNat
    let dst := r.fmt1.toNat
    let w := fmtWidth dst
    let n := run.prog
    let d0 := descDisp r.od0 run.trips n
    let d1 := descDisp r.od1 run.trips n
    let fl : List (Nat × Flags) → Flags := fun cs => cs.foldl (fun a x => a ||| x.2) f0
    let put : List (Nat × Flags) → List (W64 × Int × List W8) := fun cs =>
      if w = 4 then [(run.base 1, d1, packCodes 4 (cs.map (·.1)))]
      else (List.zip (List.range cs.length) cs).map fun x => (run.base 1, d1 + (x.1 * (w / 8) : Nat), bytesOf (w / 8) x.2.1)
    (readGroup s (run.base 0) d0 32 src = .ok (l, s1) →
      (let vs := l.map (widenVal src false 127)
       let sc := blockScale r.opx dst vs
       let cs := vs.map (convBlock dst run.rm run.seed sc)
       qzGroup s (.qscl r) r run = .ok (put cs ++ [(run.base 2, ((descOff r.od2 + n : Nat) : Int), bytesOf 1 sc)], fl cs, s1)) ∧
      ∀ sc s2, s1.eread (run.base 3) (descOff r.od3 + n : Nat) 1 = .ok (sc, s2) →
        (let cs := l.map fun c => convBlock dst run.rm run.seed sc (widenVal src false 127 c)
         qzGroup s (.qpak r) r run = .ok (put cs, fl cs, s2)) ∧
        (let cs := l.map fun c =>
            let v := widenLane src false sc c
            let o := conv dst run.rm false false run.seed (ofF32 v.1)
            (o.1, v.2 ||| o.2)
         qzGroup s (.qdeq r) r run = .ok (put cs, fl cs, s2))) ∧
    (readGroup s (run.base 0) d0 64 src = .ok (l, s1) →
      (let cs := l.map fun c => conv dst run.rm r.x r.sat run.seed (widenVal src r.x 127 c)
       qzGroup s (.qcvt r) r run = .ok (put cs, fl cs, s1)) ∧
      qzGroup s (.qamx r) r run = .ok ([(run.base 1, ((descOff r.od1 + 4 * n : Nat) : Int), bytesOf 4
        (l.foldl (fun a c => fmax a ((widenLane src false 127 c).1 &&& 0x7FFFFFFF#32)) 0#32).toNat)], f0, s1))

/-- R98, R216, R219 to R226: an MX record at the head of its queue starts once: its bases, counts, rounding mode and
stamp are fixed, and an unstamped one may begin a step from now on, a stamped one in the clk of its stamp. One with a
zero trip count retires without effect, and one that no record encodes faults. Of this the model chose, and the manual
does not state: a record with a zero trip (assumption log 29). -/
def Obligations.MatrixRecordsStart : Prop :=
  ∀ (s : State) (r : Rec) (run : Run), s.focus.eng = 0 → (dueOf (s.tcc s.focus.tile) r.stamp).2 = false →
    let n := points (tripCounts r s.me 0)
    let slot : BitVec 96 → Nat → Prop := fun d bytes => bytes ≤ 256 * (s.me.ring (d.toNat % 8)).size
    let out : Out := .next (s.onEng fun e => { e with run := some { run.resolved r s.me 0 with
      late := false
      due := if r.stamp = 0#40 then s.tcc s.focus.tile
        else s.tcc s.focus.tile + (r.stamp - (s.tcc s.focus.tile).setWidth 40).setWidth 64 } })
    (s.Starts (.mma r) r [] run → slot r.od0 (tileBytes 128 r.fmt0.toNat) → slot r.od1 (tileBytes 64 r.fmt1.toNat) →
      exec (.mma r) s = out) ∧
    (s.Starts (.mmai r) r [(3, 4)] run → slot r.od0 (tileBytes 128 r.fmt0.toNat) →
      slot r.od1 (tileBytes 64 r.fmt1.toNat) → exec (.mmai r) s = out) ∧
    (s.Starts (.smxu r) r (if r.od3 = 0#96 then [] else [(3, 16)]) run → n = 1 →
      slot r.od1 (tileBytes 128 r.fmt1.toNat) → exec (.smxu r) s = out) ∧
    (s.Starts (.smxm r) r [] run → n = 1 → exec (.smxm r) s = out) ∧
    (s.Starts (.smxf r) r [(2, 16)] run → n = 128 → exec (.smxf r) s = out) ∧
    (s.Starts (.acld r) r [(0, 16)] run → n = 128 → exec (.acld r) s = out) ∧
    (s.Starts (.acst r) r [(2, 16)] run → n = 128 → exec (.acst r) s = out) ∧
    (s.Starts (.aczr r) r [] run → n = 1 → exec (.aczr r) s = out) ∧
    ∀ i ∈ [Instr.mma r, .mmai r, .smxu r, .smxm r, .smxf r, .acld r, .acst r, .aczr r], s.AtHead i run → run.started = false →
      (i.wellFormed = false → exec i s = .next (engineFaultAt s 0x01 run.addr)) ∧
      (i.wellFormed = true → 0 ∈ tripCounts r s.me 0 → r.stamp = 0#40 → exec i s = .next s.retireRecord)

/-- R219 to R222, R227: a step of the MX reads its operands at its first clk and writes its results at its last, the
last step retiring the record; a strict stamped record that cannot begin at its due clk faults with SCHED-MISS; an
idle sibling takes a record that names no unit of the one in progress. R65, R66, R223 to R226: what a step of the MX
computes. An element of an `mma` is the exact sum of its accumulator word and the products of row and column, rounded
once, whatever the order; `smxu` takes its row's maximum, scales and adds the tree of its widened codes, and publishes
the codes; `smxm` merges two triples by fma; `smxf` writes quotients and `acst` conversions, empty rows as zeros;
`acld` and `aczr` set their rows. Of this the model chose, and the manual does not state: one ring for A and for B, a
NaN operand beside an invalid product, the sign of a zero sum, a record that its relocation hands back in a drain
(assumption log 16, 34, 123, 138). -/
def Obligations.MatrixSteps : Prop :=
  ((∀ (s0 s' : State) (i : Instr) (run : Run) (o : StepOut),
    let s : State := { s0 with focus := { s0.focus with eng := 0 } }
    let tid := s.focus.tile
    s.AtHead i run → run.peer = none → run.stamp = 0#40 → s.mxCanBegin tid i run = true →
    (∀ r, i = .mmai r → run.m.isSome = true ∨ run.prog ≠ 0) →
    (idleRun i run = true → exec .mxStepBegin s0 = .next (s.takeIdle i run.trips)) ∧
    (idleRun i run = false →
    (∀ n ∈ readRings i, SMap.get 0#16 (s.me.ring n).tags (s.me.ring n).head = (s.me.ring n).etag) →
    slotsPerm s.me i = false → slotsBad s.me i run.m = false → mxCompute s tid i run = .ok (o, s') →
    let s'' := s'.onTile tid fun t => (readSlots t i).foldl (fun t x => t.slotOffend tid false x.1 x.2) t
    exec .mxStepBegin s0 =
      .next (s''.onRun fun x => { x with
        out := some o, rem := stepLen i - 1, late := false,
        due := if x.stamp = 0#40 then x.due else s''.tcc tid + BitVec.ofNat 64 (stepLen i) }))) ∧
  (∀ (s0 s' : State) (i : Instr) (run : Run) (o : StepOut),
    let s : State := { s0 with focus := { s0.focus with eng := 0 } }
    s.myEng.run = some run → run.instr = some i → run.peer = none → run.out = some o → run.rem = 0 →
    s.latencyRuns s.focus.tile = true → tileFault s.me o = none → State.ewrites o.mem s = .ok s' →
    let s'' := s'.onMe fun t => (t.stepAcc o).applyRings s'.dcc s'.focus.tile o
    exec .mxStepEnd s0 = .next (s''.onEng fun e =>
      if run.prog + 1 = stepCount i run.trips then { e.retire with ended := true }
      else { e with ended := true, run := e.run.map fun x => { x with out := none, prog := x.prog + 1 } })) ∧
  (∀ (s0 : State) (i : Instr) (run : Run),
    let s : State := { s0 with focus := { s0.focus with eng := 0 } }
    let tid := s.focus.tile
    s.AtHead i run → run.started = true → run.stamp ≠ 0#40 → run.out = none → run.done = false → run.peer = none →
    s.me.clockRuns = true → strictRun s.me run = true →
    run.late = true ∨ (run.due = s.tcc tid ∧ s.mxCanBegin tid i run = false) ∨
      (run.due ≠ s.tcc tid ∧ (s.tcc tid - run.due).toNat < 2 ^ 63) →
    exec .schedMiss s0 =
      .next (engineFault s 0x09 (BitVec.ofNat 320 (run.stamp.toNat * 2 ^ 128 + run.due.toNat * 2 ^ 168)))) ∧
  ∀ (s : State) (i cur : Instr) (r : Rec) (head p : Run) (q : Posted) (addr : W64) (e : Engine)
      (w : Nat) (s' : State),
    let own := s.focus.idx
    let sib := s.focus.tile
    let t := s.tile own
    own ≠ sib → clusterOf own = clusterOf sib →
    (∃ x y, t.res = some x ∧ s.me.res = some y ∧ x.part = y.part ∧ x.lid = y.lid ∧ x.rl = true ∧ y.rl = true) →
    s.me.mx.run = none → s.me.mx.chain = none → s.me.mx.pq = [] → s.me.mx.away = none → s.me.mx.stopped = false →
    t.mx.away = none → head.peer = none → t.mx.stopped = false → t.clockRuns = true → s.me.clockRuns = true →
    nextRecord t.mx = some (addr, q, e) → t.mx.run = some head → head.instr = some cur →
    State.eread { s with focus := { s.focus with tile := own, eng := 0 } } addr 0 64 = .ok (w, s') →
    decodeRecord w = some i → recFields i = some r → r.rl = true → i.wellFormed = true → recEngine i = some 0 →
    shareUnits i cur = false →
    execMxRelocate.exec1 (({ s with focus := { s.focus with tile := own, eng := 0 } } : State).onMe fun t =>
      { t with mx := { t.mx with run := some (Run.fresh (some i) none addr true q.rm q.seed) } }) i r = some p →
    let view := some (accSnapshot t (namedUnits i).1)
    exec .mxRelocate s = .next ((s.setTile own { (if p.slipped then t.slipOnce else t) with mx := { e with
        away := some { p with peer := some sib, phase := 0, rem := 64, view := view } } }).setTile sib
      { s.me with mx := { s.me.mx with run := some { p with peer := some own, phase := 0, rem := 64, view := view } } })) ∧
  (let val : Machine.Num → ℚ := fun x => match x with
      | .fin n m e _ => (if n = true then -(m : ℚ) else m) * 2 ^ e
      | _ => 0
   let finite : Machine.Num → Prop := fun x => ∃ n m e, x = .fin n m e false
   (∀ y z : Machine.Num, (finite y → finite z → finite (mulNum y z).1 ∧ val (mulNum y z).1 = val y * val z) ∧
     ∀ n, z.isZero = true → mulNum (.inf n) z = (.nan, fIV) ∧ mulNum z (.inf n) = (.nan, fIV)) ∧
   ∀ (c : W32) (a b : List Machine.Num), a.length = b.length →
     let x := ofF32 c
     let ps := (List.zipWith mulNum a b).map (·.1)
     let exact := val x + (List.zipWith (fun y z => val y * val z) a b).sum
     (Machine.Num.nan ∈ x :: (a ++ b) → mmaElem c a b = (nan32, fNF)) ∧
     (Machine.Num.nan ∉ x :: (a ++ b) →
       (Machine.Num.nan ∈ ps ∨ (Machine.Num.inf false ∈ x :: ps ∧ Machine.Num.inf true ∈ x :: ps) → mmaElem c a b = (nan32, fIV ||| fNF)) ∧
       ∀ neg, Machine.Num.nan ∉ ps → Machine.Num.inf neg ∈ x :: ps → Machine.Num.inf (!neg) ∉ x :: ps →
         mmaElem c a b = (if neg = true then ninf32 else pinf32, fNF)) ∧
     ((∀ y ∈ x :: (a ++ b), finite y) →
       (exact ≠ 0 → ∃ v, finite v ∧ val v = exact ∧
         mmaElem c a b = ((rne v).1, (rne v).2 ||| if nonFinite32 (rne v).1 = true then fNF else f0)) ∧
       (exact = 0 → mmaElem c a b = (if ∀ p ∈ x :: ps, p.isNeg = true ∧ p.isZero = true then 0x80000000#32 else 0#32, f0)))) ∧
  ∀ (s s' : State) (tid : Nat) (r : Rec) (run : Run) (o : StepOut), run.view = none →
    (∀ a i, ((s.tile tid).accRow a i).length = 64) →
    let t := s.tile tid
    let no : BitVec 96 → Nat := fun d => d.toNat % 8
    let key : Nat → Nat := fun i => 128 * no r.od2 + i
    let add : W32 → W32 → W32 := fun a b => (fadd 0 0#32 a b).1
    let mul : W32 → W32 → W32 := fun a b => (fmul 0 0#32 a b).1
    let less : W32 → W32 → W32 := fun a b => (exp2Of 0 0#32 (sumNum 0 [ofF32 a, (ofF32 b).neg]).1).1
    let scale : W32 → W32 → W32 := fun a b => if a = ninf32 ∧ isNan32 b = false then 0#32 else less a b
    (∀ i ∈ [Instr.mma r, .mmai r], fmtWidth r.fmt0.toNat ≤ 16 → fmtWidth r.fmt1.toNat ≤ 16 → run.m.getD 0 ≤ 128 →
      mxCompute s tid i run = .ok (o, s') →
      s' = s ∧ o = { StepOut.none with rows := o.rows, pops := o.pops, fl := o.fl } ∧
      (∀ n, n ∈ o.pops ↔ n = no r.od0 ∨ n = no r.od1) ∧
      ∀ y, y ∈ o.rows ↔ ∃ k, k < (if i = .mma r then 128 else run.m.getD 0) ∧ y = (key k, (List.range 64).map fun j =>
        (mmaElem ((t.accRow (no r.od2) k).getD j 0#32)
          ((List.range 64).map (t.ringElem (no r.od0) 128 r.fmt0.toNat r.x k))
          ((List.range 64).map (t.ringElem (no r.od1) 64 r.fmt1.toNat r.x j))).1)) ∧
    (mxCompute s tid (.smxu r) run = .ok (o, s') → ∃ mask : List W8,
      (if r.od3 = 0#96 then mask = [] ∧ s' = s else ∃ w s1, s' = { s1 with focus := s.focus } ∧ mask = bytesOf 1024 w ∧
        State.ereadUnits { s with focus := { s.focus with tile := tid } } (run.base 3) (descOff r.od3) 64 = .ok (w, s1)) ∧
      let fmt := r.fmt1.toNat
      let score : Nat → List W32 := fun i => (List.range 64).map fun j =>
        if (mask.getD (8 * i + j / 8) 0).getLsbD (j % 8) = true then ninf32 else (t.accRow (no r.od0) i).getD j 0#32
      let mn : Nat → W32 := fun i => fmax (t.accMax (no r.od2) i) ((score i).foldl fmax ninf32)
      let code : W32 → Nat := fun v => (conv fmt run.rm r.x r.sat run.seed (ofF32 v)).1
      let p : Nat → List Nat := fun i => (score i).map fun v => if mn i = ninf32 then code 0#32 else code (less v (mn i))
      let a : Nat → W32 := fun i => scale (t.accMax (no r.od2) i) (mn i)
      o = { StepOut.none with rows := o.rows, ms := o.ms, ls := o.ls, tile := o.tile, fl := o.fl } ∧
      o.tile = some (no r.od1, (List.range 128).flatMap fun i => packCodes (fmtWidth fmt) (p i)) ∧
      (∀ y, y ∈ o.ms ↔ ∃ i, i < 128 ∧ mn i ≠ ninf32 ∧ y = (key i, mn i)) ∧
      (∀ y, y ∈ o.ls ↔ ∃ i, i < 128 ∧ mn i ≠ ninf32 ∧ y = (key i, add (mul (a i) (t.accDen (no r.od2) i))
        (tree add 0#32 ((p i).map fun c => (widenLane fmt r.x 127 c).1)))) ∧
      ∀ y, y ∈ o.rows ↔ ∃ i, i < 128 ∧ mn i ≠ ninf32 ∧ y = (key i, (t.accRow (no r.od2) i).map (mul (a i)))) ∧
    (mxCompute s tid (.smxm r) run = .ok (o, s') →
      let m : Nat → W32 := fun i => fmax (t.accMax (no r.od0) i) (t.accMax (no r.od1) i)
      let join : Nat → W32 → W32 → W32 := fun i x y => if m i = ninf32 then 0#32 else
        (fmaRne (scale (t.accMax (no r.od0) i) (m i)) x (mul (scale (t.accMax (no r.od1) i) (m i)) y)).1
      s' = s ∧ o = { StepOut.none with rows := o.rows, ms := o.ms, ls := o.ls, fs := o.fs, fl := o.fl } ∧
      (∀ y, y ∈ o.ms ↔ ∃ i, i < 128 ∧ y = (key i, m i)) ∧ (∀ y, y ∈ o.fs ↔ ∃ i, i < 128 ∧ y = (key i, 0#32)) ∧
      (∀ y, y ∈ o.ls ↔ ∃ i, i < 128 ∧ y = (key i, join i (t.accDen (no r.od0) i) (t.accDen (no r.od1) i))) ∧
      ∀ y, y ∈ o.rows ↔ ∃ i, i < 128 ∧ y = (key i, List.zipWith (join i) (t.accRow (no r.od0) i) (t.accRow (no r.od1) i))) ∧
    (let fmt := r.fmt2.toNat
     let rows : (Nat → List Nat) → List (W64 × Int × List W8) := fun f => (List.range 128).flatMap fun i =>
       unitWrites (run.base 2) (descDisp r.od2 run.trips i) (packCodes (fmtWidth fmt) (f i))
     let empty : Nat → Prop := fun i => i < 128 ∧ t.accMax (no r.od0) i = ninf32
     (mxCompute s tid (.smxf r) run = .ok (o, s') →
       s' = s ∧ o = { StepOut.none with fs := o.fs, emptySet := o.emptySet, mem := o.mem, fl := o.fl } ∧
       (∀ y, y ∈ o.fs ↔ ∃ i, empty i ∧ y = (128 * no r.od0 + i, 1#32)) ∧
       (∀ k, k < 8 → (o.emptySet.getLsbD k = true ↔ k = no r.od0 ∧ ∃ i, empty i)) ∧
       o.mem = rows fun i => (t.accRow (no r.od0) i).map fun v => if t.accMax (no r.od0) i = ninf32 then 0
         else (quot fmt run.rm r.x r.sat run.seed v (t.accDen (no r.od0) i)).1) ∧
     (mxCompute s tid (.acst r) run = .ok (o, s') →
       s' = s ∧ o = { StepOut.none with mem := o.mem, fl := o.fl } ∧
       o.mem = rows fun i => (t.accRow (no r.od0) i).map fun v => (conv fmt run.rm r.x r.sat run.seed (ofF32 v)).1)) ∧
    (mxCompute s tid (.acld r) run = .ok (o, s') →
      let w := fmtWidth r.fmt0.toNat
      ∃ l s1, s' = { s1 with focus := s.focus } ∧ State.ereads (run.base 0) 16 ((List.range 128).flatMap fun i =>
        (List.range (w / 2)).map fun k => descDisp r.od0 run.trips i + 16 * k)
          { s with focus := { s.focus with tile := tid } } = .ok (l, s1) ∧
      o = { StepOut.none with rows := o.rows } ∧
      ∀ y, y ∈ o.rows ↔ ∃ i, i < 128 ∧ y = (key i, (List.range 64).map fun k =>
        (widenLane r.fmt0.toNat false 127 (joinUnits ((l.drop (w / 2 * i)).take (w / 2)) / 2 ^ (w * k) % 2 ^ w)).1)) ∧
    (mxCompute s tid (.aczr r) run = .ok (o, s') →
      s' = s ∧ o = { StepOut.none with rows := o.rows, ms := o.ms, ls := o.ls, fs := o.fs, emptyClr := o.emptyClr } ∧
      (∀ k, k < 8 → (o.emptyClr.getLsbD k = true ↔ k = no r.od2)) ∧
      (∀ y, y ∈ o.rows ↔ ∃ i, i < 128 ∧ y = (key i, List.replicate 64 0#32)) ∧
      (∀ y, y ∈ o.ms ↔ ∃ i, i < 128 ∧ y = (key i, ninf32)) ∧ (∀ y, y ∈ o.ls ↔ ∃ i, i < 128 ∧ y = (key i, 0#32)) ∧
      ∀ y, y ∈ o.fs ↔ ∃ i, i < 128 ∧ y = (key i, 0#32))

/-- R213, R229 to R231, R236: a beat of a copy record reads its units before it writes them and retires with its last;
a beat that cannot go on waits, asks for a service or faults before it writes. Each flow record and each send injects
its packet at port 0 of the tile's router and, with its last packet, advances the flow counter and the CSN; a drove
flow while DROVECFG.EN is 0 faults with FLOW-FAULT, and a send of no whole words or of more than 2^24 bytes with
ILLEGAL. Of this the model chose, and the manual does not state: what a faulting record has written, and the links
inside the package, a flow record of length 0 that completes, and a packet that crosses the links of the package in a
step (assumption log 33, 35, 111). -/
def Obligations.CopyAndInjectionRecords : Prop :=
  (∀ (s s1 s2 s3 : State) (i : Instr) (r : Rec) (run : Run) (ixs data : List (List W8)),
    i = .copy r ∨ i = .gath r ∨ i = .scat r ∨ i = .fill r → s.AtHead i run → run.started = true → run.stuck = none →
    let pts := beatPoints run
    let units := List.zip (List.range pts.length) pts
    let idx : Nat → Nat := fun k => natOfBytes (ixs.getD k [])
    let ws := units.filterMap fun u => (cpDest i r run u.2 (idx u.1)).map fun x => (x.1, x.2,
      if i = .fill r then (List.replicate 4 (bytesOf 4 (r.od0.toNat % 2 ^ 32))).flatten else data.getD u.1 [])
    let list := if i = .gath r ∨ i = .scat r
      then pts.map fun n => some (run.base 2, ((descOff r.od2 + 4 * rowIndex run.trips n : Nat) : Int)) else []
    let sources := units.map fun u => cpSource i r run u.2 (idx u.1)
    let dests := units.filterMap fun u => (cpDest i r run u.2 (idx u.1)).map fun x => (x.1, x.2, 16, true)
    (∀ e, cpFetch 4 list [] s = (.error e, s1) → exec i s = .next (cpStopped s1 e)) ∧
    (cpFetch 4 list [] s = (.ok ixs, s1) →
      (∀ e, cpFetch 16 sources dests s1 = (.error e, s2) → exec i s = .next (cpStopped s2 e)) ∧
      (cpFetch 16 sources dests s1 = (.ok data, s2) → cpWrites ws s2 = (none, s3) →
        exec i s = .next (if points run.trips ≤ 16 * (run.prog + 1) then s3.retireRecord
          else s3.onRun fun x => { x with prog := x.prog + 1 })))) ∧
  (∀ (s : State) (r : Rec) (run : Run),
    let fid := flowFid r.od1
    let o := flowO r.od1
    let pl := flowPl r.od1
    let n := run.prog
    let on : State → State := fun s =>
      if n + 1 = points run.trips then s.sendDone (flowFc r.od1) else s.onRun fun x => { x with prog := x.prog + 1 }
    run.started = true →
    (o = true → s.drovecfg.toNat.testBit 63 = false → ∀ i ∈ [Instr.fsnd r, .fsig r, .fdrp r], s.AtHead i run →
      exec i s = .next (engineFaultAt s 0x11 (elemPtr (run.base 0) (descDisp r.od0 run.trips n)))) ∧
    ((o = true → s.drovecfg.toNat.testBit 63 = true) →
    (s.AtHead (.fsig r) run →
      exec (.fsig r) s = .next (on (s.inject (s.fiPacket fid o n 0 [] true false)))) ∧
    (s.AtHead (.fdrp r) run →
      exec (.fdrp r) s = .next (on (s.inject (s.fiPacket fid o n (256 * n) [] false true)))) ∧
    ∀ w s', s.AtHead (.fsnd r) run → s.ereadUnits (run.base 0) (descDisp r.od0 run.trips n) (4 * pl) = .ok (w, s') →
      exec (.fsnd r) s = .next (on (s'.inject (s'.fiPacket fid o n (64 * pl * n) (bytesOf (64 * pl) w) false false))))) ∧
  (∀ (s0 : State) (run : Run) (fid fc : Nat) (src len : W64) (o : Bool),
    let s : State := { s0 with focus := { s0.focus with eng := 3 } }
    let i := run.prog
    let n := len.toNat
    let bytes := min 256 (n - 256 * i)
    s.myEng.run = some run → s.myEng.stopped = false → run.send = some (.fsend fid src len fc o) →
    (n % 4 ≠ 0 ∨ 2 ^ 24 < n → exec .fiSendEntry s0 = .next (engineFaultAt s 0x01 src)) ∧
    (n % 4 = 0 → n ≤ 2 ^ 24 → (o = true → s.drovecfg.toNat.testBit 63 = true) →
    (n = 0 → exec .fiSendEntry s0 = .next (s.sendDone fc)) ∧
    ∀ w s', 0 < n → ptrFault s.focus.tile (engineReach 3) src 0 16 = none →
      s.ereadUnits src (256 * i) ((bytes + 15) / 16) = .ok (w, s') →
      let s'' := s'.inject (s'.fiPacket fid o i (256 * i) (bytesOf bytes w) false false)
      exec .fiSendEntry s0 = .next
        (if n ≤ 256 * (i + 1) then s''.sendDone fc else s''.onRun fun x => { x with prog := x.prog + 1 }))) ∧
  ∀ (s : State) (p : Packet),
    let r := s.router s.focus.tile
    let ch := if p.o = false then p.part % 8
      else if s.drovecfg.toNat.testBit 63 = false then 9 else if s.outOfRange p.stamp then 10 else 8
    (s.inject p).router s.focus.tile = { r with inq := SMap.put r.inq ch (r.inputs 0 ch ++ [p]) } ∧
    (s.inject p).me = { s.me with sseq := s.me.sseq + 1 }

/-- R248 to R260: an entry takes the packet at the head of its channel: `drop` discards it, a combining entry holds it
as the operand of its index and makes the result of an index with its last, `trn` and `hold` keep it, and the others
pass or deliver it; the packet leaves the channel. A packet of the drove class for a delivery enters the reorder store
where it has room for it, and waits where not; an entry that delivers takes nothing while no task of its launch is
resident. Of this the model chose, and the manual does not state: residence, signals as operands, key fields of
results, and the next round, LEN out of range, the place of the header check, what a signal releases, the count of a
drop marker, and which ops check PIDX (assumption log 46, 47, 49, 53, 140, 141, 142, 143, 144). -/
def Obligations.FlowEntriesTakeTheirPackets : Prop :=
  ∀ (s : State) (p : Packet) (x : Entry) (e : FlowEntry), s.meet = .entry p x → x.e = e →
    let r := s.focus.router
    let port := s.focus.port
    let own : State → (Entry → Entry) → State := fun s f => s.onEntry r e.part.toNat e.fid.toNat f
    let num := x.taken port
    let here : Prop := flowDelivers e = true → s.resident r x = true
    (here → (p.o = true → flowDelivers e = false) →
      (x.op = 15 → exec (.drop e) s = .next (own s fun y => y.take port true).takePacket) ∧
      (∀ i, (x.op, i) ∈ flowOps e → 3 ≤ x.op → x.op ≤ 9 →
        let ord := ordList e.ord
        let slot := ord.findIdx (· == port)
        let come := slot :: x.slotsOf num
        let held : List Held := x.held ++ [⟨num, slot, port, 2 * s.dcc, p⟩]
        p.pidx.toNat = num % flowPackets e →
        (p.drp = false → x.minLen ≤ p.len ∧ ∀ h ∈ x.held, h.num = num → h.pkt.drp = false → h.pkt.len = p.len) →
        x.accepts num come = true →
        (come.length < ord.length →
          exec i s = .next (own s fun y => { y.take port p.drp with held := held }).takePacket) ∧
        (ord.length ≤ come.length →
          let ops := (List.range ord.length).filterMap fun k => held.find? fun h => h.num == num && h.slot == k
          exec i s = .next (own s fun y => { y.take port p.drp with
            held := held.filter (·.num != num), ready := y.ready ++ [readyOf num (x.result ops) ops],
            waited := if num = x.low then 0 else y.waited }).takePacket)) ∧
      (x.op = 10 → p.pidx.toNat = num % e.npkt.toNat → p.drp = false → p.len = 256 →
        x.held.length + e.npkt.toNat * ((x.ready.length + 63) / 64) < e.nslot.toNat + 1 →
        let held : List Held := x.held ++ [⟨num, 0, port, 2 * s.dcc, p⟩]
        exec (.trn e) s = .next (own s fun y =>
          if held.length < e.npkt.toNat then { y.take port false with held := held }
          else { y.take port false with
            held := [], ready := y.ready ++ trnOutputs (x.outNum + x.ready.length) held }).takePacket) ∧
      (x.op = 1 ∨ x.op = 2 → e.npkt = 0#16 ∨ p.pidx.toNat = num % e.npkt.toNat → ∀ a,
        sendResult s r x true p port port 0 = .ok a →
        exec (if x.op = 1 then .fwd e else .dup e) s =
          .next { own a fun y => y.take port p.drp with focus := s.focus }.takePacket) ∧
      (∀ kind i, (kind, i) ∈ [(0, Instr.deliver e), (1, .fadd e), (2, .iadd e)] → x.op = 12 + kind → ∀ a,
        deliverPacket s r x kind p = .ok a →
        exec i s = .next { traceResult (own a fun y => { y.take port p.drp with done := y.done + 1 }) r x p.pidx.toNat
          port port 0 with focus := s.focus }.takePacket)) ∧
    (here → x.op = 11 → p.o = false →
      (p.sig = false → x.store.length < e.nslot.toNat + 1 →
        exec (.hold e) s = .next (own s fun y => { y.take port p.drp with store := y.store ++ [(port, p)] }).takePacket) ∧
      (p.sig = true → ∀ a b x', releaseHeld r e.part.toNat e.fid.toNat port x.store s = .ok a →
        a.entry r e.part.toNat e.fid.toNat = some x' → signalStep a r x' port p = .ok b →
        exec (.hold e) s = .next { b with focus := s.focus }.takePacket)) ∧
    (p.o = true → flowDelivers e = true ∨ x.op = 11 → here → ∀ i, (x.op, i) ∈ flowOps e →
      (∀ b, s.droveRoom p = some b →
        exec i s = .next (own s fun y => { y with reorder := y.reorder ++ [⟨port, p, 0, b⟩] }).takePacket) ∧
      (s.droveRoom p = none → exec i s = .next s)) ∧
    (¬ here → ∀ i, (x.op, i) ∈ flowOps e → exec i s = .next s)

/-- R243, R244, R246, R260: a delivery into the scratchpad of its task's tile writes each word at the entry's address
plus the packet's offset, `fadd` and `iadd` adding to what stands there, changes no other byte of any scratchpad, and
counts towards the tile's completion counter. Of this the model chose, and the manual does not state: residence, and
NF of an addition (assumption log 46, 50). -/
def Obligations.DeliveriesWriteTheScratchpad : Prop :=
  ∀ (s : State) (r kind : Nat) (x : Entry) (p : Packet), kind < 3 → x.e.dwin = 0#2 → isEdge r = false →
    s.resident r x = true → (s.tile r).sp.wf = true →
    let ws := wordsOf p.data
    let at' := x.e.daddr.toNat + p.ofs.toNat
    let n := 4 * ws.length
    let m := (s.tile r).sp
    let size := if (x.op = 1 ∨ x.op = 2) ∧ x.e.npkt = 0#16 then 1 else flowPackets x.e
    at' + n ≤ 0x180000 → (0 < n → (s.tile r).regionFault true at' n = false) →
    (kind ≠ 0 → (s.tile r).spBad at' n = false) →
    ∃ t, deliverPacket s r x kind p = .ok t ∧ t = { s with tiles := t.tiles, routers := t.routers } ∧
      (∀ k, k ≠ r → t.tile k = s.tile k ∧ t.router k = s.router k) ∧
      Mem.sameBut at' n m (t.tile r).sp ∧
      (∀ k, k < ws.length →
        let old := BitVec.ofNat 32 (Mem.readN m (at' + 4 * k) 4)
        let w := ws.getD k 0#32
        Mem.readN (t.tile r).sp (at' + 4 * k) 4 =
          (if kind = 0 then w else if kind = 1 then (fadd 0 0#32 old w).1 else old + w).toNat) ∧
      (t.tile r).fc = (if x.count + 1 < size then (s.tile r).fc
        else SMap.set 0#32 (s.tile r).fc x.e.fc.toNat ((s.tile r).fcReg x.e.fc.toNat + 1))

/-- R66, R249: operands combine along the pairwise tree: the first h and the others apart, h the largest power of two
below their number. R103, R239, R240, R242, R248, R263, R265, R269, R388, R399, R426: what else happens at a router: a
packet without an entry is queued for its partition, or discarded and counted up to 65,535 where 16 wait; a finished
index leaves as a result, on every port of OPM, one hop further, under NFID where REN is set, in the drove class where
DRV is set, and not before the first bellwether of its port; what is sent waits for its link's slots, or on an
Ethernet port without an egress entry is a stray. An entry that waits past the limit faults, an entry is loaded as a
whole or, while a round is in progress, a fault of the router, and the stray queue is read. Of this the model chose,
and the manual does not state: the stall limit, the entry quota and the kinds of trace record, what waits for the
stall limit, the depth of a channel, and the speed of a trace channel, the key fields of a combining result in the
normal class, the partition of an ELOAD, and LOAD before BUSY (assumption log 40, 41, 49, 61, 71, 96, 139, 146, 154).
-/
def Obligations.OperandsCombineAndRoutersGoOn : Prop :=
  ((∀ (α : Type) (node : α → α → α) (d x : α), tree node d [x] = x) ∧
  ∀ (α : Type) (node : α → α → α) (d : α) (l : List α) (k : Nat), 2 ^ k < l.length → l.length ≤ 2 ^ (k + 1) →
    tree node d l = node (tree node d (l.take (2 ^ k))) (tree node d (l.drop (2 ^ k)))) ∧
  (∀ (s : State) (p : Packet), s.meet = .stray p →
    let r := s.focus.router
    let q := (s.takePacket.router r).strayOf p.part
    (q.pkts.length < 16 → exec .strayPacket s = .next (strayEvent (s.takePacket.onRouter r fun x => { x with
      stray := SMap.put x.stray p.part { q with pkts := q.pkts ++ [p], count := q.count + 1 } }) r s.focus.port p)) ∧
    (16 ≤ q.pkts.length → exec .strayPacket s = .next (s.takePacket.onRouter r fun x => { x with
      stray := SMap.put x.stray p.part { q with
        dropped := if q.dropped = 0xFFFF#16 then 0xFFFF#16 else q.dropped + 1 } }))) ∧
  (∀ (s : State) (r came port : Nat) (p : Packet),
    let ch := if p.o then 8 else p.part % 8
    let wait : Option Nat → State := fun peer => s.onRouter r fun x => { x with
      outq := SMap.put x.outq (16 * port + ch) (x.outputs port ch ++ [⟨p, p.pl + 1, peer⟩]) }
    ((neighbour r port).isSome = true → sendOn s r came port p = wait none) ∧
    p.outFlits.map (·.flit) = p.flits ∧ (∀ f ∈ p.outFlits, f.cls = ch ∧ f.kind = 0 ∧ f.part = p.part ∧ f.stamp = p.stamp) ∧
    (neighbour r port = none → (port ≠ 6 → sendOn s r came port p = s) ∧
      (port = 6 → ∀ n, (scaleUpPort r = some n →
          sendOn s r came port p = if (s.port n).up then s.linkQueue n p.outFlits else s) ∧
        (scaleUpPort r = none → ethPort r = some n →
          (∀ peer, (s.eth n).peerOf p = some peer → sendOn s r came port p = wait (some peer)) ∧
          ((s.eth n).peerOf p = none → sendOn s r came port p = strayIn s r came p))))) ∧
  (∀ (s : State) (r : Nat) (x : Entry) (keep : Bool) (p : Packet) (first last gap : Nat),
    let q := outPacket s r x keep p
    let fresh := keep = false ∨ (x.e.drv = true ∧ p.o = false)
    (q.hops = p.hops + 1 ∧ q.fid = (if x.e.ren then x.e.nfid else p.fid) ∧ q.o = x.e.drv ∧
      q.stamp = (if x.e.drv then (if p.o then p.stamp else s.ptc.setWidth 48) else 0) ∧
      (fresh → q.spkg = BitVec.ofNat 10 s.pkg ∧ q.stid = (if isEdge r then 0 else BitVec.ofNat 9 r) ∧ q.sseq = x.outSeq) ∧
      (¬ fresh → q.spkg = p.spkg ∧ q.stid = p.stid ∧ q.sseq = p.sseq) ∧
      q = { p with hops := q.hops, fid := q.fid, o := q.o, stamp := q.stamp, spkg := q.spkg, stid := q.stid, sseq := q.sseq }) ∧
    (∀ k, k ∈ portList x.e.opm ↔ x.e.opm.getLsbD k = true) ∧
    (s.mayLeave r x q = false → sendResult s r x keep p first last gap = .wait s) ∧
    (s.mayLeave r x q = true → ∀ a, deliverPacket s r x 0 p = .ok a →
      sendResult s r x keep p first last gap = .ok (traceResult
        (((portList x.e.opm).foldl (fun u port => sendOn u r first port (outPacket a r x keep p)) a).onEntry r
          x.e.part.toNat x.e.fid.toNat fun y => { y with
            done := y.done + 1, nf := y.nf || p.nf, outSeq := if x.e.opm = 0#7 then y.outSeq else y.outSeq + 1 })
        r x p.pidx.toNat first last gap))) ∧
  (∀ (s a : State) (x : Entry) (y : Ready),
    let r := s.focus.router
    let part := s.focus.part
    let fid := s.focus.idx
    s.entry r part fid = some x → part ∉ (s.router r).stopped → (part, fid) ∉ (s.router r).badFid →
    x.ready.find? (·.num == x.outNum) = some y →
    (sendResult s r x false y.pkt y.first y.last y.gap = .ok a →
      exec .roundResultSend s = .next (a.onEntry r part fid fun z =>
        { z with ready := z.ready.filter (·.num != x.outNum), outNum := z.outNum + 1 })) ∧
    (sendResult s r x false y.pkt y.first y.last y.gap = .wait a → exec .roundResultSend s = .next a)) ∧
  (∀ (s : State) (x : Entry),
    let r := s.focus.router
    let part := s.focus.part
    s.entry r part s.focus.idx = some x → 2 ^ s.stallK < x.waited → part ∉ (s.router r).stopped →
    exec .flowStall s = .next (routerFault s r 0x11 5 part 7 (if x.op = 10 then 0 else x.low % flowPackets x.e) s.focus.idx)) ∧
  (∀ (s : State) (queue r op : Nat) (w : BitVec 256) (i : Instr) (e : FlowEntry),
    let part := queue % 8
    let others := (s.router r).entries.filter fun y => !y.is part e.fid.toNat
    (decFlow w.toNat).v = true → decodeFlow w.toNat = some i → flowOf i = some (op, e) → decFlow w.toNat = e →
    (s.loadable r part i op e = false → exec (.eload queue r w) s = .next s) ∧
    (s.loadable r part i op e = true →
      ((∀ y ∈ (s.router r).entries, y.is part e.fid.toNat = true → y.act = false) →
        exec (.eload queue r w) s = .next (s.onRouter r fun x => { x with
          badFid := x.badFid.erase (part, e.fid.toNat)
          entries := others ++ [⟨op, e, none, decide (8 ≤ queue), false, 0, 0, [], [], 0, [], [], 0, false, 0, 0, []⟩] })) ∧
      ((∃ y ∈ (s.router r).entries, y.is part e.fid.toNat = true ∧ y.act = true) →
        exec (.eload queue r w) s = .next (routerFault s r 0x11 9 part 7 0 e.fid.toNat)))) ∧
  ∀ (s : State) (r off : Nat),
    let part := (s.router r).esel.toNat / 2 ^ 20 % 8
    let q := (s.router r).strayOf part
    exec (.strayQueueRead r off) s = .next (if off = 0x238 then
      s.onRouter r fun x => { x with stray := SMap.put x.stray part { q with pkts := q.pkts.drop 1 } } else s)

/-- R388 to R391, R394: a bellwether that arrives makes its port a drove input with the watermarks it carries, or no
longer one; one leaves an up port that has sent none; the least accepted packet is released once every input has
passed its stamp and what was released before it is delivered, and one that has waited the limit raises DROVE-STALL; a
secure queue writes DROVECFG, and a write that it must refuse changes nothing. Of this the model chose, and the manual
does not state: the output watermark, and which entries deliver droves, a packet or a watermark that crosses the links
of the package in a step (assumption log 54, 55, 111). -/
def Obligations.DroveClassEvents : Prop :=
  (∀ (s : State) (r port : Nat) (f : BitVec 512),
    let x := s.router r
    (f.toNat.testBit 503 = true → exec (.bellwetherArrive r port f) s = .next (s.setRouter r { x with
      droveIn := x.droveIn.erase port, wmIn := x.wmIn.filter fun w => w.1 / 8 != port })) ∧
    (f.toNat.testBit 503 = false → ∃ marks, exec (.bellwetherArrive r port f) s = .next (s.setRouter r { x with
        droveIn := if port ∈ x.droveIn then x.droveIn else x.droveIn ++ [port], wmIn := marks }) ∧
      (∀ q, q < 8 → SMap.find marks (8 * port + q) = (if f.toNat.testBit (504 + q) = true
        then some (BitVec.ofNat 48 (f.toNat / 2 ^ (48 * q))) else SMap.find x.wmIn (8 * port + q))) ∧
      ∀ k, k / 8 ≠ port → SMap.find marks k = SMap.find x.wmIn k)) ∧
  (∀ (s : State) (r' port' : Nat),
    let r := s.focus.router
    let port := s.focus.port
    let x := s.router r
    neighbour r port = some (r', port') → (s.bellSlot r port).1 = true →
    (s.drovecfg.toNat.testBit 63 = true → port ∉ x.droveOut →
      let marks := (List.range 8).map fun q => s.outputMark r q port
      ∃ y, exec .bellwetherSend s = .next { s.setRouter r y with
          agenda := .row s.focus (.bellwetherArrive r' port' (bellwether marks false)) :: s.agenda } ∧
        y = { x with droveOut := x.droveOut ++ [port], wmSent := y.wmSent, bellAt := SMap.put x.bellAt port s.ptc,
                         bellDcc := SMap.put x.bellDcc port s.dcc } ∧
        ∀ q w, q < 8 → s.outputMark r q port = some w → SMap.find y.wmSent (8 * port + q) = some w) ∧
    (s.drovecfg.toNat.testBit 63 = false → port ∈ x.droveOut →
      exec .bellwetherSend s = .next { s.setRouter r { x with
          droveOut := x.droveOut.erase port, wmSent := x.wmSent.filter fun w => w.1 / 8 != port,
          bellDcc := SMap.put x.bellDcc port s.dcc } with
        agenda := .row s.focus (.bellwetherArrive r' port' (BitVec.ofNat 512 (2 ^ 503))) :: s.agenda })) ∧
  (∀ (s a : State) (x : Entry) (d : DrovePkt) (w : BitVec 48),
    let r := s.focus.router
    let part := s.focus.part
    leastDrove ((s.router r).reordered part) = some (x, d) → s.passed r part = some w → stampBefore w d.pkt.stamp = false →
    part ∉ (s.router r).stopped → (part, x.e.fid.toNat) ∉ (s.router r).badFid →
    ((s.router r).owesDelivery part = true → exec .droveRelease s = .next s) ∧
    ((s.router r).owesDelivery part = false →
      (opStep s r x d.port d.pkt = .ok a → exec .droveRelease s =
        .next (a.onEntry r part x.e.fid.toNat fun y => { y with reorder := y.reorder.erase d })) ∧
      (opStep s r x d.port d.pkt = .wait a → exec .droveRelease s = .next a))) ∧
  (∀ (s : State) (x : Entry) (d : DrovePkt),
    let r := s.focus.router
    let part := s.focus.part
    leastDrove (((s.router r).reordered part).filter fun y =>
      let age := (s.ptc.setWidth 48 - y.2.pkt.stamp).toNat
      decide (age < 2 ^ 47) && decide (4000 * (s.drovecfg.toNat / 2 ^ 32 % 2 ^ 16) + y.2.paused ≤ age)) = some (x, d) →
    (s.part part).halt = none → part ∉ (s.router r).stopped →
    exec .droveStall s = .next (droveFault s r 1 part d.port d.pkt.stamp)) ∧
  ∀ (s : State) (queue : Nat) (v : W64),
    (queue < 8 → exec (.drovecfgWrite queue v) s = .next s) ∧
    (v.toNat / 2 ^ 32 % 2 ^ 16 = 0 ∨ 16 < (List.range 8).foldl (fun n q => n + v.toNat / 2 ^ (4 * q) % 16) 0 ∨
      (v.toNat.testBit 63 = true ∧ s.drovecfg.toNat.testBit 63 = false ∧ s.everLocked = false ∧
        s.podcfg.toNat.testBit 63 = false) ∨
      (v.toNat.testBit 63 = false ∧ s.drovecfg.toNat.testBit 63 = true ∧
        ((∃ x ∈ s.routers, x.2.droveBusy = true) ∨ (∃ x ∈ s.ports, x.2.droveBusy = true) ∨ ∃ x ∈ s.tiles, x.2.fiDrove = true)) →
      exec (.drovecfgWrite queue v) s = .next s) ∧
    (8 ≤ queue → v.toNat / 2 ^ 32 % 2 ^ 16 ≠ 0 → (List.range 8).foldl (fun n q => n + v.toNat / 2 ^ (4 * q) % 16) 0 ≤ 16 →
      (v.toNat.testBit 63 = true ∧ (s.everLocked = true ∨ s.podcfg.toNat.testBit 63 = true)) ∨
        (v.toNat.testBit 63 = false ∧ (s.drovecfg.toNat.testBit 63 = false ∨
          ((∀ x ∈ s.routers, x.2.droveBusy = false) ∧ (∀ x ∈ s.ports, x.2.droveBusy = false) ∧
            ∀ x ∈ s.tiles, x.2.fiDrove = false))) →
      exec (.drovecfgWrite queue v) s = .next { s with drovecfg := v &&& 0x8000FFFFFFFFFFFF#64 })

/-- R380 to R385, R401: a time flit is queued on an up link when it is due, is stamped as it leaves and where it
arrives; the exchange it completes at the parent's port gives the offset, half the difference of the two directions;
sixteen small offsets lock, and a large one loses the lock. Of this the model chose, and the manual does not state:
half of an odd difference, and the step of PTC, which flit an ECHO answers, an ECHO of 0 before any other (assumption
log 59, 60, 129, 160). -/
def Obligations.PodTimeEvents : Prop :=
  (∀ s : State,
    let p := s.focus.port
    let x := s.port p
    let now : BitVec 54 := BitVec.ofNat 54 (s.ptc.toNat * 64 + s.ptcf.toNat)
    x.up = true → x.timeSent = none ∨ (∃ t, x.timeSent = some t ∧ 4096 * 64 ≤ (now - t).toNat) →
    ((∀ f ∈ x.waiting, f.kind ≠ 2) →
      exec .timeFlitSend s = .next ((s.onPort p fun x => { x with timeSent := some now }).linkQueue p [⟨10, 2, 0, 0, false, 0⟩])) ∧
    ((∃ f ∈ x.waiting, f.kind = 2) → exec .timeFlitSend s = .next s)) ∧
  (∀ (s : State) (p : Nat) (slots left : List OutFlit),
    let x := s.port p
    let now : BitVec 54 := BitVec.ofNat 54 (s.ptc.toNat * 64 + s.ptcf.toNat)
    let stamped : BitVec 512 := BitVec.ofNat 512 (x.eseq.toNat * 2 ^ 108 + (x.timeRecv.getD 0).toNat * 2 ^ 54 + now.toNat)
    let y := (emitFlit s p false).port p
    x.windowFull = false → fillSlots s (0x1000 + p) (s.router (portRouter p)).stopped 3 x.wheelPos x.waiting = (slots, left) →
    (∃ f ∈ slots, f.kind = 2) →
      y.wire = x.wire ++ [linkFlit x.sendSeq (x.recvSeq - 1) false x.returns
        (slots.map fun f => if f.kind = 2 then { f with flit := stamped } else f)] ∧
      y.waiting = left ∧ y.eseq = x.eseq + 1 ∧ y.unanswered = x.unanswered ++ [(now, x.stamps)] ∧ y.stamps = none) ∧
  (∀ (s : State) (port : Nat) (f : BitVec 512), (s.port port).up = true →
    let x := s.port port
    let now : BitVec 54 := BitVec.ofNat 54 (s.ptc.toNat * 64 + s.ptcf.toNat)
    let sent : BitVec 54 := BitVec.ofNat 54 f.toNat
    let got : BitVec 54 := BitVec.ofNat 54 (f.toNat / 2 ^ 54)
    let s1 := s.onPort port fun x => { x with timeRecv := some now, stamps := some (sent, now) }
    let s2 : List (BitVec 54 × Option (BitVec 54 × BitVec 54)) → BitVec 54 → State := fun rest t3 =>
      s1.onPort port fun x => { x with unanswered := rest, echoed := some (got, t3) }
    (x.echoed = none → x.answered got = if got = 0 then [] else x.unanswered) ∧
    (∀ e t, x.echoed = some (e, t) → (got = e → x.answered got = []) ∧
      ∀ y rest, x.unanswered = y :: rest → got ≠ e → ((got - e) - (y.1 - t)).toInt ≤ 2048 * 64 →
        x.answered got = y :: rest) ∧
    (x.answered got = [] → exec (.timeFlitReceive port f) s = .next s1) ∧
    ∀ t3 first rest, x.answered got = (t3, first) :: rest →
      (s.parentPort ≠ some port ∨ first = none → exec (.timeFlitReceive port f) s = .next (s2 rest t3)) ∧
      ∀ t1 t2 : BitVec 54, s.parentPort = some port → first = some (t1, t2) →
        (t2 - t1).toInt.natAbs < 2 ^ 53 → (got - t3).toInt.natAbs < 2 ^ 53 →
        ∃ ofs : Int, (2 * ofs = (t2 - t1).toInt - (got - t3).toInt ∨
            2 * ofs = (t2 - t1).toInt - (got - t3).toInt + 1 ∨ 2 * ofs = (t2 - t1).toInt - (got - t3).toInt - 1) ∧
          exec (.timeFlitReceive port f) s = .next (exchanged { s2 rest t3 with free := s.free + 1 } ofs)) ∧
  (∀ (s : State) (ofs : Int),
    (ofs.natAbs ≤ 2 → 15 ≤ s.streak → (exchanged s ofs).syncst.toNat.testBit 63 = true) ∧
    (4096 < ofs.natAbs → s.syncst.toNat.testBit 63 = true → s.everLocked = true →
      (exchanged s ofs).syncst.toNat.testBit 63 = false ∧ (exchanged s ofs).syncst.toNat.testBit 62 = true ∧
      (exchanged s ofs).streak = 0) ∧
    (s.everLocked = true → (exchanged s ofs).ptc = s.ptc) ∧
    (ofs.natAbs < 2 ^ 53 → s.ptc.toNat < 2 ^ 63 → s.ptc.toNat ≤ (exchanged s ofs).ptc.toNat)) ∧
  ∀ (s : State) (eth : Nat) (tai : W64) (lock : Bool), eth < 4 →
    exec (.ptpEventStamp eth tai lock) s = .next { s with trcClock := tai, trcValid := s.trcValid || lock }

/-- R376 to R378, R388, R399, R400, R432, R434: a link flit that passes its check is acknowledged and, in sequence,
its slots are passed on, and one that fails is answered by a NAK; a retry sends again from ACK + 1, up to 64 times; a
port goes down and up as a whole; a datagram in order hands its packets to the edge router, and one unacknowledged for
50 µs from its last sending is sent again with every later one, until after 64 times the tunnel goes down with an
event. A NAK leaves in a link flit of its own, which moves the slot wheel on by three; while 512 flits are not
acknowledged none but a NAK leaves, under a number acknowledged already. Of this the model chose, and the manual does
not state: sequence numbers, the codes of a flit, and the packets of a datagram, the wheels of the links, the send
window, and the UDP port and address, that the events of ports and tunnels go to the system ring of the die and to the
event rings of all queues (assumption log 41, 56, 57, 58, 127, 128). -/
def Obligations.LinkAndTunnelEvents : Prop :=
  (∀ (s : State) (port : Nat) (f : BitVec 2048), (s.port port).up = true →
    let x := s.port port
    let w := (Config.fecCorrect f).toNat
    let ack := BitVec.ofNat 12 (w / 2 ^ 104)
    let s1 := s.onPort port fun x => { x with acked := ack, retries := if ack = x.acked then x.retries else 0 }
    let s2 : State := if w.testBit 103 = true then
      { s1 with agenda := .row s1.focus (.linkRetry port ack) :: s1.agenda } else s1
    let s3 := s2.onPort port fun x => { x with
      recvSeq := x.recvSeq + 1
      credit := SMap.set 0 x.credit (w / 2 ^ 78 % 16) (SMap.get 0 x.credit (w / 2 ^ 78 % 16) + w / 2 ^ 66 % 2 ^ 12) }
    let slot : State → Nat → State := fun s k =>
      linkSlot s port (w / 2 ^ (82 + 6 * k) % 16) (w / 2 ^ (86 + 6 * k) % 4) (BitVec.ofNat 512 (w / 2 ^ (128 + 512 * k)))
    exec (.linkFlitReceive port f) s = .next
      (if (Config.linkCrc (BitVec.ofNat 1664 w)).toNat ≠ w / 2 ^ 1664 % 2 ^ 64 then sendNak s port
       else if w / 2 ^ 116 % 2 ^ 12 = x.recvSeq.toNat then slot (slot (slot s3 0) 1) 2 else s2) ∧
    let y := (sendNak s port).port port
    (x.windowFull = true ↔ 512 ≤ (x.sendSeq - 1 - x.acked).toNat) ∧
    (x.windowFull = false → y.wheelPos = (x.wheelPos + 3) % 32 ∧ y.sendSeq = x.sendSeq + 1 ∧ y.wire.length = x.wire.length + 1) ∧
    (x.windowFull = true → emitFlit s port false = s ∧ y = { x with wire := y.wire } ∧
      ∃ f, y.wire = x.wire ++ [f] ∧ f.toNat / 2 ^ 103 % 2 = 1 ∧ f.toNat / 2 ^ 116 % 2 ^ 12 = x.acked.toNat)) ∧
  (∀ (s : State) (port : Nat) (ack : BitVec 12), (s.port port).up = true →
    let x := s.port port
    let n := (x.sendSeq - 1 - ack).toNat
    let again := x.sent.drop (x.sent.length - n)
    again ≠ [] → exec (.linkRetry port ack) s = .next (if 64 ≤ x.retries then
        { s with agenda := .row { s.focus with port := port } .portDown :: s.agenda }
      else (s.onPort port fun x => { x with wire := x.wire ++ again, retries := x.retries + 1 }).countRecord 7
        again.length)) ∧
  (∀ s : State,
    let p := s.focus.port
    ((s.port p).up = true → s.parentPort ≠ some p →
      exec .portDown s = .next (((dropDrove (s.onPort p fun x => { Port.reset with eseq := x.eseq }) p).countRecord 8
        1).sysEvent (p / 36) (packageEvent 0 4 p 0))) ∧
    ((s.port p).up = false → p < 72 → exec .portUp s = .next
      ((s.onPort p fun x => { Port.reset with up := true, eseq := x.eseq }).sysEvent (p / 36) (packageEvent 0 4 p 1)))) ∧
  (∀ (s : State) (n peer : Nat) (h : BitVec 128) (payload : List W32) (x : Peer),
    SMap.find (s.eth n).peers peer = some x → x.down = false →
    let ack : W32 := BitVec.ofNat 32 (h.toNat / 2 ^ 32)
    let kept := x.window.filter fun w => decide (2 ^ 31 ≤ (ack - BitVec.ofNat 32 w.seq).toNat)
    let y : Peer := { x with window := kept }
    let at' : Peer → State := fun y => sendTunnel n peer (x.stash.length + 1)
      (s.onEth n fun e => { e with peers := SMap.put e.peers peer y })
    (h.toNat % 2 ^ 32 ≠ x.recvSeq.toNat → exec (.ethDatagramReceive n peer h payload) s = .next (at' y)) ∧
    (h.toNat % 2 ^ 32 = x.recvSeq.toNat → exec (.ethDatagramReceive n peer h payload) s = .next
      ((datagramPackets 16 (wordFlits payload.length payload)).foldl (fun s p => s.putPacket (ethRouter n) 6 p)
        (at' { y with recvSeq := x.recvSeq + 1 })))) ∧
  ∀ (s : State) (x : Peer),
    let n := s.focus.port
    let peer := s.focus.idx
    SMap.find (s.eth n).peers peer = some x → x.down = false → ∀ early (w : Datagram) later,
      x.window = early ++ w :: later → (∀ y ∈ early, y.age < 200000) → 200000 ≤ w.age →
    ((∀ y ∈ w :: later, y.resends < 64) → exec .ethResend s = .next (s.onEth n fun e => { e with
      peers := SMap.put e.peers peer { x with window := early ++ (w :: later).map fun y => { y with age := 0, resends := y.resends + 1 } }
      wire := e.wire ++ (w :: later).map fun y =>
        (peer, tunnelHeader (BitVec.ofNat 32 y.seq) (x.recvSeq - 1) y.part, y.words) })) ∧
    ((∃ y ∈ w :: later, 64 ≤ y.resends) → exec .ethResend s = .next ((s.onEth n fun e => { e with
      peers := SMap.put e.peers peer { x with window := [], stash := [], down := true } }).sysEvent (n / 2)
        (packageEvent 0 4 (72 + n) 0)))

/-- R126, R313, R314, R320: the oldest record that a partition's shepherds have received is admitted or rejected. A
job record from the host makes a job that awaits its launches, or is rejected with DUPID where the identity is in use;
a launch record whose checks all pass joins the partition's units with no task started and counts in its graph and
fold; one that fails is rejected, and counts as cancelled. A record in the submitting tile's scratchpad is read once
the D strand's earlier writes to it are performed, and one that cannot be read names no unit. Of this the model chose,
and the manual does not state: READ in the order of the checks, and the count of a rejected launch (assumption log 63,
64). -/
def Obligations.RecordsAreAdmittedOrRejected : Prop :=
  (∀ (s : State) (i : Incoming) (w : Nat), s.incoming.find? (·.part == s.focus.part) = some i →
    let s' : State := { s with incoming := s.incoming.erase i }
    (s.recordWaits i = true → exec .recordAdmit s = .next s) ∧
    (s.recordWaits i = false → s'.readRecord i 64 = none →
      exec .recordAdmit s = .next (s'.countError (s'.recordError i 64))) ∧
    (s.recordWaits i = false → s'.readRecord i 64 = some w →
    (∀ id stat, 0 < id → id < 2 ^ 32 → stat < 2 ^ 64 → w = 2 + id * 2 ^ 32 + stat * 2 ^ 128 → i.fromTile = none →
      (s.unit i.part 3 id = none → ∃ u, u.is i.part 3 id = true ∧ u.state = 0 ∧ u.counter = 0 ∧ u.closed = false ∧
        u.stat = BitVec.ofNat 64 stat ∧
        exec .recordAdmit s = .next (({ s' with units := s.units ++ [u] } : State).writeStat u |>.refresh i.part)) ∧
      ((s.unit i.part 3 id).isSome = true → ∃ u, u.part = i.part ∧ u.state = 5 ∧ u.reason = 5 ∧
        u.stat = BitVec.ofNat 64 stat ∧ exec .recordAdmit s = .next (s'.writeStat u))) ∧
    (w % 2 ^ 8 = 1 → ∀ r, s'.readRecord i 192 = some r →
      (s'.launchReason i r = 0 → ∃ u, u.is i.part 0 (r / 2 ^ 32 % 2 ^ 32) = true ∧
        u.record = BitVec.ofNat 1536 r ∧ u.state = 0 ∧ u.counter = 0 ∧ u.tasks = List.replicate u.nt 0 ∧ u.ready = none ∧
        exec .recordAdmit s = .next
          ((((({ s' with units := s.units ++ [u] } : State).writeStat u).onUnit i.part 1 u.gid
            fun g => { g with members := g.members + 1 }).onUnit i.part 2 u.fold
              fun f => { f with members := f.members + 1 }).refresh i.part)) ∧
      (s'.launchReason i r ≠ 0 → let b := s'.countError (s'.launchError i.part r (s'.launchReason i r))
        ∃ u, u.part = i.part ∧ u.level = 0 ∧ u.id = r / 2 ^ 32 % 2 ^ 32 ∧ u.state = 5 ∧
        u.reason = s'.launchReason i r ∧ u.ended = true ∧ u.counter = BitVec.ofNat 32 u.nt ∧
        exec .recordAdmit s = .next (if u.id ≠ 0 ∧ s.unit i.part 0 u.id = none
          then ({ b.writeStat u with units := s.units ++ [u] } : State).refresh i.part else b.writeStat u))))) ∧
  ∀ s : State, s.countError false = s ∧ s.countError true = { s with
    records := SMap.set 0 s.records 6 (BitVec.ofNat 64 (min (2 ^ 64 - 1) ((SMap.get 0 s.records 6).toNat + 1))) }

/-- R322, R324 to R326: at a choice event the candidates are taken by effective priority, then by the clk since which
they are ready, then by identity. Each in its turn that has a free placement starts there, all or nothing: a new
launch at the first origin, a resumable one on its own tiles, the reserving head on the tiles held for it; one without
is passed over, and counts a pass for each later one that starts. The first that has been passed RESV times becomes
the reserving head, whose placement is then fixed: its own tiles, or for a new launch the first origin whether free or
not. A head that is rejected in a choice leaves the next one to the next choice. Of this the model chose, and the
manual does not state: that claims of one choice are granted in the order of the candidates, the detail word of an
entry with no router (assumption log 131, 137). -/
def Obligations.TheShepherdChooses : Prop :=
  (∀ s : State,
    let p := s.focus.part
    let s' := ((s.onPart p fun x => { x with choice := false }).refresh p).resumeYielded p
    let t := chooseGo p (s'.candidates p) [] s'
    ((s.part p).choice = false ∨ (s.part p).halt.isSome = true → exec .shepherdChoice s = .next s) ∧
    ((s.part p).choice = true → (s.part p).halt = none →
      (∀ h, (s'.part p).head = some h → t.unit p 0 h.1 = none → exec .shepherdChoice s = .next t) ∧
      ((∀ h, (s'.part p).head = some h → t.unit p 0 h.1 ≠ none) → exec .shepherdChoice s = .next (t.formHead p)))) ∧
  (∀ (s : State) (p : Nat), (s.candidates p).Pairwise (fun a b => s.candBefore a b = true) ∧
    ∀ u, u ∈ s.candidates p ↔ u ∈ s.units ∧ u.part = p ∧ u.level = 0 ∧ u.ended = false ∧ u.starting = false ∧
      u.ready.isSome = true ∧ (u.resumable = true ∨ u.loaded = false)) ∧
  (∀ (s : State) (p : Nat) (c : WorkUnit) (rest : List WorkUnit) (before : List Nat), c.part = p →
    let held := (s.part p).held
    let head := (s.part p).head.map (·.1) = some c.id
    let free : Nat → Bool := fun t => s.tileFree t && !held.contains t
    let place : List Nat → Prop := fun l => if head then l = held ∧ ∀ t ∈ l, s.tileFree t = true
      else if c.resumable then l = c.place ∧ ∀ t ∈ l, free t = true else s.placement c free = some l
    let begun : State → State := fun t => if head then t.onPart p fun x => { x with
        head := match x.head with
          | some h => if h.1 = c.id then none else some h
          | none => none }
      else { (t.onPart p fun x => { x with
          head := match x.head with
            | some h => if h.1 = c.id then none else some h
            | none => none }) with
        units := t.units.map fun u => if u.part = p ∧ u.level = 0 ∧ u.id ∈ before ∧ u.ended = false
          then { u with pass := u.pass + 1 } else u }
    chooseGo p [] before s = s ∧
    ((∀ l, ¬ place l) → chooseGo p (c :: rest) before s = chooseGo p rest (before ++ [c.id]) s) ∧
    ∀ l, place l →
      (c.resumable = true → chooseGo p (c :: rest) before s = chooseGo p rest before (begun { s with
        saves := s.saves.map fun x => if x.part = p ∧ x.lid = c.id then { x with go := true } else x
        units := s.units.map fun v => if v.is p 0 c.id then { v with resumable := false, starting := true } else v })) ∧
      (c.resumable = false → ∀ a, s.loadNet c l = .ok a → chooseGo p (c :: rest) before s = chooseGo p rest before
        (begun (a.onUnit p 0 c.id fun u => { u with starting := true, place := l, chosen := a.dcc }))) ∧
      (c.resumable = false → ∀ a why x y, s.loadNet c l = .error (a, why, x, y) →
        chooseGo p (c :: rest) before s = chooseGo p rest before (a.rejectLaunch c why x y))) ∧
  (∀ (s : State) (u : WorkUnit) (ok : Nat → Bool) (l : List Nat), s.placement u ok = some l →
    let w := u.record.toNat / 2 ^ 16 % 8 + 1
    let h := u.record.toNat / 2 ^ 19 % 8 + 1
    let n := u.record.toNat / 2 ^ 22 % 8 + 1
    let block : Nat → Nat → Nat → List Nat := fun c a b =>
      (List.range (w * h)).map fun r => 64 * c + 8 * (a + r / w) + b + r % w
    (u.record.toNat / 2 ^ 14 % 4 = 0 → ∃ c a b, c ∈ (s.part u.part).clusters ∧ a + h ≤ 6 ∧ b + w ≤ 8 ∧ l = block c a b ∧
      (∀ t ∈ l, ok t = true) ∧ ∀ c' a' b', c' ∈ (s.part u.part).clusters → a' + h ≤ 6 → b' + w ≤ 8 →
        (∀ t ∈ block c' a' b', ok t = true) → c < c' ∨ (c = c' ∧ (a < a' ∨ (a = a' ∧ b ≤ b')))) ∧
    (u.record.toNat / 2 ^ 14 % 4 ≠ 0 → ∃ cs, cs.length = n ∧ l = cs.flatMap (fun c => (List.range 48).map (64 * c + ·)) ∧
      cs = ((s.part u.part).clusters.filter fun c => (List.range 48).all fun k => ok (64 * c + k)).take n)) ∧
  (∀ (s : State) (a b : WorkUnit), s.candBefore a b = true ↔ s.effPrio b < s.effPrio a ∨
    (s.effPrio a = s.effPrio b ∧ (a.ready.getD 0 < b.ready.getD 0 ∨ (a.ready.getD 0 = b.ready.getD 0 ∧ a.id ≤ b.id)))) ∧
  (∀ (s : State) (u : WorkUnit) (r : Nat), u.ready = some r →
    s.effPrio u = min 7 (u.record.toNat / 2 ^ 8 % 8 + (s.dcc - r) / 2 ^ ((s.part u.part).reg.toNat / 2 ^ 20 % 2 ^ 6))) ∧
  ∀ (s : State) (p : Nat),
    let resv := if (s.part p).reg.toNat / 2 ^ 16 % 16 = 0 then 16 else (s.part p).reg.toNat / 2 ^ 16 % 16
    ((s.part p).head.isSome = true → s.formHead p = s) ∧
    ((∀ u ∈ s.candidates p, u.pass < resv) → s.formHead p = s) ∧
    ∀ pre u post, (s.part p).head = none → s.candidates p = pre ++ u :: post → (∀ v ∈ pre, v.pass < resv) → resv ≤ u.pass →
      (u.resumable = true → s.formHead p = s.onPart p fun x => { x with head := some (u.id, u.place) }) ∧
      (u.resumable = false → ∀ l, s.placement u (fun _ => true) = some l →
        s.formHead p = s.onPart p fun x => { x with head := some (u.id, l) })

/-- R139, R321, R323: the tasks of a launch start in one clk, each at its entry points with its regions, counters and
numbers as the image and the launch record give them; a task of the reserving head may be copied beforehand into a
standby region above the running task's. Of this the model chose, and the manual does not state: the clk of the first
issue, and the base of the standby region (assumption log 9, 65, 70). -/
def Obligations.TasksStartTogether : Prop :=
  (∀ (s : State) (u : WorkUnit) (img : List W8),
    let p := s.focus.part
    s.unit p 0 s.focus.idx = some u → u.starting = true → u.loaded = false → (s.part p).halt = none →
    s.launchImage u = some img → u.place.Nodup →
    (s.preloaded u = false → s.launchImage u = s.readImage p u.secure (u.record.toNat / 2 ^ 192 % 2 ^ 64)) ∧
    ((∀ tid ∈ u.place, (s.shadowCopy p (s.tile tid)).isSome = true) →
    ∃ t, exec .launchStart s = .next t ∧ t.dcc = s.dcc ∧ t.routers = s.routers ∧
      ((∀ v ∈ s.units, v.part = p → v.stat = 0#64) → t.parts = s.parts) ∧
      (∀ q, t.part q = if q = p then { s.part p with halts := (t.part p).halts, halt := (t.part p).halt } else s.part q) ∧
      (∀ rank tid, u.place[rank]? = some tid → ∃ x, s.shadowCopy p (s.tile tid) = some x ∧
        t.tile tid = startTask u img rank tid x) ∧
      (∀ tid, tid ∉ u.place → t.tile tid = s.tile tid) ∧
      ∃ v, t.unit p 0 s.focus.idx = some v ∧ v.loaded = true ∧ v.starting = false ∧ v.state = 1 ∧
        v.tasks = u.tasks.map fun _ => 1)) ∧
  (∀ (u : WorkUnit) (img blocks : List W8) (rank tid rb size : Nat) (x : Tile),
    (x.preload = none ∧ rb = 0) ∨ x.preload = some ⟨u.part, u.id, rank, rb, size, blocks⟩ →
    let h := natOfBytes (img.take 64)
    let at' : Nat → BitVec 21 := fun lo => BitVec.ofNat 21 (rb + h / 2 ^ lo)
    let t := startTask u img rank tid x
    t.sc.pc = at' 192 ∧ t.sv.pc = at' 213 ∧ t.sd.pc = at' 256 ∧ t.se.pc = at' 277 ∧
    (t.sc.running ∧ t.sv.running ∧ t.sd.running ∧ t.se.running) ∧ t.live = true ∧
    (∀ k, 1 ≤ k → k ≤ 8 → t.sreg k = BitVec.ofNat 64 (u.record.toNat / 2 ^ (960 + 64 * k))) ∧
    t.sreg 9 = BitVec.ofNat 64 rank ∧ (∀ k, 10 ≤ k → t.sreg k = 0) ∧
    t.srseed = BitVec.ofNat 32 (u.record.toNat / 2 ^ 448) ∧ t.modeSt = u.record.toNat.testBit 11 ∧
    (t.modeDet = true ↔ u.fold ≠ 0) ∧ t.world = u.secure ∧ t.launchid = BitVec.ofNat 32 u.id ∧
    t.taskid = BitVec.ofNat 32 ((if u.fold = 0 then 0 else u.record.toNat / 2 ^ 160 % 2 ^ 32) + rank) ∧
    t.mx.nxt = BitVec.ofNat 64 (2 ^ 63 + h / 2 ^ 320 % 2 ^ 21) ∧ t.mx.tail = t.mx.nxt ∧ t.mx.csn = 0 ∧
    t.hold = 0 ∧ t.flight = [] ∧ t.v = [] ∧ t.acc = [] ∧ t.accM = []) ∧
  ∀ (s : State) (r : Residence) (h : WorkUnit) (hid : Nat) (place : List Nat) (img : List W8),
    let tid := s.focus.tile
    let p := s.focus.part
    let w := natOfBytes (img.take 64)
    let base := r.ringBase + r.ringSize
    let n := w / 2 ^ 64 % 2 ^ 32 + w / 2 ^ 96 % 2 ^ 32
    (s.part p).head = some (hid, place) → s.me.res = some r → s.unit p 0 hid = some h → tid ∈ place → h.loaded = false →
    s.me.preload = none → (s.part p).halt = none → r.part = p → r.lid ≠ hid →
    s.readImage p h.secure (h.record.toNat / 2 ^ 192 % 2 ^ 64) = some img → base + n + w / 2 ^ 128 % 2 ^ 32 ≤ 0x180000 →
    w / 2 ^ 416 % 2 ^ 32 ≤ w / 2 ^ 64 % 2 ^ 32 → w / 2 ^ 160 % 2 ^ 32 ≤ w / 2 ^ 96 % 2 ^ 32 →
    ∃ m bad, exec .preload s = .next (s.withMe { s.me with
        sp := m, bad := bad, preload := some ⟨p, hid, place.findIdx (· == tid), base, n, img.take (imgCodeAt w)⟩ }) ∧
      Mem.sameBut base n s.me.sp m ∧
      (s.me.sp.wf = true → ∀ k, k < w / 2 ^ 416 % 2 ^ 32 → imgCodeAt w + k < img.length →
        Mem.get m (base + k) = img.getD (imgCodeAt w + k) 0)

/-- R22, R313, R315, R329: a task whose strands have stopped and whose engines are idle ends: its tile is free and
keeps its registers, its launch counts one more task, and with its last task the launch has ended; a task that has
used its LIMIT raises BUDGET at its C strand. Of this the model chose, and the manual does not state: that a freed
tile keeps its registers (assumption log 68). -/
def Obligations.TasksEnd : Prop :=
  (∀ (s : State) (r : Residence) (u : WorkUnit), s.me.res = some r → s.me.live = true → s.me.clockRuns = true →
    s.me.finished = true → s.unit r.part 0 r.lid = some u → u.fold = 0 → r.rank < u.tasks.length →
    ∃ t, exec .taskEnd s = .next t ∧
      (t.me.res = none ∧ t.me.live = false ∧ t.me.sp = s.me.sp ∧ t.me.sseq = s.me.sseq ∧ t.me.s = s.me.s ∧ t.me.v = s.me.v ∧
        t.me.k = s.me.k ∧ t.me.acc = s.me.acc ∧ t.me.fc = s.me.fc ∧ t.me.flags = s.me.flags ∧ t.me.rg = s.me.rg ∧
        t.me.cp.csn = s.me.cp.csn) ∧
      (u.preempting = false → (∃ k, k < u.tasks.length ∧ k ≠ r.rank ∧ u.tasks[k]? ≠ some 4) →
        ∃ v, t.unit r.part 0 r.lid = some v ∧ v.counter = u.counter + 1 ∧ v.tasks = u.tasks.set r.rank 4) ∧
      ((∀ k, k < u.tasks.length → k ≠ r.rank → u.tasks[k]? = some 4) → t.unit r.part 0 r.lid = none ∧
        ∃ v ∈ t.units, v.part = r.part ∧ v.level = 0 ∧ v.id = r.lid ∧ v.ended = true ∧ v.state = 2 ∧
          v.counter = u.counter + 1)) ∧
  ∀ (s : State) (r : Residence), s.me.res = some r → r.limit ≠ 0 → r.limit ≤ s.me.used → s.me.clockRuns = true →
    s.me.sc.faulted = false →
    exec .budget s = .next ((unitFault s s.focus.tile 0 0x0D 0 s.me.sc.pc 0).onMe fun t =>
      { t with sc := { t.sc with faulted := true } })

/-- R125, R131, R323, R327, R328, R357 to R359: requests reach every running task of a launch that the reserving head
needs; at its deadline a task is stopped with everything live; a drained task is saved in the lowest free slot, the
engines' quiesce records with it, and its tile is free, groups marked dead reading as zero, unless what the save reads
holds an uncorrectable error; and a restore puts the saves of a launch back, issuing in one clk. Of this the model
chose, and the manual does not state: the bytes of a save slot, dead accumulators, and tasks that are saved already,
that accesses held back are saved with their task, what a forced boundary sees, the TID 0 of an error that the
shepherd meets in a save (assumption log 5, 38, 66, 67, 69, 112, 125). -/
def Obligations.PreemptedTasksAreSavedAndRestored : Prop :=
  (∀ (s : State) (u h : WorkUnit) (hid : Nat) (place : List Nat),
    let p := s.focus.part
    let run := u.runningTasks
    let ask := (run.map fun x => (u.id, x.1)).filter fun x => !(s.part p).reserved.contains x
    s.unit p 0 s.focus.idx = some u → (s.part p).head = some (hid, place) → s.unit p 0 hid = some h → u.preempting = false →
    u.loaded = true → u.resumable = false → u.id ≠ hid → (s.part p).halt = none → (∃ t ∈ u.place, t ∈ place) →
    u.record.toNat / 2 ^ 8 % 8 < s.effPrio h → u.record.toNat / 2 ^ 384 % 2 ^ 32 ≠ 0 → ask.length ≤ s.spareSlots p →
    u.record.toNat / 2 ^ 384 % 2 ^ 32 ≤ u.stayed ∨ (∃ x ∈ run, u.record.toNat / 2 ^ 384 % 2 ^ 32 ≤ (s.tile x.2).resident) →
    (run.map (·.2)).Nodup →
    ∃ t, exec .preemptRequest s = .next t ∧
      (∀ x ∈ run, t.tile x.2 = { s.tile x.2 with preq := some ⟨u.record.toNat / 2 ^ 416 % 2 ^ 32⟩ }) ∧
      (∀ tid, tid ∉ run.map (·.2) → t.tile tid = s.tile tid) ∧
      t.part p = { s.part p with reserved := (s.part p).reserved ++ ask }) ∧
  (∀ s : State, s.me.preq = some ⟨0⟩ → s.me.clockRuns = true → s.me.drain = none → (s.part s.myPart).halt = none →
    s.willYield s.focus.tile = false →
    (s.me.res = none → exec .forcedBoundary s = .next (s.withMe { s.me with drain := some ⟨BitVec.allOnes 24, true, true, []⟩ })) ∧
    ∀ r, s.me.res = some r →
      exec .forcedBoundary s = .next ((s.countForced r).withMe { s.me with drain := some ⟨BitVec.allOnes 24, true, true, []⟩ })) ∧
  (∀ (s : State) (r : Residence) (u : WorkUnit), s.unit r.part 0 r.lid = some u →
    s.countForced r = { s with units := (s.countForced r).units } ∧
    ∀ level id v, s.unit r.part level id = some v → (s.countForced r).unit r.part level id = some
      (if (level, id) ∈ [(0, r.lid), (1, u.gid), (2, u.fold), (3, u.jid)] then { v with ovr := min 255 (v.ovr + 1) } else v)) ∧
  (∀ (s : State) (d : Drain) (r : Residence) (slot : Nat) (more : List Nat), s.me.drain = some d → s.me.res = some r →
    d.on = true → s.me.drained = true → s.me.halted = false → (s.part r.part).halt = none →
    (s.me.saveBad d.bitmap = true ↔ s.me.spBad r.codeBase (r.ringBase + r.ringSize - r.codeBase) = true ∨ s.me.badQ ≠ [] ∨
      ∃ w ∈ s.me.badAcc, d.bitmap.toNat.testBit (16 + w / 67 / 128) = true) ∧
    (s.me.saveBad d.bitmap = true → exec .save s = .next (raiseHalt s r.part 0x0F 10 0)) ∧
    (s.me.saveBad d.bitmap = false → s.openSlots r.part = slot :: more →
    ∃ t x, exec .save s = .next t ∧ x ∈ t.saves ∧ t.saves.length = s.saves.length + 1 ∧
      x = ⟨x.yielded, false, r.part, r.lid, r.rank, s.focus.tile, slot, d.bitmap,
        ({ s.me with drain := none, preq := none, preload := none, live := false } : Tile).forget d.bitmap⟩ ∧
      t.me.res = none ∧ t.me.sp = s.me.sp)) ∧
  (∀ (s : State) (p slot tid eng : Nat) (t : Tile) (d : Drain), eng < 4 → s.mem0.wf = true →
    let e := t.eng eng
    let other : Prop := e.away.isSome = true ∧ ∀ r, e.run = some r → r.after = true
    let at' := match (if other then e.away else e.run) with
      | some r => r.addr.toNat + (if eng = 2 then 256 * r.prog else r.prog) % 2 ^ 48 * 2 ^ 64 +
          (if r.abnd = true ∨ r.out.isSome = true ∨ r.stuck.isSome = true then 2 ^ 112 else 0) +
          (if eng = 0 then r.stamp.toNat * 2 ^ 192 else 0)
      | none => 0
    let more := match (if eng = 0 ∧ other then e.away.bind (·.peer) else none) with
      | some k => 2 ^ 337 + k % 512 * 2 ^ 338
      | none => if eng = 2 ∧ (∃ r, e.run = some r ∧ r.stuck.isSome = true) then 2 ^ 192 else 0
    (s.storeQuiesce p slot tid t d).pread 0 ((s.part p).savebase.toNat / 2 ^ 22 % 2 ^ 30 * 2 ^ 22 + slot * 2 ^ 22 +
        64 * (4 + eng)) 64 =
      t.taskid.toNat + tid % 512 * 2 ^ 47 + (4 + eng) * 2 ^ 56 + 2 ^ 59 + 2 ^ 63 + SMap.get 0 d.quiet eng % 2 ^ 64 * 2 ^ 64 +
        (at' + more) * 2 ^ 128 + e.csn.toNat * 2 ^ 256 + min 31 e.pq.length * 2 ^ 288) ∧
  (∀ (t : Tile) (bm : BitVec 24) (k : Nat),
    (k < 64 → (t.forget bm).sreg k = if bm.toNat.testBit (k / 16) then t.sreg k else 0) ∧
    (k < 64 → (t.forget bm).vreg k = if bm.toNat.testBit (4 + k / 8) then t.vreg k else zeroVec) ∧
    (∀ a, a < 8 → k < 128 → (t.forget bm).accRow a k = if bm.toNat.testBit (16 + a) then t.accRow a k else zeroRow)) ∧
  (∀ (t : Tile) (bm : BitVec 24) (w : Nat), w ∈ (t.forget bm).badAcc ↔ w ∈ t.badAcc ∧ bm.toNat.testBit (16 + w / 67 / 128) = true) ∧
  ∀ (s : State),
    let p := s.focus.part
    let mine := fun (x : Saved) => x.part == p && x.lid == s.focus.idx && x.go
    let l := s.saves.filter mine
    let pool := (s.part p).savebase.toNat / 2 ^ 22 % 2 ^ 30 * 2 ^ 22
    l ≠ [] → (s.part p).halt = none → (l.map (·.tid)).Nodup →
    (∀ x ∈ l, (s.tile x.tid).res = none ∧ (s.shadowCopy p (s.tile x.tid)).isSome = true ∧
      s.memBad 0 (pool + x.slot * 2 ^ 22) (2 ^ 22) = false) →
    ∃ t, exec .restore s = .next t ∧ t.saves = s.saves.filter (fun x => !mine x) ∧
      (∀ x ∈ l, t.tile x.tid = { x.tile with
        live := true, preload := (s.tile x.tid).preload, sseq := (s.tile x.tid).sseq
        shadowStore := (t.tile x.tid).shadowStore, shadowImage := (t.tile x.tid).shadowImage
        resident := if x.yielded then x.tile.resident else 0
        sp := (t.tile x.tid).sp, bad := (t.tile x.tid).bad }) ∧
      ∀ tid, tid ∉ l.map (·.tid) → t.tile tid = s.tile tid

/-- R290 to R292, R315, R336: a fold whose launches have all been admitted and have ended commits its log: plain
writes in log order, then the atomics by task; a word written by two tasks, or written and added to, halts the
partition with DETWW instead, or where an addition would read an uncorrectable error with ECC, and no item of it is
applied. Of this the model chose, and the manual does not state: where a logged write is applied, the TID 0 of a fault
whose source is the shepherd (assumption log 38, 134). -/
def Obligations.FoldsCommitOrHalt : Prop :=
  (∀ (s : State) (f : WorkUnit),
    let p := s.focus.part
    s.unit p 2 s.focus.idx = some f → f.nl ≤ f.members →
    (∀ u ∈ s.units, u.part = p → u.level = 0 → u.fold = f.id → u.jid = f.jid → u.ended = true) → f.logFull = false →
    f.state ≠ 4 → (s.part p).halt = none →
    (logConflict f.log = none → (∃ i ∈ f.log, s.itemBad i = true) → exec .foldCommit s =
      .next (raiseHalt (s.changeUnit p 2 f.id fun f => { f with state := 4, cause := 0x0F, deta := 0xFFFFFFFF }) p 0x0F 10 0)) ∧
    (logConflict f.log = none → (∀ i ∈ f.log, s.itemBad i = false) →
      let a := ((commitOrder f.log).foldl applyItem s).countFold p f
      exec .foldCommit s = .next (((((a.onUnit p 2 f.id fun f => { f with committed := true, log := [] }).endUnit p 2 f.id
        2).settleGraphs p).settleJob p f.jid).refresh p)) ∧
    (∀ va why a b, logConflict f.log = some (va, why, a, b) →
      exec .foldCommit s = .next (raiseHalt (s.changeUnit p 2 f.id fun f => { f with
        state := 4, cause := 0x0B, reason := why, deta := BitVec.ofNat 64 va
        detb := BitVec.ofNat 64 (a % 2 ^ 32 + b % 2 ^ 32 * 2 ^ 32) }) p 0x0B 10 0))) ∧
  (∀ l : List LogItem, logConflict l = none ↔
    ∀ i ∈ l, ∀ j ∈ l, i.va = j.va → i.kind = 0 → j.kind = 0 ∧ i.task = j.task) ∧
  (∀ (s : State) (i : LogItem), s.mem0.wf = true → s.mem1.wf = true → s.mem2.wf = true →
    (applyItem s i).pread i.loc.1 i.loc.2 4 =
      (deliverWord i.kind (BitVec.ofNat 32 (s.pread i.loc.1 i.loc.2 4)) i.val).toNat) ∧
  ∀ (l : List LogItem), ∃ atomics, commitOrder l = l.filter (·.kind == 0) ++ atomics ∧
    (∀ i, i ∈ atomics ↔ i ∈ l ∧ i.kind ≠ 0) ∧ atomics.Pairwise (fun i j => i.task.toNat ≤ j.task.toNat) ∧
    ∀ k : W32, atomics.filter (·.task == k) = l.filter fun i => i.kind != 0 && i.task == k

/-- R28, R29, R38 to R41, R63, R142, R143, R154, R166: the results of a tile that are due land in the order of their
issue, one whose register a later-issued one takes being lost as a whole (the bases that a loopr writes stay), then
raise their flags, and leave the others in flight. A scalar goes to its register (s0 discards it), a vector or
predicate result to the elements that its mask enables, a packed one to the sub-elements written, rows to the places
of a queue allocated for them, a word to its place in q12, q13 or q15 or to the end of q14, accumulator words to their
places, where they end an error. A write of a control and status register clears flags by ones but for those raised in
the clk of its issue or as it lands, ignores reserved bits, and changes nothing at a read-only number (log 109). Of
this the model chose, and the manual does not state: flags that land in the clk of a clear, that a result of the
shadow context raises no flag of the task, and that the bases of a loopr stay where its predicate is lost (assumption
log 109, 147, 161). -/
def Obligations.ResultsLandWhenDue : Prop :=
  (∀ s : State, s.me.frozen = false →
    let due := s.me.flight.filter (·.rem == 0)
    let t : Tile := { s.me with flight := s.me.flight.filter (·.rem != 0) }
    exec .resultLand s = .next (s.withMe { due.foldl (fun (t : Tile) f => t.raise f.fl)
        (t.landAll due) with
      shadow := s.me.shadow.map Shadow.landDue })) ∧
  (let register : Target → Option (Nat × Nat) := fun a => match a with
      | .scalar r _ => some (0, r)
      | .vector r _ _ | .packed r _ _ _ => some (1, r)
      | .pred r _ _ | .bases _ _ r _ => some (2, r)
      | _ => none
   ∀ (t : Tile) (f : Flight) (later : List Flight), t.landAll [] = t ∧
    ((∀ g ∈ later, register f.tgt ≠ none → register g.tgt ≠ register f.tgt) →
      t.landAll (f :: later) = (t.land f.tgt).landAll later) ∧
    ((∃ g ∈ later, register f.tgt ≠ none ∧ register g.tgt = register f.tgt) → t.landAll (f :: later) = (match f.tgt with
      | .bases vrb krb _ _ => { t with vrb := vrb, krb := krb }
      | _ => t : Tile).landAll later)) ∧
  (∀ (t : Tile) (v : W64), t.land (.scalar 0 v) = t ∧
    ∀ r, r ≠ 0 → t.land (.scalar r v) = { t with s := SMap.set 0 t.s r v }) ∧
  (∀ (t : Tile) (r : Nat) (m : BitVec 1024) (v : List W32), v.length = 1024 → (t.vreg r).length = 1024 →
    ∃ l : List W32, t.land (.vector r m v) = t.setV r l ∧ l.length = 1024 ∧
      ∀ i, i < 1024 → l.getD i 0 = if m.getLsbD i then v.getD i 0 else (t.vreg r).getD i 0) ∧
  (∀ (t : Tile) (r w : Nat) (subs : List Nat) (v : List W32), w ∈ [4, 8, 16] → subs.length = 1024 → v.length = 1024 →
    (t.vreg r).length = 1024 →
    ∃ l : List W32, t.land (.packed r w subs v) = t.setV r l ∧ l.length = 1024 ∧
      ∀ i b, i < 1024 → b < 32 → (l.getD i 0).getLsbD b =
        if (subs.getD i 0).testBit (b / w) then (v.getD i 0).getLsbD b else ((t.vreg r).getD i 0).getLsbD b) ∧
  (∀ (t : Tile) (q tag : Nat) (v : List (List W32)),
    let own : QRow → Bool := fun x => x.tag == tag && x.row.isNone
    ∃ l : List QRow, t.land (.rows q tag v) = { t with vq := SMap.put t.vq q l } ∧ l.length = (t.vqRows q).length ∧
      ∀ i x, (t.vqRows q)[i]? = some x → l[i]? = some (match own x, v[((t.vqRows q).take i).countP own]? with
        | true, some row => { x with row := some row, age := 0 }
        | _, _ => x)) ∧
  (∀ (t : Tile) (r : Nat) (m v : BitVec 1024), ∃ x : BitVec 1024, t.land (.pred r m v) = t.setK r x ∧
    ∀ i, x.getLsbD i = if m.getLsbD i then v.getLsbD i else (t.kreg r).getLsbD i) ∧
  (∀ (t : Tile) (a : Nat) (v : List (Nat × W32)), SMap.wf zeroRow t.acc = true →
    (∀ r, (t.accRow a r).length = 64) → (∀ x ∈ v, x.1 < 64 * 128) →
    ∃ u : Tile, t.land (.acc a v) = { t with acc := u.acc, badAcc := u.badAcc } ∧
      (∀ r c, r < 128 → c < 64 → (u.accRow a r).getD c 0 =
        ((v.reverse.find? (·.1 == 64 * r + c)).map (·.2)).getD ((t.accRow a r).getD c 0)) ∧
      (∀ o r, r < 128 → o ≠ a → u.accRow o r = t.accRow o r) ∧
      ∀ n, n ∈ u.badAcc ↔ n ∈ t.badAcc ∧ ∀ x ∈ v, n ≠ 67 * (128 * a + x.1 / 64) + x.1 % 64) ∧
  (∀ (t : Tile) (a : Nat) (v : List (Nat × W32)), SMap.wf ninf32 t.accM = true → SMap.wf 0 t.accL = true →
    (∀ x ∈ v, x.1 < 128) →
    (∃ u : Tile, t.land (.accRow a false v) = { t with accM := u.accM, badAcc := u.badAcc } ∧
      (∀ o r, r < 128 → u.accMax o r = if o = a then ((v.reverse.find? (·.1 == r)).map (·.2)).getD (t.accMax a r)
        else t.accMax o r) ∧
      ∀ n, n ∈ u.badAcc ↔ n ∈ t.badAcc ∧ ∀ x ∈ v, n ≠ 67 * (128 * a + x.1) + 64) ∧
    ∃ u : Tile, t.land (.accRow a true v) = { t with accL := u.accL, badAcc := u.badAcc } ∧
      (∀ o r, r < 128 → u.accDen o r = if o = a then ((v.reverse.find? (·.1 == r)).map (·.2)).getD (t.accDen a r)
        else t.accDen o r) ∧
      ∀ n, n ∈ u.badAcc ↔ n ∈ t.badAcc ∧ ∀ x ∈ v, n ≠ 67 * (128 * a + x.1) + 65) ∧
  (∀ (t : Tile) (v : W64) (n k : Nat) (w : BitVec 14) (c : W32) (vrb : BitVec 5) (krb : BitVec 4),
    let fill : List QWord → List QWord := fun l => l.map fun x => if x.tag = n then { x with val := some v } else x
    t.land (.q14 v) = { t with q14 := t.q14 ++ [v] } ∧ t.land (.q15 n v) = { t with q15 := fill t.q15 } ∧
    t.land (.dq false n v) = { t with q12 := fill t.q12 } ∧ t.land (.dq true n v) = { t with q13 := fill t.q13 } ∧
    t.land (.slot n w) = { t with fs := SMap.set 0x800 t.fs n w } ∧
    t.land (.base n v) = { t with bt := SMap.set 0 t.bt n v } ∧
    t.land (.loopCount k n c) = { t with lc := SMap.set 0 t.lc (8 * k + n) c } ∧ t.land .flags = t ∧
    ∀ stage, t.land (.bases vrb krb k stage) =
      ({ t with vrb := vrb, krb := krb } : Tile).setK k (if stage then BitVec.allOnes 1024 else 0)) ∧
  (∀ (t : Tile) (kind : Nat) (a : W64),
    let new : (w : Nat) → BitVec w → BitVec w := fun w old => match kind with
      | 0 => a.setWidth w
      | 1 => old ||| a.setWidth w
      | _ => old &&& ~~~(a.setWidth w)
    t.land (.csr 0x010 kind a) = { t with flags := t.flags &&& ~~~(a.setWidth 8 &&& ~~~t.kept) } ∧
    t.land (.csr 0x011 kind a) = { t with
      modeRm := new 3 t.modeRm, modeSt := (new 5 (if t.modeSt then 16 else 0)).getLsbD 4 } ∧
    t.land (.csr 0x012 kind a) = { t with srseed := new 32 t.srseed } ∧
    t.land (.csr 0x013 kind a) = { t with spoor := new 64 t.spoor &&& 0xFC0000003FFFFFFF } ∧
    t.land (.csr 0x014 kind a) = { t with slip := new 32 t.slip } ∧
    t.land (.csr 0x018 kind a) = { t with vrb := new 5 t.vrb } ∧
    t.land (.csr 0x019 kind a) = { t with krb := new 4 t.krb } ∧
    ∀ n, n ∉ [0x010, 0x011, 0x012, 0x013, 0x014, 0x018, 0x019] → t.land (.csr n kind a) = t) ∧
  ∀ (h : Shadow) (f : Flight) (r : Nat) (v : W64), h.flight = [f] → f.rem = 0 → f.tgt = .scalar r v → r ≠ 0 →
    h.landDue = { h with flight := [], regs := SMap.set 0 h.regs r v }

/-- R23, R24, R27, R73, R76: where the four strands of a tile stand ready at a bundle and no member would block or
fault, all four issue, each with the effect it has alone; a member that would fault keeps every member from issuing; a
strand that stands at its bundle before its partners do waits for them, but where its own member would block, that
block counts; a strand that stands blocked for the limit raises QUEUE-STALL. Of this the model chose, and the manual
does not state: which member decides, that a wait hides a fault, and the orphans (assumption log 10, 72, 76, 78, 108).
-/
def Obligations.BundlesIssueTogether : Prop :=
  (∀ (st : Strand) (i : Instr) (s : State), (encOps st i).isSome = true → member i s = exec i s) ∧
  (∀ s : State,
    let tid := s.focus.tile
    let l := s.stands tid
    let c := (l.head?.map (·.2)).getD (.fault 0)
    s.me.clockRuns = true → l.length = 4 →
    (∀ x ∈ l, x.2.sync = true ∧ (s.me.str x.1).faulted = false ∧ (s.me.str x.1).ready x.2.delay = true ∧
      ∀ i, x.2 = .ok i → s.me.unitFree i.instr = true) →
    ((∀ x ∈ l, s.verdictOf tid c x = 0) → exec .bundleIssue s = .next (l.foldl (fun s' x => match x.2 with
      | .ok i => runMember s' (bundleFocus s tid c 1 x.1) i.instr
      | _ => s') s)) ∧
    ((∃ x ∈ l, s.verdictOf tid c x = 2) → (∀ x ∈ l, s.verdictOf tid c x ≠ 1) →
      exec .bundleIssue s = .next (l.foldl (fun s' x => if s.verdictOf tid c x = 2 then memberStops s' tid c x
        else s'.onTile tid fun t => t.onStr x.1 fun y => { y with notIssued := true }) s)) ∧
    ((∃ x ∈ l, s.verdictOf tid c x = 1) →
      exec .bundleIssue s = .next (l.foldl (fun s' x => if s.verdictOf tid c x = 1 then memberStops s' tid c x
        else waitPartners s' tid x.1) s))) ∧
  (∀ s : State,
    let tid := s.focus.tile
    let l := s.stands tid
    s.me.clockRuns = true → l ≠ [] → l.length < 4 →
    (∀ x ∈ l, x.2.sync = true ∧ (s.me.str x.1).faulted = false ∧ (s.me.str x.1).minAge ≤ (s.me.str x.1).age) →
    exec .bundleIssue s = .next (l.foldl (fun s' x => strandFault s' tid x.1 0x01 0) s)) ∧
  (∀ s : State,
    let tid := s.focus.tile
    let l := s.stands tid
    let c := ((l.find? fun x => x.1 == .c).map (·.2)).getD (.fault 0)
    let come := l.filter fun x => x.2.sync && decide ((s.me.str x.1).minAge ≤ (s.me.str x.1).age) &&
      !(s.me.str x.1).faulted
    let waits : List Stand → State := fun k => k.foldl (fun s' x =>
      if memberReady (s'.tile tid) x ∧ s'.verdictOf tid c x = 1 then memberStops s' tid c x
      else s'.onTile tid fun t => t.onStr x.1 fun y => { y with waiting := true, wait := 7, waitNum := 0, blocked := 0 }) s
    s.me.clockRuns = true →
    (come.length < l.length → exec .bundleIssue s = .next (waits come)) ∧
    (come.length = 4 → (∃ x ∈ l, memberReady s.me x = false) →
      exec .bundleIssue s = .next (waits (l.filter (memberReady s.me))))) ∧
  ∀ (s : State) (r : Residence),
    let st := s.focus.strand
    let x := s.me.str st
    s.me.res = some r → s.me.clockRuns = true → x.running = true → x.faulted = false → x.waiting = true → x.wait ≠ 7 →
    2 ^ r.stallN ≤ x.blocked →
    ∃ t u, exec .queueStall s = .next t ∧ t = (unitFault s s.focus.tile st.code 0x0A 0 x.pc 0).withMe u ∧
      u = (({ (unitFault s s.focus.tile st.code 0x0A 0 x.pc 0).me with
        sc := u.sc, sv := u.sv, sd := u.sd, se := u.se } : Tile)) ∧
      u.str st = { x with faulted := true } ∧
      ∀ o, o ≠ st → u.str o = { s.me.str o with notIssued := (u.str o).notIssued }

/-- R121 to R125, R333: the arrivals that have come to a hurdle's home count as far as TARGET allows, those held from
the last phase first, the others wait for the next phase, as do those up to the clk of a completion (where a
reconfiguration left COUNT at the new TARGET the phase stays open: log 133); a phase completes its latency after the
issue of the last arrival it counts, at every tile of the scope in one clk, resident or saved; a reconfiguration takes
effect at every tile of its launch at once. Of this the model chose, and the manual does not state: a home without a
task, the clk in which an arrival reaches its home, a phase that a reconfiguration leaves full (assumption log 95,
114, 133). -/
def Obligations.HurdlePhases : Prop :=
  (∀ (s : State) (r : Residence),
    let h := s.me.hurdle s.focus.idx
    let no := if h.scope = 0 then s.focus.tile / 64 else 8
    let home := s.home r.part r.lid s.focus.idx no
    let place := s.placeOf r.part r.lid
    let lr := if no ≠ 8 then 16 else if (∃ t ∈ place, t < 256) ∧ (∃ t ∈ place, 256 ≤ t) then 80 else 48
    s.focus.follow = false → s.me.res = some r → home.transit ≠ [] ∨ home.held ≠ [] →
    exec .hurdleArrival s = .next (s.setHome (home.arrive h.target lr))) ∧
  (∀ (h : Home) (target lr : Nat), h.transit ≠ [] ∨ h.held ≠ [] → (∀ x ∈ h.transit, x.2 ≤ lr) →
    let byRank : List (Nat × Nat) → List (Nat × Nat) := sortBy fun a b => a.1 ≤ b.1
    let all := byRank (h.held.map fun k => (k, 0)) ++ byRank h.transit
    (h.due = none → h.closing = false → h.count + all.length < target → h.arrive target lr = { h with
      transit := [], held := [], count := h.count + all.length, counted := h.counted ++ all.map (·.1) }) ∧
    (h.due = none → h.closing = false → h.count < target → target ≤ h.count + all.length →
      let now := all.take (target - h.count)
      ∃ age, (∃ x ∈ now, x.2 = age) ∧ (∀ x ∈ now, age ≤ x.2) ∧
      h.arrive target lr = { h with
        transit := [], count := target, counted := h.counted ++ now.map (·.1)
        held := (all.drop (target - h.count)).map (·.1), due := some (lr - age) }) ∧
    (h.due.isSome = true ∨ h.closing = true ∨ target ≤ h.count →
      h.arrive target lr = { h with transit := [], held := all.map (·.1) })) ∧
  (∀ h : Home, h.tick = { h with
    closing := false, due := h.due.map (· - 1), transit := h.transit.map fun a => (a.1, a.2 + 1) }) ∧
  (∀ (s : State) (r : Residence),
    let n := s.focus.idx
    let no := if (s.me.hurdle n).scope = 0 then s.focus.tile / 64 else 8
    let home := s.home r.part r.lid n no
    let place := s.placeOf r.part r.lid
    s.focus.follow = false → s.me.res = some r → home.due = some 0 →
    ∃ t, exec .hurdlePhaseComplete s = .next t ∧ t.dcc = s.dcc ∧ t.routers = s.routers ∧ t.units = s.units ∧
      t.home r.part r.lid n no = { home with count := 0, counted := [], due := none, closing := true } ∧
      (∀ k tid, place[k]? = some tid → (no = 8 ∨ tid / 64 = no) →
        (s.tile tid).res.map (fun x => (x.part, x.lid, x.rank)) = some (r.part, r.lid, k) →
        t.tile tid = (s.tile tid).phaseDone n (home.counted.contains k)) ∧
      (∀ tid, (∀ k, (s.tile tid).res.map (fun x => (x.part, x.lid, x.rank)) ≠ some (r.part, r.lid, k)) →
        t.tile tid = s.tile tid) ∧
      t.saves = s.saves.map fun x => if x.part = r.part ∧ x.lid = r.lid ∧ (no = 8 ∨ x.tid / 64 = no)
        then { x with tile := x.tile.phaseDone n (home.counted.contains x.rank) } else x) ∧
  (∀ (t : Tile) (n : Nat) (counted : Bool), ∃ u, t.phaseDone n counted = u ∧
    u = { t with hur := u.hur, hold := if (t.hurdle n).ss then 0 else t.hold } ∧
    u.hur = SMap.set Hurdle.idle t.hur n { t.hurdle n with
      phase := !(t.hurdle n).phase, pend := (t.hurdle n).pend && !counted }) ∧
  ∀ (s : State) (h : HurdleSet), s.hsets.filter (·.left == 0) = [h] →
    ∃ t, exec .hurdleConfigEffect s = .next t ∧ t.hsets = s.hsets.filter (·.left != 0) ∧ t.dcc = s.dcc ∧
      (∀ tid, tid ∈ s.placeOf h.part h.lid → (s.placeOf h.part h.lid).Nodup →
        (s.tile tid).res.map (fun x => (x.part, x.lid)) = some (h.part, h.lid) →
        t.tile tid = (s.tile tid).setHurdle h.hurdle { (s.tile tid).hurdle h.hurdle with
          cfg := true, scope := h.scope, target := h.target }) ∧
      ∀ tid, tid ∉ s.placeOf h.part h.lid → t.tile tid = s.tile tid

/-- R276, R278 to R280: a walk through the four tables gives the page entry; when it ends the entry stands in the
cluster's cache and in the TLB of every place that waited, an unresolved one is left for each agent to find; an
invalidation drops the matching entries from every stage and marks the logged writes that were translated through one.
R136, R137, R139, R345, R346: a copy's access whose translation no walker resolves enters the tile's shadow context at
offset 0 with its eight items, or, without a shadow image, is a terminal XLATE of the CP; a service that has run for
its limit is a terminal XLATE of the C strand. Of this the model chose, and the manual does not state: the time of a
walk, the page that walks share, and the records of a service that faults, the shadow bank at entry, and the page-size
hint, which accesses an invalidation finds translated (assumption log 6, 12, 27, 116, 117, 150). -/
def Obligations.TranslationAndItsService : Prop :=
  ((∀ (s : State) (p va r t2 t3 t4 e : Nat),
    let at' : Nat → Nat → Prop := fun a v =>
      (s.part p).owns 0 a = true ∧ s.memBad 0 a 8 = false ∧ s.pread 0 a 8 = v
    (s.part p).ptroot = BitVec.ofNat 64 (2 ^ 63 + r * 4096) → r < 2 ^ 40 → t2 < 2 ^ 40 → t3 < 2 ^ 40 → t4 < 2 ^ 40 →
    e < 2 ^ 64 → pteValid e = true → pteTable e = false → pteMalformed e = false →
    at' (r * 4096 + 8 * (va / 2 ^ 39 % 512)) (3 * 2 ^ 62 + t2 * 4096) →
    (∀ e2, at' (t2 * 4096 + 8 * (va / 2 ^ 30 % 512)) e2 →
      (e2 = e → pteSz e = 2 → s.walkVa p va = some (BitVec.ofNat 64 e)) ∧
      (e2 = e → pteSz e ≠ 2 → s.walkVa p va = none) ∧
      (e2 = 3 * 2 ^ 62 + t3 * 4096 → ∀ e3, at' (t3 * 4096 + 8 * (va / 2 ^ 21 % 512)) e3 →
        (e3 = e → pteSz e = 1 → s.walkVa p va = some (BitVec.ofNat 64 e)) ∧
        (e3 = 3 * 2 ^ 62 + t4 * 4096 → at' (t4 * 4096 + 8 * (va / 2 ^ 16 % 32)) e →
          s.walkVa p va = if pteSz e = 0 then some (BitVec.ofNat 64 e) else none)))) ∧
  (∀ (s : State) (w : Walk), s.walks[s.focus.idx]? = some w → s.walkServed s.focus.idx w = true →
    (∀ e, s.walkVa w.part (w.page * 2 ^ 16) = some e → ∃ t, exec .pageWalkDone s = .next t ∧
      t.walks = s.walks.eraseIdx s.focus.idx ∧ t.tiles = s.tiles ∧ t.failed = s.failed ∧
      findTlb (t.ccache w.cluster) w.part (w.page * 2 ^ 16) = some e ∧
      (∀ who ∈ w.who, findTlb (t.tlb (who % 0x1000)) w.part (w.page * 2 ^ 16) = some e) ∧
      ∀ place, (∀ who ∈ w.who, who % 0x1000 ≠ place) → t.tlb place = s.tlb place) ∧
    (s.walkVa w.part (w.page * 2 ^ 16) = none → exec .pageWalkDone s =
      let u : State := { s with walks := s.walks.eraseIdx s.focus.idx, failed := s.failed ++ [w] }
      .next (if s.walkBad w.part (w.page * 2 ^ 16) then u.countRecord 6 1 else u))) ∧
  ∀ (s : State) (part : Nat) (v : W64), ∃ t, exec (.inval part v) s = .next t ∧
    let kept := fun (x : TlbEntry) => !(x.part == part && (v.toNat.testBit 63 || x.covers part (v.toNat % 2 ^ 48)))
    let through := fun (i : LogItem) => (s.tlbs ++ s.ccaches).any fun l => l.2.any fun x => !kept x && x.covers part i.va
    t = { s with tlbs := t.tlbs, ccaches := t.ccaches, units := s.units.map fun u => if u.part = part
      then { u with log := u.log.map fun i => { i with stale := i.stale || through i } } else u } ∧
    (∀ who, t.tlb who = (s.tlb who).filter kept) ∧ ∀ c, t.ccache c = (s.ccache c).filter kept) ∧
  (∀ (s : State) (r : Run) (p : W64) (write : Bool), s.me.cp.run = some r → s.me.shadow = none → r.stuck = some (p, write) →
    s.me.halted = false → s.me.live = true →
    (s.me.shadowImage.isSome = true → ∃ h, exec .cpXlateMiss s = .next (s.withMe { s.me with shadow := some h }) ∧
      h.st = { StrandSt.reset with running := true } ∧ h.regs = [] ∧ h.flight = [] ∧
      h.items = [0x605#64, p, if write then 1 else 0, s.me.recordSp r.addr,
        BitVec.ofNat 64 (s.me.taskid.toNat + s.focus.tile % 512 * 2 ^ 32), BitVec.ofNat 64 s.dcc, 0, 0]) ∧
    (s.me.shadowImage = none → exec .cpXlateMiss s =
      .next ((unitFault s s.focus.tile 6 0x05 0 0 (BitVec.ofNat 320 (p.toNat * 2 ^ 256))).onMe fun t =>
        { t with cp := { t.cp with stopped := true } }))) ∧
  (∀ (t : Tile) (r : Residence) (p : W64), t.res = some r → t.recordSp p =
    BitVec.ofNat 64 ((if p.toNat / 2 ^ 60 = 8 then r.privBase else 0) + p.toNat % 2 ^ 21)) ∧
  ∀ (s : State) (h : Shadow) (r : Residence), s.me.shadow = some h → s.me.res = some r → h.st.running = true →
    2 ^ r.stallN ≤ h.age → exec .shadowTimeout s = .next (shadowFault s s.focus.tile 0x05 0)

/-- R347 to R352, R355: a partition's first fault raises its halt line and is recorded with its source and clk, and a
later one changes nothing; in the 2nd to the 16th clk (log 8) the line stops every task of the partition on a die,
where a beat of a copy may be cut after any number of its units (log 126); its routers then stop for it; and each unit
of a stopped task writes its record in the stop area, the last of a halt setting DONE. Of this the model chose, and
the manual does not state: the free arrival of the halt line, the clk of its trace record, and the contents of stop
records, a beat cut by a halt, and the records of idle tiles (assumption log 8, 73, 75, 79, 110, 126, 132). -/
def Obligations.FaultsHaltTheirPartition : Prop :=
  (∀ (s : State) (part cause src id : Nat), part < 8 →
    let s0 := if cause = 0x0F then s.countRecord 6 1 else s
    ((s.part part).halts.toNat.testBit 63 = false → ∃ a b, 2 ≤ a ∧ a ≤ 16 ∧ 2 ≤ b ∧ b ≤ 16 ∧
      exec (.haltLineRaise part cause src id) s = .next { s0 with
        parts := SMap.put s.parts part { s.part part with
          halts := BitVec.ofNat 64 (2 ^ 63 + cause % 2 ^ 8 * 2 ^ 55 + src % 2 ^ 4 * 2 ^ 51 + id % 2 ^ 9 * 2 ^ 42 +
            s.dcc % 2 ^ 40)
          halt := some ⟨0, a, b, false, false⟩ }
        free := s.free + 2 }) ∧
    (∀ h, (s.part part).halts.toNat.testBit 63 = true → (s.part part).halt = some h →
      let old := (s.part part).halts.toNat
      exec (.haltLineRaise part cause src id) s = .next (
        if h.age = 0 ∧ haltRank src id < haltRank (old / 2 ^ 51 % 2 ^ 4) (old / 2 ^ 42 % 2 ^ 9) then
          s0.setPart part { s.part part with halts := haltsWord cause src id s.dcc }
        else s0))) ∧
  (∀ (s : State) (h : HaltSt),
    let p := s.focus.part
    let d := s.focus.die
    (s.part p).halt = some h → (if d = 0 then h.on0 else h.on1) = false → (if d = 0 then h.ta0 else h.ta1) ≤ h.age →
    ∃ t, exec .haltLineArrive s = .next t ∧
      (∀ y ∈ t.tiles, y.1 / 256 = d → y.2.res.map (·.part) = some p → y.2.halted = true ∧
        (y.2.shadow.map (·.st.running)).getD false = false) ∧
      ((∀ y ∈ s.tiles, (s.tile y.1).cp.run = none) → t.routers = s.routers ∧ t.units = s.units ∧ t.mem0 = s.mem0 ∧
        t.mem1 = s.mem1 ∧ t.mem2 = s.mem2 ∧
        (∃ h', (t.part p).halt = some h' ∧ (if d = 0 then h'.on0 else h'.on1) = true) ∧
        ∀ tid x, SMap.find s.tiles tid = some x → SMap.find t.tiles tid =
          some (if tid / 256 = d ∧ x.res.map (·.part) = some p then x.haltNow s.dcc else x))) ∧
  (∀ (s : State) (tid : Nat) (run : Run) (i : Instr) (r : Rec),
    let t := s.tile tid
    let at' : State := { s with free := s.free + 2, focus := { Focus.reset with tile := tid, eng := 2 } }
    t.cp.run = some run → run.instr = some i → recFields i = some r → run.stuck = none → t.cp.stopped = false →
    (run.started = false ∨ t.halted = true → s.cutBeat tid = s) ∧
    (run.started = true → t.drain = none → t.halted = false → t.live = true →
      s.cutBeat tid = { s with free := s.free + 2 } ∨
      ∃ n, n ≤ 16 ∧ s.cutBeat tid = { cpBeatCut i r n at' run with focus := s.focus })) ∧
  (∀ (s : State) (run : Run) (i : Instr) (r : Rec) (n : Nat) (ws : List (W64 × Int × List W8)) (u : State),
    cpLoad i r s run = (.ok ws, u) →
    (ws.length ≤ n → cpBeatCut i r n s run = cpBeat i r s run) ∧
    (n < ws.length → cpBeatCut i r n s run = (cpWrites (ws.take n) u).2.onRun fun x => { x with abnd := true })) ∧
  (∀ (t : Tile) (dcc : Nat) (st : Strand), (t.haltNow dcc).halted = true ∧ (t.haltNow dcc).mayIssue st = false ∧
    (t.haltNow dcc).s = t.s ∧ (t.haltNow dcc).flight = t.flight ∧ (t.haltNow dcc).sp = t.sp) ∧
  (∀ (s : State) (h : HaltSt),
    let p := s.focus.part
    let r := s.focus.router
    (s.part p).halt = some h → (if routerDie r = 0 then h.on0 else h.on1) = true → p ∉ (s.router r).stopped →
    exec .routerHaltStop s =
      .next (s.setRouter r { s.router r with stopped := (s.router r).stopped ++ [p] })) ∧
  (∀ s : State,
    let tid := s.focus.tile
    let unit := s.focus.idx
    let x := s.part s.me.partition
    let pa := x.stopbase.toNat / 2 ^ 18 % 2 ^ 34 * 2 ^ 18 + 512 * (192 * (tid / 256 % 2) + 48 * (tid / 64 % 4) + tid % 64) + 
      64 * unit
    s.me.res.isSome = true → s.me.frozen = true → s.me.cancelled = false → unit < 8 → s.me.recordWritten unit = false →
    s.mem0.wf = true →
    ∃ t, exec .stopRecordWrite s = .next t ∧ t.me = { s.me with stops := t.me.stops } ∧
      t.me.recordWritten unit = true ∧ (∀ u, u ≠ unit → SMap.find t.me.stops u = SMap.find s.me.stops u) ∧
      (x.stopbase.toNat.testBit 63 = true → x.owns 0 pa = true → x.owns 0 (pa + 63) = true →
        t.pread 0 pa 64 = s.stopRecord tid unit % 2 ^ 512 ∧ Mem.sameBut pa 64 s.mem0 t.mem0) ∧
      (x.stopbase.toNat.testBit 63 = false → t.mem0 = s.mem0) ∧ t.mem1 = s.mem1 ∧ t.mem2 = s.mem2 ∧
      ((s.part s.me.partition).halt.isSome = true → x.halts.toNat.testBit 63 = true →
        (∀ y ∈ t.tiles, y.2.res.map (·.part) = some s.me.partition → y.2.frozen = true ∧ y.2.allWritten = true) →
        (t.part s.me.partition).halts = x.halts ||| BitVec.ofNat 64 (2 ^ 41))) ∧
  ∀ (s : State) (tid unit : Nat) (i : StopInfo),
    let t := s.tile tid
    let halts := (s.part t.partition).halts.toNat
    t.cancelled = false → SMap.find t.stops unit = some i → i.own = true → unit < 8 →
    s.stopRecord tid unit % 2 ^ 128 = t.taskid.toNat + i.xr % 2 ^ 7 * 2 ^ 32 + i.cause % 2 ^ 8 * 2 ^ 39 +
      tid % 2 ^ 9 * 2 ^ 47 + unit * 2 ^ 56 + 2 ^ 61 +
      (if halts / 2 ^ 51 % 2 ^ 4 = unit ∧ halts / 2 ^ 42 % 2 ^ 9 = tid then 2 ^ 62 else 0) + 2 ^ 63 +
      i.dcc % 2 ^ 64 * 2 ^ 64

/-- R422 to R425, R428: HWRITE and HREAD translate every page of their range before a byte moves, then copy it in
order; MREAD reads registers in ascending address (in recovery for queue 8 those of block 0x03 alone), and for the
queues 0 to 7 none of a secure partition's trace ring or a secure task's frozen state; MWRITE writes its words all or
none, the completion of INVAL waiting for the accesses translated before it, and leaves a fault at a router only for
an entry refused there; a page that does not translate, or a word that holds an error, ends the command with its
status and moves nothing. Of this the model chose, and the manual does not state: a range beyond 2^48, and MWRITE as a
whole, what the completion of INVAL waits for (assumption log 82, 86, 107, 150). -/
def Obligations.CommandsThatMoveData : Prop :=
  (∀ (s s' : State) (c : Cmd), s.bootst.toNat.testBit 63 = true → c.rsv = 0 → c.flg = 0 →
    (c.a.toNat % 4 = 0 → c.n.toNat % 4 = 0 → 4 ≤ c.n.toNat → c.n.toNat ≤ 2 ^ 24 → c.a.toNat + c.n.toNat ≤ 2 ^ 48 →
      (∀ l, hostPlaces s c true = (.ok l, s') → exec (.hwrite c) s = .next
        ((l.foldl (fun (x : State × Nat) p => (x.1.pwriteBytes p.2.1 p.2.2 (Mem.readBytes x.1.hostMem x.2 p.1),
          x.2 + p.1)) (s', c.h.toNat)).1.answer c 0 0)) ∧
      (∀ l, hostPlaces s c false = (.ok l, s') → 
        (firstBad s' l c.a.toNat = none → exec (.hread c) s = .next (({ s' with
          hostMem := Mem.writeBytes s'.hostMem c.h.toNat (l.flatMap fun p => s'.preadBytes p.2.1 p.2.2 p.1) } :
            State).answer c 0 0)) ∧
        ∀ va, firstBad s' l c.a.toNat = some va → exec (.hread c) s = .next ((s'.countRecord 6 1).answer c 5 va)) ∧
      (∀ st va, (hostPlaces s c true = (.error (.stop st va), s') → exec (.hwrite c) s = .next (s'.answer c st va)) ∧
        (hostPlaces s c false = (.error (.stop st va), s') → exec (.hread c) s = .next (s'.answer c st va)))) ∧
    (c.n.toNat % 8 = 0 → 8 ≤ c.n.toNat → c.n.toNat ≤ 4096 → c.a.toNat < 2 ^ 48 →
      (8 ≤ s.focus.queue ∨ (∀ i, i < c.n.toNat / 8 → s.mgHidden (c.a.toNat + 8 * i) = false) →
        exec (.mread c) s = .next (
          let r := mgReads c.a.toNat (c.n.toNat / 8) s
          ({ r.2 with hostMem := Mem.writeBytes r.2.hostMem c.h.toNat (r.1.flatMap fun w => bytesOf 8 w.toNat) } :
            State).answer c 0 0)) ∧
      (s.focus.queue < 8 → (∃ i, i < c.n.toNat / 8 ∧ s.mgHidden (c.a.toNat + 8 * i) = true) →
        exec (.mread c) s = .next (s.answer c 4 0))) ∧
    (c.h = 0 → c.n.toNat % 8 = 0 → 8 ≤ c.n.toNat → c.n.toNat ≤ 32 → c.a.toNat < 2 ^ 48 →
      let words := (List.range (c.n.toNat / 8)).map fun i => BitVec.ofNat 64 (c.inl.toNat / 2 ^ (64 * i))
      (∀ a, mwriteGo s.focus.queue s.qPart 5 c.a.toNat words s = .ok a → exec (.mwrite c) s = .next (a.goOn
        ⟨c.tag, if c.a.toNat / 2 ^ 40 = 1 ∧ c.a.toNat / 2 ^ 24 % 2 ^ 16 < 8 ∧ c.a.toNat % 2 ^ 24 = 0x100
          then some (.inval (c.a.toNat / 2 ^ 24 % 2 ^ 16)) else none, 0, 0⟩)) ∧
      ∀ st a, mwriteGo s.focus.queue s.qPart 5 c.a.toNat words s = .error (st, a) →
        exec (.mwrite c) s = .next ((s.eloadFault c.a.toNat words).answer c st a))) ∧
  (∀ (s : State) (c : Cmd), s.recovering = true → s.focus.queue ≠ 8 ∨ c.a.toNat / 2 ^ 40 ≠ 3 ∨
    (c.a.toNat + c.n.toNat - 8) / 2 ^ 40 ≠ 3 → exec (.mread c) s = .next (s.answer c 1 0)) ∧
  (∀ (s : State) (a : Nat), a < 2 ^ 48 → (s.mgHidden a = true ↔
    (a / 2 ^ 40 = 5 ∧ a / 2 ^ 24 % 2 ^ 16 < 16 ∧ (s.part (a / 2 ^ 25 % 2 ^ 15)).reg.toNat.testBit 62 = true) ∨
    ∃ tid k, s.frozenAt a = some (tid, k) ∧ (s.tile tid).world = true)) ∧
  (∀ (s : State) (a : Nat) (words : List W64), a < 2 ^ 48 → a / 2 ^ 40 ≠ 2 ∨ a % 2 ^ 24 ≠ 0x030 ∨ words.length ≠ 4 →
    s.eloadFault a words = s) ∧
  (∀ (s : State) (c : Cmd) (tier pa : Nat) (write : Bool), 4 ≤ c.n.toNat → c.a.toNat % 65536 + c.n.toNat ≤ 65536 →
    s.gplace s.qPart mailboxWho s.qSecure c.a.toNat 0 (!write) write = (.at tier pa, s) →
    (s.qSecure = true ∨ (s.part s.qPart).guarded tier pa c.n.toNat = false) →
    hostPlaces s c write = (.ok [(c.n.toNat, (tier, pa))], s)) ∧
  (∀ (s : State) (x : Completion), s.goOn x = { s.onQueue s.focus.queue fun q => { q with
      comps := q.comps ++ [x]
      qst := qstWord ((q.sqHead + 1) % q.sqEntries) q.cqTail q.eqTail q.lost } with
    accepted := none, served := s.focus.queue }) ∧
  ∀ (s : State) (c : Cmd) (status detail : Nat),
    s.answer c status detail = s.goOn ⟨c.tag, none, status, BitVec.ofNat 64 detail⟩

/-- R313, R320, R337, R356, R422, R423: SUBMIT hands its record to the shepherds, CANCEL asks for the cancel of a
unit, which takes effect at the end of a clk in which no halt stands, RELEASE ends a halt whose records are written
and is turned away before that, and CLOSE closes an open job. Of this the model chose, and the manual does not state:
unlisted actions, when SUBMIT completes, and what a RERUN restarts, that a cancel takes effect at the end of a clk in
which no halt stands, and the TID 0 of a fault that the shepherd meets in a release (assumption log 38, 74, 80, 81,
83). -/
def Obligations.CommandsForWork : Prop :=
  ∀ (s : State) (c : Cmd), s.bootst.toNat.testBit 63 = true → c.rsv = 0 →
    let p := s.focus.queue % 8
    let halts := (s.part p).halts.toNat
    let word : Nat → W64 := fun i => BitVec.ofNat 64 (Mem.readN s.hostMem (c.h.toNat + 8 * i) 8)
    (c.flg.toNat < 2 → c.a = 0 → c.n = 64 ∨ c.n = 192 → exec (.submit c) s = .next (({ s with
      incoming := s.incoming ++ [⟨p, c.flg.toNat, c.h, none, some ((List.range (c.n.toNat / 8)).map word),
        decide (8 ≤ s.focus.queue), 0, 0, 0⟩] } : State).answer c 0 0)) ∧
    (c.flg = 0 → c.h = 0 → c.n.toNat < 4 → c.a.toNat < 2 ^ 32 → exec (.cancel c) s =
      .next ((s.onPart p fun x => { x with cancels := x.cancels ++ [(c.n.toNat, c.a.toNat)] }).answer c 0 0)) ∧
    (∀ q, (s.part q).halt.isSome = true → s.takeCancels q = s) ∧
    (∀ q level id, (s.part q).halt = none → (s.part q).cancels = [(level, id)] →
      s.takeCancels q = (s.onPart q fun x => { x with cancels := [] }).cancelUnit q level id) ∧
    (c.flg = 0 → c.a = 0 → 1 ≤ c.n.toNat → c.n.toNat ≤ 4096 →
      (∀ i, i < c.n.toNat → (word i).toNat / 2 ^ 32 = 1 ∨ (word i).toNat / 2 ^ 32 = 2) →
      (halts.testBit 63 = true → halts.testBit 41 = true → exec (.release c) s = .next ((s.releaseHalt p
        ((List.range c.n.toNat).map fun i => ((word i).toNat % 2 ^ 32, (word i).toNat / 2 ^ 32))).answer c 0 0)) ∧
      (halts.testBit 63 = true → halts.testBit 41 = false → exec (.release c) s = .next (s.answer c 7 0)) ∧
      (halts.testBit 63 = false → exec (.release c) s = .next (s.answer c 1 0))) ∧
    (c.flg = 0 → c.h = 0 → c.n = 0 → c.a.toNat < 2 ^ 32 →
      (∀ j, s.unit p 3 c.a.toNat = some j → j.closed = false → exec (.close c) s = .next
        ((((s.onUnit p 3 c.a.toNat fun u => { u with closed := true }).settleJob p c.a.toNat).refresh p).answer c 0 0)) ∧
      (s.unit p 3 c.a.toNat = none → exec (.close c) s = .next (s.answer c 1 0))) ∧
    ∀ (list : List (Nat × Nat)) (q : Nat),
      let x := (s.releaseHalt q list).part q
      x.choice = true ∧
      ((x.halts = 0 ∧ x.halt = none) ∨
        ∃ cause h, x.halts = haltsWord cause 10 0 s.dcc ∧ x.halt = some h ∧ h.age = 0 ∧ h.on0 = false ∧ h.on1 = false) ∧
      ((∀ u ∈ s.units, u.part = q → u.stat = 0#64) → (s.part q).shbase.toNat.testBit 63 = false →
        x.halts = 0 ∧ x.halt = none)

/-- R300, R301, R312, R427 to R430: MIGRATE sets MIG and the mailbox accepts no further command (log 130) while a
block's page is copied 64 bytes a step, after the last of which its entry moves and the command completes; ATTEST
writes the report of the queue's partition with a signature that is valid under the identity key, drawing salts until
it has one (log 98), or the identity certificate; FWUPD writes into the slot that is not running and, at the end of
the staging, marks a verified image as next. Of this the model chose, and the manual does not state: the constants of
one part, and the staging slot in recovery, that the mailbox waits during a migration (assumption log 84, 91, 98,
130). -/
def Obligations.CommandsForPagesAndImages : Prop :=
  (∀ (s : State) (c : Cmd) (a : Nat), s.bootst.toNat.testBit 63 = true → c.rsv = 0 → c.flg = 0 → c.h = 0 →
    let p := s.focus.queue % 8
    let gbn := c.a.toNat
    let loc := c.n.toNat
    let e := s.pread 1 a 8
    let old := seAddr e
    let new := seAddr loc
    gbn < 2 ^ 32 → loc / 2 ^ 63 = 0 → loc / 2 ^ 20 % 2 ^ 35 = 0 → s.ssEntry p gbn = some a → s.memBad 1 a 8 = false →
    e.testBit 63 = true → e / 2 ^ 20 % 2 ^ 31 = 0 → seLocOk e = true → seLocOk loc = true →
    e / 2 ^ 52 % 2 ^ 3 = p → (s.part p).ownsRange old.1 old.2 32768 = true → (s.part p).ownsRange new.1 new.2 32768 = true →
    (e.testBit 51 = true → exec (.migrate c) s = .next (s.answer c 7 gbn)) ∧
    (e.testBit 51 = false → s.memBad old.1 old.2 32768 = false → exec (.migrate c) s =
      .next (({ s.pwrite 1 a 8 (2 ^ 63 + e / 2 ^ 55 % 2 ^ 8 * 2 ^ 55 + p * 2 ^ 52 + 2 ^ 51 + e % 2 ^ 20) with
        reqNum := s.reqNum + 1
        migrations := s.migrations ++ [⟨s.reqNum, s.focus.queue, p, gbn, loc, 0⟩] } : State).goOn
          ⟨c.tag, some (.migration s.reqNum), 0, 0⟩))) ∧
  (∀ (s : State) (m : Migration) (a : Nat), s.migrations.find? (fun x => x.num == m.num) = some m → m.part < 8 →
    s.ssEntry m.part m.gbn = some a →
    let e := s.pread 1 a 8
    let old := seAddr e
    let new := seAddr m.loc
    let copied := s.pwriteBytes new.1 (new.2 + 64 * m.done) (s.preadBytes old.1 (old.2 + 64 * m.done) 64)
    s.memBad old.1 (old.2 + 64 * m.done) 64 = false →
    (m.done < 511 → s.migrateStep m.num = { copied with migrations := s.migrations.map fun x =>
      if x.num = m.num then { x with done := x.done + 1 } else x }) ∧
    (511 ≤ m.done → s.migrateStep m.num = (copied.pwrite 1 a 8
      (e / 2 ^ 63 % 2 * 2 ^ 63 + m.loc / 2 ^ 55 % 2 ^ 8 * 2 ^ 55 + m.part * 2 ^ 52 + m.loc % 2 ^ 20)).migrated m 0 0)) ∧
  (∀ s : State, s.migrations ≠ [] → s.accepted = none → s.nextQueue = none) ∧
  (∀ (s : State) (m : Migration) (status detail : Nat),
    (s.migrated m status detail).migrations = s.migrations.filter (·.num != m.num) ∧
    ((s.migrated m status detail).queue m.queue).comps = (s.queue m.queue).comps.map fun x =>
      if x.waits = some (.migration m.num) then { x with waits := none, status := status, detail := BitVec.ofNat 64 detail } else x) ∧
  (∀ (s : State) (c : Cmd), s.bootst.toNat.testBit 63 = true → c.rsv = 0 → c.a = 0 → c.n = 0 →
    (c.flg = 0 → 
      let body := s.report (Mem.readBytes s.hostMem c.h.toNat 64)
      let sig := Config.identitySign body s.free
      let t : State := { s with free := s.free + 1 }
      (sig.length = 512 → pssValid Config.identityKey sig body = true → exec (.attest c) s =
        .next (({ t with hostMem := Mem.writeBytes s.hostMem (c.h.toNat + 64) (body ++ sig) } : State).answer c 0 0)) ∧
      (sig.length ≠ 512 ∨ pssValid Config.identityKey sig body = false → exec (.attest c) s =
        .next { t with accepted := some s.focus.queue })) ∧
    (c.flg = 1 →
      let cert := Config.identityCert.take 4032
      let m := Mem.writeBytes s.hostMem (c.h.toNat + 64) cert
      exec (.attest c) s = .next (({ s with hostMem := m } : State).answer c 0 cert.length))) ∧
  (∀ (s : State) (nonce : List W8), nonce.length = 64 →
    (s.report nonce).take 4 = [1, 0, 0, 0] ∧ ((s.report nonce).drop 16).take 64 = nonce) ∧
  ∀ (s : State) (c : Cmd), c.rsv = 0 → c.flg.toNat < 4 → 1 ≤ c.n.toNat → c.n.toNat ≤ 2 ^ 20 →
    c.a.toNat + c.n.toNat ≤ 2 ^ 25 → 8 ≤ s.focus.queue → s.bootst.toNat.testBit 63 = true ∨ s.focus.queue = 8 →
    let slot := 1 - s.bootst.toNat / 2 ^ 62 % 2
    ∃ f, (∀ i, i < c.n.toNat → SMap.find f (slot * 2 ^ 25 + c.a.toNat + i) = some (Mem.get s.hostMem (c.h.toNat + i))) ∧
      (∀ k, k < slot * 2 ^ 25 + c.a.toNat ∨ slot * 2 ^ 25 + c.a.toNat + c.n.toNat ≤ k → SMap.find f k = SMap.find s.flash k) ∧
      let s' : State := { s with flash := f }
      (c.flg.toNat.testBit 1 = false → exec (.fwupd c) s = .next (s'.answer c 0 0)) ∧
      (c.flg.toNat.testBit 1 = true → if s'.slotFail slot = 0 then ∃ low b, exec (.fwupd c) s =
          .next ((({ s' with minsvn := low, bootst := b } : State).countRecord 12 1).answer c 0 0) ∧
          low = (if c.flg.toNat.testBit 0 = true then max s.minsvn (s'.slotSvn slot) else s.minsvn) ∧
          b.toNat / 2 ^ 61 % 2 = slot ∧ b.toNat / 2 ^ 62 = s.bootst.toNat / 2 ^ 62
        else exec (.fwupd c) s = .next (s'.answer c 8 0))

/-- R9, R420, R421, R425, R426, R434: where a queue's page lies, its registers and what they read as, the doorbell,
the completion and event rings, and one management register: a write of a register marked S by a non-secure queue
changes nothing, and a register takes the bits that its rule names. Of this the model chose, and the manual does not
state: read-only registers, low bits of a base, messages and dropped events, what the completion of INVAL waits for
(assumption log 85, 88, 89, 90, 150). -/
def Obligations.QueuesAndRegisters : Prop :=
  (∀ (s : State) (queue : Nat) (v : W64), queue < 16 → 
    exec (.sqDoorbell queue v) s = .next (s.onQueue queue fun q => { q with sqt := v &&& 0xFFF }) ∧
    exec (.hostQueueRegisterWrite queue 0x28 v) s = .next (s.onQueue queue fun q => { q with cqh := v &&& 0xFFF }) ∧
    exec (.hostQueueRegisterWrite queue 0x30 v) s = .next (s.onQueue queue fun q => { q with eqh := v &&& 0xFFF }) ∧
    ((s.queue queue).qcfg.toNat.testBit 63 = false →
      exec (.hostQueueRegisterWrite queue 0x00 v) s =
        .next (s.onQueue queue fun q => { q with sqb := BitVec.ofNat 64 (v.toNat / 4096 * 4096) }) ∧
      exec (.hostQueueRegisterWrite queue 0x08 v) s = .next (s.onQueue queue fun q => { q with cqb := v }) ∧
      exec (.hostQueueRegisterWrite queue 0x10 v) s = .next (s.onQueue queue fun q => { q with eqb := v }) ∧
      ((∀ k ∈ [36, 40, 44], 4 ≤ v.toNat / 2 ^ k % 16 ∧ v.toNat / 2 ^ k % 16 ≤ 12) →
        exec (.hostQueueRegisterWrite queue 0x18 v) s =
          .next (s.onQueue queue fun q => { q with qcfg := v &&& 0x8000FFF0000007FF }))) ∧
    ((s.queue queue).qcfg.toNat.testBit 63 = true →
      exec (.hostQueueRegisterWrite queue 0x00 v) s = .next (s.onQueue queue id))) ∧
  (∀ (s : State) (function off : Nat), s.hostRead function off = { s with hostReads := s.hostReads ++ [(function, off,
    match hostPage function off with
    | some (k, reg) => (s.queue k).read reg
    | none => 0)] }) ∧
  (∀ function off, hostPage function off =
    if function < 2 ∧ off < 0x8000 then some (8 * function + off / 0x1000, off % 0x1000) else none) ∧
  (∀ q : HostQueue, q.read 0x00 = q.sqb ∧ q.read 0x08 = q.cqb ∧ q.read 0x10 = q.eqb ∧ q.read 0x18 = q.qcfg ∧ q.read 0x20 = 0 ∧
    q.read 0x28 = q.cqh ∧ q.read 0x30 = q.eqh ∧ q.read 0x38 = q.qst ∧ ∀ off, 0x40 ≤ off → q.read off = 0) ∧
  (∀ (s : State) (tag : W32) (st : Nat) (detail : W64) (wait : Option Wait) (rest : List Completion),
    let q := s.queue s.focus.queue
    let k := 2 ^ (q.qcfg.toNat / 2 ^ 40 % 16)
    let tail := q.qst.toNat / 2 ^ 16 % 2 ^ 12
    let stale := fun p => ∃ u ∈ s.units, u.part = p ∧ ∃ i ∈ u.log, i.stale = true
    q.comps = ⟨tag, wait, st, detail⟩ :: rest →
    ((∃ num, wait = some (.migration num)) ∨ (∃ p, wait = some (.inval p) ∧ stale p) → exec .completionWrite s = .next s) ∧
    (wait = none ∨ (∃ p, wait = some (.inval p) ∧ ¬ stale p) → q.qcfg.toNat.testBit 63 = true → st < 256 →
    (tail + k - q.cqh.toNat % k) % k < k - 1 →
    ∃ t, exec .completionWrite s = .next t ∧ t.msix = s.msix ++ [(s.focus.queue / 8, q.qcfg.toNat % 2 ^ 11)] ∧
      t.hostMem = Mem.writeBytes s.hostMem (q.cqb.toNat + 16 * (tail % k))
        (bytesOf 16 (tag.toNat + st * 2 ^ 32 + detail.toNat * 2 ^ 64)) ∧
      t.queue s.focus.queue = { q with comps := rest, qst := qstWord q.sqHead ((tail + 1) % k) q.eqTail q.lost })) ∧
  (∀ (s : State) (w : List W64) (rest : List (List W64)),
    let q := s.queue s.focus.queue
    let k := 2 ^ (q.qcfg.toNat / 2 ^ 36 % 16)
    let tail := q.qst.toNat / 2 ^ 32 % 2 ^ 12
    let full := (tail + k - q.eqh.toNat % k) % k ≥ k - 1
    q.events = w :: rest → q.qcfg.toNat.testBit 63 = true →
    ∃ t, exec .eventWrite s = .next t ∧ t.msix = s.msix ++ [(s.focus.queue / 8, q.qcfg.toNat % 2 ^ 11)] ∧
      t.hostMem = Mem.writeBytes s.hostMem (q.eqb.toNat + 16 * (tail % k))
        (bytesOf 8 (w.getD 0 0).toNat ++ bytesOf 8 (w.getD 1 0).toNat) ∧
      t.queue s.focus.queue = { q with
        events := rest
        eqh := if full then BitVec.ofNat 64 ((q.eqh.toNat + 1) % k) else q.eqh
        qst := qstWord q.sqHead q.cqTail ((tail + 1) % k) (q.lost + if full then 1 else 0) }) ∧
  ∀ (s : State) (queue part : Nat) (v : W64), part < 8 →
    let write : Nat → Out := fun off => exec (.registerWrite queue (BitVec.ofNat 48 (2 ^ 40 + part * 2 ^ 24 + off))
      (v.setWidth 128)) s
    (8 ≤ queue → write 0x050 = .next (s.onPart part fun x => { x with stopbase := v &&& 0x800FFFFFFFFC0000 })) ∧
    (8 ≤ queue → write 0x028 = .next (s.onPart part fun x => { x with ptroot := v &&& 0x800FFFFFFFFFF000 })) ∧
    (8 ≤ queue → (∀ q, q < 8 → q ≠ part → (s.part q).t1 &&& v = 0) →
      write 0x018 = .next (s.onPart part fun x => { x with t1 := v })) ∧
    (8 ≤ queue → (∃ q, q < 8 ∧ q ≠ part ∧ (s.part q).t1 &&& v ≠ 0) → write 0x018 = .next s) ∧
    (queue < 8 → ∀ off ∈ [0x000, 0x008, 0x010, 0x018, 0x020, 0x050, 0x058, 0x060, 0x090, 0x098], write off = .next s) ∧
    (queue < 8 → (s.part part).reg.toNat.testBit 62 = true → write 0x028 = .next s)

/-- R2, R3, R427, R428, R431, R432: the boot ROM runs the slot marked next, else the other, else recovers; once a
millisecond, of at most 2,400 W, the clock step falls by one where the power averaged over the window is above the cap
or at 105 °C, and rises by one below both limits; a thermal trip, the flush of the field records, a shutdown, and a
loss of power, after which nothing but the flash and the fused values stands: tiles, partitions and memory are as at
reset (logs 2, 3), and the loss was abrupt where no shutdown had come. Of this the model chose, and the manual does
not state: the cap with EN = 0, the free current, and SHUTDOWN in one step (assumption log 91, 92, 93, 94). -/
def Obligations.BootAndPower : Prop :=
  (∀ s : State, s.booted = false → ∃ t, exec .boot s = .next t ∧ t.booted = true ∧ t.railsOn = true ∧
    t.tiles = s.tiles ∧
    let next := s.bootst.toNat / 2 ^ 61 % 2
    let b := t.bootst.toNat
    b.testBit 63 = (s.slotFail next == 0 || s.slotFail (1 - next) == 0) ∧
      if s.slotFail next = 0 then b / 2 ^ 62 % 2 = next ∧ b / 2 ^ 48 % 2 ^ 8 = 0
      else if s.slotFail (1 - next) = 0 then b / 2 ^ 62 % 2 = 1 - next ∧ b / 2 ^ 48 % 2 ^ 8 = s.slotFail next
      else True) ∧
  (∀ (s : State) (watts tj : Nat),
    let k := s.pwrst.toNat / 2 ^ 57
    let en := s.pwrcap.toNat.testBit 63
    let cap := s.pwrcap.toNat / 2 ^ 32 % 2 ^ 16
    let power := (watts :: s.power).take 1000
    let seen := power.take (s.pwrcap.toNat % 2 ^ 10)
    (4000000 ≤ s.powerTime → watts ≤ 2400 →
      ∃ t, exec (.clockStepAdjust watts tj) s = .next t ∧ t.tiles = s.tiles ∧ t.pwrcap = s.pwrcap ∧ t.power = power ∧
        t.powerTime = s.powerTime - 4000000 ∧
        t.pwrst.toNat / 2 ^ 57 = (if (en = true ∧ cap * seen.length < seen.sum) ∨ 105 ≤ tj then max 32 (k - 1)
          else if (en = false ∨ 100 * seen.sum < 95 * (cap * seen.length)) ∧ tj < 100 then min 64 (k + 1) else k) ∧
        t.pwrst.toNat / 2 ^ 32 % 2 ^ 16 = seen.sum / seen.length % 2 ^ 16 ∧
        t.pwrst.toNat / 2 ^ 16 % 2 ^ 8 = min tj 255 ∧ t.thermtrip = (s.thermtrip || decide (120 ≤ tj))) ∧
    (s.powerTime < 4000000 ∨ 2400 < watts → exec (.clockStepAdjust watts tj) s = .next s)) ∧
  (∀ (s : State) (tj : Nat), (120 ≤ tj → s.thermtrip = false →
    exec (.thermtrip tj) s = .next (({ s with thermtrip := true } : State).countRecord 9 1)) ∧
    (tj < 120 → exec (.thermtrip tj) s = .next s)) ∧
  (∀ s : State,
    let t : State := { s with flushed := s.records, flushedAcc := s.recAcc, flushedAt := s.ptc }
    (4 * 600000000000 ≤ (s.ptc - s.flushedAt).toNat → exec .fieldRecordFlush s = .next t) ∧
    exec .shutdown s = .next { t with safePin := true }) ∧
  ∀ (s : State) (thermal : Bool), ∃ t, exec (.powerLoss thermal) s = .next t ∧ t.railsOn = false ∧ t.booted = false ∧
    t.tiles = [] ∧ t.mem0 = [] ∧ t.mem1 = [] ∧ t.mem2 = [] ∧ t.units = [] ∧ t.parts = [] ∧ t.routers = [] ∧
    t.flash = s.flash ∧ t.minsvn = s.minsvn ∧ t.flushed = s.flushed ∧ t.flushedAcc = s.flushedAcc ∧
    (t.abrupt = true ↔ s.safePin = false) ∧
    t.bootst.toNat / 2 ^ 61 % 2 = s.bootst.toNat / 2 ^ 61 % 2 ∧ t.bootst.toNat.testBit 63 = false

end
end

