-- ==== Sys2Proof/Laws/Hurdles.lean ====
section
/-! SUPPORT. Hurdles (R123, R124): sorting loses nothing, and what becomes of the arrivals at a home, said once. -/

namespace Sys2Proof.Laws

open Sys2Proof.Machine

theorem insertBy_length {α : Type} (le : α → α → Bool) (x : α) (l : List α) : (insertBy le x l).length = l.length + 1 := by
  induction l with
  | nil => rfl
  | cons y l ih => unfold insertBy; split <;> simp [ih]

theorem sortBy_length {α : Type} (le : α → α → Bool) (l : List α) : (sortBy le l).length = l.length := by
  induction l with
  | nil => rfl
  | cons x l ih => simpa [sortBy, insertBy_length] using ih

/-- No arrival is lost: each that waited at the home or has come counts or is held. -/
theorem arrive_counts (h : Home) (target lr : Nat) :
    (h.arrive target lr).counted.length + (h.arrive target lr).held.length =
      h.counted.length + h.held.length + h.transit.length := by
  simp only [Home.arrive, List.length_append, List.length_map, List.length_take, List.length_drop, sortBy_length]
  omega

end Sys2Proof.Laws
end

