-- ==== Sys2Proof/Laws/Units.lean ====
section
/-! SUPPORT. Landings of one clk (R29), units and their status writes (R315, R316), and what a requester waits for (R279),
each said once. -/

namespace Sys2Proof.Laws
open Sys2Proof.Machine

/-! ## Landings of one clk (R29) -/

@[simp] theorem landAll_nil (t : Tile) : t.landAll [] = t := rfl

/-- A result whose register no later-issued one takes lands. -/
theorem landAll_kept (t : Tile) (f : Flight) (l : List Flight) (h : ∀ g ∈ l, f.tgt.lostTo g.tgt = false) :
    t.landAll (f :: l) = (t.land f.tgt).landAll l := by
  rw [Tile.landAll, if_neg]
  simpa using h

/-- A result whose register a later-issued one takes is lost. -/
theorem landAll_lost (t : Tile) {f g : Flight} {l : List Flight} (hg : g ∈ l) (h : f.tgt.lostTo g.tgt = true) :
    t.landAll (f :: l) = (t.landLost f.tgt).landAll l := by
  rw [Tile.landAll, if_pos]
  exact List.any_eq_true.mpr ⟨g, hg, h⟩

/-- Where no register is named twice, every result lands, in issue order. -/
theorem landAll_all {l : List Flight} (t : Tile) (h : l.Pairwise fun f g => f.tgt.lostTo g.tgt = false) :
    t.landAll l = l.foldl (fun t f => t.land f.tgt) t := by
  induction l generalizing t with
  | nil => rfl
  | cons f l ih =>
    rw [List.pairwise_cons] at h
    rw [landAll_kept t f l h.1, ih _ h.2, List.foldl_cons]

/-! ## Units -/

@[simp] theorem onUnit_tiles (s : State) (p l i : Nat) (f : WorkUnit → WorkUnit) : (s.onUnit p l i f).tiles = s.tiles := rfl
@[simp] theorem onUnit_parts (s : State) (p l i : Nat) (f : WorkUnit → WorkUnit) : (s.onUnit p l i f).parts = s.parts := rfl
@[simp] theorem onUnit_focus (s : State) (p l i : Nat) (f : WorkUnit → WorkUnit) : (s.onUnit p l i f).focus = s.focus := rfl

/-- A change of a unit that keeps its names and its end is seen at that unit alone. -/
theorem onUnit_unit (s : State) (p l i : Nat) (f : WorkUnit → WorkUnit) (hf : ∀ u a b, (f u).is p a b = u.is p a b) (a b : Nat) :
    (s.onUnit p l i f).unit p a b = (s.unit p a b).map fun u => if u.is p l i then f u else u := by
  unfold State.unit State.onUnit
  rw [List.find?_map]
  congr 2
  funext u
  simp only [Function.comp]
  split
  · exact hf u a b
  · rfl

@[simp] theorem countForced_tiles (s : State) (r : Residence) : (s.countForced r).tiles = s.tiles := by
  unfold State.countForced; cases s.unit r.part 0 r.lid <;> rfl
@[simp] theorem countForced_focus (s : State) (r : Residence) : (s.countForced r).focus = s.focus := by
  unfold State.countForced; cases s.unit r.part 0 r.lid <;> rfl
@[simp] theorem countForced_parts (s : State) (r : Residence) : (s.countForced r).parts = s.parts := by
  unfold State.countForced; cases s.unit r.part 0 r.lid <;> rfl

@[simp] theorem countError_false (s : State) : s.countError false = s := rfl
@[simp] theorem countError_tiles (s : State) (met : Bool) : (s.countError met).tiles = s.tiles := by cases met <;> rfl
@[simp] theorem countError_parts (s : State) (met : Bool) : (s.countError met).parts = s.parts := by cases met <;> rfl
@[simp] theorem countError_units (s : State) (met : Bool) : (s.countError met).units = s.units := by cases met <;> rfl

/-- A status or log write changes no tile and no unit, and no other partition (R315, R316, R343). -/
theorem vwrite_frame (s : State) (p : Nat) (secure : Bool) (va : Nat) (l : List W8) :
    (s.vwrite p secure va l).tiles = s.tiles ∧ (s.vwrite p secure va l).units = s.units ∧
    (s.vwrite p secure va l).focus = s.focus ∧ ∀ q, q ≠ p → (s.vwrite p secure va l).part q = s.part q := by
  have halts : ∀ cause, (raiseHalt s p cause 10 0).tiles = s.tiles ∧ (raiseHalt s p cause 10 0).units = s.units ∧
      (raiseHalt s p cause 10 0).focus = s.focus ∧ ∀ q, q ≠ p → (raiseHalt s p cause 10 0).part q = s.part q := by
    intro cause
    obtain ⟨h, -, hq⟩ := raiseHalt_does s p cause 10 0
    exact ⟨by rw [h], by rw [h], by rw [h], hq⟩
  unfold State.vwrite
  split
  · cases s.walkBad p va <;> exact ⟨rfl, rfl, rfl, fun _ _ => rfl⟩
  · dsimp only
    split
    · exact halts _
    · split
      · exact halts _
      · refine ⟨?_, ?_, ?_, fun q _ => ?_⟩ <;> simp only [State.pwriteBytes, State.setTier, State.part] <;> split <;> rfl

/-! ## Walks -/

@[simp] theorem tookWalks_tiles (s : State) (who : Nat) : (s.tookWalks who).tiles = s.tiles := rfl
@[simp] theorem tookWalks_parts (s : State) (who : Nat) : (s.tookWalks who).parts = s.parts := rfl
@[simp] theorem tookWalks_units (s : State) (who : Nat) : (s.tookWalks who).units = s.units := rfl
@[simp] theorem leaveWalks_tiles (s : State) (who : Nat) : (s.leaveWalks who).tiles = s.tiles := by simp only [State.leaveWalks, tookWalks_tiles]
@[simp] theorem leaveWalks_parts (s : State) (who : Nat) : (s.leaveWalks who).parts = s.parts := by simp only [State.leaveWalks, tookWalks_parts]
@[simp] theorem leaveWalks_units (s : State) (who : Nat) : (s.leaveWalks who).units = s.units := by simp only [State.leaveWalks, tookWalks_units]
@[simp] theorem newTask_tiles (s : State) (tid : Nat) : (s.newTask tid).tiles = s.tiles := by simp only [State.newTask, leaveWalks_tiles]
@[simp] theorem newTask_parts (s : State) (tid : Nat) : (s.newTask tid).parts = s.parts := by simp only [State.newTask, leaveWalks_parts]
@[simp] theorem newTask_units (s : State) (tid : Nat) : (s.newTask tid).units = s.units := by simp only [State.newTask, leaveWalks_units]

end Sys2Proof.Laws
end

