-- ==== Sys2Proof/Tests/Slice0.lean ====
section
/-! SUPPORT. The model's own tests: words of the manual and what they decode to, worked values of the manual, terms that
the well-formedness checks refuse, and for every statement a concrete state and operands that meet its hypotheses. -/

namespace Sys2Proof.Tests

open Sys2Proof Sys2Proof.Machine

set_option Elab.async false

/-! ## Small states -/

/-- Tile 0 with a task alone in it, its strands standing, changed by `f`; the focus is on its C strand. -/
def onTile0 (f : Tile → Tile) : State :=
  { State.reset with tiles := [(0, f (Tile.reset.withWord .c (2 ^ 63)))] }
/-- The same with the focus on a strand. -/
def standing (st : Strand) (f : Tile → Tile) : State :=
  { onTile0 f with focus := { Focus.reset with strand := st } }
theorem unfaulted_of (s : State) (h : s.me.stops = []) : s.unfaulted := fun r g => by rw [h] at g; cases g
theorem alone (st : Strand) (f : Tile → Tile) : Alone (standing st f) st := ⟨rfl, rfl, rfl⟩

/-! ## Words of the manual

Each word is written out in spec/ beside the instruction it stands for, or is formed from the bit positions of R77 to
R102 as the comment says. -/

/-- R72: the instruction of a word, if the strand's map and the checks accept it. -/
def reads (st : Strand) (w : Nat) (sync : Bool) (delay : BitVec 3) (i : Instr) : Bool :=
  decodeSlot st w == .ok ⟨sync, delay, i⟩
/-- 03_encodings.md, the example under R79; div from its OP 0x12 and the places of R77; 04_control_strand.md, the loopr
under R114. -/
theorem test_decode_control :
    reads .c 0x3100145180000000 false 3 (.add 5 5 6) = true ∧ reads .c 0x02401020C0000000 false 0 (.div false 4 2 3) = true ∧
    reads .c 0x86A00001C01FFFFB true 0 (.loopr 7 0x1FFFFB) = true := by decide +kernel
/-- phint and shret from their OPs of R78 and the places of R77. -/
theorem test_decode_hint_and_shadow :
    reads .c 0x0B00000000010023 false 0 (.phint 0x10023) = true ∧ reads .c 0x0C40000000000000 false 0 .shret = true := by
  decide +kernel
/-- 03_encodings.md, the examples under R86; 05_vector_strand.md, those under R162, R163 and R169. -/
theorem test_decode_vector :
    reads .v 0x817C050008200000 true 0 (.vfma ⟨2, 64, 1, 2, 0, false, 0⟩ 7) = true ∧
    reads .v 0x0804142858B00000 false 0 (.vbstep ⟨10, 10, 11, 11, 0, false, 0⟩ 1 0 false) = true ∧
    reads .v 0x0908A0000C200000 false 0 (.vcmp ⟨20, 0, 0, 3, 4, 0, false, 0, 0, 0⟩ 2) = true ∧
    reads .v 0x0080034500000000 false 0 (.pblk 3 2 5) = true := by decide +kernel
/-- 06_data_strand.md, the examples under R172. -/
theorem test_decode_data :
    reads .d 0x0160301000000010 false 0 (.srd 3 4 16) = true ∧ reads .d 0x0180801800000000 false 0 (.swr 8 6 0) = true ∧
    reads .d 0x0400209000000040 false 0 (.afadd false 8 9 64) = true ∧ reads .d 0x0600000000000000 false 0 .mark = true ∧
    reads .d 0x0626000000000000 false 0 (.fence 1 true) = true := by decide +kernel
/-- 07_engine_strand.md, the examples under R210, R214 and R215; 13_expert_routing.md, under R362. -/
theorem test_decode_engine :
    reads .e 0x0100870000000000 false 0 (.post 2 7) = true ∧ reads .e 0x0120080000000000 false 0 (.tadv 0 8) = true ∧
    reads .e 0x0160090000000000 false 0 (.cwait 0 9) = true ∧
    reads .e 0x0201001231051000 false 0 (.fsend true 0x123 4 5 2) = true ∧
    reads .e 0x0300105186000000 false 0 (.aqry 4 5 6 3) = true ∧
    reads .e 0x0321105182000000 false 0 (.topk 1 4 5 6 1) = true ∧
    reads .e 0x0340147006000000 false 0 (.kvtrunc 5 7 3) = true := by decide +kernel
/-- A number of 64-bit words, the first the lowest. -/
def words : List Nat → Nat
  | [] => 0
  | w :: l => w + 2 ^ 64 * words l
/-- 03_encodings.md, the record of the example under R99, and its fields as the text there names them. -/
def recordR99 : Nat :=
  words [0x001DC90000210010, 0x0001001001004000, 0, 0x0000000100000000, 0, 2, 0, 0]
theorem test_decode_record :
    decodeRecord recordR99 = some (.mma ⟨0, 1, 2, 0, 4, 1, 1, 1, 0x1DC90, 1, 1, 0, 0, 0, 0⟩) ∧
    (∀ i, decodeRecord recordR99 = some i → i.wellFormed = true) := by decide +kernel
/-- 08_network_program.md, tile 1's entry of the four-tile sum. -/
def entrySum : Nat := words [0xFF42150003800020, 0x000011000000000F, 0x1000, 0]
theorem test_decode_flow :
    decodeFlow entrySum =
      some (.sum ⟨0, 0, 0, 0x4000, 0, 1, 1, 0, 0, false, 0, 0x1FFE84, 0x15, 0, false, 0, true, 0, 0x20⟩) ∧
    (∀ i, decodeFlow entrySum = some i → i.wellFormed = true) := by decide +kernel
/-- 17_system.md, the example under R424: word 0 of a submission. -/
theorem test_decode_command :
    decodeCmd (words [0x0000001100000001, 0x40000, 0x1000, 0x1000, 0, 0, 0, 0]) =
      some (.hwrite ⟨0, 0, 0x11, 0x40000, 0x1000, 0x1000, 0⟩) ∧
    (decodeCmd (words [0x0000001200000003, 0, 0, 0, 0, 0, 0, 0])).isSome = true := by decide +kernel
/-- R71, R72, R97, R102, R422: an unassigned opcode, a MOD bit that add does not use, a pblk with kp = 0, a read stream
number that srd does not take, an unassigned record op, flow op and command. -/
theorem test_decode_refuses :
    decodeSlot .c 0x0FE0000000000000 = .error .unassigned ∧ decodeSlot .c 0x0101145180000000 = .error .reservedBits ∧
    decodeSlot .v 0x0080034000000000 = .error .fieldValue ∧ decodeSlot .d 0x0160801000000010 = .error .fieldValue ∧
    decodeRecord 0x18 = none ∧ decodeFlow 0x10000000 = none ∧ decodeCmd 0x0C = none := by decide +kernel

/-! ## Ill-formed terms

One term for each check of Sys2Proof/WellFormed.lean; the check refuses it. -/

def refusedAll (l : List Instr) : Bool := l.all fun i => !i.wellFormed
/-- R79, R110, R115 to R138: a reserved condition, width or kind, a shift by the width, a queue, slot, register or
number out of range, csrs of SPOOR. -/
theorem test_illFormed_control :
    refusedAll [.cmp 6 1 2 3, .cmpi 7 1 2 0, .bc 6 1 2 0, .ext false 3 1 2, .bitc 3 1 2, .shli 1 2 64, .shri 1 2 64,
      .srai 1 2 64, .pop 1 14, .push 1 15, .qlen 1 11, .rdfs 1 4, .csrr 1 3, .csrw 0x15 1, .csrs 0x10 1, .csrc 0x23 1,
      .btr 1 16, .btw 16 1, .lcw 0 8 1, .harr 128, .hwt 128, .hset 128 1, .hpoll 1 128, .fcrd 1 32, .fcw 32 1,
      .fcwt 32 1, .shi 1 8] = true := by decide +kernel
/-- A plain format VR operand: vd v1, sources v2, v3, v4. -/
def vr : VOps := ⟨1, 2, 3, 4, 0, false, 0⟩
def vr2 : VOps := { vr with vc := 0 }
def vr1 : VOps := { vr2 with vb := 0 }
/-- R80 to R83, R86: a source that is a destination only and the reverse, an unused source that is not zero, kg = 0 with
KN, a scalar no source names, a rounding field of 5, a pattern bit past the count, kp = 0. -/
theorem test_illFormed_vector :
    refusedAll [.vadd { vr2 with va := 72 } 0, .vadd { vr2 with vd := 64 } 0, .vadd { vr2 with vb := 77 } 0, .vadd vr 0,
      .vadd { vr2 with kn := true } 0, .vadd { vr2 with ss := 5 } 0, .vadd vr2 5, .vfma { vr with vc := 127 } 0,
      .vmax { vr2 with vd := 76 }, .vabs vr2, .vexp2 vr1 6, .vrcpe vr2, .vrcpn vr, .pblk 4 1 3, .pblk 3 1 0] = true := by
  decide +kernel
/-- R82, R152 to R162: a reserved lane type or kind, a narrow type where a wide one stands, a format vcvt does not
take, X beside bf16, a part bf16 lacks, sources of vbstep that are alike, a block of 2^0 or 2^7 and a distance not
below it. -/
theorem test_illFormed_vector_types :
    refusedAll [.viadd vr2 3, .visra vr2 7, .viabs vr1 3, .viota { vr1 with va := 0 } 1 0, .viota { vr1 with va := 0 } 0 3,
      .vcvt vr1 0 0 false false, .vcvt vr1 0 1 true false, .vcvt vr1 5 1 false false, .vwid vr1 2 1 false,
      .vwid vr1 0 3 false, .vcvti vr1 0 1, .vcvtf vr1 0 5, .vicvt vr1 1 2 false, .vicvt vr1 3 0 false, .vrrot vr2,
      .vrred vr1 3, .vbstep { vr with vc := 1 } 1 0 false, .vbstep vr 0 0 false, .vbstep vr 7 0 false,
      .vbstep vr 2 2 false, .vbstep { vr with va := 76 } 1 0 false] = true := by decide +kernel
def vp : VPOps := ⟨1, 0, 0, 2, 3, 0, false, 0, 0, 0⟩
def vpk : VPOps := ⟨1, 2, 3, 0, 0, 0, false, 0, 0, 0⟩
def va0 : VAOps := ⟨1, 0, 0, 0, false, 0⟩
/-- R163 to R166: k0 as a destination, predicate sources of a comparison, an unsigned condition on a signed type,
vector sources of a predicate form, a lane type of one, a queue source to an accumulator. -/
theorem test_illFormed_predicates :
    refusedAll [.vcmp { vp with kd := 0 } 0, .vcmp { vp with ka := 1 } 0, .vcmp { vp with lt := 1 } 0, .vcmp { vp with fs := 1 } 0,
      .vicmp { vp with lt := 1 } 0, .vicmp vp 6, .vicmp vp 4, .vicmp { vp with lt := 4 } 2, .kand { vpk with kd := 0 },
      .kand { vpk with va := 1 }, .kand { vpk with lt := 1 }, .knot vpk, .kset { vpk with ka := 0, kb := 0 } 3, .ptest vp,
      .vacrr { va0 with v := 64 }, .vacrw { va0 with v := 72 }, .vacrr { va0 with ss := 1 }, .vacsr va0 3, .vacsw va0 2] = true := by
  decide +kernel
/-- R88, R89, R173 to R200: streams and fields that are not, a read stream written and the reverse, the reserved lds,
scopes 5 to 7. -/
theorem test_illFormed_data :
    refusedAll [.stset 12 0 1, .stset 0 6 1, .stld 12 1, .stsv 12 1, .sstop 12, .srd 8 1 0, .swr 7 1 0, .swr 12 1 0,
      .lds true 3 false 1 0, .rgset 0 8 1, .rgrd false 0 11, .fence 5 false, .xfence 7] = true := by decide +kernel
/-- A matrix record that passes every check, an operand at a time made wrong. -/
def recM : Rec := ⟨0, 1, 2, 0, 4, 1, 1, 1, 0, 1, 1, 0, 0, 0, 0⟩
def recCopy0 : Rec := { recM with od2 := 0, fmt0 := 0, fmt1 := 0 }
theorem test_wellFormed_records : ([.mma recM, .copy recCopy0] : List Instr).all Instr.wellFormed = true := by decide +kernel
/-- R98: reserved bits, a count register past lc7, a flag not allowed, RM 5, TS without a stamp, a stamp outside the
MX, X without binary8, a unit number past 7, a descriptor marked "—", a format not taken, a list with strides, a link
past 64 bits. -/
theorem test_illFormed_records :
    refusedAll [.mma { recM with rsv := 1 }, .mma { recM with trip1 := 0x808 }, .mma { recM with fl := 0x10 },
      .smxf { recM with od1 := 0, fmt0 := 0, fmt1 := 0, fl := 5 }, .mma { recM with fl := 0x80 }, .copy { recCopy0 with stamp := 1 },
      .mma { recM with fl := 0x20 }, .mma { recM with od0 := 8 }, .mma { recM with od3 := 1 }, .mma { recM with fmt0 := 3 },
      .gath { recCopy0 with od2 := 0x100000000, fmt2 := 3 }, .linkRecord { recCopy0 with od0 := 0x10000000000000000, od1 := 0 },
      .nil { recCopy0 with od0 := 1, od1 := 0 }] = true := by decide +kernel
/-- The same for the other records: what each does not take. -/
theorem test_illFormed_records_each :
    refusedAll [.mmai { recM with fmt3 := 0 }, .smxu { recM with fmt1 := 0, fmt0 := 0 }, .smxm recM, .acld { recM with od1 := 1 },
      .acst { recM with fmt2 := 3, fmt0 := 0, fmt1 := 0, od1 := 0 }, .aczr recM, .qscl { recCopy0 with fmt1 := 1, fmt2 := 20 },
      .qpak { recCopy0 with fmt1 := 8, fmt3 := 19 }, .qdeq { recCopy0 with fmt0 := 1, fmt3 := 20 }, .qcvt { recCopy0 with fmt0 := 3 },
      .qamx { recCopy0 with fmt1 := 1 }, .scat { recCopy0 with fmt2 := 2 }, .fill { recCopy0 with od0 := 0x100000000 },
      .fsnd { recCopy0 with od1 := 0 }, .fsnd { recCopy0 with od1 := 0x14000000 }, .fsig { recCopy0 with od0 := 0, od1 := 0x4000000 },
      .fdrp { recCopy0 with od0 := 0, od1 := 0x20000000 }] = true := by decide +kernel
/-- The entry of the four-tile sum. -/
def sum0 : FlowEntry := ⟨0, 0, 0, 0x4000, 0, 1, 1, 0, 0, false, 0, 0x1FFE84, 0x15, 0, false, 0, true, 0, 0x20⟩
def fwd0 : FlowEntry := ⟨0, 0, 0, 0, 2, 1, 0, 0, 0, false, 4, 0x1FFFFF, 1, 0, false, 0, true, 0, 0x20⟩
theorem test_wellFormed_flows :
    ([.sum sum0, .fwd fwd0, .fwd { fwd0 with v := false, fmt := 31 }] : List Instr).all Instr.wellFormed = true := by
  decide +kernel
/-- R103, R247, R250: reserved bits, a format not taken, DWIN 3, an address outside its window or not aligned, an order
that lists a port twice or not at all, an order where none is used, slots past 256, slots where none is used or too
few, the local tile as an output, a counter without a delivery, a new name without REN, AUX where none is used. -/
theorem test_illFormed_flows :
    refusedAll [.sum { sum0 with rsvHi := 1 }, .sum { sum0 with rsv := 1 }, .sum { sum0 with v := false, rsv := 2 },
      .sum { sum0 with fmt := 4 }, .sum { sum0 with dwin := 3 }, .sum { sum0 with daddr := 0x200000 }, .sum { sum0 with daddr := 8 },
      .sum { sum0 with ord := 0x1FFE24 }, .sum { sum0 with ord := 0x1FFFC4 }, .fwd { fwd0 with ord := 0x1FFFF8 },
      .sum { sum0 with slot := 255 }, .fwd { fwd0 with slot := 1 }, .sum { sum0 with nslot := 0 }, .fwd { fwd0 with opm := 1 },
      .fwd { fwd0 with fc := 1 }, .fwd { fwd0 with nfid := 1 }, .sum { sum0 with aux := 1 }] = true := by decide +kernel
/-- The ports and windows of each op: fwd to two ports, dup to one, trn of none or of more packets than slots, hold
with AUX 2, deliveries that leave or go nowhere, a drop that delivers. -/
theorem test_illFormed_flows_each :
    refusedAll [.fwd { fwd0 with opm := 6 }, .dup fwd0, .trn { fwd0 with npkt := 0 }, .trn { fwd0 with npkt := 2 },
      .hold { fwd0 with aux := 2 }, .deliver { fwd0 with opm := 0 }, .deliver { fwd0 with dwin := 0 }, .fadd { fwd0 with opm := 0 },
      .iadd { fwd0 with dwin := 0, opm := 0 }, .drop { fwd0 with opm := 0, dwin := 0 }, .merge { sum0 with fmt := 1 },
      .flowOr sum0, .scan { sum0 with aux := 3 }, .wsum { sum0 with fmt := 2 }] = true := by decide +kernel

/-! ## Worked values of the manual -/

/-- The conversion of an f32 in mode RNE, its flags as one number. -/
def cv (fmt : Nat) (x sat : Bool) (w : W32) : Nat × Nat := let r := conv fmt 0 x sat 0#32 (ofF32 w); (r.1, r.2.toNat)
/-- 02_number_formats.md, the table under R59 (f4 is 8, b8p4 12, b8n4 19, i8 5, f16 2, bf16 1). -/
theorem test_convert_narrow :
    cv 8 false false 0x40200000 = (4, 0x10) ∧ cv 8 false false 0x40A00000 = (6, 0x10) ∧ cv 8 false false 0x40E00000 = (7, 0x14) ∧
    cv 8 false false 0xBE800000 = (8, 0x18) ∧ cv 12 false false 0x43960000 = (0x7F, 0x14) ∧
    cv 12 true false 0x43960000 = (0x7F, 0x14) ∧ cv 12 true true 0x43960000 = (0x7E, 0x14) ∧
    cv 12 false false 0x3E99999A = (0x32, 0x10) ∧ cv 12 false false 0xBE99999A = (0xB2, 0x10) ∧
    cv 12 false false 0x3A83126F = (1, 0x18) := by decide +kernel
theorem test_convert_other :
    cv 19 false false 0x447A0000 = (0xD0, 0x10) ∧ cv 19 false false 0xBF800000 = (0, 0x40) ∧ cv 5 false false 0x3FC00000 = (2, 0x10) ∧
    cv 5 false false 0xC348B333 = (0x80, 0x01) ∧ cv 2 false false 0x4788B800 = (0x7C00, 0x14) ∧
    (conv 2 1 false false 0#32 (ofF32 0x4788B800)).1 = 0x7BFF ∧ cv 1 false false 0x3F808000 = (0x3F80, 0x10) := by
  decide +kernel
/-- 02_number_formats.md, the example under R54: b8p4 0x32, 0x7E, 0x7F. -/
theorem test_widen_b8p4 :
    (widenLane 12 false 127 0x32).1 = 0x3EA00000#32 ∧ (widenLane 12 true 127 0x7E).1 = 0x43600000#32 ∧
    (widenLane 12 false 127 0x7F).1 = 0x43700000#32 ∧ (widenLane 12 true 127 0x7F).1 = pinf32 := by decide +kernel
/-- 02_number_formats.md, the example under R61: the scale codes of a block whose amax is 15, and its elements. -/
theorem test_block_scales :
    blockScale false 8 [ofF32 0x41700000, ofF32 0x40A00000, ofF32 0xBF800000] = 0x80 ∧
    blockScale true 8 [ofF32 0x41700000, ofF32 0x40A00000, ofF32 0xBF800000] = 0x81 ∧
    (convBlock 8 0 0#32 0x80 (ofF32 0x41700000)).1 = 7 ∧ (convBlock 8 0 0#32 0x81 (ofF32 0x40A00000)).1 = 2 ∧
    convBlock 8 0 0#32 0x80 (ofF32 0xBF800000) = (9, f0) := by decide +kernel
/-- 04_control_strand.md, the example under R118. -/
theorem test_rand : splitMix 0 0 = 0xE220A8397B1DCDAF#64 ∧ uniform32 (splitMix 0 0) = 0x3F6220A8#64 := by decide +kernel
/-- 04_control_strand.md, the table under R114: the four passes of a two-stage loop. -/
theorem test_loop_words :
    loopWord 0x200000002#64 = 0x200000001#64 ∧ loopWord 0x200000001#64 = 0x200000000#64 ∧
    loopWord 0x200000000#64 = 0x100000000#64 ∧ loopWord 0x100000000#64 = 0#64 ∧
    (loopNext 0x200000001#64).stage = true ∧ (loopNext 0x200000000#64).stage = false ∧
    (loopNext 0x200000000#64).taken = true ∧ (loopNext 0x100000000#64).taken = false := by decide +kernel
/-- 05_vector_strand.md, the example under R151: 1/3 estimated and refined, NX raised by the second alone. -/
theorem test_reciprocal :
    rcpe 0x40400000#32 = (0x3EAAB000#32, f0) ∧ newton false 0x40400000#32 0x3EAAB000#32 = (0x3EAAAAAA#32, fNX) := by
  decide +kernel
/-- 05_vector_strand.md, the example under R161: a row of 1.0, 2^24 and 1.0. -/
def sumRow : List W32 := [0x3F800000, 0x4B800000, 0x3F800000] ++ List.replicate 61 0
theorem test_scan_and_reduce :
    (scan32 (reduceOp 0) sumRow).1.take 3 = [0x3F800000#32, 0x4B800000#32, 0x4B800000#32] ∧ (scan32 (reduceOp 0) sumRow).2 = fNX ∧
    reduceLine 0 sumRow = (0x4B800000#32, fNX) := by decide +kernel
/-- 05_vector_strand.md, the example under R162. -/
theorem test_bitonic :
    (bitonicRow 1 0 false (List.zip [0x40400000, 0x3F800000, 0x40800000, 0x3F800000, 0x40A00000, 0x41100000, 0x40000000, 0x40C00000]
      [0, 1, 2, 3, 4, 5, 6, 7])).take 8 =
    List.zip [0x3F800000, 0x40400000, 0x40800000, 0x3F800000, 0x40A00000, 0x41100000, 0x40C00000, 0x40000000] [1, 0, 2, 3, 4, 5, 7, 6] := by
  decide +kernel
/-- 07_engine_strand.md, the example under R225, and the quotient that smxf writes. -/
theorem test_merge :
    (mergeTriple ⟨0x40400000, 0x40000000, [0x40800000]⟩ ⟨0x3F800000, 0x41000000, [0x41800000]⟩).1 =
      ⟨0x40400000, 0x40800000, [0x41000000]⟩ ∧
    (quot 0 0 false false 0#32 0x41000000 0x40800000).1 = 0x40000000 := by decide +kernel
/-- 08_network_program.md, the four-tile sum: element 0 adds exactly, a NaN and inf − inf are the canonical NaN. -/
theorem test_flow_sum_values :
    (treeSum [0x3F800000, 0x4B800000]).1 = 0x4B800000#32 ∧ (treeSum [0x40000000, 0x4B800000]).1 = 0x4B800001#32 ∧
    (treeSum [0x7FA00000, 0x3F800000]).1 = nan32 ∧ (treeSum [0x7F800000, 0xFF800000]).1 = nan32 := by decide +kernel
/-- 09_memory.md, the example under R275: a 2 MiB read-write page. -/
theorem test_page_entry :
    let e := 0x9C00000100200000
    pteValid e = true ∧ pteTable e = false ∧ pteSz e = 1 ∧ pteRd e = true ∧ pteWr e = true ∧ pteS e = false ∧ pteTier e = 0 ∧
    ptePa e = 0x100200000 ∧ pteMalformed e = false := by decide +kernel
/-- 10_attention_die.md, the example under R298: two pages of package 5. -/
theorem test_first_stage_entries :
    fePkg 0x0150000120080000 = 5 ∧ feTier 0x0150000120080000 = 1 ∧ feGbn 0x0150000120080000 = 0x1200 ∧
    feVcnt 0x0150000120080000 = 64 ∧ fePkg 0x016000012010C000 = 5 ∧ feTier 0x016000012010C000 = 2 ∧
    feGbn 0x016000012010C000 = 0x1201 ∧ feVcnt 0x016000012010C000 = 6 := by decide +kernel
/-- 13_expert_routing.md, the example under R365: two tokens over six experts. -/
theorem test_topk :
    (tokenResult 2 [0x3F800000, 0x40400000, 0x40000000, 0x40400000, 0xFF800000, 0x7FC00000]).1.take 16 =
      bytesOf 8 0x3F00000000000001 ++ bytesOf 8 0x3F00000000000003 ∧
    (tokenResult 2 [0, 0x80000000, 0x3F800000, 0xBF800000, 0, 0x40000000]).1.take 16 =
      bytesOf 8 0x3F2AAAAB00000005 ++ bytesOf 8 0x3EAAAAAB00000002 ∧
    (tokenResult 2 [0, 0x80000000, 0x3F800000, 0xBF800000, 0, 0x40000000]).2 = false := by decide +kernel

/-! ## A step runs the placed instruction -/

/-- The state a step answers, if it goes on. -/
def stepped (s : State) : Option State :=
  match step s with
  | .next t => some t
  | _ => none
/-- A slot word: the C strand issues the add and stands at the next word. -/
theorem test_step_slot :
    (stepped (State.reset.withFetchWord 64 0x0100145180000000)).map (fun t => ((t.tile 0).sc.pc, (t.tile 0).flight.length)) =
      some (8#21, 1) := by decide +kernel
/-- A record: nil retires and its completion sequence number is counted (R208, R216). -/
theorem test_step_record :
    (stepped (State.reset.withFetchWord 512 (words [0x02, 0x0001001001001000, 0, 0, 0, 0, 0, 0]))).map (fun t => ((t.tile 0).eng 0).csn) =
      some 1#32 := by decide +kernel
/-- A flow entry: the packet from the local tile waits in a slot for its partners (R249). -/
theorem test_step_flow :
    (stepped (State.reset.withFetchWord 256 entrySum)).map (fun t => ((t.router 0).entries.map fun x => x.held.length)) =
      some [1] := by decide +kernel

/-! ## Statements over words and numbers -/

theorem witness_RegistersAreNamedThroughTheirBases :
    (standing .v id).me.span = none ∧ physV 31 63 = 62 ∧ physV 31 31 = 31 ∧ physK 15 31 = 30 ∧ physK 15 15 = 15 := by
  decide +kernel
theorem witness_EveryEncodingDecodesToItsInstruction :
    (Instr.add 5 5 6).wellFormed = true ∧ encodeSlot .c ⟨false, 3, .add 5 5 6⟩ = some 0x3100145180000000 ∧
    encodeRecord (.mma { recM with stamp := 0x1DC90 }) = some recordR99 ∧ encodeFlow (.sum sum0) = some entrySum ∧
    encodeCmd (.hwrite ⟨0, 0, 0x11, 0, 0, 0, 0⟩) = some 0x0000001100000001 := by decide +kernel
theorem witness_TheDecoderReadsNothingElse :
    decodeSlot .c 0x3100145180000000 = .ok ⟨false, 3, .add 5 5 6⟩ ∧ (Instr.add 5 5 6).wellFormed = true := by decide +kernel
theorem witness_TopkSelectsTheGreatestLogits :
    2 ≤ ([0x3F800000, 0x40400000, 0x7FC00000] : List W32).length ∧ isNan32 0x3F800000#32 = false ∧ isNan32 0x7FC00000#32 = true ∧
    selectTop 2 [0x3F800000, 0x40400000, 0x7FC00000] = [(0x40400000, 1), (0x3F800000, 0)] ∧
    ([0xFF800000, 0xFF800000] : List W32).all (· == ninf32) = true := by decide +kernel


/-! ## The C strand -/

/-- Scalar registers: 1 a negative number, 2 minus three, 3 a word address, 4 a loop trip with EC 2, 5 one with EC 1, 6
one with LC 1, 7 an aligned private pointer, 8 forty, 9 an address past the code region that is no multiple of 8, 10 one
in the last seven bytes of the region. -/
def scalars : SMap W64 :=
  [(1, 0x8000000000000005#64), (2, 0xFFFFFFFFFFFFFFFD#64), (3, 0xFFF8#64), (4, 0x0200000000#64), (5, 0x0100000000#64),
   (6, 0x01#64), (7, 0x8000000000000040#64), (8, 40#64), (9, 0x10001#64), (10, 0xFFF9#64)]
def sC : State := standing .c fun t => { t with s := scalars }

theorem witness_RegisterArithmeticResults : Alone sC .c := alone _ _
theorem witness_ComparisonAndImmediateResults : Alone sC .c ∧ (63#32).toNat < 64 := ⟨alone _ _, by decide⟩
theorem witness_DivisionResults : Alone sC .c ∧ sC.src 2#6 ≠ 0#64 ∧ sC.src 0#6 = 0#64 := ⟨alone _ _, by decide⟩
/-- The first word of the code region, one in it, and its last. -/
theorem inCode_of (s : State) (r : Residence) (x : Int) (h : s.me.res = some r)
    (g : (r.codeBase : Int) ≤ x ∧ x + 8 ≤ r.codeBase + r.codeSize ∧ x % 8 = 0 ∧ x < 2 ^ 21) : s.inCode x := ⟨r, h, g⟩
theorem witness_BranchesAndCommonInstructions :
    Alone sC .c ∧ sC.inCode 0 ∧ sC.inCode (sC.src 3#6).toNat ∧ (5#3).toNat < 6 ∧ CondHolds 5#3 (sC.src 1#6) (sC.src 1#6) ∧
    ¬ CondHolds 0#3 (sC.src 1#6) (sC.src 2#6) ∧ sC.unfaulted ∧ sC.outsideCode (-8) ∧ sC.outsideCode (sC.src 9#6).toNat ∧
    sC.misaligned (sC.src 10#6).toNat :=
  ⟨alone _ _, inCode_of _ .probe _ rfl (by decide), inCode_of _ .probe _ rfl (by decide), by decide, Nat.le_refl _,
    by show ¬ sC.src 1#6 = sC.src 2#6; decide, unfaulted_of _ rfl, ⟨.probe, rfl, by decide⟩, ⟨.probe, rfl, by decide⟩,
    ⟨.probe, rfl, by decide⟩⟩
/-- A strand of a bundle that closes a loop, taken or not. -/
def closing (st : Strand) (follow : Bool) : State :=
  { standing st id with focus := { Focus.reset with strand := st, closes := true, follow := follow } }
theorem witness_BranchesAndCommonInstructions_strands :
    Alone (closing .v true) .v ∧ (closing .v true).me.span = none ∧ (closing .v true).inCode 0 ∧
    Alone (closing .d false) .d ∧ (closing .d false).me.dIdle = true ∧ (closing .d false).focus.closes = true :=
  ⟨⟨rfl, rfl, rfl⟩, rfl, inCode_of _ .probe _ rfl (by decide), ⟨rfl, rfl, rfl⟩, by decide, rfl⟩

/-- Flag slot 0 with "any" set and a count of 5, slot 1 with nothing set; a queue with a word in each of q12 to q15. -/
def sQ : State := standing .c fun t => { t with
  s := scalars, fs := [(0, 0x2005#14), (1, 0#14)], q12 := [⟨0, some 7#64⟩], q13 := [⟨0, some 8#64⟩, ⟨1, none⟩]
  q14 := [9#64], q15 := [⟨2, some 10#64⟩] }
theorem witness_FlagBranchesAndLoopClose :
    Alone sQ .c ∧ (sQ.me.slot 0).toNat.testBit 13 = true ∧ (sQ.me.slot 1).toNat % 2 ^ 11 = 0 ∧ sQ.inCode 0xFFF8 ∧
    (sQ.src 6#6).toNat % 2 ^ 32 = 1 ∧ (sQ.src 4#6).toNat / 2 ^ 32 % 2 ^ 8 = 2 ∧ (sQ.src 5#6).toNat / 2 ^ 32 % 2 ^ 8 = 1 ∧
    sQ.src 0#6 = 0#64 :=
  ⟨alone _ _, by decide, by decide, inCode_of _ .probe _ rfl (by decide), by decide⟩
/-- Empty queues, a full q14, and MODE.RM 7. -/
def sFull : State := standing .c fun t => { t with s := scalars, q14 := List.replicate 32 1#64, modeRm := 7 }
theorem witness_QueueSlotAndControlRegisterInstructions :
    Alone sQ .c ∧ sQ.me.squeue 12 = [7#64] ∧ sQ.me.squeue 13 = [8#64] ∧ sQ.me.squeue 15 = [10#64] ∧
    (∀ n ∈ [12, 13, 15], sQ.me.queueBad n 1 = false) ∧
    sQ.me.q14.length + sQ.me.q14Coming < 32 ∧ (3#4).toNat < 4 ∧ (sQ.src 4#6).toNat % 8 < 5 ∧
    (sQ.me.modeRm ||| (sQ.src 4#6).setWidth 3).toNat < 5 ∧ (sQ.me.modeRm &&& ~~~((sQ.src 1#6).setWidth 3)).toNat < 5 ∧
    (sFull.me.squeue 12 = [] ∧ sFull.me.squeue 13 = [] ∧ sFull.me.squeue 15 = [] ∧
      32 ≤ sFull.me.q14.length + sFull.me.q14Coming ∧ 5 ≤ (sFull.src 1#6).toNat % 8 ∧
      5 ≤ (sQ.me.modeRm ||| (sQ.src 1#6).setWidth 3).toNat ∧
      5 ≤ (sFull.me.modeRm &&& ~~~((sFull.src 4#6).setWidth 3)).toNat) ∧ Alone sFull .c ∧ sFull.unfaulted ∧ sQ.unfaulted :=
  ⟨alone _ _, by decide, by decide, by decide, by decide, by decide, by decide, by decide, by decide, by decide, by decide,
    alone _ _, unfaulted_of _ rfl, unfaulted_of _ rfl⟩
theorem witness_TableAndCounterInstructions :
    Alone sC .c ∧ (15#12).toNat < 16 ∧ (7#12).toNat < 8 ∧ (31#12).toNat < 32 ∧
    (sC.me.fcReg 31 - (sC.src 2#6).setWidth 32).toNat < 2 ^ 31 := ⟨alone _ _, by decide⟩
theorem witness_TrapRaisesItsTerminalFault :
    Alone sC .c ∧ sC.me.stops = [] ∧ ((sC.part sC.me.partition).halts.toNat.testBit 63) = false := ⟨alone _ _, by decide⟩
/-- The task has a stop record of its C strand that names no fault of its own. -/
def sStopped : State := standing .c fun t => { t with stops := [(0, ⟨false, false, 0, 0, 0, 0, 0, false⟩)], sc := { t.sc with faulted := true } }
theorem witness_TrapEndsTheCStrand :
    Alone sStopped .c ∧ (∀ r, SMap.find sStopped.me.stops 0 = some r → r.own = false) ∧
    (sStopped.part sStopped.me.partition).halts.toNat.testBit 63 = false ∧ (sStopped.tile 0).sc.faulted = true ∧
    ({ sStopped with agenda := [.issue 0 .c] } : State).agenda = .issue 0 .c :: [] :=
  ⟨alone _ _, fun r h => by cases h; rfl, by decide, rfl, rfl⟩
/-- A service in the shadow context: items in place, register 1 a page entry, register 2 an address. -/
def shadowOf (regs : SMap W64) : Shadow :=
  ⟨StrandSt.reset.standAt 8, regs, [], [0x605#64, 0x123450000#64, 1#64, 0x40#64, 0#64, 5#64, 0#64, 0#64], 3, 0, false⟩
def sSh : State := { onTile0 fun t => { t with
    shadow := some (shadowOf [(1, 0x9C00000100200000#64), (2, 0x123450000#64)]), shadowImage := some (0, 0, 64) } with
  focus := { Focus.reset with shadow := true } }
theorem witness_TheShadowContextComputesApart :
    InShadow sSh (shadowOf [(1, 0x9C00000100200000#64), (2, 0x123450000#64)]) ∧ (7#24).toNat < 8 ∧
    pteValid (sSh.rs 2#6).toNat = false ∧ pteValid (sSh.rs 1#6).toNat = true ∧ pteMalformed (sSh.rs 1#6).toNat = false ∧
    pteTable (sSh.rs 1#6).toNat = false ∧ Alone sC .c ∧ sC.unfaulted := ⟨⟨rfl, rfl, rfl, rfl⟩, by decide, by decide, by decide,
    by decide, by decide, alone _ _, unfaulted_of _ rfl⟩
/-- Hurdle 127 configured for the cluster with a target of one. -/
def sH : State := standing .c fun t => { t with
  s := [(9, 0x300000#64), (10, 0x1000000000010000#64)], hur := [(127, ⟨true, false, 0, false, false, 1⟩)] }
theorem witness_HurdleInstructions :
    Alone sH .c ∧ sH.me.res = some Residence.probe ∧ (127#12).toNat < 128 ∧ (sH.me.hurdle 127).cfg = true ∧
    (sH.me.hurdle 127).pend = false ∧ sH.me.dIdle = true ∧ Residence.probe.rank = 0 ∧ (sH.me.hurdle 127).ss = false ∧
    (sH.src 9#6).toNat / 2 ^ 16 % 2 ^ 16 = 48 ∧ (sH.src 9#6).toNat / 2 ^ 60 % 4 = 0 ∧
    (∀ x ∈ sH.homesOf 0 0 127 0, x.coming = false ∧ x.count = 0) := ⟨alone _ _, by decide⟩
/-- The same hurdle from rank 1, and one of a superstep; amounts with a scope of 3, a target of 0 and one of 49. -/
def sHr : State := standing .c fun t => { t with res := some { Residence.probe with rank := 1 } }
def sHs : State := standing .c fun t => { t with
  s := [(9, 0x3000000000100000#64), (10, 0#64), (11, 0x310000#64)], hur := [(5, ⟨true, true, 0, false, false, 1⟩)] }
theorem witness_HurdleInstructions_faults :
    (Alone sHr .c ∧ sHr.me.res = some { Residence.probe with rank := 1 } ∧ sHr.unfaulted) ∧ Alone sHs .c ∧ sHs.unfaulted ∧
    sHs.me.res = some Residence.probe ∧ (sHs.me.hurdle 5).ss = true ∧ (sHs.me.hurdle 0).ss = false ∧
    2 ≤ (sHs.src 9#6).toNat / 2 ^ 60 % 4 ∧ (sHs.src 10#6).toNat / 2 ^ 16 % 2 ^ 16 = 0 ∧
    (sHs.src 11#6).toNat / 2 ^ 60 % 4 = 0 ∧ 48 < (sHs.src 11#6).toNat / 2 ^ 16 % 2 ^ 16 :=
  ⟨⟨alone _ _, rfl, unfaulted_of _ rfl⟩, alone _ _, unfaulted_of _ rfl, by decide⟩
/-- A job and a launch of it on tile 0. -/
def unit0 (level id : Nat) : WorkUnit where
  part := 0
  level := level
  id := id
  jid := if level = 3 then id else 9
  gid := 0
  fold := 0
  record := 0
  stat := 0
  nl := 0
  members := 0
  closed := false
  ended := false
  state := 0
  resid := false
  cause := 0
  reason := 0
  ovr := 0
  deta := 0
  detb := 0
  counter := 3
  secure := false
  die := 0
  ready := some 0
  pass := 0
  place := [0]
  tasks := [1]
  starting := false
  loaded := true
  resumable := false
  preempting := false
  stayed := 0
  admitted := true
  chosen := 0
  log := []
  logFull := false
  committed := false
def sU : State := { standing .c fun t => { t with
    s := [(1, 0xFFFFFFFFFFC0#64), (2, 0x9000000000000040#64), (3, 9#64), (4, 0#64), (5, 3#64), (6, 4#64), (7, 7#64)]
    res := some { Residence.probe with lid := 4 } } with
  units := [unit0 3 9, unit0 3 7, unit0 0 4] }
theorem witness_LaunchCancelAndWaitInstructions :
    Alone sU .c ∧ GlobalPointer (sU.src 1#6) 64 ∧ sU.OwnLine (sU.src 2#6) ∧ (sU.src 2#6).toNat / 2 ^ 60 = 9 ∧
    sU.launchQueue sU.me.partition < 16 ∧ sU.foreignUnit 3 9 = false ∧
    sU.lastUnit sU.me.partition 3 9 = some (unit0 3 9) ∧ unit0 3 9 ∈ sU.jobUnits sU.me.partition (sU.jobOf sU.me) ∧
    ((unit0 3 9).counter - (sU.src 5#6).setWidth 32).toNat < 2 ^ 31 ∧
    2 ^ 31 ≤ ((unit0 3 9).counter - (sU.src 6#6).setWidth 32).toNat ∧
    sU.foreignUnit 3 ((sU.src 7#6).toNat % 2 ^ 32) = true ∧ sU.unfaulted := by
  refine ⟨⟨rfl, rfl, rfl⟩, ⟨by decide, by decide⟩, ⟨Or.inr (by decide), by decide⟩, by decide, by decide, by decide,
    by decide +kernel, ?_, by decide, by decide, by decide, unfaulted_of _ rfl⟩
  decide +kernel
/-- A request pending; and two spare save slots. -/
def sAsked : State := standing .c fun t => { t with preq := some ⟨0⟩ }
def sSpare : State :=
  { standing .c fun t => { t with s := scalars } with
    parts := [(0, { Partition.reset with reg := 0x8000000000008000#64, savebase := 0x8000000000400000#64, saven := 2 })] }
theorem witness_PreemptionPointsAndTrace :
    Alone sC .c ∧ sC.me.preq = none ∧ Alone sAsked .c ∧ sAsked.me.preq.isSome = true ∧ sC.spareSlots sC.me.partition = 0 ∧
    Alone sSpare .c ∧ sSpare.spareSlots sSpare.me.partition ≠ 0 ∧ (sC.part sC.me.partition).reg.toNat.testBit 15 = false ∧
    (sSpare.part sSpare.me.partition).reg.toNat.testBit 15 = true :=
  ⟨alone _ _, rfl, alone _ _, rfl, by decide, ⟨rfl, rfl, rfl⟩, by decide⟩

/-! ## Steps -/

/-- A record without operands, one trip of each loop; a flow entry of partition 0, flow 5, from port 1 (north). -/
def rec0 : Rec := ⟨0, 0, 0, 0, 1, 1, 1, 1, 0, 0, 0, 0, 0, 0, 0⟩
def entry0 : FlowEntry where
  rsvHi := 0
  aux := 0
  fc := 0
  daddr := 0
  dwin := 2
  npkt := 0
  nslot := 0
  slot := 0
  nfid := 0
  ren := false
  opm := 0
  ord := 0x1FFFFF
  ipm := 2
  rsv := 0
  drv := false
  fmt := 0
  v := true
  part := 0
  fid := 5
def installed (op : Nat) (e : FlowEntry) : Entry := ⟨op, e, none, false, false, 0, 0, [], [], 0, [], [], 0, false, 0, 0, []⟩
def packet (pidx : Nat) (data : List W8) : Packet :=
  ⟨0, 0, 0, 0, 0, 0, BitVec.ofNat 16 pidx, 0, data.length, (data.length + 63) / 64, false, false, false, false, 0, 5, data⟩
/-- Tile 0 with a task and its router with one entry, a packet waiting at port 1 (north) on partition 0's channel. -/
def meeting (x : Entry) (p : Packet) : State :=
  { onTile0 id with
    routers := [(0, { Router.reset with entries := [x], inq := [(16, [p])] })]
    focus := { Focus.reset with router := 0, port := 1, cls := 0 } }
/-- A fresh record at the head of an engine of tile 0. -/
def heading (eng : Nat) (i : Instr) (f : Run → Run) (g : Tile → Tile) : State :=
  { onTile0 fun t => (g t).onEng eng fun e => { e with run := some (f (Run.fresh (some i) none 0x8000000000001000#64 true 0 0)) } with
    focus := { Focus.reset with eng := eng } }

/-- The word of `add s5, s5, s6` with D = 3 at the C strand's program counter (R70, R77, R78). -/
def sAdd : State := State.reset.withFetchWord 64 0x3100145180000000
/-- A word with the unassigned opcode 0x7F. -/
def sBad : State := State.reset.withFetchWord 64 0x0FE0000000000000
/-- The word of `shret` in the shadow store, the service running at it. -/
def sShret : State := State.reset.withFetchWord 64 0x0C40000000000000
def sNil : State := { heading 2 (.nil rec0) id id with agenda := [.engine 0 2] }
def sDrop : State := { meeting (installed 15 entry0) (packet 0 [1, 2, 3, 4]) with agenda := [.arrive 0 1 0], focus := Focus.reset }
/-- Queue 3 with one SUBMIT pending in its ring at host address 0x1000. -/
def sMail : State := { State.reset with
  booted := true, bootst := 0x8000000000000000#64, agenda := [.mailbox]
  queues := [(3, { HostQueue.reset with qcfg := 0x8000444000000000#64, sqb := 0x1000#64, sqt := 1#64 })]
  hostMem := Mem.writeN (Mem.writeN (Mem.writeN [] 0x1000 8 0x0000001200000003) 0x1010 8 0x4000) 0x1018 8 192 }
theorem witness_AStepRunsTheDecodedInstruction :
    (sAdd.agenda = [.issue 0 .c] ∧ (sAdd.tile 0).clockRuns = true ∧ (sAdd.tile 0).sc.running = true ∧
      (sAdd.tile 0).sc.faulted = false ∧ (sAdd.tile 0).res = some Residence.probe ∧ (sAdd.tile 0).sc.pc = 0 ∧
      (sAdd.tile 0).spBad 0 8 = false ∧
      decodeSlot .c (Mem.readN (sAdd.tile 0).sp 0 8) = .ok ⟨false, 3, .add 5 5 6⟩ ∧
      (sAdd.tile 0).sc.minAge ≤ (sAdd.tile 0).sc.age ∧ 1 + 3 ≤ (sAdd.tile 0).sc.age ∧
      (sAdd.tile 0).unitFree (.add 5 5 6) = true) ∧
    (sBad.agenda = [.issue 0 .c] ∧ (∃ e, decodeSlot .c (Mem.readN (sBad.tile 0).sp 0 8) = .error e) ∧
      (Mem.readN (sBad.tile 0).sp 0 8).testBit 63 = false) ∧
    (sShret.agenda = [.shadowIssue 0] ∧ (∃ h, (sShret.tile 0).shadow = some h ∧ h.st.running = true ∧ h.st.pc = 0 ∧
      h.divBusy = 0 ∧ h.st.minAge ≤ h.st.age) ∧ (sShret.tile 0).shadowImage = some (0, 0, 64) ∧
      decodeSlot .c (Mem.readN (sShret.tile 0).shadowStore 0 8) = .ok ⟨false, 0, .shret⟩) ∧
    ((sNil.tile 0).engineRuns 2 = true ∧ ∃ r, ((sNil.tile 0).eng 2).run = some r ∧ r.instr = some (.nil rec0) ∧
      r.stuck = none ∧ r.done = false) ∧
    ({ sDrop with agenda := [], focus := { Focus.reset with router := 0, port := 1, cls := 0 } } : State).meet =
      .entry (packet 0 [1, 2, 3, 4]) (installed 15 entry0) ∧ flowInstr 15 entry0 = some (.drop entry0) ∧
    (sMail.nextQueue = some 3 ∧ decodeCmd (Mem.readN sMail.hostMem 0x1000 64) = some (.submit ⟨0, 0, 18, 0, 0x4000, 192, 0⟩)) ∧
    (({ State.reset with railsOn := false } : State).inputs = [] ∧ State.reset.agenda = []) := by
  refine ⟨by decide +kernel, ⟨by decide +kernel, ⟨_, rfl⟩, by decide +kernel⟩,
    ⟨by decide +kernel, ⟨_, rfl, by decide +kernel⟩, by decide +kernel, by decide +kernel⟩,
    ⟨by decide +kernel, _, rfl, by decide +kernel⟩, by decide +kernel, by decide +kernel, by decide +kernel, by decide +kernel⟩
/-- A strand whose least age has not passed. -/
theorem witness_AStepRunsTheDecodedInstruction_early :
    let t := Tile.reset.withWord .c (2 ^ 63)
    ({ t with sc := { t.sc with minAge := 10 } } : Tile).sc.age < 10 := by decide
theorem witness_EveryStepKeepsMemoryCanonical : MemOk sAdd ∧ ∃ t, step sAdd = .next t := by
  refine ⟨by unfold MemOk Tile.memOk; decide +kernel, _, rfl⟩

/-! ## The V strand -/

/-- 1024 elements that take turns. -/
def cycle (l : List W32) (off : Nat) : List W32 := tab 1024 fun i => l.getD ((i * 7 + off) % l.length) 0#32
def floats : List W32 :=
  [0x40400000#32, 0xC0200000#32, 0x7FC00001#32, 0x7F800000#32, 0x00000001#32, 0x80000000#32, 0x3F800000#32, 0x4B000001#32,
   0xFF7FFFFF#32, 0x00000000#32, 0x12345678#32]
def row64 (off : Nat) : List W32 := (List.range 64).map fun i => floats.getD ((i + off) % 11) 0#32
def rows16 (n : Nat) : List QRow := (List.range n).map fun i => ⟨i, some (row64 i), 3⟩
/-- Two vectors, a predicate, 32 landed rows in q0 and 16 in q1, nothing in the queues of results; s9 an amount. -/
def sV : State := standing .v fun t => { t with
  s := [(9, 70#64), (10, 5#64)], v := [(1, cycle floats 0), (2, cycle floats 3)], k := [(5, 0x0F0F33#1024)]
  vq := [(0, rows16 32), (1, rows16 16)] }
/-- An open span of which one instruction is left, with its negated pattern bit. -/
def sSpan : State := standing .v fun t => { t with span := some ⟨0xFFFF#1024, 5, 1, 0#8⟩ }
/-- Two registers under a guard; the same queue three times into a queue; the scalar broadcast. -/
def oReg : VOps := ⟨3, 1, 2, 1, 5, true, 9⟩
def oQueue : VOps := ⟨72, 64, 64, 65, 0, false, 9⟩
def oScalar : VOps := ⟨72, 76, 76, 76, 0, false, 9⟩

theorem ready_registers : sV.me.vReady 5#5 true [1#7, 2#7, 1#7] (some 3#7) :=
  ⟨Or.inl rfl, by decide, fun d q h g => (by cases h; cases g), by decide⟩
theorem ready_queues : sV.me.vReady 0#5 false [64#7, 64#7, 65#7] (some 72#7) :=
  ⟨Or.inl rfl, by decide +kernel, fun d q h g => by cases h; cases g; decide, by decide⟩
theorem ready_span : sSpan.me.vReady 0#5 false [1#7, 2#7, 1#7] (some 3#7) :=
  ⟨Or.inr ⟨rfl, rfl⟩, by decide, fun d q h g => (by cases h; cases g), by decide⟩
theorem witness_VectorFloatForms :
    Alone sV .v ∧ Alone sSpan .v ∧ sV.me.vReady oReg.kg oReg.kn [oReg.va, oReg.vb, oReg.vc] (some oReg.vd) ∧
    sV.me.vReady oQueue.kg oQueue.kn [oQueue.va, oQueue.vb, oQueue.vc] (some oQueue.vd) :=
  ⟨alone _ _, alone _ _, ready_registers, ready_queues⟩
theorem ready_one : sV.me.vReady 0#5 false [64#7] (some 72#7) :=
  ⟨Or.inl rfl, by decide +kernel, fun d q h g => by cases h; cases g; decide, by decide⟩
theorem ready_two : sV.me.vReady 0#5 false [64#7, 64#7] (some 72#7) :=
  ⟨Or.inl rfl, by decide +kernel, fun d q h g => by cases h; cases g; decide, by decide⟩
theorem ready_none : sV.me.vReady 0#5 false [] (some 72#7) :=
  ⟨Or.inl rfl, by decide, fun d q h g => by cases h; cases g; decide, by decide⟩
theorem witness_VectorIntegerForms : Alone sV .v ∧ sV.me.vReady 0#5 false [64#7, 64#7] (some 72#7) ∧
    sV.me.vReady 0#5 false [64#7] (some 72#7) ∧ sV.me.vReady 0#5 false [] (some 72#7) ∧ 2#2 ≠ 3#2 ∧ 3 < 32 / 8 :=
  ⟨alone _ _, ready_two, ready_one, ready_none, by decide, by decide⟩
theorem witness_VectorIntegerForms_words :
    decodeSlot .v 0x05A2020000000080 = .ok ⟨false, 0, .viota ⟨1, 0, 0, 0, 0, false, 0⟩ 4 2⟩ ∧ ltOk 3 = false ∧ ltOk 7 = false ∧
    asInt false 8 0x80 = -128 ∧ asInt true 8 0x80 = 128 := by decide +kernel
theorem witness_VectorConversions : Alone sV .v ∧ sV.me.vReady 0#5 false [64#7] (some 72#7) ∧ ltWidth 2#3 < 32 ∧
    ltWidth 0#3 = 32 ∧ (List.replicate 1024 true).length = 1024 :=
  ⟨alone _ _, ready_one, by decide, by decide, List.length_replicate ..⟩
theorem witness_VectorCrossLaneForms : Alone sV .v ∧ sV.me.vReady 0#5 false [64#7] (some 72#7) ∧
    sV.me.vReady 0#5 false [64#7, 64#7] (some 72#7) := ⟨alone _ _, ready_one, ready_two⟩
theorem witness_PredicateAndAccumulatorForms : Alone sV .v ∧
    sV.me.vReady 0#5 false [64#7, 64#7] none ∧ sV.me.vReady 0#5 false [] none ∧ sV.me.span = none ∧
    sV.me.vReady 0#5 false [] (some 72#7) ∧ sV.me.vReady 0#5 false [64#7] none ∧ (1#2).toNat < 2 ∧ sV.me.badAcc = [] :=
  ⟨alone _ _, ⟨Or.inl rfl, by decide +kernel, fun _ _ h => (by cases h), by decide⟩, ⟨Or.inl rfl, by decide, fun _ _ h => (by cases h), by decide⟩, rfl,
    ready_none, ⟨Or.inl rfl, by decide +kernel, fun _ _ h => (by cases h), by decide⟩, by decide, rfl⟩

/-! ## The D strand -/

/-- Pointers into the private region (1, 2: at its start and its end, 3 below it) and the tile's own scratchpad (4, and
5 past its data), 6 another pointer of another tile of the die, 7 a cluster pointer; 8 a small number. -/
def pointers : SMap W64 :=
  [(1, 0x8000000000000000#64), (2, 0x800000000001FFF8#64), (3, 0x8000000000000008#64), (4, 0x9000000000040000#64),
   (5, 0x9000000000180000#64), (6, 0x9009000000000100#64), (7, 0xA002000000000100#64), (8, 3#64)]
def sD : State := standing .d fun t => { t with s := pointers, q14 := [0xAABBCCDD#64], sp := [(0x40000, 0x80), (0x40001, 0x3F)] }
theorem witness_LoadsStoresAndAtomicsIssue :
    Alone sD .d ∧ 0 < sD.me.dqFree false ∧ sD.MayAccess (sD.src 1#6) 0 8 true ∧ sD.MayAccess (sD.src 2#6) 0 8 false ∧
    sD.MayAccess (sD.src 5#6) 0 8 true ∧ sD.MayAccess (sD.src 1#6) (-8) 8 true ∧ sD.me.q14 = [0xAABBCCDD#64] ∧
    sD.me.res = some Residence.probe ∧ sD.OwnPointer (sD.src 4#6) :=
  ⟨alone _ _, by decide, ⟨.inl (by decide), by decide⟩, ⟨.inl (by decide), by decide⟩, ⟨.inr (by decide), by decide⟩,
    ⟨.inl (by decide), by decide⟩, rfl, rfl, .inr (by decide)⟩
/-- Full result queues and an empty q14; pointers that no load or store may take: of the global window (9), with a reserved
bit (10), misaligned (11), and the task's code region (12). -/
def sDf : State := standing .d fun t => { t with
  s := pointers ++ [(9, 0x1000#64), (10, 0x8000000000200000#64), (11, 0x8000000000000001#64), (12, 0x9000000000000000#64)]
  q12 := List.replicate 32 ⟨0, none⟩, q13 := List.replicate 32 ⟨0, none⟩ }
theorem witness_LoadsStoresAndAtomicsIssue_stops :
    (Alone sDf .d ∧ sDf.unfaulted ∧ (∀ q, ¬ 0 < sDf.me.dqFree q) ∧ sDf.me.q14 = [] ∧ sDf.MayAccess (sDf.src 1#6) 0 8 true ∧
      sDf.MayAccess (sDf.src 1#6) 0 8 false) ∧
    sDf.AccessFault (sDf.src 9#6) 0 8 false 0x12 ∧ sDf.AccessFault (sDf.src 10#6) 0 8 true 0x12 ∧
    sDf.AccessFault (sDf.src 7#6) 0 4 true 0x04 ∧ sDf.AccessFault (sDf.src 6#6) 0 8 true 0x03 ∧
    sDf.AccessFault (sDf.src 11#6) 0 2 false 0x02 ∧ sDf.AccessFault (sDf.src 12#6) 8 8 true 0x06 :=
  ⟨⟨alone _ _, unfaulted_of _ rfl, fun q => by cases q <;> decide, rfl, ⟨.inl (by decide), by decide⟩, ⟨.inl (by decide), by decide⟩⟩,
    .inl (.inl ⟨rfl, .inl (by decide)⟩), .inl (.inl ⟨rfl, .inr (by decide)⟩), .inl (.inr (.inl (by decide))),
    .inl (.inr (.inr (.inl (by decide)))), .inl (.inr (.inr (.inr ⟨rfl, .inl (by decide), by decide⟩))),
    .inr ⟨rfl, .inr (by decide), by decide⟩⟩
/-- The same pointers with room in the queues, and a word in q14 that holds an uncorrectable error. -/
def sDr : State := standing .d fun t => { t with s := sDf.me.s, q14 := [5#64], badQ := [(14, 0)] }
theorem witness_LoadsStoresAndAtomicsIssue_faults :
    (Alone sDr .d ∧ sDr.unfaulted ∧ (∀ q, 0 < sDr.me.dqFree q) ∧ sDr.me.q14 = [5#64]) ∧
    sDr.AccessFault (sDr.src 9#6) 0 8 false 0x12 ∧ sDr.AccessFault (sDr.src 7#6) 0 4 true 0x04 ∧
    sDr.AccessFault (sDr.src 12#6) 8 8 true 0x06 ∧ sDr.me.queueBad 14 1 = true ∧ sDr.MayAccess (sDr.src 1#6) 0 8 true ∧
    sD.me.queueBad 14 1 = false :=
  ⟨⟨alone _ _, unfaulted_of _ rfl, fun q => by cases q <;> decide, rfl⟩, .inl (.inl ⟨rfl, .inl (by decide)⟩),
    .inl (.inr (.inl (by decide))), .inr ⟨rfl, .inr (by decide), by decide⟩, by decide, ⟨.inl (by decide), by decide⟩, by decide⟩
/-- One access waiting to be performed, among those of an epoch after it. -/
def acc0 (k : DKind) : DAcc := ⟨7, 0, 0, k, 16⟩
def sP (k : DKind) : State := { standing .d fun t => { t with
    s := pointers, q12 := [⟨7, none⟩], q13 := [⟨7, none⟩], sp := [(0x40000, 0x80), (0x40001, 0x3F), (0x40003, 0x7F)]
    dacc := [acc0 k, ⟨8, 1, 3, .ringPush 2, 24⟩]
    rg := [(2, ⟨0x1000, 2, 4, 1, 3, 2, 1, 3, []⟩)] } with
  focus := { Focus.reset with strand := .d, idx := 7 } }
theorem performs (k : DKind) (h : (sP k).me.accessBad k = false := by decide +kernel)
    (g : (sP k).me.mayPerform k.isStore 7 0 = true := by decide) :
    (sP k).me.sp.wf = true ∧ (sP k).me.dacc.find? (fun x => x.seq == (sP k).focus.idx) = some (acc0 k) ∧
    (sP k).MayPerform (acc0 k) := ⟨rfl, rfl, rfl, rfl, g, h⟩
theorem witness_ScalarAccessesArePerformed :
    (sP (.load 0x40000 true 4 true false)).MayPerform (acc0 (.load 0x40000 true 4 true false)) ∧
    (sP (.load 0x180000 false 4 true false)).MayPerform (acc0 (.load 0x180000 false 4 true false)) ∧
    (sP (.store 0x40001 true 2 0x1234)).MayPerform (acc0 (.store 0x40001 true 2 0x1234)) ∧
    (sP (.store 0x180000 false 8 5)).MayPerform (acc0 (.store 0x180000 false 8 5)) ∧
    (sP (.imageStore 0x40000 true 5)).MayPerform (acc0 (.imageStore 0x40000 true 5)) ∧
    (sP (.imageStore 0x180000 false 5)).MayPerform (acc0 (.imageStore 0x180000 false 5)) ∧
    (sP (.atomic 8 false 0x40000 true 4 1 0 true)).MayPerform (acc0 (.atomic 8 false 0x40000 true 4 1 0 true)) ∧
    (sP (.atomic 0 false 0x180000 false 8 1 0 true)).MayPerform (acc0 (.atomic 0 false 0x180000 false 8 1 0 true)) :=
  ⟨(performs _).2.2, (performs _).2.2, (performs _).2.2, (performs _).2.2, (performs _).2.2, (performs _).2.2,
    (performs _).2.2, (performs _).2.2⟩

/-- A stream register: base, format with its variant and saturation, rounding, elements a row, count of level 0. -/
def streamWord (base : Nat) (f : Nat) (x sat : Bool) (rm blk cnt0 cur0 : Nat) : BitVec 256 :=
  BitVec.ofNat 256 (base * 2 ^ 192 + 1 * 2 ^ 104 + (cnt0 - 1) * 2 ^ 64 + cur0 * 2 ^ 24 + (blk - 1) * 2 ^ 10 + rm * 2 ^ 7 +
    (if sat then 2 ^ 6 else 0) + (if x then 2 ^ 5 else 0) + f)
/-- Streams 3 and 9, idle: 64 elements of f16 from the scratchpad, and 40 of f32 to the private region. -/
def sSt : State := { standing .d fun t => { t with
    s := pointers, st := [(3, streamWord 0x9000000000040000 2 false false 7 64 4 1), (9, streamWord 0x8000000000000040 0 false false 1 40 4 3)]
    sp := [(0x40000, 0x80), (0x40010, 0x3F), (0x40011, 0x7F)] } with
  focus := { Focus.reset with strand := .d, idx := 3 } }
/-- The load of an image of stream 3 waiting to be performed. -/
def sImage (ok : Bool) : State := { standing .d fun t => { t with
    sp := [(0x40000, 0x80), (0x4001F, 0x90)], dacc := [acc0 (.imageLoad 3 0x40000 ok)] } with
  focus := { Focus.reset with strand := .d, idx := 3 } }
theorem witness_StreamRegisterInstructions :
    Alone sSt .d ∧ sSt.me.streamIdle 3 = true ∧ (5#4).toNat < 6 ∧
    (∀ k, k < 4 → stCur (stSet (sSt.me.stReg 3) 5 (sSt.src 8#6)) k ≤ stCnt (stSet (sSt.me.stReg 3) 5 (sSt.src 8#6)) k) ∧
    sSt.MayAccess (sSt.src 1#6) 0 32 false ∧ sSt.MayAccess (sSt.src 1#6) 0 32 true ∧
    (sImage true).me.dacc.find? (fun x => match x.kind with
      | .imageLoad k _ _ => k == 3
      | _ => false) = some (acc0 (.imageLoad 3 0x40000 true)) ∧
    (sImage true).MayPerform (acc0 (.imageLoad 3 0x40000 true)) ∧
    (let v := BitVec.ofNat 256 (natOfBytes (Mem.readBytes (sImage true).me.sp 0x40000 32))
     ∀ k, k < 4 → stCur v k ≤ stCnt v k) :=
  ⟨⟨rfl, rfl, rfl⟩, by decide, by decide, by decide +kernel, ⟨.inl (by decide), by decide⟩, ⟨.inl (by decide), by decide⟩, rfl,
    ⟨rfl, rfl, by decide, by decide +kernel⟩, by decide +kernel⟩
/-- A stream with rows asked of it, and an amount (9) whose cursor lies beyond the counts; an image with such a cursor. -/
def sBusy : State := standing .d fun t => { t with
  s := pointers ++ [(9, 7#64)], st := [(3, streamWord 0x9000000000040000 2 false false 7 64 4 1)]
  streq := [(3, [⟨4, 0, 3, 0, 5, 0, 8⟩])] }
def sFree3 : State := standing .d fun t => { t with s := sBusy.me.s, st := sBusy.me.st }
def sCursor : State := { standing .d fun t => { t with sp := [(0x40003, 0xFF)], dacc := [acc0 (.imageLoad 3 0x40000 true)] } with
  focus := { Focus.reset with strand := .d, idx := 3 } }
theorem witness_StreamRegisterInstructions_stops :
    Alone sBusy .d ∧ sBusy.unfaulted ∧ sBusy.me.streamIdle 3 = false ∧ sBusy.MayAccess (sBusy.src 1#6) 0 32 true ∧
    (∃ k, k < 4 ∧ stCnt (stSet (sBusy.me.stReg 3) 5 (sBusy.src 9#6)) k < stCur (stSet (sBusy.me.stReg 3) 5 (sBusy.src 9#6)) k) ∧
    sBusy.AccessFault (sBusy.src 3#6) 0 32 false 0x02 ∧
    (sCursor.MayPerform (acc0 (.imageLoad 3 0x40000 true)) ∧ sCursor.me.stops = [] ∧
      ∃ k, k < 4 ∧ stCnt (BitVec.ofNat 256 (natOfBytes (Mem.readBytes (sCursor.me.seen sCursor.dcc).sp 0x40000 32))) k <
        stCur (BitVec.ofNat 256 (natOfBytes (Mem.readBytes (sCursor.me.seen sCursor.dcc).sp 0x40000 32))) k) ∧
    (sImage true).me.reqs' 3 = [] ∧
    (Alone sFree3 .d ∧ sFree3.unfaulted ∧ sFree3.me.streamIdle 3 = true ∧ sFree3.AccessFault (sFree3.src 3#6) 0 32 false 0x02 ∧
      ∃ k, k < 4 ∧ stCnt (stSet (sFree3.me.stReg 3) 5 (sFree3.src 9#6)) k < stCur (stSet (sFree3.me.stReg 3) 5 (sFree3.src 9#6)) k) :=
  ⟨alone _ _, unfaulted_of _ rfl, by decide, ⟨.inl (by decide), by decide⟩, ⟨0, by decide, by decide +kernel⟩,
    .inl (.inr (.inr (.inr ⟨rfl, .inl (by decide), by decide⟩))),
    ⟨⟨rfl, rfl, by decide, by decide +kernel⟩, rfl, 0, by decide, by decide +kernel⟩, rfl,
    alone _ _, unfaulted_of _ rfl, by decide, .inl (.inr (.inr (.inr ⟨rfl, .inl (by decide), by decide⟩))), 0, by decide,
    by decide +kernel⟩
/-- Rows asked of both streams; q3 and q9 hold a row each. -/
def sRows (n : Nat) : State := { standing .d fun t => { t with
    s := pointers, st := [(3, streamWord 0x9000000000040000 2 false false 7 64 4 1), (9, streamWord 0x8000000000000040 0 false false 1 40 4 3)]
    vq := [(3, [⟨0, some (row64 1), 2⟩]), (9, [⟨0, some (row64 2), 2⟩, ⟨0, some (row64 3), 0⟩])]
    streq := [(3, [⟨4, 0, 3, 0, 5, 0, 8⟩]), (9, [⟨5, 0, 2, 1, 6, 0, 16⟩])]
    sp := [(0x40000, 0x80), (0x40010, 0x3F), (0x40011, 0x7F)] } with
  focus := { Focus.reset with strand := .d, idx := n } }
theorem witness_StreamRowsMove :
    Alone sSt .d ∧ sSt.OwnPointer (stBase (sSt.me.stReg 3)) ∧ (stBase (sSt.me.stReg 3)).toNat % 16 = 0 ∧
    stFmt (sSt.me.stReg 3) ≤ 19 ∧ stRm (sSt.me.stReg 3) ≠ 5 ∧ stX (sSt.me.stReg 3) = false ∧ stSat (sSt.me.stReg 3) = false ∧
    sSt.me.reqCount 3 + ((sSt.src 8#6).toNat + (16#16).toNat) < 2 ^ 24 ∧
    (sRows 3).me.nextRow 3 = some ⟨4, 0, 3, 0, 5, 0, 8⟩ ∧ ((sRows 3).me.vqRows 3).length < 16 ∧
    (sRows 9).me.nextRow 9 = some ⟨5, 0, 2, 1, 6, 0, 16⟩ ∧
    (sRows 9).me.vqRows 9 = [⟨0, some (row64 2), 2⟩, ⟨0, some (row64 3), 0⟩] ∧
    writeRowPerm (sRows 9).me ((sRows 9).me.stReg 9) = false ∧ blockFmt (stFmt ((sRows 9).me.stReg 9)) = false ∧
    (sRows 9).me.sp.wf = true :=
  ⟨⟨rfl, rfl, rfl⟩, .inr (by decide), by decide, by decide, by decide, rfl, rfl, by decide, by decide, by decide, by decide, rfl,
    by decide +kernel, by decide, by decide⟩
theorem witness_StreamRowsMove_read :
    (readRow ((sRows 3).me.seen 0) ((sRows 3).me.stReg 3)).perm = false ∧
    (readRow ((sRows 3).me.seen 0) ((sRows 3).me.stReg 3)).ecc = false ∧ (sRows 9).me.queueBad 9 1 = false ∧
    writeRowBad (sRows 9).me ((sRows 9).me.stReg 9) = false := by decide +kernel
/-- Stream registers that no row may be asked of: a BASE in another tile's scratchpad (1), format 20 (2), a scaled format
with 16 elements to a scale (4), and SAT (5), of which rows are asked; amounts of rows beyond any count (9) and beyond the
rest of it (10); and a stream whose image is still to be loaded (3). -/
def sOdd : State := standing .d fun t => { t with
  s := pointers ++ [(9, 0x1000000#64), (10, 0xFFFFFD#64)], streq := [(5, [⟨4, 0, 3, 0, 5, 0, 8⟩])], st := [(1, streamWord 0x9009000000000100 2 false false 7 64 4 1), (2, streamWord 0x9000000000040000 20 false false 7 64 4 1),
    (4, streamWord 0x9000000000040000 7 false false 7 16 4 1), (5, streamWord 0x9000000000040000 2 false true 7 64 4 1)]
  dacc := [acc0 (.imageLoad 3 0x40000 true)] }
theorem witness_StreamRowsMove_stops :
    Alone sOdd .d ∧ sOdd.unfaulted ∧ sOdd.me.stldPending 3 = true ∧ (∀ n ∈ [1, 2, 4, 5], sOdd.me.stldPending n = false) ∧
    sOdd.PointerFault (stBase (sOdd.me.stReg 1)) 0 16 0x03 ∧ sOdd.OwnPointer (stBase (sOdd.me.stReg 2)) ∧
    (stBase (sOdd.me.stReg 2)).toNat % 16 = 0 ∧ ¬ stFmt (sOdd.me.stReg 2) ≤ 19 ∧ stFmt (sOdd.me.stReg 4) = 7 ∧
    stBlk (sOdd.me.stReg 4) ≠ 32 ∧ stBlk (sOdd.me.stReg 4) ≠ 64 ∧ stSat (sOdd.me.stReg 5) = true ∧
    sOdd.me.reqCount 1 + ((sOdd.src 8#6).toNat + (16#16).toNat) < 2 ^ 24 ∧
    (2 ^ 24 ≤ (sOdd.src 9#6).toNat + (0#16).toNat ∧ (sOdd.src 10#6).toNat + (0#16).toNat < 2 ^ 24 ∧
      2 ^ 24 ≤ sOdd.me.reqCount 5 + ((sOdd.src 10#6).toNat + (0#16).toNat)) :=
  ⟨alone _ _, unfaulted_of _ rfl, by decide, by decide, .inr (.inr (.inl (by decide))), .inr (by decide), by decide⟩
/-- Ring 2 with two slots in use of four, nothing of the D strand outstanding. -/
def sRg : State := { standing .d fun t => { t with s := pointers, rg := [(2, ⟨0x1000, 2, 4, 1, 3, 2, 1, 3, []⟩)] } with
  focus := { Focus.reset with strand := .d, idx := 7 } }
theorem witness_RingOrderAndPointerInstructions :
    Alone sRg .d ∧ ringSetOk (sRg.me.ring 2) 3 (ringValue 3 (sRg.src 8#6)) = true ∧
    ringSetOk (sRg.me.ring 2) 7 (ringValue 7 (sRg.src 8#6)) = true ∧ 0 < sRg.me.ringFree 2 ∧ sRg.me.dIdle = true ∧
    sRg.me.storesDone = true ∧ 0 < sRg.me.dqFree true ∧ castOk 0 true (sRg.src 7#6) = true ∧ castOk 0 false (sRg.src 6#6) = true ∧
    (sP (.ringPush 2)).MayPerform (acc0 (.ringPush 2)) :=
  ⟨⟨rfl, rfl, rfl⟩, by decide, by decide, by decide, by decide, by decide, by decide, by decide, by decide, (performs _).2.2⟩
/-- Ring 2 and q12 full, an access outstanding, an atomic among those; 9 a pointer of the global window. -/
def sRgFull : State := standing .d fun t => { t with
  s := pointers ++ [(9, 0x1000#64)], rg := [(2, ⟨0x1000, 2, 4, 1, 3, 4, 1, 3, []⟩)]
  q12 := List.replicate 32 ⟨0, none⟩, dacc := [acc0 (.store 0x40000 true 2 1)] }
theorem witness_RingOrderAndPointerInstructions_stops :
    Alone sRgFull .d ∧ sRgFull.unfaulted ∧ sRgFull.me.ringFree 2 = 0 ∧ sRgFull.me.dIdle = false ∧ sRgFull.me.storesDone = false ∧
    ringSetOk (sRgFull.me.ring 2) 0 (ringValue 0 (sRgFull.src 8#6)) = false ∧
    ringSetOk (sRgFull.me.ring 2) 3 (ringValue 3 0x4#64) = false ∧ castOk 0 true (sRgFull.src 9#6) = false ∧
    0 < sRgFull.me.dqFree true ∧ sRgFull.me.dqFree false = 0 :=
  ⟨alone _ _, unfaulted_of _ rfl, by decide⟩

/-! ## The E strand and the engines -/

/-- 1 and 2: lines of the own scratchpad and private region; 3 a global pointer; 4 the tokens, experts and format of
topk; 5 a count; 6 the present tail of the CP. -/
def asks : SMap W64 :=
  [(1, 0x9000000000000040#64), (2, 0x8000000000000080#64), (3, 0x4000#64), (4, 0x0000000800000002#64), (5, 3#64),
   (6, 0x8000000000001000#64)]
def sEn : State := standing .e fun t => { t with
  s := asks, fc := [(31, 4#32)], cp := { Engine.reset with csn := 3#32, tail := 0x8000000000001000#64 } }
theorem witness_EngineInstructionsPostAndAsk :
    Alone sEn .e ∧ (sEn.me.eng 2).pq.length < 16 ∧ sEn.OwnLine (sEn.src 1#6) ∧ (sEn.me.eng 2).tail ≠ sEn.src 1#6 ∧
    sEn.OwnLine (sEn.src 6#6) ∧ (sEn.me.eng 2).tail = sEn.src 6#6 ∧ sEn.me.fi.pq.length < 16 ∧ sEn.me.q15.length < 8 ∧
    ((sEn.me.eng 2).csn - (sEn.src 5#6).setWidth 32).toNat < 2 ^ 31 ∧
    (sEn.me.fcReg 31 - (sEn.src 5#6).setWidth 32).toNat < 2 ^ 31 ∧ sEn.me.reqs.length < 8 ∧ sEn.OwnLine (sEn.src 2#6) ∧
    GlobalPointer (sEn.src 3#6) 64 ∧ sEn.me.modeDet = false ∧
    (let n := (sEn.src 4#6).toNat
     1 ≤ n % 2 ^ 32 ∧ n % 2 ^ 32 ≤ 65536 ∧ 2 ≤ n / 2 ^ 32 % 2 ^ 16 ∧ n / 2 ^ 32 % 2 ^ 16 ≤ 4096 ∧ n / 2 ^ 48 < 2 ∧
       (7#3).toNat + 1 ≤ n / 2 ^ 32 % 2 ^ 16) :=
  ⟨alone _ _, by decide, ⟨.inr (by decide), by decide⟩, by decide, ⟨.inl (by decide), by decide⟩, by decide, by decide, by decide,
    by decide, by decide, by decide, ⟨.inl (by decide), by decide⟩, ⟨by decide, by decide⟩, by decide, by decide⟩

/-- A CP whose queue is full and a counter and a CSN that have not come to 5; a pointer of another tile (9). -/
def sEf : State := standing .e fun t => { t with
  s := asks ++ [(7, 5#64), (9, 0x9009000000000040#64)], fc := [(31, 4#32)]
  cp := { Engine.reset with csn := 3#32, pq := List.replicate 16 ⟨.single 0#64, 0, 0#32, 0⟩ } }
theorem witness_EngineInstructionsPostAndAsk_stops :
    Alone sEf .e ∧ sEf.unfaulted ∧ 16 ≤ (sEf.me.eng 2).pq.length ∧ sEf.OwnLine (sEf.src 1#6) ∧
    2 ^ 31 ≤ ((sEf.me.eng 2).csn - (sEf.src 7#6).setWidth 32).toNat ∧
    2 ^ 31 ≤ (sEf.me.fcReg 31 - (sEf.src 7#6).setWidth 32).toNat ∧ sEf.PointerFault (sEf.src 9#6) 0 64 0x03 :=
  ⟨alone _ _, unfaulted_of _ rfl, by decide, ⟨.inr (by decide), by decide⟩, by decide, by decide, .inr (.inr (.inl (by decide)))⟩
theorem witness_EngineInstructionsPostAndAsk_faults :
    Alone sEf .e ∧ sEf.unfaulted ∧ (sEf.me.eng 1).pq.length < 16 ∧ sEf.PointerFault (sEf.src 9#6) 0 64 0x03 :=
  ⟨alone _ _, unfaulted_of _ rfl, by decide, .inr (.inr (.inl (by decide)))⟩

/-- Partition 0, which owns every part of memory, with a second-stage table and a free ring; address 0 of it, a page
of 64 KiB, lies at address 0 of tier 0 and is in the translation cache of cluster 0. -/
def owner0 : Partition := { Partition.reset with
  reg := 0x8003FF0000100001#64, t0a := -1, t0b := -1, t1 := -1, t2 := -1
  ssbase := 0x8000000000000000#64, sslen := 1#64, kvfree := 0x8800000000100000#64, savebase := 0x8000000000400000#64
  saven := 1, stopbase := 0x8000000000500000#64 }
def mapped (s : State) : State :=
  { s with parts := [(0, owner0)], tlbs := [(0, [⟨0, 0, 0x8C00000000000000#64⟩])] }
/-- A first-stage table at 0x4000: 64 tokens of 32 elements bf16 in one page, two of them valid; its page at 32768 of
tier 1 with a key of 1.0 and values 2.0; a query of one f32 row at 0x40 of the scratchpad, results finalised. -/
def sReq (q : TileReq) : State :=
  mapped { standing .e fun t => { t with
      sp := Mem.writeN (Mem.writeN (Mem.writeN [] 0x40 8 0x80000) 0x48 8 0x200000000) 0x80 4 0x40000000
      reqs := [q], fc := [(31, 4#32)] } with
    mem0 := Mem.writeN (Mem.writeN (Mem.writeN [] 0x4000 8 0x0000000100000040) 0x4008 8 1) 0x4040 8 0x0010000000004000
    mem1 := Mem.writeN (Mem.writeN (Mem.writeN [] 0 8 0x8080000000000001) 32768 2 0x3F80) 49152 4 0x40004000 }
def rAqry : TileReq := ⟨0, 0x9000000000000040#64, 0x4000#64, 0x8000000000000100#64, 31, 0, 16, 0, 5, none⟩
def rTopk : TileReq := ⟨1, 0x4000#64, 0x0000000800000002#64, 0x8000000000000100#64, 31, 2, 16, 0, 5, none⟩
def rTrunc (n : W64) : TileReq := ⟨2, 0x4000#64, n, 0, 31, 0, 16, 0, 5, none⟩
def isOk {ε α : Type} (x : Except ε α) : Bool :=
  match x with
  | .ok _ => true
  | .error _ => false
theorem ok_of {ε α σ : Type} (x : Except ε α × σ) (h : isOk x.1 = true) : ∃ a s, x = (.ok a, s) := by
  obtain ⟨⟨e⟩ | ⟨a⟩, s⟩ := x
  · cases h
  · exact ⟨a, s, rfl⟩
theorem okay {ε α : Type} (x : Except ε α) (h : isOk x = true) : ∃ a, x = .ok a := by
  cases x with
  | error e => cases h
  | ok a => exact ⟨a, rfl⟩
/-- Does every page give partials; does one stop with a cause? -/
def gives (s : State) (r : TileReq) (f : Option (Except Nat (List Triple)) → Bool) : Bool :=
  match aqryGather s r with
  | (.ok x, s1) => x.pages.all fun p => f (pagePartials s1 r x p)
  | _ => false
theorem gives_of (s : State) (r : TileReq) (f : Option (Except Nat (List Triple)) → Bool) (h : gives s r f = true) :
    ∃ x s1, aqryGather s r = (.ok x, s1) ∧ ∀ p ∈ x.pages, f (pagePartials s1 r x p) = true := by
  unfold gives at h
  split at h
  · exact ⟨_, _, by assumption, by simpa using h⟩
  · cases h
/-- The first word of the page holds an uncorrectable error. -/
def sReqBad (q : TileReq) : State := { sReq q with badMem := [(1, 8192)] }
theorem witness_RequestsArePerformed_query :
    (sReq rAqry).headReq 0 = some rAqry ∧
    (∃ x s1, aqryGather (sReq rAqry) rAqry = (.ok x, s1) ∧
      ∀ p ∈ x.pages, (match pagePartials s1 rAqry x p with | some (.ok _) => true | _ => false) = true) ∧
    (∃ s2, State.ewrites (unitWrites rAqry.c 0 (List.replicate 128 0#8)) { sReq rAqry with focus := { (sReq rAqry).focus with eng := 4 } } = .ok s2) ∧
    (sReqBad rAqry).headReq 0 = some rAqry ∧
    ∃ x s1, aqryGather (sReqBad rAqry) rAqry = (.ok x, s1) ∧
      ∀ p ∈ x.pages, (match pagePartials s1 rAqry x p with | some (.error c) => c == 0x0F | _ => false) = true :=
  ⟨by decide, gives_of _ _ (fun y => match y with | some (.ok _) => true | _ => false) (by decide +kernel),
    okay _ (by decide +kernel), by decide,
    gives_of _ _ (fun y => match y with | some (.error c) => c == 0x0F | _ => false) (by decide +kernel)⟩
theorem witness_RequestsArePerformed_topk :
    (sReq rTopk).headReq 1 = some rTopk ∧ ∃ o, topkOps rTopk.b = some o ∧ o.t = 2 ∧
      ∃ rows s1, logitRows o rTopk.a.toNat (sReq rTopk) = (.ok rows, s1) :=
  ⟨by decide, ⟨2, 8, 0⟩, by decide, rfl, ok_of _ (by decide +kernel)⟩
theorem witness_RequestsArePerformed_truncation :
    (sReq (rTrunc 1)).headReq 2 = some (rTrunc 1) ∧
    (∃ hw s1, reqRead (sReq (rTrunc 1)) 0x4000 64 0 = (.ok hw, s1)) ∧
    kvHeader (2 ^ 64 + 2 ^ 32 + 64) = some ⟨32, false, 1, 1, 64⟩ ∧ (rTrunc 1).b.toNat < 64 ∧ 64 ≤ (rTrunc 64).b.toNat ∧
    (∃ l s2, truncEntries 0x4000 1 [0] (sReq (rTrunc 1)) = (.ok l, s2)) ∧
    ∃ a s3, reqPlace (sReq (rTrunc 1)) 0x4000 64 true true 0 = (.ok a, s3) :=
  ⟨by decide, ok_of _ (by decide +kernel), by decide, by decide, by decide, ok_of _ (by decide +kernel), ok_of _ (by decide +kernel)⟩
/-- A truncation to no token, of whose one page the block is released here. -/
def truncReady (s : State) (r : TileReq) : Bool :=
  match reqRead s r.a.toNat 64 0 with
  | (.ok hw, s1) => match kvHeader hw with
    | some h => r.b.toNat < h.len && match truncEntries r.a.toNat 0 [0] s1 with
      | (.ok l, s2) => match reqPlace s2 r.a.toNat 64 true true 0 with
        | (.ok _, s3) => s3.myPart == s.myPart && (s3.part s.myPart).releases.all (fun y => y.owner != some r.num) &&
          s3.parts.all (fun x => x.2.releases.all fun y => decide (y.num < s3.reqNum)) &&
          s3.tiles.all (fun x => x.2.reqs.head?.all fun q => q.num != r.num || q.rel.isNone) &&
          l.map (fun x => (x.1, feTier x.2.2.2, feShared x.2.2.2, fePkg x.2.2.2 == s3.pkg)) == [(0, 1, false, true)]
        | _ => false
      | _ => false
    | none => false
  | _ => false
theorem witness_RequestsArePerformed_blocks :
    (sReq (rTrunc 0)).headReq 2 = some (rTrunc 0) ∧ truncReady (sReq (rTrunc 0)) (rTrunc 0) = true := by decide +kernel
/-- A page that another package holds. -/
def sAway : State := { sReq rAqry with
  mem0 := Mem.writeN (Mem.writeN (Mem.writeN [] 0x4000 8 0x0000000100000040) 0x4008 8 1) 0x4040 8 0x0050000000080000
  focus := { Focus.reset with strand := .e, eng := 4 } }
/-- A release that waits, the ring three entries short of full. -/
def sFree : State := { State.reset with
  parts := [(0, { owner0 with releases := [⟨0, 0x1200#64, none, []⟩, ⟨1, 7#64, some 5, [2]⟩], kvfptr := BitVec.ofNat 64 (2 * 2 ^ 24 + 15) })] }
theorem witness_RequestsArePerformed_release :
    (sFree.part 0).releases = [⟨0, 0x1200#64, none, []⟩, ⟨1, 7#64, some 5, [2]⟩] ∧ (sFree.part 0).kvfree.toNat.testBit 63 = true ∧
    (15 + 2 ^ 24 - 2) % 2 ^ 24 ≠ 2 ^ ((sFree.part 0).kvfree.toNat / 2 ^ 57 % 2 ^ 6) := by decide
/-- Releases that wait for an accepted request, and one at a full ring; a request whose last release is appended. -/
def sHeld : State := { sReq { rTrunc 0 with num := 7, rel := some 1 } with
  parts := [(0, { owner0 with releases := [⟨9, 7#64, some 7, [5]⟩] })]
  tiles := (sReq { rTrunc 0 with num := 7, rel := some 1 }).tiles ++ [(1, { Tile.reset with reqs := [rAqry] })] }
def sFullRing : State := { State.reset with
  parts := [(0, { owner0 with releases := [⟨0, 7#64, none, []⟩], kvfptr := 16#64 })] }
theorem witness_RequestsArePerformed_held :
    (∃ k ∈ ((sHeld.part 0).releases.getD 0 default).after, k ∈ sHeld.reqsOpen 9) ∧
    (sHeld.tiles.find? fun x => x.2.reqsStand && x.2.reqs.any fun q => q.num == 7 && q.rel.isSome) = some (0, sHeld.tile 0) ∧
    (sHeld.tile 0).reqs = [{ rTrunc 0 with num := 7, rel := some 1 }] ∧
    (16 + 2 ^ 24 - 0) % 2 ^ 24 = 2 ^ ((sFullRing.part 0).kvfree.toNat / 2 ^ 57 % 2 ^ 6) ∧
    (sFullRing.part 0).kvfptr.toNat % 2 ^ 24 = 16 := ⟨⟨5, by decide, by decide⟩, by decide, by decide, by decide, by decide⟩
/-- Where package 1 is in the pod (Config.podMember is open). -/
theorem witness_RequestsArePerformed_away (h : Config.podMember 1 = true) :
    sAway.headReq 0 = some rAqry ∧ ∃ x s1, aqryGather sAway rAqry = (.ok x, s1) ∧
      ∃ p ∈ x.pages, pagePartials s1 rAqry x p = none := by
  have e : reqRead sAway (0x4000 + 64 + 8 * 0) 8 0 = (.ok 0x0050000000080000, sAway) := by rfl
  have page : resolvePage sAway 0x4000 0 = (.ok ⟨0, .away 1 0, 64⟩, sAway) := by
    unfold resolvePage
    rw [e]
    simp only [show feMalformed 0x0050000000080000 = false from by decide, State.inPod,
      show fePkg 0x0050000000080000 = 1 from by decide, h]
    simp [show feTier 0x0050000000080000 = 1 from by decide, show sAway.pkg = 0 from by decide,
      show feGbn 0x0050000000080000 = 0 from by decide, show feVcnt 0x0050000000080000 = 64 from by decide]
  have q : sAway.ereadUnits rAqry.a 0 4 = .ok (0x200000000 * 2 ^ 64 + 0x80000, sAway) := by rfl
  have hd : reqRead sAway rAqry.b.toNat 64 0 = (.ok (2 ^ 64 + 2 ^ 32 + 64), sAway) := by rfl
  have k : query (0x200000000 * 2 ^ 64 + 0x80000) = some ⟨1, 0, 0, 0, true, false, 0, 2, 0⟩ := by rfl
  have v : ∃ v, sAway.ereadUnits rAqry.a 64 (1 * 32 * fmtWidth 0 / 128) =
    .ok (v, sAway) := ⟨_, by rfl⟩
  obtain ⟨v, hv⟩ := v
  refine ⟨by decide, ?_⟩
  unfold aqryGather
  rw [show ({ sAway with focus := { sAway.focus with eng := 4 } } : State) = sAway from rfl]
  have pages : resolvePages rAqry.b.toNat 1 0 sAway = (.ok [⟨0, .away 1 0, 64⟩], sAway) := by
    rw [show rAqry.b.toNat = 0x4000 from rfl]
    simp only [resolvePages, page]
  simp only [q, hd, k, show kvHeader (2 ^ 64 + 2 ^ 32 + 64) = some ⟨32, false, 1, 1, 64⟩ from by rfl,
    show min 2 64 = 2 from rfl, show ((if 2 > 0 then (2 - 1) / 64 - 0 / 64 + 1 else 0) : Nat) = 1 from rfl, pages, hv]
  exact ⟨_, _, rfl, _, List.mem_singleton.mpr rfl, rfl⟩


/-! ## Engine records -/

/-- Base-table entries: 1 the own scratchpad, 2 the private region, 3 global memory. -/
def table0 : SMap W64 := [(1, 0x9000000000000000#64), (2, 0x8000000000000000#64), (3, 0#64)]
/-- Four rings of two slots of 16 KiB, each with one tile published under tag 5. -/
def rings0 : SMap Ring :=
  (List.range 4).map fun n => (n, ⟨0x40000 + 0x8000 * n, 64, 2, 0, 1, 1, 5, 6, [(0, 5)]⟩)
def tileE (t : Tile) : Tile :=
  { t with bt := table0, rg := rings0, accM := [(128, 0xBF800000#32)], acc := [(128, [0x3F800000#32])]
           sp := Mem.writeN (Mem.writeN (Mem.writeN [] 0x1000 8 0x3F80000040400000) 0x1010 4 0x7F800000) 0x40000 4 0x3F804000 }
/-- The record under way, its operands resolved through the base table. -/
def started (r : Rec) (trips : List Nat) (x : Run) : Run :=
  { x with started := true, bases := [r.od0, r.od1, r.od2, r.od3].map fun d => SMap.get 0#64 table0 (descBt d), trips := trips }
def off (bt o : Nat) : BitVec 96 := BitVec.ofNat 96 (bt * 2 ^ 28 + o)
def recLink : Rec := { rec0 with od0 := 0x9000000000000080#96 }
theorem witness_LinkNilAndQuantisationRecords :
    (heading 2 (.linkRecord recLink) id tileE).AtHead (.linkRecord recLink)
      (Run.fresh (some (.linkRecord recLink)) none 0x8000000000001000#64 true 0 0) ∧
    (Instr.linkRecord recLink).wellFormed = true ∧
    (heading 2 (.linkRecord recLink) id tileE).OwnLine (BitVec.ofNat 64 recLink.od0.toNat) ∧
    (heading 1 (.nil rec0) id tileE).AtHead (.nil rec0) (Run.fresh (some (.nil rec0)) none 0x8000000000001000#64 true 0 0) ∧
    (Instr.nil rec0).wellFormed = true ∧ (heading 1 (.nil rec0) id tileE).myEng.away = none :=
  ⟨⟨by decide, by decide, by decide⟩, by decide, ⟨.inr (by decide), by decide⟩, ⟨by decide, by decide, by decide⟩, by decide, by decide⟩
/-- Stamped in the MX; with a zero trip count; and with a target in another tile. -/
def recNilAt : Rec := { rec0 with stamp := 7 }
def recLinkAt : Rec := { recLink with stamp := 7 }
def recLinkZero : Rec := { recLink with trip2 := 0 }
def recLinkFar : Rec := { rec0 with od0 := 0x9009000000000080#96 }
theorem witness_LinkNilAndQuantisationRecords_links :
    (heading 0 (.nil recNilAt) id tileE).AtHead (.nil recNilAt) (Run.fresh (some (.nil recNilAt)) none 0x8000000000001000#64 true 0 0) ∧
    (Instr.nil recNilAt).wellFormed = true ∧ (Instr.linkRecord recLinkAt).wellFormed = true ∧
    (heading 0 (.linkRecord recLinkAt) id tileE).OwnLine (BitVec.ofNat 64 recLinkAt.od0.toNat) ∧
    (dueOf ((heading 0 (.nil recNilAt) id tileE).tcc 0) 7).2 = false ∧ (heading 0 (.nil recNilAt) id tileE).myEng.away = none ∧
    0 ∈ tripCounts recLinkZero (heading 2 (.linkRecord recLinkZero) id tileE).me 2 ∧ (Instr.linkRecord recLinkZero).wellFormed = true ∧
    0 ∉ tripCounts recLinkFar (heading 2 (.linkRecord recLinkFar) id tileE).me 2 ∧ (Instr.linkRecord recLinkFar).wellFormed = true ∧
    (heading 2 (.linkRecord recLinkFar) id tileE).PointerFault (BitVec.ofNat 64 recLinkFar.od0.toNat) 0 64 0x03 :=
  ⟨⟨by decide, by decide, by decide⟩, by decide, by decide, ⟨.inr (by decide), by decide⟩, by decide, by decide, by decide, by decide,
    by decide, by decide, .inr (.inr (.inl (by decide)))⟩
def recScl : Rec := { rec0 with od0 := off 1 0x1000, od1 := off 1 0xA2000, od2 := off 1 0xA3000, fmt1 := 7, fmt2 := 20 }
def recPak : Rec := { rec0 with od0 := off 1 0x1000, od1 := off 1 0xA2000, od3 := off 1 0xA3000, fmt1 := 7, fmt3 := 20 }
def recDeq : Rec := { rec0 with od0 := off 1 0x1000, od1 := off 1 0xA2000, od3 := off 1 0xA3000, fmt0 := 7, fmt1 := 1, fmt3 := 20 }
def recCvt : Rec := { rec0 with od0 := off 1 0x1000, od1 := off 2 0x2000, fmt1 := 1 }
def recAmx : Rec := { rec0 with od0 := off 1 0x1000, od1 := off 1 0xA2000, trip0 := 2 }
def quant (i : Instr) (r : Rec) (trips : List Nat) : State := heading 1 i (started r trips) tileE
/-- One group of each of the five records can be worked on and its results written. -/
theorem witness_LinkNilAndQuantisationRecords_groups :
    (∀ x ∈ [(Instr.qscl recScl, recScl), (.qpak recPak, recPak), (.qdeq recDeq, recDeq), (.qcvt recCvt, recCvt), (.qamx recAmx, recAmx)],
      x.1.wellFormed = true ∧ ((quant x.1 x.2 [1, 1, 1, 1]).myEng.run.map fun run =>
        match qzGroup (quant x.1 x.2 [1, 1, 1, 1]) x.1 x.2 run with
        | .ok (ws, _, s) => isOk (State.ewrites ws s)
        | .error _ => false) = some true) := by decide +kernel
/-- A group that would write into the task's code region. -/
def recCode : Rec := { rec0 with od0 := off 1 0x1000, od1 := off 1 0x2000, fmt1 := 1 }
theorem witness_LinkNilAndQuantisationRecords_regions :
    (∀ x ∈ [(Instr.qscl recScl, recScl), (.qpak recPak, recPak), (.qdeq recDeq, recDeq), (.qcvt recCvt, recCvt), (.qamx recAmx, recAmx)],
      (qzAccesses x.1 x.2 (started x.2 [1, 1, 1, 1] (Run.fresh (some x.1) none 0x8000000000001000#64 true 0 0))).all
        fun y => !(quant x.1 x.2 [1, 1, 1, 1]).regionBad y) ∧
    ((qzAccesses (.qcvt recCode) recCode (started recCode [1, 1, 1, 1] (Run.fresh (some (.qcvt recCode)) none 0x8000000000001000#64 true 0 0))).any
      fun y => (quant (.qcvt recCode) recCode [1, 1, 1, 1]).regionBad y) = true := by decide +kernel
def recMma : Rec := { rec0 with od0 := 0, od1 := 1, od2 := 3, fmt0 := 1, fmt1 := 1 }
def recMmai : Rec := { recMma with od3 := off 1 0x1004, fmt3 := 3 }
def recSmxu : Rec := { rec0 with od0 := 1, od1 := 2, od2 := 3, od3 := off 1 0x1000, fmt1 := 1, fl := 0x07 }
def recSmxm : Rec := { rec0 with od0 := 1, od1 := 2, od2 := 1, fl := 0x40 }
def recSmxf : Rec := { rec0 with od0 := 1, od2 := off 1 0xA2000, fmt2 := 1, trip0 := 128 }
def recAcld : Rec := { rec0 with od0 := off 1 0x1000, od2 := 4, fmt0 := 1, trip0 := 128 }
def recAcst : Rec := { rec0 with od0 := 1, od2 := off 1 0xA2000, fmt2 := 1, trip0 := 128 }
def recAczr : Rec := { rec0 with od2 := 5 }
def freshRun (i : Instr) : Run := Run.fresh (some i) none 0x8000000000001000#64 true 0 0
/-- The conditions under which a record of an engine starts, as one check. -/
def mayStart (i : Instr) (r : Rec) (eng : Nat) (ops : List (Nat × Nat)) : Bool :=
  let s := heading eng i id tileE
  i.wellFormed && recEngine i == some eng && s.myEng.run == some (freshRun i) && !s.myEng.stopped &&
  !(tripCounts r s.me eng).contains 0 &&
  ops.all fun o => (ptrFault 0 (engineReach eng) (s.me.btReg (descBt ([r.od0, r.od1, r.od2, r.od3].getD o.1 0)))
    (descOff ([r.od0, r.od1, r.od2, r.od3].getD o.1 0)) o.2).isNone
theorem witness_MatrixRecordsStart :
    mayStart (.mma recMma) recMma 0 [] = true ∧ mayStart (.mmai recMmai) recMmai 0 [(3, 4)] = true ∧
    mayStart (.smxu recSmxu) recSmxu 0 [(3, 16)] = true ∧ mayStart (.smxm recSmxm) recSmxm 0 [] = true ∧
    mayStart (.smxf recSmxf) recSmxf 0 [(2, 16)] = true ∧ mayStart (.acld recAcld) recAcld 0 [(0, 16)] = true ∧
    mayStart (.acst recAcst) recAcst 0 [(2, 16)] = true ∧ mayStart (.aczr recAczr) recAczr 0 [] = true ∧
    tileBytes 128 1 ≤ 256 * ((tileE Tile.reset).ring 2).size ∧
    points (tripCounts recSmxf (tileE Tile.reset) 0) = 128 ∧ (dueOf 0 0#40).2 = false := by decide +kernel
/-- The MX of tile 0 with a started record, changed by `f`. -/
def matrix (i : Instr) (r : Rec) (f : Run → Run) : State := heading 0 i (fun x => f (started r [1, 1, 1, 1] x)) tileE
def stepEnd (i : Instr) (r : Rec) : State :=
  let s := matrix i r id
  match s.myEng.run with
  | some run =>
    (match mxCompute s 0 i run with
      | .ok (o, s') => s'.onRun fun x => { x with out := some o }
      | .error _ => s)
  | none => s
theorem witness_MatrixSteps :
    (matrix (.aczr recAczr) recAczr id).mxCanBegin 0 (.aczr recAczr) (started recAczr [1, 1, 1, 1] (freshRun (.aczr recAczr))) = true ∧
    (matrix (.mma recMma) recMma id).mxCanBegin 0 (.mma recMma) (started recMma [1, 1, 1, 1] (freshRun (.mma recMma))) = true ∧
    (∀ n ∈ readRings (.mma recMma), SMap.get 0#16 ((matrix (.mma recMma) recMma id).me.ring n).tags 0 = 5#16) ∧
    (∃ o s', mxCompute (matrix (.aczr recAczr) recAczr id) 0 (.aczr recAczr)
      (started recAczr [1, 1, 1, 1] (freshRun (.aczr recAczr))) = .ok (o, s')) ∧
    (stepEnd (.aczr recAczr) recAczr).latencyRuns 0 = true := by
  refine ⟨by decide +kernel, by decide +kernel, by decide +kernel, ?_, by decide +kernel⟩
  obtain ⟨a, h⟩ := okay (mxCompute (matrix (.aczr recAczr) recAczr id) 0 (.aczr recAczr)
    (started recAczr [1, 1, 1, 1] (freshRun (.aczr recAczr)))) (by decide +kernel)
  exact ⟨a.1, a.2, h⟩
/-- A strict stamped record due now that finds its ring empty. -/
def strictMma : Rec := { recMma with fl := 0x80, stamp := 7 }
def sMiss : State :=
  { matrix (.mma strictMma) strictMma fun x => { x with stamp := 7, due := 9 } with dcc := 9, tiles :=
    (matrix (.mma strictMma) strictMma fun x => { x with stamp := 7, due := 9 }).tiles.map fun x =>
      (x.1, { x.2 with rg := [] }) }
def missRun : Run := { started strictMma [1, 1, 1, 1] (freshRun (.mma strictMma)) with stamp := 7, due := 9 }
theorem witness_MatrixSteps_miss :
    sMiss.myEng.run = some missRun ∧ missRun.due = sMiss.tcc 0 ∧ sMiss.mxCanBegin 0 (.mma strictMma) missRun = false ∧
    strictRun sMiss.me missRun = true ∧ sMiss.me.clockRuns = true := by decide +kernel
/-- Tile 1 works on a record; the next of its chain may be taken by tile 0, whose MX is idle. -/
def relocatable (t : Tile) : Tile :=
  { (tileE t) with res := some { Residence.probe with rl := true } }
def sReloc : State :=
  { State.reset with
    tiles := [(0, relocatable (Tile.reset.withWord .c (2 ^ 63))),
      (1, let t := relocatable (Tile.reset.withWord .c (2 ^ 63))
        { t with
          sp := Mem.writeN t.sp 0x6040 64 ((encodeRecord (.smxm recSmxm)).getD 0)
          mx := { Engine.reset with
            nxt := 0x9001000000006000#64
            chain := some ⟨.chain 0x9001000000006080#64, 0, 0, 0⟩
            run := some (started recAczr [1, 1, 1, 1] { freshRun (.aczr recAczr) with single := false }) } })]
    focus := { Focus.reset with idx := 1 } }
def relocAt : State := { sReloc with focus := { sReloc.focus with tile := 1, eng := 0 } }
def relocNext : W64 × Posted × Engine := (nextRecord (sReloc.tile 1).mx).getD (0, ⟨.chain 0, 0, 0, 0⟩, Engine.reset)
def relocSet : State :=
  relocAt.onMe fun t =>
    { t with mx := { t.mx with run := some (Run.fresh (some (.smxm recSmxm)) none relocNext.1 true relocNext.2.1.rm relocNext.2.1.seed) } }
theorem witness_MatrixSteps_relocation :
    (sReloc.tile 0).mx.run = none ∧ (sReloc.tile 0).mx.away = none ∧ ((sReloc.tile 1).mx.run.map (·.peer)) = some none ∧
    (sReloc.tile 0).clockRuns = true ∧ (sReloc.tile 1).clockRuns = true ∧
    relocNext.1 = 0x9001000000006040#64 ∧
    (match State.eread relocAt relocNext.1 0 64 with
      | .ok (w, s) => decide (decodeRecord w = some (.smxm recSmxm)) && decide (s = relocAt)
      | .error _ => false) = true ∧
    (Instr.smxm recSmxm).wellFormed = true ∧ shareUnits (.smxm recSmxm) (.aczr recAczr) = false ∧
    (execMxRelocate.exec1 relocSet (.smxm recSmxm) recSmxm).isSome = true := by decide +kernel
theorem okPair {ε α β : Type} (x : Except ε (α × β)) (h : isOk x = true) : ∃ a b, x = .ok (a, b) := by
  obtain ⟨y, h⟩ := okay x h
  exact ⟨y.1, y.2, h⟩
/-- 6, 1 and infinity as exact numbers. -/
def six : Machine.Num := .fin false 3 1 false
def one : Machine.Num := .fin false 1 0 false
/-- The groups of five records, of 8-bit and of 4-bit codes, can be read, and a block's scale byte; 6 lies in [2^2, 2^3) and in
(7/2, 7], half of it is 3; an infinity is not finite. -/
theorem witness_LinkNilAndQuantisationRecords_values :
    (∃ l s1, readGroup (quant (.qscl recScl) recScl [1, 1, 1, 1]) (SMap.get 0#64 table0 1) 0x1000 32 0 = .ok (l, s1)) ∧
    (∃ l s1, readGroup (quant (.qcvt recCvt) recCvt [1, 1, 1, 1]) (SMap.get 0#64 table0 1) 0x1000 64 0 = .ok (l, s1)) ∧
    (∃ v s1, (quant (.qdeq recDeq) recDeq [1, 1, 1, 1]).eread (SMap.get 0#64 table0 1) 0x1000 16 = .ok (v, s1)) ∧
    (∃ v s1, (quant (.qpak recPak) recPak [1, 1, 1, 1]).eread (SMap.get 0#64 table0 1) 0xA3000 1 = .ok (v, s1)) ∧
    fmtWidth 7 = 4 ∧ fmtWidth 0 ≠ 4 ∧ (|((3 : Nat) : ℚ) * 2 ^ (1 : ℤ)| < 2 ^ ((0 : ℤ) + 3) ∧ (2 : ℚ) ^ ((0 : ℤ) + 2) ≤ |((3 : Nat) : ℚ) * 2 ^ (1 : ℤ)|) ∧
    (|((3 : Nat) : ℚ) * 2 ^ (1 : ℤ)| ≤ 7 * 2 ^ (0 : ℤ) ∧ (7 : ℚ) * 2 ^ ((0 : ℤ) - 1) < |((3 : Nat) : ℚ) * 2 ^ (1 : ℤ)|) ∧
    (Machine.Num.inf true).isFinite = false ∧ blockScale false 7 [six] = 127 ∧ blockScale true 7 [six] = 127 ∧
    (convI4 0 0 six).1 = 6 :=
  ⟨okPair _ (by decide +kernel), okPair _ (by decide +kernel), okPair _ (by decide +kernel), okPair _ (by decide +kernel),
    rfl, by decide, by norm_num, by norm_num [abs_lt, abs_le, zpow_neg], rfl, by decide +kernel, by decide +kernel, by decide +kernel⟩
/-- The MX of tile 0 with a started record and accumulators of zeros. -/
def stepAt (i : Instr) (r : Rec) (trips : List Nat) : State := heading 0 i (started r trips) fun t => { tileE t with acc := [] }
def computes (i : Instr) (r : Rec) (trips : List Nat) : Bool :=
  isOk (mxCompute (stepAt i r trips) 0 i (started r trips (freshRun i)))
theorem witness_MatrixSteps_results :
    (∀ a i, (((stepAt (.mma recMma) recMma [1, 1, 1, 1]).tile 0).accRow a i).length = 64) ∧
    (started recMma [1, 1, 1, 1] (freshRun (.mma recMma))).view = none ∧ fmtWidth recMma.fmt0.toNat ≤ 16 ∧
    (started recMmai [1, 1, 1, 1] (freshRun (.mmai recMmai))).m.getD 0 ≤ 128 ∧
    (∀ x ∈ [(Instr.mma recMma, recMma), (.mmai recMmai, recMmai), (.smxu recSmxu, recSmxu), (.smxm recSmxm, recSmxm),
      (.aczr recAczr, recAczr)], computes x.1 x.2 [1, 1, 1, 1] = true) ∧
    ∀ x ∈ [(Instr.smxf recSmxf, recSmxf), (.acld recAcld, recAcld), (.acst recAcst, recAcst)], computes x.1 x.2 [128, 1, 1, 1] = true :=
  ⟨fun _ _ => rfl, rfl, by decide, by decide, by decide +kernel, by decide +kernel⟩
/-- Elements of an `mma`: 1 x 6 + 0; with a NaN; infinity times zero; one infinity; infinities of both signs. -/
theorem witness_MatrixSteps_elements :
    mmaElem 0#32 [one] [six] = (0x40C00000#32, 0) ∧ (Machine.Num.nan ∈ ofF32 0x7FC00000#32 :: ([one] ++ [six])) ∧
    (let ps := (List.zipWith mulNum [Machine.Num.inf false] [Machine.Num.zero false]).map (·.1)
     Machine.Num.nan ∉ ofF32 0#32 :: ([Machine.Num.inf false] ++ [Machine.Num.zero false]) ∧ Machine.Num.nan ∈ ps) ∧
    (let ps := (List.zipWith mulNum [Machine.Num.inf false] [six]).map (·.1)
     Machine.Num.nan ∉ ps ∧ Machine.Num.inf false ∈ ofF32 0#32 :: ps ∧ Machine.Num.inf true ∉ ofF32 0#32 :: ps ∧
     Machine.Num.inf true ∈ ofF32 0xFF800000#32 :: ps) := by decide +kernel

def copying (i : Instr) (r : Rec) (trips : List Nat) : State := heading 2 i (started r trips) tileE
def recCopy : Rec := { rec0 with od0 := off 1 0x1000, od1 := off 1 0xA2000, trip0 := 3 }
def recGath : Rec := { rec0 with od0 := off 1 0x1000, od1 := off 1 0xA2000, od2 := off 1 0x1800, fmt2 := 3 }
def recScat : Rec := { rec0 with od0 := off 1 0x1000, od1 := off 1 0xA2000, od2 := off 1 0x1800, fmt2 := 3 }
def recFill : Rec := { rec0 with od0 := 0xAABBCCDD#96, od1 := off 2 0x100, trip0 := 17 }
/-- The reads and the writes of one beat are all possible. -/
def beatOk (i : Instr) (r : Rec) (trips : List Nat) : Bool :=
  let s := copying i r trips
  let run := started r trips (freshRun i)
  let pts := beatPoints run
  let units := List.zip (List.range pts.length) pts
  let rows := if i = .gath r ∨ i = .scat r
    then pts.map fun n => some (run.base 2, ((descOff r.od2 + 4 * rowIndex run.trips n : Nat) : Int)) else []
  match cpFetch 4 rows [] s with
  | (.ok ixs, s1) =>
    let idx : Nat → Nat := fun k => natOfBytes (ixs.getD k [])
    let dests := units.filterMap fun u => (cpDest i r run u.2 (idx u.1)).map fun x => (x.1, x.2, 16, true)
    (match cpFetch 16 (units.map fun u => cpSource i r run u.2 (idx u.1)) dests s1 with
      | (.ok _, s2) =>
        let ws := units.filterMap fun u => (cpDest i r run u.2 (idx u.1)).map fun x => (x.1, x.2, List.replicate 16 0#8)
        (cpWrites ws s2).1.isNone && run.started && run.stuck.isNone && s.myEng.run == some run
      | _ => false)
  | _ => false
/-- A copy whose second unit lies in the code region, and one whose index list lies in global memory that nothing maps. -/
def recCopyCode : Rec := { rec0 with od0 := off 1 0x1000, od1 := off 1 0x2000, trip0 := 3 }
def recGathFar : Rec := { recGath with od2 := off 3 0x1800 }
def stops (x : Except CpStop (List (List W8)) × State) : Bool :=
  match x.1 with
  | .ok _ => false
  | .error _ => true
theorem witness_CopyAndInjectionRecords :
    beatOk (.copy recCopy) recCopy [3, 1, 1, 1] = true ∧ beatOk (.gath recGath) recGath [1, 2, 1, 1] = true ∧
    beatOk (.scat recScat) recScat [1, 1, 1, 1] = true ∧ beatOk (.fill recFill) recFill [17, 1, 1, 1] = true ∧
    stops (cpFetch 16 [some (0x9000000000000000#64, 0x1000)] [(0x9000000000000000#64, 0x2000, 16, true)]
      (copying (.copy recCopyCode) recCopyCode [3, 1, 1, 1])) = true ∧
    stops (cpFetch 4 [some (0#64, 0x1800)] [] (copying (.gath recGathFar) recGathFar [1, 2, 1, 1])) = true := by decide +kernel
/-- A literal flow: payload flits, counter 3, flow 5. -/
def flow (pl : Nat) : BitVec 96 := BitVec.ofNat 96 (pl * 2 ^ 26 + 3 * 2 ^ 20 + 5)
def recFsnd : Rec := { rec0 with od0 := off 1 0x1000, od1 := flow 2 }
def recFsig : Rec := { rec0 with od1 := flow 0, trip0 := 2 }
def injecting (i : Instr) (r : Rec) (trips : List Nat) : State := heading 3 i (started r trips) tileE
def sendRun (len : Nat) : Run :=
  Run.fresh none (some (.fsend 5 0x9000000000001000#64 (BitVec.ofNat 64 len) 3 false)) 0 true 0 0
def sending (len : Nat) : State :=
  { onTile0 fun t => { tileE t with fi := { Engine.reset with run := some (sendRun len) } } with focus := { Focus.reset with eng := 3 } }
def recCopyFar : Rec := { recCopy with od1 := off 1 0x1001 }
/-- Every record of the QZ, the CP and the FI may start; one of no encoding, one of another engine, one stamped, one with a
zero trip count, and one with a reserved bit in a pointer. -/
def startCases : List (Instr × Rec × Nat × List (Nat × Nat)) :=
  [(.qscl recScl, recScl, 1, [(0, 16), (1, 16), (2, 1)]), (.qpak recPak, recPak, 1, [(0, 16), (1, 16), (3, 1)]),
   (.qdeq recDeq, recDeq, 1, [(0, 16), (1, 16), (3, 1)]), (.qcvt recCvt, recCvt, 1, [(0, 16), (1, 16)]),
   (.qamx recAmx, recAmx, 1, [(0, 16), (1, 4)]), (.copy recCopy, recCopy, 2, [(0, 16), (1, 16)]),
   (.gath recGath, recGath, 2, [(0, 16), (1, 16), (2, 4)]), (.scat recScat, recScat, 2, [(0, 16), (1, 16), (2, 4)]),
   (.fill recFill, recFill, 2, [(1, 16)]), (.fsnd recFsnd, recFsnd, 3, [(0, 16)]), (.fsig recFsig, recFsig, 3, []),
   (.fdrp recFsig, recFsig, 3, [])]
theorem witness_LinkNilAndQuantisationRecords_starts :
    (∀ x ∈ startCases, mayStart x.1 x.2.1 x.2.2.1 x.2.2.2 = true ∧ x.2.1.stamp = 0) ∧
    (Instr.copy { recCopy with stamp := 7 }).wellFormed = false ∧
    recEngine (.copy recCopy) ≠ some 1 ∧ 0 ∈ tripCounts { recCopy with trip1 := 0 } (tileE Tile.reset) 2 ∧
    ptrFault 0 (engineReach 2) ((tileE Tile.reset).btReg (descBt recCopyFar.od1)) (descOff recCopyFar.od1) 16 = some 0x02 := by
  decide +kernel
theorem witness_CopyAndInjectionRecords_flows :
    (injecting (.fsnd recFsnd) recFsnd [1, 1, 1, 1]).AtHead (.fsnd recFsnd) (started recFsnd [1, 1, 1, 1] (freshRun (.fsnd recFsnd))) ∧
    (∃ w s', (injecting (.fsnd recFsnd) recFsnd [1, 1, 1, 1]).ereadUnits 0x9000000000000000#64
      (descDisp recFsnd.od0 [1, 1, 1, 1] 0) 8 = .ok (w, s')) ∧
    (injecting (.fsig recFsig) recFsig [2, 1, 1, 1]).AtHead (.fsig recFsig) (started recFsig [2, 1, 1, 1] (freshRun (.fsig recFsig))) ∧
    (injecting (.fdrp recFsig) recFsig [2, 1, 1, 1]).AtHead (.fdrp recFsig) (started recFsig [2, 1, 1, 1] (freshRun (.fdrp recFsig))) := by
  refine ⟨⟨by decide, by decide, by decide⟩, ?_, ⟨by decide, by decide, by decide⟩, ⟨by decide, by decide, by decide⟩⟩
  obtain ⟨a, h⟩ := okay ((injecting (.fsnd recFsnd) recFsnd [1, 1, 1, 1]).ereadUnits 0x9000000000000000#64
      (descDisp recFsnd.od0 [1, 1, 1, 1] 0) 8) (by decide +kernel)
  exact ⟨a.1, a.2, h⟩
theorem witness_CopyAndInjectionRecords_sends :
    (sending 300).myEng.run = some (sendRun 300) ∧ 300 % 4 = 0 ∧
    ptrFault 0 (engineReach 3) 0x9000000000001000#64 0 16 = none ∧
    isOk ((sending 300).ereadUnits 0x9000000000001000#64 0 16) = true ∧ (sending 0).myEng.run = some (sendRun 0) := by
  decide +kernel

/-! ## Routers -/

/-- An entry with operands from ports 1 and 2 in that order, results south, two packets a round. -/
def pair0 : FlowEntry := { entry0 with ord := 0x1FFFD1#21, ipm := 6, opm := 8, npkt := 2, nslot := 3 }
def first0 : Held := ⟨0, 1, 2, 0, packet 0 [0x00#8, 0x00#8, 0x80#8, 0x3F#8]⟩
def data0 : List W8 := [0x00#8, 0x00#8, 0x40#8, 0x40#8]
def pairing (op : Nat) (held : List Held) : State := meeting { installed op pair0 with held := held } (packet 0 data0)
def long0 : List W8 := tab 12 fun i => BitVec.ofNat 8 (i * 7)
theorem witness_FlowEntriesTakeTheirPackets_drop :
    (meeting (installed 15 entry0) (packet 0 [1, 2, 3, 4])).meet = .entry (packet 0 [1, 2, 3, 4]) (installed 15 entry0) ∧
    flowDelivers entry0 = false ∧ (packet 0 [1, 2, 3, 4]).o = false := by decide +kernel
theorem witness_FlowEntriesTakeTheirPackets_operands :
    (pairing 3 []).meet = .entry (packet 0 data0) (installed 3 pair0) ∧
    (pairing 3 [first0]).meet = .entry (packet 0 data0) { installed 3 pair0 with held := [first0] } ∧
    ordList pair0.ord = [1, 2] ∧ (3, Instr.sum pair0) ∈ flowOps pair0 ∧ (9, Instr.scan pair0) ∈ flowOps pair0 ∧
    (installed 3 pair0).accepts 0 [0] = true ∧ ({ installed 3 pair0 with held := [first0] } : Entry).accepts 0 [0, 1] = true := by
  decide +kernel
def block0 : List W8 := tab 256 fun i => BitVec.ofNat 8 i
def turn0 : FlowEntry := { entry0 with npkt := 1, opm := 8 }
def turning : Entry := { installed 10 turn0 with e := { turn0 with nslot := 3 } }
def hold0 : FlowEntry := { entry0 with opm := 8, nslot := 3, aux := 1 }
def holding (op : Nat) (e : FlowEntry) (store : List (Nat × Packet)) (p : Packet) : State := meeting { installed op e with store := store } p
def pass0 : FlowEntry := { entry0 with opm := 8 }
def land0 : FlowEntry := { entry0 with dwin := 0, daddr := 0x40000, fc := 3 }
def signal0 : Packet := { packet 0 [] with sig := true }
theorem witness_FlowEntriesTakeTheirPackets_kept :
    (meeting turning (packet 0 block0)).meet = .entry (packet 0 block0) turning ∧ (packet 0 block0).len = 256 ∧
    (holding 11 hold0 [] (packet 0 data0)).meet = .entry (packet 0 data0) (installed 11 hold0) ∧
    (holding 11 hold0 [(2, packet 0 data0)] signal0).meet = .entry signal0 { installed 11 hold0 with store := [(2, packet 0 data0)] } := by
  decide +kernel
def went (a : FlowAns) : Bool :=
  match a with
  | .ok _ => true
  | _ => false
theorem gone (a : FlowAns) (h : went a = true) : ∃ s, a = .ok s := by
  cases a with
  | ok s => exact ⟨s, rfl⟩
  | wait s => cases h
  | fault c r s => cases h
  | raised s => cases h
  | ecc s => cases h
theorem witness_FlowEntriesTakeTheirPackets_passed :
    ((meeting (installed 1 pass0) (packet 0 data0)).meet = .entry (packet 0 data0) (installed 1 pass0) ∧
      (meeting (installed 12 land0) (packet 0 data0)).meet = .entry (packet 0 data0) (installed 12 land0) ∧
      (meeting (installed 12 land0) (packet 0 data0)).resident 0 (installed 12 land0) = true) ∧
    (∃ a, sendResult (meeting (installed 1 pass0) (packet 0 data0)) 0 (installed 1 pass0) true (packet 0 data0) 1 1 0 = .ok a) ∧
    ∃ a, deliverPacket (meeting (installed 12 land0) (packet 0 data0)) 0 (installed 12 land0) 0 (packet 0 data0) = .ok a :=
  ⟨by decide +kernel, gone _ (by decide +kernel), gone _ (by decide +kernel)⟩
theorem witness_FlowEntriesTakeTheirPackets_released :
    ∃ a, releaseHeld 0 0 5 1 [(2, packet 0 data0)] (holding 11 hold0 [(2, packet 0 data0)] signal0) = .ok a := gone _ (by decide +kernel)
/-- A packet of the drove class for a delivery, port 1 a drove input, partition 0 holding all 16 sixteenths. -/
def drove0 : Packet := { packet 0 data0 with o := true, stamp := 40 }
def droving : State :=
  { meeting (installed 12 land0) drove0 with
    drovecfg := 0x800000C80000000F#64, ptc := 100#64
    routers := [(0, { Router.reset with entries := [installed 12 land0], inq := [(16, [drove0])], droveIn := [1] })] }
/-- The same where the partition has no sixteenth and the entry's own reserve is taken; an entry of a launch that is away. -/
def fullEntry : Entry := { installed 12 land0 with reorder := [⟨1, { packet 1 block0 with o := true, stamp := 41 }, 0, true⟩] }
def full0 : State :=
  { meeting fullEntry drove0 with
    drovecfg := 0x800000C800000000#64, ptc := 100#64
    routers := [(0, { Router.reset with entries := [fullEntry], inq := [(16, [drove0])], droveIn := [1] })] }
def away0 : State := meeting { installed 12 land0 with lid := some 7 } (packet 0 data0)
theorem witness_FlowEntriesTakeTheirPackets_drove :
    droving.meet = .entry drove0 (installed 12 land0) ∧ flowDelivers land0 = true ∧ droving.droveRoom drove0 = some false ∧
    (12, Instr.deliver land0) ∈ flowOps land0 ∧ full0.meet = .entry drove0 fullEntry ∧ full0.droveRoom drove0 = none ∧
    full0.resident 0 fullEntry = true ∧ away0.meet = .entry (packet 0 data0) { installed 12 land0 with lid := some 7 } ∧
    away0.resident 0 { installed 12 land0 with lid := some 7 } = false := by decide +kernel
theorem witness_DeliveriesWriteTheScratchpad :
    let s := meeting (installed 12 land0) (packet 0 data0)
    land0.dwin = 0#2 ∧ isEdge 0 = false ∧ s.resident 0 (installed 12 land0) = true ∧ (s.tile 0).sp.wf = true ∧
    0x40000 + 4 ≤ 0x180000 ∧ (s.tile 0).regionFault true 0x40000 4 = false ∧ (s.tile 0).spBad 0x40000 4 = false := by
  decide +kernel

/-- Router 0 with a packet without an entry, its partition's queue holding `n`. -/
def straying (n : Nat) : State :=
  { meeting (installed 15 { entry0 with fid := 6 }) (packet 0 data0) with routers := [(0, { Router.reset with
      entries := [installed 15 { entry0 with fid := 6 }], inq := [(16, [packet 0 data0])]
      stray := [(0, ⟨List.replicate n (packet 0 data0), 0, 3⟩)] })] }
def result0 : Entry := { installed 3 pair0 with ready := [⟨0, packet 0 data0, 1, 2, 0⟩], next := [(1, 1), (2, 1)] }
def resulting (x : Entry) : State :=
  { meeting x (packet 0 data0) with focus := { Focus.reset with idx := 5 }, stallK := 10 }
def waiting0 : Entry := { installed 3 pair0 with held := [first0], waited := 1025 }
def load0 : FlowEntry := { entry0 with opm := 8 }
def loading : State := { State.reset with parts := [(0, { Partition.reset with reg := 0x8003FF0000100001#64 })] }
theorem witness_OperandsCombineAndRoutersGoOn :
    (straying 15).meet = .stray (packet 0 data0) ∧ (straying 16).meet = .stray (packet 0 data0) ∧
    (((straying 15).takePacket.router 0).strayOf 0).pkts.length < 16 ∧
    16 ≤ (((straying 16).takePacket.router 0).strayOf 0).pkts.length ∧
    (resulting result0).entry 0 0 5 = some result0 ∧ result0.ready.find? (·.num == result0.outNum) = some ⟨0, packet 0 data0, 1, 2, 0⟩ ∧
    (resulting waiting0).entry 0 0 5 = some waiting0 ∧ 2 ^ (resulting waiting0).stallK < waiting0.waited ∧
    2 ^ 1 < [1, 2, 3].length ∧ [1, 2, 3].length ≤ 2 ^ (1 + 1) := by decide +kernel
theorem witness_OperandsCombineAndRoutersGoOn_results :
    (∃ a, sendResult (resulting result0) 0 result0 false (packet 0 data0) 1 2 0 = .ok a) ∧
    ((encodeFlow (.fwd load0)).map fun w =>
      decide (decodeFlow w = some (.fwd load0)) && decide (decFlow w = load0)) = some true ∧
    loading.loadable 0 0 (.fwd load0) 1 load0 = true := ⟨gone _ (by decide +kernel), by decide +kernel⟩
/-- A drove result for a port on which no bellwether has gone; an entry with a round in progress; the neighbours of a
router. -/
def drv0 : FlowEntry := { pair0 with drv := true }
def early0 : Entry := { result0 with e := drv0 }
theorem witness_OperandsCombineAndRoutersGoOn_ports :
    (resulting early0).mayLeave 0 early0 (outPacket (resulting early0) 0 early0 false (packet 0 data0)) = false ∧
    (resulting early0).entry 0 0 5 = some early0 ∧
    (resulting result0).mayLeave 0 result0 (outPacket (resulting result0) 0 result0 false (packet 0 data0)) = true ∧
    (neighbour 0 1).isSome = true ∧ neighbour 0 5 = none ∧ neighbour 0x400 6 = none ∧ scaleUpPort 0x400 = some 0 ∧
    neighbour 0x450 6 = none ∧ scaleUpPort 0x450 = none ∧ ethPort 0x450 = some 0 ∧ result0.act = true ∧
    ({ loading with routers := [(0, { Router.reset with entries := [{ result0 with e := load0 }] })] } : State).loadable 0 0
      (.fwd load0) 1 load0 = true ∧ loading.loadable 0 1 (.fwd load0) 1 load0 = false := by decide +kernel


/-! ## The pod -/

/-- Router 0 with one packet of the drove class in its reorder store, which port 1 has passed by watermark. -/
def stored0 : Entry := { installed 12 land0 with reorder := [⟨1, drove0, 0, false⟩] }
def reordering (t : W64) : State :=
  { droving with ptc := t, routers := [(0, { Router.reset with
      entries := [stored0], droveIn := [1], wmIn := [(8, 60)], droveOut := [2], wmSent := [(16, 3), (8, 4)] })] }
theorem witness_DroveClassEvents :
    leastDrove (((reordering 100).router 0).reordered 0) = some (stored0, ⟨1, drove0, 0, false⟩) ∧
    (reordering 100).passed 0 0 = some 60#48 ∧ stampBefore 60 drove0.stamp = false ∧
    (∃ a, opStep (reordering 100) 0 stored0 1 drove0 = .ok a) ∧
    leastDrove ((((reordering 900000).router 0).reordered 0).filter fun y =>
      let age := ((reordering 900000).ptc.setWidth 48 - y.2.pkt.stamp).toNat
      decide (age < 2 ^ 47) && decide (4000 * ((reordering 900000).drovecfg.toNat / 2 ^ 32 % 2 ^ 16) + y.2.paused ≤ age)) =
      some (stored0, ⟨1, drove0, 0, false⟩) :=
  ⟨by decide +kernel, by decide +kernel, by decide, gone _ (by decide +kernel), by decide +kernel⟩
/-- The focus at a port of router 0 that leads on. -/
def bells (on : Bool) (port : Nat) : State :=
  { reordering 100 with dcc := 14, drovecfg := if on then 0x800000C80000000F#64 else 0xC80000000F#64
                        focus := { Focus.reset with port := port } }
/-- The same router with a result of the partition still to be delivered. -/
def owing : State :=
  { reordering 100 with routers := [(0, { (reordering 100).router 0 with
      entries := [stored0, { installed 3 { land0 with ord := 0x1FFFD1#21, fid := 6, drv := true } with ready := [⟨0, drove0, 1, 2, 0⟩] }] })] }
theorem witness_DroveClassEvents_order :
    ((reordering 100).router 0).owesDelivery 0 = false ∧ (owing.router 0).owesDelivery 0 = true ∧
    leastDrove ((owing.router 0).reordered 0) = some (stored0, ⟨1, drove0, 0, false⟩) ∧ owing.passed 0 0 = some 60#48 ∧
    ((reordering 100).router 0).stopped = [] ∧ ((reordering 100).router 0).badFid = [] ∧ ((reordering 100).part 0).halt = none := by
  decide +kernel
/-- DROVECFG locked in once: EN may be set, and cleared where it stood at 0. -/
def enabling : State := { State.reset with everLocked := true }
theorem witness_DroveClassEvents_settings :
    (0x80000A0000000081#64).toNat.testBit 63 = true ∧ enabling.everLocked = true ∧ (8 ≤ 9) ∧
    (0x00000A0000000081#64).toNat.testBit 63 = false ∧ enabling.drovecfg.toNat.testBit 63 = false ∧
    (0x8000000000000081#64).toNat / 2 ^ 32 % 2 ^ 16 = 0 ∧
    16 < (List.range 8).foldl (fun n q => n + (0x80000A0000000FF1#64).toNat / 2 ^ (4 * q) % 16) 0 ∧
    State.reset.everLocked = false ∧ State.reset.podcfg.toNat.testBit 63 = false ∧
    droving.drovecfg.toNat.testBit 63 = true ∧ (∃ x ∈ (reordering 100).routers, x.2.droveBusy = true) :=
  ⟨by decide, by decide, by decide, by decide, by decide, by decide, by decide, by decide, by decide, by decide,
    (0, (reordering 100).router 0), by decide, by decide +kernel⟩
theorem witness_DroveClassEvents_bellwethers :
    neighbour 0 2 = some (1, 4) ∧ ((bells true 3).drovecfg.toNat.testBit 63 = true ∧ 3 ∉ ((bells true 3).router 0).droveOut) ∧
    ((bells false 2).drovecfg.toNat.testBit 63 = false ∧ 2 ∈ ((bells false 2).router 0).droveOut) ∧
    ((bells true 3).bellSlot 0 3).1 = true ∧ (neighbour 0 3).isSome = true ∧ ((bells false 2).bellSlot 0 2).1 = true ∧
    (0x80000A0000000081#64).toNat / 2 ^ 32 % 2 ^ 16 ≠ 0 ∧
    (List.range 8).foldl (fun n q => n + (0x80000A0000000081#64).toNat / 2 ^ (4 * q) % 16) 0 ≤ 16 := by decide +kernel
/-- Port 3, the parent's, up, a time flit of the parent received and answered. -/
def timed (x : Port → Port) : State :=
  { State.reset with
    podcfg := 0x0300000000000000#64, ptc := 5000#64, syncst := 0x8000000000000000#64, everLocked := true, streak := 15
    ports := [(3, x { Port.reset with up := true })], focus := { Focus.reset with port := 3 } }
def exchanging (x : Port) : Port := { x with unanswered := [(190, none), (200, some (100, 164))], echoed := some (210, 180) }
def exchanged0 (x : Port) : Port := { x with unanswered := [(200, some (100, 164))] }
theorem witness_PodTimeEvents :
    ((timed id).port 3).up = true ∧ ((timed id).port 3).timeSent = none ∧ (timed id).parentPort = some 3 ∧
    ((timed fun x => { x with timeSent := some 0 }).port 3).timeSent = some 0#54 ∧ 4096 * 64 ≤ (320000#54 - 0#54).toNat ∧
    ((timed exchanged0).port 3).echoed = none ∧ ((timed exchanged0).port 3).answered 220 = [(200, some (100, 164))] ∧
    ((timed exchanged0).port 3).answered 0 = [] ∧
    ((timed exchanging).port 3).echoed = some (210, 180) ∧ ((timed exchanging).port 3).answered 210 = [] ∧
    ((220#54 - 210#54) - (190#54 - 180#54)).toInt ≤ 2048 * 64 ∧ (164#54 - 100#54).toInt.natAbs < 2 ^ 53 ∧
    (220#54 - 200#54).toInt.natAbs < 2 ^ 53 ∧ 15 ≤ (timed id).streak ∧ (timed id).syncst.toNat.testBit 63 = true ∧
    (timed id).ptc.toNat < 2 ^ 63 := by decide
/-- A time flit waits, a packet's flit before it, where the wheel's last entries come, of which one is for time. -/
def leaving : State :=
  timed fun x => { x with waiting := [⟨0, 0, 0, 0, true, 77⟩, ⟨10, 2, 0, 0, false, 0⟩], wheelPos := 30 }
theorem witness_PodTimeEvents_leaving :
    (leaving.port 3).windowFull = false ∧ (∃ f ∈ (leaving.port 3).waiting, f.kind = 2) ∧ (∀ f ∈ ((timed id).port 3).waiting, f.kind ≠ 2) ∧
    ∃ f ∈ (fillSlots leaving 0x1003 (leaving.router (portRouter 3)).stopped 3 (leaving.port 3).wheelPos (leaving.port 3).waiting).1,
      f.kind = 2 := by decide +kernel
/-- Datagrams of a peer unacknowledged on Ethernet port 0, one of them for the time of a resend. -/
def peer0 (resends : Nat) : Peer :=
  { Peer.reset with
    window := [⟨3, 0, [], 199999, 7⟩, ⟨4, 0, [1, 2], 200000, resends⟩, ⟨5, 0, [3], 100, 0⟩], recvSeq := 9 }
def tunnel (resends : Nat) : State :=
  { State.reset with eths := [(0, { Eth.reset with peers := [(7, peer0 resends)] })], focus := { Focus.reset with idx := 7 } }
def resend0 (retries : Nat) : State :=
  timed fun x => { x with sent := [1, 2, 3], sendSeq := 12, retries := retries }
def upped : State := { timed id with ports := [(5, { Port.reset with up := true })] }
theorem witness_LinkAndTunnelEvents :
    ((resend0 63).port 3).up = true ∧ ((resend0 63).port 3).sent.drop (3 - (12#12 - 1 - 9#12).toNat) ≠ [] ∧
    (timed id).parentPort ≠ some 4 ∧ (upped.port 5).up = true ∧ upped.parentPort ≠ some 5 ∧ ((timed id).port 4).up = false ∧
    SMap.find ((tunnel 63).eth 0).peers 7 = some (peer0 63) ∧ (peer0 63).down = false ∧ 
    (∀ r, (peer0 r).window = [⟨3, 0, [], 199999, 7⟩] ++ ⟨4, 0, [1, 2], 200000, r⟩ :: [⟨5, 0, [3], 100, 0⟩]) ∧
    SMap.find ((tunnel 64).eth 0).peers 7 = some (peer0 64) ∧
    (BitVec.ofNat 128 9).toNat % 2 ^ 32 = (peer0 63).recvSeq.toNat ∧
    (BitVec.ofNat 128 8).toNat % 2 ^ 32 ≠ (peer0 63).recvSeq.toNat :=
  ⟨by decide, by decide, by decide, by decide, by decide, by decide, by decide, rfl, fun _ => rfl, by decide, by decide, by decide⟩
/-- 512 flits sent of which none is acknowledged. -/
theorem witness_LinkAndTunnelEvents_window :
    let x := (timed fun x => { x with sendSeq := 512 }).port 3
    x.up = true ∧ x.windowFull = true ∧ ((timed fun x => { x with sendSeq := 511 }).port 3).windowFull = false := by decide


/-! ## Work -/

/-- Partition 0's low gibibyte maps to itself in tier 0; an image of one word of code stands at 0x8000. -/
def image0 : Nat := 0x10 + 4096 * 2 ^ 64 + 4096 * 2 ^ 96 + 8 * 2 ^ 416 + 64 * 2 ^ 320
def paged (s : State) : State :=
  { s with
    parts := [(0, { owner0 with reg := 0x8043FF0000100001#64, ptroot := 0x8000000000100000#64, shbase := 0 })]
    mem0 := Mem.writeN (Mem.writeN (Mem.writeN (Mem.writeN [] 0x100000 8 0xC000000000101000) 0x101000 8 0xAC00000000000000)
      0x8000 64 image0) 0x82C0 8 0x0600000000000000 }
/-- A launch record: identity 4 of job 9, one tile, slice 10, grace 20, the image at 0x8000. -/
def launchRec : Nat := 1 + 4 * 2 ^ 32 + 9 * 2 ^ 64 + 0x8000 * 2 ^ 192 + 10 * 2 ^ 384 + 20 * 2 ^ 416 + 77 * 2 ^ 1024
def wordsOfNat (n v : Nat) : List W64 := tab n fun k => BitVec.ofNat 64 (v / 2 ^ (64 * k))
def incoming0 (n v : Nat) : Incoming := ⟨0, 0, 0, none, some (wordsOfNat n v), false, 0, 0, 0⟩
def admitting (i : Incoming) : State := { paged State.reset with units := [unit0 3 9], incoming := [i] }
def jobRec (id : Nat) : Nat := 2 + id * 2 ^ 32 + 0x2000 * 2 ^ 128
theorem witness_RecordsAreAdmittedOrRejected :
    (admitting (incoming0 8 (jobRec 5))).incoming.find? (·.part == 0) = some (incoming0 8 (jobRec 5)) ∧
    (admitting (incoming0 8 (jobRec 5))).readRecord (incoming0 8 (jobRec 5)) 64 = some (2 + 5 * 2 ^ 32 + 0x2000 * 2 ^ 128) ∧
    (admitting (incoming0 8 (jobRec 5))).unit 0 3 5 = none ∧ ((admitting (incoming0 8 (jobRec 9))).unit 0 3 9).isSome = true ∧
    (admitting (incoming0 24 launchRec)).readRecord (incoming0 24 launchRec) 192 = some launchRec ∧ launchRec % 2 ^ 8 = 1 ∧
    (admitting (incoming0 24 launchRec)).launchReason (incoming0 24 launchRec) launchRec = 0 ∧
    (admitting (incoming0 24 (launchRec + 2 ^ 31))).launchReason (incoming0 24 (launchRec + 2 ^ 31)) (launchRec + 2 ^ 31) ≠ 0 := by
  decide +kernel
/-- A record in the scratchpad of tile 0 that an earlier store of D still changes; and one past the scratchpad. -/
def ownRecord (ptr : W64) : Incoming := ⟨0, 0, ptr, some 0, none, false, 9, 3, 0⟩
def sOwn (ptr : W64) : State :=
  { onTile0 fun t => { t with dacc := [⟨2, 0, 1, .store 0x40040 true 8 5, 0⟩] } with incoming := [ownRecord ptr] }
theorem witness_RecordsAreAdmittedOrRejected_waits :
    (sOwn 0x9000000000040000#64).incoming.find? (·.part == 0) = some (ownRecord 0x9000000000040000#64) ∧
    (sOwn 0x9000000000040000#64).recordWaits (ownRecord 0x9000000000040000#64) = true ∧
    (sOwn 0x9000000000180000#64).recordWaits (ownRecord 0x9000000000180000#64) = false ∧
    ({ sOwn 0x9000000000180000#64 with incoming := [] } : State).readRecord (ownRecord 0x9000000000180000#64) 64 = none := by
  decide +kernel
/-- The launch as it stands once admitted, changed by `f`. -/
def launch0 (f : WorkUnit → WorkUnit) : WorkUnit :=
  f { unit0 0 4 with record := BitVec.ofNat 1536 launchRec, counter := 0, place := [], tasks := [0], loaded := false, ready := some 0 }
def choosing (f : WorkUnit → WorkUnit) (g : Partition → Partition) : State :=
  let s := paged { State.reset with units := [unit0 3 9, launch0 f] }
  { s with parts := s.parts.map fun x => (x.1, g x.2) }
theorem witness_TheShepherdChooses :
    let s := choosing id fun x => { x with choice := true }
    let s' := ((s.onPart 0 fun x => { x with choice := false }).refresh 0).resumeYielded 0
    (s.part 0).choice = true ∧ (s.part 0).halt = none ∧ (s'.part 0).head = none ∧ s'.candidates 0 = [launch0 id] ∧
    s'.placement (launch0 id) (fun t => s'.tileFree t) = some [0] ∧ isOk (s'.loadNet (launch0 id) [0]) = true ∧
    (launch0 id).record.toNat / 2 ^ 14 % 4 = 0 ∧ (launch0 id).ready = some 0 := by decide +kernel
theorem witness_TheShepherdChooses_head :
    let f : WorkUnit → WorkUnit := fun u => { u with pass := 16, resumable := true, place := [3] }
    ((choosing f id).part 0).head = none ∧
    ((choosing f id).candidates 0).find? (fun u => decide ((if ((choosing f id).part 0).reg.toNat / 2 ^ 16 % 16 = 0 then 16
      else ((choosing f id).part 0).reg.toNat / 2 ^ 16 % 16) ≤ u.pass)) = some (launch0 f) ∧ (launch0 f).resumable = true := by
  decide +kernel
/-- Launch 5, which has been passed 15 times, behind launch 4; launch 6, whose network program cannot be read; launch 7 of a
whole cluster; tile 0 taken. -/
def later0 : WorkUnit := { launch0 id with id := 5, ready := some 3, pass := 15 }
def netless0 : WorkUnit := { launch0 id with id := 6, record := BitVec.ofNat 1536 (launchRec + 0x400000000000 * 2 ^ 256) }
def whole0 : WorkUnit := { launch0 id with id := 7, record := BitVec.ofNat 1536 (launchRec + 2 ^ 14) }
def choosingOf (l : List WorkUnit) (taken : Bool) (g : Partition → Partition) : State :=
  let s := paged { State.reset with units := unit0 3 9 :: l }
  { s with
    parts := s.parts.map fun x => (x.1, g x.2)
    tiles := if taken then [(0, { Tile.reset with res := some { Residence.probe with lid := 9 } })] else [] }
theorem witness_TheShepherdChooses_several :
    (choosingOf [later0, launch0 id] false id).candidates 0 = [launch0 id, later0] ∧
    (choosingOf [later0, launch0 id] false id).candBefore (launch0 id) later0 = true ∧
    (choosingOf [launch0 id] true id).tileFree 0 = false ∧
    (choosingOf [launch0 id] true id).placement (launch0 id) (fun t => (choosingOf [launch0 id] true id).tileFree t) = some [1] ∧
    (choosingOf [launch0 id] true id).placement (launch0 id) (fun _ => false) = none ∧
    isOk ((choosingOf [netless0] false id).loadNet netless0 [0]) = false ∧
    (choosingOf [whole0] false id).placement whole0 (fun t => (choosingOf [whole0] false id).tileFree t) =
      some (List.range 48) ∧ whole0.record.toNat / 2 ^ 14 % 4 ≠ 0 := by decide +kernel
theorem witness_TheShepherdChooses_rejected :
    let s := choosingOf [netless0] false fun x => { x with choice := true, head := some (6, [0]) }
    let s' := ((s.onPart 0 fun x => { x with choice := false }).refresh 0).resumeYielded 0
    (s'.part 0).head = some (6, [0]) ∧ (chooseGo 0 (s'.candidates 0) [] s').unit 0 0 6 = none ∧
    (State.reset.part 0).choice = false := by decide +kernel
theorem witness_TheShepherdChooses_passed :
    let s := choosingOf [launch0 id, { later0 with pass := 16 }] false id
    (s.part 0).head = none ∧ s.candidates 0 = [launch0 id] ++ { later0 with pass := 16 } :: [] ∧ (launch0 id).pass < 16 ∧
    (s.part 0).reg.toNat / 2 ^ 16 % 16 = 0 ∧ later0.resumable = false ∧ s.placement { later0 with pass := 16 } (fun _ => true) = some [0] := by
  decide +kernel
/-- The launch placed on tiles 2 and 5 and loading; tile 5 has a preload of it. -/
def starting0 (u : WorkUnit) : WorkUnit :=
  { u with starting := true, place := [2, 5], tasks := [0, 0], record := BitVec.ofNat 1536 (launchRec + 2 ^ 16) }
def sStart : State :=
  { choosing starting0 id with
    tiles := [(5, { Tile.reset with preload := some ⟨0, 4, 1, 0x3000, 0x2000, []⟩ })], focus := { Focus.reset with idx := 4 } }
theorem witness_TasksStartTogether :
    sStart.unit 0 0 4 = some (launch0 starting0) ∧ (launch0 starting0).starting = true ∧
    (sStart.readImage 0 false (launchRec / 2 ^ 192 % 2 ^ 64)).isSome = true ∧ [2, 5].Nodup ∧
    (sStart.shadowCopy 0 (sStart.tile 2)).isSome = true ∧ (sStart.shadowCopy 0 (sStart.tile 5)).isSome = true ∧
    (sStart.launchImage (launch0 starting0)).isSome = true ∧ sStart.preloaded (launch0 starting0) = false ∧
    (launch0 starting0).loaded = false ∧ (sStart.part 0).halt = none ∧
    (∀ v ∈ sStart.units, v.part = 0 → v.stat = 0#64) := by decide +kernel
/-- Tile 0 runs launch 7 while the reserving head, launch 4, is to have tile 0. -/
def sPre : State :=
  { choosing (fun u => { u with place := [0] }) (fun x => { x with head := some (4, [0]) }) with
    tiles := [(0, { Tile.reset.withWord .c 0 with
      res := some { Residence.probe with lid := 7, ringBase := 0x30000, ringSize := 0x1000 } })] }
theorem witness_TasksStartTogether_preload :
    (sPre.part 0).head = some (4, [0]) ∧ sPre.me.res.isSome = true ∧ (sPre.unit 0 0 4).isSome = true ∧ sPre.me.preload = none ∧
    (sPre.readImage 0 false 0x8000).isSome = true ∧ 0x31000 + 0x2000 ≤ 0x180000 ∧
    (sPre.me.res.map fun r => (r.part, r.lid)) = some (0, 7) ∧ ((sPre.unit 0 0 4).map (·.loaded)) = some false ∧
    (sPre.part 0).halt = none ∧ image0 / 2 ^ 416 % 2 ^ 32 ≤ image0 / 2 ^ 64 % 2 ^ 32 ∧ image0 / 2 ^ 160 % 2 ^ 32 ≤ image0 / 2 ^ 96 % 2 ^ 32 := by decide +kernel
/-- The only task of launch 4, or one of two, has stopped. -/
def ending (n : Nat) : State :=
  { choosing (fun u => { u with place := [0, 1], tasks := List.replicate n 1, loaded := true, state := 1 }) id with
    tiles := [(0, { Tile.reset with res := some { Residence.probe with lid := 4 }, live := true })] }
def spent : State :=
  { ending 1 with tiles := [(0, { Tile.reset.withWord .c 0 with res := some { Residence.probe with lid := 4, limit := 9 }, used := 9 })] }
theorem witness_TasksEnd :
    (∀ n ∈ [1, 2], (ending n).me.live = true ∧ (ending n).me.clockRuns = true ∧ (ending n).me.finished = true ∧
      ((ending n).unit 0 0 4).isSome = true ∧ 0 < (List.replicate n 1).length) ∧
    spent.me.clockRuns = true ∧ spent.me.sc.faulted = false ∧ (spent.me.res.map (·.limit)) = some 9 := by decide +kernel
/-- Launch 4 runs on tile 0, which the head, launch 6, is to have; one save slot is spare. -/
def head0 : WorkUnit := { launch0 (fun u => { u with place := [0] }) with id := 6, record := BitVec.ofNat 1536 (launchRec + 7 * 2 ^ 8 + 2 * 2 ^ 32) }
def running0 : WorkUnit := launch0 fun u => { u with place := [0], tasks := [1], loaded := true, state := 1, ready := none }
def sAsk (f : Tile → Tile) : State :=
  let s := paged { State.reset with units := [unit0 3 9, running0, head0] }
  { s with
    parts := s.parts.map fun x => (x.1, { x.2 with head := some (6, [0]) })
    tiles := [(0, f { Tile.reset.withWord .c (2 ^ 63) with res := some { Residence.probe with lid := 4 }, resident := 10 })]
    focus := { Focus.reset with idx := 4 } }
def drain0 : Drain := ⟨0x00F00F#24, true, true, []⟩
theorem witness_PreemptedTasksAreSavedAndRestored :
    (sAsk id).unit 0 0 4 = some running0 ∧ (sAsk id).unit 0 0 6 = some head0 ∧ ((sAsk id).part 0).head = some (6, [0]) ∧
    running0.record.toNat / 2 ^ 8 % 8 < (sAsk id).effPrio head0 ∧ running0.record.toNat / 2 ^ 384 % 2 ^ 32 = 10 ∧
    running0.runningTasks = [(0, 0)] ∧ 1 ≤ (sAsk id).spareSlots 0 ∧ 10 ≤ ((sAsk id).tile 0).resident := by decide +kernel
theorem witness_PreemptedTasksAreSavedAndRestored_save :
    let f : Tile → Tile := fun t => { t with preq := some ⟨0⟩ }
    let g : Tile → Tile := fun t => { t with drain := some drain0 }
    (sAsk f).me.preq = some ⟨0⟩ ∧ (sAsk f).me.clockRuns = true ∧ (sAsk f).willYield 0 = false ∧
    (sAsk g).me.drain = some drain0 ∧ (sAsk g).me.drained = true ∧ (sAsk g).me.saveBad drain0.bitmap = false ∧
    (sAsk g).openSlots 0 = [0] ∧ (sAsk g).me.halted = false ∧ (sAsk f).me.drain = none ∧ ((sAsk f).part 0).halt = none ∧
    (sAsk f).mem0.wf = true ∧ (sAsk f).me.res.map (fun r => (r.part, r.lid)) = some (0, 4) ∧
    (sAsk fun t => { f t with res := none }).willYield 0 = false := by decide +kernel
/-- R328: OVR counts the forced boundary when it is taken, at the launch and at its job. -/
theorem test_forced_boundary_counts :
    (match exec .forcedBoundary (sAsk fun t => { t with preq := some ⟨0⟩ }) with
      | .next t => t.me.drain.isSome && (t.units.map fun u => (u.level, u.id, u.ovr)) == [(3, 9, 1), (0, 4, 1), (0, 6, 0)]
      | _ => false) = true := by decide +kernel
/-- An error in a live accumulator and in a dead one; in a queue. -/
theorem witness_PreemptedTasksAreSavedAndRestored_errors :
    let g : List Nat → List (Nat × Nat) → Tile := fun a q => (sAsk fun t => { t with drain := some drain0, badAcc := a, badQ := q }).me
    drain0.bitmap.toNat.testBit 16 = false ∧ (g [5] []).saveBad drain0.bitmap = false ∧ (g [5] []).saveBad 0x010000#24 = true ∧
    (g [] [(14, 0)]).saveBad drain0.bitmap = true := by decide +kernel
/-- Launch 4 is saved and to be put back on tile 0. -/
def sRestore : State :=
  { sAsk id with
    tiles := [], saves := [⟨false, true, 0, 4, 0, 0, 0, drain0.bitmap,
      { Tile.reset.withWord .c (2 ^ 63) with
        res := some { Residence.probe with lid := 4, codeSize := 64, ringBase := 64 }, live := false }⟩] }
theorem witness_PreemptedTasksAreSavedAndRestored_restore :
    sRestore.saves.filter (fun x => x.part == 0 && x.lid == 4 && x.go) ≠ [] ∧ (sRestore.part 0).halt = none ∧
    (∀ x ∈ sRestore.saves, (sRestore.tile x.tid).res = none ∧ (sRestore.shadowCopy 0 (sRestore.tile x.tid)).isSome = true) := by
  decide +kernel
theorem witness_PreemptedTasksAreSavedAndRestored_pool :
    sRestore.memBad 0 ((sRestore.part 0).savebase.toNat / 2 ^ 22 % 2 ^ 30 * 2 ^ 22) (2 ^ 22) = false := rfl
/-- A fold with one launch, which has ended, and a log. -/
def fold0 (l : List LogItem) : WorkUnit := { unit0 2 3 with nl := 1, members := 1, log := l, loaded := false }
def folding (l : List LogItem) : State :=
  let s := paged { State.reset with
    units := [unit0 3 9, fold0 l, { unit0 0 4 with fold := 3, ended := true, state := 2 }] }
  { s with focus := { Focus.reset with idx := 3 } }
def log0 : List LogItem :=
  [(0x2000, 0x3F800000, 0, 5), (0x2004, 1, 2, 7), (0x2004, 3, 2, 6), (0x2000, 0x40000000, 0, 5),
    (0x2008, 0x3F800000, 1, 6)].map fun x => ⟨x.1, x.2.1, x.2.2.1, x.2.2.2, (0, x.1), false⟩
def log1 : List LogItem := log0 ++ [⟨0x2004, 9, 0, 8, (0, 0x2004), false⟩]
/-- The word of an addition holds an uncorrectable error. -/
def foldingBad (l : List LogItem) : State := { folding l with badMem := [(0, 0x2008 / 4)] }
theorem witness_FoldsCommitOrHalt :
    (∀ i ∈ log0, (folding log0).itemBad i = false) ∧ (∃ i ∈ log0, (foldingBad log0).itemBad i = true) ∧
    (fold0 log0).logFull = false ∧ ((folding log0).part 0).halt = none ∧
    (folding log0).unit 0 2 3 = some (fold0 log0) ∧ (fold0 log0).nl ≤ (fold0 log0).members ∧ (fold0 log0).state ≠ 4 ∧
    (∀ u ∈ (folding log0).units, u.part = 0 → u.level = 0 → u.fold = 3 → u.jid = 9 → u.ended = true) ∧
    logConflict log0 = none ∧ (logConflict log1).isSome = true := by decide +kernel


/-! ## Landing, bundles, hurdles -/

/-- Results of every kind in flight, two of them for one register and due. -/
def sLand : State := standing .c fun t => { t with
  flight := [⟨0, .scalar 3 7#64, 1, 0⟩, ⟨1, .scalar 4 8#64, 2, 0⟩, ⟨0, .scalar 3 9#64, 4, 0⟩,
    ⟨0, .vector 5 0xFF00#1024 (cycle floats 1), 0, 1⟩, ⟨0, .csr 0x11 0 0#64, f0, 0⟩, ⟨0, .slot 1 0x2003#14, f0, 1⟩]
  v := [(5, cycle floats 2)] }
def shadowFlight : Shadow := { shadowOf [] with flight := [⟨0, .scalar 3 7#64, f0, 0⟩] }
theorem witness_ResultsLandWhenDue :
    sLand.me.frozen = false ∧ (cycle floats 1).length = 1024 ∧ (sLand.me.vreg 5).length = 1024 ∧
    shadowFlight.flight = [⟨0, .scalar 3 7#64, f0, 0⟩] := by decide +kernel
/-- A result whose register a later-issued one of the clk takes, and one whose register no other does. -/
def lost2 : List Flight :=
  [⟨0, .pred 3 1#1024 1#1024, f0, 0⟩, ⟨0, .bases 5 7 3 true, f0, 0⟩, ⟨0, .pred 3 4#1024 0xF#1024, f0, 1⟩]
theorem witness_ResultsLandWhenDue_lost :
    (∃ g ∈ lost2.drop 1, (lost2.getD 0 default).tgt.lostTo g.tgt = true) ∧
    (∀ g ∈ lost2.drop 1, (Target.scalar 3 7#64).lostTo g.tgt = false) := by decide +kernel
/-- R29: of three results for k3 in one clk the last stands alone: what the others had for the elements it does not write is
lost, and the bases of loopr stay. -/
theorem test_lost_results :
    let t := ({ Tile.reset with k := [(3, 0x10#1024)] } : Tile).landAll lost2
    t.kreg 3 = 0x14#1024 ∧ t.vrb = 5#5 ∧ t.krb = 7#4 := by decide +kernel
/-- FLAGS is cleared but for what the clk of the write's issue and the landings raised. -/
theorem test_flags_kept :
    (({ Tile.reset with flags := 0x1F#8, kept := 0x04#8 } : Tile).land (.csr 0x010 0 0x1E#64)).flags = 0x05#8 := by decide
theorem witness_ResultsLandWhenDue_places :
    SMap.wf zeroRow sLand.me.acc = true ∧ SMap.wf ninf32 sLand.me.accM = true ∧ SMap.wf 0#32 sLand.me.accL = true ∧
    (∀ r, (sLand.me.accRow 2 r).length = 64) ∧ (∀ x ∈ [(0, 1#32), (64 * 127 + 63, 2#32)], x.1 < 64 * 128) ∧
    (∀ x ∈ [(127, 1#32), (0, 2#32)], x.1 < 128) ∧ (List.replicate 1024 3).length = 1024 ∧ 16 ∈ [4, 8, 16] ∧
    0x020 ∉ [0x010, 0x011, 0x012, 0x013, 0x014, 0x018, 0x019] :=
  ⟨by decide, by decide, by decide, fun _ => rfl, by decide, by decide, List.length_replicate .., by decide, by decide⟩
/-- Tile 0 at a bundle of the four words given; a strand whose word is absent has stopped. -/
def bundled (c v d e : Option Nat) : State :=
  onTile0 fun t =>
    let m := [(0, c), (64, v), (128, d), (192, e)].foldl (fun m x => Mem.writeN m x.1 8 (x.2.getD 0)) []
    let at_ : Option Nat → BitVec 21 → StrandSt := fun w pc =>
      { StrandSt.reset.standAt pc with running := w.isSome, age := 9 }
    { t with sp := m, sc := at_ c 0, sv := at_ v 64, sd := at_ d 128, se := at_ e 192 }
def nopS : Nat := 2 ^ 63
def slotWordOf (st : Strand) (i : Instr) : Nat := (encodeSlot st ⟨true, 0, i⟩).getD 0
/-- All four nop; with an add and a mark; with a word of no meaning; with a pop of an empty queue. -/
def bundle0 : State := bundled (some (slotWordOf .c (.add 3 1 2))) (some nopS) (some (slotWordOf .d .mark)) (some nopS)
def bundle1 : State := bundled (some (slotWordOf .c (.add 3 1 2))) (some 0x8FE0000000000000) (some nopS) (some nopS)
def bundle2 : State := bundled (some (slotWordOf .c (.pop 3 15))) (some nopS) (some 0x8FE0000000000000) (some nopS)
def bundle3 : State := bundled (some nopS) (some nopS) none (some nopS)
def ready4 (s : State) : Bool :=
  (s.stands 0).length == 4 && s.me.clockRuns && (s.stands 0).all fun x =>
    x.2.sync && !(s.me.str x.1).faulted && (s.me.str x.1).ready x.2.delay &&
    match x.2 with
    | .ok i => s.me.unitFree i.instr
    | _ => true
def verdicts (s : State) : List Nat := (s.stands 0).map fun x => s.verdictOf 0 (((s.stands 0).head?.map (·.2)).getD (.fault 0)) x
theorem witness_BundlesIssueTogether :
    (encOps .c (.add 3 1 2)).isSome = true ∧ ready4 bundle0 = true ∧ verdicts bundle0 = [0, 0, 0, 0] ∧
    ready4 bundle1 = true ∧ verdicts bundle1 = [0, 2, 0, 0] ∧ ready4 bundle2 = true ∧ verdicts bundle2 = [1, 0, 2, 0] ∧
    (bundle3.stands 0).length = 3 ∧
    (∀ x ∈ bundle3.stands 0, x.2.sync = true ∧ (bundle3.me.str x.1).faulted = false ∧
      (bundle3.me.str x.1).minAge ≤ (bundle3.me.str x.1).age) := by decide +kernel
/-- A bundle whose E strand has not come yet while the C strand's pop would block; and one whose divider is busy. -/
def bundle4 : State :=
  (bundled (some (slotWordOf .c (.pop 3 15))) (some nopS) (some nopS) (some nopS)).onTile 0 fun t =>
    { t with se := { t.se with minAge := 20 } }
def bundle5 : State :=
  (bundled (some (slotWordOf .c (.div false 3 1 2))) (some nopS) (some nopS) (some nopS)).onTile 0 fun t => { t with busyDiv := 3 }
def come (s : State) : Nat :=
  ((s.stands 0).filter fun x => x.2.sync && decide ((s.me.str x.1).minAge ≤ (s.me.str x.1).age) && !(s.me.str x.1).faulted).length
theorem witness_BundlesIssueTogether_partners :
    bundle4.me.clockRuns = true ∧ come bundle4 = 3 ∧ (bundle4.stands 0).length = 4 ∧
    verdicts bundle4 = [1, 0, 0, 0] ∧ come bundle5 = 4 ∧ (bundle5.stands 0).any (fun x => !memberReady bundle5.me x) = true := by
  decide +kernel
/-- The D strand has stood blocked for 2^12 clk. -/
def sStall : State := standing .d fun t => { t with
  sd := { StrandSt.reset.standAt 8 with waiting := true, wait := 1, blocked := 4096 }
  res := some { Residence.probe with stallN := 12 } }
theorem witness_BundlesIssueTogether_stall :
    sStall.me.clockRuns = true ∧ (sStall.me.str .d).running = true ∧ (sStall.me.str .d).faulted = false ∧
    (sStall.me.str .d).waiting = true ∧ (sStall.me.str .d).wait ≠ 7 ∧ 2 ^ 12 ≤ (sStall.me.str .d).blocked := by decide
/-- Two tiles of a launch at hurdle 7 of their cluster, with arrivals on their way to its home. -/
def home0 (due : Option Nat) (count : Nat) : Home := ⟨0, 4, 7, 0, count, [], [], [(1, 5), (0, 3)], due, false⟩
def atHurdle (r : Nat) : Tile :=
  { Tile.reset.withWord .c (2 ^ 63) with
    res := some { Residence.probe with lid := 4, rank := r }, hur := [(7, ⟨true, true, 0, true, false, 2⟩)], hold := 9 }
def hurdles (due : Option Nat) (count : Nat) : State :=
  { choosing (fun u => { u with place := [0, 1], tasks := [1, 1], loaded := true }) id with
    tiles := [(0, atHurdle 0), (1, atHurdle 1)], homes := [home0 due count]
    saves := [⟨false, false, 0, 4, 5, 9, 0, 0, atHurdle 5⟩]
    hsets := [⟨0, 4, 7, 1, 384, 0⟩, ⟨0, 4, 8, 0, 48, 3⟩], focus := { Focus.reset with idx := 7 } }
theorem witness_HurdlePhases :
    (hurdles none 0).me.res.isSome = true ∧ ((hurdles none 0).home 0 4 7 0).transit ≠ [] ∧
    (∀ x ∈ (home0 none 0).transit, x.2 ≤ 16) ∧ (home0 none 0).count < 2 ∧ 2 ≤ (home0 none 0).count + 2 ∧
    (home0 none 0).count + 2 < 3 ∧ ({ home0 none 0 with held := [4], transit := [] } : Home).held ≠ [] ∧ 2 ≤ (home0 none 2).count ∧ (home0 (some 0) 1).due.isSome = true ∧
    ((hurdles (some 0) 2).home 0 4 7 0).due = some 0 ∧
    (hurdles none 0).focus.follow = false ∧ (home0 none 0).closing = false ∧ ({ home0 none 2 with closing := true } : Home).closing = true ∧
    (hurdles none 0).hsets.filter (·.left == 0) = [⟨0, 4, 7, 1, 384, 0⟩] ∧ (hurdles none 0).placeOf 0 4 = [0, 1] ∧
    ((hurdles none 0).placeOf 0 4).Nodup := by decide +kernel

/-! ## Translation and faults -/

/-- The tables of partition 0 go on to a 2 MiB page and to a page of 64 KiB; tile 0 waits for two walks. -/
def tables : State :=
  let s := paged (onTile0 id)
  { s with
    parts := [(0, { owner0 with reg := 0x8043FF0000100002#64, ptroot := 0x8000000000100000#64 })]
    mem0 := Mem.writeN (Mem.writeN (Mem.writeN s.mem0 0x101008 8 0xC000000000102000) 0x102008 8 0x9C00000000200000) 0x102010 8 0xC000000000103000
    walks := [⟨0, 0, [0, 5], 0x4000, 3⟩, ⟨0, 0, [0], 0x4020, 4⟩, ⟨0, 0, [0], 0x8001, 4⟩] }
def tables4 : State := { tables with mem0 := Mem.writeN tables.mem0 0x103008 8 0x8C00000000310000 }
theorem witness_TranslationAndItsService :
    (tables4.part 0).ptroot = BitVec.ofNat 64 (2 ^ 63 + 0x100 * 4096) ∧
    pteValid 0xAC00000000000000 = true ∧ pteTable 0xAC00000000000000 = false ∧ pteMalformed 0xAC00000000000000 = false ∧
    pteSz 0xAC00000000000000 = 2 ∧ (tables4.part 0).owns 0 0x100000 = true ∧ tables4.memBad 0 0x100000 8 = false ∧
    tables4.pread 0 0x100000 8 = 3 * 2 ^ 62 + 0x101 * 4096 ∧ tables4.pread 0 0x101000 8 = 0xAC00000000000000 ∧
    tables4.pread 0 0x101008 8 = 3 * 2 ^ 62 + 0x102 * 4096 ∧ tables4.pread 0 0x102008 8 = 0x9C00000000200000 ∧
    pteValid 0x9C00000000200000 = true ∧ pteMalformed 0x9C00000000200000 = false ∧ pteSz 0x9C00000000200000 = 1 ∧
    tables4.pread 0 0x102010 8 = 3 * 2 ^ 62 + 0x103 * 4096 ∧ tables4.pread 0 0x103008 8 = 0x8C00000000310000 ∧
    pteMalformed 0x8C00000000310000 = false ∧ pteSz 0x8C00000000310000 = 0 := by decide +kernel
theorem witness_TranslationAndItsService_walks :
    tables.walks[0]? = some ⟨0, 0, [0, 5], 0x4000, 3⟩ ∧ tables.walkServed 0 ⟨0, 0, [0, 5], 0x4000, 3⟩ = true ∧
    tables.walkVa 0 (0x4020 * 2 ^ 16) = some 0x9C00000000200000#64 ∧ tables.walkVa 0 (0x4000 * 2 ^ 16) = none := by decide +kernel
/-- A copy that no walker could translate, with and without a shadow image; a service past its limit. -/
def stuckRun : Run := { freshRun (.copy recCopy) with started := true, stuck := some (0x123450000#64, true) }
def missing (image : Bool) : State := standing .c fun t => { t with
  cp := { Engine.reset with run := some stuckRun }, shadowImage := if image then some (0, 0, 64) else none }
def serving : State := standing .c fun t => { t with
  shadow := some { shadowOf [] with age := 4096 }, res := some { Residence.probe with stallN := 12 } }
theorem witness_TranslationAndItsService_service :
    (missing true).me.cp.run = some stuckRun ∧ (missing true).me.shadow = none ∧ (missing true).me.halted = false ∧
    (missing true).me.live = true ∧ (missing true).me.shadowImage.isSome = true ∧ (missing false).me.shadowImage = none ∧
    (serving.me.shadow.map fun h => (h.st.running, h.age)) = some (true, 2 ^ 12) := by decide
/-- Partition 0 halted by a fault of router 5 in this clk; on die 0 the line is due. -/
def halting (age : Nat) (f : Tile → Tile) : State :=
  { onTile0 f with
    parts := [(0, { owner0 with halts := BitVec.ofNat 64 (2 ^ 63 + 0x11 * 2 ^ 55 + 9 * 2 ^ 51 + 5 * 2 ^ 42 + 7)
                                halt := some ⟨age, 3, 4, decide (3 < age), decide (4 < age)⟩ })]
    dcc := 7 }
def stopped0 (t : Tile) : Tile :=
  { t with halted := true, frozen := true, stopDcc := 30, stops := [(1, ⟨true, false, 0x01, 2, 7, 64, 0, false⟩)] }
theorem witness_FaultsHaltTheirPartition :
    (State.reset.part 0).halts.toNat.testBit 63 = false ∧ ((halting 0 id).part 0).halts.toNat.testBit 63 = true ∧
    ((halting 0 id).part 0).halt = some ⟨0, 3, 4, false, false⟩ ∧ ((halting 3 id).part 0).halt = some ⟨3, 3, 4, false, false⟩ ∧
    ((halting 9 id).part 0).halt = some ⟨9, 3, 4, true, true⟩ ∧ 0 ∉ ((halting 9 id).router 0).stopped ∧
    haltRank 1 0 < haltRank 9 5 ∧ (halting 9 stopped0).me.frozen = true ∧ (halting 9 stopped0).me.recordWritten 1 = false ∧
    (halting 9 stopped0).mem0.wf = true ∧ ((halting 9 stopped0).part 0).stopbase.toNat.testBit 63 = true ∧
    ((halting 9 stopped0).part 0).owns 0 0x500040 = true ∧ (halting 9 stopped0).me.cancelled = false ∧
    SMap.find (halting 9 stopped0).me.stops 1 = some ⟨true, false, 0x01, 2, 7, 64, 0, false⟩ := by decide +kernel

/-- A copy under way on a tile that is not halted, and one whose first unit alone was written. -/
def cutting (halted : Bool) : State :=
  (copying (.copy recCopy) recCopy [3, 1, 1, 1]).onTile 0 fun t => { t with live := true, halted := halted }
def loadOk (s : State) (run : Run) (n : Nat) : Bool :=
  match cpLoad (.copy recCopy) recCopy s run with
  | (.ok ws, _) => ws.length == n
  | _ => false
theorem witness_FaultsHaltTheirPartition_beats :
    ((cutting false).tile 0).cp.run = some (started recCopy [3, 1, 1, 1] (freshRun (.copy recCopy))) ∧
    recFields (.copy recCopy) = some recCopy ∧ ((cutting false).tile 0).cp.stopped = false ∧
    ((cutting false).tile 0).drain = none ∧ ((cutting false).tile 0).halted = false ∧ ((cutting false).tile 0).live = true ∧
    ((cutting true).tile 0).halted = true ∧
    loadOk (cutting false) (started recCopy [3, 1, 1, 1] (freshRun (.copy recCopy))) 3 = true ∧
    (∀ y ∈ (halting 3 id).tiles, ((halting 3 id).tile y.1).cp.run = none) ∧
    haltRank 1 0 < haltRank (((halting 0 id).part 0).halts.toNat / 2 ^ 51 % 2 ^ 4) (((halting 0 id).part 0).halts.toNat / 2 ^ 42 % 2 ^ 9) := by
  decide +kernel

/-! ## The host -/

/-- A booted package whose queue 3, of partition 3, and secure queue 8 may be at work; page 0 of partition 3 is in the
mailbox's translation cache. -/
def command0 : Cmd := ⟨0, 0, 77, 0x4000, 0x2000, 16, 0⟩
def hosting (queue : Nat) : State :=
  { State.reset with
    booted := true, bootst := 0x8000000000000000#64
    parts := [(3, owner0), (0, { owner0 with reg := 0xC043FF0000100001#64 })]
    tlbs := [(mailboxWho, [⟨3, 0, 0x8C00000000000000#64⟩, ⟨0, 0, 0x8C00000000000000#64⟩])]
    hostMem := Mem.writeN (Mem.writeN [] 0x2000 8 0x0000000200000004) 0x2008 8 0x0000000100000005
    mem0 := Mem.writeN [] 0x4000 8 0x1122334455667788
    units := [{ unit0 3 9 with part := 3 }]
    queues := [(queue, { HostQueue.reset with qcfg := 0x8000444000000000#64, cqb := 0x9000#64, eqb := 0xA000#64 })]
    focus := { Focus.reset with queue := queue, part := queue % 8 } }
theorem witness_CommandsThatMoveData :
    (hosting 3).bootst.toNat.testBit 63 = true ∧ command0.rsv = 0 ∧ command0.flg = 0 ∧ command0.a.toNat % 4 = 0 ∧
    command0.n.toNat % 4 = 0 ∧ 4 ≤ command0.n.toNat ∧ command0.n.toNat ≤ 2 ^ 24 ∧ command0.a.toNat + command0.n.toNat ≤ 2 ^ 48 ∧
    (hosting 3).gplace 3 mailboxWho false 0x4000 0 true false = (.at 0 0x4000, hosting 3) ∧
    ((hosting 3).part 3).guarded 0 0x4000 16 = false ∧ (16#64).toNat % 8 = 0 ∧ (16#64).toNat ≤ 32 ∧
    (0x020003000000#64).toNat < 2 ^ 48 := by decide +kernel
def secret : State := { hosting 3 with parts := [(0, { owner0 with reg := 0xC043FF0000100001#64 })] }
theorem witness_CommandsThatMoveData_places :
    hostPlaces (hosting 3) command0 false = (.ok [(16, (0, 0x4000))], hosting 3) ∧
    firstBad (hosting 3) [(16, (0, 0x4000))] 0x4000 = none ∧
    firstBad { hosting 3 with badMem := [(0, 0x1001)] } [(16, (0, 0x4000))] 0x4000 = some 0x4004 ∧
    (hostPlaces (hosting 3) { command0 with a := 0xFFF00000#64 } true).1 = .error .wait ∧
    (hostPlaces { hosting 3 with tlbs := [(mailboxWho, [⟨3, 0, 0x8800000000000000#64⟩])] } command0 true).1 =
      .error (.stop 3 0x4000) := by decide +kernel
/-- A secure partition's trace ring, the last register before it, an entry that a router refuses. -/
theorem witness_CommandsThatMoveData_registers :
    (secret.part 0).reg.toNat.testBit 62 = true ∧ secret.mgHidden (5 * 2 ^ 40) = true ∧
    (∀ i, i < 8 / 8 → secret.mgHidden (3 * 2 ^ 40 + 0x10 + 8 * i) = false) ∧ secret.focus.queue < 8 ∧
    secret.frozenAt (5 * 2 ^ 40) = none ∧
    isOk (mwriteGo 8 0 5 (2 ^ 40 + 0x018) [0x0#64] (hosting 8)) = true ∧
    isOk (mwriteGo 3 3 5 (2 ^ 40 + 0x018) [0x1#64] (hosting 3)) = false := by decide +kernel
/-- In recovery: a read of block 0x03 that runs on into block 0x04. -/
theorem witness_CommandsThatMoveData_recovery :
    State.reset.recovering = true ∧ ((0x03FFFFFFFFF8 : Nat) + 16 - 8) / 2 ^ 40 ≠ 3 ∧ (hosting 8).recovering = false := by decide +kernel
/-- The partition of queue 3 halted with all its records written, or not. -/
def halted3 (done : Bool) : State :=
  { hosting 3 with parts := [(3, { owner0 with
      halts := if done then 0x8880020000000007#64 else 0x8880000000000007#64, halt := some ⟨40, 3, 4, true, true⟩ })] }
theorem witness_CommandsForWork :
    (hosting 3).bootst.toNat.testBit 63 = true ∧ ({ command0 with a := 0, n := 64 } : Cmd).n = 64 ∧
    (∀ i, i < 2 → Mem.readN (hosting 3).hostMem (0x2000 + 8 * i) 8 / 2 ^ 32 = 1 ∨
      Mem.readN (hosting 3).hostMem (0x2000 + 8 * i) 8 / 2 ^ 32 = 2) ∧
    ((halted3 true).part 3).halts.toNat.testBit 63 = true ∧ ((halted3 true).part 3).halts.toNat.testBit 41 = true ∧
    ((halted3 false).part 3).halts.toNat.testBit 41 = false ∧ ((hosting 3).part 3).halts.toNat.testBit 63 = false ∧
    ((halted3 true).part 3).halt.isSome = true ∧ ((hosting 3).part 3).halt = none ∧
    (∀ u ∈ (halted3 true).units, u.part = 3 → u.stat = 0#64) ∧ ((halted3 true).part 3).shbase.toNat.testBit 63 = false ∧
    (({ hosting 3 with parts := [(3, { owner0 with cancels := [(3, 9)] })] } : State).part 3).cancels = [(3, 9)] ∧
    ((hosting 3).unit 3 3 9).map (·.closed) = some false ∧ ((hosting 3).unit 3 3 9).isSome = true ∧ (hosting 3).unit 3 3 5 = none := by decide +kernel
/-- Block 0 of partition 3 lies at page 1 of tier 1 and may go to page 2. -/
def moving (g : Nat) : State :=
  { hosting 3 with mem1 := Mem.writeN (Mem.writeN [] 0 8 (0x80B0000000000001 + g * 2 ^ 51)) 32768 4 0x3F80 }
/-- The page's move under way, with `done` steps made. -/
def copyingPage (done : Nat) : State := { moving 1 with migrations := [⟨6, 3, 3, 0, 0x0080000000000002, done⟩] }
def migrate0 : Cmd := { command0 with a := 0, h := 0, n := 0x0080000000000002#64 }
theorem witness_CommandsForPagesAndImages :
    (moving 0).ssEntry 3 0 = some 0 ∧ (moving 0).memBad 1 0 8 = false ∧ (moving 0).pread 1 0 8 = 0x80B0000000000001 ∧
    (0x80B0000000000001).testBit 63 = true ∧ 0x80B0000000000001 / 2 ^ 20 % 2 ^ 31 = 0 ∧ seLocOk 0x80B0000000000001 = true ∧
    seLocOk 0x0080000000000002 = true ∧ 0x80B0000000000001 / 2 ^ 52 % 2 ^ 3 = 3 ∧
    ((moving 0).part 3).ownsRange 1 32768 32768 = true ∧ ((moving 0).part 3).ownsRange 1 65536 32768 = true ∧
    ((moving 1).pread 1 0 8).testBit 51 = true ∧ ((moving 0).pread 1 0 8).testBit 51 = false ∧
    (copyingPage 5).migrations.find? (·.num == 6) = some ⟨6, 3, 3, 0, 0x0080000000000002, 5⟩ ∧
    (copyingPage 511).migrations.find? (·.num == 6) = some ⟨6, 3, 3, 0, 0x0080000000000002, 511⟩ ∧
    (copyingPage 5).ssEntry 3 0 = some 0 ∧ (copyingPage 5).memBad 1 (32768 + 64 * 5) 64 = false ∧
    (2 : W8).toNat.testBit 1 = true ∧ (copyingPage 5).migrations ≠ [] ∧ (copyingPage 5).accepted = none ∧
    (moving 0).memBad 1 32768 32768 = false ∧ (List.replicate 64 (7 : W8)).length = 64 ∧ 8 ≤ (hosting 8).focus.queue := by
  decide +kernel
/-- Queue 3 with a completion and an event to write, its event ring full. -/
def answering : State :=
  { hosting 3 with queues := [(3, { HostQueue.reset with
      qcfg := 0x8000444000000000#64, cqb := 0x9000#64, eqb := 0xA000#64, eqh := 1#64, qst := 0x0000000000020000#64
      comps := [⟨77, none, 0, 5⟩], events := [[1, 2]] })] }
theorem witness_QueuesAndRegisters :
    ((State.reset.queue 3).qcfg.toNat.testBit 63 = false) ∧ (∀ k ∈ [36, 40, 44], 4 ≤ (0x8000444000000000#64).toNat / 2 ^ k % 16 ∧
      (0x8000444000000000#64).toNat / 2 ^ k % 16 ≤ 12) ∧ ((hosting 3).queue 3).qcfg.toNat.testBit 63 = true ∧
    (answering.queue 3).comps = [⟨77, none, 0, 5⟩] ∧ (2 + 16 - 0) % 16 < 15 ∧ (answering.queue 3).events = [[1, 2]] ∧
    (∀ q, q < 8 → q ≠ 5 → (State.reset.part q).t1 &&& 0xF0#64 = 0) ∧ (∃ q, q < 8 ∧ q ≠ 5 ∧ ((hosting 3).part q).t1 &&& 0xF0#64 ≠ 0) ∧
    ((hosting 3).part 0).reg.toNat.testBit 62 = true := by
  refine ⟨by decide, by decide, by decide, by decide, by decide, by decide, by decide, ⟨3, by decide⟩, by decide⟩
/-- Fold 3 of partition 0 has logged a write that was translated through an entry since dropped. -/
def logged : State := { answering with
  units := [{ unit0 2 3 with log := [⟨0x200, 1, 0, 5, (0, 0x200), false⟩] }]
  tlbs := [(0, [⟨0, 0, BitVec.ofNat 64 (2 ^ 63)⟩])] }
def invalidated : State := logged.invalidate 0 (BitVec.ofNat 64 (2 ^ 63))
/-- R280: the completion of INVAL waits for the logged write. -/
theorem test_inval_waits :
    logged.awaits (some (.inval 0)) = false ∧ invalidated.awaits (some (.inval 0)) = true ∧ invalidated.tlb 0 = [] := by
  decide +kernel
theorem witness_QueuesAndRegisters_waiting :
    ({ answering.queue 3 with comps := [⟨77, some (.migration 6), 0, 0⟩] } : HostQueue).comps = ⟨77, some (.migration 6), 0, 0⟩ :: [] ∧
    (invalidated.unit 0 2 3).map (·.log) = some [⟨0x200, 1, 0, 5, (0, 0x200), true⟩] ∧ invalidated.staleLogged 1 = false ∧
    ((hosting 8).part 3).reg.toNat.testBit 62 = false := by decide
/-- A package that draws 2,000 W under a cap of 1,500 W over two milliseconds, after one of 1,000 W; and without a cap. -/
def powered (en : Bool) : State :=
  { State.reset with powerTime := 4000000, power := [1000], pwrcap := if en then 0x800005DC00000002#64 else 0x000005DC00000002#64 }
theorem witness_BootAndPower :
    State.reset.booted = false ∧ State.reset.thermtrip = false ∧
    4 * 600000000000 ≤ (2400000000000#64 - State.reset.flushedAt).toNat ∧
    4000000 ≤ (powered true).powerTime ∧ 2000 ≤ 2400 ∧ (powered true).pwrcap.toNat.testBit 63 = true ∧
    (powered true).pwrcap.toNat / 2 ^ 32 % 2 ^ 16 * 2 ≤ 3000 ∧ (powered false).pwrcap.toNat.testBit 63 = false ∧
    State.reset.powerTime < 4000000 ∧ State.reset.safePin = false := by decide +kernel

/-! ## Held arrivals, hidden words -/

/-- R124: with a target of one, the arrival held through Tc counts before one of a lower rank that has just come. -/
theorem test_held_arrival_first :
    let h := ({ home0 none 0 with held := [5], transit := [(2, 0)] } : Home).arrive 1 16
    h.counted = [5] ∧ h.held = [2] ∧ h.due = some 16 := by decide +kernel
/-- R285: a word that the D strand still sees as it was before an engine's write; a later write by another path ends that. -/
theorem test_hidden_word :
    let t : Tile := { Tile.reset with sp := [(8, 7)], unseen := [⟨2, 5, [(1, 9#32)], 100⟩] }
    Mem.get (t.seen 10).sp 8 = 5 ∧ Mem.get (t.seen 100).sp 8 = 7 ∧ Mem.get ((t.spWrite 8 [6]).seen 10).sp 8 = 6 := by decide +kernel
/-- R73, R135: a bundle with a trap faults, and its other members do not issue. -/
theorem test_trap_in_bundle :
    let s := bundled (some (slotWordOf .c (.trap 5))) (some nopS) (some (slotWordOf .d .mark)) (some nopS)
    verdicts s = [2, 0, 0, 0] ∧ (match exec .bundleIssue s with
      | .next t => t.me.sd.notIssued && t.me.depoch == s.me.depoch && (t.part 0).halts.toNat.testBit 63
      | _ => false) = true := by decide +kernel

end Sys2Proof.Tests
end

section
/-! SUPPORT. Boot, power and field records (R2, R3, R427 to R432): each row's effect said once, and O60. -/

namespace Sys2Proof.Proofs

open Sys2Proof.Machine Sys2Proof.Laws

/-! ## Boot (R428, R429) -/

/-- Every fail code of R428 fits the FAIL field of BOOTST. -/
theorem slotFail_lt (s : State) (slot : Nat) : s.slotFail slot < 256 := by
  unfold State.slotFail
  dsimp only
  split_ifs <;> decide

/-- The fields of BOOTST that the boot ROM sets (R429). -/
theorem bootWord_fields (ok : Bool) (slot next fail svn minsvn revk : Nat) :
    let b := (bootWord ok slot next fail svn minsvn revk).toNat
    b.testBit 63 = ok ∧ b / 2 ^ 62 % 2 = slot % 2 ∧ b / 2 ^ 61 % 2 = next % 2 ∧ b / 2 ^ 48 % 2 ^ 8 = fail % 256 := by
  intro b
  have hok := b2n_lt ok
  have hb : b = b2n ok * 2 ^ 63 + slot % 2 * 2 ^ 62 + next % 2 * 2 ^ 61 + fail % 256 * 2 ^ 48 + svn % 2 ^ 16 * 2 ^ 32 +
      minsvn % 2 ^ 16 * 2 ^ 16 + revk % 16 := by
    simp only [b, bootWord, BitVec.toNat_ofNat]
    omega
  rw [← bitAt_testBit]
  exact ⟨bitAt_of (by omega), by omega, by omega, by omega⟩

/-- What a boot leaves: the release, the rails, and BOOTST with the slot that runs (R428). -/
theorem exec_boot {s : State} (h : s.booted = false) :
    ∃ t svn, exec .boot s = .next t ∧ t.booted = true ∧ t.railsOn = true ∧ t.tiles = s.tiles ∧
      let next := bits s.bootst.toNat 61 61
      t.bootst = bootWord (s.slotFail next == 0 || s.slotFail (1 - next) == 0)
        (if s.slotFail next = 0 then next else if s.slotFail (1 - next) = 0 then 1 - next else 0) next
        (if s.slotFail next = 0 then 0 else if s.slotFail (1 - next) = 0 then s.slotFail next else s.slotFail (1 - next))
        svn s.minsvn (bits s.bootst.toNat 3 0) := by
  cases ha : s.abrupt <;>
    simp only [exec, execBoot, State.countRecord, h, ha, Bool.false_eq_true, if_false, if_true] <;>
    exact ⟨_, _, rfl, rfl, rfl, rfl, rfl⟩

/-! ## Power (R431) -/

/-- Nothing changes but the field records, what has gathered for them, and the count of free values (R432). -/
def RecordsChange (s t : State) : Prop := ∃ acc recs n, t = { s with recAcc := acc, records := recs, free := n }

theorem RecordsChange.trans {s t u : State} (h : RecordsChange s t) (h' : RecordsChange t u) : RecordsChange s u := by
  obtain ⟨_, _, _, rfl⟩ := h
  obtain ⟨acc, recs, n, rfl⟩ := h'
  exact ⟨acc, recs, n, rfl⟩

theorem gather_records (s : State) (key unit record n : Nat) : RecordsChange s (s.gather key unit record n) := by
  unfold State.gather
  dsimp only
  split <;> exact ⟨_, _, _, rfl⟩

theorem recordMs_records (s : State) (watts tj : Nat) : RecordsChange s (s.recordMs watts tj) := by
  have free : RecordsChange s s.freeNat.2 := ⟨_, _, _, rfl⟩
  have h := (((free.trans (gather_records _ 0 3600000 0 1)).trans (gather_records _ 1 3600000000 11 watts)).trans
    (gather_records _ (32 + tjBin tj) 60000 (32 + tjBin tj) 1)).trans
    (gather_records _ (48 + ampBin (s.freeNat.1 % 5001)) 1000 (48 + ampBin (s.freeNat.1 % 5001)) 1)
  simp only [State.recordMs]
  split
  · exact h.trans ⟨_, _, _, rfl⟩
  · exact h

/-- The pin asserts at 120 °C and stays; of the rest only the field records change (R431, R432). -/
theorem trip_frame (s : State) (tj : Nat) :
    ∃ recs, s.trip tj = { s with thermtrip := s.thermtrip || decide (120 ≤ tj), records := recs } := by
  by_cases h : tj < 120
  · refine ⟨s.records, ?_⟩
    rw [State.trip, if_pos (by simp [h]), decide_eq_false (by omega), Bool.or_false]
  · rw [decide_eq_true (by omega), Bool.or_true]
    cases ht : s.thermtrip
    · exact ⟨_, by rw [State.trip, if_neg (by simp [h, ht])]; rfl⟩
    · exact ⟨s.records, by rw [State.trip, if_pos (by simp [ht]), ← ht]⟩

/-- The clock step is a 7-bit field. -/
theorem stepK_eq (s : State) : s.stepK = s.pwrst.toNat / 2 ^ 57 := by
  have := s.pwrst.isLt
  simp only [State.stepK, bits]
  omega

theorem stepK_lt (s : State) : s.stepK < 128 := Nat.mod_lt _ (by decide)

/-- The next clock step fits its field. -/
theorem nextK_lt (s : State) (power : List Nat) (tj : Nat) : s.nextK power tj < 128 := by
  have := stepK_lt s
  unfold State.nextK
  dsimp only
  split_ifs <;> omega

/-- The power of the window that a millisecond ends (R431). -/
def windowPower (s : State) (watts : Nat) : List Nat := ((watts :: s.power).take 1000).take s.window

/-- PWRST at the end of a millisecond: the clock step, the average and the temperature (R431). -/
def pwrstWord (k avg tj : Nat) : W64 := BitVec.ofNat 64 (k % 128 * 2 ^ 57 + avg % 2 ^ 16 * 2 ^ 32 + min tj 255 * 2 ^ 16)

/-- What a millisecond sets stands through the gathering of its field records and the trip (R431, R432). -/
theorem trip_recordMs_fields (s : State) (power : List Nat) (left : Nat) (w : W64) (watts tj : Nat) :
    let t := (({ s with power := power, powerTime := left, pwrst := w } : State).recordMs watts tj).trip tj
    t.tiles = s.tiles ∧ t.pwrcap = s.pwrcap ∧ t.power = power ∧ t.powerTime = left ∧ t.pwrst = w ∧
      t.thermtrip = (s.thermtrip || decide (120 ≤ tj)) := by
  obtain ⟨acc, recs, n, hr⟩ := recordMs_records { s with power := power, powerTime := left, pwrst := w } watts tj
  obtain ⟨recs', ht⟩ := trip_frame (({ s with power := power, powerTime := left, pwrst := w } : State).recordMs watts tj) tj
  rw [hr] at ht
  dsimp only
  rw [hr, ht]
  exact ⟨rfl, rfl, rfl, rfl, rfl, rfl⟩

/-- CLOCK_STEP_ADJUST at the end of a millisecond (R431). -/
theorem exec_clockStepAdjust {s : State} {watts : Nat} (tj : Nat) (hms : 4000000 ≤ s.powerTime) (hw : watts ≤ 2400) :
    let seen := windowPower s watts
    ∃ t, exec (.clockStepAdjust watts tj) s = .next t ∧ t.tiles = s.tiles ∧ t.pwrcap = s.pwrcap ∧
      t.power = (watts :: s.power).take 1000 ∧ t.powerTime = s.powerTime - 4000000 ∧
      t.pwrst = pwrstWord (s.nextK seen tj) (seen.sum / seen.length) tj ∧
      t.thermtrip = (s.thermtrip || decide (120 ≤ tj)) := by
  refine ⟨_, ?_, trip_recordMs_fields s _ _ _ watts tj⟩
  simp only [exec, execClockStepAdjust]
  rw [if_neg (by simp [State.msPassed]; omega)]
  rfl

/-- Before the end of a millisecond, or with more than 2,400 W, the clock step stays (R2, R431). -/
theorem exec_clockStepAdjust_early {s : State} {watts : Nat} (tj : Nat) (h : s.powerTime < 4000000 ∨ 2400 < watts) :
    exec (.clockStepAdjust watts tj) s = .next s := by
  simp only [exec, execClockStepAdjust]
  rw [if_pos (by simp [State.msPassed]; omega)]

theorem pwrstWord_fields {k avg tj : Nat} (hk : k < 128) :
    let w := (pwrstWord k avg tj).toNat
    w / 2 ^ 57 = k ∧ w / 2 ^ 32 % 2 ^ 16 = avg % 2 ^ 16 ∧ w / 2 ^ 16 % 2 ^ 8 = min tj 255 := by
  intro w
  have hw : w = k * 2 ^ 57 + avg % 2 ^ 16 * 2 ^ 32 + min tj 255 * 2 ^ 16 := by
    simp only [w, pwrstWord, BitVec.toNat_ofNat]; omega
  have ha : avg % 2 ^ 16 < 2 ^ 16 := Nat.mod_lt _ (by decide)
  generalize avg % 2 ^ 16 = a at *
  omega

/-- The next clock step in the words of R431: it falls where the average is above the cap or the temperature at 105 °C,
and rises below both limits. -/
theorem nextK_eq (s : State) (power : List Nat) (tj : Nat) :
    let k := s.pwrst.toNat / 2 ^ 57
    let cap := s.pwrcap.toNat / 2 ^ 32 % 2 ^ 16
    let en := s.pwrcap.toNat.testBit 63
    s.nextK power tj = if (en = true ∧ cap * power.length < power.sum) ∨ 105 ≤ tj then max 32 (k - 1)
      else if (en = false ∨ 100 * power.sum < 95 * (cap * power.length)) ∧ tj < 100 then min 64 (k + 1) else k := by
  simp only [State.nextK, Bool.or_eq_true, Bool.and_eq_true, Bool.not_eq_true', decide_eq_true_eq, stepK_eq, bitAt_testBit]
  rfl

/-- Settles O60: one rule for each of boot, clock step, trip, flush, shutdown and loss of power. -/
theorem bootAndPower : Obligations.BootAndPower := by
  refine ⟨fun s h => ?boot, fun s watts tj => ⟨?adjust, exec_clockStepAdjust_early tj⟩, fun s tj => ⟨?trip, ?noTrip⟩,
    fun s => ⟨?flush, rfl⟩, fun s thermal => ?loss⟩
  case boot =>
    obtain ⟨t, svn, ht, hb, hr, htiles, hw⟩ := exec_boot h
    refine ⟨t, ht, hb, hr, htiles, ?_⟩
    have hnext : bits s.bootst.toNat 61 61 = s.bootst.toNat / 2 ^ 61 % 2 := rfl
    simp only [hnext] at hw
    have hlt : s.bootst.toNat / 2 ^ 61 % 2 < 2 := Nat.mod_lt _ (by decide)
    generalize s.bootst.toNat / 2 ^ 61 % 2 = next at hw hlt ⊢
    obtain ⟨hok, hslot, -, hfail⟩ := bootWord_fields (s.slotFail next == 0 || s.slotFail (1 - next) == 0)
      (if s.slotFail next = 0 then next else if s.slotFail (1 - next) = 0 then 1 - next else 0) next
      (if s.slotFail next = 0 then 0 else if s.slotFail (1 - next) = 0 then s.slotFail next else s.slotFail (1 - next))
      svn s.minsvn (bits s.bootst.toNat 3 0)
    rw [← hw] at hok hslot hfail
    have hf := slotFail_lt s next
    refine ⟨hok, ?_⟩
    generalize s.slotFail next = f1 at hslot hfail hf ⊢
    generalize s.slotFail (1 - next) = f2 at hslot hfail ⊢
    by_cases h1 : f1 = 0
    · rw [if_pos h1] at hslot hfail ⊢
      exact ⟨by omega, hfail⟩
    · rw [if_neg h1] at hslot hfail ⊢
      by_cases h2 : f2 = 0
      · rw [if_pos h2] at hslot hfail ⊢
        exact ⟨by omega, by omega⟩
      · rw [if_neg h2]; trivial
  case adjust =>
    intro hms hw
    obtain ⟨t, he, htiles, hcap, hpower, htime, hword, htrip⟩ := exec_clockStepAdjust tj hms hw
    have hseen : windowPower s watts = ((watts :: s.power).take 1000).take (s.pwrcap.toNat % 2 ^ 10) := by
      simp [windowPower, State.window, bits]
    obtain ⟨hk, havg, htj⟩ := pwrstWord_fields (avg := (windowPower s watts).sum / (windowPower s watts).length) (tj := tj)
      (nextK_lt s (windowPower s watts) tj)
    rw [← hword] at hk havg htj
    rw [← hseen]
    exact ⟨t, he, htiles, hcap, hpower, htime, hk.trans (nextK_eq s _ tj), havg, htj, htrip⟩
  case trip =>
    intro h hn
    simp only [exec, execThermtrip]
    rw [State.trip, if_neg (by simp [hn]; omega)]
  case noTrip =>
    intro h
    simp only [exec, execThermtrip]
    rw [State.trip, if_pos (by simp [h])]
  case flush =>
    intro h
    simp only [exec, execFieldRecordFlush]
    rw [if_neg (by omega)]
    rfl
  case loss =>
    obtain ⟨hok, -, hnext, -⟩ := bootWord_fields false 0 (bits s.bootst.toNat 61 61) 0 0 s.minsvn (bits s.bootst.toNat 3 0)
    have hb : bits s.bootst.toNat 61 61 = s.bootst.toNat / 2 ^ 61 % 2 := rfl
    exact ⟨_, rfl, rfl, rfl, rfl, rfl, rfl, rfl, rfl, rfl, rfl, rfl, rfl, rfl, rfl, by simp,
      hnext.trans (by rw [hb, Nat.mod_mod]), hok⟩

end Sys2Proof.Proofs
end

section
/-! SUPPORT. Queue pages, rings and management registers (R420 to R426, R434): each row's effect said once, and O59. -/

namespace Sys2Proof.Proofs

open Sys2Proof.Machine Sys2Proof.Laws

/-! ## Masks and bytes -/

/-- A conjunction is taken above and below a bit apart. -/
theorem land_split (k x y : Nat) : x &&& y = (x / 2 ^ k &&& y / 2 ^ k) * 2 ^ k + (x % 2 ^ k &&& y % 2 ^ k) := by
  rw [← Nat.and_div_two_pow, ← Nat.and_mod_two_pow, Nat.div_add_mod']

/-- Bytes of a number are those of its low part, then those of the rest. -/
theorem bytesOf_add (m n a b : Nat) (h : a < 256 ^ m) : bytesOf (m + n) (a + b * 256 ^ m) = bytesOf m a ++ bytesOf n b := by
  induction m generalizing a with
  | zero => simp at h; simp [h, bytesOf]
  | succ m ih =>
    have ha : a / 256 < 256 ^ m := by rw [Nat.div_lt_iff_lt_mul (by decide), ← Nat.pow_succ]; exact h
    have hp : b * 256 ^ (m + 1) = 256 * (b * 256 ^ m) := by rw [Nat.pow_succ]; ring
    have hlow : BitVec.ofNat 8 (a + 256 * (b * 256 ^ m)) = BitVec.ofNat 8 a := by
      apply BitVec.eq_of_toNat_eq; simp only [BitVec.toNat_ofNat]; omega
    have hdiv : (a + 256 * (b * 256 ^ m)) / 256 = a / 256 + b * 256 ^ m := by omega
    rw [show m + 1 + n = m + n + 1 by omega, hp, bytesOf, bytesOf, hlow, hdiv, ih _ ha, List.cons_append]

/-! ## Queue registers (R421) -/

theorem onQueue_congr {s : State} {n : Nat} {f g : HostQueue → HostQueue} (h : f (s.queue n) = g (s.queue n)) :
    s.onQueue n f = s.onQueue n g := by
  simp only [State.onQueue, h]

theorem exec_hostQueueRegisterWrite {s : State} {queue off : Nat} {v : W64} {f : HostQueue → HostQueue} (h : queue < 16)
    (hf : (s.queue queue).write off v = f (s.queue queue)) :
    exec (.hostQueueRegisterWrite queue off v) s = .next (s.onQueue queue f) := by
  simp only [exec, execHostQueueRegisterWrite, h, if_true]
  rw [onQueue_congr hf]

theorem exec_sqDoorbell {s : State} {queue : Nat} {v : W64} (h : queue < 16) :
    exec (.sqDoorbell queue v) s = .next (s.onQueue queue fun q => { q with sqt := v &&& 0xFFF }) := by
  simp only [exec, execSqDoorbell, h, if_true]
  rfl

theorem enabled_eq (q : HostQueue) : q.enabled = q.qcfg.toNat.testBit 63 := bitAt_testBit _ _

/-- The ring bases take a value while the queue is not enabled. -/
theorem write_bases {q : HostQueue} (h : q.qcfg.toNat.testBit 63 = false) (v : W64) :
    q.write 0x00 v = { q with sqb := BitVec.ofNat 64 (v.toNat / 4096 * 4096) } ∧
    q.write 0x08 v = { q with cqb := v } ∧ q.write 0x10 v = { q with eqb := v } := by
  rw [← enabled_eq] at h
  simp [HostQueue.write, h]

/-- A size of 4 to 12 is taken while the queue is not enabled. -/
theorem sizeField_taken {q : HostQueue} (h : q.qcfg.toNat.testBit 63 = false) (v : W64) (hi lo : Nat)
    (hn : 4 ≤ bits v.toNat hi lo ∧ bits v.toNat hi lo ≤ 12) : sizeField q v hi lo = bits v.toNat hi lo := by
  rw [← enabled_eq] at h
  rw [sizeField, if_neg (by simp [h]; omega)]

/-- What the mask of QCFG's fields leaves of a number (R421). -/
theorem land_qcfg (n : Nat) : n &&& 0x8000FFF0000007FF =
    n / 2 ^ 63 % 2 * 2 ^ 63 + (n % 2 ^ 63 / 2 ^ 36 % 2 ^ 12 * 2 ^ 36 + n % 2 ^ 63 % 2 ^ 36 % 2 ^ 11) := by
  rw [land_split 63, land_split 36 (n % 2 ^ 63), ← Nat.and_one_is_mod, ← Nat.and_two_pow_sub_one_eq_mod _ 12,
    ← Nat.and_two_pow_sub_one_eq_mod _ 11]
  norm_num only

/-- The fields of QCFG that a write sets, put together as the mask leaves them. -/
theorem qcfg_fields (n : Nat) : (bits n 63 63 * 2 ^ 63 + bits n 47 44 * 2 ^ 44 + bits n 43 40 * 2 ^ 40 +
      bits n 39 36 * 2 ^ 36 + bits n 10 0) % 2 ^ 64 =
    n / 2 ^ 63 % 2 * 2 ^ 63 + (n % 2 ^ 63 / 2 ^ 36 % 2 ^ 12 * 2 ^ 36 + n % 2 ^ 63 % 2 ^ 36 % 2 ^ 11) := by
  have hlow : n % 2 ^ 63 % 2 ^ 36 % 2 ^ 11 = n % 2 ^ 11 := by omega
  have hmid : n % 2 ^ 63 / 2 ^ 36 % 2 ^ 12 = n / 2 ^ 36 % 2 ^ 12 := by omega
  have h40 : n / 2 ^ 40 = n / 2 ^ 36 / 2 ^ 4 := by omega
  have h44 : n / 2 ^ 44 = n / 2 ^ 36 / 2 ^ 8 := by omega
  simp only [bits, hlow, hmid, h40, h44, Nat.pow_zero, Nat.div_one]
  generalize n / 2 ^ 63 = a
  generalize n / 2 ^ 36 = m
  have h8 : m / 2 ^ 4 / 2 ^ 4 = m / 2 ^ 8 := Nat.div_div_eq_div_mul ..
  have h12 : m / 2 ^ 8 / 2 ^ 4 = m / 2 ^ 12 := Nat.div_div_eq_div_mul ..
  omega

/-- QCFG takes EN, the three sizes and the vector: the mask of R421. -/
theorem qcfgWrite_taken {q : HostQueue} (h : q.qcfg.toNat.testBit 63 = false) {v : W64}
    (hn : ∀ k ∈ [36, 40, 44], 4 ≤ v.toNat / 2 ^ k % 16 ∧ v.toNat / 2 ^ k % 16 ≤ 12) :
    qcfgWrite q v = v &&& 0x8000FFF0000007FF := by
  have h36 := sizeField_taken h v 39 36 (hn 36 (by decide))
  have h40 := sizeField_taken h v 43 40 (hn 40 (by decide))
  have h44 := sizeField_taken h v 47 44 (hn 44 (by decide))
  apply BitVec.eq_of_toNat_eq
  rw [qcfgWrite, h36, h40, h44, BitVec.toNat_ofNat, BitVec.toNat_and]
  generalize v.toNat = n
  rw [show BitVec.toNat (0x8000FFF0000007FF : W64) = 0x8000FFF0000007FF from rfl, land_qcfg]
  exact qcfg_fields n

/-- The offsets of a queue page that name no register, and SQT, read as zero (R9, R421). -/
theorem read_unnamed (q : HostQueue) {off : Nat} (h : 0x40 ≤ off) : q.read off = 0 := by
  unfold HostQueue.read
  split
  case h_8 => rfl
  all_goals omega

/-! ## Completions and events (R421, R423, R434) -/

/-- The rings' sizes and tails as the bits of QCFG and QST (R421). -/
theorem cqEntries_eq (q : HostQueue) : q.cqEntries = 2 ^ (q.qcfg.toNat / 2 ^ 40 % 16) := rfl
theorem eqEntries_eq (q : HostQueue) : q.eqEntries = 2 ^ (q.qcfg.toNat / 2 ^ 36 % 16) := rfl
theorem cqTail_eq (q : HostQueue) : q.cqTail = q.qst.toNat / 2 ^ 16 % 2 ^ 12 := rfl
theorem eqTail_eq (q : HostQueue) : q.eqTail = q.qst.toNat / 2 ^ 32 % 2 ^ 12 := rfl
theorem message_eq (n : Nat) (q : HostQueue) : q.message n = (n / 8, q.qcfg.toNat % 2 ^ 11) := by
  simp [HostQueue.message, bits]

/-- A completion whose command still waits is not written (R280, R424). -/
theorem exec_completionWrite_waits {s : State} {c : Completion} {rest : List Completion}
    (hc : (s.queue s.focus.queue).comps = c :: rest) (hw : s.awaits c.waits = true) : exec .completionWrite s = .next s := by
  simp only [exec, execCompletionWrite, hc]
  rw [if_pos (by simp [hw])]

/-- The bytes of a completion (R423). -/
theorem completion_bytes (tag : W32) {st : Nat} (detail : W64) (h : st < 256) :
    bytesOf 8 (tag.toNat + st % 256 * 2 ^ 32) ++ bytesOf 8 detail.toNat =
      bytesOf 16 (tag.toNat + st * 2 ^ 32 + detail.toNat * 2 ^ 64) := by
  have ht := tag.isLt
  rw [Nat.mod_eq_of_lt h]
  exact (bytesOf_add 8 8 _ _ (by omega)).symm

/-- A completion that waits for nothing more is written where its ring has room (R421, R423). -/
theorem exec_completionWrite_writes {s : State} {q : HostQueue} {k tail : Nat} {c : Completion} {rest : List Completion}
    (hq : s.queue s.focus.queue = q) (hk : q.cqEntries = k) (ht : q.cqTail = tail) (hc : q.comps = c :: rest)
    (hw : s.awaits c.waits = false) (he : q.enabled = true) (hst : c.status < 256)
    (hroom : (tail + k - q.cqh.toNat % k) % k < k - 1) :
    ∃ t, exec .completionWrite s = .next t ∧ t.msix = s.msix ++ [q.message s.focus.queue] ∧
      t.hostMem = Mem.writeBytes s.hostMem (q.cqb.toNat + 16 * (tail % k))
        (bytesOf 16 (c.tag.toNat + c.status * 2 ^ 32 + c.detail.toNat * 2 ^ 64)) ∧
      t.queue s.focus.queue = { q with comps := rest, qst := qstWord q.sqHead ((tail + 1) % k) q.eqTail q.lost } := by
  subst hq hk ht
  simp only [exec, execCompletionWrite, hc]
  rw [if_neg]
  · rw [completion_bytes c.tag c.detail hst]
    generalize Mem.writeBytes _ _ _ = m
    exact ⟨_, rfl, rfl, rfl, queue_onQueue _ _ _⟩
  · simp only [hw, he, Bool.or_false, Bool.not_true, Bool.false_or, decide_eq_true_eq]
    exact Nat.not_le.mpr hroom

/-- The oldest event of an enabled queue is written, over the oldest entry of a full ring (R421, R434). -/
theorem exec_eventWrite {s : State} {q : HostQueue} {k tail : Nat} {w : List W64} {rest : List (List W64)}
    (hq : s.queue s.focus.queue = q) (hk : q.eqEntries = k) (ht : q.eqTail = tail) (hev : q.events = w :: rest)
    (he : q.enabled = true) :
    let full := (tail + k - q.eqh.toNat % k) % k ≥ k - 1
    ∃ t, exec .eventWrite s = .next t ∧ t.msix = s.msix ++ [q.message s.focus.queue] ∧
      t.hostMem = Mem.writeBytes s.hostMem (q.eqb.toNat + 16 * (tail % k))
        (bytesOf 8 (w.getD 0 0).toNat ++ bytesOf 8 (w.getD 1 0).toNat) ∧
      t.queue s.focus.queue = { q with
        events := rest
        eqh := if full then BitVec.ofNat 64 ((q.eqh.toNat + 1) % k) else q.eqh
        qst := qstWord q.sqHead q.cqTail ((tail + 1) % k) (q.lost + if full then 1 else 0) } := by
  subst hq hk ht
  simp only [exec, execEventWrite, hev]
  rw [if_neg (by simp [he])]
  generalize Mem.writeBytes _ _ _ = m
  refine ⟨_, rfl, rfl, rfl, ?_⟩
  rw [queue_onQueue]
  simp only [b2n, decide_eq_true_eq]
  rfl

/-- Is an access that INVAL waits for still logged (R280)? -/
theorem staleLogged_iff (s : State) (p : Nat) :
    s.staleLogged p = true ↔ ∃ u ∈ s.units, u.part = p ∧ ∃ i ∈ u.log, i.stale = true := by
  simp [State.staleLogged]

/-! ## Management registers (R426) -/

/-- The address of a partition's register. -/
def partAddr (part off : Nat) : BitVec 48 := BitVec.ofNat 48 (2 ^ 40 + part * 2 ^ 24 + off)

theorem partAddr_fields {part off : Nat} (hp : part < 8) (ho : off < 2 ^ 24) :
    mgBlock (partAddr part off).toNat = 1 ∧ mgInst (partAddr part off).toNat = part ∧ mgOff (partAddr part off).toNat = off := by
  simp only [partAddr, BitVec.toNat_ofNat, mgBlock, mgInst, mgOff, bits]
  omega

/-- A non-secure queue does not write a register marked S (R426). -/
theorem exec_registerWrite_secure {s : State} {queue : Nat} {addr : BitVec 48} (v : BitVec 128) (hq : queue < 8)
    (hs : s.mgSecure addr.toNat = true) : exec (.registerWrite queue addr v) s = .next s := by
  simp only [exec, execRegisterWrite, State.mgWrite, hs, hq, decide_true, Bool.and_true, if_true]

/-- What a secure queue's write of a partition's register does. -/
theorem mgWrite_part {s : State} {queue part off : Nat} (v : W64) (hp : part < 8) (ho : off < 2 ^ 24) (hq : 8 ≤ queue) :
    s.mgWrite queue (partAddr part off).toNat (v.setWidth 128) = s.writePart part off v := by
  obtain ⟨hb, hi, hoff⟩ := partAddr_fields hp ho
  rw [State.mgWrite, if_neg (by simp; omega)]
  simp only [hb, hi, hoff, hp, if_true]
  congr 1
  apply BitVec.eq_of_toNat_eq
  simp only [BitVec.toNat_setWidth]
  omega

/-- A value that the register may take is written. -/
theorem exec_registerWrite_part {s t : State} {queue part off : Nat} {v : W64} (hp : part < 8) (ho : off < 2 ^ 24)
    (hq : 8 ≤ queue) (h : s.writePart part off v = .ok t) :
    exec (.registerWrite queue (partAddr part off) (v.setWidth 128)) s = .next t := by
  simp only [exec, execRegisterWrite, mgWrite_part v hp ho hq, h]

/-- A value that it may not take changes nothing. -/
theorem exec_registerWrite_refused {s : State} {queue part off e : Nat} {v : W64} (hp : part < 8) (ho : off < 2 ^ 24)
    (hq : 8 ≤ queue) (h : s.writePart part off v = .error e) :
    exec (.registerWrite queue (partAddr part off) (v.setWidth 128)) s = .next s := by
  simp only [exec, execRegisterWrite, mgWrite_part v hp ho hq, h]

/-- A mask is free where it meets no other partition's (R339). -/
theorem masksOk_iff (s : State) (p : Nat) (f : Partition → W64) (v : W64) :
    s.masksOk p f v = true ↔ ∀ q, q < 8 → q ≠ p → f (s.part q) &&& v = 0 := by
  simp only [State.masksOk, State.others, List.all_map, List.all_filter, List.all_eq_true, List.mem_range, Function.comp,
    Bool.or_eq_true, Bool.not_eq_true', bne_eq_false_iff_eq, beq_iff_eq]
  exact forall₂_congr fun q _ => ⟨fun h hq => h.resolve_left hq, or_iff_not_imp_left.mpr⟩

/-- The registers of a partition's block that are marked S whatever PCFG says (R426). -/
theorem mgSecure_part (s : State) {part off : Nat} (hp : part < 8)
    (h : off ∈ [0x000, 0x008, 0x010, 0x018, 0x020, 0x050, 0x058, 0x060, 0x090, 0x098]) :
    s.mgSecure (partAddr part off).toNat = true := by
  have ho : off < 2 ^ 24 := by
    revert off; decide
  obtain ⟨hb, hi, hoff⟩ := partAddr_fields hp ho
  simp only [State.mgSecure, hb, hi, hoff, hp, decide_true, Bool.true_and]
  simp only [List.mem_cons, List.not_mem_nil, or_false] at h
  obtain rfl | rfl | rfl | rfl | rfl | rfl | rfl | rfl | rfl | rfl := h <;> rfl

/-- PTROOT is marked S where the partition is secure (R426). -/
theorem mgSecure_ptroot {s : State} {part : Nat} (hp : part < 8) (h : (s.part part).reg.toNat.testBit 62 = true) :
    s.mgSecure (partAddr part 0x028).toNat = true := by
  obtain ⟨hb, hi, hoff⟩ := partAddr_fields hp (off := 0x028) (by decide)
  simp only [State.mgSecure, hb, hi, hoff, hp, decide_true, Bool.true_and]
  rw [bitAt_testBit, h]

/-- Settles O59: the rules of the queue pages, of the two rings and of a write of a management register. -/
theorem queuesAndRegisters : Obligations.QueuesAndRegisters := by
  refine ⟨fun s queue v hq => ⟨exec_sqDoorbell hq, exec_hostQueueRegisterWrite hq rfl, exec_hostQueueRegisterWrite hq rfl,
      fun hoff => ?disabled, fun hon => ?enabled⟩, fun _ _ _ => rfl, fun _ _ => rfl,
    fun q => ⟨rfl, rfl, rfl, rfl, rfl, rfl, rfl, rfl, fun _ => read_unnamed q⟩, ?completion, ?event, ?registers⟩
  case disabled =>
    obtain ⟨hsq, hcq, heq⟩ := write_bases hoff v
    exact ⟨exec_hostQueueRegisterWrite hq hsq, exec_hostQueueRegisterWrite hq hcq, exec_hostQueueRegisterWrite hq heq,
      fun hn => exec_hostQueueRegisterWrite hq (by rw [← qcfgWrite_taken hoff hn]; rfl)⟩
  case enabled =>
    rw [← enabled_eq] at hon
    exact exec_hostQueueRegisterWrite hq (by simp [HostQueue.write, hon])
  case completion =>
    intro s tag st detail wait rest q k tail stale hc
    refine ⟨fun h => exec_completionWrite_waits hc ?_, fun h hen hst hroom => ?_⟩
    · obtain ⟨num, rfl⟩ | ⟨p, rfl, hp⟩ := h
      · rfl
      · exact (staleLogged_iff s p).mpr hp
    · have hw : s.awaits wait = false := by
        obtain rfl | ⟨p, rfl, hp⟩ := h
        · rfl
        · exact Bool.eq_false_iff.mpr fun h => hp ((staleLogged_iff s p).mp h)
      rw [← enabled_eq] at hen
      have hex := exec_completionWrite_writes rfl (cqEntries_eq q) (cqTail_eq q) hc hw hen hst hroom
      rwa [message_eq] at hex
  case event =>
    intro s w rest q k tail full hev hen
    rw [← enabled_eq] at hen
    have hex := exec_eventWrite rfl (eqEntries_eq q) (eqTail_eq q) hev hen
    rwa [message_eq] at hex
  case registers =>
    intro s queue part v hp write
    refine ⟨fun hq => exec_registerWrite_part hp (by decide) hq rfl, fun hq => exec_registerWrite_part hp (by decide) hq rfl,
      fun hq hfree => exec_registerWrite_part hp (by decide) hq ?_,
      fun hq hmeets => exec_registerWrite_refused (e := mREFUSED) hp (by decide) hq ?_,
      fun hq off hoff => exec_registerWrite_secure _ hq (mgSecure_part s hp hoff),
      fun hq hsec => exec_registerWrite_secure _ hq (mgSecure_ptroot hp hsec)⟩
    · simp only [State.writePart, allow, (masksOk_iff s part (·.t1) v).mpr hfree, if_true]
    · have hno : s.masksOk part (·.t1) v = false := by
        rw [Bool.eq_false_iff, Ne, masksOk_iff]
        obtain ⟨q, hq8, hqp, hm⟩ := hmeets
        exact fun h => hm (h q hq8 hqp)
      simp only [State.writePart, allow, hno, Bool.false_eq_true, if_false]

end Sys2Proof.Proofs
end

section
/-! SUPPORT. The end of a clk (R34, R337, R348, R361) and what an action of the agenda runs (R20, R72, R207, R241, R422): O6. -/

namespace Sys2Proof.Proofs

open Sys2Proof.Machine Sys2Proof.Laws

/-! ## The clk and its agenda (R34) -/

/-- The clk that the package is in, and the actions left in it. -/
def clockOf (s : State) : Nat × List Action := (s.dcc, s.agenda)

theorem clockOf_eq {s : State} {n : Nat} {l : List Action} : clockOf s = (n, l) ↔ s.dcc = n ∧ s.agenda = l := by
  rw [clockOf, Prod.mk.injEq]

theorem dcc_of_clock {s t : State} (h : clockOf t = clockOf s) : t.dcc = s.dcc := congrArg Prod.fst h

/-- What each element of a list leaves as it was, the list does. -/
theorem foldl_keeps {α γ : Type} (g : State → γ) {f : State → α → State} (h : ∀ s x, g (f s x) = g s) (l : List α)
    (s : State) : g (l.foldl f s) = g s := by
  induction l generalizing s with
  | nil => rfl
  | cons x l ih => rw [List.foldl_cons, ih, h]

@[simp] theorem setTile_clock (s : State) (t : Nat) (x : Tile) : clockOf (s.setTile t x) = clockOf s := rfl
@[simp] theorem onPart_clock (s : State) (p : Nat) (f : Partition → Partition) : clockOf (s.onPart p f) = clockOf s := rfl
@[simp] theorem onRouter_clock (s : State) (r : Nat) (f : Router → Router) : clockOf (s.onRouter r f) = clockOf s := rfl
@[simp] theorem onUnit_clock (s : State) (p l i : Nat) (f : WorkUnit → WorkUnit) : clockOf (s.onUnit p l i f) = clockOf s := rfl
@[simp] theorem choiceEvent_clock (s : State) (p : Nat) : clockOf (s.choiceEvent p) = clockOf s := rfl
@[simp] theorem postEvent_clock (s : State) (e : TraceEvent) : clockOf (s.postEvent e) = clockOf s := rfl
@[simp] theorem tickPtc_clock (s : State) : clockOf s.tickPtc = clockOf s := rfl

@[simp] theorem raiseHalt_clock (s : State) (p cause src id : Nat) : clockOf (raiseHalt s p cause src id) = clockOf s := by
  rw [(raiseHalt_does s p cause src id).1]; rfl

@[simp] theorem countError_clock (s : State) (met : Bool) : clockOf (s.countError met) = clockOf s := by cases met <;> rfl

@[simp] theorem pwriteBytes_clock (s : State) (tier pa : Nat) (l : List W8) :
    clockOf (s.pwriteBytes tier pa l) = clockOf s := by
  unfold State.pwriteBytes State.setTier
  split <;> rfl

@[simp] theorem pwrite_clock (s : State) (tier pa n v : Nat) : clockOf (s.pwrite tier pa n v) = clockOf s :=
  pwriteBytes_clock s tier pa _

@[simp] theorem vwrite_clock (s : State) (p : Nat) (secure : Bool) (va : Nat) (l : List W8) :
    clockOf (s.vwrite p secure va l) = clockOf s := by
  unfold State.vwrite
  split
  · exact countError_clock s _
  · dsimp only
    split
    · exact raiseHalt_clock ..
    · split
      · exact raiseHalt_clock ..
      · exact pwriteBytes_clock ..

@[simp] theorem writeStat_clock (s : State) (u : WorkUnit) : clockOf (s.writeStat u) = clockOf s := by
  unfold State.writeStat
  split
  · rfl
  · exact vwrite_clock ..

@[simp] theorem changeUnit_clock (s : State) (p l i : Nat) (f : WorkUnit → WorkUnit) :
    clockOf (s.changeUnit p l i f) = clockOf s := by
  unfold State.changeUnit
  split
  · exact writeStat_clock ..
  · rfl

@[simp] theorem endUnit_clock (s : State) (p l i state : Nat) : clockOf (s.endUnit p l i state) = clockOf s :=
  changeUnit_clock ..

@[simp] theorem count_clock (s : State) (p l i n : Nat) : clockOf (s.count p l i n) = clockOf s := by
  unfold State.count
  split
  · rfl
  · exact changeUnit_clock ..

@[simp] theorem settleJob_clock (s : State) (p jid : Nat) : clockOf (s.settleJob p jid) = clockOf s := by
  unfold State.settleJob
  split
  · split
    · exact endUnit_clock ..
    · rfl
  · rfl

@[simp] theorem settleGraph_clock (s : State) (p gid : Nat) : clockOf (s.settleGraph p gid) = clockOf s := by
  unfold State.settleGraph
  split
  · split
    · exact endUnit_clock ..
    · rfl
  · rfl

@[simp] theorem refresh_clock (s : State) (p : Nat) : clockOf (s.refresh p) = clockOf s := by
  unfold State.refresh
  dsimp only
  split <;> rfl

/-! ## What cancels leave of the clk (R337, R361) -/

@[simp] theorem choiceEvent_dcc (s : State) (p : Nat) : (s.choiceEvent p).dcc = s.dcc := rfl
@[simp] theorem onUnit_dcc (s : State) (p l i : Nat) (f : WorkUnit → WorkUnit) : (s.onUnit p l i f).dcc = s.dcc := rfl
@[simp] theorem writeStat_dcc (s : State) (u : WorkUnit) : (s.writeStat u).dcc = s.dcc := dcc_of_clock (writeStat_clock ..)
@[simp] theorem changeUnit_dcc (s : State) (p l i : Nat) (f : WorkUnit → WorkUnit) : (s.changeUnit p l i f).dcc = s.dcc :=
  dcc_of_clock (changeUnit_clock ..)
@[simp] theorem endUnit_dcc (s : State) (p l i state : Nat) : (s.endUnit p l i state).dcc = s.dcc :=
  dcc_of_clock (endUnit_clock ..)
@[simp] theorem count_dcc (s : State) (p l i n : Nat) : (s.count p l i n).dcc = s.dcc := dcc_of_clock (count_clock ..)
@[simp] theorem settleJob_dcc (s : State) (p jid : Nat) : (s.settleJob p jid).dcc = s.dcc := dcc_of_clock (settleJob_clock ..)
@[simp] theorem settleGraph_dcc (s : State) (p gid : Nat) : (s.settleGraph p gid).dcc = s.dcc :=
  dcc_of_clock (settleGraph_clock ..)
@[simp] theorem refresh_dcc (s : State) (p : Nat) : (s.refresh p).dcc = s.dcc := dcc_of_clock (refresh_clock ..)

@[simp] theorem endLaunch_dcc (s : State) (p lid state : Nat) : (s.endLaunch p lid state).dcc = s.dcc := by
  unfold State.endLaunch
  split
  · rfl
  · simp only [choiceEvent_dcc, refresh_dcc, settleJob_dcc, settleGraph_dcc, endUnit_dcc, onUnit_dcc, onPart_dcc]

@[simp] theorem cancelLaunch_dcc (s : State) (p lid : Nat) : (s.cancelLaunch p lid).dcc = s.dcc := by
  unfold State.cancelLaunch
  split
  · rfl
  · simp only [endLaunch_dcc, count_dcc, changeUnit_dcc]
    exact foldl_keeps State.dcc (fun s tid => by split <;> rfl) _ s

@[simp] theorem cancelLaunches_dcc (s : State) (p : Nat) (c : WorkUnit → Bool) : (s.cancelLaunches p c).dcc = s.dcc :=
  foldl_keeps State.dcc (fun s lid => cancelLaunch_dcc s p lid) _ s

@[simp] theorem countGraphOf_dcc (s : State) (u : WorkUnit) (n : Nat) : (s.countGraphOf u n).dcc = s.dcc := by
  unfold State.countGraphOf
  dsimp only
  split
  · split
    · rfl
    · exact writeStat_dcc ..
  · rfl

@[simp] theorem countFold_dcc (s : State) (p : Nat) (f : WorkUnit) : (s.countFold p f).dcc = s.dcc := by
  simp only [State.countFold, count_dcc]
  rw [foldl_keeps State.dcc, foldl_keeps State.dcc]
  · exact fun s u => countGraphOf_dcc s u _
  · intro s u
    split
    · rfl
    · exact writeStat_dcc ..

@[simp] theorem cancelTop_dcc (s : State) (p level id jid : Nat) (of : WorkUnit → Bool) :
    (s.cancelTop p level id jid of).dcc = s.dcc := changeUnit_dcc ..

@[simp] theorem cancelFold_dcc (s : State) (p id : Nat) : (s.cancelFold p id).dcc = s.dcc := by
  unfold State.cancelFold
  split
  · rfl
  · simp only [endUnit_dcc, changeUnit_dcc, countFold_dcc, cancelLaunches_dcc]

@[simp] theorem cancelGraph_dcc (s : State) (p id : Nat) : (s.cancelGraph p id).dcc = s.dcc := by
  unfold State.cancelGraph
  split
  · rfl
  · simp only [cancelLaunches_dcc, cancelTop_dcc]

@[simp] theorem cancelUnit_dcc (s : State) (p level id : Nat) : (s.cancelUnit p level id).dcc = s.dcc := by
  have folds : ∀ (l : List Nat) (s : State), (l.foldl (fun (s : State) f => s.cancelFold p f) s).dcc = s.dcc :=
    foldl_keeps State.dcc fun s f => cancelFold_dcc s p f
  have graphs : ∀ (l : List Nat) (s : State), (l.foldl (fun (s : State) g => s.cancelGraph p g) s).dcc = s.dcc :=
    foldl_keeps State.dcc fun s g => cancelGraph_dcc s p g
  unfold State.cancelUnit
  split
  · rfl
  · simp only [choiceEvent_dcc, refresh_dcc, settleJob_dcc]
    split
    · exact cancelLaunch_dcc ..
    · exact cancelGraph_dcc ..
    · exact folds ..
    · simp only [cancelLaunches_dcc, folds, graphs, cancelTop_dcc]

@[simp] theorem takeCancels_dcc (s : State) (p : Nat) : (s.takeCancels p).dcc = s.dcc := by
  unfold State.takeCancels
  split
  · rfl
  · exact foldl_keeps State.dcc (fun s (c : Nat × Nat) => cancelUnit_dcc s p c.1 c.2) _ _

/-- Where no cancel waits, the end of the clk takes none. -/
theorem takeCancels_idle {s : State} (p : Nat) (h : ∀ q, (s.part q).cancels = []) :
    (s.takeCancels p).agenda = s.agenda ∧ ∀ q, ((s.takeCancels p).part q).cancels = [] := by
  unfold State.takeCancels
  split
  · exact ⟨rfl, h⟩
  · rw [h p]
    refine ⟨rfl, fun q => ?_⟩
    by_cases hq : q = p
    · subst hq; rw [List.foldl_nil, part_onPart]
    · rw [List.foldl_nil, State.onPart, part_setPart_ne s _ hq]; exact h q

theorem takeCancels_all_idle (l : List Nat) {s : State} (h : ∀ q, (s.part q).cancels = []) :
    (l.foldl State.takeCancels s).agenda = s.agenda := by
  induction l generalizing s with
  | nil => rfl
  | cons p l ih =>
    obtain ⟨ha, hc⟩ := takeCancels_idle p h
    rw [List.foldl_cons, ih hc, ha]

/-! ## What halts leave of the clk (R348, R433) -/

@[simp] theorem traceAt_clock (s : State) (r : Nat) (e : TraceEvent) : clockOf (s.traceAt r e) = clockOf s := by
  unfold State.traceAt
  split
  · rfl
  · split <;> rfl

@[simp] theorem ringTake_clock (s : State) (die part : Nat) (ws : List W64) : clockOf (s.ringTake die part ws) = clockOf s := by
  unfold State.ringTake
  dsimp only
  split <;> rfl

@[simp] theorem partEvent_clock (s : State) (die : Nat) (e : TraceEvent) : clockOf (s.partEvent die e) = clockOf s := by
  simp only [State.partEvent, State.traceIn, postEvent_clock, ringTake_clock]

@[simp] theorem idleStops_clock (s : State) (p : Nat) (h : HaltSt) : clockOf (s.idleStops p h) = clockOf s := by
  unfold State.idleStops
  dsimp only
  split
  · rfl
  · refine foldl_keeps clockOf (fun s y => ?_) _ s
    split
    · exact pwrite_clock ..
    · rfl

@[simp] theorem freezeHalt_clock (s : State) (p : Nat) : clockOf (freezeHalt s p) = clockOf s := by
  simp only [freezeHalt]
  rw [apply_ite clockOf, onPart_clock, ite_self]
  generalize hs : List.foldl _ _ _ = s'
  have h' : clockOf s' = clockOf s := by
    rw [← hs, foldl_keeps clockOf]
    · rfl
    · exact fun s lid => by rw [onUnit_clock, changeUnit_clock]
  split
  · rw [idleStops_clock]; exact h'
  · exact h'

@[simp] theorem tickHalt_clock (s : State) (p : Nat) : clockOf (s.tickHalt p) = clockOf s := by
  unfold State.tickHalt
  split
  · rfl
  · simp only [onPart_clock]
    split_ifs <;> simp only [freezeHalt_clock, postEvent_clock, traceAt_clock, partEvent_clock]

/-- The end of a clk: DCC rises by one, and the agenda is what the clk's cancels leave of it (R34, R361). -/
theorem endClk_clock (s : State) :
    clockOf s.endClk = (s.dcc + 1, ((List.range 8).foldl State.takeCancels s).agenda) := by
  have hd : ((List.range 8).foldl State.takeCancels s).dcc = s.dcc := foldl_keeps State.dcc takeCancels_dcc _ s
  simp only [State.endClk]
  rw [← hd]
  generalize (List.range 8).foldl State.takeCancels s = c
  generalize hs : List.foldl (fun s p => State.tickHalt s p) _ _ = h
  have hc : clockOf h.tickPtc = clockOf c := by
    rw [tickPtc_clock, ← hs, foldl_keeps clockOf tickHalt_clock]; rfl
  exact congrArg (fun x : Nat × List Action => (x.1 + 1, x.2)) hc

theorem endClk_dcc (s : State) : s.endClk.dcc = s.dcc + 1 := (clockOf_eq.mp (endClk_clock s)).1

theorem endClk_agenda {s : State} (h : ∀ p, (s.part p).cancels = []) : s.endClk.agenda = s.agenda :=
  (clockOf_eq.mp (endClk_clock s)).2.trans (takeCancels_all_idle _ h)

/-! ## A step -/

/-- An action that makes the machine run a row of the table runs it. -/
theorem step_runs {s s' : State} {a : Action} {rest : List Action} {i : Instr} (h : s.agenda = a :: rest)
    (hp : prepare { s with agenda := rest } a = (some i, s')) : step s = exec i s' := by
  rw [step, h]; simp only [hp]

/-- Any other action only changes the state. -/
theorem step_changes {s s' : State} {a : Action} {rest : List Action} (h : s.agenda = a :: rest)
    (hp : prepare { s with agenda := rest } a = (none, s')) : step s = .next s' := by
  rw [step, h]; simp only [hp]

/-- Without rails, where nothing raises them, the machine stops (R431). -/
theorem step_noPower {s : State} (h : s.agenda = []) (hr : s.railsOn = false) (hb : ∀ f, Action.row f .boot ∉ s.inputs) :
    step s = .fault .noPower := by
  have hn : s.nextClk = none := by
    rw [State.nextClk, if_neg (by simp [hr])]
    dsimp only
    rw [List.dropWhile_eq_nil_iff.mpr]
    intro a ha
    split
    · exact absurd ha (hb _)
    · rfl
  rw [step, h]
  simp only [hn]

/-! ## The head of a strand (R20 to R22, R72) -/

/-- A word within the code region of the task may be fetched (R22). -/
theorem targetFault_inCode {s : State} {a : Nat} {r : Residence} (hs : s.focus.shadow = false) (hr : s.me.res = some r)
    (hlo : r.codeBase ≤ a) (hhi : a + 8 ≤ r.codeBase + r.codeSize) (ha : a % 8 = 0) : s.targetFault a = none := by
  simp only [State.targetFault, hs, hr, Bool.false_eq_true, if_false]
  rw [if_neg (by omega), if_neg (by omega), if_neg (by omega)]

/-- A word within a miss handler's image may be fetched (R139). -/
theorem targetFault_inImage {s : State} {a len : Nat} {g : Nat × Nat} (hs : s.focus.shadow = true)
    (hi : s.me.shadowImage = some (g.1, g.2, len)) (hlen : a + 8 ≤ len) (ha : a % 8 = 0) : s.targetFault a = none := by
  simp only [State.targetFault, hs, hi, if_true, Option.map_some, Option.getD_some]
  rw [if_neg (by omega)]

/-- The head of a strand is what the bytes at its place decode to (R72). -/
theorem head_eq {s : State} (hs : s.focus.shadow = false) (hf : s.targetFault s.pcNow.toNat = none)
    (hb : s.me.spBad s.pcNow.toNat 8 = false) :
    (∀ x, decodeSlot s.focus.strand (Mem.readN s.me.sp s.pcNow.toNat 8) = .ok x → s.head = .ok x) ∧
    ∀ e, decodeSlot s.focus.strand (Mem.readN s.me.sp s.pcNow.toNat 8) = .error e → s.head =
      .bad (bitAt (Mem.readN s.me.sp s.pcNow.toNat 8) 63) (bits (Mem.readN s.me.sp s.pcNow.toNat 8) 62 60) := by
  constructor <;> intro _ hd <;> simp [State.head, hf, hs, hb, hd]

theorem head_shadow {s : State} {x : Slot} (hs : s.focus.shadow = true) (hf : s.targetFault s.pcNow.toNat = none)
    (hd : decodeSlot s.focus.strand (Mem.readN s.me.shadowStore s.pcNow.toNat 8) = .ok x) : s.head = .ok x := by
  simp [State.head, hf, hs, hd]

theorem ready_eq_true {x : StrandSt} {d : Nat} : x.ready d = true ↔ x.minAge ≤ x.age ∧ 1 + d ≤ x.age := by
  simp [StrandSt.ready]

/-- A strand that may issue tries the instruction at its head (R14, R20). -/
theorem prepareIssue_ok {s : State} {tid : Nat} {st : Strand} {x : Slot} (hm : (s.tile tid).mayIssue st = true)
    (hh : (s.atStrand tid st).head = .ok x) : prepareIssue s tid st =
      (if !x.sync && ((s.tile tid).str st).ready x.delay.toNat && (s.tile tid).unitFree x.instr then some x.instr else none,
        s.atStrand tid st) := by
  have hm' : (s.atStrand tid st).me.mayIssue st = true := hm
  simp only [prepareIssue, hm', hh, Bool.not_true, Bool.false_eq_true, if_false]
  rfl

/-- A word of no meaning at its head faults once it would issue (R72). -/
theorem prepareIssue_bad {s : State} {tid : Nat} {st : Strand} {sync : Bool} {d : Nat} (hm : (s.tile tid).mayIssue st = true)
    (hh : (s.atStrand tid st).head = .bad sync d) : prepareIssue s tid st =
      (none, if !sync && ((s.tile tid).str st).ready d then strandFault (s.atStrand tid st) tid st cILLEGAL 0
        else s.atStrand tid st) := by
  have hm' : (s.atStrand tid st).me.mayIssue st = true := hm
  simp only [prepareIssue, hm', hh, Bool.not_true, Bool.false_eq_true, if_false]
  rfl

/-- A shadow context whose head is due runs it, where the divider is free (R136, R139). -/
theorem prepareShadow_ok {s s' : State} {tid : Nat} {h : Shadow} {x : Slot}
    (hs' : s' = { s with focus := { Focus.reset with tile := tid, strand := .c, shadow := true } })
    (hh : (s.tile tid).shadow = some h) (hrun : h.st.running = true) (hhead : s'.head = .ok x)
    (hready : h.st.ready x.delay.toNat = true) (hsync : x.sync = false) (hdiv : h.divBusy = 0) :
    prepareShadow s tid = (some x.instr, s') := by
  subst hs'
  have hme : ({ s with focus := { Focus.reset with tile := tid, strand := .c, shadow := true } } : State).me.shadow =
      some h := hh
  simp only [prepareShadow, hme, hrun, hhead, hready, hsync, hdiv, Bool.not_true, Bool.false_eq_true, if_false, if_true]
  split <;> rfl

/-! ## Engines, packets and the mailbox -/

theorem stopped_of_engineRuns {t : Tile} {eng : Nat} (h : t.engineRuns eng = true) : (t.eng eng).stopped = false := by
  simp only [Tile.engineRuns, Bool.and_eq_true, Bool.not_eq_true'] at h
  exact h.1.2

/-- A record at the head of an engine that has work of its own to do runs (R207). -/
theorem headWork_record {s : State} {run : Run} {i : Instr} (hr : s.myEng.run = some run) (hi : run.instr = some i)
    (hstop : s.myEng.stopped = false) (hstart : s.focus.eng = 0 → run.started = false) (hstuck : run.stuck = none)
    (hdone : run.done = false) : s.headWork = some i := by
  have hbegun : (s.focus.eng == 0 && run.started) = false := by
    rw [Bool.and_eq_false_imp, beq_iff_eq]; exact hstart
  simp [State.headWork, hr, hi, hstop, hbegun, hstuck, hdone]

/-- The turn of an engine that holds a record (R207). -/
theorem prepareEngine_record {s : State} {tid eng : Nat} {run : Run} {i : Instr} (he : (s.tile tid).engineRuns eng = true)
    (hr : ((s.tile tid).eng eng).run = some run) (hi : run.instr = some i)
    (h0 : eng = 0 → run.started = false ∧ ((s.tile tid).eng eng).away = none) (hstuck : run.stuck = none)
    (hdone : run.done = false) :
    prepareEngine s tid eng = (some i, { s with focus := { Focus.reset with tile := tid, eng := eng } }) := by
  have hwork := headWork_record (s := { s with focus := { Focus.reset with tile := tid, eng := eng } }) hr hi
    (stopped_of_engineRuns he) (fun h => (h0 h).1) hstuck hdone
  generalize hs' : ({ s with focus := { Focus.reset with tile := tid, eng := eng } } : State) = s' at hwork ⊢
  have hme : s'.me = s.tile tid := by rw [← hs']; rfl
  have hmy : s'.myEng = (s.tile tid).eng eng := by rw [← hs']; rfl
  have hrecall : (decide (eng = 0) && ((s.tile tid).eng eng).away.isSome) = false := by
    rw [Bool.and_eq_false_imp, decide_eq_true_eq]; intro h; rw [(h0 h).2]; rfl
  simp only [prepareEngine, hs', hme, hmy, he, hr, hrecall, hwork, Bool.not_true, Bool.false_eq_true, if_false,
    Option.isNone_some]

/-- The mailbox takes the command of the queue whose turn it is (R422, R424). -/
theorem prepareMailbox_takes {s : State} {k : Nat} {i : Instr} (hn : s.nextQueue = some k)
    (hd : decodeCmd (Mem.readN s.hostMem ((s.queue k).sqb.toNat + 64 * ((s.queue k).sqHead % (s.queue k).sqEntries)) 64) =
      some i) :
    prepareMailbox s = (some i, { s with focus := { Focus.reset with queue := k } }) := by
  simp only [prepareMailbox, hn]
  rw [hd]

/-- A packet that meets an entry runs the entry's operation (R241). -/
theorem prepareArrive_entry {s s' : State} {r port ch : Nat} {p : Packet} {x : Entry}
    (hs' : s' = { s with focus := { Focus.reset with router := r, port := port, cls := ch } })
    (hm : s'.meet = .entry p x) : prepareArrive s r port ch = (flowInstr x.op x.e, s') := by
  subst hs'
  simp only [prepareArrive, hm]

/-- Settles O6: each action of an agenda by what it prepares. -/
theorem aStepRunsTheDecodedInstruction : Obligations.AStepRunsTheDecodedInstruction := by
  refine ⟨?strand, ?shadow, ?engine, ?packet, ?command, fun s f i rest ha => step_runs ha rfl, ?clk, fun s => step_noPower⟩
  case strand =>
    intro s tid st rest ha t pc s' hclk hrun hnf hcode hal hbad w
    obtain ⟨r, hres, hlo, hhi⟩ := hcode
    have hm : (({ s with agenda := rest } : State).tile tid).mayIssue st = true := by
      change (t.clockRuns && (t.str st).running && !(t.str st).faulted) = true
      rw [hclk, hrun, hnf]; rfl
    have hfetch : s'.targetFault s'.pcNow.toNat = none := targetFault_inCode rfl hres hlo hhi hal
    obtain ⟨hok, hill⟩ := head_eq (s := s') rfl hfetch hbad
    refine ⟨fun x hd hsync hmin hdue hfree => ?_, fun e hd hsync hmin hdue => ?_, fun hearly => ?_⟩
    · have hready : (t.str st).ready x.delay.toNat = true := ready_eq_true.mpr ⟨hmin, hdue⟩
      refine step_runs ha ((prepareIssue_ok hm (hok x hd)).trans ?_)
      change (if !x.sync && (t.str st).ready x.delay.toNat && t.unitFree x.instr then some x.instr else none, s') = _
      rw [hsync, hready, hfree]; rfl
    · have hready : (t.str st).ready (bits w 62 60) = true := ready_eq_true.mpr ⟨hmin, hdue⟩
      refine step_changes ha ((prepareIssue_bad hm (hill e hd)).trans ?_)
      change (none, if !bitAt w 63 && (t.str st).ready (bits w 62 60) then strandFault s' tid st cILLEGAL 0 else s') = _
      rw [bitAt_testBit, hsync, hready]; rfl
    · have hnot : ∀ d, (t.str st).ready d = false := fun d => by
        rw [Bool.eq_false_iff, Ne, ready_eq_true]; omega
      cases hd : decodeSlot st w with
      | ok x =>
        refine step_changes ha ((prepareIssue_ok hm (hok x hd)).trans ?_)
        change (if !x.sync && (t.str st).ready x.delay.toNat && t.unitFree x.instr then some x.instr else none, s') = _
        rw [hnot, Bool.and_false, Bool.false_and]; rfl
      | error e =>
        refine step_changes ha ((prepareIssue_bad hm (hill e hd)).trans ?_)
        change (none, if !bitAt w 63 && (t.str st).ready (bits w 62 60) then strandFault s' tid st cILLEGAL 0 else s') = _
        rw [hnot, Bool.and_false]; rfl
  case shadow =>
    intro s tid h len g rest x ha hsh hrun himg hlen hal hd hsync hdiv hmin hdue
    generalize hs' : ({ s with agenda := rest, focus := { Focus.reset with tile := tid, shadow := true } } : State) = s'
    have hme : s'.me = s.tile tid := by rw [← hs']; rfl
    have hf : s'.focus.shadow = true := by rw [← hs']
    have hst : s'.focus.strand = .c := by rw [← hs']; rfl
    have hpc : s'.pcNow = h.st.pc := by rw [State.pcNow, if_pos hf, hme, hsh]; rfl
    have hfetch : s'.targetFault s'.pcNow.toNat = none :=
      targetFault_inImage hf (by rw [hme]; exact himg) (by rw [hpc]; exact hlen) (by rw [hpc]; exact hal)
    have hhead : s'.head = .ok x := head_shadow hf hfetch (by rw [hst, hme, hpc]; exact hd)
    exact step_runs ha (prepareShadow_ok (s := { s with agenda := rest }) hs'.symm hsh hrun hhead
      (ready_eq_true.mpr ⟨hmin, hdue⟩) hsync hdiv)
  case engine =>
    intro s tid eng run i rest ha he hr hi h0 hstuck hdone
    exact step_runs ha (prepareEngine_record (s := { s with agenda := rest }) he hr hi h0 hstuck hdone)
  case packet =>
    intro s r port ch p x i rest s' ha hm hi
    refine step_runs ha ((prepareArrive_entry (s := { s with agenda := rest }) (s' := s') rfl hm).trans ?_)
    rw [hi]
  case command =>
    intro s k i rest ha hn q hd
    exact step_runs ha (prepareMailbox_takes (s := { s with agenda := rest }) hn hd)
  case clk =>
    intro s rest ha
    exact ⟨_, step_changes ha rfl, endClk_dcc _, endClk_agenda (s := { s with agenda := rest })⟩

end Sys2Proof.Proofs
end

section
/-! SUPPORT. Branches and the instructions common to the strands (R22, R75, R76, R105, R111): each said once, and O12. -/

namespace Sys2Proof.Proofs

open Sys2Proof.Machine Sys2Proof.Laws

/-! ## Branch targets (R22, R105) -/

theorem branchCheck_inCode {s : State} {x : Int} (hs : s.focus.shadow = false) (h : s.inCode x) : s.branchCheck x = .go := by
  obtain ⟨r, hr, hlo, hhi, hal, hmax⟩ := h
  have hf : s.targetFault x.toNat = none := targetFault_inCode hs hr (by omega) (by omega) (by omega)
  rw [State.branchCheck, if_neg (by omega), hf]

theorem branchCheck_outsideCode {s : State} {x : Int} (hs : s.focus.shadow = false) (h : s.outsideCode x) :
    s.branchCheck x = .fault cPERM (BitVec.ofInt 64 x) := by
  obtain ⟨r, hr, hout⟩ := h
  by_cases hx : x < 0 ∨ x ≥ 2 ^ 21
  · rw [State.branchCheck, if_pos hx, hs]; rfl
  · have hf : s.targetFault x.toNat = some cPERM := by
      simp only [State.targetFault, hs, hr, Bool.false_eq_true, if_false]
      rw [if_pos (by omega)]
    rw [State.branchCheck, if_neg hx, hf]

theorem branchCheck_misaligned {s : State} {x : Int} (hs : s.focus.shadow = false) (h : s.misaligned x) :
    s.branchCheck x = .fault cALIGN (BitVec.ofInt 64 x) := by
  obtain ⟨r, hr, hlo, hhi, hal, hmax⟩ := h
  have hf : s.targetFault x.toNat = some cALIGN := by
    simp only [State.targetFault, hs, hr, Bool.false_eq_true, if_false]
    rw [if_neg (by omega), if_pos (by omega)]
  rw [State.branchCheck, if_neg (by omega), hf]

/-- A branch moves the strand to its target behind two bubbles, or on to the next word (R105). -/
theorem branch_eq {s : State} (hs : s.focus.shadow = false) (taken : Bool) (x : Int) :
    s.branch taken x = s.withMe (if taken then s.me.movedTo s.focus.strand (BitVec.ofInt 21 x) 3
      else s.me.moved s.focus.strand) := by
  cases taken
  · exact retire_eq hs
  · exact moveTo_eq hs _ _

theorem relTarget_eq {s : State} (hs : s.focus.shadow = false) (off : BitVec 21) :
    s.relTarget off = ((s.me.str s.focus.strand).pc.toNat : Int) + 8 * off.toInt := by
  rw [State.relTarget, pcNow_eq hs]

/-- The conditions of R79, as the branches test them. -/
theorem icond_iff {c : BitVec 3} (hc : c.toNat < 6) (a b : W64) : icond c.toNat a b = true ↔ CondHolds c a b := by
  unfold CondHolds
  generalize c.toNat = k at hc
  match k, hc with
  | 0, _ => simp [icond]
  | 1, _ => simp [icond]
  | 2, _ => simp [icond, BitVec.slt]
  | 3, _ => simp [icond, BitVec.slt]
  | 4, _ => simp [icond, BitVec.ult]
  | 5, _ => simp [icond, BitVec.ult]

theorem exec_br_issue (s : State) (off : BitVec 21) : exec (.br off) s =
    issue s (s.branchCheck (s.relTarget off)) (fun s => s.branch true (s.relTarget off)) := rfl

theorem exec_bc_issue (s : State) (cond : BitVec 3) (sa sb : BitVec 6) (off : BitVec 21) : exec (.bc cond sa sb off) s =
    issue s (s.branchIf (icond cond.toNat (s.rs sa) (s.rs sb)) (s.relTarget off))
      (fun s' => s'.branch (icond cond.toNat (s.rs sa) (s.rs sb)) (s'.relTarget off)) := rfl

theorem exec_jr_issue (s : State) (sa : BitVec 6) : exec (.jr sa) s =
    issue s (s.branchCheck (s.rs sa).toNat) (fun s' => s'.branch true (s.rs sa).toNat) := rfl

theorem exec_call_issue (s : State) (sd : BitVec 6) (off : BitVec 21) : exec (.call sd off) s =
    issue s (s.branchCheck (s.relTarget off))
      fun s => (s.result sd 1 ((s.pcNow + 8#21).setWidth 64) f0).branch true (s.relTarget off) := rfl

/-- An instruction that issues under a check takes the fault that the check finds. -/
theorem exec_faultsAt {s : State} {st : Strand} {i : Instr} {c : Check} {e : State → State} {cause : Nat} {p : W64}
    (h : Alone s st) (hu : s.unfaulted) (hi : exec i s = issue s c e) (hc : c = .fault cause p) :
    FaultsAt s (exec i s) cause := by
  rw [hi]
  exact issue_faultsAt e h.1 h.2.1 hu hc

/-! ## What each branch answers (R75, R76, R111) -/

section
variable {s : State} {st : Strand} (h : Alone s st)
include h

/-- A branch whose check passes, taken or not. -/
theorem issue_branch {c : Check} {taken : Bool} {x : Int} (hc : c = .go) :
    issue s c (fun s => s.branch taken x) =
      .next (s.withMe (if taken then s.me.movedTo st (BitVec.ofInt 21 x) 3 else s.me.moved st)) := by
  obtain ⟨hm, hs, rfl⟩ := h
  rw [issue_go _ hm hc, branch_eq hs]

theorem issue_taken {c : Check} {x : Int} (hc : c = .go) :
    issue s c (fun s => s.branch true x) = .next (s.withMe (s.me.movedTo st (BitVec.ofInt 21 x) 3)) :=
  issue_branch h hc

theorem relTarget_alone (off : BitVec 21) : s.relTarget off = ((s.me.str st).pc.toNat : Int) + 8 * off.toInt := by
  obtain ⟨-, hs, rfl⟩ := h
  exact relTarget_eq hs off

theorem exec_nop : exec .nop s = .next (s.withMe (s.me.moved st)) := by
  obtain ⟨hm, hs, rfl⟩ := h
  exact (issue_go _ hm rfl).trans (congrArg _ (retire_eq hs))

theorem exec_fin (hv : st = .v → s.me.span = none) (hd : st = .d → s.me.dIdle = true) :
    exec .fin s = .next (s.withMe ((s.me.moved st).onStr st fun x => { x with running := false })) := by
  obtain ⟨hm, hs, rfl⟩ := h
  change execFin s = _
  rw [execFin, issue_go _ hm]
  · rw [retire_eq hs, withMe_onMe]
  · rw [taskOnly_eq hs]
    cases hst : s.focus.strand with
    | v => simp [Tile.noSpan, hv hst]
    | d => simp [hd hst]
    | c => rfl
    | e => rfl

theorem spanCheck_go (hv : st = .v → s.me.span = none) : (if s.focus.strand = .v then s.me.noSpan else .go) = .go := by
  obtain ⟨-, -, rfl⟩ := h
  split
  · simp [Tile.noSpan, hv ‹_›]
  · rfl

theorem exec_jmp {off : BitVec 21} (hv : st = .v → s.me.span = none) (hin : s.inCode (s.relTarget off)) :
    exec (.jmp off) s = .next (s.withMe (s.me.movedTo st (BitVec.ofInt 21 (s.relTarget off)) 3)) := by
  refine issue_taken h ?_
  rw [taskOnly_eq h.2.1, spanCheck_go h hv, go_and, branchCheck_inCode h.2.1 hin]

/-- `lpf` does what the loopr of its bundle does (R76). -/
theorem exec_lpf {off : BitVec 21} (hv : st = .v → s.me.span = none) (hcl : s.focus.closes = true)
    (hin : s.focus.follow = true → s.inCode (s.relTarget off)) :
    exec (.lpf off) s = .next (s.withMe (if s.focus.follow then s.me.movedTo st (BitVec.ofInt 21 (s.relTarget off)) 3
      else s.me.moved st)) := by
  refine issue_branch h ?_
  rw [taskOnly_eq h.2.1, spanCheck_go h hv, go_and, hcl]
  cases hf : s.focus.follow with
  | false => rfl
  | true => exact (branchCheck_inCode h.2.1 (hin hf))

end

section
variable {s : State} (h : Alone s .c)
include h

theorem exec_br {off : BitVec 21} (hin : s.inCode (s.relTarget off)) :
    exec (.br off) s = .next (s.withMe (s.me.movedTo .c (BitVec.ofInt 21 (s.relTarget off)) 3)) :=
  issue_taken h (branchCheck_inCode h.2.1 hin)

theorem exec_jr {sa : BitVec 6} (hin : s.inCode (s.src sa).toNat) :
    exec (.jr sa) s = .next (s.withMe (s.me.movedTo .c (BitVec.ofInt 21 (s.src sa).toNat) 3)) := by
  rw [← rs_eq h.2.1] at hin ⊢
  exact issue_taken h (branchCheck_inCode h.2.1 hin)

theorem exec_bc {cond : BitVec 3} {sa sb : BitVec 6} {off : BitVec 21} (hc : cond.toNat < 6)
    (hin : CondHolds cond (s.src sa) (s.src sb) → s.inCode (s.relTarget off)) :
    exec (.bc cond sa sb off) s = .next (s.withMe (if icond cond.toNat (s.src sa) (s.src sb)
      then s.me.movedTo .c (BitVec.ofInt 21 (s.relTarget off)) 3 else s.me.moved .c)) := by
  rw [← rs_eq h.2.1, ← rs_eq h.2.1] at hin ⊢
  refine issue_branch h ?_
  cases ht : icond cond.toNat (s.rs sa) (s.rs sb) with
  | false => rfl
  | true => exact branchCheck_inCode h.2.1 (hin ((icond_iff hc _ _).mp ht))

/-- A call leaves the address behind it in flight and is taken (R111). -/
theorem exec_call {sd : BitVec 6} {off : BitVec 21} (hin : s.inCode (s.relTarget off)) :
    exec (.call sd off) s = .next (s.withMe ((s.me.flying 1
      (.scalar sd.toNat (BitVec.ofNat 64 ((s.me.sc.pc.toNat + 8) % 2 ^ 21))) f0 0).movedTo .c
        (BitVec.ofInt 21 (s.relTarget off)) 3)) := by
  have hret : (s.pcNow + 8#21).setWidth 64 = BitVec.ofNat 64 ((s.me.sc.pc.toNat + 8) % 2 ^ 21) := by
    rw [pcNow_eq h.2.1, h.2.2]
    simp [← BitVec.toNat_inj, Tile.str]
  rw [exec_call_issue, issue_go _ h.1 (branchCheck_inCode h.2.1 hin)]
  rw [result_eq h.2.1, hret, branch_eq (s := s.withMe _) h.2.1, withMe_withMe, withMe_me, withMe_focus, h.2.2]
  rfl

end

/-- Settles O12: each branch by its check, taken or not, and the faults of a target; then what every strand may issue. -/
theorem branchesAndCommonInstructions : Obligations.BranchesAndCommonInstructions := by
  refine ⟨fun s off sd sa sb cond h => ?cStrand, fun s st off h => ?common⟩
  case cStrand =>
    intro here there jump
    have hthere : s.relTarget off = there := relTarget_alone h off
    have br := exec_br h (off := off)
    have call := exec_call h (sd := sd) (off := off)
    have bc := exec_bc h (cond := cond) (sa := sa) (sb := sb) (off := off)
    rw [hthere] at br call bc
    refine ⟨br, exec_jr h, call, fun hc ht hin => ?_, fun hc ht => ?_, fun hu =>
      ⟨fun hout => ?_, fun hout => ?_, fun hmis => ?_⟩⟩
    · rw [bc hc fun _ => hin, if_pos ((icond_iff hc _ _).mpr ht)]
    · rw [bc hc fun ht' => absurd ht' ht, if_neg (fun ht' => ht ((icond_iff hc _ _).mp ht'))]
    · have hfault := branchCheck_outsideCode h.2.1 (hthere ▸ hout)
      refine ⟨exec_faultsAt h hu (exec_br_issue s off) hfault, exec_faultsAt h hu (exec_call_issue s sd off) hfault,
        fun hc ht => ?_⟩
      refine exec_faultsAt (p := BitVec.ofInt 64 (s.relTarget off)) h hu (exec_bc_issue s cond sa sb off) ?_
      rw [rs_eq h.2.1, rs_eq h.2.1, (icond_iff hc _ _).mpr ht]
      exact hfault
    · rw [← rs_eq h.2.1] at hout
      exact exec_faultsAt h hu (exec_jr_issue s sa) (branchCheck_outsideCode h.2.1 hout)
    · rw [← rs_eq h.2.1] at hmis
      exact exec_faultsAt h hu (exec_jr_issue s sa) (branchCheck_misaligned h.2.1 hmis)
  case common =>
    intro there jump
    have hthere : s.relTarget off = there := relTarget_alone h off
    refine ⟨exec_nop h, exec_fin h, fun _ hv hin => ⟨?_, fun hcl hfo => ?_⟩, fun _ hv hcl hfo => ?_⟩
    · rw [exec_jmp h hv (hthere ▸ hin), hthere]
    · rw [exec_lpf h hv hcl fun _ => hthere ▸ hin, if_pos hfo, hthere]
    · rw [exec_lpf h hv hcl fun hfo' => by simp [hfo] at hfo', if_neg (by simp [hfo])]

end Sys2Proof.Proofs
end

section
/-! SUPPORT. Queues, flag slots and control and status registers (R26, R34 to R41, R115 to R117): each said once, and O14. -/

namespace Sys2Proof.Proofs

open Sys2Proof.Machine Sys2Proof.Laws

/-! ## Queue and slot instructions (R115, R116) -/

section
variable {s : State} (h : Alone s .c)
include h

/-- An instruction of the task alone whose check passes. -/
theorem issue_taskOnly_go {c : Check} (e : State → State) (hc : c = .go) : issue s (s.taskOnly c) e = .next (e s) :=
  issue_go e h.1 (by rw [taskOnly_eq h.2.1, hc])

/-- A scalar result, further changes of the tile, and the next word. -/
theorem result_onMe_retire (sd : BitVec 6) (lat : Nat) (v : W64) (f : Tile → Tile) :
    ((s.result sd lat v f0).onMe f).retire = s.withMe ((f (s.me.flying lat (.scalar sd.toNat v) f0 0)).moved .c) := by
  rw [result_eq h.2.1, withMe_onMe, withMe_retire h.2.1, h.2.2]

theorem result_retire (sd : BitVec 6) (lat : Nat) (v : W64) :
    (s.result sd lat v f0).retire = s.withMe ((s.me.flying lat (.scalar sd.toNat v) f0 0).moved .c) := by
  rw [result_eq h.2.1, withMe_retire h.2.1, h.2.2]

theorem exec_pop_takes {r : BitVec 6} {n : BitVec 4} {x : W64} {xs : List W64} (hq : s.me.squeue n.toNat = x :: xs)
    (hb : s.me.queueBad n.toNat 1 = false) :
    exec (.pop r n) s = .next (s.withMe (((s.me.flying 1 (.scalar r.toNat x) f0 0).squeuePop n.toNat).moved .c)) := by
  change execPop r n s = _
  rw [execPop, issue_taskOnly_go h _ (by simp [Tile.popCheck, hq, hb]), result_onMe_retire h, hq]
  rfl

theorem exec_pop_waits {r : BitVec 6} {n : BitVec 4} (hq : s.me.squeue n.toNat = []) :
    WaitsAt s (exec (.pop r n) s) 1 n.toNat := by
  change WaitsAt s (execPop r n s) 1 n.toNat
  refine issue_waitsAt _ h.1 ?_
  rw [taskOnly_eq h.2.1, Tile.popCheck, hq]
  cases s.me.queueBad n.toNat 1 <;> rfl

theorem exec_push_sends {r : BitVec 6} (n : BitVec 4) (hq : s.me.q14.length + s.me.q14Coming < 32) :
    exec (.push r n) s = .next (s.withMe ((s.me.flying 1 (.q14 (s.src r)) f0 0).moved .c)) := by
  change execPush r n s = _
  rw [execPush, issue_taskOnly_go h _ (by simp [hq]), fly_eq, withMe_retire h.2.1, rs_eq h.2.1, h.2.2]

theorem exec_push_waits {r : BitVec 6} (n : BitVec 4) (hq : 32 ≤ s.me.q14.length + s.me.q14Coming) :
    WaitsAt s (exec (.push r n) s) 1 14 := by
  change WaitsAt s (execPush r n s) 1 14
  refine issue_waitsAt _ h.1 ?_
  rw [taskOnly_eq h.2.1, Check.wait, if_neg (by simpa using hq)]

theorem exec_qlen (r : BitVec 6) (n : BitVec 4) : exec (.qlen r n) s = .next (s.withMe
    ((s.me.flying 1 (.scalar r.toNat (BitVec.ofNat 64 (s.me.squeue n.toNat).length)) f0 0).moved .c)) := by
  change execQlen r n s = _
  rw [execQlen, issue_taskOnly_go h _ rfl, result_retire h]

theorem exec_rdfs (r : BitVec 6) (n : BitVec 4) : exec (.rdfs r n) s = .next (s.withMe
    ((s.me.flying 1 (.scalar r.toNat (BitVec.ofNat 64 (s.me.slot n.toNat).toNat)) f0 0).moved .c)) := by
  change execRdfs r n s = _
  rw [execRdfs, issue_taskOnly_go h _ rfl, result_retire h, BitVec.ofNat_toNat]

/-! ## Control and status registers (R38 to R41, R117) -/

/-- The writes of a control and status register: stored, set and cleared bits (R117). -/
theorem exec_csrWrites (csr : BitVec 12) (sa : BitVec 6) :
    exec (.csrw csr sa) s = csrOp s csr 0 (s.src sa) ∧ exec (.csrs csr sa) s = csrOp s csr 1 (s.src sa) ∧
    exec (.csrc csr sa) s = csrOp s csr 2 (s.src sa) := by
  rw [← rs_eq h.2.1]
  exact ⟨rfl, rfl, rfl⟩

/-- A write that is allowed enters flight; what was raised in its clk stays (R38, R39). -/
theorem csrOp_writes {csr : BitVec 12} {kind : Nat} {a : W64} (hok : s.me.csrWriteOk csr.toNat kind a = true) :
    csrOp s csr kind a = .next (s.withMe
      ((({ s.me with kept := s.me.raised } : Tile).flying 1 (.csr csr.toNat kind a) f0 0).moved .c)) := by
  rw [csrOp, issue_taskOnly_go h _ (need_eq_go.mpr hok), fly_eq, withMe_onMe, withMe_retire h.2.1, h.2.2]
  rfl

theorem csrOp_faults {csr : BitVec 12} {kind : Nat} {a : W64} (hu : s.unfaulted)
    (hok : s.me.csrWriteOk csr.toNat kind a = false) : FaultsAt s (csrOp s csr kind a) 0x01 := by
  refine issue_faultsAt (p := 0) _ h.1 h.2.1 hu ?_
  rw [taskOnly_eq h.2.1, hok]
  rfl

end

theorem modeWord_eq (t : Tile) :
    t.modeWord = t.modeRm.toNat + (if t.modeDet then 8 else 0) + (if t.modeSt then 16 else 0) := by
  unfold Tile.modeWord b2n
  cases t.modeSt <;> cases t.modeDet <;> simp <;> omega

/-- RM stands in the low three bits of MODE (R40). -/
theorem modeWord_low (t : Tile) : (BitVec.ofNat 64 t.modeWord).setWidth 3 = t.modeRm := by
  have := t.modeRm.isLt
  apply BitVec.eq_of_toNat_eq
  rw [BitVec.toNat_setWidth, BitVec.toNat_ofNat, modeWord_eq]
  split <;> split <;> omega

/-- The new value of a field of `w` bits: the operand's low bits stored, set or cleared (R117). -/
def fieldNew {w : Nat} (kind : Nat) (old : BitVec w) (a : W64) : BitVec w :=
  match kind with
  | 0 => a.setWidth w
  | 1 => old ||| a.setWidth w
  | _ => old &&& ~~~(a.setWidth w)

theorem csrNew_low {w : Nat} (hw : w ≤ 64) (kind : Nat) (old a : W64) :
    (csrNew kind old a).setWidth w = fieldNew kind (old.setWidth w) a := by
  unfold csrNew fieldNew
  match kind with
  | 0 => rfl
  | 1 => exact BitVec.setWidth_or
  | k + 2 => exact BitVec.setWidth_and.trans (congrArg _ (BitVec.setWidth_not hw))

/-- The rounding mode that a write of MODE would leave. -/
theorem csrNew_mode_low (t : Tile) (kind : Nat) (a : W64) :
    (csrNew kind (BitVec.ofNat 64 t.modeWord) a).setWidth 3 = fieldNew kind t.modeRm a := by
  rw [csrNew_low (by decide), modeWord_low]

/-- A write of MODE is allowed where its RM names a rounding mode; every other write is (R40, R117). -/
theorem csrWriteOk_of {t : Tile} {csr : BitVec 12} {kind : Nat} {a : W64}
    (hok : csr ≠ 0x011#12 ∨ (fieldNew kind t.modeRm a).toNat < 5) : t.csrWriteOk csr.toNat kind a = true := by
  rw [← csrNew_mode_low, BitVec.toNat_setWidth] at hok
  rw [Tile.csrWriteOk, Bool.or_eq_true, decide_eq_true_eq]
  exact hok.imp_left fun hne => bne_iff_ne.mpr fun he => hne (BitVec.eq_of_toNat_eq he)

theorem csrWriteOk_mode {t : Tile} {kind : Nat} {a : W64}
    (hbad : 5 ≤ (fieldNew kind t.modeRm a).toNat) : t.csrWriteOk (0x011#12).toNat kind a = false := by
  rw [← csrNew_mode_low, BitVec.toNat_setWidth] at hbad
  rw [Tile.csrWriteOk, decide_eq_false (by omega)]
  rfl

/-- TCC is DCC without the clk that the task was held (R35). -/
theorem tcc_eq (s : State) (tid : Nat) : s.tcc tid = BitVec.ofNat 64 (s.dcc + 2 ^ 64 - (s.tile tid).hold % 2 ^ 64) := by
  apply BitVec.eq_of_toNat_eq
  simp only [State.tcc, BitVec.toNat_sub, BitVec.toNat_ofNat]
  omega

theorem boolWord_eq (b : Bool) : boolWord b = BitVec.ofNat 64 (if b then 1 else 0) := by cases b <;> rfl

/-- A register of fewer bits is read zero-extended. -/
theorem setWidth64_eq {w : Nat} (x : BitVec w) : x.setWidth 64 = BitVec.ofNat 64 x.toNat := (BitVec.ofNat_toNat 64 x).symm

/-- What each number of a control and status register reads (R38). -/
theorem csrValue_reads (s : State) (tid : Nat) :
    let t := s.tile tid
    let reads : Nat → Nat → Prop := fun n v => s.csrValue tid n = BitVec.ofNat 64 v
    reads 0x000 (s.dcc + 2 ^ 64 - t.hold % 2 ^ 64) ∧ reads 0x001 s.dcc ∧ reads 0x002 s.ptc.toNat ∧
    reads 0x010 t.flags.toNat ∧
    reads 0x011 (t.modeRm.toNat + (if t.modeDet then 8 else 0) + (if t.modeSt then 16 else 0)) ∧
    reads 0x012 t.srseed.toNat ∧ reads 0x013 t.spoor.toNat ∧ reads 0x014 t.slip.toNat ∧ reads 0x018 t.vrb.toNat ∧
    reads 0x019 t.krb.toNat ∧ reads 0x020 t.taskid.toNat ∧ reads 0x021 t.launchid.toNat ∧
    reads 0x022 (if t.world then 1 else 0) :=
  have whole (x : W64) : x = BitVec.ofNat 64 x.toNat := by simp
  ⟨tcc_eq s tid, rfl, whole _, setWidth64_eq _, congrArg (BitVec.ofNat 64) (modeWord_eq _), setWidth64_eq _, whole _,
    setWidth64_eq _, setWidth64_eq _, setWidth64_eq _, setWidth64_eq _, setWidth64_eq _, boolWord_eq _⟩

/-- Settles O14: an equation per instruction, and one per number of a register. -/
theorem queueSlotAndControlRegisterInstructions : Obligations.QueueSlotAndControlRegisterInstructions := by
  refine ⟨fun s r n h => ?queues, fun s sd sa csr h => ?registers⟩
  case queues =>
    exact ⟨fun x xs hq _ hb => exec_pop_takes h hq hb, exec_push_sends h _, fun hq _ => exec_pop_waits h hq,
      exec_push_waits h _, exec_qlen h r n, fun _ => exec_rdfs h r n⟩
  case registers =>
    have hlow : ((s.src sa).setWidth 3).toNat = (s.src sa).toNat % 8 := BitVec.toNat_setWidth _ _
    obtain ⟨hw, hs, hc⟩ := exec_csrWrites h csr sa
    obtain ⟨hwMode, hsMode, hcMode⟩ := exec_csrWrites h 0x011#12 sa
    refine ⟨scalarOp_alone h sd 2 _, fun hok => ?_, fun hok => ?_, fun hok => ?_, fun hu =>
      ⟨fun hbad => ?_, fun hbad => ?_, fun hbad => ?_⟩, csrValue_reads s _, fun t v fl => ⟨rfl, rfl, rfl, rfl⟩⟩
    · rw [hw, csrOp_writes h (csrWriteOk_of (hlow ▸ hok))]
    · rw [hs, csrOp_writes h (csrWriteOk_of hok)]
    · rw [hc, csrOp_writes h (csrWriteOk_of hok)]
    · rw [hwMode]; exact csrOp_faults h hu (csrWriteOk_mode (hlow ▸ hbad))
    · rw [hsMode]; exact csrOp_faults h hu (csrWriteOk_mode hbad)
    · rw [hcMode]; exact csrOp_faults h hu (csrWriteOk_mode hbad)

end Sys2Proof.Proofs
end

section
/-! SUPPORT. Registers and their names (R18, R32, R74) and what reset leaves: O1 and O5. -/

namespace Sys2Proof.Proofs

open Sys2Proof.Machine Sys2Proof.Laws

theorem physV_eq (vrb : BitVec 5) (n : Nat) :
    (n < 32 → physV vrb n = n) ∧ (32 ≤ n → physV vrb n = 32 + (n - 32 + vrb.toNat) % 32) :=
  ⟨fun h => if_pos h, fun h => if_neg (by omega)⟩

theorem physK_eq (krb : BitVec 4) (n : Nat) :
    (n < 16 → physK krb n = n) ∧ (16 ≤ n → physK krb n = 16 + (n - 16 + krb.toNat) % 16) :=
  ⟨fun h => if_pos h, fun h => if_neg (by omega)⟩

/-- Outside a span an instruction's guard is the predicate that it names (R81, R86). -/
theorem guard_noSpan {t : Tile} (h : t.span = none) (kg : BitVec 5) : t.guard kg false = t.kreg (physK t.krb kg.toNat) := by
  simp [Tile.guard, h]

/-- A task starts with both rotation bases 0, preloaded or not (R18, R32). -/
theorem startTask_bases (u : WorkUnit) (img : List W8) (rank tid : Nat) (t : Tile) :
    (startTask u img rank tid t).vrb = 0 ∧ (startTask u img rank tid t).krb = 0 := by
  unfold startTask
  split <;> exact ⟨rfl, rfl⟩

/-- Settles O1: the names by their ranges, the bases of a task that starts, the guard, and s0 and k0. -/
theorem registersAreNamedThroughTheirBases : Obligations.RegistersAreNamedThroughTheirBases := by
  refine ⟨fun vrb krb n => ?names, startTask_bases, fun s kg hspan => guard_noSpan hspan kg,
    fun t v p => ⟨sreg_zero t, setS_zero t v, rfl, setK_zero t p⟩⟩
  case names =>
    obtain ⟨hv, hv'⟩ := physV_eq vrb n
    obtain ⟨hk, hk'⟩ := physK_eq krb n
    exact ⟨hv, fun h _ => hv' h, hk, fun h _ => hk' h⟩

/-- At reset no unit of the package is listed, and each reads as its own reset state. -/
theorem reset_units (n : Nat) : State.reset.tile n = Tile.reset ∧ State.reset.router n = Router.reset ∧
    State.reset.part n = Partition.reset ∧ State.reset.queue n = HostQueue.reset := ⟨rfl, rfl, rfl, rfl⟩

/-- Settles O5: the package's own registers as reset gives them, and each unit by its reset state. -/
theorem resetLeavesTheStatedValues : Obligations.ResetLeavesTheStatedValues := by
  refine ⟨rfl, rfl, rfl, rfl, rfl, rfl, rfl, rfl, fun p => ?_, fun q => ?_, fun tid => ?_, fun r => ?_,
    rfl, rfl, rfl, rfl⟩
  · rw [(reset_units p).2.2.1]; exact ⟨rfl, rfl, rfl⟩
  · rw [(reset_units q).2.2.2]; exact ⟨rfl, rfl⟩
  · rw [(reset_units tid).1]; exact ⟨rfl, rfl, rfl, fun _ => rfl, fun _ _ => ⟨rfl, rfl⟩⟩
  · rw [(reset_units r).2.1]; exact ⟨rfl, rfl⟩

end Sys2Proof.Proofs
end

section
/-! SUPPORT. The end of a task and its BUDGET (R22, R313, R315, R329): what counting and settling leave of the launches,
and O48. -/

namespace Sys2Proof.Proofs

open Sys2Proof.Machine Sys2Proof.Laws

/-! ## Changes of units (R315, R316) -/

/-- The tiles and the focus: what a status write leaves alone. -/
def siteOf (s : State) : SMap Tile × Focus := (s.tiles, s.focus)

theorem writeStat_frame (s : State) (u : WorkUnit) :
    siteOf (s.writeStat u) = siteOf s ∧ (s.writeStat u).units = s.units := by
  unfold State.writeStat
  split
  · exact ⟨rfl, rfl⟩
  · obtain ⟨ht, hu, hf, -⟩ := vwrite_frame s u.part u.secure (u.stat.toNat % 2 ^ 48)
      (bytesOf 8 u.counter.toNat ++ bytesOf 8 u.word1.toNat ++ bytesOf 8 u.deta.toNat ++ bytesOf 8 u.detb.toNat)
    exact ⟨by rw [siteOf, ht, hf]; rfl, hu⟩

/-- A change of the units that answer to an identity changes nothing where none does. -/
theorem onUnit_units_none {s : State} {p level id : Nat} (f : WorkUnit → WorkUnit) (h : s.unit p level id = none) :
    (s.onUnit p level id f).units = s.units := by
  rw [State.unit, List.find?_eq_none] at h
  refine (List.map_congr_left fun u hu => if_neg (h u hu)).trans (List.map_id _)

theorem changeUnit_units (s : State) (p level id : Nat) (f : WorkUnit → WorkUnit) :
    (s.changeUnit p level id f).units = (s.onUnit p level id f).units := by
  unfold State.changeUnit
  split
  · exact (writeStat_frame _ _).2
  · exact (onUnit_units_none f ‹_›).symm

theorem changeUnit_site (s : State) (p level id : Nat) (f : WorkUnit → WorkUnit) :
    siteOf (s.changeUnit p level id f) = siteOf s := by
  unfold State.changeUnit
  split
  · exact (writeStat_frame _ _).1
  · rfl

/-- The unit of an identity after a change that keeps its names and its end. -/
theorem changeUnit_unit {s : State} {p level id : Nat} {f : WorkUnit → WorkUnit} {u : WorkUnit}
    (hf : ∀ u a b, (f u).is p a b = u.is p a b) (h : s.unit p level id = some u) :
    (s.changeUnit p level id f).unit p level id = some (f u) := by
  have hu : u.is p level id = true := by simpa using List.find?_some h
  rw [State.unit, changeUnit_units]
  refine (onUnit_unit s p level id f hf level id).trans ?_
  rw [h, Option.map_some, if_pos hu]

/-! ## What leaves the launches as they were -/

/-- No tile changes, and of a launch nothing but when it became ready; no unit changes its level. -/
def KeepsLaunches (s t : State) : Prop :=
  siteOf t = siteOf s ∧ ∃ g : WorkUnit → WorkUnit, t.units = s.units.map g ∧ (∀ u, (g u).level = u.level) ∧
    ∀ u, u.level = 0 → ∃ ready pass, g u = { u with ready := ready, pass := pass }

theorem KeepsLaunches.of_units {s t : State} (h : siteOf t = siteOf s) (hu : t.units = s.units) : KeepsLaunches s t :=
  ⟨h, id, by rw [hu, List.map_id], fun _ => rfl, fun u _ => ⟨u.ready, u.pass, rfl⟩⟩

theorem KeepsLaunches.refl (s : State) : KeepsLaunches s s := .of_units rfl rfl

theorem KeepsLaunches.trans {s t v : State} (h : KeepsLaunches s t) (h' : KeepsLaunches t v) : KeepsLaunches s v := by
  obtain ⟨hs, g, hg, hl, h0⟩ := h
  obtain ⟨hs', g', hg', hl', h0'⟩ := h'
  refine ⟨hs'.trans hs, g' ∘ g, by rw [hg', hg, List.map_map], fun u => (hl' _).trans (hl u), fun u hu => ?_⟩
  obtain ⟨r, p, e⟩ := h0 u hu
  obtain ⟨r', p', e'⟩ := h0' (g u) ((hl u).trans hu)
  exact ⟨r', p', by rw [Function.comp, e', e]⟩

/-- The launch of an identity is still the one that answers. -/
theorem KeepsLaunches.unit {s t : State} (h : KeepsLaunches s t) (p lid : Nat) :
    ∃ g : WorkUnit → WorkUnit, t.unit p 0 lid = (s.unit p 0 lid).map g ∧
      ∀ u, u.level = 0 → ∃ ready pass, g u = { u with ready := ready, pass := pass } := by
  obtain ⟨-, g, hg, hl, h0⟩ := h
  refine ⟨g, ?_, h0⟩
  rw [State.unit, hg, List.find?_map, State.unit]
  congr 2
  funext u
  by_cases hu : u.level = 0
  · obtain ⟨r, q, e⟩ := h0 u hu
    rw [Function.comp, e]; rfl
  · simp [WorkUnit.is, hl, beq_false_of_ne hu]

theorem changeUnit_keeps (s : State) {p level : Nat} (id : Nat) {f : WorkUnit → WorkUnit} (hl : level ≠ 0)
    (hf : ∀ u, (f u).level = u.level) : KeepsLaunches s (s.changeUnit p level id f) := by
  refine ⟨changeUnit_site .., _, changeUnit_units .., fun u => ?_, fun u hu => ⟨u.ready, u.pass, if_neg ?_⟩⟩
  · split
    · exact hf u
    · rfl
  · simp [WorkUnit.is, hu, hl.symm]

theorem endUnit_keeps (s : State) {p level : Nat} (id state : Nat) (hl : level ≠ 0) :
    KeepsLaunches s (s.endUnit p level id state) :=
  changeUnit_keeps s id hl fun u => by unfold WorkUnit.atEnd; dsimp only; split <;> rfl

theorem count_keeps (s : State) {p level : Nat} (id n : Nat) (hl : level ≠ 0) :
    KeepsLaunches s (s.count p level id n) := by
  unfold State.count
  split
  · exact .refl s
  · exact changeUnit_keeps s id hl fun _ => rfl

theorem choiceEvent_keeps (s : State) (p : Nat) : KeepsLaunches s (s.choiceEvent p) := .of_units rfl rfl

theorem settleJob_keeps (s : State) (p jid : Nat) : KeepsLaunches s (s.settleJob p jid) := by
  unfold State.settleJob
  split
  · split
    · exact endUnit_keeps s _ _ (by decide)
    · exact .refl s
  · exact .refl s

theorem settleGraph_keeps (s : State) (p gid : Nat) : KeepsLaunches s (s.settleGraph p gid) := by
  unfold State.settleGraph
  split
  · split
    · exact endUnit_keeps s _ _ (by decide)
    · exact .refl s
  · exact .refl s

theorem refresh_keeps (s : State) (p : Nat) : KeepsLaunches s (s.refresh p) := by
  unfold State.refresh
  dsimp only
  split
  · refine ⟨rfl, _, rfl, fun u => ?_, fun u _ => ?_⟩
    · split <;> rfl
    · split
      · exact ⟨_, _, rfl⟩
      · exact ⟨u.ready, u.pass, rfl⟩
  · exact .refl s

/-! ## The end of a launch (R313, R316) -/

theorem find_map_values {α β : Type} (m : SMap α) (f : α → β) (k : Nat) :
    SMap.find (m.map fun x => (x.1, f x.2)) k = (SMap.find m k).map f := by
  induction m with
  | nil => rfl
  | cons x m ih =>
    obtain ⟨a, v⟩ := x
    simp only [List.map_cons, SMap.find, ih]
    split <;> rfl

@[simp] theorem atEnd_is (state : Nat) (u : WorkUnit) (p level id : Nat) : (u.atEnd state).is p level id = false := by
  unfold WorkUnit.atEnd WorkUnit.is
  dsimp only
  split <;> simp

/-- What a unit keeps to its end (R316). -/
theorem atEnd_fields (state : Nat) (u : WorkUnit) : (u.atEnd state).part = u.part ∧ (u.atEnd state).level = u.level ∧
    (u.atEnd state).id = u.id ∧ (u.atEnd state).ended = true ∧ (u.atEnd state).state = state ∧
    (u.atEnd state).counter = u.counter := by
  unfold WorkUnit.atEnd
  dsimp only
  split <;> exact ⟨rfl, rfl, rfl, rfl, rfl, rfl⟩

/-- The names of a unit that answers. -/
theorem is_names {u : WorkUnit} {p level id : Nat} (h : u.is p level id = true) :
    u.part = p ∧ u.level = level ∧ u.id = id := by
  simp only [WorkUnit.is, Bool.and_eq_true, beq_iff_eq] at h
  exact ⟨h.1.1.1, h.1.1.2, h.1.2⟩

/-- A unit that ends answers no more, and stands among the units as ended. -/
theorem endUnit_unit {s : State} {p level id state : Nat} {u : WorkUnit} (h : s.unit p level id = some u) :
    (s.endUnit p level id state).unit p level id = none ∧ u.atEnd state ∈ (s.endUnit p level id state).units := by
  have hu : u.is p level id = true := by simpa using List.find?_some h
  rw [State.unit, State.endUnit, changeUnit_units, List.find?_eq_none]
  refine ⟨fun v hv => ?_, List.mem_map.mpr ⟨u, List.mem_of_find?_eq_some h, if_pos hu⟩⟩
  obtain ⟨w, -, rfl⟩ := List.mem_map.mp hv
  split
  · simp
  · assumption

/-- A tile without what a launch holds ready there. -/
def withoutPreload (p lid : Nat) (t : Tile) : Tile :=
  { t with preload := match t.preload with
    | some x => if x.part = p ∧ x.lid = lid then none else some x
    | none => none }

/-- The state of a launch's end but for what settles then: tiles without what they hold ready, and the unit ended. -/
theorem endLaunch_keeps {s : State} {p lid : Nat} {u : WorkUnit} (state : Nat) (h : s.unit p 0 lid = some u) :
    ∃ (s' : State) (act : Bool), s'.units = s.units ∧ s'.focus = s.focus ∧
      s'.tiles = s.tiles.map (fun x => (x.1, withoutPreload p lid x.2)) ∧
      KeepsLaunches
        ((s'.onUnit p 0 lid fun u => { u with resid := u.resid || act, starting := false }).endUnit p 0 lid state)
        (s.endLaunch p lid state) := by
  simp only [State.endLaunch, h]
  generalize hs' : State.onPart _ p _ = s'
  exact ⟨s', (s.dropEntries p lid).2, by rw [← hs']; rfl, by rw [← hs']; rfl, by rw [← hs']; rfl,
    (settleGraph_keeps _ p u.gid).trans ((settleJob_keeps _ p u.jid).trans
      ((refresh_keeps _ p).trans (choiceEvent_keeps _ p)))⟩

/-- A launch that ends answers no more; it stands among the units with its end state (R316). -/
theorem endLaunch_unit {s : State} {p lid state : Nat} {u : WorkUnit} (h : s.unit p 0 lid = some u) :
    (s.endLaunch p lid state).unit p 0 lid = none ∧ ∃ v ∈ (s.endLaunch p lid state).units,
      v.part = p ∧ v.level = 0 ∧ v.id = lid ∧ v.ended = true ∧ v.state = state ∧ v.counter = u.counter := by
  obtain ⟨s', act, hu, -, -, hk⟩ := endLaunch_keeps state h
  have h' : s'.unit p 0 lid = some u := by rw [State.unit, hu]; exact h
  have hx := onUnit_unit s' p 0 lid (fun u => { u with resid := u.resid || act, starting := false }) (fun _ _ _ => rfl) 0 lid
  obtain ⟨hp, hl, hi⟩ := is_names (u := u) (by simpa using List.find?_some h)
  rw [h', Option.map_some, if_pos (by simpa using List.find?_some h)] at hx
  obtain ⟨hnone, hmem⟩ := endUnit_unit (state := state) hx
  obtain ⟨g, hg, -⟩ := hk.unit p lid
  obtain ⟨-, g, hgu, -, h0⟩ := hk
  refine ⟨by rw [hg, hnone]; rfl, _, hgu ▸ List.mem_map_of_mem hmem, ?_⟩
  obtain ⟨ep, el, ei, ee, es, ec⟩ := atEnd_fields state { u with resid := u.resid || act, starting := false }
  obtain ⟨r, q, e⟩ := h0 _ (el.trans hl)
  rw [e]
  exact ⟨ep.trans hp, el.trans hl, ei.trans hi, ee, es, ec⟩

/-- A launch that ends leaves each tile but for what it held ready there. -/
theorem endLaunch_tile (s : State) (p lid state tid : Nat) :
    (s.endLaunch p lid state).focus = s.focus ∧
    ∃ x, (s.endLaunch p lid state).tile tid = { s.tile tid with preload := x } := by
  cases h : s.unit p 0 lid with
  | none =>
    simp only [State.endLaunch, h]
    exact ⟨trivial, _, rfl⟩
  | some u =>
    obtain ⟨s', act, -, hf, ht, hk, -⟩ := endLaunch_keeps state h
    have hsite : siteOf (s.endLaunch p lid state) = siteOf s' := hk.trans (changeUnit_site ..)
    obtain ⟨htiles, hfocus⟩ := Prod.mk.inj hsite
    refine ⟨hfocus.trans hf, (withoutPreload p lid (s.tile tid)).preload, ?_⟩
    rw [State.tile, htiles, ht, find_map_values, State.tile]
    cases SMap.find s.tiles tid <;> rfl

/-! ## The end of a task (R22, R313) -/

/-- The tile gives its task up, and with it the save slot kept for the task. -/
def givenUp (s : State) (r : Residence) : State :=
  (s.onMe Tile.evict).onPart r.part fun x => { x with reserved := x.reserved.filter (· != (r.lid, r.rank)) }

theorem givenUp_unit (s : State) (r : Residence) (p level id : Nat) :
    (givenUp s r).unit p level id = s.unit p level id := rfl

/-- The launch notes that the task has ended (R313). -/
def taskLeft (s : State) (r : Residence) : State :=
  (givenUp s r).onUnit r.part 0 r.lid fun u => u.leave r.rank 4 s.me.resident

/-- The launch, its graph and its job count one more task (R315). -/
def countedEnd (s : State) (r : Residence) (u : WorkUnit) : State :=
  (((taskLeft s r).count r.part 0 r.lid 1).count r.part 1 u.gid 1).count r.part 3 u.jid 1

theorem exec_taskEnd {s : State} {r : Residence} {u : WorkUnit} (hr : s.me.res = some r) (hlive : s.me.live = true)
    (hclk : s.me.clockRuns = true) (hfin : s.me.finished = true) (hu : s.unit r.part 0 r.lid = some u) (hfold : u.fold = 0) :
    exec .taskEnd s = .next (((if (u.setTask r.rank 4).tasks.all (· == 4) then (countedEnd s r u).endLaunch r.part r.lid 2
      else (countedEnd s r u).settlePreempt r.part r.lid).refresh r.part).choiceEvent r.part) := by
  change execTaskEnd s = _
  have hu' : (givenUp s r).unit r.part 0 r.lid = some u := (givenUp_unit ..).trans hu
  rw [givenUp] at hu'
  simp only [execTaskEnd, hr, hlive, hclk, hfin, hu', hfold]
  rfl

theorem countedEnd_keeps (s : State) (r : Residence) (u : WorkUnit) :
    KeepsLaunches ((taskLeft s r).count r.part 0 r.lid 1) (countedEnd s r u) :=
  (count_keeps _ u.gid 1 (by decide)).trans (count_keeps _ u.jid 1 (by decide))

theorem countedEnd_site (s : State) (r : Residence) (u : WorkUnit) :
    siteOf (countedEnd s r u) = siteOf (s.onMe Tile.evict) :=
  (countedEnd_keeps s r u).1.trans (changeUnit_site ..)

theorem taskLeft_unit {s : State} {r : Residence} {u : WorkUnit} (hu : s.unit r.part 0 r.lid = some u) :
    (taskLeft s r).unit r.part 0 r.lid = some (u.leave r.rank 4 s.me.resident) := by
  have his : u.is r.part 0 r.lid = true := by simpa using List.find?_some hu
  refine (onUnit_unit _ r.part 0 r.lid (fun u => u.leave r.rank 4 s.me.resident) (fun _ _ _ => rfl) 0 r.lid).trans ?_
  rw [givenUp_unit, hu, Option.map_some, if_pos his]

/-- The launch of a task that has ended counts it (R315). -/
theorem countedEnd_unit {s : State} {r : Residence} {u : WorkUnit} (hu : s.unit r.part 0 r.lid = some u) :
    ∃ v, (countedEnd s r u).unit r.part 0 r.lid = some v ∧ v.counter = u.counter + 1 ∧
      v.tasks = u.tasks.set r.rank 4 ∧ v.preempting = u.preempting := by
  have hcount : ((taskLeft s r).count r.part 0 r.lid 1).unit r.part 0 r.lid =
      some ((u.leave r.rank 4 s.me.resident).counted 1) :=
    changeUnit_unit (f := fun u => u.counted 1) (fun _ _ _ => rfl) (taskLeft_unit hu)
  obtain ⟨g, hg, h0⟩ := (countedEnd_keeps s r u).unit r.part r.lid
  obtain ⟨-, hlevel, -⟩ := is_names (u := u) (by simpa using List.find?_some hu)
  obtain ⟨ready, pass, e⟩ := h0 ((u.leave r.rank 4 s.me.resident).counted 1) hlevel
  refine ⟨_, hg.trans (congrArg _ hcount), ?_⟩
  rw [e]
  exact ⟨rfl, rfl, rfl⟩

theorem me_of_site {s t : State} (h : siteOf t = siteOf s) : t.me = s.me := by
  obtain ⟨ht, hf⟩ := Prod.mk.inj h
  simp only [State.me, State.tile, ht, hf]

/-- A launch that no request pre-empts has nothing to settle (R328). -/
theorem settlePreempt_none {s : State} {p lid : Nat} {u : WorkUnit} (hu : s.unit p 0 lid = some u)
    (hp : u.preempting = false) : s.settlePreempt p lid = s := by
  simp [State.settlePreempt, hu, hp]

theorem settlePreempt_site (s : State) (p lid : Nat) : siteOf (s.settlePreempt p lid) = siteOf s := by
  unfold State.settlePreempt
  split
  · rfl
  · split
    · exact changeUnit_site ..
    · rfl

theorem settled_keeps (s : State) (p : Nat) : KeepsLaunches s ((s.refresh p).choiceEvent p) :=
  (refresh_keeps s p).trans (choiceEvent_keeps _ p)

/-- The tile of a task that has ended is free but for what is held ready there (R313). -/
theorem settledEnd_me (s : State) (r : Residence) (u : WorkUnit) (all : Bool) :
    ∃ x, (((if all then (countedEnd s r u).endLaunch r.part r.lid 2
      else (countedEnd s r u).settlePreempt r.part r.lid).refresh r.part).choiceEvent r.part).me =
        { s.me.evict with preload := x } := by
  have hme : (countedEnd s r u).me = s.me.evict := (me_of_site (countedEnd_site s r u)).trans (me_onMe s _)
  rw [me_of_site (settled_keeps _ r.part).1]
  cases all with
  | false =>
    refine ⟨s.me.evict.preload, ?_⟩
    rw [if_neg (by decide), me_of_site (settlePreempt_site ..), hme]
  | true =>
    obtain ⟨hf, x, hx⟩ := endLaunch_tile (countedEnd s r u) r.part r.lid 2 (countedEnd s r u).focus.tile
    refine ⟨x, ?_⟩
    rw [if_pos rfl, State.me, hf, hx, ← hme]; rfl

/-- Every task of a launch has ended, once this one has, exactly where each other has. -/
theorem all_ended_iff (u : WorkUnit) (rank : Nat) : (u.setTask rank 4).tasks.all (· == 4) = true ↔
    ∀ k, k < u.tasks.length → k ≠ rank → u.tasks[k]? = some 4 := by
  rw [List.all_eq_true]
  constructor
  · intro h k hk hne
    have hmem : u.tasks[k] ∈ (u.setTask rank 4).tasks := by
      refine List.mem_iff_getElem.mpr ⟨k, by simpa [WorkUnit.setTask] using hk, ?_⟩
      simp [WorkUnit.setTask, List.getElem_set_ne hne.symm]
    rw [List.getElem?_eq_getElem hk]
    simpa using h _ hmem
  · intro h x hx
    obtain ⟨k, hk, rfl⟩ := List.mem_iff_getElem.mp hx
    simp only [WorkUnit.setTask, List.length_set] at hk
    simp only [WorkUnit.setTask, List.getElem_set]
    split
    · rfl
    · have := h k hk (Ne.symm ‹_›)
      rw [List.getElem?_eq_getElem hk] at this
      simpa using this

/-- Settles O48: the last task of a launch ends it; any other only counts. -/
theorem tasksEnd : Obligations.TasksEnd := by
  refine ⟨fun s r u hr hlive hclk hfin hu hfold hrank => ?ends, fun s r hr hlimit hused hclk hsc => ?budget⟩
  case budget =>
    change execBudget s = _
    have hlt : ¬ s.me.used < r.limit := by omega
    simp [execBudget, hr, hclk, hsc, hlimit, hlt, cBUDGET]
  case ends =>
    obtain ⟨v, hv, hcount, htasks, hpre⟩ := countedEnd_unit hu
    refine ⟨_, exec_taskEnd hr hlive hclk hfin hu hfold, ?tile, fun hnp ⟨k, hk, hne, hnot⟩ => ?counts,
      fun hall => ?last⟩
    case tile =>
      obtain ⟨x, hx⟩ := settledEnd_me s r u ((u.setTask r.rank 4).tasks.all (· == 4))
      rw [hx]
      exact ⟨rfl, rfl, rfl, rfl, rfl, rfl, rfl, rfl, rfl, rfl, rfl, rfl⟩
    case counts =>
      have hnall : ¬ (u.setTask r.rank 4).tasks.all (· == 4) = true :=
        fun h => hnot ((all_ended_iff u r.rank).mp h k hk hne)
      rw [if_neg hnall, settlePreempt_none hv (hpre.trans hnp)]
      obtain ⟨g, hg, h0⟩ := (settled_keeps (countedEnd s r u) r.part).unit r.part r.lid
      obtain ⟨-, hlevel, -⟩ := is_names (u := v) (by simpa using List.find?_some hv)
      obtain ⟨ready, pass, e⟩ := h0 v hlevel
      exact ⟨g v, by rw [hg, hv]; rfl, by rw [e]; exact hcount, by rw [e]; exact htasks⟩
    case last =>
      rw [if_pos ((all_ended_iff u r.rank).mpr hall)]
      obtain ⟨hnone, w, hw, hpart, hlevel, hid, hend, hstate, hcnt⟩ := endLaunch_unit (state := 2) hv
      have hk := settled_keeps ((countedEnd s r u).endLaunch r.part r.lid 2) r.part
      obtain ⟨g, hg, -⟩ := hk.unit r.part r.lid
      obtain ⟨-, g', hgu, -, h0⟩ := hk
      obtain ⟨ready, pass, e⟩ := h0 w hlevel
      refine ⟨by rw [hg, hnone]; rfl, g' w, hgu ▸ List.mem_map_of_mem hw, ?_⟩
      rw [e]
      exact ⟨hpart, hlevel, hid, hend, hstate, hcnt.trans hcount⟩

end Sys2Proof.Proofs
end

section
/-! SUPPORT. Results as they land (R28, R29, R38 to R41, R142, R143, R154, R166): each place said once, and O51. -/

namespace Sys2Proof.Proofs

open Sys2Proof.Machine Sys2Proof.Laws

/-! ## Sub-elements (R154) -/

/-- Fields of `w` bits side by side, the first lowest. -/
theorem testBit_fields (w : Nat) (f : Nat → Nat) (hw : 0 < w) (hf : ∀ j, f j < 2 ^ w) (k : Nat) :
    let n := (List.range k).foldl (fun n j => n + f j * 2 ^ (w * j)) 0
    n < 2 ^ (w * k) ∧ ∀ b, b < w * k → n.testBit b = (f (b / w)).testBit (b % w) := by
  induction k with
  | zero => exact ⟨by simp, fun b hb => by omega⟩
  | succ k ih =>
    obtain ⟨hlt, hbit⟩ := ih
    simp only [List.range_succ, List.foldl_append, List.foldl_cons, List.foldl_nil] at hlt hbit ⊢
    generalize (List.range k).foldl (fun n j => n + f j * 2 ^ (w * j)) 0 = n at hlt hbit
    have hsucc : w * (k + 1) = w * k + w := Nat.mul_succ w k
    have hcomm : n + f k * 2 ^ (w * k) = 2 ^ (w * k) * f k + n := by rw [Nat.mul_comm, Nat.add_comm]
    rw [hcomm, hsucc]
    constructor
    · have := hf k
      calc 2 ^ (w * k) * f k + n < 2 ^ (w * k) * f k + 2 ^ (w * k) := by omega
        _ = 2 ^ (w * k) * (f k + 1) := by rw [Nat.mul_add, Nat.mul_one]
        _ ≤ 2 ^ (w * k) * 2 ^ w := Nat.mul_le_mul_left _ (hf k)
        _ = 2 ^ (w * k + w) := (Nat.pow_add ..).symm
    · intro b hb
      rw [Nat.testBit_two_pow_mul_add _ hlt]
      split
      · exact hbit b ‹_›
      · obtain ⟨c, rfl⟩ : ∃ c, b = w * k + c := ⟨b - w * k, by omega⟩
        rw [Nat.add_sub_cancel_left, Nat.mul_add_div hw, Nat.mul_add_mod, Nat.div_eq_of_lt (by omega), Nat.add_zero,
          Nat.mod_eq_of_lt (by omega)]

/-- A lane after sub-elements of `w` bits are written: each bit is of the old or of the new word, as its sub-element says. -/
theorem getLsbD_mergeLane {w : Nat} (hw : w ∈ [4, 8, 16]) (mask : Nat) (old new : W32) {b : Nat} (hb : b < 32) :
    (mergeLane w mask old new).getLsbD b = if mask.testBit (b / w) then new.getLsbD b else old.getLsbD b := by
  have hpos : 0 < w := by simp at hw; omega
  have hall : w * (32 / w) = 32 := by
    simp at hw; obtain rfl | rfl | rfl := hw <;> rfl
  have hfield : ∀ x j, bits x (w * j + w - 1) (w * j) = x / 2 ^ (w * j) % 2 ^ w := by
    intro x j; rw [bits, show w * j + w - 1 + 1 - w * j = w by omega]
  obtain ⟨-, hbit⟩ := testBit_fields w
    (fun j => bits (if bitAt mask j then new.toNat else old.toNat) (w * j + w - 1) (w * j)) hpos
    (fun j => by rw [hfield]; exact Nat.mod_lt _ (Nat.two_pow_pos w)) (32 / w)
  have hpart : w * (b / w) + b % w = b := Nat.div_add_mod b w
  rw [mergeLane, BitVec.getLsbD_ofNat, hbit b (by omega), hfield, Nat.testBit_mod_two_pow, Nat.testBit_div_two_pow,
    bitAt_testBit, decide_eq_true hb, decide_eq_true (Nat.mod_lt _ hpos)]
  rw [Bool.true_and, Bool.true_and, show b % w + w * (b / w) = b by omega]
  split <;> rfl

/-! ## Vectors and rows (R142, R143) -/

/-- A vector written element by element from masks, old and new elements. -/
theorem getD_zipWith_masks {α : Type} (f : α → W32 × W32 → W32) (m : List α) (old new : List W32) (d : α)
    (hm : m.length = 1024) (ho : old.length = 1024) (hn : new.length = 1024) :
    (List.zipWith f m (List.zip old new)).length = 1024 ∧ ∀ i, i < 1024 →
      (List.zipWith f m (List.zip old new)).getD i 0 = f (m.getD i d) (old.getD i 0, new.getD i 0) := by
  have hlen : (List.zipWith f m (List.zip old new)).length = 1024 := by simp [hm, ho, hn]
  refine ⟨hlen, fun i hi => ?_⟩
  rw [← List.getElem_eq_getD (h := by omega), ← List.getElem_eq_getD (h := by omega),
    ← List.getElem_eq_getD (h := by omega), ← List.getElem_eq_getD (h := by omega), List.getElem_zipWith,
    List.getElem_zip]

/-- Is a row allocated under a tag and not yet landed? -/
def ownRow (tag : Nat) (x : QRow) : Bool := x.tag == tag && x.row.isNone

/-- A row that is its own, where there is a value for it, takes that value; another stays. -/
def takeRow (own : Bool) (x : QRow) (row : Option (List W32)) : QRow :=
  match own, row with
  | true, some row => { x with row := some row, age := 0 }
  | _, _ => x

theorem fillRows_nil (tag : Nat) (l : List QRow) : fillRows tag l [] = l := by
  induction l with
  | nil => rfl
  | cons x l ih => rw [fillRows]; split <;> rw [ih]

/-- The rows allocated under a tag take the values in order, each the one at its place among them. -/
theorem fillRows_getElem (tag : Nat) (l : List QRow) (v : List (List W32)) :
    (fillRows tag l v).length = l.length ∧ ∀ i x, l[i]? = some x →
      (fillRows tag l v)[i]? = some (takeRow (ownRow tag x) x v[(l.take i).countP (ownRow tag)]?) := by
  induction l generalizing v with
  | nil => exact ⟨rfl, fun i x h => by simp at h⟩
  | cons y l ih =>
    by_cases hy : ownRow tag y = true
    · have hcond : y.tag = tag ∧ y.row.isNone = true := by simpa [ownRow] using hy
      cases v with
      | nil =>
        rw [fillRows_nil]
        exact ⟨rfl, fun i x h => by rw [h]; cases h' : ownRow tag x <;> rfl⟩
      | cons r rs =>
        obtain ⟨hlen, hget⟩ := ih rs
        rw [fillRows, if_pos hcond]
        refine ⟨by simp [hlen], fun i x h => ?_⟩
        cases i with
        | zero =>
          obtain rfl : y = x := by simpa using h
          simp [hy, takeRow]
        | succ i => simpa [List.countP_cons, hy] using hget i x (by simpa using h)
    · have hcond : ¬ (y.tag = tag ∧ y.row.isNone = true) := by simpa [ownRow] using hy
      obtain ⟨hlen, hget⟩ := ih v
      rw [show fillRows tag (y :: l) v = y :: fillRows tag l v by rw [fillRows.eq_def]; exact if_neg hcond]
      refine ⟨by simp [hlen], fun i x h => ?_⟩
      cases i with
      | zero =>
        obtain rfl : y = x := by simpa using h
        simp [hy, takeRow]
      | succ i => simpa [List.countP_cons, hy] using hget i x (by simpa using h)

/-! ## Words written one after another (R166) -/

/-- Of several values written to one place the last one stands. -/
def lastOr {α : Type} (p : Nat × α → Bool) (v : List (Nat × α)) (old : α) : α :=
  ((v.reverse.find? p).map (·.2)).getD old

theorem lastOr_cons {α : Type} (p : Nat × α → Bool) (x : Nat × α) (v : List (Nat × α)) (old : α) :
    lastOr p (x :: v) old = lastOr p v (if p x then x.2 else old) := by
  unfold lastOr
  rw [List.reverse_cons, List.find?_append]
  cases h : v.reverse.find? p with
  | some y => rfl
  | none => by_cases hx : p x <;> simp [hx]

/-- Values written to a map from a key on, one after another. -/
theorem get_foldl_set {α : Type} [DecidableEq α] {d : α} (base : Nat) (v : List (Nat × α)) {m : SMap α}
    (h : SMap.wf d m = true) (k : Nat) :
    SMap.get d (v.foldl (fun m x => SMap.set d m (base + x.1) x.2) m) k =
      lastOr (fun x => base + x.1 == k) v (SMap.get d m k) := by
  induction v generalizing m with
  | nil => rfl
  | cons x v ih =>
    rw [List.foldl_cons, ih (wfFrom_set h _ _ nofun), lastOr_cons]
    by_cases hx : base + x.1 = k
    · rw [hx, get_set_self h, if_pos (by simp)]
    · rw [get_set_ne _ _ (Ne.symm hx), if_neg (by simpa using hx)]

theorem lastOr_none {α : Type} {p : Nat × α → Bool} {v : List (Nat × α)} (old : α) (h : ∀ x ∈ v, p x = false) :
    lastOr p v old = old := by
  have : v.reverse.find? p = none := List.find?_eq_none.mpr fun x hx => by simp [h x (List.mem_reverse.mp hx)]
  rw [lastOr, this]; rfl

/-! ## Accumulators (R166, R294) -/

theorem mem_accClear (t : Tile) (v : List (Nat × W32)) (word : Nat × W32 → Nat) (n : Nat) :
    n ∈ (t.accClear (v.map word)).badAcc ↔ n ∈ t.badAcc ∧ ∀ x ∈ v, n ≠ word x := by
  simp only [Tile.accClear, List.mem_filter, Bool.not_eq_true', List.contains_eq_mem, decide_eq_false_iff_not, List.mem_map,
    not_exists, not_and]
  exact and_congr_right fun _ => forall₂_congr fun x _ => ne_comm

/-- One word of an accumulator's sums replaced. -/
def putAcc (a : Nat) (t : Tile) (x : Nat × W32) : Tile :=
  t.setAccRow a (x.1 / 64) ((t.accRow a (x.1 / 64)).set (x.1 % 64) x.2)

theorem accRow_putAcc {t : Tile} (hwf : SMap.wf zeroRow t.acc = true) (a : Nat) (x : Nat × W32) (o r : Nat) :
    (putAcc a t x).accRow o r = if 128 * o + r = 128 * a + x.1 / 64 then (t.accRow a (x.1 / 64)).set (x.1 % 64) x.2
      else t.accRow o r := by
  unfold putAcc Tile.setAccRow Tile.accRow
  split
  · rw [‹128 * o + r = _›, get_set_self hwf]
  · rw [get_set_ne _ _ ‹_›]

/-- A word that is replaced reads as written, the others as before. -/
theorem putAcc_getD {t : Tile} {a : Nat} (hwf : SMap.wf zeroRow t.acc = true) (hlen : ∀ r, (t.accRow a r).length = 64)
    (x : Nat × W32) (r : Nat) {c : Nat} (hc : c < 64) : ((putAcc a t x).accRow a r).getD c 0 =
      if x.1 == 64 * r + c then x.2 else (t.accRow a r).getD c 0 := by
  have hcol : x.1 % 64 < (t.accRow a (x.1 / 64)).length := by rw [hlen]; omega
  rw [accRow_putAcc hwf]
  by_cases hrow : r = x.1 / 64
  · rw [if_pos (by omega), List.getD_eq_getElem?_getD, List.getElem?_set, ← hrow]
    by_cases hx : x.1 % 64 = c
    · rw [if_pos hx, if_pos (hrow ▸ hcol), if_pos (by rw [beq_iff_eq]; omega)]; rfl
    · rw [if_neg hx, if_neg (by rw [beq_iff_eq]; omega), List.getD_eq_getElem?_getD]
  · rw [if_neg (by omega), if_neg (by rw [beq_iff_eq]; omega)]

/-- Words written to an accumulator's sums, one after another, change those sums alone. -/
theorem foldl_putAcc {a : Nat} {v : List (Nat × W32)} {t : Tile} (hwf : SMap.wf zeroRow t.acc = true)
    (hlen : ∀ r, (t.accRow a r).length = 64) (hv : ∀ x ∈ v, x.1 < 64 * 128) :
    v.foldl (putAcc a) t = { t with acc := (v.foldl (putAcc a) t).acc } ∧
    (∀ r c, r < 128 → c < 64 → ((v.foldl (putAcc a) t).accRow a r).getD c 0 =
      lastOr (·.1 == 64 * r + c) v ((t.accRow a r).getD c 0)) ∧
    ∀ o r, r < 128 → o ≠ a → (v.foldl (putAcc a) t).accRow o r = t.accRow o r := by
  induction v generalizing t with
  | nil => exact ⟨rfl, fun _ _ _ _ => rfl, fun _ _ _ _ => rfl⟩
  | cons x v ih =>
    have hx := hv x (by simp)
    have hlen' : ∀ r, ((putAcc a t x).accRow a r).length = 64 := by
      intro r
      rw [accRow_putAcc hwf]
      split
      · rw [List.length_set, hlen]
      · exact hlen r
    obtain ⟨hframe, hmine, hother⟩ := ih (t := putAcc a t x) (wfFrom_set hwf _ _ nofun) hlen'
      fun y hy => hv y (by simp [hy])
    rw [List.foldl_cons]
    refine ⟨by rw [hframe]; rfl, fun r c hr hc => ?_, fun o r hr ho => ?_⟩
    · rw [hmine r c hr hc, lastOr_cons, putAcc_getD hwf hlen x r hc]
    · rw [hother o r hr ho, accRow_putAcc hwf, if_neg (by omega)]

theorem land_acc (t : Tile) (a : Nat) (v : List (Nat × W32)) : t.land (.acc a v) =
    (v.foldl (putAcc a) t).accClear (v.map fun x => accWord (128 * a + x.1 / 64) (x.1 % 64)) := rfl

/-- The words of one column of all accumulators, written for one of them. -/
def putWords (d : W32) (a : Nat) (v : List (Nat × W32)) (m : SMap W32) : SMap W32 :=
  v.foldl (fun m x => SMap.set d m (128 * a + x.1) x.2) m

theorem get_putWords {d : W32} {a : Nat} {v : List (Nat × W32)} {m : SMap W32} (hwf : SMap.wf d m = true)
    (hv : ∀ x ∈ v, x.1 < 128) (o r : Nat) (hr : r < 128) : SMap.get d (putWords d a v m) (128 * o + r) =
      if o = a then lastOr (·.1 == r) v (SMap.get d m (128 * a + r)) else SMap.get d m (128 * o + r) := by
  rw [putWords, get_foldl_set (128 * a) v hwf]
  split
  · subst o
    congr 1
    funext x
    rw [Bool.eq_iff_iff, beq_iff_eq, beq_iff_eq]
    omega
  · refine lastOr_none _ fun x hx => ?_
    have := hv x hx
    rw [beq_eq_false_iff_ne]
    omega

theorem land_accMax (t : Tile) (a : Nat) (v : List (Nat × W32)) : t.land (.accRow a false v) =
    ({ t with accM := putWords ninf32 a v t.accM } : Tile).accClear (v.map fun x => accWord (128 * a + x.1) 64) := by
  have hfold : v.foldl (fun t x => t.setAccMax a x.1 x.2) t = { t with accM := putWords ninf32 a v t.accM } := by
    induction v generalizing t with
    | nil => rfl
    | cons x v ih => rw [List.foldl_cons, ih]; rfl
  rw [← hfold]; rfl

theorem land_accDen (t : Tile) (a : Nat) (v : List (Nat × W32)) : t.land (.accRow a true v) =
    ({ t with accL := putWords 0 a v t.accL } : Tile).accClear (v.map fun x => accWord (128 * a + x.1) 65) := by
  have hfold : v.foldl (fun t x => t.setAccDen a x.1 x.2) t = { t with accL := putWords 0 a v t.accL } := by
    induction v generalizing t with
    | nil => rfl
    | cons x v ih => rw [List.foldl_cons, ih]; rfl
  rw [← hfold]; rfl

/-! ## Registers taken twice in one clk (R29) -/

theorem lostTo_iff (a b : Target) : a.lostTo b = true ↔ a.register ≠ none ∧ b.register = a.register := by
  rw [Target.lostTo, Bool.and_eq_true, Option.isSome_iff_ne_none, beq_iff_eq, eq_comm (a := b.register)]

/-! ## Control and status registers (R38 to R41, R117) -/

theorem setWidth_setWidth_self {w : Nat} (hw : w ≤ 64) (x : BitVec w) : (x.setWidth 64).setWidth w = x := by
  rw [BitVec.setWidth_setWidth_of_le _ hw, BitVec.setWidth_eq]

theorem modeWord_bit4 (t : Tile) : (BitVec.ofNat 64 t.modeWord).getLsbD 4 = t.modeSt := by
  have := t.modeRm.isLt
  rw [BitVec.getLsbD_ofNat, ← bitAt_testBit, bitAt, modeWord_eq]
  cases t.modeSt <;> cases t.modeDet <;> simp <;> omega

/-- A bit of a field's new value comes of the same bit of the old value and of the operand. -/
theorem fieldNew_getLsbD {w : Nat} (kind : Nat) {x : BitVec w} {y : W64} (a : W64) {b : Nat} (hb : b < w) (hw : w ≤ 64)
    (h : x.getLsbD b = y.getLsbD b) : (fieldNew kind x a).getLsbD b = (csrNew kind y a).getLsbD b := by
  have hlow : (csrNew kind y a).getLsbD b = ((csrNew kind y a).setWidth w).getLsbD b := by simp [hb]
  have hy : (y.setWidth w).getLsbD b = y.getLsbD b := by simp [hb]
  rw [hlow, csrNew_low hw]
  unfold fieldNew
  match kind with
  | 0 => rfl
  | 1 => simp only [BitVec.getLsbD_or, h, hy]
  | k + 2 => simp only [BitVec.getLsbD_and, h, hy]

/-- What a write of each register leaves (R38 to R41, R117): reserved bits and read-only numbers ignore it. -/
theorem land_csr (t : Tile) (kind : Nat) (a : W64) :
    t.land (.csr 0x011 kind a) = { t with
      modeRm := fieldNew kind t.modeRm a, modeSt := (fieldNew kind (if t.modeSt then 16#5 else 0#5) a).getLsbD 4 } ∧
    t.land (.csr 0x012 kind a) = { t with srseed := fieldNew kind t.srseed a } ∧
    t.land (.csr 0x013 kind a) = { t with spoor := fieldNew kind t.spoor a &&& 0xFC0000003FFFFFFF } ∧
    t.land (.csr 0x014 kind a) = { t with slip := fieldNew kind t.slip a } ∧
    t.land (.csr 0x018 kind a) = { t with vrb := fieldNew kind t.vrb a } ∧
    t.land (.csr 0x019 kind a) = { t with krb := fieldNew kind t.krb a } := by
  have hst : (if t.modeSt then 16#5 else 0#5).getLsbD 4 = (BitVec.ofNat 64 t.modeWord).getLsbD 4 := by
    rw [modeWord_bit4]; cases t.modeSt <;> rfl
  have hspoor := csrNew_low (Nat.le_refl 64) kind t.spoor a
  rw [BitVec.setWidth_eq, BitVec.setWidth_eq] at hspoor
  refine ⟨?_, ?_, ?_, ?_, ?_, ?_⟩ <;> simp only [Tile.land, Tile.csrWrite]
  · rw [BitVec.ofNat_toNat, csrNew_mode_low, bitAt_testBit, fieldNew_getLsbD kind a (by decide) (by decide) hst]; rfl
  · rw [csrNew_low (by decide), setWidth_setWidth_self (by decide)]
  · rw [hspoor]; rfl
  · rw [csrNew_low (by decide), setWidth_setWidth_self (by decide)]
  · rw [csrNew_low (by decide), setWidth_setWidth_self (by decide)]
  · rw [csrNew_low (by decide), setWidth_setWidth_self (by decide)]

theorem land_csr_readOnly (t : Tile) {n : Nat} (kind : Nat) (a : W64)
    (h : n ∉ [0x010, 0x011, 0x012, 0x013, 0x014, 0x018, 0x019]) : t.land (.csr n kind a) = t := by
  simp only [List.mem_cons, List.not_mem_nil, or_false, not_or] at h
  obtain ⟨h10, h11, h12, h13, h14, h18, h19⟩ := h
  simp only [Tile.land, Tile.csrWrite]

/-! ## Each place of a result -/

theorem land_vector (t : Tile) (r : Nat) (m : BitVec 1024) (v : List W32) (hv : v.length = 1024)
    (hr : (t.vreg r).length = 1024) : ∃ l : List W32, t.land (.vector r m v) = t.setV r l ∧ l.length = 1024 ∧
      ∀ i, i < 1024 → l.getD i 0 = if m.getLsbD i then v.getD i 0 else (t.vreg r).getD i 0 := by
  obtain ⟨hlen, hget⟩ := getD_zipWith_masks (fun b (x : W32 × W32) => if b then x.2 else x.1) (maskList m) (t.vreg r) v
    false (maskList_length m) hr hv
  refine ⟨_, rfl, hlen, fun i hi => ?_⟩
  rw [hget i hi, maskList_getD m hi]

theorem land_packed (t : Tile) (r w : Nat) (subs : List Nat) (v : List W32) (hw : w ∈ [4, 8, 16])
    (hs : subs.length = 1024) (hv : v.length = 1024) (hr : (t.vreg r).length = 1024) :
    ∃ l : List W32, t.land (.packed r w subs v) = t.setV r l ∧ l.length = 1024 ∧
      ∀ i b, i < 1024 → b < 32 → (l.getD i 0).getLsbD b =
        if (subs.getD i 0).testBit (b / w) then (v.getD i 0).getLsbD b else ((t.vreg r).getD i 0).getLsbD b := by
  obtain ⟨hlen, hget⟩ := getD_zipWith_masks (fun k (x : W32 × W32) => mergeLane w k x.1 x.2) subs (t.vreg r) v 0
    hs hr hv
  refine ⟨_, rfl, hlen, fun i b hi hb => ?_⟩
  rw [hget i hi, getLsbD_mergeLane hw _ _ _ hb]

theorem land_pred (t : Tile) (r : Nat) (m v : BitVec 1024) : ∃ x : BitVec 1024, t.land (.pred r m v) = t.setK r x ∧
    ∀ i, x.getLsbD i = if m.getLsbD i then v.getLsbD i else (t.kreg r).getLsbD i := by
  refine ⟨_, rfl, fun i => ?_⟩
  rw [BitVec.getLsbD_or, BitVec.getLsbD_and, BitVec.getLsbD_and, BitVec.getLsbD_not]
  by_cases hi : i < 1024
  · cases m.getLsbD i <;> simp [hi]
  · simp [BitVec.getLsbD_of_ge _ i (Nat.le_of_not_lt hi), hi]

/-- A scalar result of the shadow context lands in the shadow bank (R136). -/
theorem shadow_landDue_scalar {h : Shadow} {f : Flight} {r : Nat} {v : W64} (hf : h.flight = [f]) (hrem : f.rem = 0)
    (ht : f.tgt = .scalar r v) (hr : r ≠ 0) :
    h.landDue = { h with flight := [], regs := SMap.set 0 h.regs r v } := by
  simp [Shadow.landDue, hf, hrem, ht, hr]

/-- Settles O51: the order of a clk's landings, then each place of a result by its own lemma. -/
theorem resultsLandWhenDue : Obligations.ResultsLandWhenDue := by
  refine ⟨?due, ?order, ?scalar, land_vector, land_packed, ?rows, land_pred, ?sums, ?columns, ?words, ?csr,
    fun h f r v hf hrem ht hr => shadow_landDue_scalar hf hrem ht hr⟩
  case due =>
    intro s hfr
    change execResultLand s = _
    rw [execResultLand, if_neg (by simp [hfr])]
    rfl
  case order =>
    intro register t f later
    have hreg : ∀ a, register a = a.register := fun a => by cases a <;> rfl
    refine ⟨landAll_nil t, fun h => landAll_kept t f later fun g hg => ?_, fun ⟨g, hg, hne, heq⟩ => ?_⟩
    · rw [← Bool.not_eq_true, lostTo_iff, ← hreg, ← hreg]
      exact fun ⟨hne, heq⟩ => h g hg hne heq
    · rw [hreg] at hne heq
      rw [hreg] at heq
      rw [landAll_lost t hg ((lostTo_iff _ _).mpr ⟨hne, heq⟩)]
      cases f.tgt <;> rfl
  case scalar => exact fun t v => ⟨setS_zero t v, fun r hr => if_neg hr⟩
  case rows =>
    intro t q tag v own
    obtain ⟨hlen, hget⟩ := fillRows_getElem tag (t.vqRows q) v
    exact ⟨_, rfl, hlen, hget⟩
  case sums =>
    intro t a v hwf hlen hv
    obtain ⟨hframe, hmine, hother⟩ := foldl_putAcc hwf hlen hv
    refine ⟨t.land (.acc a v), ?_, hmine, hother, fun n => ?_⟩
    · rw [land_acc, Tile.accClear, hframe]
    · rw [land_acc, mem_accClear, hframe]; rfl
  case columns =>
    intro t a v hM hL hv
    refine ⟨⟨t.land (.accRow a false v), by rw [land_accMax]; rfl, fun o r hr => ?_, fun n => ?_⟩,
      t.land (.accRow a true v), by rw [land_accDen]; rfl, fun o r hr => ?_, fun n => ?_⟩
    · rw [land_accMax]; exact get_putWords hM hv o r hr
    · rw [land_accMax, mem_accClear]; rfl
    · rw [land_accDen]; exact get_putWords hL hv o r hr
    · rw [land_accDen, mem_accClear]; rfl
  case words =>
    exact fun t v n k w c vrb krb => ⟨rfl, rfl, rfl, rfl, rfl, rfl, rfl, rfl, fun _ => rfl⟩
  case csr =>
    intro t kind a new
    obtain ⟨h11, h12, h13, h14, h18, h19⟩ := land_csr t kind a
    exact ⟨rfl, h11, h12, h13, h14, h18, h19, fun n hn => land_csr_readOnly t kind a hn⟩

end Sys2Proof.Proofs
end

section
/-! SUPPORT. Bundles (R23, R24, R73, R76) and QUEUE-STALL (R27): each outcome of a bundle said once, and O52. -/

namespace Sys2Proof.Proofs

open Sys2Proof.Machine Sys2Proof.Laws

/-! ## Members -/

/-- An instruction that a strand's map encodes means as a member what it means alone; records, flow entries, commands and
events, which no strand's map encodes, are no members. -/
theorem member_eq_exec {st : Strand} {i : Instr} (s : State) (h : (encOps st i).isSome = true) : member i s = exec i s := by
  cases i <;> cases st <;> cases h <;> rfl

/-! ## Where the strands stand (R23, R24) -/

/-- The strand stands at an instruction with S = 1, its branch bubbles are over and it has not faulted. -/
def comeTo (t : Tile) (x : Stand) : Bool :=
  x.2.sync && decide ((t.str x.1).minAge ≤ (t.str x.1).age) && !(t.str x.1).faulted

theorem comeTo_iff {t : Tile} {x : Stand} :
    comeTo t x = true ↔ x.2.sync = true ∧ (t.str x.1).minAge ≤ (t.str x.1).age ∧ (t.str x.1).faulted = false := by
  simp [comeTo, and_assoc]

/-- A member is ready where its delay is over and its unit is free (R14, R30). -/
theorem memberReady_of {t : Tile} {x : Stand} (hready : (t.str x.1).ready x.2.delay = true)
    (hfree : ∀ i, x.2 = .ok i → t.unitFree i.instr = true) : memberReady t x = true := by
  rw [memberReady, hready, Bool.true_and]
  split
  · exact hfree _ ‹_›
  · rfl

theorem stands_length_le (s : State) (tid : Nat) : (s.stands tid).length ≤ 4 := by
  rw [State.stands, List.length_map]
  exact List.length_filter_le _ _

/-- Where all four strands run, the first that stands is the C strand. -/
theorem stands_c_first {s : State} {tid : Nat} (h : (s.stands tid).length = 4) :
    ((s.stands tid).find? fun x => x.1 == .c) = (s.stands tid).head? := by
  have hall : allStrands.filter (fun st => ((s.tile tid).str st).running) = allStrands := by
    rw [List.filter_eq_self]
    exact List.length_filter_eq_length_iff.mp (by rw [State.stands, List.length_map] at h; exact h)
  rw [State.stands, hall]
  rfl

/-- What the C strand stands at, as its partners see it. -/
def cHead (s : State) (tid : Nat) : Head := (((s.stands tid).find? fun x => x.1 == .c).map (·.2)).getD (.fault 0)

/-- Strands wait for those that have not come yet (R23). -/
theorem bundle_waits {s : State} {tid : Nat}
    (h : ((s.stands tid).filter (comeTo (s.tile tid))).length < (s.stands tid).length) :
    s.bundle tid = .wait (cHead s tid) ((s.stands tid).filter (comeTo (s.tile tid))) :=
  if_pos (by rw [Bool.or_eq_true]; exact .inl (decide_eq_true h))

/-- What a bundle comes to once every strand that runs stands at it: its members, their readiness and their verdicts. -/
theorem bundle_come {s : State} {tid : Nat} (hne : s.stands tid ≠ [])
    (hcome : ∀ x ∈ s.stands tid, comeTo (s.tile tid) x = true) :
    s.bundle tid = if (s.stands tid).length < 4 then .orphan ((s.stands tid).map (·.1))
      else if ((s.stands tid).filter (memberReady (s.tile tid))).length < 4 then
        .wait (cHead s tid) ((s.stands tid).filter (memberReady (s.tile tid)))
      else
        let v := (s.stands tid).map fun x => (x, s.verdictOf tid (cHead s tid) x)
        if v.any (·.2 == 1) then .block (cHead s tid) v
        else if v.any (·.2 == 2) then .fault (cHead s tid) v
        else .go (cHead s tid) (s.stands tid) := by
  have hfilter : (s.stands tid).filter (comeTo (s.tile tid)) = s.stands tid := List.filter_eq_self.mpr hcome
  have hempty : (s.stands tid).isEmpty = false := by simpa using hne
  refine if_neg ?_
  change ¬ (decide (((s.stands tid).filter (comeTo (s.tile tid))).length < _) || _) = true
  rw [hfilter, hempty]
  simp

/-- All four stand ready at a bundle: the first member that blocks decides, then one that faults, else all may issue. -/
theorem bundle_judged {s : State} {tid : Nat} (hfour : (s.stands tid).length = 4)
    (hcome : ∀ x ∈ s.stands tid, comeTo (s.tile tid) x = true)
    (hready : ∀ x ∈ s.stands tid, memberReady (s.tile tid) x = true) :
    let v := (s.stands tid).map fun x => (x, s.verdictOf tid (cHead s tid) x)
    ((∃ x ∈ s.stands tid, s.verdictOf tid (cHead s tid) x = 1) → s.bundle tid = .block (cHead s tid) v) ∧
    ((∃ x ∈ s.stands tid, s.verdictOf tid (cHead s tid) x = 2) →
      (∀ x ∈ s.stands tid, s.verdictOf tid (cHead s tid) x ≠ 1) → s.bundle tid = .fault (cHead s tid) v) ∧
    ((∀ x ∈ s.stands tid, s.verdictOf tid (cHead s tid) x = 0) → s.bundle tid = .go (cHead s tid) (s.stands tid)) := by
  intro v
  have hfilter : (s.stands tid).filter (memberReady (s.tile tid)) = s.stands tid := List.filter_eq_self.mpr hready
  have hany : ∀ n, v.any (·.2 == n) = true ↔ ∃ x ∈ s.stands tid, s.verdictOf tid (cHead s tid) x = n := by
    intro n; simp [v, List.any_map]
  rw [bundle_come (by intro h; rw [h] at hfour; exact absurd hfour (by decide)) hcome, if_neg (by omega), hfilter,
    if_neg (by omega)]
  refine ⟨fun h => if_pos ((hany 1).mpr h), fun h h1 => ?_, fun h0 => ?_⟩
  · refine (if_neg fun h' => ?_).trans (if_pos ((hany 2).mpr h))
    obtain ⟨x, hx, e⟩ := (hany 1).mp h'
    exact h1 x hx e
  · have hno : ∀ n, n ≠ 0 → ¬ v.any (·.2 == n) = true := fun n hn h' => by
      obtain ⟨x, hx, e⟩ := (hany n).mp h'
      exact hn (e.symm.trans (h0 x hx))
    exact (if_neg (hno 1 (by decide))).trans (if_neg (hno 2 (by decide)))

/-! ## What a bundle's issue answers -/

section
variable {s : State} (hclk : s.me.clockRuns = true)
include hclk

theorem exec_bundleIssue_wait {c : Head} {l : List Stand} (h : s.bundle s.focus.tile = .wait c l) :
    exec .bundleIssue s = .next (l.foldl (fun s' x => standAlone s' s.focus.tile c x) s) := by
  change execBundleIssue s = _
  simp [execBundleIssue, hclk, h]

theorem exec_bundleIssue_orphan {l : List Strand} (h : s.bundle s.focus.tile = .orphan l) :
    exec .bundleIssue s = .next (l.foldl (fun s' st => strandFault s' s.focus.tile st cILLEGAL 0) s) := by
  change execBundleIssue s = _
  simp [execBundleIssue, hclk, h]

theorem exec_bundleIssue_block {c : Head} {l : List (Stand × Nat)} (h : s.bundle s.focus.tile = .block c l) :
    exec .bundleIssue s = .next (l.foldl (fun s' x => if x.2 = 1 then memberStops s' s.focus.tile c x.1
      else waitPartners s' s.focus.tile x.1.1) s) := by
  change execBundleIssue s = _
  simp [execBundleIssue, hclk, h]

theorem exec_bundleIssue_fault {c : Head} {l : List (Stand × Nat)} (h : s.bundle s.focus.tile = .fault c l) :
    exec .bundleIssue s = .next (l.foldl (fun s' x => if x.2 = 2 then memberStops s' s.focus.tile c x.1
      else s'.onTile s.focus.tile fun t => t.onStr x.1.1 fun y => { y with notIssued := true }) s) := by
  change execBundleIssue s = _
  simp [execBundleIssue, hclk, h]

/-- The effect of one member of a bundle that issues. -/
def memberIssues (s : State) (tid : Nat) (c : Head) (s' : State) (x : Stand) : State :=
  match x.2 with
  | .ok i => runMember s' (bundleFocus s tid c 1 x.1) i.instr
  | _ => s'

theorem exec_bundleIssue_go {c : Head} {l : List Stand} (h : s.bundle s.focus.tile = .go c l) :
    exec .bundleIssue s = .next (l.foldl (memberIssues s s.focus.tile c) s) := by
  change execBundleIssue s = _
  simp only [execBundleIssue, hclk, h]
  rfl

end

/-! ## QUEUE-STALL (R27) -/

theorem str_onStr_ne (t : Tile) {st o : Strand} (f : StrandSt → StrandSt) (h : o ≠ st) :
    (t.onStr st f).str o = t.str o := by
  cases st <;> cases o <;> trivial

/-- Nothing of the tile but its strands differs. -/
def SameButStrands (t u : Tile) : Prop := ∃ c v d e, u = { t with sc := c, sv := v, sd := d, se := e }

theorem SameButStrands.trans {t u w : Tile} (h : SameButStrands t u) (h' : SameButStrands u w) : SameButStrands t w := by
  obtain ⟨_, _, _, _, rfl⟩ := h
  obtain ⟨c, v, d, e, rfl⟩ := h'
  exact ⟨c, v, d, e, rfl⟩

theorem onStr_sameButStrands (t : Tile) (st : Strand) (f : StrandSt → StrandSt) : SameButStrands t (t.onStr st f) := by
  cases st <;> exact ⟨_, _, _, _, rfl⟩

/-- Of a tile's strands none but marks of others than `st` differs (R73, R352). -/
def MarksPartners (st : Strand) (t u : Tile) : Prop :=
  SameButStrands t u ∧ u.str st = t.str st ∧ ∀ o, u.str o = { t.str o with notIssued := (u.str o).notIssued }

theorem MarksPartners.refl (st : Strand) (t : Tile) : MarksPartners st t t := ⟨⟨_, _, _, _, rfl⟩, rfl, fun _ => rfl⟩

theorem MarksPartners.trans {st : Strand} {t u w : Tile} (h : MarksPartners st t u) (h' : MarksPartners st u w) :
    MarksPartners st t w := by
  obtain ⟨hs, hst, ho⟩ := h
  obtain ⟨hs', hst', ho'⟩ := h'
  exact ⟨hs.trans hs', hst'.trans hst, fun o => by rw [ho' o, ho o]⟩

theorem onStr_marks (t : Tile) {st o : Strand} (h : o ≠ st) :
    MarksPartners st t (t.onStr o fun y => { y with notIssued := true }) := by
  refine ⟨onStr_sameButStrands .., str_onStr_ne t _ h.symm, fun k => ?_⟩
  by_cases hk : k = o
  · rw [hk, str_onStr]
  · rw [str_onStr_ne t _ hk]

theorem partnersNotIssued_marks (t : Tile) (st : Strand) : MarksPartners st t (t.partnersNotIssued st) := by
  unfold Tile.partnersNotIssued
  generalize [Strand.c, .v, .d, .e] = l
  induction l generalizing t with
  | nil => exact .refl st t
  | cons o l ih =>
    rw [List.foldl_cons]
    refine .trans ?_ (ih _)
    split
    · exact onStr_marks t (by rename_i h; exact h.1)
    · exact .refl st t

theorem raiseHalt_site (s : State) (p cause src id : Nat) : siteOf (raiseHalt s p cause src id) = siteOf s := by
  rw [(raiseHalt_does s p cause src id).1]; rfl

/-- A fault of a unit of the focus tile changes nothing of the tile but its stop records (R352). -/
theorem unitFault_me (s : State) (unit cause xr : Nat) (pc : BitVec 21) (aux : BitVec 320) :
    ∃ stops, (unitFault s s.focus.tile unit cause xr pc aux).me = { s.me with stops := stops } := by
  unfold unitFault
  dsimp only
  split
  · exact ⟨s.me.stops, rfl⟩
  · exact ⟨_, (me_of_site (raiseHalt_site ..)).trans (me_setTile s _)⟩

/-- A strand that has stood blocked for its limit faults as it stands, its partners marked (R27, R73). -/
theorem exec_queueStall {s : State} (hclk : s.me.clockRuns = true) (hrun : (s.me.str s.focus.strand).running = true)
    (hnf : (s.me.str s.focus.strand).faulted = false) (hw : (s.me.str s.focus.strand).waiting = true)
    (h7 : (s.me.str s.focus.strand).wait ≠ 7) (hlim : s.me.stallLimit ≤ (s.me.str s.focus.strand).blocked) :
    let f := unitFault s s.focus.tile s.focus.strand.code cSTALL 0 (s.me.str s.focus.strand).pc 0
    ∃ m, MarksPartners s.focus.strand f.me m ∧
      exec .queueStall s = .next (f.withMe (m.onStr s.focus.strand fun x => { x with faulted := true })) := by
  intro f
  refine ⟨if bitAt (Mem.readN s.me.sp (s.me.str s.focus.strand).pc.toNat 8) 63 then f.me.partnersNotIssued s.focus.strand
    else f.me, ?_, ?_⟩
  · split
    · exact partnersNotIssued_marks ..
    · exact .refl ..
  · change execQueueStall s = _
    simp only [execQueueStall, hclk, hrun, hnf, hw, h7, Nat.not_lt.mpr hlim]
    rfl

/-! ## O52 -/

/-- Settles O52: members mean what they mean alone, and each outcome of a bundle is read off its verdicts. -/
theorem bundlesIssueTogether : Obligations.BundlesIssueTogether := by
  refine ⟨fun st i s h => member_eq_exec s h, fun s => ?four, fun s => ?orphans, fun s => ?waits, fun s r => ?stall⟩
  case four =>
    intro tid l c hclk hfour hall
    have hc : cHead s tid = c := by rw [cHead, stands_c_first hfour]
    have hcome : ∀ x ∈ s.stands tid, comeTo (s.tile tid) x = true := fun x hx => by
      obtain ⟨hsync, hnf, hready, -⟩ := hall x hx
      exact comeTo_iff.mpr ⟨hsync, (ready_eq_true.mp hready).1, hnf⟩
    have hready : ∀ x ∈ s.stands tid, memberReady (s.tile tid) x = true := fun x hx => by
      obtain ⟨-, -, hready, hfree⟩ := hall x hx
      exact memberReady_of hready hfree
    obtain ⟨hblock, hfault, hgo⟩ := bundle_judged hfour hcome hready
    rw [hc] at hblock hfault hgo
    refine ⟨fun h0 => ?_, fun h2 h1 => ?_, fun h1 => ?_⟩
    · rw [exec_bundleIssue_go hclk (hgo h0)]
      rfl
    · rw [exec_bundleIssue_fault hclk (hfault h2 h1), List.foldl_map]
    · rw [exec_bundleIssue_block hclk (hblock h1), List.foldl_map]
  case orphans =>
    intro tid l hclk hne hlt hall
    have hcome : ∀ x ∈ s.stands tid, comeTo (s.tile tid) x = true := fun x hx => by
      obtain ⟨hsync, hnf, hage⟩ := hall x hx
      exact comeTo_iff.mpr ⟨hsync, hage, hnf⟩
    have h : s.bundle tid = .orphan ((s.stands tid).map (·.1)) := by rw [bundle_come hne hcome, if_pos hlt]
    rw [exec_bundleIssue_orphan hclk h, List.foldl_map]
    rfl
  case waits =>
    intro tid l c come waits hclk
    have hwaits : ∀ k : List Stand, k.foldl (fun s' x => standAlone s' tid c x) s = waits k := by
      intro k
      congr 1
      funext s' x
      exact if_congr (by rw [Bool.and_eq_true, beq_iff_eq]) rfl rfl
    refine ⟨fun hlt => ?_, fun hfour ⟨x, hx, hnr⟩ => ?_⟩
    · rw [exec_bundleIssue_wait hclk (bundle_waits hlt)]
      exact congrArg _ (hwaits come)
    · have hle : come.length ≤ l.length := List.length_filter_le _ _
      have hlen : l.length ≤ 4 := stands_length_le s tid
      have hcome : ∀ x ∈ s.stands tid, comeTo (s.tile tid) x = true :=
        List.length_filter_eq_length_iff.mp (show come.length = l.length by omega)
      have hready : (l.filter (memberReady s.me)).length < l.length :=
        List.length_filter_lt_length_iff_exists.mpr ⟨x, hx, by simp [hnr]⟩
      have hfull : ¬ l.length < 4 := by omega
      have hpart : (l.filter (memberReady s.me)).length < 4 := by omega
      have h : s.bundle tid = .wait c (l.filter (memberReady s.me)) :=
        (bundle_come (List.ne_nil_of_mem hx) hcome).trans ((if_neg hfull).trans (if_pos hpart))
      rw [exec_bundleIssue_wait hclk h]
      exact congrArg _ (hwaits _)
  case stall =>
    intro st x hr hclk hrun hnf hw h7 hlim
    have hstall : s.me.stallLimit ≤ x.blocked := by rw [Tile.stallLimit, hr]; exact hlim
    obtain ⟨m, ⟨hframe, hst, hothers⟩, hexec⟩ := exec_queueStall hclk hrun hnf hw h7 hstall
    obtain ⟨stops, hme⟩ := unitFault_me s st.code cSTALL 0 x.pc 0
    have hstr : ∀ o, (unitFault s s.focus.tile st.code cSTALL 0 x.pc 0).me.str o = s.me.str o := fun o => by
      rw [hme]; cases o <;> rfl
    refine ⟨_, _, hexec, rfl, ?_, ?_, fun o ho => ?_⟩
    · obtain ⟨_, _, _, _, h⟩ := hframe.trans (onStr_sameButStrands m st fun x => { x with faulted := true })
      rw [h]; rfl
    · rw [str_onStr, hst, hstr]
    · rw [str_onStr_ne m _ ho, hothers o, hstr]

end Sys2Proof.Proofs
end

section
/-! SUPPORT. The pairwise tree (R66, R249) and what goes on at a router (R103, R239 to R242, R263, R265, R269, R388, R399,
R426): strays, sending, results and loads said once each, and O41. -/

namespace Sys2Proof.Proofs

open Sys2Proof.Machine Sys2Proof.Laws

/-! ## The pairwise tree (R66, R249) -/

theorem halfPow_eq {n k : Nat} (hlo : 2 ^ k < n) (hhi : n ≤ 2 ^ (k + 1)) : halfPow n = 2 ^ k := by
  have hlog : (n - 1).log2 = k := (Nat.log2_eq_iff (by have := Nat.two_pow_pos k; omega)).mpr (by omega)
  rw [halfPow, hlog]

theorem halfPow_le {n f : Nat} (hn : 2 ≤ n) (hf : n ≤ 2 ^ (f + 1)) : halfPow n ≤ 2 ^ f :=
  Nat.pow_le_pow_right (by decide) (Nat.lt_succ_iff.mp ((Nat.log2_lt (by omega)).mpr (by omega)))

/-- The second part of a tree is no longer than the first. -/
theorem le_two_mul_halfPow (n : Nat) : n ≤ 2 * halfPow n := by
  have h : n - 1 < 2 ^ ((n - 1).log2 + 1) := Nat.lt_log2_self
  rw [halfPow]
  omega

theorem le_two_pow_bitLen (n : Nat) : n ≤ 2 ^ bitLen n := by
  rw [bitLen]
  split_ifs with h
  · omega
  · exact Nat.lt_log2_self.le

section
variable {α : Type} (node : α → α → α) (d : α)

theorem treeGo_split (f : Nat) {l : List α} (h : 2 ≤ l.length) :
    treeGo node d (f + 1) l =
      node (treeGo node d f (l.take (halfPow l.length))) (treeGo node d f (l.drop (halfPow l.length))) := by
  match l, h with
  | _ :: _ :: _, _ => rfl

theorem treeGo_short (f g : Nat) {l : List α} (h : l.length < 2) : treeGo node d (f + 1) l = treeGo node d (g + 1) l := by
  match l, h with
  | [], _ => rfl
  | [_], _ => rfl

/-- Fuel that bounds the depth of the tree does not change its value. -/
theorem treeGo_fuel {f g : Nat} {l : List α} (hf : l.length ≤ 2 ^ f) (hg : l.length ≤ 2 ^ g) :
    treeGo node d (f + 1) l = treeGo node d (g + 1) l := by
  induction f generalizing g l with
  | zero => exact treeGo_short node d 0 g (by omega)
  | succ f ih =>
    by_cases hl : l.length < 2
    · exact treeGo_short node d (f + 1) g hl
    · obtain ⟨g, rfl⟩ : ∃ n, g = n + 1 := Nat.exists_eq_succ_of_ne_zero (by rintro rfl; omega)
      have hl : 2 ≤ l.length := by omega
      have hlen := le_two_mul_halfPow l.length
      have hpf := halfPow_le hl hf
      have hpg := halfPow_le hl hg
      rw [treeGo_split node d _ hl, treeGo_split node d _ hl,
        ih (l := l.take _) (g := g) (by rw [List.length_take]; omega) (by rw [List.length_take]; omega),
        ih (l := l.drop _) (g := g) (by rw [List.length_drop]; omega) (by rw [List.length_drop]; omega)]

theorem treeGo_eq_tree {f : Nat} {l : List α} (h : l.length ≤ 2 ^ f) : treeGo node d (f + 1) l = tree node d l :=
  treeGo_fuel node d h (le_two_pow_bitLen _)

/-- The operands of a tree divide at the largest power of two below their number (R66). -/
theorem tree_split {l : List α} {k : Nat} (hlo : 2 ^ k < l.length) (hhi : l.length ≤ 2 ^ (k + 1)) :
    tree node d l = node (tree node d (l.take (2 ^ k))) (tree node d (l.drop (2 ^ k))) := by
  have hpos := Nat.two_pow_pos k
  rw [← treeGo_eq_tree node d hhi, treeGo_split node d _ (by omega), halfPow_eq hlo hhi,
    treeGo_eq_tree node d (by rw [List.length_take]; omega), treeGo_eq_tree node d (by rw [List.length_drop]; omega)]

end

/-! ## Strays (R239, R240, R426) -/

theorem exec_strayPacket {s : State} {p : Packet} (h : s.meet = .stray p) :
    exec .strayPacket s = .next (strayIn s.takePacket s.focus.router s.focus.port p) := by
  simp only [exec, execStrayPacket, h]

section
variable {s : State} {r port : Nat} {p : Packet}

theorem strayIn_queues (h : ((s.router r).strayOf p.part).pkts.length < 16) :
    let q := (s.router r).strayOf p.part
    strayIn s r port p = strayEvent (s.onRouter r fun x => { x with
      stray := SMap.put x.stray p.part { q with pkts := q.pkts ++ [p], count := q.count + 1 } }) r port p :=
  if_pos h

theorem strayIn_discards (h : 16 ≤ ((s.router r).strayOf p.part).pkts.length) :
    let q := (s.router r).strayOf p.part
    strayIn s r port p = s.onRouter r fun x => { x with stray := SMap.put x.stray p.part { q with
      dropped := if q.dropped = 0xFFFF#16 then 0xFFFF#16 else q.dropped + 1 } } := by
  intro q
  have hfull : (if q.dropped = 0xFFFF#16 then q.dropped else q.dropped + 1) =
      if q.dropped = 0xFFFF#16 then 0xFFFF#16 else q.dropped + 1 := ite_congr rfl id fun _ => rfl
  rw [← hfull]
  exact if_neg (Nat.not_lt.mpr h)

end

theorem strayRead_eq (s : State) (r off : Nat) :
    let part := (s.router r).esel.toNat / 2 ^ 20 % 8
    let q := (s.router r).strayOf part
    strayRead s r off = if off = 0x238 then
      s.onRouter r fun x => { x with stray := SMap.put x.stray part { q with pkts := q.pkts.drop 1 } } else s :=
  rfl

/-! ## Sending (R242, R388, R399) -/

theorem queueOut_eq (s : State) (r port : Nat) (p : Packet) (peer : Option Nat) :
    s.queueOut r port p peer = s.onRouter r fun x => { x with
      outq := SMap.put x.outq (16 * port + p.channel) (x.outputs port p.channel ++ [⟨p, p.pl + 1, peer⟩]) } := by
  simp [State.queueOut, Router.setOutputs]

theorem outFlits_flit (p : Packet) : p.outFlits.map (·.flit) = p.flits := by
  simp [Packet.outFlits, Packet.flits, Function.comp_def]

theorem mem_outFlits {p : Packet} {f : OutFlit} (h : f ∈ p.outFlits) :
    f.cls = p.channel ∧ f.kind = 0 ∧ f.part = p.part ∧ f.stamp = p.stamp := by
  rcases List.mem_cons.mp h with rfl | h
  · exact ⟨rfl, rfl, rfl, rfl⟩
  · obtain ⟨_, -, rfl⟩ := List.mem_map.mp h
    exact ⟨rfl, rfl, rfl, rfl⟩

section
variable (s : State) {r port : Nat} (came : Nat) (p : Packet)

theorem sendOn_neighbour (h : (neighbour r port).isSome = true) : sendOn s r came port p = s.queueOut r port p none :=
  if_pos h

theorem sendOn_nowhere (h : neighbour r port = none) (h6 : port ≠ 6) : sendOn s r came port p = s := by
  simp [sendOn, h, h6]

theorem sendOn_scaleUp {n : Nat} (h : neighbour r 6 = none) (hn : scaleUpPort r = some n) :
    sendOn s r came 6 p = if (s.port n).up then s.linkQueue n p.outFlits else s := by
  simp [sendOn, h, hn]

section
variable {n : Nat} (h : neighbour r 6 = none) (hs : scaleUpPort r = none) (hn : ethPort r = some n)
include h hs hn

theorem sendOn_peer {peer : Nat} (hp : (s.eth n).peerOf p = some peer) :
    sendOn s r came 6 p = s.queueOut r 6 p (some peer) := by
  simp [sendOn, h, hs, hn, hp]

theorem sendOn_strays (hp : (s.eth n).peerOf p = none) : sendOn s r came 6 p = strayIn s r came p := by
  simp [sendOn, h, hs, hn, hp]

end

end

/-! ## Results (R242, R261, R263) -/

theorem mem_portList {m : BitVec 7} {k : Nat} : k ∈ portList m ↔ m.getLsbD k = true := by
  rw [portList, List.mem_filter, List.mem_range, bitAt_testBit, BitVec.testBit_toNat]
  exact and_iff_right_of_imp BitVec.lt_of_getLsbD

section
variable (s : State) (r : Nat) (x : Entry) (keep : Bool) (p : Packet)

/-- A packet that leaves an entry, but for its key: one hop further, in REN's flow and DRV's class (R242, R263). -/
def outHeader (s : State) (x : Entry) (p : Packet) : Packet :=
  { p with
    hops := p.hops + 1, fid := if x.e.ren then x.e.nfid else p.fid, o := x.e.drv
    stamp := if x.e.drv then (if p.o then p.stamp else s.ptc.setWidth 48) else 0 }

/-- A result, and a packet that enters the drove class, leave under the router's own key (R263). -/
theorem outPacket_fresh (h : keep = false ∨ (x.e.drv = true ∧ p.o = false)) :
    outPacket s r x keep p = { outHeader s x p with
      spkg := BitVec.ofNat 10 s.pkg, stid := if isEdge r then 0 else BitVec.ofNat 9 r, sseq := x.outSeq } := by
  rcases h with rfl | ⟨hd, ho⟩
  · cases hd : x.e.drv <;> simp [outPacket, outHeader, hd]
  · simp [outPacket, outHeader, hd, ho]

theorem outPacket_kept (h : ¬ (keep = false ∨ (x.e.drv = true ∧ p.o = false))) :
    outPacket s r x keep p = outHeader s x p := by
  obtain ⟨hk, hd⟩ := not_or.mp h
  have hk : keep = true := Bool.eq_true_of_not_eq_false hk
  cases hv : x.e.drv
  · simp [outPacket, outHeader, hk, hv]
  · have ho : p.o = true := Bool.eq_true_of_not_eq_false fun ho => hd ⟨hv, ho⟩
    simp [outPacket, outHeader, hk, hv, ho]

theorem sendResult_waits (first last gap : Nat) (h : s.mayLeave r x (outPacket s r x keep p) = false) :
    sendResult s r x keep p first last gap = .wait s := by
  simp [sendResult, h]

theorem sendResult_delivered (first last gap : Nat) (h : s.mayLeave r x (outPacket s r x keep p) = true) {a : State}
    (ha : deliverPacket s r x 0 p = .ok a) :
    sendResult s r x keep p first last gap = .ok (traceResult
      (((portList x.e.opm).foldl (fun u port => sendOn u r first port (outPacket a r x keep p)) a).onEntry r
        x.e.part.toNat x.e.fid.toNat fun y => { y with
          done := y.done + 1, nf := y.nf || p.nf, outSeq := if x.e.opm = 0#7 then y.outSeq else y.outSeq + 1 })
      r x p.pidx.toNat first last gap) := by
  simp [sendResult, h, ha]

end

section
variable {s : State} {x : Entry} (he : s.entry s.focus.router s.focus.part s.focus.idx = some x)
  (hs : s.focus.part ∉ (s.router s.focus.router).stopped)
include he hs

section
variable {a : State} {y : Ready} (hb : (s.focus.part, s.focus.idx) ∉ (s.router s.focus.router).badFid)
  (hy : x.ready.find? (·.num == x.outNum) = some y)
include hb hy

theorem exec_roundResultSend_ok (ha : sendResult s s.focus.router x false y.pkt y.first y.last y.gap = .ok a) :
    exec .roundResultSend s = .next (a.onEntry s.focus.router s.focus.part s.focus.idx fun z =>
      { z with ready := z.ready.filter (·.num != x.outNum), outNum := z.outNum + 1 }) := by
  simp [exec, execRoundResultSend, he, hs, hb, hy, ha]

theorem exec_roundResultSend_wait (ha : sendResult s s.focus.router x false y.pkt y.first y.last y.gap = .wait a) :
    exec .roundResultSend s = .next a := by
  simp [exec, execRoundResultSend, he, hs, hb, hy, ha]

end

theorem exec_flowStall (hw : 2 ^ s.stallK < x.waited) :
    exec .flowStall s = .next
      (routerFault s s.focus.router cFLOW 5 s.focus.part 7 x.stalledPidx s.focus.idx) := by
  simp [exec, execFlowStall, he, hs, hw]

end

/-! ## Loading (R103, R265, R269) -/

section
variable {s : State} {r part w op : Nat} {i : Instr} (lid : Option Nat) (secure : Bool)
  (hv : (decFlow w).v = true) (hi : decodeFlow w = some i) (hf : flowOf i = some (op, decFlow w))
include hv hi hf

theorem loadEntry_refused (h : s.loadable r part i op (decFlow w) = false) :
    s.loadEntry r part w lid secure = .error 1 := by
  simp [State.loadEntry, hv, hi, hf, h]

theorem loadEntry_busy (h : s.loadable r part i op (decFlow w) = true)
    (hb : ∃ y ∈ (s.router r).entries, y.is part (decFlow w).fid.toNat = true ∧ y.act = true) :
    s.loadEntry r part w lid secure = .error 9 := by
  simpa [State.loadEntry, hv, hi, hf, h] using hb

theorem loadEntry_installs (h : s.loadable r part i op (decFlow w) = true)
    (hb : ∀ y ∈ (s.router r).entries, y.is part (decFlow w).fid.toNat = true → y.act = false) :
    s.loadEntry r part w lid secure = .ok (s.onRouter r fun x => { x with
      badFid := x.badFid.erase (part, (decFlow w).fid.toNat)
      entries := (x.entries.filter fun y => !y.is part (decFlow w).fid.toNat) ++
        [⟨op, decFlow w, lid, secure, false, 0, 0, [], [], 0, [], [], 0, false, 0, 0, []⟩] }) := by
  simpa [State.loadEntry, hv, hi, hf, h] using hb

end

section
variable {s : State} {queue r : Nat} {w : BitVec 256}

theorem exec_eload_ok {t : State} (h : s.loadEntry r (queue % 8) w.toNat none (decide (8 ≤ queue)) = .ok t) :
    exec (.eload queue r w) s = .next t := by
  simp only [exec, execEload, h]

theorem exec_eload_error {why : Nat}
    (h : s.loadEntry r (queue % 8) w.toNat none (decide (8 ≤ queue)) = .error why) :
    exec (.eload queue r w) s = .next (s.loadFault r (queue % 8) w.toNat why) := by
  simp only [exec, execEload, h]

end

/-! ## O41 -/

/-- Settles O41: the tree divides by its fuel-free equation, and each event of a router is read off what the shared
operations answer. -/
theorem operandsCombineAndRoutersGoOn : Obligations.OperandsCombineAndRoutersGoOn := by
  refine ⟨⟨fun α node d x => rfl, fun α node d l k => tree_split node d⟩, fun s p h => ?stray, fun s r came port p => ?send,
    fun s r x keep p first last gap => ?result,
    fun s a x y he hs hb hy => ⟨exec_roundResultSend_ok he hs hb hy, exec_roundResultSend_wait he hs hb hy⟩,
    fun s x he hw hs => exec_flowStall he hs hw, fun s queue r op w i e hv hi hf he => ?load,
    fun s r off => congrArg Host.Outcome.next (strayRead_eq s r off)⟩
  case stray =>
    rw [exec_strayPacket h]
    exact ⟨fun hq => congrArg _ (strayIn_queues hq), fun hq => congrArg _ (strayIn_discards hq)⟩
  case send =>
    refine ⟨fun h => (sendOn_neighbour s came p h).trans (queueOut_eq ..), outFlits_flit p, fun f => mem_outFlits,
      fun h => ⟨sendOn_nowhere s came p h, ?_⟩⟩
    rintro rfl n
    exact ⟨sendOn_scaleUp s came p h, fun hs hn =>
      ⟨fun peer hp => (sendOn_peer s came p h hs hn hp).trans (queueOut_eq ..), sendOn_strays s came p h hs hn⟩⟩
  case result =>
    refine ⟨?_, fun k => mem_portList, sendResult_waits s r x keep p first last gap,
      fun h a => sendResult_delivered s r x keep p first last gap h⟩
    by_cases h : keep = false ∨ (x.e.drv = true ∧ p.o = false)
    · rw [outPacket_fresh s r x keep p h]
      exact ⟨rfl, rfl, rfl, rfl, fun _ => ⟨rfl, rfl, rfl⟩, fun hk => absurd h hk, rfl⟩
    · rw [outPacket_kept s r x keep p h]
      exact ⟨rfl, rfl, rfl, rfl, fun hf => absurd hf h, fun _ => ⟨rfl, rfl, rfl⟩, rfl⟩
  case load =>
    subst he
    exact ⟨fun h => exec_eload_error (loadEntry_refused _ _ hv hi hf h),
      fun h => ⟨fun hb => exec_eload_ok (loadEntry_installs _ _ hv hi hf h hb),
        fun hb => exec_eload_error (loadEntry_busy _ _ hv hi hf h hb)⟩⟩

end Sys2Proof.Proofs
end

section
/-! SUPPORT. The decoder and the encoder (R70 to R72, R92, R97, R100, R102, R422): O2 by the instruction's own round trip,
O3 from it, and the sample words of O4. -/

namespace Sys2Proof.Proofs

open Sys2Proof.Laws

/-- Every instruction's words read back, by its own round trip (Laws/PerInstr.lean). -/
theorem encoding_round : ∀ i, Encoding.Statement i
  | .jmp .. => Encoding.jmp .. | .lpf .. => Encoding.lpf .. | .add .. => Encoding.add .. | .sub .. => Encoding.sub ..
  | .and .. => Encoding.and .. | .or .. => Encoding.or .. | .xor .. => Encoding.xor .. | .shl .. => Encoding.shl ..
  | .shr .. => Encoding.shr .. | .sra .. => Encoding.sra .. | .mul .. => Encoding.mul ..
  | .mulh .. => Encoding.mulh .. | .div .. => Encoding.div .. | .rem .. => Encoding.rem ..
  | .min .. => Encoding.min .. | .max .. => Encoding.max .. | .cmp .. => Encoding.cmp .. | .sel .. => Encoding.sel ..
  | .ext .. => Encoding.ext .. | .bitc .. => Encoding.bitc .. | .addi .. => Encoding.addi ..
  | .andi .. => Encoding.andi .. | .ori .. => Encoding.ori .. | .xori .. => Encoding.xori ..
  | .shli .. => Encoding.shli .. | .shri .. => Encoding.shri .. | .srai .. => Encoding.srai ..
  | .muli .. => Encoding.muli .. | .cmpi .. => Encoding.cmpi .. | .li .. => Encoding.li ..
  | .lih .. => Encoding.lih .. | .br .. => Encoding.br .. | .bc .. => Encoding.bc .. | .bf .. => Encoding.bf ..
  | .jr .. => Encoding.jr .. | .call .. => Encoding.call .. | .loopr .. => Encoding.loopr ..
  | .pop .. => Encoding.pop .. | .push .. => Encoding.push .. | .qlen .. => Encoding.qlen ..
  | .rdfs .. => Encoding.rdfs .. | .csrr .. => Encoding.csrr .. | .csrw .. => Encoding.csrw ..
  | .csrs .. => Encoding.csrs .. | .csrc .. => Encoding.csrc .. | .rand .. => Encoding.rand ..
  | .btr .. => Encoding.btr .. | .btw .. => Encoding.btw .. | .lcw .. => Encoding.lcw ..
  | .harr .. => Encoding.harr .. | .hwt .. => Encoding.hwt .. | .hset .. => Encoding.hset ..
  | .hpoll .. => Encoding.hpoll .. | .lnch .. => Encoding.lnch .. | .fcrd .. => Encoding.fcrd ..
  | .fcw .. => Encoding.fcw .. | .fcwt .. => Encoding.fcwt .. | .cncl .. => Encoding.cncl ..
  | .lvwt .. => Encoding.lvwt .. | .phint .. => Encoding.phint .. | .yield .. => Encoding.yield ..
  | .trace .. => Encoding.trace .. | .trap .. => Encoding.trap .. | .shi .. => Encoding.shi ..
  | .xlin .. => Encoding.xlin .. | .pblk .. => Encoding.pblk .. | .vadd .. => Encoding.vadd ..
  | .vsub .. => Encoding.vsub .. | .vmul .. => Encoding.vmul .. | .vfma .. => Encoding.vfma ..
  | .vfms .. => Encoding.vfms .. | .vfnma .. => Encoding.vfnma .. | .vmax .. => Encoding.vmax ..
  | .vmin .. => Encoding.vmin .. | .vabs .. => Encoding.vabs .. | .vneg .. => Encoding.vneg ..
  | .vmov .. => Encoding.vmov .. | .vexp2 .. => Encoding.vexp2 .. | .vlog2 .. => Encoding.vlog2 ..
  | .vrcpe .. => Encoding.vrcpe .. | .vrsqe .. => Encoding.vrsqe .. | .vrcpn .. => Encoding.vrcpn ..
  | .vrsqn .. => Encoding.vrsqn .. | .viadd .. => Encoding.viadd .. | .visub .. => Encoding.visub ..
  | .vimul .. => Encoding.vimul .. | .vimulh .. => Encoding.vimulh .. | .vimin .. => Encoding.vimin ..
  | .vimax .. => Encoding.vimax .. | .viand .. => Encoding.viand .. | .vior .. => Encoding.vior ..
  | .vixor .. => Encoding.vixor .. | .vishl .. => Encoding.vishl .. | .vishr .. => Encoding.vishr ..
  | .visra .. => Encoding.visra .. | .viabs .. => Encoding.viabs .. | .viota .. => Encoding.viota ..
  | .vcvt .. => Encoding.vcvt .. | .vwid .. => Encoding.vwid .. | .vcvti .. => Encoding.vcvti ..
  | .vcvtf .. => Encoding.vcvtf .. | .vicvt .. => Encoding.vicvt .. | .vrrot .. => Encoding.vrrot ..
  | .vcrot .. => Encoding.vcrot .. | .vrbc .. => Encoding.vrbc .. | .vcbc .. => Encoding.vcbc ..
  | .vrred .. => Encoding.vrred .. | .vcred .. => Encoding.vcred .. | .vrscan .. => Encoding.vrscan ..
  | .vcscan .. => Encoding.vcscan .. | .vbstep .. => Encoding.vbstep .. | .vcmp .. => Encoding.vcmp ..
  | .vicmp .. => Encoding.vicmp .. | .kand .. => Encoding.kand .. | .kor .. => Encoding.kor ..
  | .kxor .. => Encoding.kxor .. | .kandn .. => Encoding.kandn .. | .knot .. => Encoding.knot ..
  | .kmov .. => Encoding.kmov .. | .kset .. => Encoding.kset .. | .ptest .. => Encoding.ptest ..
  | .vacrr .. => Encoding.vacrr .. | .vaccr .. => Encoding.vaccr .. | .vacrw .. => Encoding.vacrw ..
  | .vaccw .. => Encoding.vaccw .. | .vacsr .. => Encoding.vacsr .. | .vacsw .. => Encoding.vacsw ..
  | .stset .. => Encoding.stset .. | .stld .. => Encoding.stld .. | .stsv .. => Encoding.stsv ..
  | .srd .. => Encoding.srd .. | .swr .. => Encoding.swr .. | .sstop .. => Encoding.sstop ..
  | .lds .. => Encoding.lds .. | .sts .. => Encoding.sts .. | .aadd .. => Encoding.aadd ..
  | .amin .. => Encoding.amin .. | .amax .. => Encoding.amax .. | .aand .. => Encoding.aand ..
  | .aor .. => Encoding.aor .. | .axor .. => Encoding.axor .. | .axchg .. => Encoding.axchg ..
  | .acas .. => Encoding.acas .. | .afadd .. => Encoding.afadd .. | .rgset .. => Encoding.rgset ..
  | .rgrd .. => Encoding.rgrd .. | .rpush .. => Encoding.rpush .. | .fence .. => Encoding.fence ..
  | .xfence .. => Encoding.xfence .. | .spt .. => Encoding.spt .. | .spc .. => Encoding.spc ..
  | .post .. => Encoding.post .. | .tadv .. => Encoding.tadv .. | .cseq .. => Encoding.cseq ..
  | .cwait .. => Encoding.cwait .. | .fsend .. => Encoding.fsend .. | .fwait .. => Encoding.fwait ..
  | .aqry .. => Encoding.aqry .. | .topk .. => Encoding.topk .. | .kvtrunc .. => Encoding.kvtrunc ..
  | .linkRecord .. => Encoding.linkRecord .. | .nil .. => Encoding.nil .. | .mma .. => Encoding.mma ..
  | .mmai .. => Encoding.mmai .. | .smxu .. => Encoding.smxu .. | .smxm .. => Encoding.smxm ..
  | .smxf .. => Encoding.smxf .. | .acld .. => Encoding.acld .. | .acst .. => Encoding.acst ..
  | .aczr .. => Encoding.aczr .. | .qscl .. => Encoding.qscl .. | .qpak .. => Encoding.qpak ..
  | .qdeq .. => Encoding.qdeq .. | .qcvt .. => Encoding.qcvt .. | .qamx .. => Encoding.qamx ..
  | .copy .. => Encoding.copy .. | .gath .. => Encoding.gath .. | .scat .. => Encoding.scat ..
  | .fill .. => Encoding.fill .. | .fsnd .. => Encoding.fsnd .. | .fsig .. => Encoding.fsig ..
  | .fdrp .. => Encoding.fdrp .. | .fwd .. => Encoding.fwd .. | .dup .. => Encoding.dup ..
  | .sum .. => Encoding.sum .. | .flowMax .. => Encoding.flowMax .. | .flowMin .. => Encoding.flowMin ..
  | .flowOr .. => Encoding.flowOr .. | .wsum .. => Encoding.wsum .. | .merge .. => Encoding.merge ..
  | .scan .. => Encoding.scan .. | .trn .. => Encoding.trn .. | .hold .. => Encoding.hold ..
  | .deliver .. => Encoding.deliver .. | .fadd .. => Encoding.fadd .. | .iadd .. => Encoding.iadd ..
  | .drop .. => Encoding.drop .. | .bellwetherArrive .. => Encoding.bellwetherArrive ..
  | .timeFlitReceive .. => Encoding.timeFlitReceive .. | .linkFlitReceive .. => Encoding.linkFlitReceive ..
  | .linkRetry .. => Encoding.linkRetry .. | .ethDatagramReceive .. => Encoding.ethDatagramReceive ..
  | .ptpEventStamp .. => Encoding.ptpEventStamp .. | .haltLineRaise .. => Encoding.haltLineRaise ..
  | .inval .. => Encoding.inval .. | .sqDoorbell .. => Encoding.sqDoorbell .. | .hwrite .. => Encoding.hwrite ..
  | .hread .. => Encoding.hread .. | .submit .. => Encoding.submit .. | .cancel .. => Encoding.cancel ..
  | .release .. => Encoding.release .. | .mread .. => Encoding.mread .. | .mwrite .. => Encoding.mwrite ..
  | .migrate .. => Encoding.migrate .. | .attest .. => Encoding.attest .. | .fwupd .. => Encoding.fwupd ..
  | .close .. => Encoding.close .. | .hostQueueRegisterWrite .. => Encoding.hostQueueRegisterWrite ..
  | .eload .. => Encoding.eload .. | .strayQueueRead .. => Encoding.strayQueueRead ..
  | .drovecfgWrite .. => Encoding.drovecfgWrite .. | .registerWrite .. => Encoding.registerWrite ..
  | .clockStepAdjust .. => Encoding.clockStepAdjust .. | .thermtrip .. => Encoding.thermtrip ..
  | .powerLoss .. => Encoding.powerLoss .. | .nop => Encoding.nop | .fin => Encoding.fin
  | .bundleIssue => Encoding.bundleIssue | .queueStall => Encoding.queueStall | .resultLand => Encoding.resultLand
  | .taskEnd => Encoding.taskEnd | .hurdleArrival => Encoding.hurdleArrival
  | .hurdlePhaseComplete => Encoding.hurdlePhaseComplete | .hurdleConfigEffect => Encoding.hurdleConfigEffect
  | .shret => Encoding.shret | .cpXlateMiss => Encoding.cpXlateMiss | .shadowTimeout => Encoding.shadowTimeout
  | .stldPerform => Encoding.stldPerform | .streamRowRead => Encoding.streamRowRead
  | .streamRowWrite => Encoding.streamRowWrite | .mark => Encoding.mark | .dAccessPerform => Encoding.dAccessPerform
  | .aqryPerform => Encoding.aqryPerform | .topkPerform => Encoding.topkPerform
  | .kvtruncPerform => Encoding.kvtruncPerform | .kvReleaseAppend => Encoding.kvReleaseAppend
  | .fiSendEntry => Encoding.fiSendEntry | .mxStepBegin => Encoding.mxStepBegin | .mxStepEnd => Encoding.mxStepEnd
  | .schedMiss => Encoding.schedMiss | .mxRelocate => Encoding.mxRelocate | .strayPacket => Encoding.strayPacket
  | .roundResultSend => Encoding.roundResultSend | .flowStall => Encoding.flowStall
  | .bellwetherSend => Encoding.bellwetherSend | .droveRelease => Encoding.droveRelease
  | .droveStall => Encoding.droveStall | .timeFlitSend => Encoding.timeFlitSend | .portDown => Encoding.portDown
  | .portUp => Encoding.portUp | .ethResend => Encoding.ethResend | .recordAdmit => Encoding.recordAdmit
  | .shepherdChoice => Encoding.shepherdChoice | .launchStart => Encoding.launchStart | .preload => Encoding.preload
  | .preemptRequest => Encoding.preemptRequest | .forcedBoundary => Encoding.forcedBoundary
  | .budget => Encoding.budget | .save => Encoding.save | .restore => Encoding.restore
  | .foldCommit => Encoding.foldCommit | .haltLineArrive => Encoding.haltLineArrive
  | .routerHaltStop => Encoding.routerHaltStop | .stopRecordWrite => Encoding.stopRecordWrite
  | .pageWalkDone => Encoding.pageWalkDone | .completionWrite => Encoding.completionWrite
  | .eventWrite => Encoding.eventWrite | .boot => Encoding.boot | .shutdown => Encoding.shutdown
  | .fieldRecordFlush => Encoding.fieldRecordFlush

/-- Settles O2: the round trip of each constructor. -/
theorem everyEncodingDecodesToItsInstruction : Obligations.EveryEncodingDecodesToItsInstruction := encoding_round

/-- What a strand's decoder accepts is well-formed, and its encoding is the word (R72). -/
theorem decodeSlot_sound {st : Strand} {w : Nat} {x : Slot} (h : decodeSlot st w = .ok x) :
    x.instr.wellFormed = true ∧ encodeSlot st x = some w := by
  unfold decodeSlot at h
  cases hd : decOps st w with
  | none => simp [hd] at h
  | some i =>
    simp only [hd] at h
    split at h
    · cases h
    · split at h
      · cases h
        exact ⟨by simp_all, ‹_›⟩
      · cases h

/-- Settles O3: soundness is what the decoder checks before it answers, completeness the round trip of O2. -/
theorem theDecoderReadsNothingElse : Obligations.TheDecoderReadsNothingElse := by
  refine fun st w x => ⟨decodeSlot_sound, fun ⟨hw, he⟩ => ?_⟩
  exact (encoding_round x.instr).1 st x.sync x.delay w hw he

/-- Settles O4: each word's fields are read off it. -/
theorem sampleWordsDecode : Obligations.SampleWordsDecode := by
  refine ⟨?_, ?_, ?_, ?_, ?_, ?_⟩ <;> decide +kernel

end Sys2Proof.Proofs
end

section
/-! SUPPORT. Predicate and accumulator forms of the V strand (R81, R86, R163 to R169): each shared form said once, and O26. -/

namespace Sys2Proof.Proofs

open Sys2Proof.Machine Sys2Proof.Laws

/-! ## Predicate forms (R163 to R165) -/

/-- A comparison of two sources writes the enabled elements of kd (R163). -/
theorem predOp_pair {s : State} (hv : Alone s .v) {o : VPOps} (h : s.me.vReady o.kg o.kn [o.va, o.vb] none)
    (u : VUnit) (lat : Nat) (f : List W32 → List W32 → List Bool) :
    predOp s o [o.va, o.vb] u lat (fun a b _ _ => f a b) =
      let a := s.me.vsrc o.va (s.me.sreg o.ss.toNat)
      let b := a.2.vsrc o.vb (s.me.sreg o.ss.toNat)
      .next (s.withMe (b.2.vput lat (.pred (physK s.me.krb o.kd.toNat) (s.me.guard o.kg o.kn) (ofMask (f a.1 b.1))) u)) := by
  have hk : ((s.me.vsrc o.va (s.me.sreg o.ss.toNat)).2.vsrc o.vb (s.me.sreg o.ss.toNat)).2.krb = s.me.krb := by simp
  rw [← hk]
  exact vissue hv h _

/-- Element by element on the lists of two predicates is bit by bit on the predicates. -/
theorem ofMask_zipWith (f : Bool → Bool → Bool) (a b c : BitVec 1024)
    (h : ∀ i < 1024, c.getLsbD i = f (a.getLsbD i) (b.getLsbD i)) :
    ofMask (List.zipWith f (maskList a) (maskList b)) = c := by
  rw [maskList, maskList, tab, tab, List.zipWith_map, List.zipWith_self]
  exact ofMask_map _ c fun i hi => (h i hi).symm

theorem ofMask_andNot (a b : BitVec 1024) :
    ofMask (List.zipWith (fun x y => x && !y) (maskList a) (maskList b)) = a &&& ~~~b :=
  ofMask_zipWith _ a b _ fun i hi => by simp [hi]

theorem ofMask_not (a : BitVec 1024) : ofMask ((maskList a).map fun x => !x) = ~~~a := by
  rw [maskList, tab, List.map_map]
  exact ofMask_map _ _ fun i hi => by simp [hi]

theorem ofMask_maskList (a : BitVec 1024) : ofMask (maskList a) = a := by
  rw [maskList, tab]
  exact ofMask_map _ a fun _ _ => rfl

/-- The true elements of a predicate, counted over the indices. -/
theorem count_mask (g : BitVec 1024) : ((maskList g).filter id).length = (List.range 1024).countP fun i => g.getLsbD i := by
  rw [maskList, tab, ← List.countP_eq_length_filter, List.countP_map]
  rfl

theorem count_masks (g k : BitVec 1024) :
    ((List.zipWith (fun x y => x && y) (maskList g) (maskList k)).filter id).length =
      (List.range 1024).countP fun i => g.getLsbD i && k.getLsbD i := by
  rw [maskList, maskList, tab, tab, List.zipWith_map, List.zipWith_self, ← List.countP_eq_length_filter, List.countP_map]
  rfl

/-- The flag slot that ptest writes: COUNT, NONE, ALL and ANY in their places (R116, R165). -/
theorem ptestSlot_eq (n seen : Nat) : ptestSlot n seen = BitVec.ofNat 14
    (n + (if n = 0 then 2 ^ 11 else 0) + (if n = seen then 2 ^ 12 else 0) + (if n > 0 then 2 ^ 13 else 0)) := by
  rw [ptestSlot, slotVal]
  congr 1
  by_cases hn : n = 0 <;> by_cases he : n = seen <;> simp [b2n, hn, he] <;> omega

/-- The coordinate that kset compares: lane, row or element (R164). -/
theorem coord_eq {k : BitVec 2} (hk : k ≠ 3#2) (i : Nat) :
    coord k.toNat i = if k = 0#2 then i % 64 else if k = 1#2 then i / 64 else i := by
  obtain rfl | rfl | rfl : k = 0#2 ∨ k = 1#2 ∨ k = 2#2 := by revert k; decide
  all_goals rfl

theorem exec_kset {s : State} (hv : Alone s .v) {o : VPOps} (h : s.me.vReady o.kg o.kn [] none) (k : BitVec 2) :
    exec (.kset o k) s = .next (s.withMe (s.me.vput 2 (.pred (physK s.me.krb o.kd.toNat) (s.me.guard o.kg o.kn)
      (ofMask ((List.range 1024).map fun i => decide (coord k.toNat i < (s.me.sreg o.ss.toNat).toNat)))) .pk)) := by
  simp only [exec, execKset, predOp_alone hv h, tab]

theorem exec_ptest {s : State} (hv : Alone s .v) {o : VPOps} (h : s.me.vReady o.kg o.kn [] none) :
    exec (.ptest o) s = .next (s.withMe (s.me.vput 6 (.slot o.fs.toNat (ptestSlot
      ((List.zipWith (fun x y => x && y) (maskList (s.me.guard o.kg o.kn))
        (maskList (s.me.kreg (physK s.me.krb o.ka.toNat)))).filter id).length
      ((maskList (s.me.guard o.kg o.kn)).filter id).length)) .pk)) :=
  vissue hv h _

/-- pblk opens a span over the instructions that follow, its predicate as it stands (R86, R169). -/
theorem exec_pblk {s : State} (hv : Alone s .v) (hs : s.me.span = none) (pattern : BitVec 8) (cnt : BitVec 3)
    (kp : BitVec 5) :
    let k := physK s.me.krb kp.toNat
    exec (.pblk pattern cnt kp) s =
      .next (s.withMe { s.me.moved .v with span := some ⟨s.me.kreg k, k, cnt.toNat + 1, pattern⟩ }) := by
  obtain ⟨hm, hsh, hst⟩ := hv
  simp only [exec, execPblk]
  rw [issue_go _ hm (by simp [Tile.noSpan, hs]), retire_eq hsh, withMe_onMe, hst]
  rfl

/-! ## Accumulators (R166, R167) -/

/-- A read of a block that holds no error writes what `f` makes of the accumulator into the vector destination (R166). -/
theorem accRead_alone {s : State} (hv : Alone s .v) {o : VAOps} (h : s.me.vReady o.kg o.kn [] (some o.v))
    (hb : s.me.badAcc = []) (k lat : Nat) (f : Tile → Nat → List W32) :
    accRead s o k lat f =
      .next (s.withMe (s.me.vdone o.v lat (s.me.guard o.kg o.kn) (f s.me (s.me.accBlockNo o), f0) .ac)) := by
  rw [accRead, hb, List.isEmpty_nil, Bool.true_or, Check.need, if_pos rfl, and_go]
  exact vissue hv h _

/-- The enabled elements of a source with their indices. -/
theorem enabled_elements (l : List Nat) (g : Nat → Bool) (v : List W32) :
    ((List.zip l (List.zip (l.map g) v)).filterMap fun x => if x.2.1 then some (x.1, x.2.2) else none) =
      (List.zip l v).filter fun x => g x.1 := by
  induction l generalizing v with
  | nil => simp
  | cons i l ih =>
    cases v with
    | nil => simp
    | cons w v => cases hg : g i <;> simp [hg, ih]

/-- A write of a block takes the enabled elements of its source (R166). -/
theorem accWrite_alone {s : State} (hv : Alone s .v) {o : VAOps} (h : s.me.vReady o.kg o.kn [o.v] none) (lat : Nat)
    (f : Nat → List (Nat × W32) → Target) :
    accWrite s o lat f =
      let v := s.me.vsrc o.v (s.me.sreg o.ss.toNat)
      .next (s.withMe (v.2.vput lat (f (s.me.accBlockNo o)
        ((List.zip (List.range 1024) v.1).filter fun x => (s.me.guard o.kg o.kn).getLsbD x.1)) .ac)) := by
  dsimp only
  rw [← enabled_elements]
  exact vissue hv h _

theorem getD_tab {α : Type} {n i : Nat} (f : Nat → α) (d : α) (h : i < n) : (tab n f).getD i d = f i := by
  simp [tab, h]

/-- A block read transposed: the columns of 64 rows stand as rows (R166). -/
theorem accBlock_transposed (t : Tile) (a b : Nat) : accBlock t a true b = (List.range 1024).map fun i =>
    (t.accRow a (64 * (b / 4) + i % 64)).getD (16 * (b % 4) + i / 64) 0#32 := by
  rw [accBlock, if_pos rfl]
  refine List.map_congr_left fun i _ => ?_
  rw [getD_tab _ _ (Nat.mod_lt i (by decide))]

/-- A value of each row in every lane of the row. -/
theorem flatten_lanes (n m : Nat) (f : Nat → W32) (hm : 0 < m) :
    (tab n fun r => List.replicate m (f r)).flatten = (List.range (n * m)).map fun i => f (i / m) := by
  induction n with
  | zero => simp [tab]
  | succ n ih =>
    have htab : (tab (n + 1) fun r => List.replicate m (f r)) =
        (tab n fun r => List.replicate m (f r)) ++ [List.replicate m (f n)] := by
      simp [tab, List.range_succ]
    rw [htab, List.flatten_concat, ih, Nat.succ_mul, List.range_add, List.map_append, List.map_map]
    congr 1
    refine (List.eq_replicate_iff.mpr ⟨by simp, ?_⟩).symm
    simp only [List.mem_map, List.mem_range, Function.comp_apply]
    rintro _ ⟨i, hi, rfl⟩
    rw [Nat.mul_comm, Nat.mul_add_div hm, Nat.div_eq_of_lt hi, Nat.add_zero]

/-! ## O26 -/

/-- Settles O26: each form by what its kind of form answers, its mask or its block written element by element. -/
theorem predicateAndAccumulatorForms : Obligations.PredicateAndAccumulatorForms := by
  refine ⟨fun s o hv => ⟨fun h cond => ⟨predOp_pair hv h _ _ _, predOp_pair hv h _ _ _⟩, fun h => ?logic,
    fun hs => exec_pblk hv hs⟩, fun s o hv => ⟨fun h hb => ?reads, fun h => ⟨?straight, ?columns, fun k hk => ?rows⟩⟩⟩
  case logic =>
    refine ⟨?kand, ?kor, ?kxor, ?kandn, ?knot, ?kmov, fun k hk => ?kset, ?ptest⟩
    case kset =>
      rw [exec_kset hv h]
      simp only [coord_eq hk]
    case ptest =>
      rw [exec_ptest hv h, ptestSlot_eq, count_masks, count_mask]
    case kand =>
      simp only [exec, execKand]
      rw [predOp_alone hv h, ofMask_zipWith _ _ _ _ fun i _ => BitVec.getLsbD_and ..]
    case kor =>
      simp only [exec, execKor]
      rw [predOp_alone hv h, ofMask_zipWith _ _ _ _ fun i _ => BitVec.getLsbD_or ..]
    case kxor =>
      simp only [exec, execKxor]
      rw [predOp_alone hv h, ofMask_zipWith _ _ _ _ fun i _ => BitVec.getLsbD_xor ..]
    case kandn =>
      simp only [exec, execKandn]
      rw [predOp_alone hv h, ofMask_andNot]
    case knot =>
      simp only [exec, execKnot]
      rw [predOp_alone hv h, ofMask_not]
    case kmov =>
      simp only [exec, execKmov]
      rw [predOp_alone hv h, ofMask_maskList]
  case reads =>
    refine ⟨?rowsRead, ?columnsRead, ?maximaRead, ?denominatorsRead, ?flagsRead⟩
    case rowsRead =>
      simp only [exec, execVacrr]
      rw [accRead_alone hv h hb]
      rfl
    case columnsRead =>
      simp only [exec, execVaccr, accBlock_transposed]
      rw [accRead_alone hv h hb]
      rfl
    case maximaRead | denominatorsRead | flagsRead =>
      simp only [exec, execVacsr]
      rw [accRead_alone hv h hb, flatten_lanes 16 64 _ (by decide)]
      rfl
  case straight =>
    simp only [exec, execVacrw]
    rw [accWrite_alone hv h]
    rfl
  case columns =>
    simp only [exec, execVaccw]
    rw [accWrite_alone hv h]
    rfl
  case rows =>
    have hone : (k.toNat == 1) = (k == 1#2) := by revert k; decide
    simp only [exec, execVacsw, hone]
    rw [accWrite_alone hv h]
    rfl

end Sys2Proof.Proofs
end

section
/-! SUPPORT. Records at the head of an engine (R95 to R98, R207, R208, R216, R220): what the start of a record answers, said
once for every op, and O36. -/

namespace Sys2Proof.Proofs

open Sys2Proof.Machine Sys2Proof.Laws

/-! ## The focus engine -/

@[simp] theorem eng_onEng (t : Tile) (f : Engine → Engine) : ∀ k, (t.onEng k f).eng k = f (t.eng k)
  | 0 | 1 | 2 | _ + 3 => rfl

theorem onEng_onEng_tile (t : Tile) (f g : Engine → Engine) : ∀ k, (t.onEng k f).onEng k g = t.onEng k fun e => g (f e)
  | 0 | 1 | 2 | _ + 3 => rfl

@[simp] theorem onEng_hold (t : Tile) (f : Engine → Engine) : ∀ k, (t.onEng k f).hold = t.hold
  | 0 | 1 | 2 | _ + 3 => rfl

/-- A change of an engine is what it makes of that engine. -/
theorem onEng_const (t : Tile) (f : Engine → Engine) : ∀ k, t.onEng k f = t.onEng k fun _ => f (t.eng k)
  | 0 | 1 | 2 | _ + 3 => rfl

section
variable (s : State)

@[simp] theorem onEng_focus (f : Engine → Engine) : (s.onEng f).focus = s.focus := rfl
@[simp] theorem myEng_onEng (f : Engine → Engine) : (s.onEng f).myEng = f s.myEng := by
  simp [State.myEng, State.onEng]
theorem onEng_onEng (f g : Engine → Engine) : (s.onEng f).onEng g = s.onEng fun e => g (f e) := by
  simp only [State.onEng, onMe_onMe, onMe_focus, onEng_onEng_tile]
@[simp] theorem tcc_onEng (f : Engine → Engine) : (s.onEng f).tcc s.focus.tile = s.tcc s.focus.tile := by
  simp [State.tcc, State.onEng, State.onMe]

end

/-- A change of the focus engine is what it makes of that engine. -/
theorem onEng_congr {s : State} {f g : Engine → Engine} (h : f s.myEng = g s.myEng) : s.onEng f = s.onEng g := by
  simp only [State.onEng, onMe_eq]
  rw [onEng_const, onEng_const s.me g]
  exact congrArg (fun e => s.setTile s.focus.tile (s.me.onEng s.focus.eng fun _ => e)) h

/-- A change of the record at the head. -/
theorem onRun_eq {s : State} {run : Run} (h : s.myEng.run = some run) (f : Run → Run) :
    s.onRun f = s.onEng fun e => { e with run := some (f run) } :=
  onEng_congr (by simp [h])

/-! ## The start of a record (R98, R216) -/

section
variable {s : State} {i : Instr} {r : Rec} {run : Run} (ops : List (Nat × Nat)) (good : Nat → State → Bool)

/-- One that no record encodes, or of another engine, or stamped outside the MX, faults (R96, R98). -/
theorem startRecord_illegal (h : s.AtHead i run)
    (hbad : i.wellFormed = false ∨ (recEngine i).getD s.focus.eng ≠ s.focus.eng ∨ s.focus.eng ≠ 0 ∧ r.stamp ≠ 0#40) :
    s.startRecord i r ops good = (engineFaultAt s 0x01 run.addr, false) := by
  rw [State.startRecord, if_pos]
  · simp [h.1, cILLEGAL]
  · simpa [or_assoc] using hbad

variable (hw : i.wellFormed = true) (he : recEngine i = some s.focus.eng) (hst : s.focus.eng ≠ 0 → r.stamp = 0#40)
include hw he hst

/-- The checks of R98 that a well-formed record of this engine passes. -/
theorem record_legal :
    (!i.wellFormed || (recEngine i).getD s.focus.eng != s.focus.eng || s.focus.eng != 0 && r.stamp != 0#40) = false := by
  by_cases h : s.focus.eng = 0
  · simp [hw, he, h]
  · simp [hw, he, hst h]

theorem startRecord_zero (h0 : 0 ∈ tripCounts r s.me s.focus.eng) :
    s.startRecord i r ops good = (s.idleRecord i r (tripCounts r s.me s.focus.eng), false) := by
  rw [State.startRecord, record_legal hw he hst]
  simp [h0]

end

/-- A first answer is taken of what the functions give the elements of the list. -/
theorem findSome?_congr {α β : Type} {f g : α → Option β} {l : List α} (h : ∀ x ∈ l, f x = g x) :
    l.findSome? f = l.findSome? g := by
  induction l with
  | nil => rfl
  | cons x l ih =>
    rw [List.findSome?_cons, List.findSome?_cons, h x (.head l), ih fun y hy => h y (.tail x hy)]

/-- The pointer of memory operand `k` of a record, as its descriptor names it (R93). -/
def operandPtr (s : State) (r : Rec) (k : Nat) : W64 := s.me.btReg (descBt ([r.od0, r.od1, r.od2, r.od3].getD k 0))

/-- The offset of memory operand `k` (R93). -/
def operandOff (r : Rec) (k : Nat) : Nat := descOff ([r.od0, r.od1, r.od2, r.od3].getD k 0)

/-- The fault of a memory operand, given by its number and its alignment (R217). -/
def operandFault (s : State) (r : Rec) (o : Nat × Nat) : Option Nat :=
  ptrFault s.focus.tile (engineReach s.focus.eng) (operandPtr s r o.1) (operandOff r o.1) o.2

/-- A record resolves the pointers of its four operands (R216). -/
theorem bases_getD (s : State) (r : Rec) : ∀ k < 4,
    ([r.od0, r.od1, r.od2, r.od3].map fun d => s.me.btReg (descBt d)).getD k 0 = operandPtr s r k
  | 0, _ | 1, _ | 2, _ | 3, _ => rfl

section
variable {s : State} {i : Instr} {r : Rec} {run : Run} {ops : List (Nat × Nat)} {good : Nat → State → Bool}
  (hw : i.wellFormed = true) (he : recEngine i = some s.focus.eng) (hst : s.focus.eng ≠ 0 → r.stamp = 0#40)
  (h0 : 0 ∉ tripCounts r s.me s.focus.eng) (hg : good (points (tripCounts r s.me s.focus.eng)) s = true)
  (hops : ∀ o ∈ ops, o.1 < 4)
include hw he hst h0 hg hops

/-- The operands' pointers are judged in order, and a record that breaks no rule is under way (R216, R217). -/
theorem startRecord_judged : s.startRecord i r ops good =
    (ops.findSome? fun o => (operandFault s r o).map fun c => (c, elemPtr (operandPtr s r o.1) (operandOff r o.1))).elim
      (s.onRun fun run => run.resolved r s.me s.focus.eng, true) fun x => (engineFaultAt s x.1 x.2, false) := by
  rw [State.startRecord, record_legal hw he hst]
  simp only [Bool.false_eq_true, if_false, List.contains_iff_mem, h0, hg, Bool.not_true]
  rw [findSome?_congr (g := fun o => (operandFault s r o).map fun c => (c, elemPtr (operandPtr s r o.1) (operandOff r o.1)))
    fun o ho => by rw [bases_getD s r o.1 (hops o ho)]; rfl]
  cases ops.findSome? _ <;> rfl

/-- The first operand that breaks a rule faults. -/
theorem startRecord_pointer {pre post : List (Nat × Nat)} {o : Nat × Nat} {c : Nat} (hsplit : ops = pre ++ o :: post)
    (hpre : ∀ y ∈ pre, operandFault s r y = none) (ho : operandFault s r o = some c) :
    s.startRecord i r ops good = (engineFaultAt s c (elemPtr (operandPtr s r o.1) (operandOff r o.1)), false) := by
  rw [startRecord_judged hw he hst h0 hg hops, List.findSome?_eq_some_iff.mpr
    ⟨pre, o, post, hsplit, by rw [ho]; rfl, fun y hy => by rw [hpre y hy]; rfl⟩, Option.elim_some]

end

/-- A record that passes its checks is under way, its bases, counts, rounding mode and stamp fixed (R216). -/
theorem startRecord_starts {s : State} {i : Instr} {r : Rec} {ops : List (Nat × Nat)} {run : Run}
    {good : Nat → State → Bool} (h : s.Starts i r ops run) (hg : good (points (tripCounts r s.me s.focus.eng)) s = true)
    (hops : ∀ o ∈ ops, o.1 < 4) :
    s.startRecord i r ops good = (s.onEng fun e => { e with run := some (run.resolved r s.me s.focus.eng) }, true) := by
  obtain ⟨⟨hrun, -, -⟩, -, hw, he, hst, h0, hptr⟩ := h
  rw [startRecord_judged hw he hst h0 hg hops, List.findSome?_eq_none_iff.mpr fun o ho => by
    rw [show operandFault s r o = none from hptr o ho]; rfl, Option.elim_none, onRun_eq hrun]

/-! ## Stamps (R96, R220) -/

/-- The due clk of a stamp that has not passed. -/
theorem dueOf_early {tcc : W64} {stamp : BitVec 40} (h : (dueOf tcc stamp).2 = false) :
    dueOf tcc stamp = (if stamp = 0#40 then tcc else tcc + (stamp - tcc.setWidth 40).setWidth 64, false) := by
  refine Prod.ext ?_ h
  unfold dueOf at *
  dsimp only at *
  split_ifs at h ⊢
  all_goals rfl

/-- A record that waits for its stamp, or is due at once without one (R96). -/
def dueAt (run : Run) (stamp : BitVec 40) (tcc : W64) : Run :=
  { run with late := false, due := if stamp = 0#40 then tcc else tcc + (stamp - tcc.setWidth 40).setWidth 64 }

theorem startClock_early {s : State} {r : Rec} {run : Run} (hrun : s.myEng.run = some run)
    (h : (dueOf (s.tcc s.focus.tile) r.stamp).2 = false) :
    s.startClock r = s.onEng fun e => { e with run := some (dueAt run r.stamp (s.tcc s.focus.tile)) } := by
  rw [State.startClock, dueOf_early h, onRun_eq hrun]
  rfl

/-! ## Records of the MX (R219 to R226) -/

section
variable {s : State} {i : Instr} {r : Rec} {run : Run} {ops : List (Nat × Nat)} {good : Nat → State → Bool}

/-- A record at the head that has not started is started. -/
theorem mxRecord_start (h : s.AtHead i run) (hs : run.started = false) :
    mxRecord s i r ops good =
      .next (if (s.startRecord i r ops good).2 then (s.startRecord i r ops good).1.startClock r
        else (s.startRecord i r ops good).1) := by
  obtain ⟨hrun, hstop, hinstr⟩ := h
  simp [mxRecord, hrun, hstop, hinstr, hs]

theorem mxRecord_starts {k : Nat} (hk : s.focus.eng = k) (h : s.Starts i r ops run) (hops : ∀ o ∈ ops, o.1 < 4)
    (hdue : (dueOf (s.tcc s.focus.tile) r.stamp).2 = false) (hg : good (points (tripCounts r s.me k)) s = true) :
    mxRecord s i r ops good =
      .next (s.onEng fun e => { e with run := some (dueAt (run.resolved r s.me k) r.stamp (s.tcc s.focus.tile)) }) := by
  subst hk
  rw [mxRecord_start h.1 h.2.1, startRecord_starts h hg hops, if_pos rfl,
    startClock_early (run := run.resolved r s.me s.focus.eng) (by simp) (by simpa using hdue), onEng_onEng]
  simp only [onEng_focus, tcc_onEng]

/-- One that no record encodes faults (R98). -/
theorem mxRecord_illegal (h : s.AtHead i run) (hs : run.started = false) (hw : i.wellFormed = false) :
    mxRecord s i r ops good = .next (engineFaultAt s 0x01 run.addr) := by
  rw [mxRecord_start h hs, startRecord_illegal ops good h (.inl hw), if_neg Bool.false_ne_true]

/-- One with a zero trip count has no step, and is only counted (R95). -/
theorem mxRecord_zero (h : s.AtHead i run) (hs : run.started = false) (hw : i.wellFormed = true)
    (he : recEngine i = some s.focus.eng) (hst : r.stamp = 0#40) (h0 : 0 ∈ tripCounts r s.me s.focus.eng)
    (hidle : ∀ trips, s.takeIdle i trips = s.retireRecord) :
    mxRecord s i r ops good = .next s.retireRecord := by
  rw [mxRecord_start h hs, startRecord_zero ops good hw he (fun _ => hst) h0, if_neg Bool.false_ne_true, State.idleRecord,
    if_neg (by simp [stamped, hst]), hidle]

end

theorem ringFits_of {s : State} {d : BitVec 96} {n : Nat} {fmt : BitVec 5}
    (h : tileBytes n fmt.toNat ≤ 256 * (s.me.ring (d.toNat % 8)).size) : ringFits s d n fmt = true :=
  decide_eq_true h

/-- Settles O36: each record of the MX starts by the one rule of `mxRecord`, with its own operands and checks. -/
theorem matrixRecordsStart : Obligations.MatrixRecordsStart := by
  intro s r run h0 hdue
  refine ⟨fun h ha hb => ?_, fun h ha hb => ?_, fun h hn ha => ?_, fun h hn => ?_, fun h hn => ?_, fun h hn => ?_,
    fun h hn => ?_, fun h hn => ?_, fun i hi h hs => ?_⟩
  · refine mxRecord_starts h0 h (by decide) hdue ?_
    rw [ringFits_of ha, ringFits_of hb]; rfl
  · refine mxRecord_starts h0 h (by decide) hdue ?_
    rw [ringFits_of ha, ringFits_of hb]; rfl
  · refine mxRecord_starts h0 h (by split_ifs <;> decide) hdue ?_
    rw [hn, ringFits_of ha]; rfl
  iterate 5
    refine mxRecord_starts h0 h (by decide) hdue ?_
    rw [hn]; rfl
  · have hop : recEngine i = some 0 ∧ (∀ trips, s.takeIdle i trips = s.retireRecord) ∧
        ∃ ops good, exec i s = mxRecord s i r ops good := by
      simp only [List.mem_cons, List.not_mem_nil, or_false] at hi
      rcases hi with rfl | rfl | rfl | rfl | rfl | rfl | rfl | rfl <;> exact ⟨rfl, fun _ => rfl, _, _, rfl⟩
    obtain ⟨he, hidle, ops, good, hexec⟩ := hop
    rw [hexec]
    exact ⟨mxRecord_illegal h hs, fun hw hz hst => mxRecord_zero h hs hw (by rw [he, h0]) hst (by rwa [h0]) hidle⟩

end Sys2Proof.Proofs
end

section
/-! SUPPORT. Values of exact numbers (R45, R55, R59 to R61): magnitudes and their comparison, the largest of a block, and the
nearest integer. -/

namespace Sys2Proof.Proofs

open Sys2Proof.Machine Sys2Proof.Laws

/-! ## Values -/

/-- The value of a finite number; an infinity and a NaN have none and count as zero. -/
def numVal (x : Machine.Num) : ℚ := match x with
  | .fin n m e _ => (if n = true then -(m : ℚ) else m) * 2 ^ e
  | _ => 0

/-- A number that ends at its last bit. -/
def exactNum (x : Machine.Num) : Prop := ∃ n m e, x = .fin n m e false

theorem abs_numVal (n : Bool) (m : Nat) (e : ℤ) (st : Bool) : |numVal (.fin n m e st)| = (m : ℚ) * 2 ^ e := by
  have h2 : (0 : ℚ) < 2 ^ e := by positivity
  cases n <;> simp [numVal, abs_mul, abs_of_pos h2]

/-- A magnitude shifted to a lower place has the same value. -/
theorem shiftLeft_val (m : Nat) {e b : ℤ} (h : b ≤ e) : ((m <<< (e - b).toNat : Nat) : ℚ) * 2 ^ b = m * 2 ^ e := by
  rw [Nat.shiftLeft_eq, Nat.cast_mul, Nat.cast_pow, Nat.cast_ofNat, ← zpow_natCast, Int.toNat_of_nonneg (by omega), mul_assoc,
    ← zpow_add₀ two_ne_zero, Int.sub_add_cancel]

/-- Magnitudes compare as their values do (R61). -/
theorem magGt_iff (m : Nat) (e : ℤ) (m' : Nat) (e' : ℤ) :
    magGt m e false m' e' = true ↔ (m' : ℚ) * 2 ^ e' < m * 2 ^ e := by
  have h2 : (0 : ℚ) < 2 ^ min e e' := by positivity
  rw [← shiftLeft_val m (min_le_left e e'), ← shiftLeft_val m' (min_le_right e e'), mul_lt_mul_iff_left₀ h2, Nat.cast_lt]
  simp [magGt]

/-- The leading place of a magnitude. -/
theorem lead_bounds {m : Nat} (hm : m ≠ 0) (e : ℤ) :
    (2 : ℚ) ^ (e + (bitLen m : ℤ) - 1) ≤ m * 2 ^ e ∧ (m : ℚ) * 2 ^ e < 2 ^ (e + (bitLen m : ℤ)) := by
  have h2 : (0 : ℚ) < 2 ^ e := by positivity
  have hb : (bitLen m : ℤ) = m.log2 + 1 := by simp [bitLen, hm]
  have hlo : (2 : ℚ) ^ m.log2 ≤ m := by exact_mod_cast Nat.log2_self_le hm
  have hhi : (m : ℚ) < 2 ^ (m.log2 + 1) := by exact_mod_cast Nat.lt_log2_self
  constructor
  · rw [hb, show e + ((m.log2 : ℤ) + 1) - 1 = m.log2 + e by ring, zpow_add₀ two_ne_zero, zpow_natCast]
    exact mul_le_mul_of_nonneg_right hlo h2.le
  · rw [hb, show e + ((m.log2 : ℤ) + 1) = ((m.log2 + 1 : Nat) : ℤ) + e by push_cast; ring, zpow_add₀ two_ne_zero,
      zpow_natCast]
    exact mul_lt_mul_of_pos_right hhi h2

/-! ## The largest magnitude of a block (R61) -/

theorem magLess_iff {a b : Machine.Num} (ha : exactNum a) (hb : exactNum b) :
    magLess a b = true ↔ |numVal a| < |numVal b| := by
  obtain ⟨n, m, e, rfl⟩ := ha
  obtain ⟨n', m', e', rfl⟩ := hb
  rw [abs_numVal, abs_numVal]
  exact magGt_iff m' e' m e

/-- What the search for the largest magnitude comes to from where it stands. -/
theorem foldl_amax {l : List Machine.Num} (hl : ∀ x ∈ l, exactNum x) : ∀ {a}, exactNum a →
    let r := l.foldl (fun a b => if magLess a b then b else a) a
    (r = a ∨ r ∈ l) ∧ |numVal a| ≤ |numVal r| ∧ ∀ x ∈ l, |numVal x| ≤ |numVal r| := by
  induction l with
  | nil => exact fun _ => ⟨.inl rfl, le_rfl, by simp⟩
  | cons b l ih =>
    intro a ha r
    have hb := hl b (.head l)
    have hl := fun x hx => hl x (.tail b hx)
    by_cases h : magLess a b = true
    · obtain ⟨hr, hle, hall⟩ := ih hl hb
      have : r = l.foldl (fun a b => if magLess a b then b else a) b := by simp [r, h]
      rw [← this] at hr hle hall
      refine ⟨.inr ?_, ((magLess_iff ha hb).mp h).le.trans hle, ?_⟩
      · rcases hr with hr | hr
        · exact hr ▸ .head l
        · exact .tail b hr
      · exact List.forall_mem_cons.mpr ⟨hle, hall⟩
    · obtain ⟨hr, hle, hall⟩ := ih hl ha
      have : r = l.foldl (fun a b => if magLess a b then b else a) a := by simp [r, h]
      rw [← this] at hr hle hall
      refine ⟨hr.imp_right (.tail b), hle, List.forall_mem_cons.mpr ⟨?_, hall⟩⟩
      exact (not_lt.mp fun hlt => h ((magLess_iff ha hb).mpr hlt)).trans hle

/-! ## The scale of a block (R61) -/

/-- The largest code of a block's format: 7 of i4, 6 of f4. -/
def topCode (fmt : Nat) : ℚ := if fmt = 7 then 7 else 6

theorem topCode_bounds (fmt : Nat) : 4 < topCode fmt ∧ topCode fmt < 8 := by
  unfold topCode
  split_ifs <;> norm_num

/-- One exponent alone has a magnitude between its place and the next. -/
theorem exponent_unique {t A : ℚ} (ht : 0 < t) {a b : ℤ} (ha : t * 2 ^ (a - 1) < A) (ha' : A ≤ t * 2 ^ a)
    (hb : t * 2 ^ (b - 1) < A) (hb' : A ≤ t * 2 ^ b) : a = b := by
  have h1 : a - 1 < b := (zpow_lt_zpow_iff_right₀ one_lt_two).mp (lt_of_mul_lt_mul_left (ha.trans_le hb') ht.le)
  have h2 : b - 1 < a := (zpow_lt_zpow_iff_right₀ one_lt_two).mp (lt_of_mul_lt_mul_left (hb.trans_le ha') ht.le)
  omega

/-- The exponent by FLOOR: the leading place two above it. -/
theorem lead_floor {m : Nat} (hm : m ≠ 0) {e E : ℤ} (hlt : (m : ℚ) * 2 ^ e < 2 ^ (E + 3))
    (hle : 2 ^ (E + 2) ≤ (m : ℚ) * 2 ^ e) :
    e + (bitLen m : ℤ) - 1 - 2 = E := by
  obtain ⟨h1, h2⟩ := lead_bounds hm e
  have h3 := (zpow_lt_zpow_iff_right₀ one_lt_two).mp (h1.trans_lt hlt)
  have h4 := (zpow_lt_zpow_iff_right₀ one_lt_two).mp (hle.trans_lt h2)
  omega

/-- The exponent by FIT: the smallest whose largest code holds the magnitude. -/
theorem lead_fit {m : Nat} (hm : m ≠ 0) {t : ℚ} (ht : 4 < t) (ht' : t < 8) {e E : ℤ}
    (hle : (m : ℚ) * 2 ^ e ≤ t * 2 ^ E) (hlt : t * 2 ^ (E - 1) < (m : ℚ) * 2 ^ e) :
    (if t * 2 ^ (e + (bitLen m : ℤ) - 1 - 2) < (m : ℚ) * 2 ^ e then e + (bitLen m : ℤ) - 1 - 1
      else e + (bitLen m : ℤ) - 1 - 2) = E := by
  obtain ⟨h1, h2⟩ := lead_bounds hm e
  generalize hA : (m : ℚ) * 2 ^ e = A at *
  generalize hL : e + (bitLen m : ℤ) - 1 = L at *
  have hL' : e + (bitLen m : ℤ) = L + 1 := by omega
  rw [hL'] at h2
  have h0 : (0 : ℚ) < 2 ^ L := by positivity
  have p1 : (2 : ℚ) ^ (L + 1) = 2 * 2 ^ L := by rw [zpow_add₀ two_ne_zero, zpow_one, mul_comm]
  have p2 : (2 : ℚ) ^ (L - 1) = 2 ^ L / 2 := by rw [zpow_sub₀ two_ne_zero, zpow_one]
  have p3 : (2 : ℚ) ^ (L - 2 - 1) = 2 ^ L / 8 := by rw [sub_sub, zpow_sub₀ two_ne_zero]; norm_num
  split_ifs with h
  · refine exponent_unique (t := t) (A := A) (by linarith) (by rwa [sub_sub]) ?_ hlt hle
    rw [p2]
    nlinarith
  · refine exponent_unique (t := t) (A := A) (by linarith) ?_ (not_lt.mp h) hlt hle
    rw [p3]
    nlinarith

/-- The scale's exponent follows the largest magnitude (R61). -/
theorem scaleExp_eq {fit : Bool} {fmt : Nat} (hfmt : fmt = 7 ∨ fmt = 8) {n : Bool} {m : Nat} (hm : m ≠ 0) {e E : ℤ}
    (h : if fit = true then (m : ℚ) * 2 ^ e ≤ topCode fmt * 2 ^ E ∧ topCode fmt * 2 ^ (E - 1) < (m : ℚ) * 2 ^ e
      else (m : ℚ) * 2 ^ e < 2 ^ (E + 3) ∧ 2 ^ (E + 2) ≤ (m : ℚ) * 2 ^ e) :
    scaleExp fit fmt (.fin n m e false) = max (-127) (min 127 E) := by
  simp only [scaleExp, if_neg hm]
  cases fit
  · obtain ⟨h1, h2⟩ := h
    rw [if_neg Bool.false_ne_true, lead_floor hm h1 h2]
  · obtain ⟨h1, h2⟩ := h
    obtain ⟨ht, ht'⟩ := topCode_bounds fmt
    have hg : ∀ x : ℤ, (magGt m e false (if fmt = 7 then 7 else 6) x = true) =
        (topCode fmt * 2 ^ x < (m : ℚ) * 2 ^ e) := by
      intro x
      rw [magGt_iff, topCode]
      rcases hfmt with rfl | rfl <;> norm_num
    rw [if_pos rfl]
    simp only [hg]
    rw [lead_fit hm ht ht' h1 h2]

theorem blockScale_notFinite (fit : Bool) (fmt : Nat) {l : List Machine.Num} (h : ∃ x ∈ l, x.isFinite = false) :
    blockScale fit fmt l = 0xFF := by
  rw [blockScale, if_pos]
  simpa using h

theorem blockScale_finite (fit : Bool) (fmt : Nat) {l : List Machine.Num} (hl : ∀ x ∈ l, exactNum x) :
    blockScale fit fmt l = (scaleExp fit fmt (amaxOf l) + 127).toNat := by
  rw [blockScale, if_neg]
  simp only [List.any_eq_true, not_exists, not_and]
  intro x hx
  obtain ⟨n, m, e, rfl⟩ := hl x hx
  simp [Machine.Num.isFinite]

theorem exactNum_zero : exactNum (.zero false) := ⟨_, _, _, rfl⟩

theorem abs_numVal_zero : |numVal (.zero false)| = 0 := by
  rw [Machine.Num.zero, abs_numVal, Nat.cast_zero, zero_mul]

/-- The largest magnitude of a block is exact, is that of an element or zero, and bounds every element's. -/
theorem amaxOf_spec {l : List Machine.Num} (hl : ∀ x ∈ l, exactNum x) :
    exactNum (amaxOf l) ∧ (amaxOf l = .zero false ∨ amaxOf l ∈ l) ∧ ∀ x ∈ l, |numVal x| ≤ |numVal (amaxOf l)| := by
  obtain ⟨hr, -, hall⟩ := foldl_amax hl exactNum_zero
  exact ⟨hr.elim (fun h => by rw [amaxOf, h]; exact exactNum_zero) (hl _), hr, hall⟩

/-- A block of zeros has the lowest scale. -/
theorem blockScale_zero (fit : Bool) (fmt : Nat) {l : List Machine.Num} (hl : ∀ x ∈ l, exactNum x)
    (h0 : ∀ x ∈ l, numVal x = 0) : blockScale fit fmt l = 0 := by
  obtain ⟨⟨n, m, e, ha⟩, hmem, -⟩ := amaxOf_spec hl
  have hz : |numVal (amaxOf l)| = 0 := by
    rcases hmem with h | h
    · rw [h, abs_numVal_zero]
    · rw [h0 _ h, abs_zero]
  rw [ha, abs_numVal] at hz
  have hm : m = 0 := by
    rcases mul_eq_zero.mp hz with h | h
    · exact_mod_cast h
    · exact absurd h (by positivity)
  rw [blockScale_finite fit fmt hl, ha, hm]
  rfl

/-- The scale of a block by FLOOR or FIT of its largest magnitude (R61). -/
theorem blockScale_eq {fit : Bool} {fmt : Nat} (hfmt : fmt = 7 ∨ fmt = 8) {l : List Machine.Num} (hl : ∀ x ∈ l, exactNum x)
    {E : ℤ} (h : if fit = true then (∀ x ∈ l, |numVal x| ≤ topCode fmt * 2 ^ E) ∧
        ∃ x ∈ l, topCode fmt * 2 ^ (E - 1) < |numVal x|
      else (∀ x ∈ l, |numVal x| < 2 ^ (E + 3)) ∧ ∃ x ∈ l, 2 ^ (E + 2) ≤ |numVal x|) :
    (blockScale fit fmt l : ℤ) = max (-127) (min 127 E) + 127 := by
  obtain ⟨⟨n, m, e, ha⟩, hmem, hall⟩ := amaxOf_spec hl
  have hA : |numVal (amaxOf l)| = (m : ℚ) * 2 ^ e := by rw [ha, abs_numVal]
  have hbound : ∀ {P : ℚ → Prop}, (∀ x ∈ l, P |numVal x|) → P 0 → P ((m : ℚ) * 2 ^ e) := by
    intro P hP h0
    rw [← hA]
    rcases hmem with h | h
    · rwa [h, abs_numVal_zero]
    · exact hP _ h
  have ht : 0 < topCode fmt := by linarith [(topCode_bounds fmt).1]
  have hm : m ≠ 0 ∧ (if fit = true then (m : ℚ) * 2 ^ e ≤ topCode fmt * 2 ^ E ∧
      topCode fmt * 2 ^ (E - 1) < (m : ℚ) * 2 ^ e
      else (m : ℚ) * 2 ^ e < 2 ^ (E + 3) ∧ 2 ^ (E + 2) ≤ (m : ℚ) * 2 ^ e) := by
    cases fit
    · obtain ⟨hlt, x, hx, hle⟩ := h
      have hle := hle.trans ((hall x hx).trans_eq hA)
      refine ⟨?_, hbound (P := fun q => q < 2 ^ (E + 3)) hlt (zpow_pos two_pos _), hle⟩
      rintro rfl
      rw [Nat.cast_zero, zero_mul] at hle
      exact not_le.mpr (zpow_pos two_pos _) hle
    · obtain ⟨hle, x, hx, hlt⟩ := h
      have hlt := hlt.trans_le ((hall x hx).trans_eq hA)
      refine ⟨?_, hbound (P := fun q => q ≤ topCode fmt * 2 ^ E) hle (mul_nonneg ht.le (zpow_pos two_pos _).le), hlt⟩
      rintro rfl
      rw [Nat.cast_zero, zero_mul] at hlt
      exact not_lt.mpr (mul_nonneg ht.le (zpow_pos two_pos _).le) hlt
  rw [blockScale_finite fit fmt hl, ha, scaleExp_eq hfmt hm.1 hm.2]
  omega

/-! ## Division by the scale (R50, R59) -/

/-- An exact number times a power of two. -/
theorem scale_exact {v : Machine.Num} (hv : exactNum v) (k : ℤ) :
    exactNum (v.scale k) ∧ numVal (v.scale k) = numVal v * 2 ^ k := by
  obtain ⟨n, m, e, rfl⟩ := hv
  refine ⟨⟨n, m, e + k, rfl⟩, ?_⟩
  simp only [Machine.Num.scale, numVal]
  rw [zpow_add₀ two_ne_zero, mul_assoc]

theorem scale_notFinite {v : Machine.Num} (hv : v.isFinite = false) (k : ℤ) : v.scale k = v := by
  cases v
  case fin => cases hv
  all_goals rfl

/-! ## The nearest integer (R55, R59) -/

/-- The integer nearest a value, the even one where two are as near. -/
def isNearest (x : ℚ) (k : ℤ) : Prop := |x - k| < 1 / 2 ∨ (|x - k| = 1 / 2 ∧ k % 2 = 0)

theorem isNearest_neg {x : ℚ} {k : ℤ} (h : isNearest x k) : isNearest (-x) (-k) := by
  have habs : |-x - ((-k : ℤ) : ℚ)| = |x - k| := by rw [← abs_neg]; congr 1; push_cast; ring
  rw [isNearest, habs]
  exact h.imp_right (And.imp_right fun h => by omega)

/-- At half way between two integers only the even one is nearest. -/
theorem not_isNearest_succ {x : ℚ} {a : ℤ} (ha : isNearest x a) (hb : isNearest x (a + 1)) : False := by
  have hle : ∀ {k}, isNearest x k → |x - k| ≤ 1 / 2 := fun h => h.elim le_of_lt fun h => h.1.le
  have heven : ∀ {k}, isNearest x k → |x - k| = 1 / 2 → k % 2 = 0 := fun h he => h.elim (fun h => absurd he h.ne) And.right
  obtain ⟨-, h1⟩ := abs_le.mp (hle ha)
  obtain ⟨h2, -⟩ := abs_le.mp (hle hb)
  push_cast at h2
  have hx : x = a + 1 / 2 := by linarith
  have e1 := heven ha (by rw [hx, add_sub_cancel_left]; norm_num)
  have e2 := heven hb (by rw [hx]; push_cast; rw [add_sub_add_left_eq_sub]; norm_num)
  omega

theorem isNearest_unique {x : ℚ} {a b : ℤ} (ha : isNearest x a) (hb : isNearest x b) : a = b := by
  have hle : ∀ {k}, isNearest x k → |x - k| ≤ 1 / 2 := fun h => h.elim le_of_lt fun h => h.1.le
  obtain ⟨a1, a2⟩ := abs_le.mp (hle ha)
  obtain ⟨b1, b2⟩ := abs_le.mp (hle hb)
  have h1 : a - b ≤ 1 := by exact_mod_cast (by linarith : (a : ℚ) - b ≤ 1)
  have h2 : b - a ≤ 1 := by exact_mod_cast (by linarith : (b : ℚ) - a ≤ 1)
  by_contra hne
  obtain rfl | rfl : b = a + 1 ∨ a = b + 1 := by omega
  · exact not_isNearest_succ ha hb
  · exact not_isNearest_succ hb ha

/-- The quotient by an even number, or the next integer, is nearest as the remainder is below or above the half. -/
theorem isNearest_quotient {x : ℚ} {K d D : Nat} (hx : x = K + (d : ℚ) / (2 * D)) (hD : 0 < D) (hd : d < 2 * D) :
    isNearest x (if D < d ∨ d = D ∧ K % 2 = 1 then K + 1 else K : Nat) := by
  have hD' : (0 : ℚ) < 2 * D := by exact_mod_cast Nat.mul_pos two_pos hD
  have hlow : x - (K : ℤ) = (d : ℚ) / (2 * D) := by rw [hx]; push_cast; ring
  have hhigh : x - ((K + 1 : Nat) : ℤ) = -((2 * D - d : ℚ) / (2 * D)) := by rw [hx]; push_cast; field_simp; ring
  have hnn : (0 : ℚ) ≤ d / (2 * D) := by positivity
  have hdq : (d : ℚ) < 2 * D := by exact_mod_cast hd
  have hnn' : (0 : ℚ) ≤ (2 * D - d) / (2 * D) := div_nonneg (by linarith) hD'.le
  unfold isNearest
  split_ifs with h
  · rw [hhigh, abs_neg, abs_of_nonneg hnn', div_lt_iff₀ hD', div_eq_iff hD'.ne']
    rcases h with h | ⟨rfl, hodd⟩
    · have : (D : ℚ) < d := by exact_mod_cast h
      exact .inl (by linarith)
    · exact .inr ⟨by ring, by omega⟩
  · rw [hlow, abs_of_nonneg hnn, div_lt_iff₀ hD', div_eq_iff hD'.ne']
    rcases lt_or_eq_of_le (show d ≤ D by omega) with h' | rfl
    · have : (d : ℚ) < D := by exact_mod_cast h'
      exact .inl (by linarith)
    · exact .inr ⟨by ring, by omega⟩

/-- Rounding to the nearest at the unit place (R55). -/
theorem roundTo_nearest (seed : W32) (neg : Bool) (m : Nat) (e : ℤ) :
    isNearest ((m : ℚ) * 2 ^ e) (roundTo 0 seed neg m e false 0).1 := by
  by_cases he : 0 ≤ e
  · have hval := shiftLeft_val m he
    rw [zpow_zero, mul_one] at hval
    simp only [roundTo, if_pos he, if_neg Bool.false_ne_true, ← hval]
    exact .inl (by rw [Int.cast_natCast, sub_self, abs_zero]; norm_num)
  · obtain ⟨c, rfl⟩ : ∃ c : Nat, e = -((c + 1 : Nat) : ℤ) := ⟨(-e).toNat - 1, by omega⟩
    have hc : (0 - -((c + 1 : Nat) : ℤ)).toNat = c + 1 := by omega
    have hP : 2 ^ (c + 1) = 2 * 2 ^ c := by rw [pow_succ, mul_comm]
    have hx : (m : ℚ) * 2 ^ (-((c + 1 : Nat) : ℤ)) =
        (m / 2 ^ (c + 1) : Nat) + ((m % 2 ^ (c + 1) : Nat) : ℚ) / (2 * (2 ^ c : Nat)) := by
      have hm : (m : ℚ) = (2 ^ (c + 1) : ℕ) * (m / 2 ^ (c + 1) : Nat) + (m % 2 ^ (c + 1) : Nat) := by
        exact_mod_cast (Nat.div_add_mod m (2 ^ (c + 1))).symm
      have hpos : (0 : ℚ) < 2 ^ c := by positivity
      rw [zpow_neg, zpow_natCast, ← div_eq_mul_inv, div_eq_iff (by positivity), add_mul]
      conv_lhs => rw [hm]
      push_cast
      field_simp
      ring
    have hnear := isNearest_quotient hx (by positivity) (hP ▸ Nat.mod_lt m (by positivity))
    simp only [roundTo, if_neg he, hc, Nat.add_sub_cancel, Nat.shiftRight_eq_div_pow]
    generalize m / 2 ^ (c + 1) = K at hnear ⊢
    generalize m % 2 ^ (c + 1) = d at hnear ⊢
    by_cases h0 : d = 0
    · have hno : ¬ (2 ^ c < d ∨ d = 2 ^ c ∧ K % 2 = 1) := by
        have : 0 < 2 ^ c := Nat.two_pow_pos c
        omega
      rw [if_neg hno] at hnear
      simpa [h0] using hnear
    · simpa [h0] using hnear

/-- The i4 code of a value is its nearest integer, kept within −8 and 7 (R59). -/
theorem convI4_nearest {v : Machine.Num} (hv : exactNum v) (seed : W32) {k : ℤ} (hk : isNearest (numVal v) k) :
    ((convI4 0 seed v).1 : ℤ) = (max (-8) (min 7 k)) % 16 := by
  obtain ⟨n, m, e, rfl⟩ := hv
  by_cases hm : m = 0
  · subst hm
    have h0 : isNearest (numVal (.fin n 0 e false)) ((0 : ℕ) : ℤ) := .inl (by simp [numVal])
    rw [isNearest_unique hk h0]
    rfl
  · have hr := roundTo_nearest seed n m e
    have hmode : ¬0 ≥ 4 := by omega
    simp only [convI4, hm, hmode, false_and, if_false, decide_eq_true_eq]
    generalize (roundTo 0 seed n m e false 0) = x at hr ⊢
    obtain ⟨K, inex⟩ := x
    dsimp only at hr ⊢
    cases n
    · obtain rfl := isNearest_unique hk (by simpa [numVal] using hr)
      simp only [Bool.false_eq_true, if_false]
      split_ifs <;> omega
    · obtain rfl := isNearest_unique hk (by simpa [numVal] using isNearest_neg hr)
      simp only [if_true]
      split_ifs <;> omega

end Sys2Proof.Proofs
end

section
/-! SUPPORT. Link, nil and quantisation records (R45, R59 to R61, R95 to R98, R207 to R209, R216, R228): each step of such a
record said once. -/

namespace Sys2Proof.Proofs

open Sys2Proof.Machine Sys2Proof.Laws

/-! ## Records without steps (R95, R96, R208) -/

section
variable {s : State} {r : Rec} {run : Run}

/-- A record at the head retires, counted (R208). -/
theorem retireRecord_counted (hrun : s.myEng.run = some run) (ha : s.myEng.away = none) :
    s.retireRecord = s.onEng fun e => { e with
      nxt := if run.single then e.nxt else e.nxt + 64#64, run := none, csn := e.csn + 1 } := by
  refine onEng_congr ?_
  cases h : run.single <;> simp [Engine.retire, Engine.advance, hrun, ha, h]

/-- Without a stamp it has its effect at once. -/
theorem idleRecord_now (i : Instr) (trips : List Nat) (h : r.stamp = 0#40) : s.idleRecord i r trips = s.takeIdle i trips := by
  rw [State.idleRecord, if_neg (by simp [stamped, h])]

/-- A stamped record of the MX waits for its stamp (R96). -/
theorem idleRecord_later (hrun : s.myEng.run = some run) (hst : s.focus.eng ≠ 0 → r.stamp = 0#40) (i : Instr)
    (trips : List Nat) (h : r.stamp ≠ 0#40) (hdue : (dueOf (s.tcc s.focus.tile) r.stamp).2 = false) :
    s.idleRecord i r trips = s.onEng fun e => { e with
      run := some (dueAt { run with started := true, trips := trips, stamp := r.stamp } r.stamp (s.tcc s.focus.tile)) } := by
  have h0 : s.focus.eng = 0 := by_contra fun hne => h (hst hne)
  rw [State.idleRecord, if_pos (by simp [stamped, h, h0]), onRun_eq hrun,
    startClock_early (run := { run with started := true, trips := trips, stamp := r.stamp }) (by simp) (by simpa using hdue),
    onEng_onEng]
  simp only [onEng_focus, tcc_onEng]

variable (hst : s.focus.eng ≠ 0 → r.stamp = 0#40)
include hst

/-- The checks of R98 that a well-formed link or nil passes in any engine. -/
theorem noStep_legal {i : Instr} (hw : i.wellFormed = true) :
    (!i.wellFormed || s.focus.eng != 0 && r.stamp != 0#40) = false := by
  by_cases h : s.focus.eng = 0
  · simp [hw, h]
  · simp [hw, hst h]

variable (hs : run.started = false)
include hs

theorem exec_nil (h : s.AtHead (.nil r) run) (hw : (Instr.nil r).wellFormed = true) :
    exec (.nil r) s = .next (s.idleRecord (.nil r) r (tripCounts r s.me s.focus.eng)) := by
  obtain ⟨hrun, hstop, hinstr⟩ := h
  simp only [exec, execNil, hrun, hstop, hinstr, hs, noStep_legal hst hw]
  simp

variable (h : s.AtHead (.linkRecord r) run) (hw : (Instr.linkRecord r).wellFormed = true)
include h hw

/-- A link with a zero trip count has no effect of its own (R95). -/
theorem exec_linkRecord_zero (h0 : 0 ∈ tripCounts r s.me s.focus.eng) :
    exec (.linkRecord r) s = .next (s.idleRecord (.linkRecord r) r (tripCounts r s.me s.focus.eng)) := by
  obtain ⟨hrun, hstop, hinstr⟩ := h
  simp only [exec, execLinkRecord, hrun, hstop, hinstr, hs, noStep_legal hst hw]
  simp [h0]

variable (h0 : 0 ∉ tripCounts r s.me s.focus.eng)
include h0

/-- The target of any other is judged first (R95, R209). -/
theorem exec_linkRecord_goes (hp : ptrFault s.focus.tile noReach (BitVec.ofNat 64 r.od0.toNat) 0 64 = none) :
    exec (.linkRecord r) s = .next (s.idleRecord (.linkRecord r) r (tripCounts r s.me s.focus.eng)) := by
  obtain ⟨hrun, hstop, hinstr⟩ := h
  simp only [exec, execLinkRecord, hrun, hstop, hinstr, hs, noStep_legal hst hw, hp]
  simp [h0]

theorem exec_linkRecord_faults {c : Nat} (hp : ptrFault s.focus.tile noReach (BitVec.ofNat 64 r.od0.toNat) 0 64 = some c) :
    exec (.linkRecord r) s = .next (engineFaultAt s c (BitVec.ofNat 64 r.od0.toNat)) := by
  obtain ⟨hrun, hstop, hinstr⟩ := h
  simp only [exec, execLinkRecord, hrun, hstop, hinstr, hs, noStep_legal hst hw, hp]
  simp [h0]

end

/-- A link moves NXT to its target, uncounted (R95, R207). -/
theorem takeIdle_link {r : Rec} {trips : List Nat} (s : State) (h : 0 ∉ trips) : s.takeIdle (.linkRecord r) trips =
    s.onEng fun e => { e with nxt := BitVec.ofNat 64 r.od0.toNat, run := none } := by
  simp [State.takeIdle, h]

/-- What a pointer that breaks a rule of R173 faults with, where neither cluster nor global memory may be reached. -/
theorem ptrFault_some {s : State} {p : W64} {off : Int} {n c : Nat} (h : s.PointerFault p off n c) :
    ptrFault s.focus.tile noReach p off n = some c := by
  have hp := p.isLt
  have b1 : bits p.toNat 63 60 = p.toNat / 2 ^ 60 := by simp only [bits]; omega
  have b2 : bits p.toNat 20 0 = p.toNat % 2 ^ 21 := by simp [bits]
  have b3 : bits p.toNat 53 48 = p.toNat / 2 ^ 48 % 2 ^ 6 := by simp [bits]
  have b4 : bits p.toNat 56 48 = p.toNat / 2 ^ 48 % 2 ^ 9 := by simp [bits]
  have b5 : bits p.toNat 59 21 = p.toNat / 2 ^ 21 % 2 ^ 39 := by simp [bits]
  have b6 : bits p.toNat 59 57 = p.toNat / 2 ^ 57 % 2 ^ 3 := by simp [bits]
  have b7 : bits p.toNat 47 21 = p.toNat / 2 ^ 21 % 2 ^ 27 := by simp [bits]
  obtain ⟨rfl, hw | hr⟩ | ⟨rfl, hw⟩ | ⟨rfl, hw, hr, ht⟩ | ⟨rfl, ho, ha⟩ := h
  · simp only [ptrFault, b1]
    by_cases h0 : p.toNat / 2 ^ 60 = 0
    · rw [if_neg (by omega), if_pos ⟨h0, rfl⟩]; rfl
    · rw [if_pos ⟨h0, hw⟩]; rfl
  · simp only [ptrFault, b1]
    rw [if_neg (by omega), if_neg (by omega), if_neg (by omega), if_pos ?_]; rfl
    rcases hr with ⟨hw, hr⟩ | ⟨hw, hr⟩
    · exact .inl (by simp only [ptrReserved, b1, hw, b5]; simpa using hr)
    · by_cases h47 : 47 < p.toNat / 2 ^ 48 % 2 ^ 6
      · exact .inr ⟨.inl hw, b3 ▸ h47⟩
      · exact .inl (by simp only [ptrReserved, b1, hw, b6, b7]; simp; omega)
  · simp only [ptrFault, b1, hw]
    rfl
  · simp only [ptrFault, b1, hw, b3, b4]
    have hres : ptrReserved p.toNat = false := by simp only [ptrReserved, b1, hw, b6, b7]; simp; omega
    rw [if_neg (by omega), if_neg (by simp), if_neg (by simp), if_neg (by rw [hres]; simp; omega),
      if_pos ⟨trivial, ht⟩]
    rfl
  · have h0 : p.toNat / 2 ^ 60 ≠ 0 := by rcases ho with h | h <;> omega
    have hn := ptrFault_none ho noReach (off := off) (align := 1) (Int.emod_one _)
    simp only [ptrFault, b1, b2, if_neg h0] at hn ⊢
    split_ifs at hn ⊢
    rfl

/-! ## Records with units (R98, R207 to R209, R216) -/

section
variable {s : State} {i : Instr} {r : Rec} {run : Run} {ops : List (Nat × Nat)} {good : Nat → State → Bool}
  (unit : State → Run → State)

/-- A record under way does its next unit. -/
theorem recordOp_unit (h : s.AtHead i run) (hs : run.started = true) :
    recordOp s i r ops good unit = .next (unit s run) := by
  obtain ⟨hrun, hstop, hinstr⟩ := h
  simp [recordOp, hrun, hstop, hinstr, hs]

/-- A record that does not pass its start has no unit. -/
theorem recordOp_refused (h : s.AtHead i run) (hs : run.started = false) {t : State}
    (ht : s.startRecord i r ops good = (t, false)) : recordOp s i r ops good unit = .next t := by
  obtain ⟨hrun, hstop, hinstr⟩ := h
  simp [recordOp, hrun, hstop, hinstr, hs, ht]

/-- A record that starts does its first unit in the same step (R216). -/
theorem recordOp_starts (h : s.Starts i r ops run) (hg : good (points (tripCounts r s.me s.focus.eng)) s = true)
    (hops : ∀ o ∈ ops, o.1 < 4) : recordOp s i r ops good unit =
      recordOp (s.onEng fun e => { e with run := some (run.resolved r s.me s.focus.eng) }) i r ops good unit := by
  obtain ⟨hrun, hstop, hinstr⟩ := h.1
  have hgo : recordOp s i r ops good unit = .next (unit
      (s.onEng fun e => { e with run := some (run.resolved r s.me s.focus.eng) }) (run.resolved r s.me s.focus.eng)) := by
    simp [recordOp, hrun, hstop, hinstr, h.2.1, startRecord_starts h hg hops]
  rw [hgo]
  exact (recordOp_unit (run := run.resolved r s.me s.focus.eng) unit
    ⟨by rw [myEng_onEng], by rwa [myEng_onEng], hinstr⟩ rfl).symm

end

/-- The records of the QZ, the CP and the FI, each with the number and the alignment of its memory operands (R228 to R231). -/
def unitRecords (r : Rec) : List (Instr × List (Nat × Nat)) :=
  [(.qscl r, [(0, 16), (1, 16), (2, 1)]), (.qpak r, [(0, 16), (1, 16), (3, 1)]),
    (.qdeq r, [(0, 16), (1, 16), (3, 1)]), (.qcvt r, [(0, 16), (1, 16)]), (.qamx r, [(0, 16), (1, 4)]),
    (.copy r, [(0, 16), (1, 16)]), (.gath r, [(0, 16), (1, 16), (2, 4)]), (.scat r, [(0, 16), (1, 16), (2, 4)]),
    (.fill r, [(1, 16)]), (.fsnd r, [(0, 16)]), (.fsig r, []), (.fdrp r, [])]

/-- Each of them is one form of `recordOp`. -/
theorem unitRecords_form (r : Rec) : ∀ x ∈ unitRecords r,
    (∃ k, recEngine x.1 = some k ∧ k ≠ 0) ∧ (∀ o ∈ x.2, o.1 < 4) ∧
    (∀ s trips, State.takeIdle s x.1 trips = s.retireRecord) ∧
    ∃ unit, ∀ s, exec x.1 s = recordOp s x.1 r x.2 anyTrips unit := by
  simp only [unitRecords, List.forall_mem_cons, List.not_mem_nil, false_implies, implies_true, and_true]
  refine ⟨?_, ?_, ?_, ?_, ?_, ?_, ?_, ?_, ?_, ?_, ?_, ?_⟩ <;>
    exact ⟨⟨_, rfl, by decide⟩, by decide, fun _ _ => rfl, _, fun _ => rfl⟩

section
variable {s : State} {r : Rec} {x : Instr × List (Nat × Nat)} (hx : x ∈ unitRecords r) {run : Run}
  (h : s.AtHead x.1 run) (hs : run.started = false)
include hx

theorem exec_unitRecord_starts (h : s.Starts x.1 r x.2 run) :
    exec x.1 s = exec x.1 (s.onEng fun e => { e with run := some (run.resolved r s.me s.focus.eng) }) := by
  obtain ⟨-, hops, -, unit, hexec⟩ := unitRecords_form r x hx
  rw [hexec, hexec, recordOp_starts unit h rfl hops]

include h hs

theorem exec_unitRecord_illegal (hbad : x.1.wellFormed = false ∨ recEngine x.1 ≠ some s.focus.eng ∨ r.stamp ≠ 0#40) :
    exec x.1 s = .next (engineFaultAt s 0x01 run.addr) := by
  obtain ⟨⟨k, hk, hk0⟩, -, -, unit, hexec⟩ := unitRecords_form r x hx
  rw [hexec, recordOp_refused unit h hs (startRecord_illegal _ _ h ?_)]
  rw [hk, Option.getD_some]
  rcases hbad with hw | he | hst
  · exact .inl hw
  · exact .inr (.inl fun hke => he (hk.trans (congrArg some hke)))
  · by_cases h0 : s.focus.eng = 0
    · exact .inr (.inl (h0 ▸ hk0))
    · exact .inr (.inr ⟨h0, hst⟩)

variable (hw : x.1.wellFormed = true) (he : recEngine x.1 = some s.focus.eng) (hst : r.stamp = 0#40)
include hw he hst

theorem exec_unitRecord_zero (h0 : 0 ∈ tripCounts r s.me s.focus.eng) : exec x.1 s = .next s.retireRecord := by
  obtain ⟨-, -, hidle, unit, hexec⟩ := unitRecords_form r x hx
  rw [hexec, recordOp_refused unit h hs (startRecord_zero _ _ hw he (fun _ => hst) h0), idleRecord_now _ _ hst, hidle]

theorem exec_unitRecord_pointer (h0 : 0 ∉ tripCounts r s.me s.focus.eng) {pre post : List (Nat × Nat)}
    {o : Nat × Nat} {c : Nat} (hsplit : x.2 = pre ++ o :: post) (hpre : ∀ y ∈ pre, operandFault s r y = none)
    (ho : operandFault s r o = some c) :
    exec x.1 s = .next (engineFaultAt s c (elemPtr (operandPtr s r o.1) (operandOff r o.1))) := by
  obtain ⟨-, hops, -, unit, hexec⟩ := unitRecords_form r x hx
  rw [hexec, recordOp_refused unit h hs (startRecord_pointer hw he (fun _ => hst) h0 rfl hops hsplit hpre ho)]

end

/-! ## Groups of the QZ (R228) -/

section
variable {s s1 s2 : State} {i : Instr} {r : Rec} {run : Run} {ws : List (W64 × Int × List W8)} {fl : Flags}

/-- A group whose accesses break no region rule is written, its flags raised; the last retires the record. -/
theorem qzUnit_done (hreg : ∀ x ∈ qzAccesses i r run, s.regionBad x = false) (hg : qzGroup s i r run = .ok (ws, fl, s1))
    (hws : State.ewrites ws s1 = .ok s2) :
    qzUnit i r s run = (s2.onMe fun t => t.raise fl).unitDone run (points run.trips) := by
  have hfind : (qzAccesses i r run).find? s.regionBad = none :=
    List.find?_eq_none.mpr fun x hx => by simp [hreg x hx]
  simp only [qzUnit, hfind, hg, hws]
  rfl

/-- The first access that breaks a region rule faults (R176, R344). -/
theorem qzUnit_region {pre post : List EAcc} {x : EAcc} (hsplit : qzAccesses i r run = pre ++ x :: post)
    (hpre : ∀ y ∈ pre, s.regionBad y = false) (hx : s.regionBad x = true) :
    qzUnit i r s run = engineFaultAt s 0x06 (elemPtr x.1 x.2.1) := by
  have hfind : (qzAccesses i r run).find? s.regionBad = some x :=
    List.find?_eq_some_iff_append.mpr ⟨hx, pre, post, hsplit, fun y hy => by simp [hpre y hy]⟩
  simp only [qzUnit, hfind]
  rfl

/-- A quantisation record under way does the unit of its group. -/
theorem exec_quant (hi : i = .qscl r ∨ i = .qpak r ∨ i = .qdeq r ∨ i = .qcvt r ∨ i = .qamx r) (h : s.AtHead i run)
    (hs : run.started = true) : exec i s = .next (qzUnit i r s run) := by
  rcases hi with rfl | rfl | rfl | rfl | rfl <;> exact recordOp_unit _ h hs

end

end Sys2Proof.Proofs
end

section
/-! SUPPORT. Groups of a quantisation record (R45, R61, R228): the codes read and packed, what each record makes of a group,
and O35. -/

namespace Sys2Proof.Proofs

open Sys2Proof.Machine Sys2Proof.Laws

/-! ## Codes in bytes (R45) -/

theorem natOfBytes_bytesOf (n v : Nat) : natOfBytes (bytesOf n v) = v % 256 ^ n := by
  induction n generalizing v with
  | zero => simp [bytesOf, natOfBytes, Nat.mod_one]
  | succ n ih =>
    rw [bytesOf, natOfBytes, ih, BitVec.toNat_ofNat, pow_succ' 256]
    exact Nat.mod_mul.symm

/-- The k-th of pieces of `n` elements each. -/
theorem take_drop_flatMap {α β : Type} {n : Nat} (f : α → List β) (hf : ∀ a, (f a).length = n) (d : α) :
    ∀ (l : List α) (k : Nat), k < l.length → ((l.flatMap f).drop (k * n)).take n = f (l.getD k d)
  | a :: l, 0, _ => by simp [← hf a]
  | a :: l, k + 1, hk => by
    rw [List.flatMap_cons, Nat.succ_mul, Nat.add_comm, ← List.drop_drop, ← hf a, List.drop_left, hf a]
    exact take_drop_flatMap f hf d l k (Nat.lt_of_succ_lt_succ hk)

/-- Codes of whole bytes stand one after another. -/
theorem packCodes_bytes {w : Nat} (hw : w = 8 ∨ w = 16 ∨ w = 32) : ∀ cs, packCodes w cs = cs.flatMap (bytesOf (w / 8))
  | [] => rfl
  | [c] => by rcases hw with rfl | rfl | rfl <;> simp [packCodes]
  | c :: d :: rest => by
    have h4 : w ≠ 4 := by omega
    rw [packCodes, if_neg h4, packCodes_bytes hw rest, List.flatMap_cons, List.flatMap_cons]

theorem packCodes_read {w : Nat} (hw : w = 8 ∨ w = 16 ∨ w = 32) {cs : List Nat} {k : Nat} (hk : k < cs.length) :
    natOfBytes (((packCodes w cs).drop (k * (w / 8))).take (w / 8)) = cs.getD k 0 % 2 ^ w := by
  rw [packCodes_bytes hw, take_drop_flatMap _ (fun _ => bytesOf_length ..) 0 _ _ hk, natOfBytes_bytesOf]
  rcases hw with rfl | rfl | rfl <;> rfl

/-- Codes of 4 bits stand two to a byte, the even one low. -/
theorem packCodes_nibbles : ∀ (cs : List Nat) (k : Nat), 2 * k + 1 < cs.length →
    ((packCodes 4 cs).getD k 0).toNat = cs.getD (2 * k) 0 % 16 + 16 * (cs.getD (2 * k + 1) 0 % 16)
  | c :: d :: rest, 0, _ => by
    simp [packCodes]
    omega
  | c :: d :: rest, k + 1, hk => by
    rw [show 2 * (k + 1) = 2 * k + 1 + 1 from rfl]
    simpa [packCodes] using packCodes_nibbles rest k (by simp at hk; omega)

/-! ## Reading a group -/

theorem splitCodes_length (w : Nat) : ∀ n v, (splitCodes w n v).length = n
  | 0, _ => rfl
  | n + 1, v => congrArg (· + 1) (splitCodes_length w n (v / 2 ^ w))

theorem splitCodes_getD (w : Nat) : ∀ n v e, e < n → (splitCodes w n v).getD e 0 = v / (2 ^ w) ^ e % 2 ^ w
  | n + 1, v, 0, _ => by simp [splitCodes]
  | n + 1, v, e + 1, he => by
    rw [splitCodes, List.getD_cons_succ, splitCodes_getD w n _ e (Nat.lt_of_succ_lt_succ he), Nat.div_div_eq_div_mul, pow_succ']

theorem readGroup_nibbles {s s' : State} {p : W64} {d : Int} {g fmt v : Nat} (hw : fmtWidth fmt = 4)
    (h : s.eread p d (g / 2) = .ok (v, s')) : readGroup s p d g fmt = .ok (splitCodes 4 g v, s') := by
  simp only [readGroup, hw, if_pos, h]

theorem readGroup_bytes (s : State) (p : W64) (d : Int) (g : Nat) {fmt : Nat} (hw : fmtWidth fmt ≠ 4) :
    readGroup s p d g fmt =
      State.ereads p (fmtWidth fmt / 8) ((List.range g).map fun e => d + (e * (fmtWidth fmt / 8) : Nat)) s := by
  rw [readGroup, if_neg hw]
  rfl

/-! ## What a record makes of a group (R61, R228) -/

/-- The writes of a group's codes to the second operand of its record, 4-bit ones packed into one access. -/
def groupCodes (r : Rec) (run : Run) (cs : List (Nat × Flags)) : List (W64 × Int × List W8) :=
  let w := fmtWidth r.fmt1.toNat
  let d := descDisp r.od1 run.trips run.prog
  if w = 4 then [(run.base 1, d, packCodes 4 (cs.map (·.1)))]
  else (List.zip (List.range cs.length) cs).map fun x => (run.base 1, d + (x.1 * (w / 8) : Nat), bytesOf (w / 8) x.2.1)

/-- The flags of a group: those of all its conversions. -/
def groupFlags (cs : List (Nat × Flags)) : Flags := cs.foldl (fun a x => a ||| x.2) f0

theorem groupWrites_codes (r : Rec) (run : Run) (cs : List (Nat × Flags)) :
    groupWrites (run.base 1) (descDisp r.od1 run.trips run.prog) r.fmt1.toNat (codesOf cs).1 = groupCodes r run cs := by
  rw [groupWrites, groupCodes, codesOf]
  split_ifs
  · rfl
  · rw [List.length_map, List.zip_map_right, List.map_map]
    rfl

theorem convBlock_badScale (fmt mode : Nat) (seed : W32) (v : Machine.Num) : convBlock fmt mode seed 0xFF v = (0, fIV) := rfl

/-- Under any other scale a value is divided by it and rounded once (R50, R59). -/
theorem convBlock_scaled {fmt sc : Nat} (hsc : sc ≠ 0xFF) (mode : Nat) (seed : W32) (v : Machine.Num) :
    convBlock fmt mode seed sc v = if fmt = 7 then convI4 mode seed (v.scale (127 - (sc : ℤ)))
      else convFF ffF4 mode true seed (v.scale (127 - (sc : ℤ))) := by
  rw [convBlock, if_neg hsc]

/-- Under a scale of 0xFF every code is zero, and IV alone is raised (R50, R61). -/
theorem codesOf_badScale (fmt mode : Nat) (seed : W32) : ∀ {vs : List Machine.Num}, vs ≠ [] →
    codesOf (vs.map (convBlock fmt mode seed 0xFF)) = (vs.map fun _ => 0, fIV)
  | v :: vs, _ => by
    have hf : convBlock fmt mode seed 0xFF = fun _ => (0, fIV) := funext (convBlock_badScale fmt mode seed)
    have hor : f0 ||| fIV = fIV := by decide
    rw [codesOf, hf, List.map_map, List.foldl_map, List.foldl_cons, hor, List.foldl_fixed' fun _ => BitVec.or_self]
    rfl

/-- The codes of a block are those of its elements under its scale, a scale of 0xFF too. -/
theorem codesOf_block (fit : Bool) (fmt mode : Nat) (seed : W32) (vs : List Machine.Num) :
    (if blockScale fit fmt vs = 0xFF then
        ((codesOf (vs.map (convBlock fmt mode seed (blockScale fit fmt vs)))).1.map fun _ => 0, fIV)
      else codesOf (vs.map (convBlock fmt mode seed (blockScale fit fmt vs)))) =
      codesOf (vs.map (convBlock fmt mode seed (blockScale fit fmt vs))) := by
  split_ifs with h
  · have hne : vs ≠ [] := by
      rintro rfl
      cases h
    rw [h, codesOf_badScale _ _ _ hne, List.map_map]
    rfl
  · rfl

section
variable {s s1 : State} {r : Rec} {run : Run} {l : List Nat}

section
variable (h : readGroup s (run.base 0) (descDisp r.od0 run.trips run.prog) 32 r.fmt0.toNat = .ok (l, s1))
include h

theorem qzGroup_qscl :
    let vs := l.map (widenVal r.fmt0.toNat false 127)
    let sc := blockScale r.opx r.fmt1.toNat vs
    let cs := vs.map (convBlock r.fmt1.toNat run.rm run.seed sc)
    qzGroup s (.qscl r) r run = .ok (groupCodes r run cs ++
      [(run.base 2, ((descOff r.od2 + run.prog : Nat) : Int), bytesOf 1 sc)], groupFlags cs, s1) := by
  simp only [qzGroup, h, codesOf_block, groupWrites_codes]
  rfl

variable {sc : Nat} {s2 : State} (hsc : s1.eread (run.base 3) (descOff r.od3 + run.prog : Nat) 1 = .ok (sc, s2))
include hsc

theorem qzGroup_qpak :
    let cs := l.map fun c => convBlock r.fmt1.toNat run.rm run.seed sc (widenVal r.fmt0.toNat false 127 c)
    qzGroup s (.qpak r) r run = .ok (groupCodes r run cs, groupFlags cs, s2) := by
  simp only [qzGroup, h, hsc, groupWrites_codes]
  rfl

theorem qzGroup_qdeq :
    let cs := l.map fun c =>
      let v := widenLane r.fmt0.toNat false sc c
      let o := conv r.fmt1.toNat run.rm false false run.seed (ofF32 v.1)
      (o.1, v.2 ||| o.2)
    qzGroup s (.qdeq r) r run = .ok (groupCodes r run cs, groupFlags cs, s2) := by
  simp only [qzGroup, h, hsc, groupWrites_codes]
  rfl

end

variable (h : readGroup s (run.base 0) (descDisp r.od0 run.trips run.prog) 64 r.fmt0.toNat = .ok (l, s1))
include h

theorem qzGroup_qcvt :
    let cs := l.map fun c => conv r.fmt1.toNat run.rm r.x r.sat run.seed (widenVal r.fmt0.toNat r.x 127 c)
    qzGroup s (.qcvt r) r run = .ok (groupCodes r run cs, groupFlags cs, s1) := by
  simp only [qzGroup, h, groupWrites_codes]
  rfl

theorem qzGroup_qamx : qzGroup s (.qamx r) r run =
    .ok ([(run.base 1, ((descOff r.od1 + 4 * run.prog : Nat) : Int), bytesOf 4
      (l.foldl (fun a c => fmax a ((widenLane r.fmt0.toNat false 127 c).1 &&& 0x7FFFFFFF#32)) 0#32).toNat)], f0, s1) := by
  simp only [qzGroup, h]

end

/-! ## O35 -/

/-- Settles O35: link and nil by what an idle record does, the other records by the start and the unit that they share, and a
group by its codes, its scale and the places of its bytes. -/
theorem linkNilAndQuantisationRecords : Obligations.LinkNilAndQuantisationRecords := by
  refine ⟨⟨fun s r run hs hst ha => ⟨fun h hw => ?nil, fun h hw => ?link⟩,
    fun s r x hx run h hs => ⟨?starts, ?illegal, fun hw he hst => ⟨?zero, ?pointer⟩⟩,
    fun s s1 s2 i r run ws fl hi h hs => ?unit⟩, ?values, fun w cs => ⟨?nibbles, ?bytes⟩, fun s p d g fmt => ⟨?four, ?whole⟩,
    fun s s1 r run l => ⟨fun h => ⟨?scl, fun sc s2 hsc => ⟨?pak, ?deq⟩⟩, fun h => ⟨?cvt, ?amx⟩⟩⟩
  case nil =>
    refine ⟨fun h0 => ?_, fun h0 hdue => ?_⟩
    · rw [exec_nil hst hs h hw, idleRecord_now _ _ h0]
      exact congrArg _ (retireRecord_counted h.1 ha)
    · rw [exec_nil hst hs h hw, idleRecord_later h.1 hst _ _ h0 hdue, dueAt, if_neg h0]
  case link =>
    refine ⟨fun hz h0 => ?_, fun hz ho => ?_, fun hz c hc => ?_⟩
    · rw [exec_linkRecord_zero hst hs h hw hz, idleRecord_now _ _ h0, State.takeIdle, if_pos (by simpa using hz)]
      exact congrArg _ (retireRecord_counted h.1 ha)
    · rw [exec_linkRecord_goes hst hs h hw hz (ptrFault_none ho.1 _ (by have := ho.2; omega))]
      refine ⟨fun h0 => ?_, fun h0 hdue => ?_⟩
      · rw [idleRecord_now _ _ h0, takeIdle_link s hz]
      · rw [idleRecord_later h.1 hst _ _ h0 hdue, dueAt, if_neg h0]
    · exact exec_linkRecord_faults hst hs h hw hz (ptrFault_some hc)
  case starts => exact exec_unitRecord_starts hx
  case illegal => exact exec_unitRecord_illegal hx h hs
  case zero => exact exec_unitRecord_zero hx h hs hw he hst
  case pointer =>
    intro h0 pre o post c hsplit hpre ho
    exact exec_unitRecord_pointer hx h hs hw he hst h0 hsplit hpre ho
  case unit =>
    rw [exec_quant hi h hs]
    exact ⟨fun hreg hg hws => congrArg _ (qzUnit_done hreg hg hws),
      fun pre x post hsplit hpre hx => congrArg _ (qzUnit_region hsplit hpre hx)⟩
  case values =>
    refine ⟨fun fit fmt l hfmt => ⟨blockScale_notFinite fit fmt, fun hl => ⟨blockScale_zero fit fmt hl, ?_⟩⟩,
      fun fmt mode sc seed v hfmt => ⟨convBlock_badScale fmt mode seed v, fun hsc => ?_⟩, ?_⟩
    · exact fun E h => blockScale_eq hfmt hl h
    · exact ⟨v.scale (127 - (sc : ℤ)), fun hv => scale_exact hv _, fun hv => scale_notFinite hv _,
        convBlock_scaled hsc mode seed v⟩
    · exact fun v seed k hv hk => convI4_nearest hv seed hk
  case nibbles =>
    rintro rfl - k hk
    exact packCodes_nibbles cs k hk
  case bytes => exact fun hw k hk => packCodes_read hw hk
  case four =>
    intro hw _ v s' h
    exact ⟨_, readGroup_nibbles hw h, splitCodes_length .., fun e he => splitCodes_getD 4 g v e he⟩
  case whole => exact readGroup_bytes s p d g
  case scl => exact qzGroup_qscl h
  case pak => exact qzGroup_qpak h hsc
  case deq => exact qzGroup_qdeq h hsc
  case cvt => exact qzGroup_qcvt h
  case amx => exact qzGroup_qamx h

end Sys2Proof.Proofs
end

section
/-! SUPPORT. Arithmetic of the C strand (R79, R104, R107 to R110): the one scalar result of each form, O9, O10 and O11. -/

namespace Sys2Proof.Proofs

open Sys2Proof.Machine Sys2Proof.Laws

/-! ## Register forms (R107) -/

/-- An instruction that is one scalar result, whose value is given in another way (R104). -/
theorem exec_scalar {s : State} (h : Alone s .c) {i : Instr} {sd : BitVec 6} {lat : Nat} {v w : W64}
    (hi : exec i s = scalarOp s sd lat v) (hv : v = w) :
    exec i s = .next (s.withMe ((s.me.flying lat (.scalar sd.toNat w) f0 0).moved .c)) := by
  rw [hi, hv, scalarOp_alone h]

/-- The lesser operand, the first of equal ones, in the order of a measure. -/
theorem lesser_eq {α : Type} [LinearOrder α] (f : W64 → α) (a b : W64) :
    (if decide (f b < f a) then b else a) = if f a ≤ f b then a else b := by
  by_cases h : f a ≤ f b
  · rw [if_pos h, if_neg (by simpa using h)]
  · rw [if_neg h, if_pos (by simpa using h)]

/-- The greater operand, the second where the first is no greater. -/
theorem greater_eq {α : Type} [LinearOrder α] (f : W64 → α) (hf : Function.Injective f) (a b : W64) :
    (if decide (f a < f b) then b else a) = if f a ≤ f b then b else a := by
  rcases lt_trichotomy (f a) (f b) with h | h | h
  · rw [if_pos (by simpa using h), if_pos h.le]
  · rw [hf h, ite_self, ite_self]
  · rw [if_neg (by simpa using h.le), if_neg h.not_ge]

/-- Settles O9: each form is one scalar result, and each value is read off the form's operation. -/
theorem registerArithmeticResults : Obligations.RegisterArithmeticResults := by
  intro s sd sa sb sc h
  simp only [← rs_eq h.2.1]
  exact ⟨exec_scalar h rfl rfl, exec_scalar h rfl rfl, exec_scalar h rfl rfl, exec_scalar h rfl rfl, exec_scalar h rfl rfl,
    exec_scalar h rfl rfl, exec_scalar h rfl rfl, exec_scalar h rfl (sshiftRight_value _ _), exec_scalar h rfl rfl,
    exec_scalar h rfl (mulHigh_signed _ _), exec_scalar h rfl (mulHigh_natural _ _),
    exec_scalar h rfl (lesser_eq BitVec.toInt _ _), exec_scalar h rfl (lesser_eq BitVec.toNat _ _),
    exec_scalar h rfl (greater_eq BitVec.toInt (fun _ _ => BitVec.eq_of_toInt_eq) _ _),
    exec_scalar h rfl (greater_eq BitVec.toNat (fun _ _ => BitVec.eq_of_toNat_eq) _ _), exec_scalar h rfl (ite_not ..).symm⟩

/-! ## Comparisons, extensions and bit counts (R79, R110), immediates (R108) -/

/-- A comparison is 1 where its condition of R79 holds, else 0. -/
theorem compare_value {c : BitVec 3} (hc : c.toNat < 6) {a b : W64} {P : Prop} [Decidable P] (hP : CondHolds c a b ↔ P) :
    boolWord (icond c.toNat a b) = if P then 1#64 else 0#64 := by
  have h := (icond_iff hc a b).trans hP
  cases hi : icond c.toNat a b with
  | true => rw [if_pos (h.mp hi)]; rfl
  | false => rw [if_neg fun hp => by simp [h.mpr hp] at hi]; rfl

theorem zeroExtend_value (a : W64) (w : Nat) :
    (a.setWidth w).setWidth 64 = BitVec.ofNat 64 (a.toNat % 2 ^ w) := by
  rw [setWidth64_eq, BitVec.toNat_setWidth]

theorem signExtend_value (a : W64) (w : Nat) :
    (a.setWidth w).signExtend 64 = BitVec.ofInt 64 (BitVec.ofNat w a.toNat).toInt := by
  rw [BitVec.ofNat_toNat]; rfl

/-- Settles O10: comparisons by their condition, extensions by their width, counts by the places counted; immediates by
their extension. -/
theorem comparisonAndImmediateResults : Obligations.ComparisonAndImmediateResults := by
  refine ⟨fun s sd sa sb h => ?registers, fun s sd sa imm h => ?immediates⟩
  case registers =>
    simp only [← rs_eq h.2.1]
    exact ⟨exec_scalar h rfl (compare_value (by decide) Iff.rfl), exec_scalar h rfl (compare_value (by decide) Iff.rfl),
      exec_scalar h rfl (compare_value (by decide) Iff.rfl), exec_scalar h rfl (compare_value (by decide) Iff.rfl),
      exec_scalar h rfl (compare_value (by decide) Iff.rfl), exec_scalar h rfl (compare_value (by decide) Iff.rfl),
      exec_scalar h rfl (zeroExtend_value _ _), exec_scalar h rfl (zeroExtend_value _ _),
      exec_scalar h rfl (zeroExtend_value _ _), exec_scalar h rfl (signExtend_value _ 8),
      exec_scalar h rfl (signExtend_value _ 16), exec_scalar h rfl (signExtend_value _ 32),
      exec_scalar h rfl (congrArg (BitVec.ofNat 64) (clzGo_value _ 64)), exec_scalar h rfl (congrArg (BitVec.ofNat 64) (ctzGo_value _ 64)),
      exec_scalar h rfl (congrArg (BitVec.ofNat 64) (popGo_value _ 64)), fun _ _ _ => ⟨rfl, rfl, rfl⟩⟩
  case immediates =>
    have hzero : imm.setWidth 64 = BitVec.ofNat 64 imm.toNat := setWidth64_eq imm
    simp only [← rs_eq h.2.1, ← hzero]
    refine ⟨exec_scalar h rfl rfl, exec_scalar h rfl rfl, exec_scalar h rfl rfl, exec_scalar h rfl rfl, fun hlt => ?shifts,
      exec_scalar h rfl rfl, exec_scalar h rfl (compare_value (by decide) Iff.rfl),
      exec_scalar h rfl (compare_value (by decide) Iff.rfl), exec_scalar h rfl (compare_value (by decide) Iff.rfl),
      exec_scalar h rfl (compare_value (by decide) Iff.rfl), exec_scalar h rfl (compare_value (by decide) Iff.rfl),
      exec_scalar h rfl (compare_value (by decide) Iff.rfl), exec_scalar h rfl rfl, exec_scalar h rfl (lih_value _ _)⟩
    have hmod : imm.toNat % 64 = imm.toNat := Nat.mod_eq_of_lt hlt
    exact ⟨exec_scalar h rfl (by rw [hmod]), exec_scalar h rfl (by rw [hmod]),
      exec_scalar h rfl (by rw [hmod, sshiftRight_value])⟩

/-! ## Division (R109) -/

/-- A division holds the divider for 20 clk, at whose end its result lands. -/
theorem divOp_alone {s : State} (h : Alone s .c) (sd : BitVec 6) (v : W64) (fl : Flags) : divOp s sd v fl =
    .next (s.withMe ({ s.me.flying 20 (.scalar sd.toNat v) fl 8 with busyDiv := 20 }.moved .c)) := by
  obtain ⟨hm, hs, hst⟩ := h
  rw [divOp, issue_go _ hm rfl, if_neg (by simp [hs]), onMe_withMe, withMe_retire hs, hst]
  rfl

theorem divide_zero (n : Bool) (a : W64) : divide n a 0#64 = (BitVec.allOnes 64, a, fZD) := rfl

theorem divide_signed (a : W64) {b : W64} (hb : b ≠ 0#64) :
    divide false a b = (BitVec.ofInt 64 (a.toInt.tdiv b.toInt), BitVec.ofInt 64 (a.toInt.tmod b.toInt), f0) := by
  rw [divide, if_neg hb]; rfl

theorem divide_natural (a : W64) {b : W64} (hb : b ≠ 0#64) :
    divide true a b = (BitVec.ofNat 64 (a.toNat / b.toNat), BitVec.ofNat 64 (a.toNat % b.toNat), f0) := by
  rw [divide, if_neg hb, if_pos rfl, ← BitVec.toNat_udiv, ← BitVec.toNat_umod, BitVec.ofNat_toNat, BitVec.ofNat_toNat,
    BitVec.setWidth_eq, BitVec.setWidth_eq]

/-- Settles O11: a division is the divider's one result, the quotient or the remainder of `divide`. -/
theorem divisionResults : Obligations.DivisionResults := by
  intro s sd sa sb h
  have hdiv (n : Bool) := divOp_alone h sd (divide n (s.rs sa) (s.rs sb)).1 (divide n (s.rs sa) (s.rs sb)).2.2
  have hrem (n : Bool) := divOp_alone h sd (divide n (s.rs sa) (s.rs sb)).2.1 (divide n (s.rs sa) (s.rs sb)).2.2
  simp only [← rs_eq h.2.1]
  refine ⟨fun hb => ?_, fun hb n => ?_⟩
  · have hs := divide_signed (s.rs sa) hb
    have hn := divide_natural (s.rs sa) hb
    exact ⟨(hdiv false).trans (by rw [hs]), (hdiv true).trans (by rw [hn]), (hrem false).trans (by rw [hs]),
      (hrem true).trans (by rw [hn])⟩
  · have hz := divide_zero n (s.rs sa)
    rw [← hb] at hz
    exact ⟨(hdiv n).trans (by rw [hz]), (hrem n).trans (by rw [hz])⟩

end Sys2Proof.Proofs
end

section
/-! SUPPORT. Flag branches and the close of a loop (R76, R112, R113, R116): each said once, and O13. -/

namespace Sys2Proof.Proofs

open Sys2Proof.Machine Sys2Proof.Laws

/-- The four tests of a flag slot by the slot's bits (R112, R116). -/
theorem slotTest_values (v : BitVec 14) : slotTest v 0 = v.toNat.testBit 13 ∧ slotTest v 1 = v.toNat.testBit 12 ∧
    slotTest v 2 = v.toNat.testBit 11 ∧ ∀ k, slotTest v (k + 3) = (v.toNat % 2 ^ 11 != 0) :=
  ⟨bitAt_testBit _ _, bitAt_testBit _ _, bitAt_testBit _ _, fun _ => by simp [slotTest, bits]⟩

section
variable {s : State} (h : Alone s .c)
include h

/-- A branch that the shadow context may not issue, taken or not (R105). -/
theorem issue_taskBranch {taken : Bool} {x : Int} (hin : taken = true → s.inCode x) :
    s.taskOnly (s.branchIf taken x) = .go := by
  rw [taskOnly_eq h.2.1]
  cases taken with
  | false => rfl
  | true => exact branchCheck_inCode h.2.1 (hin rfl)

theorem exec_bf {fs test : BitVec 2} {inv : Bool} {off : BitVec 21}
    (hin : (slotTest (s.me.slot fs.toNat) test.toNat != inv) = true → s.inCode (s.relTarget off)) :
    exec (.bf fs test inv off) s = .next (s.withMe (if slotTest (s.me.slot fs.toNat) test.toNat != inv
      then s.me.movedTo .c (BitVec.ofInt 21 (s.relTarget off)) 3 else s.me.moved .c)) :=
  issue_branch h (issue_taskBranch h hin)

end

/-- The tile with the results of a loopr on their way: the trip register, and the bases and the stage predicate where
it rotates (R113). -/
def looping (t : Tile) (sd : BitVec 6) (v : W64) : Tile :=
  let u := t.flying 1 (.scalar sd.toNat (loopWord v)) f0 0
  if (loopNext v).rotate then
    u.flying 1 (.bases (t.vrb - 1) (t.krb - 1) (physK (t.krb - 1) 16) (loopNext v).stage) f0 0
  else u

theorem looping_sc (t : Tile) (sd : BitVec 6) (v : W64) : (looping t sd v).sc = t.sc := by
  unfold looping
  dsimp only
  split <;> rfl

theorem exec_loopr {s : State} (h : Alone s .c) {sd : BitVec 6} {off : BitVec 21}
    (hin : (loopNext (s.src sd)).taken = true → s.inCode (s.relTarget off)) :
    exec (.loopr sd off) s = .next (s.withMe (if (loopNext (s.src sd)).taken
      then (looping s.me sd (s.src sd)).movedTo .c (BitVec.ofInt 21 (s.relTarget off)) 3
      else (looping s.me sd (s.src sd)).moved .c)) := by
  change execLoopr sd off s = _
  rw [← rs_eq h.2.1] at hin ⊢
  have hflying : (if (loopNext (s.rs sd)).rotate then
      let vrb := (s.result sd 1 (loopWord (s.rs sd)) f0).me.vrb - 1
      let krb := (s.result sd 1 (loopWord (s.rs sd)) f0).me.krb - 1
      (s.result sd 1 (loopWord (s.rs sd)) f0).fly 1 (.bases vrb krb (physK krb 16) (loopNext (s.rs sd)).stage) f0 0
      else s.result sd 1 (loopWord (s.rs sd)) f0) = s.withMe (looping s.me sd (s.rs sd)) := by
    rw [looping, result_eq h.2.1, withMe_me]
    split
    · rw [fly_eq, withMe_me, withMe_withMe]; rfl
    · rfl
  have hoff : (s.withMe (looping s.me sd (s.rs sd))).relTarget off = s.relTarget off := by
    rw [relTarget_alone h, relTarget_alone (s := s.withMe _) h, withMe_me, Tile.str, looping_sc]; rfl
  rw [execLoopr, issue_go _ h.1 (issue_taskBranch h hin)]
  simp only [hflying]
  rw [hoff, branch_eq (s := s.withMe _) h.2.1, withMe_withMe, withMe_me, withMe_focus, h.2.2]

/-! ## The counts of a trip register (R113) -/

section
variable {v : W64}

theorem loopNext_eq (v : W64) : loopNext v =
    if v.toNat % 2 ^ 32 ≠ 0 then ⟨v.toNat % 2 ^ 32 - 1, v.toNat / 2 ^ 32 % 2 ^ 8, true, true, true⟩
    else if v.toNat / 2 ^ 32 % 2 ^ 8 > 1 then ⟨0, v.toNat / 2 ^ 32 % 2 ^ 8 - 1, false, true, true⟩
    else if v.toNat / 2 ^ 32 % 2 ^ 8 = 1 then ⟨0, 0, false, true, false⟩ else ⟨0, 0, false, false, false⟩ := by
  have hlc : bits v.toNat 31 0 = v.toNat % 2 ^ 32 := by simp [bits]
  have hec : bits v.toNat 39 32 = v.toNat / 2 ^ 32 % 2 ^ 8 := by simp [bits]
  rw [loopNext, hlc, hec]

theorem loopNext_counting (hlc : v.toNat % 2 ^ 32 ≠ 0) :
    loopNext v = ⟨v.toNat % 2 ^ 32 - 1, v.toNat / 2 ^ 32 % 2 ^ 8, true, true, true⟩ := by
  rw [loopNext_eq, if_pos hlc]

theorem loopNext_draining (hlc : v.toNat % 2 ^ 32 = 0) (hec : v.toNat / 2 ^ 32 % 2 ^ 8 > 1) :
    loopNext v = ⟨0, v.toNat / 2 ^ 32 % 2 ^ 8 - 1, false, true, true⟩ := by
  rw [loopNext_eq, if_neg (not_not.mpr hlc), if_pos hec]

theorem loopNext_last (hlc : v.toNat % 2 ^ 32 = 0) (hec : v.toNat / 2 ^ 32 % 2 ^ 8 = 1) :
    loopNext v = ⟨0, 0, false, true, false⟩ := by
  rw [loopNext_eq, if_neg (not_not.mpr hlc), if_neg (by omega), if_pos hec]

theorem loopNext_done (hlc : v.toNat % 2 ^ 32 = 0) (hec : v.toNat / 2 ^ 32 % 2 ^ 8 = 0) :
    loopNext v = ⟨0, 0, false, false, false⟩ := by
  rw [loopNext_eq, if_neg (not_not.mpr hlc), if_neg (by omega), if_neg (by omega)]

/-- What stands above the counts stays. -/
theorem loopWord_eq (v : W64) : loopWord v =
    BitVec.ofNat 64 (v.toNat / 2 ^ 40 * 2 ^ 40 + (loopNext v).ec * 2 ^ 32 + (loopNext v).lc) := by
  have htop : bits v.toNat 63 40 = v.toNat / 2 ^ 40 := by
    have := v.isLt
    simp only [bits]
    omega
  rw [loopWord, htop]

theorem loopWord_counting (hlc : v.toNat % 2 ^ 32 ≠ 0) : loopWord v =
    BitVec.ofNat 64 (v.toNat / 2 ^ 40 * 2 ^ 40 + v.toNat / 2 ^ 32 % 2 ^ 8 * 2 ^ 32 + (v.toNat % 2 ^ 32 - 1)) := by
  rw [loopWord_eq, loopNext_counting hlc]

theorem loopWord_draining (hlc : v.toNat % 2 ^ 32 = 0) (hec : v.toNat / 2 ^ 32 % 2 ^ 8 > 1) : loopWord v =
    BitVec.ofNat 64 (v.toNat / 2 ^ 40 * 2 ^ 40 + (v.toNat / 2 ^ 32 % 2 ^ 8 - 1) * 2 ^ 32) := by
  rw [loopWord_eq, loopNext_draining hlc hec, Nat.add_zero]

theorem loopWord_top (hlc : v.toNat % 2 ^ 32 = 0) (hec : v.toNat / 2 ^ 32 % 2 ^ 8 ≤ 1) : loopWord v =
    BitVec.ofNat 64 (v.toNat / 2 ^ 40 * 2 ^ 40) := by
  have hnext : (loopNext v).ec = 0 ∧ (loopNext v).lc = 0 := by
    rw [loopNext_eq, if_neg (not_not.mpr hlc), if_neg (by omega)]
    split <;> exact ⟨rfl, rfl⟩
  rw [loopWord_eq, hnext.1, hnext.2, Nat.zero_mul, Nat.add_zero]

end

/-- Settles O13: a flag branch by the slot's test, a loopr by the case that its counts fall in. -/
theorem flagBranchesAndLoopClose : Obligations.FlagBranchesAndLoopClose := by
  refine ⟨fun s fs inv off h => ?flags, fun s sd off h => ?loop⟩
  case flags =>
    intro v there test holds
    have hthere : s.relTarget off = there := relTarget_alone h off
    have hholds : slotTest (s.me.slot fs.toNat) test.toNat = holds := by
      obtain ⟨h0, h1, h2, h3⟩ := slotTest_values (s.me.slot fs.toNat)
      simp only [holds]
      match test.toNat with
      | 0 => exact h0
      | 1 => exact h1
      | 2 => exact h2
      | k + 3 => exact h3 k
    have hbf := exec_bf h (fs := fs) (test := test) (inv := inv) (off := off)
    rw [hholds, hthere] at hbf
    refine ⟨fun hne hin => ?_, fun he => ?_⟩
    · rw [hbf fun _ => hin, if_pos (bne_iff_ne.mpr hne)]
    · rw [hbf fun hne => absurd he (bne_iff_ne.mp hne), if_neg (by simp [he])]
  case loop =>
    intro v lc ec top there out
    have hthere : s.relTarget off = there := relTarget_alone h off
    have hloop := exec_loopr h (sd := sd) (off := off)
    rw [hthere, looping] at hloop
    refine ⟨fun hlc hin => ?_, fun hlc hec hin => ?_, fun hlc hec => ?_, fun hlc hec => ?_⟩
    · rw [loopWord_counting hlc, loopNext_counting hlc] at hloop
      exact hloop fun _ => hin
    · rw [loopWord_draining hlc hec, loopNext_draining hlc hec] at hloop
      exact hloop fun _ => hin
    · rw [loopWord_top hlc hec.le, loopNext_last hlc hec] at hloop
      exact hloop nofun
    · rw [loopWord_top hlc (by omega), loopNext_done hlc hec] at hloop
      exact hloop nofun

end Sys2Proof.Proofs
end

section
/-! SUPPORT. Random numbers, tables and completion counters (R118 to R120, R127, R128): each said once, and O15. -/

namespace Sys2Proof.Proofs

open Sys2Proof.Machine Sys2Proof.Laws

section
variable {s : State} (h : Alone s .c)
include h

/-- A task's instruction that is one scalar result. -/
theorem exec_taskScalar {i : Instr} {sd : BitVec 6} {lat : Nat} {v : W64}
    (hi : exec i s = issue s (s.taskOnly .go) fun s' => (s'.result sd lat v f0).retire) :
    exec i s = .next (s.withMe ((s.me.flying lat (.scalar sd.toNat v) f0 0).moved .c)) := by
  rw [hi, issue_taskOnly_go h _ rfl, result_retire h]

/-- A task's instruction that is one result in flight of another kind. -/
theorem exec_taskFly {i : Instr} {g : State → Target}
    (hi : exec i s = issue s (s.taskOnly .go) fun s' => (s'.fly 1 (g s') f0 0).retire) :
    exec i s = .next (s.withMe ((s.me.flying 1 (g s) f0 0).moved .c)) := by
  rw [hi, issue_taskOnly_go h _ rfl, fly_eq, withMe_retire h.2.1, h.2.2]

/-- The next word of the C strand. -/
theorem retire_alone : s.retire = s.withMe (s.me.moved .c) := by rw [retire_eq h.2.1, h.2.2]

/-- A change of the tile, and the next word. -/
theorem onMe_retire (f : Tile → Tile) : (s.onMe f).retire = s.withMe ((f s.me).moved .c) := by
  rw [onMe_withMe, withMe_retire h.2.1, h.2.2]

theorem exec_btr (sd : BitVec 6) (idx : BitVec 12) : exec (.btr sd idx) s =
    .next (s.withMe ((s.me.flying 1 (.scalar sd.toNat (s.me.btReg idx.toNat)) f0 0).moved .c)) := by
  change execBtr sd idx s = _
  rw [execBtr, issue_taskOnly_go h _ rfl, result_retire h]

/-- `fcrd` acquires (R128). -/
theorem exec_fcrd (sd : BitVec 6) (idx : BitVec 12) : exec (.fcrd sd idx) s = .next (s.withMe
    ((s.me.flying 2 (.scalar sd.toNat ((s.me.fcReg idx.toNat).setWidth 64)) f0 0).acquire.moved .c)) := by
  change execFcrd sd idx s = _
  rw [execFcrd, issue_taskOnly_go h _ rfl, State.acquire, result_onMe_retire h]

theorem exec_fcw (idx : BitVec 12) (sa : BitVec 6) : exec (.fcw idx sa) s =
    .next (s.withMe ((s.me.setFc idx.toNat ((s.src sa).setWidth 32)).moved .c)) := by
  change execFcw idx sa s = _
  rw [execFcw, issue_taskOnly_go h _ rfl, onMe_retire h, rs_eq h.2.1]

/-- `fcwt` goes on, and acquires, where the counter has come to its number (R127, R128). -/
theorem exec_fcwt {idx : BitVec 12} {sa : BitVec 6}
    (hreached : (s.me.fcReg idx.toNat - (s.src sa).setWidth 32).toNat < 2 ^ 31) :
    exec (.fcwt idx sa) s = .next (s.withMe (s.me.acquire.moved .c)) := by
  change execFcwt idx sa s = _
  rw [execFcwt, issue_taskOnly_go h _ (wait_eq_go.mpr ?_), State.acquire, onMe_retire h]
  rw [rs_eq h.2.1, reached, csnReached, decide_eq_true hreached]

end

/-- Settles O15: an equation per instruction. -/
theorem tableAndCounterInstructions : Obligations.TableAndCounterInstructions := by
  intro s sd sa sb idx eng h out z0 z1 z2 z
  have hz : splitMix (s.rs sa) (s.rs sb) = z := by rw [rs_eq h.2.1, rs_eq h.2.1]; rfl
  have ha : s.rs sa = s.src sa := rs_eq h.2.1 sa
  refine ⟨?_, ?_, fun _ => exec_btr h sd idx, fun _ => ?_, fun _ => ?_, fun _ => ⟨?_, exec_fcw h idx sa, exec_fcwt h⟩⟩
  · rw [exec_taskScalar h (v := splitMix (s.rs sa) (s.rs sb)) rfl, hz]
  · rw [exec_taskScalar h (v := uniform32 (splitMix (s.rs sa) (s.rs sb))) rfl, hz]
  · rw [exec_taskFly h (g := fun s => .base idx.toNat (s.rs sa)) rfl, ha]
  · rw [exec_taskFly h (g := fun s => .loopCount eng.toNat idx.toNat ((s.rs sa).setWidth 32)) rfl, ha]
  · rw [exec_fcrd h, setWidth64_eq]

end Sys2Proof.Proofs
end

section
/-! SUPPORT. The trap (R135, R347, R350, R352, R353): what it leaves at its strand and in its stop record, and that the
strand issues no more; O16 and O17. -/

namespace Sys2Proof.Proofs

open Sys2Proof.Machine Sys2Proof.Laws

/-- The stop information that a trap leaves (R135, R352, R353). -/
def trapInfo (s : State) (imm : BitVec 24) : StopInfo :=
  ⟨true, false, cTRAP, 0, s.dcc, s.me.sc.pc, BitVec.ofNat 320 (imm.toNat * 2 ^ 104) ||| s.clockBits s.focus.tile, false⟩

/-- The tile whose C strand stands at its trap. -/
def trapped (s : State) (imm : BitVec 24) : Tile :=
  { s.me with
    sc := { s.me.sc with waiting := false, faulted := true }
    stops := SMap.put s.me.stops 0 (trapInfo s imm) }

/-- A unit that has taken no fault takes it: the stop information stands, and the halt line is raised. -/
theorem unitFault_open {s : State} {tid unit cause xr : Nat} {pc : BitVec 21} {aux : BitVec 320}
    (h : ∀ r, SMap.find (s.tile tid).stops unit = some r → r.own = false) :
    unitFault s tid unit cause xr pc aux = raiseHalt (s.setTile tid { s.tile tid with
      stops := SMap.put (s.tile tid).stops unit
        ⟨true, false, cause, xr, s.dcc, pc, if unit = 0 then aux ||| s.clockBits tid else aux, false⟩ })
      (s.tile tid).partition cause unit tid := by
  have hown : ((SMap.find (s.tile tid).stops unit).map (·.own)).getD false = false := by
    cases hf : SMap.find (s.tile tid).stops unit with
    | none => rfl
    | some r => exact h r hf
  rw [unitFault]
  simp only [hown, Bool.false_eq_true, if_false]

/-- The state as the trap's stop information stands, before the halt line. -/
def stopNoted (s : State) (imm : BitVec 24) : State :=
  s.withMe { s.me with stops := SMap.put s.me.stops 0 (trapInfo s imm) }

theorem exec_trap {s : State} (h : Alone s .c) (hown : ∀ r, SMap.find s.me.stops 0 = some r → r.own = false)
    (imm : BitVec 24) : exec (.trap imm) s =
    .next (stopStrand (raiseHalt (stopNoted s imm) s.me.partition cTRAP 0 s.focus.tile) s.focus.tile .c) := by
  obtain ⟨hm, hs, -⟩ := h
  change execTrap imm s = _
  rw [execTrap, if_neg (by omega), issue_go _ hm rfl, if_neg (by simp [hs]), unitFault_open hown]
  rfl

/-- The faulting strand stops where it is, and no other tile changes. -/
theorem trap_tiles (s : State) (imm : BitVec 24) (p cause src id : Nat) :
    let t := stopStrand (raiseHalt (stopNoted s imm) p cause src id) s.focus.tile .c
    t.me = trapped s imm ∧ ∀ k, k ≠ s.focus.tile → t.tile k = s.tile k := by
  intro t
  obtain ⟨htiles, hfocus⟩ := Prod.mk.inj (raiseHalt_site (stopNoted s imm) p cause src id)
  have htile (k : Nat) : (raiseHalt (stopNoted s imm) p cause src id).tile k = (stopNoted s imm).tile k := by
    rw [State.tile, htiles]; rfl
  refine ⟨?_, fun k hk => ?_⟩
  · have hme : t.me = t.tile s.focus.tile := by
      rw [State.me]; congr 1; exact congrArg Focus.tile hfocus
    refine hme.trans ((tile_onTile _ _ _).trans ?_)
    rw [htile, stopNoted, State.withMe, tile_setTile]
    rfl
  · refine (tile_onTile_ne _ _ hk).trans ?_
    rw [htile, stopNoted, State.withMe, tile_setTile_ne _ _ hk]

/-- HOLD and TCC of a C strand's record as numbers (R353). -/
theorem clockBits_eq (s : State) (tid : Nat) : s.clockBits tid = BitVec.ofNat 320 ((s.tile tid).hold % 2 ^ 64 * 2 ^ 192 +
    (s.dcc + 2 ^ 64 - (s.tile tid).hold % 2 ^ 64) % 2 ^ 64 * 2 ^ 128) := by
  rw [State.clockBits, tcc_eq, BitVec.toNat_ofNat]

/-- The immediate stands in bits 319:296 of the stop record, below the clock (R135). -/
theorem trapInfo_imm (s : State) (imm : BitVec 24) : (trapInfo s imm).aux.toNat / 2 ^ 104 % 2 ^ 24 = imm.toNat := by
  have himm := imm.isLt
  have htcc := (s.tcc s.focus.tile).isLt
  have hhold : (s.tile s.focus.tile).hold % 2 ^ 64 < 2 ^ 64 := Nat.mod_lt _ (by decide)
  have hclock : (s.clockBits s.focus.tile).toNat =
      2 ^ 128 * ((s.tile s.focus.tile).hold % 2 ^ 64 * 2 ^ 64 + (s.tcc s.focus.tile).toNat) := by
    rw [State.clockBits, BitVec.toNat_ofNat]
    omega
  have haux : (trapInfo s imm).aux.toNat =
      2 ^ 128 * ((s.tile s.focus.tile).hold % 2 ^ 64 * 2 ^ 64 + (s.tcc s.focus.tile).toNat) + imm.toNat * 2 ^ 104 := by
    rw [trapInfo, BitVec.toNat_or, hclock, BitVec.toNat_ofNat, Nat.mod_eq_of_lt (by omega), Nat.or_comm]
    exact (Nat.two_pow_add_eq_or_of_lt (by omega) _).symm
  rw [haux]
  omega

/-- Settles O16: the trap is its unit's first fault and the partition's, with the record and the word of HALTS that these
write. -/
theorem trapRaisesItsTerminalFault : Obligations.TrapRaisesItsTerminalFault := by
  intro s imm h hstops p hhalts
  have hown : ∀ r, SMap.find s.me.stops 0 = some r → r.own = false := by rw [hstops]; exact nofun
  obtain ⟨a, b, ha, ha', hb, hb', hraise⟩ :=
    raiseHalt_first (s := stopNoted s imm) (p := p) (cause := cTRAP) 0 s.focus.tile (by decide) hhalts
  obtain ⟨hme, hother⟩ := trap_tiles s imm p cTRAP 0 s.focus.tile
  have hexec := exec_trap h hown imm
  rw [hraise] at hexec hme hother
  refine ⟨_, hexec, rfl, hother, fun q hq => ?_, ?_, ?_, a, b, ha, ha', hb, hb', ?_⟩
  · exact congrArg (Option.getD · Partition.reset) (find_put_ne _ _ hq)
  · rw [hme, trapped, trapInfo, hstops, clockBits_eq]; rfl
  · simp only [stopStrand, State.onTile, State.setTile, State.part, find_put, Option.getD_some, haltsWord]
    rfl
  · simp only [stopStrand, State.onTile, State.setTile, State.part, find_put, Option.getD_some]

/-! ## A strand that has faulted (R72) -/

/-- A strand that has faulted stands still. -/
theorem step_faulted {u : State} {tid : Nat} {st : Strand} {rest : List Action} (hf : ((u.tile tid).str st).faulted = true)
    (h : u.agenda = .issue tid st :: rest) : step u = .next (({ u with agenda := rest } : State).atStrand tid st) := by
  refine step_changes h ?_
  have hm : (u.tile tid).mayIssue st = false := by simp [Tile.mayIssue, hf]
  change prepareIssue { u with agenda := rest } tid st = _
  rw [prepareIssue]
  exact if_pos (by rw [Bool.not_eq_true']; exact hm)

/-- All strands that issue together stand at the bundle, the C strand among them, and none has faulted (R23, R24). -/
theorem bundle_go {u : State} {tid : Nat} {c : Head} {l : List Stand} (h : u.bundle tid = .go c l) :
    (u.tile tid).sc.faulted = false := by
  by_cases hempty : u.stands tid = []
  · rw [State.bundle, hempty] at h
    simp at h
  by_cases hcome : ∀ x ∈ u.stands tid, comeTo (u.tile tid) x = true
  · rw [bundle_come hempty hcome] at h
    by_cases hfour : (u.stands tid).length = 4
    · obtain ⟨x, xs, hx⟩ := List.exists_cons_of_ne_nil hempty
      have hfind := stands_c_first hfour
      rw [hx, List.head?_cons] at hfind
      have hxc : x.1 = .c := by simpa using List.find?_some hfind
      have hxf := (comeTo_iff.mp (hcome x (hx ▸ List.mem_cons_self))).2.2
      rwa [hxc] at hxf
    · rw [if_pos (lt_of_le_of_ne (stands_length_le u tid) hfour)] at h
      cases h
  · rw [bundle_waits] at h
    · cases h
    · simp only [not_forall] at hcome
      obtain ⟨x, hx, hxc⟩ := hcome
      exact List.length_filter_lt_length_iff_exists.mpr ⟨x, hx, hxc⟩

/-- Settles O17: the trap's own record and the raised halt line; then a faulted strand issues neither alone nor in a
bundle. -/
theorem trapEndsTheCStrand : Obligations.TrapEndsTheCStrand := by
  refine ⟨fun s imm h hown => ?trap, fun u tid hf => ⟨fun rest h => step_faulted hf h, fun c l h => ?bundle⟩⟩
  case bundle => simp [bundle_go h] at hf
  case trap =>
    intro p
    obtain ⟨hme, -⟩ := trap_tiles s imm p cTRAP 0 s.focus.tile
    obtain ⟨-, hraised, -⟩ := raiseHalt_does (stopNoted s imm) p cTRAP 0 s.focus.tile
    refine ⟨_, trapInfo s imm, exec_trap h hown imm, ?_, rfl, rfl, rfl, trapInfo_imm s imm, ?_, hraised, fun hfirst => ?_⟩
    · rw [hme]; exact find_put _ _ _
    · rw [hme]; rfl
    · obtain ⟨a, b, -, -, -, -, hraise⟩ :=
        raiseHalt_first (s := stopNoted s imm) (p := p) (cause := cTRAP) 0 s.focus.tile (by decide) hfirst
      rw [hraise]
      simp only [stopStrand, State.onTile, State.setTile, State.part, find_put, Option.getD_some, Option.isSome_some, and_true]
      rw [haltsWord, BitVec.toNat_ofNat, cTRAP]
      omega

end Sys2Proof.Proofs
end

section
/-! SUPPORT. The shadow context (R136 to R138, R279): its own registers, its results and its instructions, and O18. -/

namespace Sys2Proof.Proofs

open Sys2Proof.Machine Sys2Proof.Laws

/-- The state in which the shadow context of the focus tile is another and nothing else has changed. -/
def withShadow (s : State) (h : Shadow) : State := s.withMe { s.me with shadow := some h }

/-- The context with a scalar result on its way. -/
def shadowFlying (h : Shadow) (lat : Nat) (sd : BitVec 6) (v : W64) : Shadow :=
  { h with flight := h.flight ++ [⟨lat, .scalar sd.toNat v, f0, 0⟩] }

theorem withShadow_withShadow (s : State) (h h' : Shadow) : withShadow (withShadow s h) h' = withShadow s h' := by
  simp only [withShadow, withMe_withMe, withMe_me]

section
variable {s : State} {h : Shadow} (hin : InShadow s h)
include hin

theorem withShadow_in (h' : Shadow) : InShadow (withShadow s h') h' := by
  obtain ⟨hm, hs, hst, -⟩ := hin
  refine ⟨hm, hs, hst, ?_⟩
  rw [withShadow, withMe_me]

/-- A change of the tile's context changes the one in service. -/
theorem onShadow_eq (f : Shadow → Shadow) : (s.onMe fun t => { t with shadow := t.shadow.map f }) = withShadow s (f h) := by
  obtain ⟨-, -, -, hsh⟩ := hin
  rw [onMe_withMe, withShadow, hsh]
  rfl

theorem shadow_retire : s.retire = withShadow s h.moved := by
  obtain ⟨-, hs, -, hsh⟩ := id hin
  have hpc : s.pcNow = h.st.pc := by simp [State.pcNow, hs, hsh]
  rw [State.retire, State.moveTo, if_pos hs, hpc]
  exact onShadow_eq hin _

theorem withShadow_retire (h' : Shadow) : (withShadow s h').retire = withShadow s h'.moved := by
  rw [shadow_retire (withShadow_in hin h'), withShadow_withShadow]

theorem shadow_result (sd : BitVec 6) (lat : Nat) (v : W64) :
    s.result sd lat v f0 = withShadow s (shadowFlying h lat sd v) := by
  obtain ⟨-, hs, -, -⟩ := id hin
  rw [State.result, if_pos hs]
  exact onShadow_eq hin _

/-- The context reads its own scalar registers, s0 as zero (R136). -/
theorem shadow_rs (r : BitVec 6) : s.rs r = if r = 0#6 then 0#64 else SMap.get 0#64 h.regs r.toNat := by
  obtain ⟨-, hs, -, hsh⟩ := hin
  rw [State.rs, if_pos hs, hsh]
  rfl

/-- The arithmetic of the C strand leaves its result in flight in the context (R136). -/
theorem scalarOp_shadow (sd : BitVec 6) (lat : Nat) (v : W64) :
    scalarOp s sd lat v = .next (withShadow s (shadowFlying h.moved lat sd v)) := by
  rw [scalarOp, issue_go _ hin.1 rfl, shadow_result hin, withShadow_retire hin]
  rfl

/-- An instruction that the context alone may issue. -/
theorem issue_shadowOnly_go (e : State → State) : issue s (s.shadowOnly .go) e = .next (e s) :=
  issue_go e hin.1 (by simp [State.shadowOnly, hin.2.1])

theorem exec_shi (sd : BitVec 6) (imm : BitVec 24) : exec (.shi sd imm) s =
    .next (withShadow s (shadowFlying h.moved 2 sd (h.items.getD imm.toNat 0))) := by
  change execShi sd imm s = _
  have hitems : (s.me.shadow.map (·.items)).getD [] = h.items := by rw [hin.2.2.2]; rfl
  rw [execShi, issue_shadowOnly_go hin, hitems, shadow_result hin, withShadow_retire hin]
  rfl

theorem exec_shret : exec .shret s = .next (withShadow s
    { h with done := true, st := { h.st.issued (h.st.pc + 8#21) 1 with running := false } }) := by
  change execShret s = _
  rw [execShret, issue_shadowOnly_go hin, shadow_retire hin, onShadow_eq (withShadow_in hin _),
    withShadow_withShadow]
  rfl

theorem exec_xlin_invalid {sa sb : BitVec 6} (hv : pteValid (s.rs sb).toNat = false) :
    exec (.xlin sa sb) s = .next (withShadow s h.moved) := by
  change execXlin sa sb s = _
  rw [execXlin, issue_shadowOnly_go hin, hv, if_pos (by decide), shadow_retire hin]

/-- A page entry reaches the TLB of the tile and the cache of its cluster (R137, R279). -/
theorem exec_xlin_page {sa sb : BitVec 6} (hv : pteValid (s.rs sb).toNat = true)
    (hm : pteMalformed (s.rs sb).toNat = false) (ht : pteTable (s.rs sb).toNat = false) :
    exec (.xlin sa sb) s = .next (((s.fillTlb s.focus.tile s.me.partition ((s.rs sa).toNat % 2 ^ 48) (s.rs sb)).fillCcache
      (s.focus.tile / 64) s.me.partition ((s.rs sa).toNat % 2 ^ 48) (s.rs sb)).retire) := by
  change execXlin sa sb s = _
  rw [execXlin, issue_shadowOnly_go hin, hv, hm, ht]
  rfl

end

/-- What the context alone may issue is ILLEGAL of a task (R78). -/
theorem issue_shadowOnly_faults {s : State} (h : Alone s .c) (hu : s.unfaulted) (c : Check) (e : State → State) :
    FaultsAt s (issue s (s.shadowOnly c) e) 0x01 :=
  issue_faultsAt (p := 0) e h.1 h.2.1 hu (by simp [State.shadowOnly, h.2.1, cILLEGAL])

/-- Settles O18: the refusals of a task's strand, then each instruction of the context by its effect on the context. -/
theorem theShadowContextComputesApart : Obligations.TheShadowContextComputesApart := by
  refine ⟨⟨fun s sd sa sb imm h hu => ?task, fun s h sd imm hin => ⟨fun _ => exec_shi hin sd imm, exec_shret hin⟩⟩,
    fun s h sd sa sb imm hin => ?arithmetic, fun s h sa sb hin => ⟨exec_xlin_invalid hin, exec_xlin_page hin⟩⟩
  case task =>
    change FaultsAt s (execShi sd imm s) _ ∧ FaultsAt s (execXlin sa sb s) _ ∧ FaultsAt s (execShret s) _
    rw [execShi, execXlin, execShret]
    exact ⟨issue_shadowOnly_faults h hu _ _, issue_shadowOnly_faults h hu _ _, issue_shadowOnly_faults h hu _ _⟩
  case arithmetic =>
    intro src out
    have hsrc : s.rs = src := funext (shadow_rs hin)
    rw [← hsrc]
    exact ⟨scalarOp_shadow hin sd 1 _, scalarOp_shadow hin sd 1 _, scalarOp_shadow hin sd 1 _, scalarOp_shadow hin sd 1 _⟩

end Sys2Proof.Proofs
end

section
/-! SUPPORT. The hurdle instructions of a tile (R121 to R123, R287): each said once, and O19. -/

namespace Sys2Proof.Proofs

open Sys2Proof.Machine Sys2Proof.Laws

section
variable {s : State} (h : Alone s .c)
include h

/-- `harr` sends the arrival of its rank to the home and acquires (R122, R287). -/
theorem exec_harr {r : Residence} {idx : BitVec 12} (hres : s.me.res = some r)
    (hcfg : (s.me.hurdle idx.toNat).cfg = true) (hpend : (s.me.hurdle idx.toNat).pend = false) (hidle : s.me.dIdle = true) :
    let home := s.home r.part r.lid idx.toNat (scopeNo (s.me.hurdle idx.toNat).scope s.focus.tile)
    exec (.harr idx) s = .next ((s.setHome { home with transit := home.transit ++ [(r.rank, 0)] }).withMe
      ((s.me.acquire.setHurdle idx.toNat { s.me.hurdle idx.toNat with pend := true }).moved .c)) := by
  intro home
  change execHarr idx s = _
  rw [execHarr, issue_taskOnly_go h _ (by simp [hcfg, hpend, hidle])]
  simp only [hres]
  rw [State.acquire, onMe_onMe, onMe_retire (s := s.setHome _) h]
  rfl

theorem exec_hwt {idx : BitVec 12} (hpend : (s.me.hurdle idx.toNat).pend = false) :
    exec (.hwt idx) s = .next (s.withMe (s.me.acquire.moved .c)) := by
  change execHwt idx s = _
  rw [execHwt, issue_taskOnly_go h _ (by simp [hpend]), State.acquire, onMe_retire h]

theorem exec_hpoll (sd : BitVec 6) (idx : BitVec 12) : exec (.hpoll sd idx) s = .next (s.withMe
    ((s.me.flying 2 (.scalar sd.toNat (s.hurdleWord s.focus.tile idx.toNat)) f0 0).moved .c)) := by
  change execHpoll sd idx s = _
  rw [execHpoll, issue_taskOnly_go h _ rfl, result_retire h]

theorem exec_hset {r : Residence} {idx : BitVec 12} {sa : BitVec 6} (hres : s.me.res = some r)
    (hgo : s.hsetCheck idx.toNat (s.src sa) = .go) :
    exec (.hset idx sa) s = .next (({ s with hsets := s.hsets ++ [⟨r.part, r.lid, idx.toNat,
      bits (s.src sa).toNat 61 60, bits (s.src sa).toNat 31 16, hurdleLatency (s.placeOf r.part r.lid) 8⟩] } : State).withMe
        (s.me.moved .c)) := by
  change execHset idx sa s = _
  rw [← rs_eq h.2.1] at hgo ⊢
  rw [execHset, issue_taskOnly_go h _ hgo]
  simp only [hres]
  exact congrArg _ (retire_alone (s := { s with hsets := _ }) h)

theorem exec_hset_faults {idx : BitVec 12} {sa : BitVec 6} {cause : Nat} (hu : s.unfaulted)
    (hf : s.hsetCheck idx.toNat (s.src sa) = .fault cause 0) : FaultsAt s (exec (.hset idx sa) s) cause := by
  change FaultsAt s (execHset idx sa s) cause
  rw [execHset]
  exact issue_faultsAt _ h.1 h.2.1 hu (by rw [taskOnly_eq h.2.1, rs_eq h.2.1, hf])

end

/-! ## The checks of hset (R123) -/

section
variable {s : State} {r : Residence} {n : Nat} {a : W64} (hres : s.me.res = some r)
include hres

theorem hsetCheck_perm (h : r.rank ≠ 0 ∨ (s.me.hurdle n).ss = true) : s.hsetCheck n a = .fault cPERM 0 := by
  simp only [State.hsetCheck, hres]
  exact if_pos h

/-- The scope and the target of R121's limits. -/
def hsetWithin (a : W64) : Prop :=
  a.toNat / 2 ^ 60 % 4 < 2 ∧ 0 < a.toNat / 2 ^ 16 % 2 ^ 16 ∧
    a.toNat / 2 ^ 16 % 2 ^ 16 ≤ if a.toNat / 2 ^ 60 % 4 = 0 then 48 else 384

theorem hsetCheck_limits (hrank : r.rank = 0) (hss : (s.me.hurdle n).ss = false) (h : ¬ hsetWithin a) :
    s.hsetCheck n a = .fault cILLEGAL 0 := by
  have hbad : a.toNat / 2 ^ 16 % 2 ^ 16 = 0 ∨ a.toNat / 2 ^ 60 % 4 ≥ 2 ∨
      a.toNat / 2 ^ 16 % 2 ^ 16 > if a.toNat / 2 ^ 60 % 4 = 0 then 48 else 384 := by
    by_contra hno
    exact h ⟨by omega, by omega, by omega⟩
  simp only [State.hsetCheck, hres]
  rw [if_neg (by simp [hrank, hss])]
  exact if_pos hbad

theorem hsetCheck_go (hrank : r.rank = 0) (hss : (s.me.hurdle n).ss = false) (h : hsetWithin a)
    (hhomes : ∀ x ∈ s.homesOf r.part r.lid n (s.me.hurdle n).scope, x.coming = false ∧ x.count = 0) :
    s.hsetCheck n a = .go := by
  obtain ⟨hscope, hpos, hmax⟩ := h
  simp only [State.hsetCheck, hres]
  rw [if_neg (by simp [hrank, hss])]
  refine (if_neg ?_).trans ?_
  · change ¬ (a.toNat / 2 ^ 16 % 2 ^ 16 = 0 ∨ a.toNat / 2 ^ 60 % 4 ≥ 2 ∨
      a.toNat / 2 ^ 16 % 2 ^ 16 > if a.toNat / 2 ^ 60 % 4 = 0 then 48 else 384)
    omega
  · rw [if_neg, if_neg]
    · simpa using fun x hx => (hhomes x hx).2
    · simpa using fun x hx => (hhomes x hx).1

end

/-- Settles O19: an equation per instruction, and hset by its checks. -/
theorem hurdleInstructions : Obligations.HurdleInstructions := by
  intro s r idx sd sa h hres _ n hd home a
  refine ⟨fun hcfg hpend hidle => exec_harr h hres hcfg hpend hidle, fun hpend => exec_hwt h hpend,
    exec_hpoll h sd idx, fun hrank hss hscope hpos hmax hhomes => ?_, fun hu => ⟨fun hperm => ?_, fun hrank hss hbad => ?_⟩⟩
  · exact exec_hset h hres (hsetCheck_go hres hrank hss ⟨hscope, hpos, hmax⟩ hhomes)
  · exact exec_hset_faults h hu (hsetCheck_perm hres hperm)
  · refine exec_hset_faults h hu (hsetCheck_limits hres hrank hss fun ⟨hscope, hpos, hmax⟩ => ?_)
    rcases hbad with hbad | hbad | hbad
    · exact absurd hscope (Nat.not_lt.mpr hbad)
    · exact absurd hbad hpos.ne'
    · exact absurd hmax (Nat.not_le.mpr hbad)

end Sys2Proof.Proofs
end

section
/-! SUPPORT. Launches, cancels and waits for units (R126, R129, R337, R361): each said once, and O20. -/

namespace Sys2Proof.Proofs

open Sys2Proof.Machine Sys2Proof.Laws

/-- A global pointer at a multiple of the alignment raises no fault where global memory is in reach (R173, R215). -/
theorem ptrFault_global {p : W64} {align : Nat} (h : GlobalPointer p align) (tid : Nat) (cluster : Bool) :
    ptrFault tid ⟨cluster, true⟩ p 0 align = none := by
  obtain ⟨hlt, hal⟩ := h
  have hwin : bits p.toNat 63 60 = 0 := by simp only [bits]; omega
  have hlow : bits p.toNat 47 0 = p.toNat := by simp only [bits]; omega
  have hres : ptrReserved p.toNat = false := by
    simp only [ptrReserved, hwin]
    simp [bits]; omega
  simp only [ptrFault, hwin, hres, hlow]
  rw [if_neg (by decide), if_neg (by simp), if_neg (by simp), if_neg (by simp), if_neg (by simp), if_neg]
  simp only [if_true, Int.add_zero, ne_eq, not_not]
  exact_mod_cast hal

/-- The pointers of launch records (R126). -/
theorem lnchFault_none {s : State} {p : W64}
    (h : GlobalPointer p 64 ∨ (s.OwnLine p ∧ p.toNat / 2 ^ 60 = 9)) : lnchFault s.focus.tile p = none := by
  have hp := p.isLt
  have hwin : bits p.toNat 63 60 = p.toNat / 2 ^ 60 := by simp only [bits]; omega
  simp only [lnchFault, hwin]
  rcases h with hg | ⟨⟨hown, hal⟩, h9⟩
  · obtain ⟨hlt, -⟩ := id hg
    rw [if_neg (by omega), ptrFault_global hg]
  · rw [if_neg (by omega), ptrFault_none hown]
    omega

section
variable {s : State} (h : Alone s .c)
include h

/-- `lnch` hands over its pointer and what is known of its task (R126). -/
theorem exec_lnch {sa : BitVec 6} (hptr : lnchFault s.focus.tile (s.src sa) = none)
    (hroom : s.launchQueue s.me.partition < 16) :
    exec (.lnch sa) s = .next (({ s with
      incoming := s.incoming ++ [⟨s.me.partition, s.focus.tile / 256, s.src sa, some s.focus.tile, none, s.me.world,
        s.jobOf s.me, s.me.dseq, s.foldOfTile s.me⟩] } : State).withMe (s.me.moved .c)) := by
  change execLnch sa s = _
  rw [← rs_eq h.2.1] at hptr ⊢
  rw [execLnch, hptr, issue_taskOnly_go h _ (by simp [hroom])]
  exact congrArg _ (retire_alone (s := { s with incoming := _ }) h)

/-- The check that `cncl` and `lvwt` make of the unit they name (R129). -/
theorem exec_cncl {lvl : BitVec 2} {sa : BitVec 6} (hown : s.foreignUnit lvl.toNat ((s.src sa).toNat % 2 ^ 32) = false) :
    exec (.cncl lvl sa) s = .next ((s.withMe (s.me.moved .c)).cancelLater s.me.partition lvl.toNat
      ((s.src sa).toNat % 2 ^ 32)) := by
  change execCncl lvl sa s = _
  rw [← rs_eq h.2.1] at hown ⊢
  rw [execCncl, issue_taskOnly_go h _ (need_eq_go.mpr (by rw [hown]; rfl)), retire_alone h]
  rfl

theorem exec_cncl_faults {lvl : BitVec 2} {sa : BitVec 6} (hu : s.unfaulted)
    (hforeign : s.foreignUnit lvl.toNat ((s.src sa).toNat % 2 ^ 32) = true) : FaultsAt s (exec (.cncl lvl sa) s) 0x06 := by
  change FaultsAt s (execCncl lvl sa s) _
  rw [← rs_eq h.2.1] at hforeign
  rw [execCncl]
  exact issue_faultsAt (p := 0) _ h.1 h.2.1 hu (by rw [taskOnly_eq h.2.1, hforeign]; rfl)

end

/-- Has the unit that a wait names come to its value (R129)? -/
def waitOver (s : State) (lvl : BitVec 2) (id : Nat) (n : W32) : Bool :=
  match s.lastUnit s.myPart lvl.toNat id with
  | some u => (s.jobUnits s.myPart (s.jobOf s.me)).contains u && reached u.counter n
  | none => false

theorem waitOver_eq {s : State} {lvl : BitVec 2} {id : Nat} {n : W32} {u : WorkUnit}
    (hu : s.lastUnit s.me.partition lvl.toNat id = some u) (hmem : u ∈ s.jobUnits s.me.partition (s.jobOf s.me)) :
    waitOver s lvl id n = decide ((u.counter - n).toNat < 2 ^ 31) := by
  have hcontains : (s.jobUnits s.me.partition (s.jobOf s.me)).contains u = true := by simpa using hmem
  rw [waitOver, State.myPart, hu]
  simp only [hcontains, Bool.true_and, reached, csnReached]

/-- `lvwt`: the check of its unit, then its wait (R129). -/
theorem exec_lvwt_issue (s : State) (lvl : BitVec 2) (sa sb : BitVec 6) : exec (.lvwt lvl sa sb) s =
    issue s (s.taskOnly ((Check.need (!s.foreignUnit lvl.toNat ((s.rs sa).toNat % 2 ^ 32)) cPERM 0).and
      (Check.wait (s.foreignUnit lvl.toNat ((s.rs sa).toNat % 2 ^ 32) ||
        waitOver s lvl ((s.rs sa).toNat % 2 ^ 32) ((s.rs sb).setWidth 32)) 5 lvl.toNat))) State.retire := rfl

/-- Settles O20: lnch by its pointer, cncl and lvwt by the unit they name. -/
theorem launchCancelAndWaitInstructions : Obligations.LaunchCancelAndWaitInstructions := by
  refine ⟨fun s sa h hptr hroom => exec_lnch h (lnchFault_none hptr) hroom, fun s lvl sa sb h => ?units⟩
  intro id p
  have hlvwt := exec_lvwt_issue s lvl sa sb
  rw [rs_eq h.2.1, rs_eq h.2.1, taskOnly_eq h.2.1] at hlvwt
  refine ⟨fun hown => ⟨exec_cncl h hown, fun u hu hmem => ?own⟩, fun hforeign hu => ⟨exec_cncl_faults h hu hforeign, ?foreign⟩⟩
  case own =>
    rw [hown, waitOver_eq hu hmem] at hlvwt
    refine ⟨fun hcome => ?_, fun hnot => ?_⟩
    · rw [decide_eq_true hcome] at hlvwt
      exact hlvwt.trans ((issue_go (c := .go) _ h.1 rfl).trans (congrArg Host.Outcome.next (retire_alone h)))
    · rw [decide_eq_false (by omega)] at hlvwt
      rw [hlvwt]
      exact issue_waitsAt _ h.1 rfl
  case foreign =>
    rw [hforeign] at hlvwt
    exact exec_faultsAt (p := 0) h hu hlvwt rfl

end Sys2Proof.Proofs
end

section
/-! SUPPORT. Points of pre-emption and trace events (R130, R132, R134, R359, R434): each said once, and O21. -/

namespace Sys2Proof.Proofs

open Sys2Proof.Machine Sys2Proof.Laws

section
variable {s : State} (h : Alone s .c)
include h

theorem exec_phint (imm : BitVec 24) : exec (.phint imm) s = .next (s.withMe
    (if s.me.preq.isSome then (s.me.moved .c).takeDrain imm else s.me.moved .c)) := by
  change execPhint imm s = _
  rw [execPhint, issue_taskOnly_go h _ rfl, retire_alone h]
  split
  · rw [withMe_onMe]
  · rfl

theorem exec_yield (imm : BitVec 24) : exec (.yield imm) s = .next
    (if s.me.preq.isNone ∧ s.spareSlots s.me.partition = 0 then s.withMe (s.me.moved .c)
      else s.reserveMine.retire.onMe fun t => t.takeDrain imm) := by
  change execYield imm s = _
  rw [execYield, issue_taskOnly_go h _ rfl, retire_alone h]
  rfl

theorem exec_trace (sa : BitVec 6) (imm : BitVec 24) : exec (.trace sa imm) s = .next
    (if (s.part s.me.partition).reg.toNat.testBit 15 then (s.traceAt s.focus.tile ⟨s.me.partition, 0, imm.toNat, s.src sa,
      0, s.focus.tile, s.me.taskid, s.tcc s.focus.tile⟩).retire else s.withMe (s.me.moved .c)) := by
  change execTrace sa imm s = _
  rw [execTrace, issue_taskOnly_go h _ rfl, rs_eq h.2.1, Partition.trcOn, bitAt_testBit, State.myPart]
  split
  · rfl
  · rw [retire_alone h]

end

/-- Reserving a slot changes partitions alone, and the task of the tile then has one. -/
theorem reserveMine_does (s : State) : s.reserveMine = { s with parts := s.reserveMine.parts } ∧
    ∀ r, s.me.res = some r → (r.lid, r.rank) ∈ (s.reserveMine.part r.part).reserved := by
  unfold State.reserveMine
  cases hres : s.me.res with
  | none => exact ⟨rfl, nofun⟩
  | some r =>
    dsimp only
    split
    · refine ⟨rfl, fun r' hr' => ?_⟩
      cases hr'
      simpa [State.reservedFor] using ‹s.reservedFor r = true›
    · refine ⟨rfl, fun r' hr' => ?_⟩
      cases hr'
      rw [part_onPart]
      simp

/-- Settles O21: phint and yield by their request and slot, trace by the partition's tracing. -/
theorem preemptionPointsAndTrace : Obligations.PreemptionPointsAndTrace := by
  refine ⟨fun s imm h => ?points, fun s sa imm h => ⟨fun hoff => ?_, fun hon => ?_⟩⟩
  case points =>
    intro on
    refine ⟨fun hno => ?_, fun hreq => ?_, fun hno hslots => ?_, fun htake => ?yield⟩
    · rw [exec_phint h, hno]; rfl
    · rw [exec_phint h, if_pos hreq, Tile.takeDrain]
      have hreq' : (s.me.moved .c).preq.isSome = true := hreq
      rw [hreq']
    · rw [exec_yield h, if_pos ⟨by rw [hno]; rfl, hslots⟩]
    case yield =>
      obtain ⟨hframe, hreserved⟩ := reserveMine_does s
      generalize hu : s.reserveMine = u at hframe hreserved
      have hnot : ¬ (s.me.preq.isNone ∧ s.spareSlots s.me.partition = 0) := by
        rintro ⟨hnone, hzero⟩
        rcases htake with hreq | hslot
        · rw [Option.isNone_iff_eq_none.mp hnone] at hreq; cases hreq
        · exact hslot hzero
      have hshadow : u.focus.shadow = false := by rw [hframe]; exact h.2.1
      have hfocus : u.focus = s.focus := by rw [hframe]
      have hme : u.me = s.me := by rw [hframe]; rfl
      have hnext : (u.retire.onMe fun t => t.takeDrain imm) = u.withMe ((s.me.moved .c).takeDrain imm) := by
        rw [retire_eq hshadow, withMe_onMe, hme, hfocus, h.2.2]
      refine ⟨u.withMe ((s.me.moved .c).takeDrain imm), ?_, ?_, ?_, fun k hk => ?_, fun r hr => ?_⟩
      · rw [exec_yield h, if_neg hnot, hu, hnext]
      · rw [hframe]; rfl
      · rw [withMe_me]; rfl
      · rw [State.withMe, tile_setTile_ne _ _ (by rw [hfocus]; exact hk), hframe]; rfl
      · exact hreserved r hr
  · rw [exec_trace h, if_neg (by simp [hoff])]
  · rw [exec_trace h, if_pos hon]

end Sys2Proof.Proofs
end

section
/-! SUPPORT. A change made at one tile after another: what the whole list of changes makes of one tile. -/

namespace Sys2Proof.Proofs

open Sys2Proof.Machine Sys2Proof.Laws

/-- Changes that each act on a tile by what it is act on it one after another. -/
theorem foldl_tile {α : Type} {f : State → α → State} {g : α → Tile → Tile} {k : Nat}
    (hf : ∀ s x, (f s x).tile k = g x (s.tile k)) (l : List α) (s : State) :
    (l.foldl f s).tile k = l.foldl (fun t x => g x t) (s.tile k) := by
  induction l generalizing s with
  | nil => rfl
  | cons x l ih => rw [List.foldl_cons, ih, hf, List.foldl_cons]

/-- Changes none of which changes anything. -/
theorem foldl_idle {α β : Type} {g : α → β → β} {t : β} {l : List α} (h : ∀ x ∈ l, g x t = t) :
    l.foldl (fun t x => g x t) t = t := by
  induction l with
  | nil => rfl
  | cons x l ih =>
    rw [List.foldl_cons, h x List.mem_cons_self, ih fun y hy => h y (List.mem_cons_of_mem x hy)]

/-- Of distinct changes one acts alone. -/
theorem foldl_once {α β : Type} {g : α → β → β} {t : β} {l : List α} {a : α} (hnd : l.Nodup) (ha : a ∈ l)
    (hbefore : ∀ x ∈ l, x ≠ a → g x t = t) (hafter : ∀ x ∈ l, x ≠ a → g x (g a t) = g a t) :
    l.foldl (fun t x => g x t) t = g a t := by
  obtain ⟨pre, post, rfl⟩ := List.append_of_mem ha
  have hne : ∀ x, x ∈ pre ∨ x ∈ post → x ≠ a := by
    rintro x hx rfl
    rw [List.nodup_append] at hnd
    obtain ⟨-, hpost, hdisj⟩ := hnd
    rcases hx with hx | hx
    · exact hdisj x hx x List.mem_cons_self rfl
    · exact (List.nodup_cons.mp hpost).1 hx
  rw [List.foldl_append, foldl_idle fun x hx => hbefore x (List.mem_append_left _ hx) (hne x (.inl hx)), List.foldl_cons]
  exact foldl_idle fun x hx =>
    hafter x (List.mem_append_right _ (List.mem_cons_of_mem a hx)) (hne x (.inr hx))

/-- A tile after a change of one tile where a condition holds of it. -/
theorem tile_onTile_if {c : Prop} [Decidable c] (s : State) (at_ : Nat) (m : Tile → Tile) (k : Nat) :
    (if c then s.onTile at_ m else s).tile k = if k = at_ ∧ c then m (s.tile k) else s.tile k := by
  by_cases hc : c
  · by_cases hk : k = at_
    · subst hk; rw [if_pos hc, if_pos ⟨rfl, hc⟩, tile_onTile]
    · rw [if_pos hc, if_neg fun h => hk h.1, tile_onTile_ne _ _ hk]
  · rw [if_neg hc, if_neg fun h => hc h.2]

end Sys2Proof.Proofs
end

section
/-! SUPPORT. Homes of hurdles (R121 to R125, R333): the arrivals that count, the completion of a phase, a reconfiguration,
and O53. -/

namespace Sys2Proof.Proofs

open Sys2Proof.Machine Sys2Proof.Laws

/-! ## Arrivals (R124) -/

theorem mem_insertBy {α : Type} (le : α → α → Bool) (x a : α) (l : List α) : a ∈ insertBy le x l ↔ a = x ∨ a ∈ l := by
  induction l with
  | nil => simp [insertBy]
  | cons y l ih =>
    unfold insertBy
    split
    · simp
    · rw [List.mem_cons, ih, List.mem_cons]; tauto

theorem mem_sortBy {α : Type} (le : α → α → Bool) (a : α) (l : List α) : a ∈ sortBy le l ↔ a ∈ l := by
  induction l with
  | nil => rfl
  | cons x l ih => rw [sortBy, List.foldr_cons, mem_insertBy, ← sortBy, ih, List.mem_cons]

/-- The latency of a scope (R124). -/
theorem hurdleLatency_eq (place : List Nat) (no : Nat) : hurdleLatency place no = if no ≠ 8 then 16
    else if (∃ t ∈ place, t < 256) ∧ (∃ t ∈ place, 256 ≤ t) then 80 else 48 := by
  have hspans : spansDies place = true ↔ (∃ t ∈ place, t < 256) ∧ ∃ t ∈ place, 256 ≤ t := by
    simp [spansDies, List.any_eq_true]
  simp only [hurdleLatency, hspans]

/-- The arrivals at a home in the order in which they count: those held, then those of the clk, each by rank. -/
def arrivals (h : Home) : List (Nat × Nat) :=
  sortBy (fun a b => decide (a.1 ≤ b.1)) (h.held.map fun k => (k, 0)) ++ sortBy (fun a b => decide (a.1 ≤ b.1)) h.transit

/-- No arrival is older than the latency where none on its way is. -/
theorem arrivals_ages {h : Home} {lr : Nat} (ht : ∀ x ∈ h.transit, x.2 ≤ lr) : ∀ x ∈ arrivals h, x.2 ≤ lr := by
  intro x hx
  rw [arrivals, List.mem_append, mem_sortBy, mem_sortBy] at hx
  rcases hx with hx | hx
  · obtain ⟨k, -, rfl⟩ := List.mem_map.mp hx
    exact Nat.zero_le lr
  · exact ht x hx

/-- The least of some ages, none above the bound that it starts from. -/
theorem foldl_min_least {l : List Nat} {lr : Nat} (hne : l ≠ []) (hle : ∀ x ∈ l, x ≤ lr) :
    l.foldl min lr ∈ l ∧ ∀ x ∈ l, l.foldl min lr ≤ x := by
  obtain ⟨hmem, hmin⟩ := List.min?_eq_some_iff.mp (List.min?_cons' (x := lr) (xs := l))
  refine ⟨?_, fun x hx => hmin x (List.mem_cons_of_mem _ hx)⟩
  rcases List.mem_cons.mp hmem with he | hmem
  · obtain ⟨x, hx⟩ := List.exists_mem_of_ne_nil l hne
    have := hmin x (List.mem_cons_of_mem _ hx)
    have := hle x hx
    rw [show l.foldl min lr = x by omega]
    exact hx
  · exact hmem

/-- Arrivals while a phase is about to complete, or has its count, all wait (R124). -/
theorem arrive_waits {h : Home} {target : Nat} (lr : Nat) (hwait : h.due.isSome = true ∨ h.closing = true ∨ target ≤ h.count) :
    h.arrive target lr = { h with transit := [], held := (arrivals h).map (·.1) } := by
  have hroom : (if h.due.isSome || h.closing then 0 else target - h.count) = 0 := by
    split
    · rfl
    · rename_i hno
      simp only [Bool.or_eq_true, not_or] at hno
      rcases hwait with hw | hw | hw
      · exact absurd hw hno.1
      · exact absurd hw hno.2
      · omega
  simp only [Home.arrive, hroom]
  cases hd : h.due with
  | none => simp [arrivals]
  | some n => simp [arrivals]

/-- Arrivals that leave the phase short of its target all count. -/
theorem arrive_short {h : Home} {target : Nat} (lr : Nat) (hd : h.due = none) (hc : h.closing = false)
    (hlt : h.count + (arrivals h).length < target) : h.arrive target lr = { h with
      transit := [], held := [], count := h.count + (arrivals h).length, counted := h.counted ++ (arrivals h).map (·.1) } := by
  have htake : (arrivals h).take (target - h.count) = arrivals h := List.take_of_length_le (by omega)
  have hdrop : (arrivals h).drop (target - h.count) = [] := List.drop_of_length_le (by omega)
  rw [arrivals] at htake hdrop
  simp only [Home.arrive, hd, hc, Option.isSome_none, Bool.or_self, Bool.false_eq_true, if_false, htake, hdrop]
  rw [if_neg fun hge => absurd hge.1 (by rw [arrivals] at hlt; omega)]
  rfl

/-- Arrivals that fill the phase: as many count as are wanted, and the phase completes the latency after the issue of
the last of them. -/
theorem arrive_fills {h : Home} {target lr : Nat} (hd : h.due = none) (hc : h.closing = false) (hlt : h.count < target)
    (hle : target ≤ h.count + (arrivals h).length) (ht : ∀ x ∈ h.transit, x.2 ≤ lr) :
    ∃ age, (∃ x ∈ (arrivals h).take (target - h.count), x.2 = age) ∧ (∀ x ∈ (arrivals h).take (target - h.count), age ≤ x.2) ∧
      h.arrive target lr = { h with
        transit := [], count := target, counted := h.counted ++ ((arrivals h).take (target - h.count)).map (·.1)
        held := ((arrivals h).drop (target - h.count)).map (·.1), due := some (lr - age) } := by
  have hlen : ((arrivals h).take (target - h.count)).length = target - h.count := List.length_take_of_le (by omega)
  have hne : (arrivals h).take (target - h.count) ≠ [] := by
    intro he; rw [he] at hlen; simp only [List.length_nil] at hlen; omega
  obtain ⟨hmem, hmin⟩ := foldl_min_least (l := ((arrivals h).take (target - h.count)).map (·.2)) (lr := lr) (by simpa using hne)
    fun a ha => by
      obtain ⟨x, hx, rfl⟩ := List.mem_map.mp ha
      exact arrivals_ages ht x (List.mem_of_mem_take hx)
  refine ⟨_, List.mem_map.mp hmem, fun x hx => hmin _ (List.mem_map_of_mem hx), ?_⟩
  rw [arrivals] at hlen hne
  simp only [Home.arrive, hd, hc, Option.isSome_none, Bool.or_self, Bool.false_eq_true, if_false, hlen]
  rw [if_pos ⟨by omega, by omega, by simpa using hne⟩, Nat.add_sub_cancel' hlt.le]
  rfl

theorem hurdleTask_runs {s : State} {r : Residence} (hf : s.focus.follow = false) (hr : s.me.res = some r) :
    s.hurdleTask = some (r.part, r.lid, s.me) := by
  simp [State.hurdleTask, hf, hr]

theorem exec_hurdleArrival {s : State} {r : Residence} (hf : s.focus.follow = false) (hr : s.me.res = some r) :
    let h := s.me.hurdle s.focus.idx
    let no := scopeNo h.scope s.focus.tile
    let home := s.home r.part r.lid s.focus.idx no
    home.transit ≠ [] ∨ home.held ≠ [] → exec .hurdleArrival s =
      .next (s.setHome (home.arrive h.target (hurdleLatency (s.placeOf r.part r.lid) no))) := by
  intro h no home hne
  change execHurdleArrival s = _
  simp only [execHurdleArrival, hurdleTask_runs hf hr]
  rw [if_neg]
  simpa [imp_iff_not_or] using hne

/-! ## The completion of a phase (R124, R125, R333) -/

/-- The home of a scope carries the names it is found by. -/
theorem home_same (s : State) (p lid n no : Nat) : (s.home p lid n no).same p lid n no = true := by
  unfold State.home
  cases hf : s.homes.find? fun h => h.same p lid n no with
  | none => simp [Home.same]
  | some h => simpa using List.find?_some hf

/-- A home that has been stored is the one found. -/
theorem home_setHome {s : State} {h : Home} {p lid n no : Nat} (hs : h.same p lid n no = true) :
    (s.setHome h).home p lid n no = h := by
  simp [State.home, State.setHome, hs]

theorem phaseDone_eq (t : Tile) (n : Nat) (counted : Bool) : t.phaseDone n counted = { t with
    hur := SMap.set Hurdle.idle t.hur n { t.hurdle n with
      phase := !(t.hurdle n).phase, pend := (t.hurdle n).pend && !counted }
    hold := if (t.hurdle n).ss then 0 else t.hold } := by
  by_cases hss : (t.hurdle n).ss = true
  · rw [if_pos hss]; exact if_pos hss
  · rw [if_neg hss]; exact if_neg hss

/-- A completed phase leaves the tile's task. -/
theorem phaseDone_res (t : Tile) (n : Nat) (counted : Bool) : (t.phaseDone n counted).res = t.res := by
  rw [phaseDone_eq]

/-- The task of a tile: its partition, its launch and its rank. -/
def taskOf (t : Tile) : Option (Nat × Nat × Nat) := t.res.map fun x => (x.part, x.lid, x.rank)

/-- The completion at the tile of one rank, where the tile runs that task. -/
def completeAt (p lid n : Nat) (place counted : List Nat) (s : State) (k : Nat) : State :=
  if taskOf (s.tile (place.getD k 0)) = some (p, lid, k) then
    s.onTile (place.getD k 0) fun t => t.phaseDone n (counted.contains k)
  else s

/-- What that makes of one tile. -/
def completedTile (p lid n : Nat) (place counted : List Nat) (tid k : Nat) (t : Tile) : Tile :=
  if tid = place.getD k 0 ∧ taskOf t = some (p, lid, k) then t.phaseDone n (counted.contains k) else t

theorem completeAt_tile (p lid n : Nat) (place counted : List Nat) (tid : Nat) (s : State) (k : Nat) :
    (completeAt p lid n place counted s k).tile tid = completedTile p lid n place counted tid k (s.tile tid) := by
  rw [completeAt, tile_onTile_if, completedTile]
  by_cases htid : tid = place.getD k 0
  · subst htid; rfl
  · rw [if_neg fun h => htid h.1, if_neg fun h => htid h.1]

/-- A tile that runs another rank's task is left alone. -/
theorem completedTile_other {p lid n tid k : Nat} {place counted : List Nat} {t : Tile}
    (ht : taskOf t ≠ some (p, lid, k)) : completedTile p lid n place counted tid k t = t := if_neg fun h => ht h.2

theorem ranksIn_nodup (place : List Nat) (no : Nat) : (ranksIn place no).Nodup := List.nodup_range.filter _

theorem mem_ranksIn {place : List Nat} {no k tid : Nat} (hk : place[k]? = some tid) (hno : no = 8 ∨ tid / 64 = no) :
    k ∈ ranksIn place no := by
  obtain ⟨hlt, rfl⟩ := List.getElem?_eq_some_iff.mp hk
  rw [ranksIn, List.mem_filter, List.mem_range]
  refine ⟨hlt, ?_⟩
  rw [List.getD_eq_getElem _ _ hlt]
  simpa [clusterOf] using hno

/-- Each tile of the scope that runs its task completes; a tile that runs none of the launch's tasks stays. -/
theorem completed_tiles (p lid n no : Nat) (place counted : List Nat) (s : State) :
    let t := (ranksIn place no).foldl (completeAt p lid n place counted) s
    (∀ k tid, place[k]? = some tid → (no = 8 ∨ tid / 64 = no) → taskOf (s.tile tid) = some (p, lid, k) →
      t.tile tid = (s.tile tid).phaseDone n (counted.contains k)) ∧
    ∀ tid, (∀ k, taskOf (s.tile tid) ≠ some (p, lid, k)) → t.tile tid = s.tile tid := by
  intro t
  have htile (tid : Nat) := foldl_tile (completeAt_tile p lid n place counted tid) (ranksIn place no) s
  refine ⟨fun k tid hk hno htask => ?_, fun tid hno => ?_⟩
  · have hat : place.getD k 0 = tid := by rw [List.getD_eq_getElem?_getD, hk]; rfl
    have hdone : completedTile p lid n place counted tid k (s.tile tid) = (s.tile tid).phaseDone n (counted.contains k) :=
      if_pos ⟨hat.symm, htask⟩
    have hkeeps (t : Tile) (ht : taskOf t = some (p, lid, k)) (x : Nat) (hx : x ≠ k) :
        completedTile p lid n place counted tid x t = t :=
      completedTile_other (by rw [ht]; simpa using hx.symm)
    have htask' : taskOf (completedTile p lid n place counted tid k (s.tile tid)) = some (p, lid, k) := by
      rw [hdone, taskOf, phaseDone_res]; exact htask
    rw [← hdone]
    exact (htile tid).trans (foldl_once (ranksIn_nodup place no) (mem_ranksIn hk hno)
      (fun x _ hx => hkeeps _ htask x hx) fun x _ hx => hkeeps _ htask' x hx)
  · exact (htile tid).trans (foldl_idle fun k _ => completedTile_other (hno k))

/-- What a change of a tile leaves of the package. -/
def aroundTiles (s : State) : Nat × SMap Router × List WorkUnit × List Saved × List Home × List HurdleSet :=
  (s.dcc, s.routers, s.units, s.saves, s.homes, s.hsets)

theorem completeAt_around (p lid n : Nat) (place counted : List Nat) (s : State) (k : Nat) :
    aroundTiles (completeAt p lid n place counted s k) = aroundTiles s := by
  unfold completeAt
  split <;> rfl

theorem exec_hurdlePhaseComplete {s : State} {r : Residence} (hf : s.focus.follow = false) (hr : s.me.res = some r) :
    let n := s.focus.idx
    let no := scopeNo (s.me.hurdle n).scope s.focus.tile
    let home := s.home r.part r.lid n no
    let place := s.placeOf r.part r.lid
    let t := (ranksIn place no).foldl (completeAt r.part r.lid n place home.counted) s
    home.due = some 0 → exec .hurdlePhaseComplete s =
      .next (({ t with saves := t.saves.map fun x => savedPhase x r.part r.lid n no home.counted } : State).setHome
        { home with count := 0, counted := [], due := none, closing := true }) := by
  intro n no home place t hdue
  change execHurdlePhaseComplete s = _
  simp only [execHurdlePhaseComplete, hurdleTask_runs hf hr]
  rw [if_neg (not_not.mpr hdue)]
  rfl

/-! ## A reconfiguration (R123) -/

/-- The reconfiguration at one tile, where the tile runs a task of the launch. -/
def configureAt (h : HurdleSet) (s : State) (tid : Nat) : State :=
  if (s.tile tid).res.map (fun x => (x.part, x.lid)) = some (h.part, h.lid) then s.onTile tid fun t => t.hurdleSet h else s

def configuredTile (h : HurdleSet) (k tid : Nat) (t : Tile) : Tile :=
  if k = tid ∧ t.res.map (fun x => (x.part, x.lid)) = some (h.part, h.lid) then t.hurdleSet h else t

theorem configureAt_tile (h : HurdleSet) (k : Nat) (s : State) (tid : Nat) :
    (configureAt h s tid).tile k = configuredTile h k tid (s.tile k) := by
  rw [configureAt, tile_onTile_if, configuredTile]
  by_cases hk : k = tid
  · subst hk; rfl
  · rw [if_neg fun h => hk h.1, if_neg fun h => hk h.1]

theorem configuredTile_other (h : HurdleSet) {k tid : Nat} (t : Tile) (hk : tid ≠ k) : configuredTile h k tid t = t :=
  if_neg fun h => hk h.1.symm

theorem configureAt_around (h : HurdleSet) (s : State) (tid : Nat) : aroundTiles (configureAt h s tid) = aroundTiles s := by
  unfold configureAt
  split <;> rfl

theorem configured_tiles (h : HurdleSet) (place : List Nat) (s : State) :
    let t := place.foldl (configureAt h) s
    (∀ tid, tid ∈ place → place.Nodup → (s.tile tid).res.map (fun x => (x.part, x.lid)) = some (h.part, h.lid) →
      t.tile tid = (s.tile tid).hurdleSet h) ∧
    ∀ tid, tid ∉ place → t.tile tid = s.tile tid := by
  intro t
  have htile (tid : Nat) := foldl_tile (configureAt_tile h tid) place s
  refine ⟨fun tid hmem hnd hres => ?_, fun tid hmem => ?_⟩
  · refine (htile tid).trans ((foldl_once hnd hmem ?_ ?_).trans (if_pos ⟨rfl, hres⟩))
    · exact fun x _ hx => configuredTile_other h _ hx
    · exact fun x _ hx => configuredTile_other h _ hx
  · exact (htile tid).trans (foldl_idle fun x hx => configuredTile_other h _ fun he => hmem (he ▸ hx))

/-- Settles O53: arrivals by the room that is left, a phase at the tiles of its scope, a reconfiguration at those of its
launch. -/
theorem hurdlePhases : Obligations.HurdlePhases := by
  refine ⟨fun s r => ?arrival, fun h target lr hne ht => ?arrive, fun h => rfl, fun s r => ?phase,
    fun t n counted => ⟨_, rfl, ?tile, ?hur⟩, fun s h hdue => ?config⟩
  case arrival =>
    intro h no home place lr hf hr hne
    rw [exec_hurdleArrival hf hr hne, hurdleLatency_eq]
    rfl
  case arrive =>
    intro byRank all
    exact ⟨arrive_short lr, fun hd hc hlt hle => arrive_fills hd hc hlt hle ht, arrive_waits lr⟩
  case tile => rw [phaseDone_eq]
  case hur => rw [phaseDone_eq]
  case phase =>
    intro n no home place hf hr hdue
    have hexec := exec_hurdlePhaseComplete hf hr hdue
    obtain ⟨hdone, hother⟩ := completed_tiles r.part r.lid n no place home.counted s
    have haround := foldl_keeps aroundTiles (completeAt_around r.part r.lid n place home.counted) (ranksIn place no) s
    simp only [aroundTiles, Prod.mk.injEq] at haround
    obtain ⟨hdcc, hrouters, hunits, hsaves, -, -⟩ := haround
    refine ⟨_, hexec, hdcc, hrouters, hunits, home_setHome (home_same s r.part r.lid n no), hdone, hother, ?_⟩
    exact congrArg (List.map _) hsaves
  case config =>
    obtain ⟨hset, hother⟩ := configured_tiles h (s.placeOf h.part h.lid) s
    have haround := foldl_keeps aroundTiles (configureAt_around h) (s.placeOf h.part h.lid) s
    simp only [aroundTiles, Prod.mk.injEq] at haround
    obtain ⟨hdcc, -, -, -, -, hhsets⟩ := haround
    refine ⟨_, rfl, ?_, ?_, ?_, ?_⟩
    all_goals simp only [hdue, List.foldl_cons, List.foldl_nil]
    · exact congrArg (List.filter _) hhsets
    · exact hdcc
    · exact hset
    · exact hother

end Sys2Proof.Proofs
end

section
/-! SUPPORT. The admission of records (R313, R314, R320): what the shepherds make of the oldest record, and O45. -/

namespace Sys2Proof.Proofs

open Sys2Proof.Machine Sys2Proof.Laws

/-! ## The unit of a record (R317, R318, R320) -/

/-- The unit that an admitted record makes. -/
def admittedUnit (i : Incoming) (level r : Nat) : WorkUnit := { unitOf i level r with admitted := true }

/-- The unit whose status tells of a rejected record. -/
def rejectedUnit (i : Incoming) (level r reason : Nat) : WorkUnit := { unitOf i level r with
  state := 5, reason := reason, ended := true
  counter := if level = 0 then BitVec.ofNat 32 (unitOf i level r).nt else 0
  tasks := (unitOf i level r).tasks.map fun _ => 5 }

theorem rejectRecord_eq (s : State) (i : Incoming) (level r reason : Nat) : s.rejectRecord i level r reason =
    if level = 0 ∧ (rejectedUnit i level r reason).id ≠ 0 ∧ s.unit i.part 0 (rejectedUnit i level r reason).id = none
    then ({ s.writeStat (rejectedUnit i level r reason) with units := s.units ++ [rejectedUnit i level r reason] } :
      State).refresh i.part
    else s.writeStat (rejectedUnit i level r reason) := by
  have hunits := (writeStat_frame s (rejectedUnit i level r reason)).2
  have hunit (id : Nat) : (s.writeStat (rejectedUnit i level r reason)).unit i.part 0 id = s.unit i.part 0 id := by
    rw [State.unit, hunits, State.unit]
  simp only [← Option.isNone_iff_eq_none, ← hunit]
  rw [← hunits]
  rfl

theorem admittedUnit_launch (i : Incoming) (r : Nat) : ((admittedUnit i 0 r).is i.part 0 (r / 2 ^ 32 % 2 ^ 32) = true ∧
    (admittedUnit i 0 r).record = BitVec.ofNat 1536 r) ∧ (admittedUnit i 0 r).tasks = List.replicate (admittedUnit i 0 r).nt 0 := by
  refine ⟨⟨?_, rfl⟩, rfl⟩
  simp [admittedUnit, unitOf, WorkUnit.is, WorkUnit.blank, bits]

/-! ## A job's record (R317) -/

/-- The record of a job: its kind, its identity and the address of its status block. -/
def jobWord (id stat : Nat) : Nat := 2 + id * 2 ^ 32 + stat * 2 ^ 128

section
variable {id stat : Nat} (hid : id < 2 ^ 32) (hstat : stat < 2 ^ 64)

theorem jobWord_kind (id stat : Nat) : bits (jobWord id stat) 7 0 = 2 := by simp only [bits, jobWord]; omega
include hid in
theorem jobWord_id (stat : Nat) : bits (jobWord id stat) 63 32 = id := by simp only [bits, jobWord]; omega
include hid hstat in
theorem jobWord_stat : bits (jobWord id stat) 191 128 = stat := by simp only [bits, jobWord]; omega

include hid hstat in
/-- The identity is all that can be wrong with it. -/
theorem jobWord_reason (s : State) (i : Incoming) (hpos : 0 < id) :
    s.unitReason i 3 (jobWord id stat) = if (s.unit i.part 3 id).isSome then 5 else 0 := by
  have hlow : bits (jobWord id stat) 31 8 = 0 := by simp only [bits, jobWord]; omega
  have hjid : bits (jobWord id stat) 95 64 = 0 := by simp only [bits, jobWord]; omega
  have hnl : bits (jobWord id stat) 127 96 = 0 := by simp only [bits, jobWord]; omega
  have hlog : bits (jobWord id stat) 255 192 = 0 := by simp only [bits, jobWord]; omega
  have hlen : bits (jobWord id stat) 287 256 = 0 := by simp only [bits, jobWord]; omega
  have hrest : bits (jobWord id stat) 511 288 = 0 := by simp only [bits, jobWord]; omega
  simp only [State.unitReason, jobWord_id hid stat, hlow, hjid, hnl, hlog, hlen, hrest]
  cases hu : s.unit i.part 3 id <;> simp [firstReason, hpos.ne']

end

/-! ## The oldest record (R126, R320) -/

section
variable {s : State} {i : Incoming} {w : Nat}

theorem exec_recordAdmit (hfind : s.incoming.find? (·.part == s.focus.part) = some i) : exec .recordAdmit s =
    .next (if s.recordWaits i then s else ({ s with incoming := s.incoming.erase i } : State).takeIn i) := by
  change execRecordAdmit s = _
  simp only [execRecordAdmit, hfind]

theorem takeIn_unread (hread : s.readRecord i 64 = none) : s.takeIn i = s.countError (s.recordError i 64) := by
  simp only [State.takeIn, hread]

theorem takeIn_job (hread : s.readRecord i 64 = some w) (hkind : bits w 7 0 = 2) (hfrom : i.fromTile = none) :
    s.takeIn i = if s.unitReason i 3 w ≠ 0 then s.rejectRecord i 3 w (s.unitReason i 3 w)
      else (({ s with units := s.units ++ [admittedUnit i 3 w] } : State).writeStat (admittedUnit i 3 w)).refresh i.part := by
  simp only [State.takeIn, hread, hkind, kindLevel, hfrom]
  rfl

theorem takeIn_launch {r : Nat} (hread : s.readRecord i 64 = some w) (hkind : bits w 7 0 = 1)
    (hrest : s.readRecord i 192 = some r) :
    s.takeIn i = if s.launchReason i r ≠ 0
      then (s.countError (s.launchError i.part r (s.launchReason i r))).rejectRecord i 0 r (s.launchReason i r)
      else (((({ s with units := s.units ++ [admittedUnit i 0 r] } : State).writeStat (admittedUnit i 0 r)).onUnit i.part 1
        (admittedUnit i 0 r).gid fun g => { g with members := g.members + 1 }).onUnit i.part 2 (admittedUnit i 0 r).fold
          fun f => { f with members := f.members + 1 }).refresh i.part := by
  simp only [State.takeIn, hread, hkind, kindLevel, hrest, if_true]
  rfl

end

/-- Settles O45: a record that waits or cannot be read, a job's record by its identity, a launch's by its checks. -/
theorem recordsAreAdmittedOrRejected : Obligations.RecordsAreAdmittedOrRejected := by
  refine ⟨fun s i w hfind => ?_, fun s => ⟨rfl, rfl⟩⟩
  intro s'
  have hexec := exec_recordAdmit hfind
  refine ⟨fun hwait => by rw [hexec, hwait]; rfl, fun hwait hread => ?unread, fun hwait hread =>
    ⟨fun id stat hpos hid hstat hw hfrom => ?job, fun hkind r hrest => ?launch⟩⟩
  all_goals rw [hwait] at hexec
  case unread => exact hexec.trans (congrArg Host.Outcome.next (takeIn_unread hread))
  case job =>
    have hw : w = jobWord id stat := hw
    subst hw
    have hgo := hexec.trans (congrArg Host.Outcome.next (takeIn_job hread (jobWord_kind id stat) hfrom))
    rw [jobWord_reason hid hstat _ i hpos] at hgo
    refine ⟨fun hnone => ⟨admittedUnit i 3 (jobWord id stat), ?_, rfl, rfl, rfl, ?_, ?_⟩,
      fun hsome => ⟨rejectedUnit i 3 (jobWord id stat) 5, rfl, rfl, rfl, ?_, ?_⟩⟩
    · simp [admittedUnit, unitOf, WorkUnit.is, WorkUnit.blank, jobWord_id hid stat]
    · change BitVec.ofNat 64 (bits (jobWord id stat) 191 128) = _
      rw [jobWord_stat hid hstat]
    · have hunit : s'.unit i.part 3 id = none := hnone
      rw [hunit, if_neg (by decide)] at hgo
      exact hgo
    · change BitVec.ofNat 64 (bits (jobWord id stat) 191 128) = _
      rw [jobWord_stat hid hstat]
    · have hunit : (s'.unit i.part 3 id).isSome = true := hsome
      rw [hunit, if_pos rfl, if_pos (by decide)] at hgo
      exact hgo.trans (congrArg Host.Outcome.next ((rejectRecord_eq s' i 3 _ 5).trans (if_neg fun h => absurd h.1 (by decide))))
  case launch =>
    have hkind' : bits w 7 0 = 1 := by simp only [bits]; omega
    have hgo := hexec.trans (congrArg Host.Outcome.next (takeIn_launch hread hkind' hrest))
    refine ⟨fun hwhy => ?joins, fun hwhy => ?reject⟩
    case joins =>
      obtain ⟨⟨his, hrecord⟩, htasks⟩ := admittedUnit_launch i r
      refine ⟨admittedUnit i 0 r, his, hrecord, rfl, rfl, htasks, rfl, ?_⟩
      rw [if_neg (not_not.mpr hwhy)] at hgo
      exact hgo
    case reject =>
      intro b
      rw [if_pos hwhy, rejectRecord_eq, countError_units] at hgo
      refine ⟨rejectedUnit i 0 r (s'.launchReason i r), rfl, rfl, ?_, rfl, rfl, rfl, rfl, ?_⟩
      · simp [rejectedUnit, unitOf, WorkUnit.blank, bits]
      · have hunit (id : Nat) : b.unit i.part 0 id = s.unit i.part 0 id := by
          rw [State.unit, countError_units]; rfl
        rw [hgo]
        simp only [true_and, ← hunit]
        rfl

end Sys2Proof.Proofs
end

section
/-! SUPPORT. Maps that lose some of their keys, maps filled from a list, and the names of a list's places. -/

namespace Sys2Proof.Proofs

open Sys2Proof.Machine Sys2Proof.Laws

/-- A map from which the keys of a kind are dropped reads there as its default. -/
theorem get_filter {α : Type} (d : α) (m : SMap α) (keep : Nat → Bool) (k : Nat) :
    SMap.get d (m.filter fun x => keep x.1) k = if keep k then SMap.get d m k else d := by
  induction m with
  | nil => simp [SMap.get]
  | cons x m ih =>
    obtain ⟨a, v⟩ := x
    rw [List.filter_cons]
    by_cases hk : k = a
    · subst hk
      by_cases hkeep : keep k = true
      · simp [hkeep, SMap.get]
      · simp [hkeep, ih]
    · by_cases ha : keep a = true
      · simp [ha, SMap.get, hk, ih]
      · simp [ha, SMap.get, hk, ih]

theorem wfFrom_filter {α : Type} [DecidableEq α] {d : α} {m : SMap α} {lo : Option Nat} (f : Nat × α → Bool)
    (h : SMap.wfFrom d lo m = true) : SMap.wfFrom d lo (m.filter f) = true := by
  induction m generalizing lo with
  | nil => rfl
  | cons x m ih =>
    obtain ⟨a, v⟩ := x
    simp only [SMap.wfFrom, Bool.and_eq_true] at h
    obtain ⟨⟨hlo, hv⟩, hm⟩ := h
    rw [List.filter_cons]
    split
    · simp only [SMap.wfFrom, Bool.and_eq_true]
      exact ⟨⟨hlo, hv⟩, ih hm⟩
    · refine wfFrom_weaken (ih hm) fun l hl => ⟨a, rfl, ?_⟩
      subst hl
      exact (of_decide_eq_true hlo).le

theorem clear_wf {m : Mem} (h : m.wf = true) (a n : Nat) : (Mem.clear m a n).wf = true := wfFrom_filter _ h

/-- Bytes that are cleared read as zero, the others as before. -/
theorem clear_get (m : Mem) (a n k : Nat) : (Mem.clear m a n).get k = if a ≤ k ∧ k < a + n then 0#8 else m.get k := by
  refine (get_filter 0#8 m (fun k => !(decide (a ≤ k) && decide (k < a + n))) k).trans ?_
  by_cases hk : a ≤ k ∧ k < a + n
  · simp [hk]
  · rw [if_neg hk, if_pos (by simpa [imp_iff_not_or] using hk)]
    rfl

/-- Keys set from a list in one pass. -/
theorem setEach_get {α : Type} [DecidableEq α] (d : α) (l : List (Nat × α)) (hnd : (l.map (·.1)).Nodup) {m : SMap α}
    (hm : SMap.wfFrom d none m = true) (k : Nat) :
    SMap.get d (l.foldl (fun m x => SMap.set d m x.1 x.2) m) k =
      ((l.find? fun x => x.1 == k).map (·.2)).getD (SMap.get d m k) := by
  induction l generalizing m with
  | nil => rfl
  | cons x l ih =>
    obtain ⟨a, v⟩ := x
    rw [List.map_cons, List.nodup_cons] at hnd
    obtain ⟨hnot, hnd⟩ := hnd
    rw [List.foldl_cons, ih hnd (wfFrom_set hm _ _ nofun), List.find?_cons]
    by_cases hk : k = a
    · subst hk
      have hnone : l.find? (fun x => x.1 == k) = none := by
        rw [List.find?_eq_none]
        intro y hy he
        exact hnot (beq_iff_eq.mp he ▸ List.mem_map_of_mem (f := (·.1)) hy)
      simp [hnone, get_set_self hm]
    · have hak : (a == k) = false := by simpa using fun h => hk h.symm
      simp only [hak, get_set_ne m v hk]

/-- The pairs of a list's places and elements. -/
theorem mem_places {α : Type} {l : List α} {k : Nat} {x : α} : (k, x) ∈ List.zip (List.range l.length) l ↔ l[k]? = some x := by
  rw [List.mem_iff_getElem?]
  constructor
  · rintro ⟨i, hi⟩
    rw [List.getElem?_zip_eq_some] at hi
    obtain ⟨hr, hl⟩ := hi
    obtain ⟨hlt, hk⟩ := List.getElem?_eq_some_iff.mp hr
    rw [← show i = k by simpa using hk]
    exact hl
  · intro h
    obtain ⟨hk, rfl⟩ := List.getElem?_eq_some_iff.mp h
    exact ⟨k, by rw [List.getElem?_zip_eq_some]; exact ⟨List.getElem?_range hk, h⟩⟩

theorem places_nodup {α : Type} (l : List α) : ((List.zip (List.range l.length) l).map (·.1)).Nodup := by
  rw [List.map_fst_zip (by simp)]
  exact List.nodup_range

theorem setAll_get {α : Type} [DecidableEq α] (d : α) (l : List α) (k : Nat) : SMap.get d (setAll d l) k = l.getD k d := by
  rw [setAll, setEach_get d _ (places_nodup l) rfl, List.getD_eq_getElem?_getD]
  cases hf : (List.zip (List.range l.length) l).find? fun x => x.1 == k with
  | none =>
    have hnone : l[k]? = none := by
      by_contra hne
      obtain ⟨x, hx⟩ := Option.ne_none_iff_exists'.mp hne
      exact List.find?_eq_none.mp hf _ (mem_places.mpr hx) (beq_self_eq_true k)
    rw [hnone]
    rfl
  | some y =>
    obtain ⟨a, x⟩ := y
    have hk : a = k := by simpa using List.find?_some hf
    subst hk
    rw [mem_places.mp (List.mem_of_find?_eq_some hf)]
    rfl

end Sys2Proof.Proofs
end

section
/-! SUPPORT. Status writes (R315, R316): what a change of a unit of a partition leaves of the package. -/

namespace Sys2Proof.Proofs

open Sys2Proof.Machine Sys2Proof.Laws

/-- A partition that a fault may have halted, and that is otherwise as it was. -/
def haltedAs (x y : Partition) : Partition := { x with halts := y.halts, halt := y.halt }

/-- No unit of a partition has a status block. -/
def Unreported (p : Nat) (s : State) : Prop := ∀ v ∈ s.units, v.part = p → v.stat = 0#64

/-- A change of units of a partition: besides them, and what their status writes may halt, the package stays. -/
structure StatusOnly (p : Nat) (s t : State) : Prop where
  tiles : t.tiles = s.tiles
  routers : t.routers = s.routers
  dcc : t.dcc = s.dcc
  saves : t.saves = s.saves
  part : ∀ q, t.part q = if q = p then haltedAs (s.part p) (t.part p) else s.part q
  unreported : Unreported p s → t.parts = s.parts ∧ Unreported p t

theorem StatusOnly.refl (p : Nat) (s : State) : StatusOnly p s s where
  tiles := rfl
  routers := rfl
  dcc := rfl
  saves := rfl
  part q := by
    by_cases hq : q = p
    · subst hq; rw [if_pos rfl]; rfl
    · rw [if_neg hq]
  unreported h := ⟨rfl, h⟩

theorem StatusOnly.trans {p : Nat} {s t u : State} (h : StatusOnly p s t) (h' : StatusOnly p t u) : StatusOnly p s u where
  tiles := h'.tiles.trans h.tiles
  routers := h'.routers.trans h.routers
  dcc := h'.dcc.trans h.dcc
  saves := h'.saves.trans h.saves
  part q := by
    have hp := h.part p
    rw [if_pos rfl] at hp
    rw [h'.part q, h.part q, hp]
    split <;> rfl
  unreported hs := by
    obtain ⟨hparts, ht⟩ := h.unreported hs
    obtain ⟨hparts', hu⟩ := h'.unreported ht
    exact ⟨hparts'.trans hparts, hu⟩

/-- A fault halts its own partition at most. -/
theorem raiseHalt_part (s : State) (p cause src id q : Nat) : (raiseHalt s p cause src id).part q =
    if q = p then haltedAs (s.part p) ((raiseHalt s p cause src id).part p) else s.part q := by
  by_cases hq : q = p
  · subst hq
    have hcount : (if cause = cECC then s.countRecord 6 1 else s).part q = s.part q := by split <;> rfl
    unfold raiseHalt
    dsimp only
    rw [if_pos rfl, hcount]
    generalize (if cause = cECC then s.countRecord 6 1 else s) = t at hcount ⊢
    split
    · rw [part_setPart]; rfl
    · split
      · rw [part_setPart]; rfl
      · rw [hcount]; rfl
  · rw [if_neg hq]
    exact (raiseHalt_does s p cause src id).2.2 q hq

/-- The clock, the routers, the partitions, the units and the saves. -/
def aroundMemory (s : State) : Nat × SMap Router × SMap Partition × List WorkUnit × List Saved :=
  (s.dcc, s.routers, s.parts, s.units, s.saves)

/-- A write of the shepherd halts its partition, or changes memory and the error counts alone. -/
theorem vwrite_cases (s : State) (p : Nat) (secure : Bool) (va : Nat) (l : List W8) :
    (∃ cause, s.vwrite p secure va l = raiseHalt s p cause 10 0) ∨
      aroundMemory (s.vwrite p secure va l) = aroundMemory s := by
  unfold State.vwrite
  split
  · cases s.walkBad p va <;> exact .inr rfl
  · dsimp only
    split
    · exact .inl ⟨_, rfl⟩
    · split
      · exact .inl ⟨_, rfl⟩
      · refine .inr ?_
        unfold State.pwriteBytes State.setTier
        split <;> rfl

/-- A status write of a unit of a partition (R316). -/
theorem writeStat_status (s : State) {p : Nat} {u : WorkUnit} (hp : u.part = p) (hu : Unreported p s → u.stat = 0#64) :
    StatusOnly p s (s.writeStat u) := by
  subst hp
  by_cases hstat : u.stat = 0#64
  · rw [State.writeStat, if_pos hstat]
    exact .refl u.part s
  · have htiles := congrArg Prod.fst (writeStat_frame s u).1
    rw [State.writeStat, if_neg hstat] at htiles ⊢
    rcases vwrite_cases s u.part u.secure (u.stat.toNat % 2 ^ 48)
      (bytesOf 8 u.counter.toNat ++ bytesOf 8 u.word1.toNat ++ bytesOf 8 u.deta.toNat ++ bytesOf 8 u.detb.toNat) with
      ⟨cause, he⟩ | he
    · obtain ⟨hframe, -⟩ := raiseHalt_does s u.part cause 10 0
      rw [he]
      exact ⟨by rw [hframe], by rw [hframe], by rw [hframe], by rw [hframe], raiseHalt_part s u.part cause 10 0, fun h => absurd (hu h) hstat⟩
    · simp only [aroundMemory, Prod.mk.injEq] at he
      obtain ⟨hdcc, hrouters, hparts, -, hsaves⟩ := he
      have hpart (q : Nat) : (s.vwrite u.part u.secure (u.stat.toNat % 2 ^ 48) (bytesOf 8 u.counter.toNat ++
          bytesOf 8 u.word1.toNat ++ bytesOf 8 u.deta.toNat ++ bytesOf 8 u.detb.toNat)).part q = s.part q := by
        rw [State.part, hparts]; rfl
      refine ⟨htiles, hrouters, hdcc, hsaves, fun q => ?_, fun h => absurd (hu h) hstat⟩
      rw [hpart, hpart]
      exact (StatusOnly.refl u.part s).part q

/-- A change of units that keeps their partitions and the addresses of their status blocks. -/
theorem onUnit_status (s : State) {p level : Nat} (id : Nat) {f : WorkUnit → WorkUnit}
    (hpart : ∀ u, (f u).part = u.part) (hstat : ∀ u, (f u).stat = u.stat) : StatusOnly p s (s.onUnit p level id f) := by
  refine ⟨rfl, rfl, rfl, rfl, (StatusOnly.refl p s).part, fun h => ⟨rfl, fun v hv hvp => ?_⟩⟩
  obtain ⟨w, hw, rfl⟩ := List.mem_map.mp hv
  by_cases his : w.is p level id = true
  · rw [if_pos his] at hvp ⊢
    rw [hstat]; exact h w hw ((hpart w).symm.trans hvp)
  · rw [if_neg his] at hvp ⊢
    exact h w hw hvp

theorem changeUnit_status (s : State) {p level : Nat} (id : Nat) {f : WorkUnit → WorkUnit}
    (hpart : ∀ u, (f u).part = u.part) (hstat : ∀ u, (f u).stat = u.stat) : StatusOnly p s (s.changeUnit p level id f) := by
  unfold State.changeUnit
  split
  · rename_i u hu
    have his : u.is p level id = true := by simpa using List.find?_some hu
    have hfu : f u ∈ (s.onUnit p level id f).units := List.mem_map.mpr ⟨u, List.mem_of_find?_eq_some hu, if_pos his⟩
    have hp : (f u).part = p := (hpart u).trans (is_names his).1
    exact (onUnit_status s id hpart hstat).trans (writeStat_status _ hp fun h => h _ hfu hp)
  · exact .refl p s

theorem startParent_status (s : State) (p level id : Nat) : StatusOnly p s (s.startParent p level id) := by
  unfold State.startParent
  split
  · split
    · exact changeUnit_status s id (fun _ => rfl) fun _ => rfl
    · exact .refl p s
  · exact .refl p s

theorem startParent_keeps (s : State) (p : Nat) {level : Nat} (id : Nat) (hl : level ≠ 0) :
    KeepsLaunches s (s.startParent p level id) := by
  unfold State.startParent
  split
  · split
    · exact changeUnit_keeps s id hl fun _ => rfl
    · exact .refl s
  · exact .refl s

end Sys2Proof.Proofs
end

section
/-! SUPPORT. The start of a launch's tasks (R139, R321, R323, R331, R403): each tile, the state of a task that starts and
its preload, and O47. -/

namespace Sys2Proof.Proofs

open Sys2Proof.Machine Sys2Proof.Laws

/-! ## The start of a launch (R323) -/

/-- One task of a launch, with the tile that is copied for it, starts. -/
def startOn (u : WorkUnit) (img : List W8) (s : State) (x : (Nat × Nat) × Option Tile) : State :=
  match x.2 with
  | some t => (s.setTile x.1.2 (startTask u img x.1.1 x.1.2 t)).newTask x.1.2
  | none => s

/-- What that makes of one tile. -/
def startedTile (u : WorkUnit) (img : List W8) (tid : Nat) (x : (Nat × Nat) × Option Tile) (t : Tile) : Tile :=
  match x.2 with
  | some c => if tid = x.1.2 then startTask u img x.1.1 x.1.2 c else t
  | none => t

theorem startOn_tile (u : WorkUnit) (img : List W8) (tid : Nat) (s : State) (x : (Nat × Nat) × Option Tile) :
    (startOn u img s x).tile tid = startedTile u img tid x (s.tile tid) := by
  unfold startOn startedTile
  cases x.2 with
  | none => rfl
  | some c =>
    dsimp only
    rw [State.tile, newTask_tiles]
    split
    · rename_i h
      subst h
      exact tile_setTile s _ _
    · exact tile_setTile_ne s _ ‹_›

theorem startedTile_other {u : WorkUnit} {img : List W8} {tid : Nat} {x : (Nat × Nat) × Option Tile} (t : Tile)
    (h : x.1.2 ≠ tid) : startedTile u img tid x t = t := by
  unfold startedTile
  split
  · exact if_neg fun he => h he.symm
  · rfl

/-- The start of a task changes a tile, and drops the walks that it waited for. -/
theorem startOn_around (u : WorkUnit) (img : List W8) (s : State) (x : (Nat × Nat) × Option Tile) :
    aroundMemory (startOn u img s x) = aroundMemory s := by
  unfold startOn
  split <;> rfl

/-- The tasks of a launch by rank, each with the copy of its tile. -/
def startCopies (s : State) (u : WorkUnit) : List ((Nat × Nat) × Option Tile) :=
  (List.zip (List.range u.place.length) u.place).map fun x => (x, s.shadowCopy s.focus.part (s.tile x.2))

theorem started_tiles (s : State) (u : WorkUnit) (img : List W8) (hnd : u.place.Nodup) :
    let t := (startCopies s u).foldl (startOn u img) s
    (∀ rank tid x, u.place[rank]? = some tid → s.shadowCopy s.focus.part (s.tile tid) = some x →
      t.tile tid = startTask u img rank tid x) ∧
    ∀ tid, tid ∉ u.place → t.tile tid = s.tile tid := by
  intro t
  have htile (tid : Nat) := foldl_tile (startOn_tile u img tid) (startCopies s u) s
  have hmem : ∀ y ∈ startCopies s u, u.place[y.1.1]? = some y.1.2 ∧ y.2 = s.shadowCopy s.focus.part (s.tile y.1.2) := by
    intro y hy
    obtain ⟨x, hx, rfl⟩ := List.mem_map.mp hy
    exact ⟨mem_places.mp hx, rfl⟩
  refine ⟨fun rank tid x hrank hx => ?_, fun tid hnot => ?_⟩
  · have hother (y : (Nat × Nat) × Option Tile) (hy : y ∈ startCopies s u) (hne : y ≠ ((rank, tid), some x)) : y.1.2 ≠ tid := by
      intro he
      obtain ⟨hplace, hcopy⟩ := hmem y hy
      obtain ⟨⟨k, tid'⟩, c⟩ := y
      simp only at he hplace hcopy
      subst he
      obtain ⟨hk, hke⟩ := List.getElem?_eq_some_iff.mp hplace
      obtain ⟨hr, hre⟩ := List.getElem?_eq_some_iff.mp hrank
      have hkr : k = rank := (List.Nodup.getElem_inj_iff hnd).mp (hke.trans hre.symm)
      rw [hkr, hcopy, hx] at hne
      exact hne rfl
    have hnodup : (startCopies s u).Nodup := by
      refine .of_map (fun y => y.1.1) ?_
      rw [startCopies, List.map_map]
      exact places_nodup u.place
    have hin : ((rank, tid), some x) ∈ startCopies s u := by
      rw [← hx]
      exact List.mem_map.mpr ⟨_, mem_places.mpr hrank, rfl⟩
    refine (htile tid).trans ((foldl_once hnodup hin ?_ ?_).trans (if_pos rfl))
    · exact fun y hy hne => startedTile_other _ (hother y hy hne)
    · exact fun y hy hne => startedTile_other _ (hother y hy hne)
  · refine (htile tid).trans (foldl_idle fun y hy => startedTile_other _ ?_)
    rintro rfl
    exact hnot (List.mem_of_getElem? (hmem y hy).1)

/-- The change that the start of a launch makes to its unit. -/
def startedUnit (u : WorkUnit) : WorkUnit :=
  { u with starting := false, loaded := true, state := 1, stayed := 0, tasks := u.tasks.map fun _ => 1 }

section
variable {s : State} {u : WorkUnit} {img : List W8}

theorem exec_launchStart (hu : s.unit s.focus.part 0 s.focus.idx = some u) (hstart : u.starting = true)
    (hload : u.loaded = false) (hhalt : (s.part s.focus.part).halt = none) (himg : s.launchImage u = some img)
    (hcopies : ∀ tid ∈ u.place, (s.shadowCopy s.focus.part (s.tile tid)).isSome = true) :
    exec .launchStart s = .next ((((((startCopies s u).foldl (startOn u img) s).changeUnit s.focus.part 0 u.id
      startedUnit).startParent s.focus.part 1 u.gid).startParent s.focus.part 2 u.fold).startParent s.focus.part 3 u.jid) := by
  have hall : ¬ (startCopies s u).any (·.2.isNone) = true := by
    simp only [List.any_eq_true, not_exists, not_and]
    intro y hy
    obtain ⟨x, hx, rfl⟩ := List.mem_map.mp hy
    simpa [Option.isSome_iff_ne_none] using hcopies x.2 (List.mem_of_getElem? (mem_places.mp hx))
  change execLaunchStart s = _
  simp only [execLaunchStart, hu, himg]
  rw [if_neg (by simp [hstart, hload, hhalt])]
  exact congrArg _ (if_neg hall)

theorem launchImage_fresh (hu : s.unit s.focus.part 0 s.focus.idx = some u) (hnew : s.preloaded u = false) :
    s.launchImage u = s.readImage s.focus.part u.secure (u.record.toNat / 2 ^ 192 % 2 ^ 64) := by
  have hp : u.part = s.focus.part := (is_names (by simpa using List.find?_some hu)).1
  rw [State.launchImage, hnew, if_neg (by decide), hp]
  rfl

/-- The launch's unit once its tasks and the units above it have started. -/
theorem started_unit {t : State} {p lid gid fold jid : Nat} (hu : t.unit p 0 lid = some u) :
    ∃ v, ((((t.changeUnit p 0 lid startedUnit).startParent p 1 gid).startParent p 2 fold).startParent p 3 jid).unit p 0 lid =
      some v ∧ v.loaded = true ∧ v.starting = false ∧ v.state = 1 ∧ v.tasks = u.tasks.map fun _ => 1 := by
  have hkeeps := ((startParent_keeps (t.changeUnit p 0 lid startedUnit) p (level := 1) gid (by decide)).trans
    (startParent_keeps _ p (level := 2) fold (by decide))).trans (startParent_keeps _ p (level := 3) jid (by decide))
  obtain ⟨g, hunit, hlaunch⟩ := hkeeps.unit p lid
  have his : u.is p 0 lid = true := by simpa using List.find?_some hu
  obtain ⟨ready, pass, hg⟩ := hlaunch (startedUnit u) (is_names his).2.1
  rw [changeUnit_unit (f := startedUnit) (fun _ _ _ => rfl) hu, Option.map_some, hg] at hunit
  exact ⟨_, hunit, rfl, rfl, rfl, rfl⟩

end

/-! ## The state of a task that starts (R18, R321) -/

/-- A number of 21 bits added to a base, as an address of the scratchpad. -/
theorem ofNat_base (rb n : Nat) : BitVec.ofNat 21 (rb + n % 2 ^ 21) = BitVec.ofNat 21 (rb + n) := by
  refine BitVec.eq_of_toNat_eq ?_
  rw [BitVec.toNat_ofNat, BitVec.toNat_ofNat, Nat.add_mod_mod]

theorem startTask_new {u : WorkUnit} {img : List W8} {rank tid : Nat} {x : Tile} (h : x.standby u rank = none) :
    startTask u img rank tid x = startAt u img rank tid 0 false x := by
  rw [startTask.eq_def, h]

theorem startTask_standby {u : WorkUnit} {img : List W8} {rank tid rb : Nat} {x : Tile} (h : x.standby u rank = some rb) :
    startTask u img rank tid x = { startAt u img rank tid rb true x with preload := none } := by
  rw [startTask.eq_def, h]

/-- A task starts from its preload's base, else from base 0; what was copied already, and the preload, go with that. -/
theorem startTask_eq {u : WorkUnit} {img blocks : List W8} {rank tid rb size : Nat} {x : Tile}
    (hx : (x.preload = none ∧ rb = 0) ∨ x.preload = some ⟨u.part, u.id, rank, rb, size, blocks⟩) :
    ∃ copied preload, startTask u img rank tid x = { startAt u img rank tid rb copied x with preload := preload } := by
  rcases hx with ⟨hnone, rfl⟩ | hsome
  · have hstand : x.standby u rank = none := by rw [Tile.standby, hnone]
    refine ⟨false, (startAt u img rank tid 0 false x).preload, ?_⟩
    rw [startTask_new hstand]
  · have hstand : x.standby u rank = some rb := by
      rw [Tile.standby, hsome]; exact if_pos ⟨rfl, rfl, rfl⟩
    exact ⟨true, none, startTask_standby hstand⟩

theorem sreg_withPreload (t : Tile) (preload : Option Preloaded) (k : Nat) :
    { t with preload := preload }.sreg k = t.sreg k := rfl

/-- The scalar registers of a task that starts: its arguments, its rank, and zeros. -/
theorem startAt_sreg (u : WorkUnit) (img : List W8) (rank tid rb : Nat) (copied : Bool) (x : Tile) {k : Nat} (hk : k ≠ 0) :
    (startAt u img rank tid rb copied x).sreg k =
      (0#64 :: (tab 8 fun i => BitVec.ofNat 64 (u.f (1087 + 64 * i) (1024 + 64 * i))) ++ [BitVec.ofNat 64 rank]).getD k 0#64 := by
  rw [Tile.sreg, if_neg hk]
  exact setAll_get 0#64 _ k

theorem startAt_argument (u : WorkUnit) (img : List W8) (rank tid rb : Nat) (copied : Bool) (x : Tile) {k : Nat} (h1 : 1 ≤ k)
    (h8 : k ≤ 8) : (startAt u img rank tid rb copied x).sreg k = BitVec.ofNat 64 (u.record.toNat / 2 ^ (960 + 64 * k)) := by
  obtain ⟨i, rfl⟩ : ∃ i, k = i + 1 := ⟨k - 1, by omega⟩
  have hlen : (tab 8 fun i => BitVec.ofNat 64 (u.f (1087 + 64 * i) (1024 + 64 * i))).length = 8 := by simp [tab]
  rw [startAt_sreg _ _ _ _ _ _ _ (by omega), List.cons_append, List.getD_cons_succ,
    List.getD_append _ _ _ _ (by omega), getD_tab _ _ (by omega), WorkUnit.f, bits,
    show 1087 + 64 * i + 1 - (1024 + 64 * i) = 64 by omega, show 960 + 64 * (i + 1) = 1024 + 64 * i by omega]
  refine BitVec.eq_of_toNat_eq ?_
  rw [BitVec.toNat_ofNat, BitVec.toNat_ofNat, Nat.mod_mod]

theorem startAt_rank (u : WorkUnit) (img : List W8) (rank tid rb : Nat) (copied : Bool) (x : Tile) :
    (startAt u img rank tid rb copied x).sreg 9 = BitVec.ofNat 64 rank := by
  rw [startAt_sreg _ _ _ _ _ _ _ (by decide)]
  rfl

theorem startAt_zero (u : WorkUnit) (img : List W8) (rank tid rb : Nat) (copied : Bool) (x : Tile) {k : Nat} (h : 10 ≤ k) :
    (startAt u img rank tid rb copied x).sreg k = 0 := by
  rw [startAt_sreg _ _ _ _ _ _ _ (by omega)]
  exact List.getD_eq_default _ _ (by simp [tab]; omega)

/-! ## Preloads (R331) -/

/-- The scratchpad of a tile with the code and the data of a task copied to a standby region. -/
def preloadSp (m : Mem) (base : Nat) (img : List W8) (w : Nat) : Mem :=
  Mem.writeBytes (Mem.writeBytes (Mem.clear m base (imgCode w + imgPriv w)) base ((img.drop (imgCodeAt w)).take (imgCodeLen w)))
    (base + imgCode w) ((img.drop (imgDataAt w)).take (imgData w))

section
variable {base w : Nat} (img : List W8) (hcode : imgCodeLen w ≤ imgCode w)
include hcode

theorem preloadSp_outside (m : Mem) (hdata : imgData w ≤ imgPriv w) :
    Mem.sameBut base (imgCode w + imgPriv w) m (preloadSp m base img w) := by
  intro x hx
  have hcodeLen : ((img.drop (imgCodeAt w)).take (imgCodeLen w)).length ≤ imgCodeLen w := List.length_take_le _ _
  have hdataLen : ((img.drop (imgDataAt w)).take (imgData w)).length ≤ imgData w := List.length_take_le _ _
  rw [preloadSp, mem_get_writeBytes_out _ _ _ (by omega), mem_get_writeBytes_out _ _ _ (by omega), clear_get,
    if_neg (by omega)]

theorem preloadSp_code {m : Mem} (hm : m.wf = true) {k : Nat} (hk : k < imgCodeLen w) (himg : imgCodeAt w + k < img.length) :
    Mem.get (preloadSp m base img w) (base + k) = img.getD (imgCodeAt w + k) 0 := by
  have hlen : k < ((img.drop (imgCodeAt w)).take (imgCodeLen w)).length := by
    rw [List.length_take, List.length_drop]; omega
  rw [preloadSp, mem_get_writeBytes_out _ _ _ (by omega), mem_get_writeBytes_in (clear_wf hm _ _) _ _ k hlen,
    List.getElem_take, List.getElem_drop, List.getD_eq_getElem _ _ himg]

end

theorem exec_preload {s : State} {r : Residence} {h : WorkUnit} {hid : Nat} {place : List Nat} {img : List W8}
    (hhead : (s.part s.focus.part).head = some (hid, place)) (hres : s.me.res = some r)
    (hu : s.unit s.focus.part 0 hid = some h) (hmem : s.focus.tile ∈ place) (hload : h.loaded = false)
    (hpre : s.me.preload = none) (hhalt : (s.part s.focus.part).halt = none) (hlid : r.lid ≠ hid)
    (himg : s.readImage s.focus.part h.secure (h.record.toNat / 2 ^ 192 % 2 ^ 64) = some img) :
    let w := natOfBytes (img.take 64)
    let base := r.ringBase + r.ringSize
    r.part = s.focus.part → base + (imgCode w + imgPriv w) + imgRing w ≤ 0x180000 →
    ∃ bad, exec .preload s = .next (s.withMe { s.me with
      sp := preloadSp s.me.sp base img w, bad := bad
      preload := some ⟨s.focus.part, hid, place.findIdx (· == s.focus.tile), base, imgCode w + imgPriv w, img.take (imgCodeAt w)⟩ }) := by
  intro w base hpart hfit
  have himg' : s.readImage s.focus.part h.secure (h.f 255 192) = some img := himg
  refine ⟨s.me.bad.filter fun k => !(decide (base ≤ 4 * k) && decide (4 * k < base + (imgCode w + imgPriv w))), ?_⟩
  change execPreload s = _
  conv_lhs => simp only [execPreload, hhead, hres, hu]
  rw [if_neg (by simp [hload, hpre, hhalt, hpart, hlid, hmem]), himg']
  change Host.Outcome.next (if base + (imgCode w + imgPriv w) + imgRing w > 0x180000 then s else _) = _
  rw [if_neg (Nat.not_lt.mpr hfit)]
  rfl

/-- Settles O47: the tiles of a launch that starts, the fields of a task's first state, and a preload by its bytes. -/
theorem tasksStartTogether : Obligations.TasksStartTogether := by
  refine ⟨fun s u img => ?start, fun u img blocks rank tid rb size x hx => ?state, fun s r h hid place img => ?preload⟩
  case start =>
    intro p hu hstart hload hhalt himg hnd
    refine ⟨launchImage_fresh hu, fun hcopies => ?_⟩
    obtain ⟨htask, hother⟩ := started_tiles s u img hnd
    have haround := foldl_keeps aroundMemory (startOn_around u img) (startCopies s u) s
    generalize ht : (startCopies s u).foldl (startOn u img) s = t at htask hother haround
    simp only [aroundMemory, Prod.mk.injEq] at haround
    obtain ⟨hdcc, hrouters, hparts, hunits, -⟩ := haround
    have hpart (q : Nat) : t.part q = s.part q := by rw [State.part, hparts]; rfl
    have hu' : t.unit p 0 u.id = some u := by
      rw [State.unit, hunits, (is_names (by simpa using List.find?_some hu)).2.2]
      exact hu
    have hstatus := (((changeUnit_status t (p := p) (level := 0) u.id (f := startedUnit) (fun _ => rfl) fun _ => rfl).trans
      (startParent_status _ p 1 u.gid)).trans (startParent_status _ p 2 u.fold)).trans (startParent_status _ p 3 u.jid)
    have htile (tid : Nat) := congrArg (fun m => (SMap.find m tid).getD Tile.reset) hstatus.tiles
    have hexec := exec_launchStart hu hstart hload hhalt himg hcopies
    rw [ht] at hexec
    refine ⟨_, hexec, hstatus.dcc.trans hdcc, hstatus.routers.trans hrouters, fun hstat => ?_, fun q => ?_,
      fun rank tid hrank => ?_, fun tid hnot => (htile tid).trans (hother tid hnot), ?_⟩
    · have hnone : Unreported p t := fun v hv hvp => hstat v (hunits ▸ hv) hvp
      exact (hstatus.unreported hnone).1.trans hparts
    · refine (hstatus.part q).trans ?_
      rw [hpart, hpart]
      rfl
    · obtain ⟨x, hx⟩ := Option.isSome_iff_exists.mp (hcopies tid (List.mem_of_getElem? hrank))
      exact ⟨x, hx, (htile tid).trans (htask rank tid x hrank hx)⟩
    · have hid : u.id = s.focus.idx := (is_names (by simpa using List.find?_some hu)).2.2
      rw [← hid]
      exact started_unit hu'
  case state =>
    intro h at' t
    obtain ⟨copied, preload, heq⟩ := startTask_eq (img := img) (tid := tid) hx
    have ht : t = { startAt u img rank tid rb copied x with preload := preload } := heq
    rw [ht]
    refine ⟨ofNat_base rb _, ofNat_base rb _, ofNat_base rb _, ofNat_base rb _, ⟨rfl, rfl, rfl, rfl⟩, rfl, fun k h1 h8 => ?_,
      ?_, fun k h10 => ?_, ?_, ?_, ?_, rfl, rfl, rfl, rfl, rfl, rfl, rfl, rfl, rfl, rfl, rfl⟩
    · exact (sreg_withPreload _ preload k).trans (startAt_argument u img rank tid rb copied x h1 h8)
    · exact (sreg_withPreload _ preload 9).trans (startAt_rank u img rank tid rb copied x)
    · exact (sreg_withPreload _ preload k).trans (startAt_zero u img rank tid rb copied x h10)
    · exact BitVec.eq_of_toNat_eq (by rw [BitVec.toNat_ofNat]; exact Nat.mod_mod _ _)
    · exact bitAt_testBit _ _
    · exact bne_iff_ne
  case preload =>
    intro tid p w base n hhead hres hu hmem hload hpre hhalt hpart hlid himg hfit hcode hdata
    obtain ⟨bad, hexec⟩ := exec_preload hhead hres hu hmem hload hpre hhalt hlid himg hpart hfit
    exact ⟨_, bad, hexec, preloadSp_outside img hcode s.me.sp hdata, fun hm k hk himg => preloadSp_code img hcode hm hk himg⟩

end Sys2Proof.Proofs
end

section
/-! SUPPORT. Saves of tasks (R131, R352, R354, R358, R359): the groups that a save forgets, the errors that stop it, and
the quiesce records. -/

namespace Sys2Proof.Proofs

open Sys2Proof.Machine Sys2Proof.Laws

/-! ## What a save forgets (R131) -/

theorem forget_sreg (t : Tile) (bm : BitVec 24) (k : Nat) :
    (t.forget bm).sreg k = if bm.toNat.testBit (k / 16) then t.sreg k else 0 := by
  have hget := get_filter 0#64 t.s (fun k => !!bitAt bm.toNat (k / 16)) k
  rw [Bool.not_not, bitAt_testBit] at hget
  unfold Tile.sreg
  by_cases hk : k = 0
  · rw [if_pos hk, if_pos hk]; exact (ite_self _).symm
  · rw [if_neg hk, if_neg hk]; exact hget

theorem forget_vreg (t : Tile) (bm : BitVec 24) (k : Nat) :
    (t.forget bm).vreg k = if bm.toNat.testBit (4 + k / 8) then t.vreg k else zeroVec := by
  have hget := get_filter zeroVec t.v (fun k => !!bitAt bm.toNat (4 + k / 8)) k
  rw [Bool.not_not, bitAt_testBit] at hget
  exact hget

theorem forget_accRow (t : Tile) (bm : BitVec 24) {a k : Nat} (hk : k < 128) :
    (t.forget bm).accRow a k = if bm.toNat.testBit (16 + a) then t.accRow a k else zeroRow := by
  have hget := get_filter zeroRow t.acc (fun k => !!bitAt bm.toNat (16 + k / 128)) (128 * a + k)
  rw [Bool.not_not, bitAt_testBit, show (128 * a + k) / 128 = a by omega] at hget
  exact hget

theorem forget_badAcc (t : Tile) (bm : BitVec 24) (w : Nat) :
    w ∈ (t.forget bm).badAcc ↔ w ∈ t.badAcc ∧ bm.toNat.testBit (16 + w / 67 / 128) = true := by
  refine List.mem_filter.trans ?_
  rw [Bool.not_not]
  exact Iff.of_eq (congrArg (w ∈ t.badAcc ∧ · = true) (bitAt_testBit _ _))

theorem saveBad_iff {t : Tile} {r : Residence} (hr : t.res = some r) (bm : BitVec 24) : t.saveBad bm = true ↔
    t.spBad r.codeBase (r.ringBase + r.ringSize - r.codeBase) = true ∨ t.badQ ≠ [] ∨
      ∃ w ∈ t.badAcc, bm.toNat.testBit (16 + w / 67 / 128) = true := by
  have hacc : (t.forget bm).badAcc ≠ [] ↔ ∃ w ∈ t.badAcc, bm.toNat.testBit (16 + w / 67 / 128) = true := by
    rw [← List.length_pos_iff, List.length_pos_iff_exists_mem]
    simp only [forget_badAcc]
  rw [← hacc]
  simp [Tile.saveBad, hr, or_assoc]

/-! ## Quiesce records (R352, R354, R358) -/

theorem readBytes_eq (m : Mem) (a n : Nat) : Mem.readBytes m a n = (List.range n).map fun i => m.get (a + i) := by
  induction n generalizing a with
  | zero => rfl
  | succ n ih =>
    rw [Mem.readBytes, ih, List.range_succ_eq_map, List.map_cons, List.map_map]
    refine congrArg _ (List.map_congr_left fun i _ => ?_)
    rw [Function.comp, show a + 1 + i = a + i.succ by omega]

theorem readBytes_writeBytes_same {m : Mem} (hm : m.wf = true) (a : Nat) (l : List W8) :
    Mem.readBytes (m.writeBytes a l) a l.length = l := by
  refine List.ext_getElem (by simp [readBytes_eq]) fun i _ hi => ?_
  simp only [readBytes_eq, List.getElem_map, List.getElem_range]
  exact mem_get_writeBytes_in hm a l i hi

theorem readBytes_writeBytes_apart (m : Mem) {a b n : Nat} (l : List W8) (h : a + n ≤ b ∨ b + l.length ≤ a) :
    Mem.readBytes (m.writeBytes b l) a n = Mem.readBytes m a n := by
  rw [readBytes_eq, readBytes_eq]
  refine List.map_congr_left fun i hi => mem_get_writeBytes_out _ _ _ ?_
  rw [List.mem_range] at hi
  omega

/-- What is written to HBM is read back. -/
theorem pread_pwrite_same {s : State} (hwf : s.mem0.wf = true) (a : Nat) {n v : Nat} (hv : v < 256 ^ n) :
    (s.pwrite 0 a n v).pread 0 a n = v := by
  have hread := readBytes_writeBytes_same hwf a (bytesOf n v)
  rw [bytesOf_length] at hread
  change Mem.readN (s.mem0.writeBytes a (bytesOf n v)) a n = v
  rw [readN_eq, hread, natOfBytes_bytesOf, Nat.mod_eq_of_lt hv]

theorem pread_pwrite_apart (s : State) {a b n m : Nat} (v : Nat) (h : a + n ≤ b ∨ b + m ≤ a) :
    (s.pwrite 0 b m v).pread 0 a n = s.pread 0 a n := by
  change Mem.readN (s.mem0.writeBytes b (bytesOf m v)) a n = Mem.readN s.mem0 a n
  rw [readN_eq, readN_eq, readBytes_writeBytes_apart _ _ (by rwa [bytesOf_length])]

theorem pwrite_wf {s : State} (hwf : s.mem0.wf = true) (a n v : Nat) : (s.pwrite 0 a n v).mem0.wf = true :=
  mem_wf_writeBytes hwf a _

/-- Records of 64 bytes written one after another, each at the place of its number. -/
theorem pread_records {f : Nat → Nat} (hf : ∀ e, f e < 256 ^ 64) (base : Nat) (l : List Nat) {s : State}
    (hwf : s.mem0.wf = true) (e : Nat) :
    (l.foldl (fun s e => s.pwrite 0 (base + 64 * (4 + e)) 64 (f e)) s).pread 0 (base + 64 * (4 + e)) 64 =
      if e ∈ l then f e else s.pread 0 (base + 64 * (4 + e)) 64 := by
  induction l generalizing s with
  | nil => rw [if_neg List.not_mem_nil]; rfl
  | cons x l ih =>
    rw [List.foldl_cons, ih (pwrite_wf hwf _ _ _)]
    by_cases hl : e ∈ l
    · rw [if_pos hl, if_pos (List.mem_cons_of_mem x hl)]
    · rw [if_neg hl]
      by_cases hx : e = x
      · subst hx
        rw [if_pos List.mem_cons_self]
        exact pread_pwrite_same hwf _ (hf e)
      · rw [if_neg (by simp [hl, hx])]
        exact pread_pwrite_apart s _ (by omega)

/-- Where an engine's record has come to, with its stamp where it is the MX (R354). -/
def recordAt (eng : Nat) (r : Run) : Nat :=
  r.addr.toNat + (if eng = 2 then 256 * r.prog else r.prog) % 2 ^ 48 * 2 ^ 64 +
    (if r.abnd = true ∨ r.out.isSome = true ∨ r.stuck.isSome = true then 2 ^ 112 else 0) +
    (if eng = 0 then r.stamp.toNat * 2 ^ 192 else 0)

/-- Does an engine show the record that ran on a sibling, the one at its own head, if any, being behind it (R227)? -/
def ShowsAway (e : Engine) : Prop := e.away.isSome = true ∧ ∀ r, e.run = some r → r.after = true

theorem shown_eq (e : Engine) [Decidable (ShowsAway e)] :
    e.shown false false = if ShowsAway e then (e.away, true) else (e.run, false) := by
  have hbehind : (e.away.isSome && (e.run.map (·.after)).getD true) = true ↔ ShowsAway e := by
    rw [Bool.and_eq_true, ShowsAway]
    cases e.run <;> simp
  unfold Engine.shown
  dsimp only
  simp only [hbehind, Bool.false_eq_true, if_false]

theorem runBits_eq (eng : Nat) (r : Run) : runBits eng false r + (if eng = 0 then r.stamp.toNat * 2 ^ 192 else 0) = recordAt eng r := by
  have habnd : (r.abnd || r.out.isSome || r.stuck.isSome || (false && r.started && eng != 0)) = true ↔
      r.abnd = true ∨ r.out.isSome = true ∨ r.stuck.isSome = true := by simp [or_assoc]
  simp only [runBits, recordAt, b2n, habnd, ite_mul, Nat.one_mul, Nat.zero_mul]

/-- The place of the record that an engine shows, none where it shows none. -/
def placeBits (eng : Nat) (head : Option Run) : Nat :=
  match head with
  | some r => recordAt eng r
  | none => 0

/-- The sibling that holds the MX's record, or that the CP's record waits for a translation (R354). -/
def restBits (eng : Nat) (peer : Option Nat) (stuck : Prop) [Decidable stuck] : Nat :=
  match peer with
  | some k => 2 ^ 337 + k % 512 * 2 ^ 338
  | none => if eng = 2 ∧ stuck then 2 ^ 192 else 0

/-- The CP's record stands at an access whose translation was not resolved (R230). -/
def StandsStuck (e : Engine) : Prop := ∃ r, e.run = some r ∧ r.stuck.isSome = true

theorem add_last (a c p x : Nat) : a + c + p + x = a + x + c + p := by omega

theorem add_last_two (a c p x y : Nat) : a + c + p + (x + y) = a + x + y + c + p := by omega

/-- An engine's record beside what a fault fixed: its place, the sibling or the access it waits at, its counter and its
queue (R354). -/
theorem engineBits_eq (t : Tile) (eng : Nat) [Decidable (ShowsAway (t.eng eng))] [Decidable (StandsStuck (t.eng eng))] :
    engineBits t eng false false =
      placeBits eng (if ShowsAway (t.eng eng) then (t.eng eng).away else (t.eng eng).run) +
      restBits eng (if eng = 0 ∧ ShowsAway (t.eng eng) then (t.eng eng).away.bind (·.peer) else none) (StandsStuck (t.eng eng)) +
      (t.eng eng).csn.toNat * 2 ^ 128 + min 31 (t.eng eng).pq.length * 2 ^ 160 := by
  have hstuck : ((t.eng eng).run.map (·.stuck.isSome)).getD false = true ↔ StandsStuck (t.eng eng) := by
    unfold StandsStuck
    cases (t.eng eng).run <;> simp
  unfold engineBits
  simp only [shown_eq, hstuck]
  generalize t.eng eng = e at *
  have hMx : ¬ (0 = 2 ∧ StandsStuck e) := fun h => absurd h.1 (by decide)
  by_cases hs : ShowsAway e
  · obtain ⟨a, ha⟩ := Option.isSome_iff_exists.mp hs.1
    simp only [if_pos hs, ha, placeBits, ← runBits_eq, Option.bind_some]
    cases eng with
    | zero =>
      simp only [true_and, if_pos hs, if_true]
      cases a.peer with
      | none => simp only [restBits, hMx, if_false, add_zero]; exact add_last _ _ _ _
      | some k => simp only [restBits, hMx, if_false, add_zero]; exact add_last_two _ _ _ _ _
    | succ n => simp only [restBits, Nat.succ_ne_zero, false_and, if_false, add_zero]; exact add_last _ _ _ _
  · simp only [placeBits, hs, and_false, if_false, restBits]
    cases hr : e.run with
    | none =>
      have hnot : ¬ StandsStuck e := by rintro ⟨r, h, -⟩; rw [hr] at h; cases h
      simp only [hnot, and_false, if_false, add_zero]
    | some r =>
      simp only [← runBits_eq]
      cases eng with
      | zero => simp only [if_true, hMx, if_false, add_zero]; exact add_last _ _ _ _
      | succ n => simp only [Nat.succ_ne_zero, if_false, add_zero]; exact add_last _ _ _ _

/-! ### A quiesce record fits its 64 bytes -/

theorem mul_pow_le {a i : Nat} (j : Nat) {k : Nat} (ha : a < 2 ^ i) (hk : i + j ≤ k) : a * 2 ^ j ≤ 2 ^ k :=
  calc a * 2 ^ j ≤ 2 ^ i * 2 ^ j := Nat.mul_le_mul_right _ ha.le
    _ = 2 ^ (i + j) := (pow_add 2 i j).symm
    _ ≤ 2 ^ k := Nat.pow_le_pow_right (by decide) hk

theorem recordAt_le (eng : Nat) (r : Run) {k : Nat} (hk : 232 ≤ k) : recordAt eng r ≤ 4 * 2 ^ k := by
  have haddr : r.addr.toNat ≤ 2 ^ k := r.addr.isLt.le.trans (Nat.pow_le_pow_right (by decide) (by omega))
  have hprog := mul_pow_le 64 (k := k)
    (Nat.mod_lt (if eng = 2 then 256 * r.prog else r.prog) (Nat.two_pow_pos 48)) (by omega)
  have habnd : (if r.abnd = true ∨ r.out.isSome = true ∨ r.stuck.isSome = true then 2 ^ 112 else 0) ≤ 2 ^ k := by
    split
    · exact Nat.pow_le_pow_right (by decide) (by omega)
    · exact Nat.zero_le _
  have hstamp : (if eng = 0 then r.stamp.toNat * 2 ^ 192 else 0) ≤ 2 ^ k := by
    split
    · exact mul_pow_le 192 r.stamp.isLt (by omega)
    · exact Nat.zero_le _
  have hsum := Nat.add_le_add (Nat.add_le_add (Nat.add_le_add haddr hprog) habnd) hstamp
  exact hsum.trans (by omega)

theorem restBits_le (eng : Nat) (peer : Option Nat) (stuck : Prop) [Decidable stuck] {k : Nat} (hk : 347 ≤ k) :
    restBits eng peer stuck ≤ 2 * 2 ^ k := by
  cases peer with
  | some n =>
    rw [Nat.two_mul]
    exact Nat.add_le_add (Nat.pow_le_pow_right (by decide) (by omega))
      (mul_pow_le 338 (Nat.mod_lt n (show 0 < 2 ^ 9 by decide)) (by omega))
  | none =>
    simp only [restBits]
    split
    · exact (Nat.pow_le_pow_right (by decide) (by omega)).trans (Nat.le_mul_of_pos_left _ (by decide))
    · exact Nat.zero_le _

theorem engineBits_lt (t : Tile) (eng : Nat) {k : Nat} (hk : 347 ≤ k) : engineBits t eng false false < 2 ^ (4 + k) := by
  classical
  have hplace (head : Option Run) : placeBits eng head ≤ 4 * 2 ^ k := by
    cases head with
    | none => exact Nat.zero_le _
    | some r => exact recordAt_le eng r (by omega)
  have hcsn := mul_pow_le 128 (k := k) (t.eng eng).csn.isLt (by omega)
  have hqueue := mul_pow_le 160 (k := k) (Nat.lt_of_le_of_lt (Nat.min_le_left 31 (t.eng eng).pq.length)
    (show 31 < 2 ^ 5 by decide)) (by omega)
  have hpos : 0 < 2 ^ k := Nat.two_pow_pos k
  rw [engineBits_eq, pow_add]
  refine lt_of_le_of_lt (Nat.add_le_add (Nat.add_le_add (Nat.add_le_add (hplace _) (restBits_le eng _ _ hk)) hcsn) hqueue) ?_
  omega

theorem quiesceRecord_lt_of_bits {tid : Nat} {t : Tile} {d : Drain} {eng bound : Nat}
    (hrest : (engineBits t eng false false + 1) * 2 ^ 128 ≤ bound) : quiesceRecord tid t d eng < bound := by
  have htask := t.taskid.isLt
  rw [quiesceRecord]
  omega

theorem quiesceRecord_lt (tid : Nat) (t : Tile) (d : Drain) (eng : Nat) : quiesceRecord tid t d eng < 256 ^ 64 := by
  refine quiesceRecord_lt_of_bits ?_
  rw [show 256 ^ 64 = 2 ^ (4 + 380) * 2 ^ 128 by rw [← pow_add, show 256 = 2 ^ 8 from rfl, ← pow_mul]]
  exact Nat.mul_le_mul_right _ (engineBits_lt t eng (by decide))

theorem scale_fields (x c q : Nat) :
    (x + c * 2 ^ 128 + q * 2 ^ 160) * 2 ^ 128 = x * 2 ^ 128 + c * 2 ^ 256 + q * 2 ^ 288 := by
  rw [Nat.add_mul, Nat.add_mul, Nat.mul_assoc c, ← pow_add, Nat.mul_assoc q, ← pow_add]

theorem quiesceRecord_eq (tid : Nat) (t : Tile) (d : Drain) {eng rest : Nat} (h4 : eng < 4)
    (hrest : engineBits t eng false false =
      rest + (t.eng eng).csn.toNat * 2 ^ 128 + min 31 (t.eng eng).pq.length * 2 ^ 160) :
    quiesceRecord tid t d eng = t.taskid.toNat + tid % 512 * 2 ^ 47 + (4 + eng) * 2 ^ 56 + 2 ^ 59 + 2 ^ 63 +
      SMap.get 0 d.quiet eng % 2 ^ 64 * 2 ^ 64 + rest * 2 ^ 128 + (t.eng eng).csn.toNat * 2 ^ 256 +
        min 31 (t.eng eng).pq.length * 2 ^ 288 := by
  rw [quiesceRecord, hrest, Nat.mod_eq_of_lt (show 4 + eng < 8 by omega), scale_fields, ← Nat.add_assoc, ← Nat.add_assoc]

/-- The slot of a save holds an engine's quiesce record (R358, R359). -/
theorem storeQuiesce_pread {s : State} (hwf : s.mem0.wf = true) (p slot tid : Nat) (t : Tile) (d : Drain) {eng : Nat} (h4 : eng < 4) :
    (s.storeQuiesce p slot tid t d).pread 0
      (bits (s.part p).savebase.toNat 51 22 * 2 ^ 22 + slot * 2 ^ 22 + 64 * (4 + eng)) 64 = quiesceRecord tid t d eng := by
  have hmem : eng ∈ [0, 1, 2, 3] := by
    simp only [List.mem_cons, List.not_mem_nil, or_false]
    omega
  rw [State.storeQuiesce, pread_records (quiesceRecord_lt tid t d) _ [0, 1, 2, 3] hwf eng, if_pos hmem]

end Sys2Proof.Proofs
end

section
/-! SUPPORT. Requests, forced boundaries, saves and restores (R125, R327, R328, R357 to R359), and O49. -/

namespace Sys2Proof.Proofs

open Sys2Proof.Machine Sys2Proof.Laws

/-! ## Requests (R327, R328) -/

/-- A request reaches the tile of a running task. -/
def askOn (grace : Nat) (s : State) (x : Nat × Nat) : State := s.onTile x.2 fun t => { t with preq := some ⟨grace⟩ }

def askedTile (grace tid : Nat) (x : Nat × Nat) (t : Tile) : Tile := if tid = x.2 then { t with preq := some ⟨grace⟩ } else t

theorem askOn_tile (grace tid : Nat) (s : State) (x : Nat × Nat) :
    (askOn grace s x).tile tid = askedTile grace tid x (s.tile tid) := by
  unfold askedTile
  split
  · rename_i h
    subst h
    exact tile_onTile s _ _
  · exact tile_onTile_ne s _ ‹_›

theorem asked_tiles (grace : Nat) (run : List (Nat × Nat)) (s : State) :
    (∀ x ∈ run, (run.map (·.2)).Nodup → (run.foldl (askOn grace) s).tile x.2 = { s.tile x.2 with preq := some ⟨grace⟩ }) ∧
    ∀ tid, tid ∉ run.map (·.2) → (run.foldl (askOn grace) s).tile tid = s.tile tid := by
  have htile (tid : Nat) := foldl_tile (askOn_tile grace tid) run s
  refine ⟨fun x hx hnd => ?_, fun tid hnot => ?_⟩
  · have hother (t : Tile) (y : Nat × Nat) (hy : y ∈ run) (hne : y ≠ x) : askedTile grace x.2 y t = t :=
      if_neg fun he => hne (List.inj_on_of_nodup_map hnd hy hx he.symm)
    exact (htile x.2).trans ((foldl_once hnd.of_map hx (hother _) (hother _)).trans (if_pos rfl))
  · refine (htile tid).trans (foldl_idle fun y hy => if_neg ?_)
    rintro he
    exact hnot (List.mem_map.mpr ⟨y, hy, he.symm⟩)

/-- The slots that a request reserves. -/
def askedSlots (s : State) (u : WorkUnit) : List (Nat × Nat) :=
  (u.runningTasks.map fun x => (u.id, x.1)).filter fun x => !(s.part s.focus.part).reserved.contains x

/-- The package once a launch has been asked: its tiles, the slots reserved, its saves that stay, and the launch's mark. -/
def asked (s : State) (u : WorkUnit) : State :=
  let a := (u.runningTasks.foldl (askOn u.grace) s).onPart s.focus.part fun y => { y with reserved := y.reserved ++ askedSlots s u }
  ({ a with saves := a.saves.map fun (x : Saved) => if x.part = s.focus.part ∧ x.lid = u.id then { x with go := false } else x } :
    State).onUnit s.focus.part 0 u.id fun u => { u with preempting := true }

theorem asked_part (s : State) (u : WorkUnit) : (asked s u).part s.focus.part =
    { s.part s.focus.part with reserved := (s.part s.focus.part).reserved ++ askedSlots s u } := by
  have hpart : (u.runningTasks.foldl (askOn u.grace) s).part s.focus.part = s.part s.focus.part :=
    foldl_keeps (fun t => t.part s.focus.part) (f := askOn u.grace) (fun _ _ => rfl) u.runningTasks s
  rw [← hpart]
  exact part_onPart (u.runningTasks.foldl (askOn u.grace) s) s.focus.part fun y =>
    { y with reserved := y.reserved ++ askedSlots s u }

theorem exec_preemptRequest {s : State} {u h : WorkUnit} {hid : Nat} {place : List Nat}
    (hu : s.unit s.focus.part 0 s.focus.idx = some u) (hhead : (s.part s.focus.part).head = some (hid, place))
    (hh : s.unit s.focus.part 0 hid = some h) (hpre : u.preempting = false) (hload : u.loaded = true)
    (hres : u.resumable = false) (hid' : u.id ≠ hid) (hhalt : (s.part s.focus.part).halt = none)
    (hmeet : ∃ t ∈ u.place, t ∈ place) (hprio : u.prio < s.effPrio h) (hslice : u.slice ≠ 0)
    (hspare : (askedSlots s u).length ≤ s.spareSlots s.focus.part)
    (hdue : u.slice ≤ u.stayed ∨ ∃ x ∈ u.runningTasks, u.slice ≤ (s.tile x.2).resident) :
    exec .preemptRequest s = .next (asked s u) := by
  have hgo : ¬ (u.preempting || !u.loaded || u.resumable || u.id == hid || (s.part s.focus.part).halt.isSome ||
      !(u.place.any (place.contains ·)) || s.effPrio h ≤ u.prio || u.slice == 0 ||
      s.spareSlots s.focus.part < (askedSlots s u).length ||
      !(decide (u.slice ≤ u.stayed) || u.runningTasks.any fun x => decide (u.slice ≤ (s.tile x.2).resident))) = true := by
    have hmeet' : u.place.any (place.contains ·) = true := by simpa using hmeet
    have hdue' : (decide (u.slice ≤ u.stayed) || u.runningTasks.any fun x => decide (u.slice ≤ (s.tile x.2).resident)) = true := by
      rw [Bool.or_eq_true, decide_eq_true_eq, List.any_eq_true]
      simpa only [decide_eq_true_eq] using hdue
    rw [hpre, hload, hres, hhalt, hmeet', hdue']
    simp [hid', hprio, hslice, hspare]
  change execPreemptRequest s = _
  simp only [execPreemptRequest, hu, hhead, hh]
  exact congrArg Host.Outcome.next (if_neg hgo)

/-! ## Forced boundaries (R328, R357) -/

theorem exec_forcedBoundary {s : State} (hreq : s.me.preq = some ⟨0⟩) (hclk : s.me.clockRuns = true)
    (hdrain : s.me.drain = none) (hhalt : (s.part s.myPart).halt = none) (hyield : s.willYield s.focus.tile = false) :
    exec .forcedBoundary s = .next ((match s.me.res with
      | some r => s.countForced r
      | none => s).onMe fun t => { t with drain := some ⟨BitVec.allOnes 24, true, true, []⟩ }) := by
  change execForcedBoundary s = _
  simp only [execForcedBoundary, hreq, hclk, hdrain, hhalt, hyield]
  rfl

/-- A forced boundary is counted in units alone (R328). -/
theorem countForced_frame (s : State) (r : Residence) : s.countForced r = { s with units := (s.countForced r).units } := by
  unfold State.countForced
  split <;> rfl

theorem forced_is (u : WorkUnit) (p level id : Nat) : u.forced.is p level id = u.is p level id := rfl

/-- Of a unit one change counts where it is named. -/
theorem onUnit_forced {s : State} {p level id a b : Nat} {v : WorkUnit} (hv : s.unit p level id = some v) :
    (s.onUnit p a b .forced).unit p level id = some (if level = a ∧ id = b then v.forced else v) := by
  have his : v.is p level id = true := by simpa using List.find?_some hv
  obtain ⟨hp, hl, hi⟩ := is_names his
  have hnamed : v.is p a b = true ↔ level = a ∧ id = b := by
    simp only [WorkUnit.is, hp, hl, hi, beq_self_eq_true, Bool.true_and] at his ⊢
    simp only [his, Bool.and_true, Bool.and_eq_true, beq_iff_eq]
  rw [onUnit_unit s p a b .forced (fun u c d => forced_is u p c d), hv]
  simp only [Option.map_some, hnamed]

/-- The launch, and its graph, fold and job, count one more forced boundary (R316, R328). -/
theorem countForced_unit {s : State} {r : Residence} {u v : WorkUnit} {level id : Nat} (hu : s.unit r.part 0 r.lid = some u)
    (hv : s.unit r.part level id = some v) : (s.countForced r).unit r.part level id =
      some (if (level, id) ∈ [(0, r.lid), (1, u.gid), (2, u.fold), (3, u.jid)] then v.forced else v) := by
  simp only [State.countForced, hu]
  rw [onUnit_forced (onUnit_forced (onUnit_forced (onUnit_forced hv)))]
  generalize WorkUnit.forced = f
  rcases level with _ | _ | _ | _ | level <;> simp

/-! ## Saves (R330, R357 to R359) -/

/-- The tiles, the focus and the saves. -/
def savesOf (s : State) : (SMap Tile × Focus) × List Saved := (siteOf s, s.saves)

theorem pwrite_saves (s : State) (a n v : Nat) : savesOf (s.pwrite 0 a n v) = savesOf s := rfl

theorem storeQuiesce_saves (s : State) (p slot tid : Nat) (t : Tile) (d : Drain) :
    savesOf (s.storeQuiesce p slot tid t d) = savesOf s := by
  rw [State.storeQuiesce]
  exact foldl_keeps savesOf (fun s eng => pwrite_saves s _ _ _) _ s

/-- The package with the quiesce records of the focus tile's engines in the slot. -/
def quiesced (s : State) (r : Residence) (slot : Nat) : State :=
  match (s.me.noteQuiet s.dcc).drain with
  | some d => s.storeQuiesce r.part slot s.focus.tile s.me d
  | none => s

theorem quiesced_saves (s : State) (r : Residence) (slot : Nat) : savesOf (quiesced s r slot) = savesOf s := by
  unfold quiesced
  split
  · exact storeQuiesce_saves ..
  · rfl

theorem changeUnit_saves (s : State) {p level : Nat} (id : Nat) {f : WorkUnit → WorkUnit}
    (hpart : ∀ u, (f u).part = u.part) (hstat : ∀ u, (f u).stat = u.stat) : (s.changeUnit p level id f).saves = s.saves :=
  (changeUnit_status s id hpart hstat).saves

/-- What a launch that settles leaves: the tiles, and the saves but for whether they resume by themselves (R328). -/
theorem settlePreempt_saves (s : State) (p lid : Nat) :
    ∃ g : Saved → Saved, (s.settlePreempt p lid).saves = s.saves.map g ∧ ∀ x, g x = { x with yielded := (g x).yielded } := by
  unfold State.settlePreempt
  split
  · exact ⟨id, (List.map_id _).symm, fun _ => rfl⟩
  · split
    · refine ⟨fun x => if x.part = p ∧ x.lid = lid then { x with yielded := false } else x, ?_, fun x => ?_⟩
      · rw [changeUnit_saves]
        · exact fun _ => rfl
        · exact fun _ => rfl
      · dsimp only
        split <;> rfl
    · exact ⟨id, (List.map_id _).symm, fun _ => rfl⟩

/-- The save of a task (R358, R359). -/
def saveOf (s : State) (r : Residence) (d : Drain) (slot : Nat) : Saved :=
  ⟨!d.requested, false, r.part, r.lid, r.rank, s.focus.tile, slot, d.bitmap,
    ({ s.me with drain := none, preq := none, preload := none, live := false } : Tile).forget d.bitmap⟩

/-- The package with a task saved and its tile free. -/
def savedAway (s : State) (r : Residence) (d : Drain) (slot : Nat) : State :=
  ({ quiesced s r slot with saves := (quiesced s r slot).saves ++ [saveOf s r d slot] } : State).onMe Tile.evict

/-- The package after a save: the slot no longer reserved, the launch settled, and a choice to come. -/
def saved (s : State) (r : Residence) (d : Drain) (slot : Nat) : State :=
  (((savedAway s r d slot).onPart r.part fun y =>
    { y with reserved := y.reserved.filter (· != (r.lid, r.rank)) }).taskSaved r d s.me.resident).choiceEvent r.part

/-- What SAVE makes of a task that drains. -/
def saveStep (s : State) (d : Drain) (r : Residence) : State :=
  if !d.on || s.me.halted || (s.part r.part).halt.isSome then s
  else if !s.me.drained then s.onMe (Tile.noteQuiet s.dcc)
  else if s.me.saveBad d.bitmap then raiseHalt s r.part cECC 10 0
  else match s.openSlots r.part with
    | [] => s
    | slot :: _ => saved s r d slot

theorem execSave_eq (s : State) : execSave s = .next (match s.me.drain, s.me.res with
    | some d, some r => saveStep s d r
    | _, _ => s) := rfl

section
variable {s : State} {d : Drain} {r : Residence} (hdrain : s.me.drain = some d) (hres : s.me.res = some r) (hon : d.on = true)
  (hdone : s.me.drained = true) (hrun : s.me.halted = false) (hhalt : (s.part r.part).halt = none)
include hdrain hres hon hdone hrun hhalt

theorem exec_save : exec .save s = .next (if s.me.saveBad d.bitmap then raiseHalt s r.part cECC 10 0
    else match s.openSlots r.part with
      | [] => s
      | slot :: _ => saved s r d slot) := by
  change execSave s = _
  rw [execSave_eq, hdrain, hres]
  exact congrArg Host.Outcome.next ((if_neg (by simp [hon, hrun, hhalt])).trans (if_neg (by simp [hdone])))

end

theorem saved_away (s : State) (r : Residence) (d : Drain) (slot : Nat) :
    ∃ x ∈ (saved s r d slot).saves, (saved s r d slot).saves.length = s.saves.length + 1 ∧
      x = { saveOf s r d slot with yielded := x.yielded } := by
  have hsaves : (quiesced s r slot).saves = s.saves := congrArg Prod.snd (quiesced_saves s r slot)
  obtain ⟨g, hg, hkeeps⟩ := settlePreempt_saves ((((savedAway s r d slot).onPart r.part fun y =>
    { y with reserved := y.reserved.filter (· != (r.lid, r.rank)) }).onUnit r.part 0 r.lid fun u =>
      u.leave r.rank (if d.requested then 3 else 2) s.me.resident)) r.part r.lid
  have hall : (saved s r d slot).saves = (s.saves ++ [saveOf s r d slot]).map g := by
    rw [← hsaves]; exact hg
  rw [hall]
  refine ⟨g (saveOf s r d slot), List.mem_map_of_mem (by simp), by simp, hkeeps _⟩

theorem saved_me (s : State) (r : Residence) (d : Drain) (slot : Nat) : (saved s r d slot).me = s.me.evict := by
  have hsite : siteOf (quiesced s r slot) = siteOf s := congrArg Prod.fst (quiesced_saves s r slot)
  have hme : (quiesced s r slot).me = s.me := me_of_site hsite
  have hsettled : siteOf (saved s r d slot) = siteOf (savedAway s r d slot) := settlePreempt_site ..
  rw [me_of_site hsettled, ← hme]
  exact me_setTile _ _

/-! ## Restores (R358 to R360) -/

/-- A tile as its save puts it back: what no task owns is as the tile has it (R139, R358). -/
def restoredTile (x : Saved) (t : Tile) : Tile := { x.tile with
  live := true, preload := t.preload, sseq := t.sseq, shadowStore := t.shadowStore
  shadowImage := t.shadowImage, resident := if x.yielded then x.tile.resident else 0
  sp := execRestore.restoreSp x.tile t
  bad := t.bad.filter fun w => !execRestore.savedWord x.tile w }

def restoreOn (s : State) (y : Saved × Option Tile) : State :=
  match y.2 with
  | some t => s.setTile y.1.tid (restoredTile y.1 t)
  | none => s

/-- What that makes of one tile. -/
def putBack (tid : Nat) (y : Saved × Option Tile) (t : Tile) : Tile :=
  match y.2 with
  | some c => if tid = y.1.tid then restoredTile y.1 c else t
  | none => t

theorem restoreOn_tile (tid : Nat) (s : State) (y : Saved × Option Tile) :
    (restoreOn s y).tile tid = putBack tid y (s.tile tid) := by
  unfold restoreOn putBack
  cases y.2 with
  | none => rfl
  | some c =>
    dsimp only
    split
    · rename_i h
      subst h
      exact tile_setTile s _ _
    · exact tile_setTile_ne s _ ‹_›

theorem putBack_other {tid : Nat} {y : Saved × Option Tile} (t : Tile) (h : y.1.tid ≠ tid) : putBack tid y t = t := by
  unfold putBack
  split
  · exact if_neg fun he => h he.symm
  · rfl

/-- The saves to be restored, each with the copy of its tile. -/
def restoreCopies (s : State) (l : List Saved) : List (Saved × Option Tile) :=
  l.map fun x => (x, s.shadowCopy s.focus.part (s.tile x.tid))

theorem restored_tiles (s : State) {l : List Saved} (hnd : (l.map (·.tid)).Nodup) :
    let t := (restoreCopies s l).foldl restoreOn s
    (∀ x ∈ l, ∀ c, s.shadowCopy s.focus.part (s.tile x.tid) = some c → t.tile x.tid = restoredTile x c) ∧
    ∀ tid, tid ∉ l.map (·.tid) → t.tile tid = s.tile tid := by
  intro t
  have htile (tid : Nat) := foldl_tile (restoreOn_tile tid) (restoreCopies s l) s
  refine ⟨fun x hx c hc => ?_, fun tid hnot => ?_⟩
  · have hother (t : Tile) (y : Saved × Option Tile) (hy : y ∈ restoreCopies s l) (hne : y ≠ (x, some c)) :
        putBack x.tid y t = t := by
      obtain ⟨z, hz, rfl⟩ := List.mem_map.mp hy
      refine putBack_other t fun he => hne ?_
      rw [List.inj_on_of_nodup_map hnd hz hx he, hc]
    have hin : (x, some c) ∈ restoreCopies s l := List.mem_map.mpr ⟨x, hx, by rw [hc]⟩
    have hnodup : (restoreCopies s l).Nodup := by
      refine .of_map (fun y => y.1.tid) ?_
      rw [restoreCopies, List.map_map]
      exact hnd
    exact (htile x.tid).trans ((foldl_once hnodup hin (hother _) (hother _)).trans (if_pos rfl))
  · refine (htile tid).trans (foldl_idle fun y hy => putBack_other _ ?_)
    obtain ⟨z, hz, rfl⟩ := List.mem_map.mp hy
    rintro rfl
    exact hnot (List.mem_map_of_mem hz)

/-- The shadow image changes nothing of a tile but its shadow store (R139). -/
theorem shadowCopy_keeps {s : State} {p : Nat} {t c : Tile} (h : s.shadowCopy p t = some c) :
    c.preload = t.preload ∧ c.sseq = t.sseq := by
  unfold State.shadowCopy at h
  dsimp only at h
  split at h
  · cases h; exact ⟨rfl, rfl⟩
  · split at h
    · cases h; exact ⟨rfl, rfl⟩
    · split at h
      · cases h
      · cases h; exact ⟨rfl, rfl⟩

/-- The saves that a restore is for. -/
def isRestored (s : State) (x : Saved) : Bool := x.part == s.focus.part && x.lid == s.focus.idx && x.go

/-- The launch of the tasks that are restored. -/
def restoredUnit (l : List Saved) (u : WorkUnit) : WorkUnit := { u with
  starting := false, loaded := true, state := 1, stayed := if l.all (·.yielded) then u.stayed else 0
  tasks := l.foldl (fun t x => t.set x.rank 1) u.tasks }

/-- The package with the tasks of some saves on their tiles again. -/
def putBackAll (s : State) (l : List Saved) : State :=
  l.foldl (fun (s : State) x => s.newTask x.tid) ((restoreCopies s l).foldl restoreOn s)

/-- Does the slot of a save hold an uncorrectable error? -/
def slotBad (s : State) (x : Saved) : Bool :=
  s.memBad 0 (bits (s.part s.focus.part).savebase.toNat 51 22 * 2 ^ 22 + x.slot * 2 ^ 22) (2 ^ 22)

/-- The package after a restore: the saves gone from their slots, and the launch running. -/
def restored (s : State) : State :=
  let t := putBackAll s (s.saves.filter (isRestored s))
  ({ t with saves := t.saves.filter fun x => !isRestored s x } : State).changeUnit s.focus.part 0 t.focus.idx
    (restoredUnit (s.saves.filter (isRestored s)))

theorem execRestore_eq (s : State) : execRestore s = .next (
    let l := s.saves.filter (isRestored s)
    if (l.isEmpty || (s.part s.focus.part).halt.isSome || l.any (fun x => (s.tile x.tid).res.isSome)) = true then s
    else if ((restoreCopies s l).any (·.2.isNone) || l.any (slotBad s)) = true
    then raiseHalt s s.focus.part cECC 10 0
    else restored s) := rfl

theorem exec_restore {s : State} (hne : s.saves.filter (isRestored s) ≠ []) (hhalt : (s.part s.focus.part).halt = none)
    (hfree : ∀ x ∈ s.saves.filter (isRestored s), (s.tile x.tid).res = none ∧
      (s.shadowCopy s.focus.part (s.tile x.tid)).isSome = true ∧ slotBad s x = false) :
    exec .restore s = .next (restored s) := by
  generalize hl : s.saves.filter (isRestored s) = l at hne hfree
  have hgo : ¬ (l.isEmpty || (s.part s.focus.part).halt.isSome || l.any (fun x => (s.tile x.tid).res.isSome)) = true := by
    have hany : l.any (fun x => (s.tile x.tid).res.isSome) = false := by
      simpa [Option.isSome_eq_false_iff] using fun x hx => (hfree x hx).1
    rw [hany, hhalt]
    simpa using hne
  have hread : ¬ ((restoreCopies s l).any (·.2.isNone) || l.any (slotBad s)) = true := by
    have hcopies : (restoreCopies s l).any (·.2.isNone) = false := by
      rw [List.any_eq_false]
      intro y hy
      obtain ⟨x, hx, rfl⟩ := List.mem_map.mp hy
      simpa [Option.isSome_iff_ne_none] using (hfree x hx).2.1
    have hmem : l.any (slotBad s) = false := by simpa using fun x hx => (hfree x hx).2.2
    rw [hcopies, hmem]
    exact Bool.false_ne_true
  subst hl
  change execRestore s = _
  rw [execRestore_eq, if_neg hgo, if_neg hread]

theorem newTask_saves (s : State) (tid : Nat) : (s.newTask tid).saves = s.saves := by
  rw [State.newTask, State.leaveWalks, State.leaveWalks, State.tookWalks, State.tookWalks]

theorem putBackAll_saves (s : State) (l : List Saved) :
    (putBackAll s l).tiles = ((restoreCopies s l).foldl restoreOn s).tiles ∧ (putBackAll s l).saves = s.saves := by
  have hnew := foldl_keeps (fun s => (s.tiles, s.saves)) (f := fun (s : State) (x : Saved) => s.newTask x.tid)
    (fun s x => Prod.ext (newTask_tiles s x.tid) (newTask_saves s x.tid)) l
    ((restoreCopies s l).foldl restoreOn s)
  have hback : ((restoreCopies s l).foldl restoreOn s).saves = s.saves :=
    foldl_keeps (fun s => s.saves) (fun s y => by unfold restoreOn; split <;> rfl) (restoreCopies s l) s
  exact ⟨congrArg Prod.fst hnew, (congrArg Prod.snd hnew).trans hback⟩

/-- A restore leaves the tiles as the saves put them back, and their slots empty. -/
theorem restored_does (s : State) :
    (∀ tid, (restored s).tile tid = ((restoreCopies s (s.saves.filter (isRestored s))).foldl restoreOn s).tile tid) ∧
      (restored s).saves = s.saves.filter fun x => !isRestored s x := by
  obtain ⟨htiles, hsaves⟩ := putBackAll_saves s (s.saves.filter (isRestored s))
  refine ⟨fun tid => congrArg (fun m => (SMap.find m tid).getD Tile.reset) ((congrArg Prod.fst (changeUnit_site ..)).trans htiles),
    (changeUnit_saves _ _ ?_ ?_).trans (congrArg (List.filter fun x => !isRestored s x) hsaves)⟩
  · exact fun _ => rfl
  · exact fun _ => rfl

/-- Settles O49: requests and forced boundaries by their conditions, a save by what it reads and leaves, the quiesce
records by their bits, and a restore by its tiles. -/
theorem preemptedTasksAreSavedAndRestored : Obligations.PreemptedTasksAreSavedAndRestored := by
  refine ⟨fun s u h hid place => ?request, fun s hreq hclk hdrain hhalt hyield => ⟨fun hres => ?idle, fun r hres => ?boundary⟩,
    fun s r u hu => ⟨countForced_frame s r, fun level id v hv => countForced_unit hu hv⟩,
    fun s d r slot more hdrain hres hon hdone hrun hhalt => ⟨saveBad_iff hres _, fun hbad => ?stopped, fun hgood hslot => ?save⟩,
    fun s p slot tid eng t d h4 hwf => ?quiesce,
    fun t bm k => ⟨fun _ => forget_sreg t bm k, fun _ => forget_vreg t bm k, fun a _ hk => forget_accRow t bm hk⟩,
    forget_badAcc, fun s => ?restore⟩
  case request =>
    intro p run ask hu hhead hh hpre hload hres hne hhalt hmeet hprio hslice hspare hdue hnd
    obtain ⟨hasked, hother⟩ := asked_tiles u.grace u.runningTasks s
    refine ⟨_, exec_preemptRequest hu hhead hh hpre hload hres hne hhalt hmeet hprio hslice hspare hdue,
      fun x hx => hasked x hx hnd, hother, asked_part s u⟩
  case idle =>
    rw [exec_forcedBoundary hreq hclk hdrain hhalt hyield, hres]
    rfl
  case boundary =>
    rw [exec_forcedBoundary hreq hclk hdrain hhalt hyield, hres]
    dsimp only
    rw [countForced_frame s r]
    rfl
  case stopped =>
    rw [exec_save hdrain hres hon hdone hrun hhalt, if_pos hbad]
    rfl
  case save =>
    obtain ⟨x, hx, hlen, heq⟩ := saved_away s r d slot
    have hme := saved_me s r d slot
    refine ⟨saved s r d slot, x, ?_, hx, hlen, heq, by rw [hme]; rfl, by rw [hme]; rfl⟩
    rw [exec_save hdrain hres hon hdone hrun hhalt, hgood, hslot]
    rfl
  case quiesce =>
    intro e other at' more
    let _ : Decidable (ShowsAway (t.eng eng)) := inferInstanceAs (Decidable (_ ∧ ∀ r, _ → _))
    let _ : Decidable (StandsStuck (t.eng eng)) := inferInstanceAs (Decidable (∃ r, _ ∧ _))
    exact (storeQuiesce_pread hwf p slot tid t d h4).trans (quiesceRecord_eq tid t d h4 (engineBits_eq t eng))
  case restore =>
    intro p mine l pool hne hhalt hnd hfree
    obtain ⟨hback, hother⟩ := restored_tiles s hnd
    obtain ⟨htile, hsaves⟩ := restored_does s
    refine ⟨restored s, exec_restore hne hhalt hfree, hsaves, fun x hx => ?_, fun tid hnot => (htile tid).trans (hother tid hnot)⟩
    obtain ⟨c, hc⟩ := Option.isSome_iff_exists.mp (hfree x hx).2.1
    obtain ⟨hpreload, hsseq⟩ := shadowCopy_keeps hc
    rw [(htile x.tid).trans (hback x hx c hc), restoredTile, hpreload, hsseq]

end Sys2Proof.Proofs
end

section
/-! SUPPORT. Elementwise forms of the V strand (R141 to R153): the sub-elements of a lane as digits, the integer forms by one
rule for their operation, and O22 and O23. -/

namespace Sys2Proof.Proofs

open Sys2Proof.Machine Sys2Proof.Laws

/-! ## Floating-point forms (R146 to R151) -/

/-- Settles O22: each form is the unary, binary or ternary form of its operation. -/
theorem vectorFloatForms : Obligations.VectorFloatForms := by
  refine fun s o rm hv => ⟨fun h => ?one, fun h => ?two, fun h => ?three⟩
  case one =>
    have form := unaryOp_alone hv h
    exact ⟨form .fe 6 _, form .fe 6 _, form .fe 6 _, form .ft 10 _, form .ft 10 _, form .fe 6 rcpe, form .fe 6 rsqe⟩
  case two =>
    have form := binaryOp_alone hv h .fe
    exact ⟨form 6 _, form 6 _, form 6 _, form 6 _, form 6 _, form 8 (newton false), form 8 (newton true)⟩
  case three =>
    have form := ternaryOp_alone hv h .fe 6
    exact ⟨form _, form _, form _⟩

/-! ## Sub-elements of a lane (R45, R82, R152) -/

/-- A number put together from `n` digits of `w` bits, as a lane is from its sub-elements. -/
def digitSum (w : Nat) (d : Nat → Nat) (n : Nat) : Nat :=
  (List.range n).foldl (fun acc i => acc + d i * 2 ^ (w * i)) 0

theorem digitSum_succ (w : Nat) (d : Nat → Nat) (n : Nat) :
    digitSum w d (n + 1) = digitSum w d n + d n * 2 ^ (w * n) := by
  simp [digitSum, List.range_succ]

theorem digitSum_lt {w : Nat} {d : Nat → Nat} (hd : ∀ i, d i < 2 ^ w) (n : Nat) : digitSum w d n < 2 ^ (w * n) := by
  induction n with
  | zero => exact Nat.one_pos
  | succ n ih =>
    have htop : (d n + 1) * 2 ^ (w * n) ≤ 2 ^ w * 2 ^ (w * n) := Nat.mul_le_mul_right _ (hd n)
    rw [digitSum_succ, Nat.mul_succ, Nat.pow_add, Nat.mul_comm (2 ^ (w * n))]
    rw [Nat.succ_mul] at htop
    omega

/-- Each digit stands in its own place. -/
theorem digitSum_digit {w : Nat} {d : Nat → Nat} (hd : ∀ i, d i < 2 ^ w) {n i : Nat} (hi : i < n) :
    digitSum w d n / 2 ^ (w * i) % 2 ^ w = d i := by
  induction n with
  | zero => omega
  | succ n ih =>
    rw [digitSum_succ]
    obtain hlt | rfl := Nat.lt_succ_iff_lt_or_eq.mp hi
    · obtain ⟨k, rfl⟩ := Nat.exists_eq_add_of_lt hlt
      have hsplit : d (i + k + 1) * 2 ^ (w * (i + k + 1)) = 2 ^ (w * i) * (2 ^ w * (d (i + k + 1) * 2 ^ (w * k))) := by
        ring
      rw [hsplit, Nat.add_mul_div_left _ _ (Nat.two_pow_pos _), Nat.add_mul_mod_self_left, ih hlt]
    · rw [Nat.add_mul_div_right _ _ (Nat.two_pow_pos _), Nat.div_eq_of_lt (digitSum_lt hd i), Nat.zero_add,
        Nat.mod_eq_of_lt (hd i)]

/-- A sub-element of `w` bits is the digit of its index. -/
theorem bits_subElem {w : Nat} (hw : 0 < w) (x i : Nat) : bits x (w * i + w - 1) (w * i) = x / 2 ^ (w * i) % 2 ^ w := by
  rw [bits, show w * i + w - 1 + 1 - w * i = w by omega]

/-- A lane's results are the digits of the lane written. -/
theorem laneMap2_digits {w : Nat} (hw : 0 < w) (f : Nat → Nat → Nat) (x y : W32) :
    laneMap2 w f x y = BitVec.ofNat 32 (digitSum w
      (fun i => f (x.toNat / 2 ^ (w * i) % 2 ^ w) (y.toNat / 2 ^ (w * i) % 2 ^ w) % 2 ^ w) (32 / w)) := by
  simp only [laneMap2, digitSum, bits_subElem hw]

/-- Each sub-element of the result is the operation's on the sub-elements of its place, modulo 2^w (R152). -/
theorem laneMap2_subElem {w : Nat} (hw : w = 8 ∨ w = 16 ∨ w = 32) (f : Nat → Nat → Nat) (x y : W32) {i : Nat}
    (hi : i < 32 / w) : (laneMap2 w f x y).toNat / 2 ^ (w * i) % 2 ^ w =
      f (x.toNat / 2 ^ (w * i) % 2 ^ w) (y.toNat / 2 ^ (w * i) % 2 ^ w) % 2 ^ w := by
  have hpos : 0 < w := by omega
  have hfill : w * (32 / w) = 32 := by obtain rfl | rfl | rfl := hw <;> rfl
  have hd (i : Nat) : f (x.toNat / 2 ^ (w * i) % 2 ^ w) (y.toNat / 2 ^ (w * i) % 2 ^ w) % 2 ^ w < 2 ^ w :=
    Nat.mod_lt _ (Nat.two_pow_pos w)
  have hlt := digitSum_lt hd (32 / w)
  rw [hfill] at hlt
  rw [laneMap2_digits hpos, BitVec.toNat_ofNat, Nat.mod_eq_of_lt hlt, digitSum_digit hd hi]

/-! ## Integer operations (R152, R153) -/

/-- A packed integer form answers with its operation on the sub-elements of its lanes. -/
theorem laneOp_alone {s : State} (hv : Alone s .v) {o : VOps} (h : s.me.vReady o.kg o.kn [o.va, o.vb] (some o.vd))
    (w : Nat) {f g : Nat → Nat → Nat} (hfg : ∀ x y, f x y = g x y) :
    binaryOp s o .fe 6 (fun x y => (laneMap2 w f x y, f0)) =
      let a := s.me.vsrc o.va (s.me.sreg o.ss.toNat)
      let b := a.2.vsrc o.vb (s.me.sreg o.ss.toNat)
      .next (s.withMe (b.2.vdone o.vd 6 (s.me.guard o.kg o.kn)
        (map2 (fun x y => (laneMap2 w g x y, f0)) (maskList (s.me.guard o.kg o.kn)) a.1 b.1) .fe)) := by
  rw [show f = g from funext₂ hfg]
  exact binaryOp_alone hv h .fe 6 _

/-- A packed integer form of one source answers with its operation on the sub-elements of each lane. -/
theorem laneOpOne_alone {s : State} (hv : Alone s .v) {o : VOps} (h : s.me.vReady o.kg o.kn [o.va] (some o.vd))
    (w : Nat) {f g : Nat → Nat → Nat} (hfg : ∀ x y, f x y = g x y) :
    unaryOp s o .fe 6 (fun x => (laneMap2 w f x 0#32, f0)) =
      let a := s.me.vsrc o.va (s.me.sreg o.ss.toNat)
      .next (s.withMe (a.2.vdone o.vd 6 (s.me.guard o.kg o.kn)
        (map1 (fun x => (laneMap2 w g x 0#32, f0)) (maskList (s.me.guard o.kg o.kn)) a.1) .fe)) := by
  rw [show f = g from funext₂ hfg]
  exact unaryOp_alone hv h .fe 6 _

/-- The high half of a product modulo 2^(2w) is the quotient modulo 2^w. -/
theorem imulHigh_eq (n : Bool) (w x y : Nat) :
    imulHigh n w x y = (asInt n w x * asInt n w y / 2 ^ w % 2 ^ w).toNat := by
  have hpos : (0 : Int) < 2 ^ w := by positivity
  rw [imulHigh]
  generalize asInt n w x * asInt n w y = p
  have hsplit : p % (2 ^ (2 * w) : Int) / 2 ^ w = p / 2 ^ w % 2 ^ w := by
    rw [two_mul, pow_add, Int.emod_def, mul_assoc, Int.sub_mul_ediv_left p _ hpos.ne', Int.emod_def,
      Int.ediv_ediv_of_nonneg hpos.le]
  obtain ⟨m, hm⟩ := Int.eq_ofNat_of_zero_le (Int.emod_nonneg p (show (2 ^ (2 * w) : Int) ≠ 0 by positivity))
  rw [← hsplit, hm]
  norm_cast

/-- A form without sources answers with what it computes from its guard. -/
theorem vectorNone_alone {s : State} (hv : Alone s .v) {o : VOps} (h : s.me.vReady o.kg o.kn [] (some o.vd))
    (u : VUnit) (lat : Nat) (f : BitVec 1024 → List W32 → List W32 → List W32 → BitVec 1024 × List W32 × Flags) :
    vectorOp s o 0 u lat f =
      let r := f (s.me.guard o.kg o.kn) zeroVec zeroVec zeroVec
      .next (s.withMe (s.me.vdone o.vd lat r.1 r.2 u)) :=
  vissue hv h _

/-- The absolute value of a natural sub-element is the sub-element. -/
theorem natAbs_asInt (n : Bool) (w x : Nat) :
    (if n then x else (asInt false w x).natAbs) = (asInt n w x).natAbs := by
  cases n with
  | false => rfl
  | true => simp [asInt]

/-- A scalar broadcast reads the low half of its scalar in every lane, and pops nothing (R80). -/
theorem vsrc_broadcast (t : Tile) (ss : W64) : t.vsrc 76#7 ss = (List.replicate 1024 (ss.setWidth 32), t) := rfl

theorem asInt_eq (n : Bool) (w x : Nat) :
    asInt n w x = if n = true ∨ x < 2 ^ (w - 1) then (x : Int) else x - 2 ^ w := by
  cases n with
  | true => simp [asInt]
  | false =>
    simp only [asInt, Bool.not_false, true_and, ge_iff_le, ← Nat.not_lt, ite_not, Bool.false_eq_true, false_or]

/-- The coordinate that viota writes: lane, row or element (R153). -/
theorem viota_elements {k : BitVec 2} (hk : k ≠ 3#2) : (tab 1024 fun i => BitVec.ofNat 32 (coord k.toNat i)) =
    (List.range 1024).map fun i => BitVec.ofNat 32 (if k = 0#2 then i % 64 else if k = 1#2 then i / 64 else i) := by
  simp only [tab, coord_eq hk]

/-! ## Words that are no instruction (R82, R152, R153) -/

/-- The forms that take any lane type. -/
def laneTypedForms (o : VOps) (lt : BitVec 3) : List Instr :=
  [.viadd o lt, .visub o lt, .vimul o lt, .vimulh o lt, .vimin o lt, .vimax o lt, .viand o lt, .vior o lt, .vixor o lt,
    .vishl o lt, .vishr o lt, .visra o lt, .viabs o lt]

theorem laneTypedForms_illFormed (o : VOps) {lt : BitVec 3} (h : lt = 3#3 ∨ lt = 7#3) :
    ∀ i ∈ laneTypedForms o lt, i.wellFormed = false := by
  have hlt (b : Bool) : (b && ltOk lt) = false := by
    obtain rfl | rfl := h <;> exact Bool.and_false b
  simp only [laneTypedForms, List.forall_mem_cons]
  exact ⟨hlt _, hlt _, hlt _, hlt _, hlt _, hlt _, hlt _, hlt _, hlt _, hlt _, hlt _, hlt _, hlt _, List.forall_mem_nil _⟩

theorem viota_wellFormed {o : VOps} {lt : BitVec 3} {k : BitVec 2} (h : (Instr.viota o lt k).wellFormed = true) :
    (lt = 0#3 ∨ lt = 4#3) ∧ k ≠ 3#2 ∧ o.va = 0#7 ∧ o.vb = 0#7 ∧ o.vc = 0#7 := by
  change (o.ok 0 false && lt32 lt && k != 3#2) = true at h
  simp only [VOps.ok, lt32, Bool.and_eq_true, Bool.or_eq_true, beq_iff_eq, bne_iff_ne] at h
  obtain ⟨⟨⟨⟨⟨⟨-, ha⟩, hb⟩, hc⟩, -⟩, hlt⟩, hk⟩ := h
  exact ⟨hlt, hk, by simpa using ha, by simpa using hb, by simpa using hc⟩

/-- Settles O23: each form by the operation on its sub-elements, the sub-elements as digits, and the words by what the
decoder asks of a lane type. -/
theorem vectorIntegerForms : Obligations.VectorIntegerForms := by
  refine ⟨fun s o lt hv => ⟨fun h => ?two, fun h => ?viabs, fun h k hk => ?viota⟩,
    fun w f x y hw i hi => laneMap2_subElem hw f x y hi, vsrc_broadcast,
    ⟨rfl, rfl, rfl, rfl, rfl, rfl, fun n w x _ _ => asInt_eq n w x⟩,
    fun o lt hlt i hi w y d hdec => ?reserved, fun o lt k w y d hdec => viota_wellFormed (decodeSlot_sound hdec).1⟩
  case two =>
    have form {f g : Nat → Nat → Nat} (hfg : ∀ x y, f x y = g x y) := laneOp_alone hv h (ltWidth lt) hfg
    refine ⟨form fun _ _ => rfl, form fun _ _ => rfl, form fun _ _ => rfl, form fun x y => imulHigh_eq _ _ x y,
      form fun x y => ?vimin, form fun x y => ?vimax, form fun _ _ => rfl, form fun _ _ => rfl, form fun _ _ => rfl,
      form fun x y => Nat.shiftLeft_eq x _, form fun x y => Nat.shiftRight_eq_div_pow x _, form fun _ _ => rfl⟩
    case vimin | vimax => simp only [← Int.not_le, ite_not]
  case viabs =>
    exact laneOpOne_alone hv h (ltWidth lt) fun x y => natAbs_asInt (ltNatural lt) (ltWidth lt) x
  case viota =>
    simp only [exec, execViota]
    rw [vectorNone_alone hv h, viota_elements hk]
  case reserved =>
    have hno := laneTypedForms_illFormed o hlt i hi
    rw [(decodeSlot_sound hdec).1] at hno
    exact absurd hno (by decide)

end Sys2Proof.Proofs
end

section
/-! SUPPORT. Conversions of the V strand (R154 to R158): where a narrowed result stands in its packed rows, and O24. -/

namespace Sys2Proof.Proofs

open Sys2Proof.Machine Sys2Proof.Laws

/-! ## Lists by index -/

/-- Lines of equal length, one after the other, by index. -/
theorem flatten_tab {α : Type} {n m : Nat} (f : Nat → Nat → α) (hm : 0 < m) :
    (tab n fun r => tab m (f r)).flatten = tab (n * m) fun i => f (i / m) (i % m) := by
  induction n with
  | zero => simp [tab]
  | succ n ih =>
    have htab : (tab (n + 1) fun r => tab m (f r)) = (tab n fun r => tab m (f r)) ++ [tab m (f n)] := by
      simp [tab, List.range_succ]
    rw [htab, List.flatten_concat, ih, Nat.succ_mul]
    simp only [tab, List.range_add, List.map_append, List.map_map]
    congr 1
    refine List.map_congr_left fun i hi => ?_
    have him := List.mem_range.mp hi
    rw [Function.comp, Nat.mul_comm, Nat.mul_add_div hm, Nat.mul_add_mod, Nat.div_eq_of_lt him, Nat.mod_eq_of_lt him,
      Nat.add_zero]

/-- An element of a row of 64 by row and lane. -/
theorem row_getD {α : Type} (l : List α) (d : α) {r c : Nat} (hc : c < 64) :
    ((l.drop (64 * r)).take 64).getD c d = l.getD (64 * r + c) d := by
  simp [List.getD_eq_getElem?_getD, hc]

theorem zip_getD {α β : Type} {l : List α} {m : List β} (a : α) (b : β) {i : Nat} (hl : i < l.length)
    (hm : i < m.length) :
    (List.zip l m).getD i (a, b) = (l.getD i a, m.getD i b) := by
  simp [List.getD_eq_getElem?_getD, hl, hm]

/-! ## Packed rows (R154) -/

/-- Lane (r, c) of a packed result takes the n source rows from n × r, in the order of its sub-elements. -/
theorem packRows_lane {w : Nat} (codes : List Nat) (ms : List Bool) {r c j : Nat} (hr : r < 16 / (32 / w)) (hc : c < 64)
    (hj : j < 32 / w) :
    ((packRows w codes ms).getD (64 * r + c) []).getD j (false, 0) =
      ((tab 16 fun r => ((List.zip ms codes).drop (64 * r)).take 64).getD (32 / w * r + j) []).getD c (false, 0) := by
  rw [packRows, flatten_tab _ (by decide), getD_tab _ _ (by omega), Nat.mul_add_div (by decide), Nat.div_eq_of_lt hc,
    Nat.mul_add_mod, Nat.mod_eq_of_lt hc, getD_tab _ _ hj, Nat.add_zero]

/-- Each packed sub-element is its source element's, with the guard's bit of that element (R154). -/
theorem packRows_source {w : Nat} {codes : List Nat} {ms : List Bool} (hw : w = 8 ∨ w = 16) (hcodes : codes.length = 1024)
    (hms : ms.length = 1024) {r c : Nat} (hr : r < 16) (hc : c < 64) :
    ((packRows w codes ms).getD (64 * (r / (32 / w)) + c) []).getD (r % (32 / w)) (false, 0) =
      (ms.getD (64 * r + c) false, codes.getD (64 * r + c) 0) := by
  have hdest : r / (32 / w) < 16 / (32 / w) ∧ r % (32 / w) < 32 / w := by
    obtain rfl | rfl := hw <;> omega
  rw [packRows_lane codes ms hdest.1 hc hdest.2, Nat.div_add_mod, getD_tab _ _ hr, row_getD _ _ hc,
    zip_getD _ _ (by omega) (by omega)]

/-! ## Widened results (R158) -/

/-- The flags of the enabled elements do not depend on how the values are written. -/
theorem gatherFlags_map {α β : Type} (e : α → β) (m : List Bool) (r : List (α × Flags)) :
    gatherFlags m (r.map fun y => (e y.1, y.2)) = gatherFlags m r := by
  rw [gatherFlags, gatherFlags, List.zip_map_right, List.foldl_map]
  rfl

/-- A conversion to 32-bit lanes writes each element's value and gathers the flags of the enabled ones. -/
theorem widenOp_alone {s : State} (hv : Alone s .v) {o : VOps} (h : s.me.vReady o.kg o.kn [o.va] (some o.vd))
    (f : List W32 → Nat → Nat × Flags) :
    (vectorOp s o 1 .fe 6 fun g a _ _ =>
      let r := tab 1024 (f a)
      (g, r.map (fun y => BitVec.ofNat 32 y.1), gatherFlags (maskList g) r)) =
      let a := s.me.vsrc o.va (s.me.sreg o.ss.toNat)
      let r := (List.range 1024).map fun i => (BitVec.ofNat 32 (f a.1 i).1, (f a.1 i).2)
      .next (s.withMe (a.2.vdone o.vd 6 (s.me.guard o.kg o.kn)
        (r.map (·.1), gatherFlags (maskList (s.me.guard o.kg o.kn)) r) .fe)) := by
  have hr (a : List W32) : ((List.range 1024).map fun i => (BitVec.ofNat 32 (f a i).1, (f a i).2)) =
      (tab 1024 (f a)).map fun y => (BitVec.ofNat 32 y.1, y.2) := by
    rw [tab, List.map_map]; rfl
  dsimp only
  rw [hr, gatherFlags_map, List.map_map]
  exact vectorOne_alone hv h .fe 6 _

/-! ## O24 -/

/-- Settles O24: each conversion by its form, and the packing by the source element of each sub-element. -/
theorem vectorConversions : Obligations.VectorConversions := by
  refine ⟨fun s o rm lt sl fmt p x sat hv h => ⟨narrowOp_alone hv h _ _, ?vwid,
      unaryOp_alone hv h .fe 6 _, unaryOp_alone hv h .fe 6 _, fun hlt => ?narrowing, fun hlt => ?widening⟩,
    fun w codes ms hw hcodes hms r c hr hc => packRows_source hw hcodes hms hr hc⟩
  case vwid =>
    simp only [exec, execVwid]
    rw [vectorOne_alone hv h]
    rfl
  case narrowing =>
    change execVicvt o lt sl sat s = _
    rw [execVicvt, if_pos hlt]
    exact narrowOp_alone hv h _ _
  case widening =>
    change execVicvt o lt sl sat s = _
    rw [execVicvt, if_neg (by omega)]
    exact widenOp_alone hv h _

end Sys2Proof.Proofs
end

section
/-! SUPPORT. Forms of the V strand across lanes (R159 to R162): O25. -/

namespace Sys2Proof.Proofs

open Sys2Proof.Machine Sys2Proof.Laws

/-- A movement takes each element from its place in the source (R159). -/
theorem moveOp_alone {s : State} (hv : Alone s .v) {o : VOps} (h : s.me.vReady o.kg o.kn [o.va] (some o.vd))
    (lat : Nat) (src : W64 → Nat → Nat → Nat × Nat) :
    moveOp s o lat src =
      let a := s.me.vsrc o.va (s.me.sreg o.ss.toNat)
      let p := src (s.me.sreg o.ss.toNat)
      .next (s.withMe (a.2.vdone o.vd lat (s.me.guard o.kg o.kn)
        ((List.range 1024).map fun i =>
          ((splitRows a.1).getD (p (i / 64) (i % 64)).1 []).getD (p (i / 64) (i % 64)).2 0#32, f0) .xl)) :=
  vectorOne_alone hv h .xl lat _

/-- The bitonic step writes the keys into vd and, with them, the indices into vc (R162). -/
theorem exec_vbstep {s : State} (hv : Alone s .v) {o : VOps} (h : s.me.vReady o.kg o.kn [o.va, o.vb] (some o.vd))
    (b j : BitVec 3) (dir : Bool) :
    exec (.vbstep o b j dir) s =
      let keys := s.me.vsrc o.va 0
      let idx := keys.2.vsrc o.vb 0
      let step := ((List.zipWith List.zip (splitRows keys.1) (splitRows idx.1)).map
        (bitonicRow b.toNat j.toNat dir)).flatten
      .next (s.withMe ((((idx.2.vdst o.vd 6 (s.me.guard o.kg o.kn) (step.map (·.1)) f0).flying 6
        (.vector (physV s.me.vrb o.vc.toNat) (s.me.guard o.kg o.kn) (step.map (·.2))) f0 1).holdUnit .xl).moved .v)) := by
  have hvrb (v : List W32) : (((s.me.vsrc o.va 0).2.vsrc o.vb 0).2.vdst o.vd 6 (s.me.guard o.kg o.kn) v f0).vrb =
      s.me.vrb := by simp
  dsimp only
  rw [← hvrb]
  exact vissue hv h _

/-- Settles O25: movements by the place that each element comes from, reductions and scans as one source's form. -/
theorem vectorCrossLaneForms : Obligations.VectorCrossLaneForms := by
  refine fun s o hv => ⟨fun h => ⟨?vrrot, ?vcrot, ?vrbc, ?vcbc, fun k _ => ?folds⟩,
    fun b j dir h => exec_vbstep hv h b j dir⟩
  case vrrot | vcrot | vrbc | vcbc =>
    simp only [exec, execVrrot, execVcrot, execVrbc, execVcbc]
    exact moveOp_alone hv h _ _
  case folds =>
    refine ⟨?vrred, ?vcred, ?vrscan, ?vcscan⟩
    case vrred | vcred | vrscan | vcscan =>
      simp only [exec, execVrred, execVcred, execVrscan, execVcscan]
      rw [vectorOne_alone hv h]

end Sys2Proof.Proofs
end

section
/-! SUPPORT. The issue of an instruction of the D strand (R72, R172 to R176): which checks never block, what comes first of
two checks, and the checks of an access; each said once. -/

namespace Sys2Proof.Proofs

open Sys2Proof.Machine Sys2Proof.Laws

/-! ## Checks that never block (R26, R72) -/

theorem need_judges (ok : Bool) (c : Nat) (p : W64) : (Check.need ok c p).verdict ≠ 1 := by
  cases ok <;> simp [Check.need, Check.verdict]

theorem ptrCheck_judges (tid : Nat) (r : Reach) (p : W64) (off : Int) (align : Nat) :
    (ptrCheck tid r p off align).verdict ≠ 1 := by
  rw [ptrCheck]
  split <;> simp [Check.verdict]

theorem and_judges {a b : Check} (ha : a.verdict ≠ 1) (hb : b.verdict ≠ 1) : (a.and b).verdict ≠ 1 := by
  cases a <;> cases b <;> simp_all [Check.and, Check.verdict]

/-- A wait comes before what a check that never blocks says. -/
theorem and_block {a : Check} (ha : a.verdict ≠ 1) (w n : Nat) : a.and (.block w n) = .block w n := by
  cases a with
  | block => exact absurd rfl ha
  | go | fault => rfl

/-- The first of two faults stands. -/
theorem fault_and {b : Check} (c : Nat) (p : W64) (hb : b.verdict ≠ 1) : (Check.fault c p).and b = .fault c p := by
  cases b with
  | block => exact absurd rfl hb
  | go | fault => rfl

/-! ## Issue -/

section
variable {s : State} {st : Strand} (h : Alone s st)
include h

/-- An instruction whose checks pass changes its tile and goes on to the next word. -/
theorem issue_changes {c : Check} (hc : c = .go) (f : Tile → Tile) :
    issue s c (fun s => (s.onMe f).retire) = .next (s.withMe ((f s.me).moved st)) := by
  rw [issue_go _ h.1 hc, onMe_withMe, withMe_retire h.2.1, h.2.2]

/-- What must wait waits, whatever its operands (R26). -/
theorem issue_waits_first {a b : Check} {w n : Nat} (e : State → State) (ha : a.verdict ≠ 1) (hb : b = .block w n) :
    WaitsAt s (issue s (a.and b) e) w n :=
  issue_waitsAt e h.1 (by rw [hb, and_block ha])

/-- What need not wait faults with its first fault (R72). -/
theorem issue_first_fault {a b : Check} {c : Nat} {p : W64} (e : State → State) (hu : s.unfaulted) (ha : a = .fault c p)
    (hb : b.verdict ≠ 1) : FaultsAt s (issue s (a.and b) e) c :=
  issue_faultsAt e h.1 h.2.1 hu (by rw [ha, fault_and _ _ hb])

end

/-! ## The checks of an access (R173, R176) -/

theorem accessCheck_judges (s : State) (p : W64) (off : Int) (n align : Nat) (w : Bool) :
    (s.accessCheck p off n align w).verdict ≠ 1 :=
  and_judges (ptrCheck_judges _ _ _ _ _) (need_judges _ _ _)

/-- What breaks a rule of R173 fails the check of its pointer. -/
theorem ptrCheck_fault {s : State} {p : W64} {off : Int} {n c : Nat} (h : s.PointerFault p off n c) :
    ptrCheck s.focus.tile noReach p off n = .fault c p := by
  rw [ptrCheck, ptrFault_some h]

/-- What breaks a pointer rule or a region rule fails the check of its access, with that rule's cause. -/
theorem accessCheck_fault {s : State} {p : W64} {off : Int} {n c : Nat} {w : Bool} (h : s.AccessFault p off n w c) :
    s.accessCheck p off n n w = .fault c p := by
  rw [State.accessCheck]
  rcases h with h | ⟨rfl, hown, halign, hin, hregion⟩
  · rw [ptrCheck_fault h, fault_and _ _ (need_judges _ _ _)]
  · simp only [ptrCheck_go hown noReach halign, go_and, hin, hregion]
    rfl

/-! ## Queues (R172) -/

theorem dqRoom_go {s : State} {qs : Bool} (h : 0 < s.me.dqFree qs) : s.dqRoom qs = .go := by
  simp [State.dqRoom, h]

theorem dqRoom_full {s : State} {qs : Bool} (h : ¬ 0 < s.me.dqFree qs) :
    s.dqRoom qs = .block 1 (if qs then 13 else 12) := by
  rw [State.dqRoom, decide_eq_false h]
  rfl

theorem dqRoom_judges {s : State} {qs : Bool} (h : 0 < s.me.dqFree qs) : (s.dqRoom qs).verdict ≠ 1 := by
  simp [dqRoom_go h, Check.verdict]

end Sys2Proof.Proofs
end

section
/-! SUPPORT. The issue of scalar loads, stores and atomics (R172 to R176, R188, R189): what each answers, the place of an
access, and O27. -/

namespace Sys2Proof.Proofs

open Sys2Proof.Machine Sys2Proof.Laws

/-! ## Loads and stores (R188) -/

section
variable {s : State} (h : Alone s .d) {sz : BitVec 2} {sa : BitVec 6} {off : BitVec 16}
include h

theorem exec_lds_issue (sx : Bool) (sz : BitVec 2) (qs : Bool) (sa : BitVec 6) (off : BitVec 16) :
    exec (.lds sx sz qs sa off) s =
      issue s ((s.accessCheck (s.src sa) off.toInt (2 ^ sz.toNat) (2 ^ sz.toNat) false).and (s.dqRoom qs)) fun s' =>
        (s'.onMe fun t => (t.dqAlloc qs t.dseq).accessing 6 (.load (t.place (s.src sa) off.toInt (2 ^ sz.toNat)).1
          (t.place (s.src sa) off.toInt (2 ^ sz.toNat)).2 (2 ^ sz.toNat) sx qs)).retire := by
  rw [← rs_eq h.2.1]
  rfl

theorem exec_sts_issue (sz : BitVec 2) (sa : BitVec 6) (off : BitVec 16) :
    exec (.sts sz sa off) s =
      issue s ((s.accessCheck (s.src sa) off.toInt (2 ^ sz.toNat) (2 ^ sz.toNat) true).and (s.me.popCheck 14)) fun s' =>
        (s'.onMe fun t => (t.squeuePop 14).accessing 2 (.store (t.place (s.src sa) off.toInt (2 ^ sz.toNat)).1
          (t.place (s.src sa) off.toInt (2 ^ sz.toNat)).2 (2 ^ sz.toNat) (t.q14.headD 0))).retire := by
  rw [← rs_eq h.2.1]
  rfl

theorem exec_lds_enters {qs : Bool} (hacc : s.MayAccess (s.src sa) off.toInt (2 ^ sz.toNat) false)
    (hroom : 0 < s.me.dqFree qs) (sx : Bool) : exec (.lds sx sz qs sa off) s =
    let a := s.me.place (s.src sa) off.toInt (2 ^ sz.toNat)
    .next (s.withMe (((s.me.dqAlloc qs s.me.dseq).accessing 6 (.load a.1 a.2 (2 ^ sz.toNat) sx qs)).moved .d)) := by
  rw [exec_lds_issue h, issue_changes h (by rw [accessCheck_go hacc, go_and, dqRoom_go hroom])]

theorem exec_sts_enters (hacc : s.MayAccess (s.src sa) off.toInt (2 ^ sz.toNat) true) {x : W64} {xs : List W64}
    (hq : s.me.q14 = x :: xs) (hbad : s.me.queueBad 14 1 = false) : exec (.sts sz sa off) s =
    let a := s.me.place (s.src sa) off.toInt (2 ^ sz.toNat)
    .next (s.withMe (({ s.me.queueMoved 14 1 with q14 := xs }.accessing 2 (.store a.1 a.2 (2 ^ sz.toNat) x)).moved .d)) := by
  have hpop : s.me.squeuePop 14 = { s.me.queueMoved 14 1 with q14 := s.me.q14.drop 1 } := rfl
  rw [exec_sts_issue h, issue_changes h (by
    rw [accessCheck_go hacc, go_and]; simp [Tile.popCheck, Tile.squeue, hq, hbad]), hpop, hq]
  rfl

/-- A word of q14 with an uncorrectable error is not stored (R294). -/
theorem exec_sts_badWord (hacc : s.MayAccess (s.src sa) off.toInt (2 ^ sz.toNat) true) (hq : s.me.q14 ≠ [])
    (hbad : s.me.queueBad 14 1 = true) (hu : s.unfaulted) : FaultsAt s (exec (.sts sz sa off) s) 0x0F := by
  rw [exec_sts_issue h]
  refine issue_faultsAt _ h.1 h.2.1 hu (p := 0) ?_
  rw [accessCheck_go hacc, go_and, Tile.popCheck, hbad]
  simp [Tile.squeue, hq, Check.wait, Check.need, cECC]

theorem exec_sts_waits (hq : s.me.q14 = []) : WaitsAt s (exec (.sts sz sa off) s) 1 14 := by
  rw [exec_sts_issue h]
  refine issue_waits_first h _ (accessCheck_judges _ _ _ _ _ _) ?_
  rw [Tile.popCheck, Tile.squeue, hq]
  rfl

theorem exec_sts_faults (hq : s.me.q14 ≠ []) (hu : s.unfaulted) {c : Nat}
    (hf : s.AccessFault (s.src sa) off.toInt (2 ^ sz.toNat) true c) : FaultsAt s (exec (.sts sz sa off) s) c := by
  rw [exec_sts_issue h]
  refine issue_first_fault h _ hu (accessCheck_fault hf) (and_judges ?_ (need_judges _ _ _))
  simp [Tile.squeue, hq, Check.wait, Check.verdict]

end

/-! ## Atomics (R189) -/

/-- The integer atomics, of words of 4 or 8 bytes. -/
def integerAtomics (n w qs : Bool) (sa sb sc : BitVec 6) (off : BitVec 16) : List Instr :=
  [.aadd w qs sa sb off, .amin n w qs sa sb off, .amax n w qs sa sb off, .aand w qs sa sb off,
    .aor w qs sa sb off, .axor w qs sa sb off, .axchg w qs sa sb off, .acas w qs sa sb sc off]

/-- An integer atomic issues as any other of its word. -/
theorem integerAtomics_form {n w qs : Bool} {sa sb sc : BitVec 6} {off : BitVec 16} (s : State) {i : Instr}
    (hi : i ∈ integerAtomics n w qs sa sb sc off) : ∃ op m b c, exec i s = atomicOp s op m w qs sa b c off := by
  simp only [integerAtomics, List.mem_cons, List.not_mem_nil, or_false] at hi
  rcases hi with rfl | rfl | rfl | rfl | rfl | rfl | rfl | rfl <;> exact ⟨_, _, _, _, rfl⟩

section
variable {s : State} (h : Alone s .d) {w qs : Bool} {sa : BitVec 6} {off : BitVec 16}
include h

theorem atomicOp_issue (op : Nat) (n w qs : Bool) (sa : BitVec 6) (b c : W64) (off : BitVec 16) :
    atomicOp s op n w qs sa b c off =
      let bytes := if w then 8 else 4
      issue s ((s.accessCheck (s.src sa) off.toInt bytes bytes true).and (s.dqRoom qs)) fun s' =>
        (s'.onMe fun t => (t.dqAlloc qs t.dseq).accessing 6 (.atomic op n (t.place (s.src sa) off.toInt bytes).1
          (t.place (s.src sa) off.toInt bytes).2 bytes b c qs)).retire := by
  rw [← rs_eq h.2.1]
  rfl

theorem atomicOp_enters (hacc : s.MayAccess (s.src sa) off.toInt (if w then 8 else 4) true) (hroom : 0 < s.me.dqFree qs)
    (op : Nat) (n : Bool) (b c : W64) : atomicOp s op n w qs sa b c off =
    let a := s.me.place (s.src sa) off.toInt (if w then 8 else 4)
    .next (s.withMe (((s.me.dqAlloc qs s.me.dseq).accessing 6
      (.atomic op n a.1 a.2 (if w then 8 else 4) b c qs)).moved .d)) := by
  rw [atomicOp_issue h]
  exact issue_changes h (by rw [accessCheck_go hacc, go_and, dqRoom_go hroom]) _

theorem atomicOp_waits (hroom : ¬ 0 < s.me.dqFree qs) (op : Nat) (n : Bool) (b c : W64) :
    WaitsAt s (atomicOp s op n w qs sa b c off) 1 (if qs then 13 else 12) := by
  rw [atomicOp_issue h]
  exact issue_waits_first h _ (accessCheck_judges _ _ _ _ _ _) (dqRoom_full hroom)

theorem atomicOp_faults (hroom : 0 < s.me.dqFree qs) (hu : s.unfaulted) {cause : Nat}
    (hf : s.AccessFault (s.src sa) off.toInt (if w then 8 else 4) true cause) (op : Nat) (n : Bool) (b c : W64) :
    FaultsAt s (atomicOp s op n w qs sa b c off) cause := by
  rw [atomicOp_issue h]
  exact issue_first_fault h _ hu (accessCheck_fault hf) (dqRoom_judges hroom)

end

/-! ## The place of an access (R173 to R175) -/

/-- An access in range lies at its offset in the window of its pointer. -/
theorem place_eq {t : Tile} {r : Residence} (hr : t.res = some r) (p : W64) (off : Int) (n : Nat) :
    let priv := p.toNat / 2 ^ 60 = 8
    let size : Int := if priv then r.privSize else 0x180000
    let start : Int := (p.toNat % 2 ^ 21 : Nat) + off
    (0 ≤ start ∧ start + n ≤ size →
      t.place p off n = ((if priv then r.privBase else 0) + start.toNat, true)) ∧
    (¬ (0 ≤ start ∧ start + n ≤ size) → (t.place p off n).2 = false) := by
  have hwin : bits p.toNat 63 60 = p.toNat / 2 ^ 60 := by have := p.isLt; simp only [bits]; omega
  have hoff : ptrOffset p = (p.toNat % 2 ^ 21 : Nat) := by simp [ptrOffset, bits]
  simp only [Tile.place, hr, spAddr, hwin, hoff, beq_iff_eq]
  exact ⟨fun hin => by rw [if_pos hin], fun hout => by rw [if_neg hout]⟩

/-- Settles O27: each form issues with the checks of its access and of its queue; the place of an access is its window's. -/
theorem loadsStoresAndAtomicsIssue : Obligations.LoadsStoresAndAtomicsIssue := by
  intro s sz sa sb sc off n w sx qs h t p room atomics
  have hsb := rs_eq h.2.1 sb
  have hsc := rs_eq h.2.1 sc
  refine ⟨⟨fun hacc hroom => exec_lds_enters h hacc hroom sx, fun hacc x xs hq => ⟨exec_sts_enters h hacc hq,
    fun hbad hu => exec_sts_badWord h hacc (by rw [hq]; simp) hbad hu⟩⟩, ?atomics, ?full, exec_sts_waits h, ?faults, ?place⟩
  case atomics =>
    refine fun hroom => ⟨fun hacc => ?_, fun hacc => ?_⟩
    · rw [← hsb, ← hsc]
      refine ⟨?_, ?_, ?_, ?_, ?_, ?_, ?_, ?_⟩ <;> exact atomicOp_enters h hacc hroom _ _ _ _
    · rw [← hsb]
      exact atomicOp_enters h (w := false) hacc hroom _ _ _ _
  case full =>
    intro hroom i hi
    rcases List.mem_cons.mp hi with rfl | hi
    · rw [exec_lds_issue h]
      exact issue_waits_first h _ (accessCheck_judges _ _ _ _ _ _) (dqRoom_full hroom)
    rcases List.mem_cons.mp hi with rfl | hi
    · exact atomicOp_waits h hroom _ _ _ _
    · obtain ⟨op, m, b, c, hform⟩ := integerAtomics_form s hi
      rw [hform]
      exact atomicOp_waits h hroom _ _ _ _
  case faults =>
    refine fun hu c => ⟨fun hroom => ⟨fun hf => ?_, fun hf i hi => ?_, fun hf => ?_⟩,
      fun hq hf => exec_sts_faults h hq hu hf⟩
    · rw [exec_lds_issue h]
      exact issue_first_fault h _ hu (accessCheck_fault hf) (dqRoom_judges hroom)
    · obtain ⟨op, m, b, c', hform⟩ := integerAtomics_form s hi
      rw [hform]
      exact atomicOp_faults h hroom hu hf _ _ _ _
    · exact atomicOp_faults h (w := false) hroom hu hf _ _ _ _
  case place =>
    intro r b hr _ priv at'
    obtain ⟨hin, hout⟩ := place_eq hr p off.toInt b
    exact ⟨fun hlow hhigh => hin ⟨hlow, hhigh⟩, fun hor => hout (by omega)⟩

end Sys2Proof.Proofs
end

section
/-! SUPPORT. The performance of scalar accesses (R172, R175, R185, R188, R189): what each kind leaves, the bytes of a write,
what D sees of the scratchpad, and O28. -/

namespace Sys2Proof.Proofs

open Sys2Proof.Machine Sys2Proof.Laws

/-! ## Bytes (R8, R188) -/

/-- A write of a little-endian number stands in its bytes and leaves the others. -/
theorem write_bytes {m : Mem} (hm : m.wf = true) (addr n v : Nat) :
    Mem.sameBut addr n m (m.writeBytes addr (bytesOf n v)) ∧
    ∀ i, i < n → (m.writeBytes addr (bytesOf n v)).get (addr + i) = BitVec.ofNat 8 (v / 256 ^ i) := by
  have hlen := bytesOf_length n v
  refine ⟨fun x hx => mem_get_writeBytes_out _ _ _ (by omega), fun i hi => ?_⟩
  rw [mem_get_writeBytes_in hm _ _ i (by omega), bytesOf_getElem]

theorem spWrite_bytes (t : Tile) (addr n v : Nat) : t.spWrite addr (bytesOf n v) =
    { t with
      sp := t.sp.writeBytes addr (bytesOf n v)
      bad := t.bad.filter fun w => !coversWord addr n w
      unseen := t.unseen.filter fun u => !overlaps addr n (4 * u.word) 4 } := by
  rw [Tile.spWrite, bytesOf_length]

/-- Bytes without an uncorrectable error cover no word with one. -/
theorem filter_bad {t : Tile} {addr n : Nat} (h : t.spBad addr n = false) :
    (t.bad.filter fun w => !coversWord addr n w) = t.bad := by
  refine List.filter_eq_self.mpr fun w hw => ?_
  have hapart := List.any_eq_false.mp h w hw
  simp only [overlaps, Bool.and_eq_true, decide_eq_true_eq, not_and] at hapart
  simp only [coversWord, Bool.not_eq_true', Bool.and_eq_false_iff, decide_eq_false_iff_not]
  omega

/-- A word read of `n` bytes, extended by its sign or with zeros (R188). -/
theorem extendBytes_eq (sx : Bool) (n v : Nat) : extendBytes sx n v =
    if sx = true ∧ 2 ^ (8 * n - 1) ≤ v then BitVec.ofInt 64 ((v : Int) - 2 ^ (8 * n)) else BitVec.ofNat 64 v := by
  cases sx with
  | false => rfl
  | true =>
    by_cases hv : 2 ^ (8 * n - 1) ≤ v
    · simp [extendBytes, asInt, hv]
    · simp [extendBytes, asInt, hv]

/-! ## What D sees (R201, R212, R285) -/

/-- Where no hidden word lies, D sees the scratchpad as it stands. -/
theorem seen_get {t : Tile} {dcc addr : Nat} (h : ∀ u ∈ t.unseen, u.word = addr / 4 → u.till ≤ dcc) :
    Mem.get (t.seen dcc).sp addr = Mem.get t.sp addr := by
  have go : ∀ (l : List Unseen) (m : Mem), (∀ u ∈ l, u.word = addr / 4 → u.till ≤ dcc) →
      Mem.get (l.foldl (fun m u => if dcc < u.till then Mem.writeN m (4 * u.word) 4 u.old else m) m) addr =
        Mem.get m addr := by
    intro l
    induction l with
    | nil => exact fun _ _ => rfl
    | cons u l ih =>
      intro m hl
      rw [List.foldl_cons, ih _ fun x hx => hl x (List.mem_cons_of_mem u hx)]
      split
      · next htill =>
        have hword : u.word ≠ addr / 4 := fun hw => absurd (hl u List.mem_cons_self hw) (by omega)
        exact mem_get_writeN_out _ _ _ _ (by omega)
      · rfl
  exact go _ _ h

/-! ## Each kind of access -/

section
variable {t : Tile} {a : DAcc} {addr n : Nat} {q : Bool} (dcc tid : Nat)

theorem perform_load_in {sx : Bool} (hk : a.kind = .load addr true n sx q) : t.perform dcc tid a =
    (t.accessDone a.seq).dqFill q a.seq (extendBytes sx n (natOfBytes (Mem.readBytes (t.seen dcc).sp addr n))) := by
  rw [Tile.perform, hk, ← readN_eq]
  rfl

theorem perform_load_out {sx : Bool} (hk : a.kind = .load addr false n sx q) : t.perform dcc tid a =
    ((t.accessDone a.seq).offend false 0 tid addr).dqFill q a.seq 0 := by
  rw [Tile.perform, hk]
  rfl

theorem perform_store_in {v : W64} (hk : a.kind = .store addr true n v) : t.perform dcc tid a =
    (t.accessDone a.seq).spWrite addr (bytesOf n v.toNat) := by
  rw [Tile.perform, hk]
  rfl

theorem perform_store_out {v : W64} (hk : a.kind = .store addr false n v) : t.perform dcc tid a =
    (t.accessDone a.seq).offend true 0 tid addr := by
  rw [Tile.perform, hk]
  rfl

theorem perform_imageStore_in {v : BitVec 256} (hk : a.kind = .imageStore addr true v) : t.perform dcc tid a =
    (t.accessDone a.seq).spWrite addr (bytesOf 32 v.toNat) := by
  rw [Tile.perform, hk]
  rfl

theorem perform_imageStore_out {v : BitVec 256} (hk : a.kind = .imageStore addr false v) : t.perform dcc tid a =
    (t.accessDone a.seq).offend true 0 tid addr := by
  rw [Tile.perform, hk]
  rfl

theorem perform_atomic_out {op : Nat} {u : Bool} {b c : W64} (hk : a.kind = .atomic op u addr false n b c q) :
    t.perform dcc tid a = ((t.accessDone a.seq).offend true 0 tid addr).dqFill q a.seq 0 := by
  rw [Tile.perform, hk]
  rfl

@[simp] theorem dqFill_sp (t : Tile) (q : Bool) (tag : Nat) (v : W64) : (t.dqFill q tag v).sp = t.sp := by
  cases q <;> rfl

end

/-- The tile after a store of a little-endian number, as D's own. -/
theorem spWrite_written {t : Tile} (hwf : t.sp.wf = true) (addr n v : Nat) : ∃ m bad,
    t.spWrite addr (bytesOf n v) =
      { t with sp := m, bad := bad, unseen := t.unseen.filter fun u => !overlaps addr n (4 * u.word) 4 } ∧
    (Mem.sameBut addr n t.sp m ∧ ∀ i, i < n → Mem.get m (addr + i) = BitVec.ofNat 8 (v / 256 ^ i)) ∧
    bad = t.bad.filter fun w => !coversWord addr n w :=
  ⟨_, _, spWrite_bytes t addr n v, write_bytes hwf addr n v, rfl⟩

/-- A word of `n` bytes as an atomic of a signedness compares it. -/
def comparand (u : Bool) (n v : Nat) : Int :=
  if u = false ∧ 2 ^ (8 * n - 1) ≤ v then (v : Int) - (2 ^ (8 * n) : Nat) else v

theorem asInt_comparand (u : Bool) (n v : Nat) : asInt u (8 * n) v = comparand u n v := by
  simp [asInt, comparand]

/-- The word that an atomic leaves (R189). -/
def atomicWord (op : Nat) (u : Bool) (n old b c : Nat) : Nat :=
  match op with
  | 0 => (old + b) % 2 ^ (8 * n)
  | 1 => if comparand u n b < comparand u n old then b else old
  | 2 => if comparand u n old < comparand u n b then b else old
  | 3 => old &&& b
  | 4 => old ||| b
  | 5 => old ^^^ b
  | 6 => b
  | 7 => if old = b then c else old
  | _ => (fadd 0 0#32 (BitVec.ofNat 32 old) (BitVec.ofNat 32 b)).1.toNat

/-- The word and the flags of each operation, the addition of f32 alone raising any. -/
theorem atomicNew_eq {op : Nat} (hop : op < 9) (u : Bool) (n old b c : Nat) :
    (atomicNew op u n old b c).1.getD old = atomicWord op u n old b c ∧
    (atomicNew op u n old b c).2 = if op = 8 then (fadd 0 0#32 (BitVec.ofNat 32 old) (BitVec.ofNat 32 b)).2 else f0 := by
  match op with
  | 0 | 3 | 4 | 5 | 6 | 8 => exact ⟨rfl, rfl⟩
  | 1 | 2 => simp only [atomicNew, atomicWord, asInt_comparand]; exact ⟨rfl, rfl⟩
  | 7 => by_cases hold : old = b <;> simp [atomicNew, atomicWord, hold]
  | k + 9 => exact absurd hop (by omega)

/-- An atomic leaves its word in the scratchpad, raises its flags and fills its entry with the old word (R189). -/
theorem perform_atomic_in {t : Tile} {a : DAcc} {op : Nat} {u : Bool} {addr n : Nat} {b c : W64} {q : Bool} (dcc tid : Nat)
    (hk : a.kind = .atomic op u addr true n b c q) (hop : op < 9) (hbad : t.accessBad a.kind = false) :
    t.perform dcc tid a =
      let old := natOfBytes (Mem.readBytes t.sp addr n)
      let x := b.toNat % 2 ^ (8 * n)
      (({ t.accessDone a.seq with
          sp := t.sp.writeBytes addr (bytesOf n (atomicWord op u n old x (c.toNat % 2 ^ (8 * n))))
          unseen := t.unseen.filter fun u => !overlaps addr n (4 * u.word) 4 } : Tile).raise
        (if op = 8 then (fadd 0 0#32 (BitVec.ofNat 32 old) (BitVec.ofNat 32 x)).2 else f0)).dqFill q a.seq
          (BitVec.ofNat 64 old) := by
  rw [hk] at hbad
  have hwords : ((t.accessDone a.seq).bad.filter fun w => !coversWord addr n w) = t.bad := filter_bad (t := t) hbad
  obtain ⟨hnew, hflags⟩ := atomicNew_eq hop u n (natOfBytes (Mem.readBytes t.sp addr n)) (b.toNat % 2 ^ (8 * n))
    (c.toNat % 2 ^ (8 * n))
  dsimp only
  rw [← hflags, ← hnew, Tile.perform, hk]
  dsimp only [if_true]
  rw [spWrite_bytes, hwords, readN_eq]
  rfl

/-- Settles O28: each kind of access by what its performance leaves. -/
theorem scalarAccessesArePerformed : Obligations.ScalarAccessesArePerformed := by
  intro s a hwf hfind hp t word seen unseen ext fill noted written
  have performed : ∀ k, a.kind = k → (∀ st addr ok, k ≠ .imageLoad st addr ok) →
      exec .dAccessPerform s = .next (s.withMe (s.me.perform s.dcc s.focus.tile a)) := by
    rintro k rfl hk
    exact dAccessPerform_eq hfind hk hp
  refine ⟨fun addr n sx q _ hk => ?_, fun addr h => seen_get h, fun addr n sx q hk => ?_, fun addr n v hk => ?_,
    fun addr v hk => ?_, fun addr v hk => ?_, fun addr n v hk => ?_, fun op u addr n b c q hk hop _ _ => ?_,
    fun op u addr n b c q hk => ?_⟩ <;> rw [performed _ hk nofun]
  · rw [perform_load_in _ _ hk, extendBytes_eq]
    rfl
  · rw [perform_load_out _ _ hk]
    rfl
  · rw [perform_store_in _ _ hk]
    obtain ⟨m, bad, ht, hm, hbad⟩ := spWrite_written (t := t) hwf addr n v.toNat
    exact ⟨m, bad, by rw [← ht]; rfl, hm, hbad⟩
  · rw [perform_imageStore_in _ _ hk]
    obtain ⟨m, bad, ht, hm, hbad⟩ := spWrite_written (t := t) hwf addr 32 v.toNat
    exact ⟨m, bad, by rw [← ht]; rfl, hm, hbad⟩
  · rw [perform_imageStore_out _ _ hk]
    rfl
  · rw [perform_store_out _ _ hk]
    rfl
  · obtain ⟨-, -, -, hnobad⟩ := hp
    rw [perform_atomic_in _ _ hk hop hnobad]
    refine ⟨_, rfl, ?_, ?_⟩ <;> rw [dqFill_sp, raise_sp]
    · exact write_bytes hwf addr n (atomicWord op u n (word t.sp addr n) (b.toNat % 2 ^ (8 * n)) (c.toNat % 2 ^ (8 * n)))
    · rfl
  · rw [perform_atomic_out _ _ hk]
    rfl

end Sys2Proof.Proofs
end

section
/-! SUPPORT. Stream registers (R184 to R186): a load of an image in a tile whose list of stream registers is not in the
canonical form, and O29. -/

namespace Sys2Proof.Proofs

open Sys2Proof.Machine Sys2Proof.Laws

/-- The image of a stream whose cursor stands at 1 where its count is 0 (R185). -/
def strayImage : BitVec 256 := 16777216#256

/-- A tile whose stream registers are listed out of order, stream 1 with a value before stream 0 with `strayImage`; a load of
an image of stream 0, out of range, waits to be performed. -/
def outOfOrderTile : Tile :=
  { Tile.reset with
    st := [(1, 1#256), (0, strayImage)]
    dacc := [⟨0, 0, 0, .imageLoad 0 0 false, 0⟩] }

/-- The reset package with that tile in its focus. -/
def outOfOrderState : State := State.reset.withMe outOfOrderTile

theorem outOfOrderState_me : outOfOrderState.me = outOfOrderTile := withMe_me _ _

/-- The performance of the load writes the default at stream 0 and leaves the old image there, for the write stops at the
first key above 0; so the load faults with ILLEGAL (R186). -/
theorem stldPerform_outOfOrder : execStldPerform outOfOrderState =
    .next (accessFault outOfOrderState ⟨0, 0, 0, .imageLoad 0 0 false, 0⟩ cILLEGAL) := by
  rw [execStldPerform, outOfOrderState_me]
  rfl

theorem accessFault_faulted (s : State) (a : DAcc) (cause : Nat) :
    ((accessFault s a cause).tile s.focus.tile).sd.faulted = true := by
  rw [accessFault, stopStrand, tile_onTile]
  rfl

/-- Refutes O29: the statement holds of every list of stream registers, and one that is not in the canonical form
(`SMap.wf`) may show, after an image of zeros is loaded, an older register of the stream with its cursor beyond its count.
The load then faults where the statement has it take the image. -/
theorem not_streamRegisterInstructions : ¬ Obligations.StreamRegisterInstructions := by
  intro h
  obtain ⟨-, hload⟩ := h outOfOrderState 0 0 0
  obtain ⟨htakes, -⟩ := hload ⟨0, 0, 0, .imageLoad 0 0 false, 0⟩ 0 false (by rw [outOfOrderState_me]; rfl) rfl
    ⟨rfl, by rw [outOfOrderState_me]; rfl, by rw [outOfOrderState_me]; rfl, by rw [outOfOrderState_me]; rfl⟩
  have hnext := htakes (by decide) (by rw [outOfOrderState_me]; rfl)
  change execStldPerform outOfOrderState = _ at hnext
  rw [stldPerform_outOfOrder, Host.Outcome.next.injEq] at hnext
  have hfaulted := accessFault_faulted outOfOrderState ⟨0, 0, 0, .imageLoad 0 0 false, 0⟩ cILLEGAL
  rw [hnext, State.withMe, tile_setTile, outOfOrderState_me] at hfaulted
  exact absurd hfaulted (by decide)

end Sys2Proof.Proofs
end

section
/-! SUPPORT. Rings, marks, fences and pointers of the D strand (R190 to R193, R198 to R203): each said once, and O31. -/

namespace Sys2Proof.Proofs

open Sys2Proof.Machine Sys2Proof.Laws

/-! ## Results fixed at issue (R172, R192, R202, R203) -/

/-- The tile after a value fixed at its issue has been sent to q12 or q13. -/
def pushed (t : Tile) (qs : Bool) (v : W64) : Tile :=
  ({ t.dqAlloc qs t.dseq with dseq := t.dseq + 1 } : Tile).flying 2 (.dq qs t.dseq v) f0 2

section
variable {s : State} (h : Alone s .d) {qs : Bool}
include h

theorem pushOp_sends {c : Check} (hc : c = .go) (hroom : 0 < s.me.dqFree qs) (v : W64) :
    pushOp s qs c v = .next (s.withMe ((pushed s.me qs v).moved .d)) :=
  issue_changes h (by rw [hc, go_and, dqRoom_go hroom]) fun t =>
    ({ t.dqAlloc qs t.dseq with dseq := t.dseq + 1 } : Tile).fly 2 (.dq qs t.dseq v) f0 2

theorem pushOp_waits {c : Check} (hc : c.verdict ≠ 1) (hroom : s.me.dqFree qs = 0) (v : W64) :
    WaitsAt s (pushOp s qs c v) 1 (if qs then 13 else 12) :=
  issue_waits_first h _ hc (dqRoom_full (by omega))

theorem pushOp_faults {c : Check} {cause : Nat} {p : W64} (hc : c = .fault cause p) (hroom : 0 < s.me.dqFree qs)
    (hu : s.unfaulted) (v : W64) : FaultsAt s (pushOp s qs c v) cause :=
  issue_first_fault h _ hu hc (dqRoom_judges hroom)

end

/-! ## Pointers as numbers (R174, R202, R203) -/

/-- The fields of a pointer that a test and a cast read: window, tile, index and offset. -/
theorem pointer_fields (p : W64) : bits p.toNat 63 60 = p.toNat / 2 ^ 60 ∧ bits p.toNat 56 48 = p.toNat / 2 ^ 48 % 2 ^ 9 ∧
    bits p.toNat 53 48 = p.toNat / 2 ^ 48 % 2 ^ 6 ∧ bits p.toNat 20 0 = p.toNat % 2 ^ 21 := by
  have hp := p.isLt
  refine ⟨?_, rfl, rfl, ?_⟩
  · simp only [bits]
    omega
  · simp [bits]

theorem ptrTest_eq (tid : Nat) (p : W64) :
    let win := p.toNat / 2 ^ 60
    ptrTest tid p = BitVec.ofNat 64 (win +
      (if win = 8 ∨ (win = 9 ∧ p.toNat / 2 ^ 48 % 2 ^ 9 = tid) ∨ (win = 10 ∧ p.toNat / 2 ^ 48 % 2 ^ 6 = tid % 64) then 16
        else 0) +
      (if win = 0 ∨ win = 8 ∨ win = 9 ∨ win = 10 then 32 else 0)) := by
  obtain ⟨hwin, htile, hidx, -⟩ := pointer_fields p
  simp only [ptrTest, hwin, htile, hidx, b2n, Bool.or_eq_true, Bool.and_eq_true, beq_iff_eq, or_assoc, ite_mul, one_mul,
    zero_mul]
  congr 1
  omega

theorem castPtr_eq (tid : Nat) (cs : Bool) (p b : W64) :
    let idx := p.toNat / 2 ^ 48 % 2 ^ 6
    let off := (p.toNat + b.toNat) % 2 ^ 21
    castPtr tid cs p b = BitVec.ofNat 64 (if cs = true then 10 * 2 ^ 60 + idx * 2 ^ 48 + off
      else 9 * 2 ^ 60 + (if p.toNat / 2 ^ 60 = 9 then p.toNat / 2 ^ 48 % 2 ^ 9 else tid / 64 * 64 + idx) * 2 ^ 48 + off) := by
  obtain ⟨hwin, htile, hidx, hoff⟩ := pointer_fields p
  simp only [castPtr, hwin, htile, hidx, hoff, Nat.mod_add_mod]
  cases cs <;> rfl

/-! ## Rings (R190 to R193) -/

section
variable {s : State} (h : Alone s .d)
include h

theorem exec_rgset_issue (rg : BitVec 3) (fld : BitVec 5) (sa : BitVec 6) : exec (.rgset rg fld sa) s =
    let v := ringValue fld.toNat (s.src sa)
    issue s (Check.need (ringSetOk (s.me.ring rg.toNat) fld.toNat v) cILLEGAL 0) fun s' =>
      (s'.onMe fun t => t.setRing rg.toNat ((t.ring rg.toNat).put fld.toNat v)).retire := by
  rw [← rs_eq h.2.1]
  rfl

theorem exec_rgset_writes {rg : BitVec 3} {fld : BitVec 5} {sa : BitVec 6}
    (hok : ringSetOk (s.me.ring rg.toNat) fld.toNat (ringValue fld.toNat (s.src sa)) = true) : exec (.rgset rg fld sa) s =
    .next (s.withMe ((s.me.setRing rg.toNat
      ((s.me.ring rg.toNat).put fld.toNat (ringValue fld.toNat (s.src sa)))).moved .d)) := by
  rw [exec_rgset_issue h, issue_changes h (need_eq_go.mpr hok)]

theorem exec_rgset_faults {rg : BitVec 3} {fld : BitVec 5} {sa : BitVec 6} (hu : s.unfaulted)
    (hbad : ringSetOk (s.me.ring rg.toNat) fld.toNat (ringValue fld.toNat (s.src sa)) = false) :
    FaultsAt s (exec (.rgset rg fld sa) s) 0x01 := by
  rw [exec_rgset_issue h]
  exact issue_faultsAt _ h.1 h.2.1 hu (p := 0) (by rw [hbad]; rfl)

/-- An instruction of the D strand that waits for a condition and then changes its tile. -/
theorem issue_when (ok : Bool) (f : Tile → Tile) :
    (ok = true → issue s (Check.wait ok 6 0) (fun s => (s.onMe f).retire) = .next (s.withMe ((f s.me).moved .d))) ∧
    (ok = true ∨ WaitsAt s (issue s (Check.wait ok 6 0) fun s => (s.onMe f).retire) 6 0) := by
  refine ⟨fun hok => issue_changes h (by rw [wait_eq_go, hok]) f, ?_⟩
  cases ok with
  | true => exact .inl rfl
  | false => exact .inr (issue_waitsAt _ h.1 rfl)

end

/-- Settles O31: what is sent to a queue by its value, what changes the tile by its condition. -/
theorem ringOrderAndPointerInstructions : Obligations.RingOrderAndPointerInstructions := by
  intro s rg scope fld sa sb sc qs cs t n
  refine ⟨?issued, fun a k hfind hk hp => ?performance⟩
  case performance =>
    change execDAccessPerform s = _
    rw [dAccessPerform_eq hfind (by rw [hk]; nofun) hp, Tile.perform, hk]
    rfl
  intro h p win push epoch
  have hsa := rs_eq h.2.1 sa
  have hsb := rs_eq h.2.1 sb
  obtain ⟨hpush, hpushWaits⟩ := issue_when h (decide (0 < t.ringFree n)) fun t => t.access 2 (.ringPush n)
  obtain ⟨hfence, hfenceWaits⟩ := issue_when h t.dIdle fun t => { t with depoch := t.depoch + 1 }
  obtain ⟨hxfence, hxfenceWaits⟩ := issue_when h t.storesDone fun t => ({ t with depoch := t.depoch + 1 } : Tile).acquire
  refine ⟨fun _ hok => exec_rgset_writes h hok, fun hfree => hpush (decide_eq_true hfree),
    issue_changes h rfl fun t => { t with depoch := t.depoch + 1 }, hfence, hxfence,
    hpushWaits.imp_left of_decide_eq_true, hfenceWaits, hxfenceWaits,
    fun hu => ⟨fun _ hbad => exec_rgset_faults h hu hbad, fun hcast hroom => ?castFaults⟩, fun hfull i hi => ?full,
    fun hroom => ⟨fun _ => pushOp_sends h rfl hroom _, ?test, fun hcast => ?cast⟩⟩
  case castFaults =>
    exact pushOp_faults h (by rw [hsa, hcast]; rfl) hroom hu _
  case full =>
    simp only [List.mem_cons, List.not_mem_nil, or_false] at hi
    rcases hi with rfl | rfl | rfl
    · exact pushOp_waits h (by decide) hfull _
    · exact pushOp_waits h (by decide) hfull _
    · exact pushOp_waits h (need_judges _ _ _) hfull _
  case test =>
    rw [← ptrTest_eq, ← hsa]
    exact pushOp_sends h rfl hroom _
  case cast =>
    intro idx off
    rw [← castPtr_eq, ← hsa, ← hsb]
    exact pushOp_sends h (by rw [hsa, need_eq_go, hcast]) hroom _

end Sys2Proof.Proofs
end

section
/-! SUPPORT. Requests for rows (R181 to R183, R186): the check of a stream register and of a count, and what srd and swr
answer. -/

namespace Sys2Proof.Proofs

open Sys2Proof.Machine Sys2Proof.Laws

/-! ## The register (R183) -/

/-- What R183 asks of a stream register beside its BASE. -/
def streamForm (r : BitVec 256) (read : Bool) : Bool :=
  let f := stFmt r
  f ≤ 19 && !(read && stSat r) && !(!read && blockFmt f) && !(stX r && !isB8 f) && stRm r != 5 && stRm r != 6 &&
    !(blockFmt f && stBlk r != 32 && stBlk r != 64)

/-- What R183 asks of the registers of both kinds of stream. -/
def CommonForm (r : BitVec 256) : Prop :=
  stFmt r ≤ 19 ∧ stRm r ≠ 5 ∧ stRm r ≠ 6 ∧ (stX r = true → isB8 (stFmt r) = true)

theorem blockFmt_eq (f : Nat) : blockFmt f = decide (f = 7 ∨ f = 8) := by
  rw [blockFmt, Bool.decide_or]
  rfl

theorem streamForm_read (r : BitVec 256) : streamForm r true = true ↔
    CommonForm r ∧ stSat r = false ∧ (stFmt r = 7 ∨ stFmt r = 8 → stBlk r = 32 ∨ stBlk r = 64) := by
  grind [streamForm, CommonForm, blockFmt_eq]

theorem streamForm_write (r : BitVec 256) : streamForm r false = true ↔ CommonForm r ∧ ¬ (stFmt r = 7 ∨ stFmt r = 8) := by
  grind [streamForm, CommonForm, blockFmt_eq]

theorem streamRegCheck_judges (tid : Nat) (r : BitVec 256) (read : Bool) : (streamRegCheck tid r read).verdict ≠ 1 := by
  refine and_judges (ptrCheck_judges _ _ _ _ _) (and_judges (need_judges _ _ _) ?_)
  split
  · exact ptrCheck_judges _ _ _ _ _
  · decide

/-- With an own BASE at a multiple of 16 the form alone is judged; the scales need no alignment. -/
theorem streamRegCheck_own {s : State} {r : BitVec 256} (hown : s.OwnPointer (stBase r))
    (halign : (stBase r).toNat % 16 = 0) (read : Bool) :
    streamRegCheck s.focus.tile r read = Check.need (streamForm r read) cILLEGAL (stBase r) := by
  have hbase := ptrCheck_go hown noReach (off := 0) (align := 16) (by omega)
  have hscale := ptrCheck_go hown noReach (off := stScaleOff r) (align := 1) (Int.emod_one _)
  rw [streamRegCheck, hbase, hscale, go_and, ite_self, and_go]
  rfl

/-! ## The count (R181) -/

section
variable {s : State} {n rows : Nat} {read : Bool}

theorem streamCheck_go (hreg : s.me.stldPending n = true ∨ streamRegCheck s.focus.tile (s.me.stReg n) read = .go)
    (hfit : s.me.reqCount n + rows < 2 ^ 24) : s.streamCheck n rows read = .go := by
  have hrows : rows < 2 ^ 24 := by omega
  simp only [State.streamCheck, and_eq_go, need_eq_go, wait_eq_go, ite_eq_left_iff]
  exact ⟨fun hp => hreg.resolve_left hp, by simpa using hrows, by simp; omega⟩

theorem countCheck_judges (p : W64) (hrows : 2 ^ 24 ≤ rows ∨ s.me.reqCount n + rows < 2 ^ 24) :
    ((Check.need (rows < 2 ^ 24) cILLEGAL p).and
      (Check.wait (2 ^ 24 ≤ rows || s.me.reqCount n + rows < 2 ^ 24) 6 0)).verdict ≠ 1 := by
  refine and_judges (need_judges _ _ _) ?_
  rw [Check.wait, if_pos (by simpa using hrows)]
  decide

theorem regOrImage_judges : (if s.me.stldPending n then Check.go
    else streamRegCheck s.focus.tile (s.me.stReg n) read).verdict ≠ 1 := by
  split
  · decide
  · exact streamRegCheck_judges _ _ _

/-- Rows that fit a stream only once others have moved wait. -/
theorem streamCheck_block (hrows : rows < 2 ^ 24) (hfull : 2 ^ 24 ≤ s.me.reqCount n + rows) :
    s.streamCheck n rows read = .block 6 0 := by
  have hcount : (Check.need (rows < 2 ^ 24) cILLEGAL (stBase (s.me.stReg n))).and
      (Check.wait (2 ^ 24 ≤ rows || s.me.reqCount n + rows < 2 ^ 24) 6 0) = .block 6 0 := by
    rw [Check.wait, if_neg (by simp; omega), and_block (need_judges _ _ _)]
  simp only [State.streamCheck]
  rw [hcount, and_block regOrImage_judges]

theorem streamCheck_regFault {c : Nat} {p : W64} (hp : s.me.stldPending n = false)
    (hreg : streamRegCheck s.focus.tile (s.me.stReg n) read = .fault c p)
    (hrows : 2 ^ 24 ≤ rows ∨ s.me.reqCount n + rows < 2 ^ 24) : s.streamCheck n rows read = .fault c p := by
  simp only [State.streamCheck, hp, hreg, Bool.false_eq_true, if_false]
  exact fault_and _ _ (countCheck_judges _ hrows)

/-- Rows that no stream can hold are ILLEGAL, as the form of a register is. -/
theorem streamCheck_rowsFault (hrows : 2 ^ 24 ≤ rows) (hreg : s.me.stldPending n = true ∨
    (s.OwnPointer (stBase (s.me.stReg n)) ∧ (stBase (s.me.stReg n)).toNat % 16 = 0)) :
    s.streamCheck n rows read = .fault cILLEGAL (stBase (s.me.stReg n)) := by
  have hcount : (Check.need (rows < 2 ^ 24) cILLEGAL (stBase (s.me.stReg n))).and
      (Check.wait (2 ^ 24 ≤ rows || s.me.reqCount n + rows < 2 ^ 24) 6 0) = .fault cILLEGAL (stBase (s.me.stReg n)) := by
    rw [Check.need, if_neg (by simp; omega), fault_and _ _ ?_]
    rw [Check.wait, if_pos (by simp; omega)]
    decide
  simp only [State.streamCheck]
  rw [hcount]
  rcases hreg with hp | ⟨hown, halign⟩
  · rw [hp]
    rfl
  · rw [streamRegCheck_own hown halign]
    cases s.me.stldPending n <;> cases streamForm (s.me.stReg n) read <;> rfl

end

/-! ## srd and swr (R181, R182) -/

/-- A request for rows of a stream, as srd and swr make it. -/
def requestRows (s : State) (n rows : Nat) (read : Bool) (delay : Nat) : Out :=
  issue s (s.streamCheck n rows read) fun s => (s.onMe fun t => t.ask n rows delay).retire

section
variable {s : State} (h : Alone s .d)
include h

theorem exec_srd (st : BitVec 4) (sa : BitVec 6) (imm : BitVec 16) :
    exec (.srd st sa imm) s = requestRows s st.toNat ((s.src sa).toNat + imm.toNat) true 8 := by
  rw [← rs_eq h.2.1]
  rfl

theorem exec_swr (st : BitVec 4) (sa : BitVec 6) (imm : BitVec 16) :
    exec (.swr st sa imm) s = requestRows s st.toNat ((s.src sa).toNat + imm.toNat) false 0 := by
  rw [← rs_eq h.2.1]
  rfl

theorem requestRows_asks {n rows delay : Nat} {read : Bool} (hc : s.streamCheck n rows read = .go) :
    requestRows s n rows read delay = .next (s.withMe ((s.me.ask n rows delay).moved .d)) :=
  issue_changes h hc fun t => t.ask n rows delay

theorem requestRows_waits {n rows delay : Nat} {read : Bool} (hrows : rows < 2 ^ 24)
    (hfull : 2 ^ 24 ≤ s.me.reqCount n + rows) : WaitsAt s (requestRows s n rows read delay) 6 0 :=
  issue_waitsAt _ h.1 (streamCheck_block hrows hfull)

theorem requestRows_faults {n rows delay c : Nat} {read : Bool} {p : W64} (hu : s.unfaulted)
    (hc : s.streamCheck n rows read = .fault c p) : FaultsAt s (requestRows s n rows read delay) c :=
  issue_faultsAt _ h.1 h.2.1 hu hc

end

/-- A register whose BASE breaks a rule of R173 faults with its cause. -/
theorem streamRegCheck_pointer {s : State} {r : BitVec 256} {c : Nat} (hf : s.PointerFault (stBase r) 0 16 c) (read : Bool) :
    streamRegCheck s.focus.tile r read = .fault c (stBase r) := by
  rw [streamRegCheck, ptrCheck_fault hf, fault_and]
  refine and_judges (need_judges _ _ _) ?_
  split
  · exact ptrCheck_judges _ _ _ _ _
  · decide

/-- A register whose form breaks a rule of R183 is ILLEGAL. -/
theorem streamRegCheck_illegal {s : State} {r : BitVec 256} {read : Bool} (hown : s.OwnPointer (stBase r))
    (halign : (stBase r).toNat % 16 = 0) (hform : ¬ streamForm r read = true) :
    streamRegCheck s.focus.tile r read = .fault cILLEGAL (stBase r) := by
  rw [streamRegCheck_own hown halign, Check.need, if_neg hform]

end Sys2Proof.Proofs
end

section
/-! SUPPORT. The bytes of a row of a write stream (R175, R180, R182): the elements in range stand one behind another, and each
is written in its place; what else of the tile a row leaves alone. -/

namespace Sys2Proof.Proofs

open Sys2Proof.Machine Sys2Proof.Laws

/-! ## Numbers written one behind another (R8) -/

/-- The places of the listed elements, of `b` bytes each, follow one another from `a` on. -/
def Consecutive (place : Nat → Nat) (b : Nat) : Nat → List Nat → Prop
  | _, [] => True
  | a, e :: l => place e = a ∧ Consecutive place b (a + b) l

theorem Consecutive.left {place : Nat → Nat} {b a : Nat} {l l' : List Nat} (h : Consecutive place b a (l ++ l')) :
    Consecutive place b a l := by
  induction l generalizing a with
  | nil => trivial
  | cons e l ih => exact ⟨h.1, ih h.2⟩

theorem writeBytes_append (m : Mem) (a : Nat) (l l' : List W8) :
    m.writeBytes a (l ++ l') = (m.writeBytes a l).writeBytes (a + l.length) l' := by
  induction l generalizing m a with
  | nil => rfl
  | cons x l ih => rw [List.cons_append, Mem.writeBytes, ih, Mem.writeBytes, List.length_cons, Nat.add_assoc, Nat.add_comm 1]

/-- Each number written reads as its low bytes, and no byte but theirs has changed. -/
theorem consecutive_written {place value : Nat → Nat} {b a : Nat} {l : List Nat} {m : Mem} (hm : m.wf = true)
    (h : Consecutive place b a l) :
    let m' := m.writeBytes a (l.flatMap fun e => bytesOf b (value e))
    (∀ e ∈ l, Mem.readN m' (place e) b = value e % 256 ^ b) ∧
    ∀ x, (∀ e ∈ l, x < place e ∨ place e + b ≤ x) → m'.get x = m.get x := by
  induction l generalizing a m with
  | nil => exact ⟨nofun, fun _ _ => rfl⟩
  | cons d l ih =>
    obtain ⟨hd, hl⟩ := h
    have hlen := bytesOf_length b (value d)
    have hsplit : m.writeBytes a ((d :: l).flatMap fun e => bytesOf b (value e)) =
        (m.writeBytes a (bytesOf b (value d))).writeBytes (a + b) (l.flatMap fun e => bytesOf b (value e)) := by
      rw [List.flatMap_cons, writeBytes_append, hlen]
    obtain ⟨hread, hkeep⟩ := ih (mem_wf_writeBytes hm a (bytesOf b (value d))) hl
    simp only [hsplit]
    refine ⟨fun e he => ?_, fun x hx => ?_⟩
    · rcases List.mem_cons.mp he with rfl | he
      · have hfirst := readBytes_writeBytes_same hm a (bytesOf b (value e))
        rw [hlen] at hfirst
        rw [hd, readN_eq, readBytes_writeBytes_apart _ _ (.inl (Nat.le_refl _)), hfirst, natOfBytes_bytesOf]
      · exact hread e he
    · rw [hkeep x fun e he => hx e (List.mem_cons_of_mem d he)]
      have := hx d List.mem_cons_self
      exact mem_get_writeBytes_out _ _ _ (by omega)

/-! ## The elements of a row in range (R175) -/

/-- Elements whose range is an interval and whose places rise by `b`: those in range are consecutive. -/
theorem consecutive_inRange {place : Nat → Nat × Bool} {b : Nat}
    (hnext : ∀ i j, i < j → (place i).2 = true → (place j).2 = true →
      (place (i + 1)).2 = true ∧ (place (i + 1)).1 = (place i).1 + b) (k i : Nat) :
    let l := (List.range' i k).filter fun e => (place e).2
    Consecutive (fun e => (place e).1) b ((l.head?.map fun e => (place e).1).getD 0) l := by
  induction k generalizing i with
  | zero => trivial
  | succ k ih =>
    have hrest := ih (i + 1)
    simp only [List.range'_succ, List.filter_cons]
    by_cases hi : (place i).2 = true
    · rw [if_pos hi]
      refine ⟨rfl, ?_⟩
      match k with
      | 0 => trivial
      | k + 1 =>
        by_cases hsome : ∃ j ∈ List.range' (i + 1) (k + 1), (place j).2 = true
        · obtain ⟨j, hj, hin⟩ := hsome
          obtain ⟨hlow, -⟩ := List.mem_range'_1.mp hj
          obtain ⟨hin', hplace⟩ := hnext i j (by omega) hi hin
          simp only [List.range'_succ, List.filter_cons, hin', if_true, List.head?_cons, Option.map_some,
            Option.getD_some, hplace] at hrest ⊢
          exact hrest
        · have hnone : ((List.range' (i + 1) (k + 1)).filter fun e => (place e).2) = [] :=
            List.filter_eq_nil_iff.mpr fun j hj hin => hsome ⟨j, hj, hin⟩
          rw [hnone]
          trivial
    · rw [if_neg hi]
      exact hrest

/-- Elements of a row of a stream, `b` bytes apart in their window, follow one another. -/
theorem place_next {t : Tile} (p : W64) (off : Int) (b i j : Nat) (hij : i < j)
    (hi : (t.place p (off + (i * b : Nat)) b).2 = true) (hj : (t.place p (off + (j * b : Nat)) b).2 = true) :
    (t.place p (off + ((i + 1) * b : Nat)) b).2 = true ∧
      (t.place p (off + ((i + 1) * b : Nat)) b).1 = (t.place p (off + (i * b : Nat)) b).1 + b := by
  cases hr : t.res with
  | none => simp [Tile.place, hr] at hi
  | some r =>
    obtain ⟨hini, houti⟩ := place_eq hr p (off + (i * b : Nat)) b
    obtain ⟨-, houtj⟩ := place_eq hr p (off + (j * b : Nat)) b
    obtain ⟨hinn, -⟩ := place_eq hr p (off + ((i + 1) * b : Nat)) b
    have hi' := not_imp_comm.mp houti ((Bool.not_eq_false _).mpr hi)
    have hj' := not_imp_comm.mp houtj ((Bool.not_eq_false _).mpr hj)
    have hsucc : (i + 1) * b = i * b + b := Nat.succ_mul i b
    have hle : (i + 1) * b ≤ j * b := Nat.mul_le_mul_right b hij
    rw [hini hi', hinn (by omega)]
    refine ⟨rfl, ?_⟩
    change _ + Int.toNat _ = _ + Int.toNat _ + b
    omega

/-! ## Elements of whole bytes (R44, R178) -/

/-- The elements of a format without block scales have a whole number of bytes. -/
theorem fmtWidth_bytes {f : Nat} (hf : blockFmt f = false) : fmtWidth f = 8 * elemBytes (fmtWidth f) := by
  have hscaled : ¬ (f = 7 ∨ f = 8) := by simpa [blockFmt] using hf
  simp only [fmtWidth, if_neg hscaled]
  split_ifs <;> rfl

theorem elemOff_eq {w b : Nat} (hw : w = 8 * b) (r : BitVec 256) (e : Nat) :
    elemOff r w e = stRowOff r + (e * b : Nat) := by
  rw [elemOff, hw, Nat.mul_left_comm, Nat.mul_div_cancel_left _ (by decide)]

end Sys2Proof.Proofs
end

section
/-! SUPPORT. Rows of streams (R175 to R182): what a row fetched and a row written leave, and O30. -/

namespace Sys2Proof.Proofs

open Sys2Proof.Machine Sys2Proof.Laws

/-! ## The elements of a row (R175, R180) -/

/-- The place of an element of the row at the cursor. -/
def rowPlace (t : Tile) (r : BitVec 256) (e : Nat) : Nat × Bool :=
  t.place (stBase r) (elemOff r (fmtWidth (stFmt r)) e) (elemBytes (fmtWidth (stFmt r)))

/-- The code stored for an element of the row, and its flags. -/
def rowCode (r : BitVec 256) (q : StreamReq) (lanes : List W32) (e : Nat) : Nat × Flags :=
  storeCode (stFmt r) (stX r) (stSat r) (rowMode r q) q.seed (lanes.getD e 0#32)

/-- The elements in range of the first `k` of a row. -/
def rowInRange (t : Tile) (r : BitVec 256) (k : Nat) : List Nat := (List.range k).filter fun e => (rowPlace t r e).2

theorem mem_rowInRange {t : Tile} {r : BitVec 256} {k e : Nat} :
    e ∈ rowInRange t r k ↔ e < k ∧ (rowPlace t r e).2 = true := by
  rw [rowInRange, List.mem_filter, List.mem_range]

/-- The bytes that a row replaces begin at its first element in range. -/
theorem rowSpan_start (t : Tile) (r : BitVec 256) :
    (rowSpan t r).1 = ((rowInRange t r (stBlk r)).head?.map fun e => (rowPlace t r e).1).getD 0 := by
  have hfilter : (rowPlaces t r).filter (·.2) = (rowInRange t r (stBlk r)).map (rowPlace t r) := List.filter_map
  simp only [rowSpan, hfilter, List.head?_map, Option.map_map]
  rfl

/-- The elements in range of a row, as many of them as there are lanes, stand one behind another. -/
theorem rowInRange_consecutive {t : Tile} {r : BitVec 256} (hf : blockFmt (stFmt r) = false) {k : Nat} (hk : k ≤ stBlk r) :
    Consecutive (fun e => (rowPlace t r e).1) (elemBytes (fmtWidth (stFmt r))) (rowSpan t r).1 (rowInRange t r k) := by
  have hall := consecutive_inRange (place := rowPlace t r) (b := elemBytes (fmtWidth (stFmt r))) (fun i j hij hi hj => by
    simp only [rowPlace, elemOff_eq (fmtWidth_bytes hf)] at hi hj ⊢
    exact place_next _ _ _ _ _ hij hi hj) (stBlk r) 0
  rw [← List.range_eq_range', ← rowInRange] at hall
  dsimp only at hall
  rw [← rowSpan_start] at hall
  obtain ⟨d, hd⟩ := Nat.exists_eq_add_of_le hk
  have hsplit : rowInRange t r (stBlk r) =
      rowInRange t r k ++ ((List.range d).map (k + ·)).filter fun e => (rowPlace t r e).2 := by
    rw [hd, rowInRange, List.range_add, List.filter_append, rowInRange]
  rw [hsplit] at hall
  exact hall.left

/-- The elements of a row beside their lanes. -/
theorem rowPlaces_zip (t : Tile) (r : BitVec 256) (q : StreamReq) (lanes : List W32) :
    ((List.zip (rowPlaces t r) lanes).map fun x =>
      (x.1, storeCode (stFmt r) (stX r) (stSat r) (rowMode r q) q.seed x.2)) =
    (List.range (min (stBlk r) lanes.length)).map fun e => (rowPlace t r e, rowCode r q lanes e) := by
  refine List.ext_getElem (by simp [rowPlaces, tab]) fun i hi _ => ?_
  have hlane : i < lanes.length := by simp at hi; omega
  simp [rowPlaces, tab, rowPlace, rowCode, hlane]

/-! ## What a row leaves alone -/

/-- What SPOOR does not show, an access out of range leaves. -/
theorem offend_keeps {γ : Type} (g : Tile → γ) (h : ∀ t x y, g { t with spoor := x, spoorNow := y } = g t) (t : Tile)
    (w : Bool) (src tid off : Nat) : g (t.offend w src tid off) = g t := by
  simp only [Tile.offend]
  split_ifs
  · exact h _ _ _
  · rfl

theorem foldl_raise_keeps {α γ : Type} (g : Tile → γ) (h : ∀ t fl, g (t.raise fl) = g t) (f : α → Flags) (l : List α)
    (t : Tile) : g (l.foldl (fun t e => t.raise (f e)) t) = g t := by
  induction l generalizing t with
  | nil => rfl
  | cons e l ih => rw [List.foldl_cons, ih, h]

/-- The scratchpad, the stream registers and the vector queues of a tile. -/
def rowView (t : Tile) : Mem × SMap (BitVec 256) × SMap (List QRow) := (t.sp, t.st, t.vq)

theorem rowView_eq {t u : Tile} : rowView u = rowView t ↔ u.sp = t.sp ∧ u.st = t.st ∧ u.vq = t.vq := by
  simp [rowView]

/-- A row written changes flags, SPOOR and the bytes of its elements in range. -/
theorem writeRow_eq (r : BitVec 256) (q : StreamReq) (tid : Nat) (t : Tile) (lanes : List W32) : ∃ u : Tile,
    writeRow r q tid t lanes = u.spWrite (rowSpan t r).1 ((rowInRange t r (min (stBlk r) lanes.length)).flatMap fun e =>
      bytesOf (elemBytes (fmtWidth (stFmt r))) (rowCode r q lanes e).1) ∧ rowView u = rowView t := by
  have hels := rowPlaces_zip t r q lanes
  generalize hl : ((List.zip (rowPlaces t r) lanes).map fun x =>
    (x.1, storeCode (stFmt r) (stX r) (stSat r) (rowMode r q) q.seed x.2)) = els at hels
  have hbytes : (els.filter (·.1.2)).flatMap (fun x => bytesOf (elemBytes (fmtWidth (stFmt r))) x.2.1) =
      (rowInRange t r (min (stBlk r) lanes.length)).flatMap fun e =>
        bytesOf (elemBytes (fmtWidth (stFmt r))) (rowCode r q lanes e).1 := by
    rw [hels, List.filter_map, List.flatMap_map]
    rfl
  have hraise := foldl_raise_keeps rowView (fun _ _ => rfl) (fun e : (Nat × Bool) × Nat × Flags => e.2.2) els t
  simp only [writeRow, hl, hbytes]
  refine ⟨_, rfl, ?_⟩
  cases els.find? fun x => !x.1.2 with
  | none => exact hraise
  | some e => exact (offend_keeps rowView (fun _ _ _ => rfl) _ _ _ _ _).trans hraise

/-- The elements of a written row stand in the scratchpad, and no other byte has changed. -/
theorem writeRow_sp {t : Tile} (hwf : t.sp.wf = true) {r : BitVec 256} (hf : blockFmt (stFmt r) = false) (q : StreamReq)
    (tid : Nat) (lanes : List W32) :
    let m := (writeRow r q tid t lanes).sp
    let w := fmtWidth (stFmt r)
    (∀ e, e < stBlk r → e < lanes.length → (rowPlace t r e).2 = true →
      Mem.readN m (rowPlace t r e).1 (elemBytes w) = (rowCode r q lanes e).1 % 2 ^ w) ∧
    ∀ x, (∀ e, e < stBlk r → (rowPlace t r e).2 = true → x < (rowPlace t r e).1 ∨ (rowPlace t r e).1 + elemBytes w ≤ x) →
      m.get x = t.sp.get x := by
  obtain ⟨u, hrow, hview⟩ := writeRow_eq r q tid t lanes
  obtain ⟨hsp, -, -⟩ := rowView_eq.mp hview
  obtain ⟨hread, hkeep⟩ := consecutive_written (value := fun e => (rowCode r q lanes e).1) hwf
    (rowInRange_consecutive (t := t) hf (Nat.min_le_left (stBlk r) lanes.length))
  have hpow : 2 ^ fmtWidth (stFmt r) = 256 ^ elemBytes (fmtWidth (stFmt r)) := by
    rw [show 256 = 2 ^ 8 by rfl, ← pow_mul, ← fmtWidth_bytes hf]
  rw [hrow]
  simp only [Tile.spWrite, hsp, hpow]
  refine ⟨fun e hblk hlane hin => hread e (mem_rowInRange.mpr ⟨by omega, hin⟩), fun x hx => hkeep x fun e he => ?_⟩
  obtain ⟨hlt, hin⟩ := mem_rowInRange.mp he
  exact hx e (by omega) hin

theorem rowDone_vqRows (t : Tile) (n k : Nat) : (t.rowDone n).vqRows k = t.vqRows k := rfl
theorem rowDone_st (t : Tile) (n : Nat) : (t.rowDone n).st = SMap.set 0#256 t.st n (stAdvance (t.stReg n)) := rfl

/-! ## Rows (R179, R180, R182) -/

theorem exec_streamRowRead {s : State} {q : StreamReq} (hq : s.me.nextRow s.focus.idx = some q)
    (hown : s.OwnPointer (stBase (s.me.stReg s.focus.idx))) (halign : (stBase (s.me.stReg s.focus.idx)).toNat % 16 = 0)
    (hn : s.focus.idx < 8) (hroom : (s.me.vqRows s.focus.idx).length < 16)
    (hperm : (readRow (s.me.seen s.dcc) (s.me.stReg s.focus.idx)).perm = false)
    (hecc : (readRow (s.me.seen s.dcc) (s.me.stReg s.focus.idx)).ecc = false) : exec .streamRowRead s =
    let row := readRow (s.me.seen s.dcc) (s.me.stReg s.focus.idx)
    let noted := match row.bad with
      | some off => s.me.offend false 0 s.focus.tile (off % 2 ^ 21).toNat
      | none => s.me
    .next (s.withMe (((noted.setVq s.focus.idx (s.me.vqRows s.focus.idx ++ [⟨0, some row.vals, 0⟩])).raise row.fl).rowDone
      s.focus.idx)) := by
  have hptr := ptrFault_none hown noReach (off := 0) (align := 16) (by omega)
  have hvq (off : Nat) : (s.me.offend false 0 s.focus.tile off).vqRows s.focus.idx = s.me.vqRows s.focus.idx :=
    offend_keeps (·.vqRows s.focus.idx) (fun _ _ _ => rfl) _ _ _ _ _
  change execStreamRowRead s = _
  simp only [execStreamRowRead, hq, hptr, hperm, hecc, onMe_withMe]
  rw [if_neg (by omega), if_neg (by simp), if_neg (by simp)]
  cases (readRow (s.me.seen s.dcc) (s.me.stReg s.focus.idx)).bad with
  | none => rfl
  | some off => simp only [hvq]

theorem exec_streamRowWrite {s : State} {q : StreamReq} (hq : s.me.nextRow s.focus.idx = some q)
    (hown : s.OwnPointer (stBase (s.me.stReg s.focus.idx))) (halign : (stBase (s.me.stReg s.focus.idx)).toNat % 16 = 0)
    (hn : 8 ≤ s.focus.idx) {x : QRow} {xs : List QRow} {lanes : List W32} (hx : s.me.vqRows s.focus.idx = x :: xs)
    (hrow : x.row = some lanes) (hage : 2 ≤ x.age) (hperm : writeRowPerm s.me (s.me.stReg s.focus.idx) = false)
    (hbad : writeRowBad s.me (s.me.stReg s.focus.idx) = false) (hqueue : s.me.queueBad s.focus.idx 1 = false) :
    exec .streamRowWrite s = .next (s.withMe ((writeRow (s.me.stReg s.focus.idx) q s.focus.tile
      ((s.me.setVq s.focus.idx xs).queueMoved s.focus.idx 1) lanes).rowDone s.focus.idx)) := by
  have hptr := ptrFault_none hown noReach (off := 0) (align := 16) (by omega)
  change execStreamRowWrite s = _
  simp only [execStreamRowWrite, hq, hx, hrow, hptr, hperm, hbad, hqueue, onMe_withMe]
  rw [if_neg (by omega), if_neg (by simp), if_neg (by simp), if_neg (by simp)]

/-- Settles O30: requests by the check of their register and count; a row written by its elements in range. -/
theorem streamRowsMove : Obligations.StreamRowsMove := by
  intro s st sa imm
  refine ⟨?requests, ?rows⟩
  case requests =>
    intro h n rows r f scaled read write common
    rw [exec_srd h, exec_swr h]
    have hasks {read : Bool} {delay : Nat} (hfit : s.me.reqCount n + rows < 2 ^ 24)
        (hreg : s.me.stldPending n = true ∨ streamRegCheck s.focus.tile r read = .go) :
        requestRows s n rows read delay = .next (s.withMe ((s.me.ask n rows delay).moved .d)) :=
      requestRows_asks h (streamCheck_go hreg hfit)
    have hfaults {read : Bool} {delay c : Nat} (hu : s.unfaulted) (hrows : 2 ^ 24 ≤ rows ∨ s.me.reqCount n + rows < 2 ^ 24)
        (hp : s.me.stldPending n = false) (hreg : streamRegCheck s.focus.tile r read = .fault c (stBase r)) :
        FaultsAt s (requestRows s n rows read delay) c :=
      requestRows_faults h hu (streamCheck_regFault hp hreg hrows)
    refine ⟨fun hfit => ⟨fun hown halign hcommon => ⟨fun hsat hblk => ?srd, fun hscaled => ?swr⟩, fun hp =>
        ⟨hasks hfit (.inl hp), hasks hfit (.inl hp)⟩⟩,
      fun hrows hfull => ⟨requestRows_waits h hrows hfull, requestRows_waits h hrows hfull⟩,
      fun hu hrows hp => ⟨fun c hf => ⟨hfaults hu hrows hp (streamRegCheck_pointer hf true),
          hfaults hu hrows hp (streamRegCheck_pointer hf false)⟩,
        fun hown halign => ⟨fun hform => hfaults hu hrows hp (streamRegCheck_illegal hown halign ?srdForm),
          fun hform => hfaults hu hrows hp (streamRegCheck_illegal hown halign ?swrForm)⟩⟩,
      fun hu hrows hreg => ⟨requestRows_faults h hu (streamCheck_rowsFault hrows hreg),
        requestRows_faults h hu (streamCheck_rowsFault hrows hreg)⟩⟩
    case srd =>
      refine hasks hfit (.inr ?_)
      rw [streamRegCheck_own hown halign, need_eq_go, streamForm_read]
      exact ⟨hcommon, hsat, hblk⟩
    case swr =>
      refine hasks hfit (.inr ?_)
      rw [streamRegCheck_own hown halign, need_eq_go, streamForm_write]
      exact ⟨hcommon, hscaled⟩
    case srdForm =>
      rw [streamForm_read]
      rintro ⟨hcommon, hsat, hblk⟩
      rcases hform with hform | hform | ⟨hscaled, h32, h64⟩
      · exact hform hcommon
      · exact absurd hform (by rw [hsat]; decide)
      · exact (hblk hscaled).elim h32 h64
    case swrForm =>
      rw [streamForm_write]
      rintro ⟨hcommon, hscaled⟩
      exact hform.elim (fun hform => hform hcommon) hscaled
  case rows =>
    intro n t r q hq hown halign
    refine ⟨fun hn hroom hperm hecc => exec_streamRowRead hq hown halign hn hroom hperm hecc,
      fun hn x xs lanes hx hrow hage hperm hbad hqueue hwf hf => ?_⟩
    obtain ⟨u, hu, hview⟩ := writeRow_eq r q s.focus.tile ((t.setVq n xs).queueMoved n 1) lanes
    obtain ⟨-, hst, hvq⟩ := rowView_eq.mp hview
    refine ⟨_, exec_streamRowWrite hq hown halign hn hx hrow hage hperm hbad hqueue, ?_, ?_, ?_⟩
    · rw [hu, rowDone_vqRows]
      change (SMap.find u.vq n).getD [] = xs
      rw [hvq]
      exact congrArg (·.getD []) (find_put t.vq n xs)
    · rw [hu, rowDone_st]
      change SMap.set 0#256 u.st n (stAdvance (SMap.get 0#256 u.st n)) = _
      rw [hst]
      rfl
    · exact writeRow_sp (t := (t.setVq n xs).queueMoved n 1) hwf hf q s.focus.tile lanes

end Sys2Proof.Proofs
end

section
/-! SUPPORT. Postings, waits and requests of the E strand (R207, R209 to R215): each said once, and O32. -/

namespace Sys2Proof.Proofs

open Sys2Proof.Machine Sys2Proof.Laws

/-! ## The checks of the E strand (R209, R210, R215) -/

/-- A pointer check that asks for a multiple of 64 at an own pointer passes (R209). -/
theorem linePtr_go {s : State} {p : W64} (h : s.OwnLine p) : ptrCheck s.focus.tile noReach p 0 64 = .go :=
  ptrCheck_go h.1 noReach (by have := h.2; omega)

theorem pqRoom_eq (s : State) (eng : Nat) :
    s.pqRoom eng = if (s.me.eng eng).pq.length < 16 then .go else .block 6 0 := by
  simp [State.pqRoom, Check.wait]

theorem globalCheck_go {p : W64} {align : Nat} (h : GlobalPointer p align) : globalCheck p align = .go := by
  obtain ⟨hlow, halign⟩ := h
  rw [globalCheck, if_neg (by simp only [bits]; omega), need_eq_go, halign]
  rfl

theorem reqRoom_go {s : State} (h : s.me.reqs.length < 8) : s.reqRoom = .go := by
  simp [State.reqRoom, h]

/-- A count has been reached once it stands less than half the range ahead (R210). -/
theorem reached_iff (c n : W32) : reached c n = true ↔ (c - n).toNat < 2 ^ 31 := by
  simp [reached, csnReached]

theorem reached_not {c n : W32} (h : 2 ^ 31 ≤ (c - n).toNat) : reached c n = false := by
  rw [Bool.eq_false_iff, ne_eq, reached_iff]
  omega

/-- The status word of an engine (R211). -/
theorem engineWord_eq (t : Tile) (n : Nat) : t.engineWord n = BitVec.ofNat 64 (n * 2 ^ 62 +
    (if n = 0 then t.empty.toNat else 0) * 2 ^ 40 + ((t.eng n).pq.countP fun x : Posted => x.delay == 0) * 2 ^ 32 +
    (t.eng n).csn.toNat) := by
  rw [Tile.engineWord, List.countP_eq_length_filter]

/-! ## Postings (R207, R210, R213) -/

/-- What stands in a posting queue of a tile after a posting of the E strand (R94, R210). -/
def postingOf (t : Tile) (w : Posting) : Posted := ⟨w, t.modeRm.toNat, t.srseed, 2⟩

section
variable {s : State} (h : Alone s .e)
include h

theorem exec_post_issue (eng : BitVec 2) (sa : BitVec 6) : exec (.post eng sa) s =
    issue s ((ptrCheck s.focus.tile noReach (s.src sa) 0 64).and (s.pqRoom eng.toNat)) fun s' =>
      (s'.onMe fun t => t.postTo eng.toNat (.single (s.src sa))).retire := by
  rw [← rs_eq h.2.1]
  rfl

theorem exec_tadv_issue (eng : BitVec 2) (sa : BitVec 6) : exec (.tadv eng sa) s =
    issue s ((ptrCheck s.focus.tile noReach (s.src sa) 0 64).and (s.pqRoom eng.toNat)) fun s' =>
      (s'.onMe fun t => if (t.eng eng.toNat).tail = s.src sa then t
        else (t.postTo eng.toNat (.chain (s.src sa))).onEng eng.toNat fun e => { e with tail := s.src sa }).retire := by
  rw [← rs_eq h.2.1]
  rfl

/-- A posting of a record waits for room, whatever its pointer. -/
theorem posting_waits {eng : BitVec 2} (hfull : 16 ≤ (s.me.eng eng.toNat).pq.length) (sa : BitVec 6) :
    WaitsAt s (exec (.post eng sa) s) 6 0 ∧ WaitsAt s (exec (.tadv eng sa) s) 6 0 := by
  have hroom : s.pqRoom eng.toNat = .block 6 0 := by rw [pqRoom_eq, if_neg (by omega)]
  rw [exec_post_issue h, exec_tadv_issue h]
  exact ⟨issue_waits_first h _ (ptrCheck_judges _ _ _ _ _) hroom, issue_waits_first h _ (ptrCheck_judges _ _ _ _ _) hroom⟩

/-- A posting of a record that need not wait faults with its pointer's fault. -/
theorem posting_faults {eng : BitVec 2} {sa : BitVec 6} {c : Nat} (hroom : (s.me.eng eng.toNat).pq.length < 16)
    (hu : s.unfaulted) (hf : s.PointerFault (s.src sa) 0 64 c) :
    FaultsAt s (exec (.post eng sa) s) c ∧ FaultsAt s (exec (.tadv eng sa) s) c := by
  have hjudges : (s.pqRoom eng.toNat).verdict ≠ 1 := by rw [pqRoom_eq, if_pos hroom]; decide
  rw [exec_post_issue h, exec_tadv_issue h]
  exact ⟨issue_first_fault h _ hu (ptrCheck_fault hf) hjudges, issue_first_fault h _ hu (ptrCheck_fault hf) hjudges⟩

section
variable {eng : BitVec 2} {sa : BitVec 6} (hroom : (s.me.eng eng.toNat).pq.length < 16) (hp : s.OwnLine (s.src sa))
include hroom hp

omit h in
/-- The checks of a posting of a record pass. -/
theorem posting_go : (ptrCheck s.focus.tile noReach (s.src sa) 0 64).and (s.pqRoom eng.toNat) = .go := by
  rw [linePtr_go hp, go_and, pqRoom_eq, if_pos hroom]

theorem exec_post_posts : exec (.post eng sa) s = .next (s.withMe ((s.me.onEng eng.toNat fun e =>
    { e with pq := e.pq ++ [postingOf s.me (.single (s.src sa))] }).moved .e)) := by
  rw [exec_post_issue h, issue_changes h (posting_go hroom hp)]
  rfl

theorem exec_tadv_posts (htail : (s.me.eng eng.toNat).tail ≠ s.src sa) : exec (.tadv eng sa) s =
    .next (s.withMe ((s.me.onEng eng.toNat fun e =>
      { e with pq := e.pq ++ [postingOf s.me (.chain (s.src sa))], tail := s.src sa }).moved .e)) := by
  rw [exec_tadv_issue h, issue_changes h (posting_go hroom hp), if_neg htail, Tile.postTo, onEng_onEng_tile]
  rfl

/-- A tail that stands already adds nothing. -/
theorem exec_tadv_same (htail : (s.me.eng eng.toNat).tail = s.src sa) :
    exec (.tadv eng sa) s = .next (s.withMe (s.me.moved .e)) := by
  rw [exec_tadv_issue h, issue_changes h (posting_go hroom hp), if_pos htail]

end

theorem exec_fsend_issue (o : Bool) (fid : BitVec 20) (sa sb : BitVec 6) (fc : BitVec 5) : exec (.fsend o fid sa sb fc) s =
    issue s (s.pqRoom 3) fun s' =>
      (s'.onMe fun t => t.postTo 3 (.fsend fid.toNat (s.src sa) (s.src sb) fc.toNat o)).retire := by
  rw [← rs_eq h.2.1 sa, ← rs_eq h.2.1 sb]
  rfl

theorem exec_fsend_posts (hroom : s.me.fi.pq.length < 16) (o : Bool) (fid : BitVec 20) (sa sb : BitVec 6) (fc : BitVec 5) :
    exec (.fsend o fid sa sb fc) s = .next (s.withMe ({ s.me with fi := { s.me.fi with
      pq := s.me.fi.pq ++ [postingOf s.me (.fsend fid.toNat (s.src sa) (s.src sb) fc.toNat o)] } }.moved .e)) := by
  rw [exec_fsend_issue h, issue_changes h (by rw [pqRoom_eq]; exact if_pos hroom)]
  rfl

theorem exec_fsend_waits (hfull : 16 ≤ s.me.fi.pq.length) (o : Bool) (fid : BitVec 20) (sa sb : BitVec 6) (fc : BitVec 5) :
    WaitsAt s (exec (.fsend o fid sa sb fc) s) 6 0 := by
  rw [exec_fsend_issue h]
  exact issue_waitsAt _ h.1 (by rw [pqRoom_eq]; exact if_neg (Nat.not_lt.mpr hfull))

/-! ## Status words and waits (R210 to R212, R214) -/

omit h in
theorem exec_cseq_issue (eng : BitVec 2) : exec (.cseq eng) s =
    issue s (Check.wait (s.me.q15.length < 8) 1 15) fun s' => (s'.onMe fun t =>
      ({ t with q15 := t.q15 ++ [⟨t.dseq, none⟩], dseq := t.dseq + 1 } : Tile).flying 2
        (.q15 t.dseq (t.engineWord eng.toNat)) f0 3).retire := rfl

theorem exec_cseq_pushes (hroom : s.me.q15.length < 8) (eng : BitVec 2) : exec (.cseq eng) s =
    .next (s.withMe ((({ s.me with q15 := s.me.q15 ++ [⟨s.me.dseq, none⟩], dseq := s.me.dseq + 1 } : Tile).flying 2
      (.q15 s.me.dseq (s.me.engineWord eng.toNat)) f0 3).moved .e)) := by
  rw [exec_cseq_issue, issue_changes h (wait_eq_go.mpr (decide_eq_true hroom))]

theorem exec_cseq_waits (hfull : 8 ≤ s.me.q15.length) (eng : BitVec 2) : WaitsAt s (exec (.cseq eng) s) 1 15 := by
  rw [exec_cseq_issue]
  exact issue_waitsAt _ h.1 (by rw [decide_eq_false (Nat.not_lt.mpr hfull)]; rfl)

theorem exec_cwait_issue (eng : BitVec 2) (sa : BitVec 6) : exec (.cwait eng sa) s =
    issue s (Check.wait (reached (s.me.eng eng.toNat).csn ((s.src sa).setWidth 32)) 4 eng.toNat) fun s' =>
      (s'.onMe fun t => t.observe eng.toNat (t.eng eng.toNat).csn).retire := by
  rw [← rs_eq h.2.1]
  rfl

theorem exec_fwait_issue (fc : BitVec 5) (sa : BitVec 6) : exec (.fwait fc sa) s =
    issue s (Check.wait (reached (s.me.fcReg fc.toNat) ((s.src sa).setWidth 32)) 3 fc.toNat) fun s' =>
      (s'.onMe Tile.acquire).retire := by
  rw [← rs_eq h.2.1]
  rfl

end

/-! ## Requests (R215, R310) -/

/-- The state after a request of the E strand has been placed behind those outstanding. -/
def asking (s : State) (q : TileReq) : State :=
  ({ s with reqNum := s.reqNum + 1 } : State).withMe ({ s.me with reqs := s.me.reqs ++ [q] }.moved .e)

/-- The operands that topk takes: tokens, experts and format (R215). -/
theorem topkOps_some {b : W64} (ht : 1 ≤ b.toNat % 2 ^ 32 ∧ b.toNat % 2 ^ 32 ≤ 65536)
    (he : 2 ≤ b.toNat / 2 ^ 32 % 2 ^ 16 ∧ b.toNat / 2 ^ 32 % 2 ^ 16 ≤ 4096) (hf : b.toNat / 2 ^ 48 < 2) :
    topkOps b = some ⟨b.toNat % 2 ^ 32, b.toNat / 2 ^ 32 % 2 ^ 16, b.toNat / 2 ^ 48⟩ := by
  have h0 : bits b.toNat 31 0 = b.toNat % 2 ^ 32 := by simp [bits]
  have h32 : bits b.toNat 47 32 = b.toNat / 2 ^ 32 % 2 ^ 16 := rfl
  have h48 : bits b.toNat 52 48 = b.toNat / 2 ^ 48 := by simp only [bits]; omega
  have h53 : bits b.toNat 63 53 = 0 := by simp only [bits]; omega
  rw [topkOps, h0, h32, h48, h53]
  exact if_neg (by dsimp only; omega)

section
variable {s : State} (h : Alone s .e) (hroom : s.me.reqs.length < 8)
include h

/-- A request whose checks pass is placed. -/
theorem placeReq_places {c : Check} (hc : c = .go) (kind : Nat) (a b d : W64) (fc k : Nat) :
    issue s c (fun s' => s'.placeReq kind a b d fc k) =
      .next (asking s ⟨kind, a, b, d, fc, k, s.me.se.pc, 2, s.reqNum, none⟩) := by
  obtain ⟨hm, hs, hst⟩ := h
  have hplace : s.placeReq kind a b d fc k = (({ s with reqNum := s.reqNum + 1 } : State).withMe
      { s.me with reqs := s.me.reqs ++ [⟨kind, a, b, d, fc, k, s.me.se.pc, 2, s.reqNum, none⟩] }).retire := rfl
  rw [issue_go _ hm hc, hplace, withMe_retire (s := { s with reqNum := s.reqNum + 1 }) hs, hst]
  rfl

include hroom

theorem exec_aqry_asks {sa sb sc : BitVec 6} (ha : s.OwnLine (s.src sa)) (hb : GlobalPointer (s.src sb) 64)
    (hc : s.OwnLine (s.src sc)) (fc : BitVec 5) : exec (.aqry sa sb sc fc) s =
    .next (asking s ⟨0, s.src sa, s.src sb, s.src sc, fc.toNat, 0, s.me.se.pc, 2, s.reqNum, none⟩) := by
  rw [← rs_eq h.2.1] at ha hb hc
  rw [← rs_eq h.2.1, ← rs_eq h.2.1, ← rs_eq h.2.1]
  refine placeReq_places h ?_ _ _ _ _ _ _
  rw [State.localCheck, State.localCheck, linePtr_go ha, globalCheck_go hb, linePtr_go hc, reqRoom_go hroom]
  rfl

theorem exec_topk_asks {sa sb sc : BitVec 6} (ha : GlobalPointer (s.src sa) 64) (hc : s.OwnLine (s.src sc)) {o : TopkOps}
    (ho : topkOps (s.src sb) = some o) {k : BitVec 3} (hk : k.toNat + 1 ≤ o.e) (fc : BitVec 5) :
    exec (.topk k sa sb sc fc) s =
      .next (asking s ⟨1, s.src sa, s.src sb, s.src sc, fc.toNat, k.toNat + 1, s.me.se.pc, 2, s.reqNum, none⟩) := by
  rw [← rs_eq h.2.1] at ha hc ho
  rw [← rs_eq h.2.1, ← rs_eq h.2.1, ← rs_eq h.2.1]
  refine placeReq_places h ?_ _ _ _ _ _ _
  rw [globalCheck_go ha, State.localCheck, linePtr_go hc, reqRoom_go hroom, ho]
  simp [hk]

theorem exec_kvtrunc_asks {sa : BitVec 6} (hdet : s.me.modeDet = false) (ha : GlobalPointer (s.src sa) 64) (sb : BitVec 6)
    (fc : BitVec 5) : exec (.kvtrunc sa sb fc) s =
    .next (asking s ⟨2, s.src sa, s.src sb, 0, fc.toNat, 0, s.me.se.pc, 2, s.reqNum, none⟩) := by
  rw [← rs_eq h.2.1] at ha
  rw [← rs_eq h.2.1, ← rs_eq h.2.1]
  refine placeReq_places h ?_ _ _ _ _ _ _
  rw [hdet, globalCheck_go ha, reqRoom_go hroom]
  rfl

end

/-- Settles O32: each posting, wait and request by its checks, which wait, fault or let it go on. -/
theorem engineInstructionsPostAndAsk : Obligations.EngineInstructionsPostAndAsk := by
  refine ⟨fun s eng sa sb fid fc o h => ?strand, fun s sa sb sc fc h hroom => ?requests⟩
  case strand =>
    refine ⟨fun hroom hp => ⟨exec_post_posts h hroom hp, exec_tadv_posts h hroom hp, exec_tadv_same h hroom hp⟩,
      fun hroom => exec_fsend_posts h hroom o fid sa sb fc, fun hroom => ?status, fun hcsn => ?cwait, fun hfc => ?fwait,
      fun hfull => posting_waits h hfull sa, fun hfull => exec_fsend_waits h hfull o fid sa sb fc,
      fun hfull => exec_cseq_waits h hfull eng, fun hcsn => ?cwaits, fun hfc => ?fwaits,
      fun hu hroom c hf => posting_faults h hroom hu hf⟩
    case status =>
      rw [← engineWord_eq]
      exact exec_cseq_pushes h hroom eng
    case cwait =>
      rw [exec_cwait_issue h, issue_changes h (wait_eq_go.mpr ((reached_iff _ _).mpr hcsn))]
    case fwait =>
      rw [exec_fwait_issue h, issue_changes h (wait_eq_go.mpr ((reached_iff _ _).mpr hfc))]
    case cwaits =>
      rw [exec_cwait_issue h]
      exact issue_waitsAt _ h.1 (by rw [reached_not hcsn]; rfl)
    case fwaits =>
      rw [exec_fwait_issue h]
      exact issue_waitsAt _ h.1 (by rw [reached_not hfc]; rfl)
  case requests =>
    exact ⟨fun ha hb hc => exec_aqry_asks h hroom ha hb hc fc,
      fun k ha hc ⟨ht, ht', he, he', hf, hk⟩ => exec_topk_asks h hroom ha hc (topkOps_some ⟨ht, ht'⟩ ⟨he, he'⟩ hf) hk fc,
      fun hdet ha => exec_kvtrunc_asks h hroom hdet ha sb fc⟩

end Sys2Proof.Proofs
end

section
/-! SUPPORT. Copies and injected packets (R213, R229 to R231, R236, R388, R389, R391): the beats of a copy record, the packets
of flow records and of sends, each said once, and O38. -/

namespace Sys2Proof.Proofs

open Sys2Proof.Machine Sys2Proof.Laws

/-! ## Beats of the CP (R229, R230) -/

/-- The loop points of the beat in progress, each with its place in the beat. -/
def beatUnits (run : Run) : List (Nat × Nat) := List.zip (List.range (beatPoints run).length) (beatPoints run)

/-- Does a record of the CP read an index list (R229)? -/
def readsIndices (i : Instr) : Bool :=
  match i with
  | .gath _ => true
  | .scat _ => true
  | _ => false

/-- The reads of the index list that a beat makes (R229). -/
def beatIndices (i : Instr) (r : Rec) (run : Run) : List (Option (W64 × Int)) :=
  if readsIndices i then
    (beatPoints run).map fun n => some (run.base 2, ((descOff r.od2 + 4 * rowIndex run.trips n : Nat) : Int)) else []

/-- The index of a unit, by its place in the beat. -/
def beatIndex (ixs : List (List W8)) (k : Nat) : Nat := natOfBytes (ixs.getD k [])

/-- The sources of a beat's units. -/
def beatSources (i : Instr) (r : Rec) (run : Run) (ixs : List (List W8)) : List (Option (W64 × Int)) :=
  (beatUnits run).map fun u => cpSource i r run u.2 (beatIndex ixs u.1)

/-- The destinations of a beat's units, each with its place in the beat. -/
def beatDests (i : Instr) (r : Rec) (run : Run) (ixs : List (List W8)) : List (Nat × W64 × Int) :=
  (beatUnits run).filterMap fun u => (cpDest i r run u.2 (beatIndex ixs u.1)).map fun x => (u.1, x)

/-- What a unit writes: the pattern of a fill, or what its source held. -/
def unitData (i : Instr) (r : Rec) (data : List (List W8)) (k : Nat) : List W8 :=
  match i with
  | .fill _ => (List.replicate 4 (bytesOf 4 (r.od0.toNat % 2 ^ 32))).flatten
  | _ => data.getD k []

/-- The loads of a beat: those of its index list, then its units together; and the writes that it will make. -/
theorem cpLoad_eq (i : Instr) (r : Rec) (s : State) (run : Run) :
    cpLoad i r s run = match cpFetch 4 (beatIndices i r run) [] s with
      | (.error e, s1) => (.error e, s1)
      | (.ok ixs, s1) =>
        match cpFetch 16 (beatSources i r run ixs) ((beatDests i r run ixs).map fun x => (x.2.1, x.2.2, 16, true)) s1 with
        | (.error e, s2) => (.error e, s2)
        | (.ok data, s2) => (.ok ((beatDests i r run ixs).map fun x => (x.2.1, x.2.2, unitData i r data x.1)), s2) := rfl

section
variable {i : Instr} {r : Rec} (hi : i = .copy r ∨ i = .gath r ∨ i = .scat r ∨ i = .fill r)
include hi

theorem readsIndices_iff : readsIndices i = true ↔ i = .gath r ∨ i = .scat r := by
  rcases hi with rfl | rfl | rfl | rfl
  · exact ⟨nofun, nofun⟩
  · exact ⟨fun _ => .inl rfl, fun _ => rfl⟩
  · exact ⟨fun _ => .inr rfl, fun _ => rfl⟩
  · exact ⟨nofun, nofun⟩

theorem unitData_eq (data : List (List W8)) (k : Nat) : unitData i r data k =
    if i = .fill r then (List.replicate 4 (bytesOf 4 (r.od0.toNat % 2 ^ 32))).flatten else data.getD k [] := by
  rcases hi with rfl | rfl | rfl | rfl
  · exact (if_neg nofun).symm
  · exact (if_neg nofun).symm
  · exact (if_neg nofun).symm
  · exact (if_pos rfl).symm

theorem beatIndices_eq (run : Run) : beatIndices i r run = if i = .gath r ∨ i = .scat r
    then (beatPoints run).map fun n => some (run.base 2, ((descOff r.od2 + 4 * rowIndex run.trips n : Nat) : Int)) else [] :=
  if_congr (readsIndices_iff hi) rfl rfl

end

/-- Something made of each destination of a beat is made of each of its units that has one. -/
theorem beatDests_map {α : Type} (i : Instr) (r : Rec) (run : Run) (ixs : List (List W8)) (f : Nat × W64 × Int → α) :
    (beatDests i r run ixs).map f =
      (beatUnits run).filterMap fun u => (cpDest i r run u.2 (beatIndex ixs u.1)).map fun x => f (u.1, x) := by
  rw [beatDests, List.map_filterMap]
  simp only [Option.map_map, Function.comp_def]

section
variable {s s1 s2 : State} {i : Instr} {r : Rec} {run : Run} (hstuck : run.stuck = none)
include hstuck

/-- A beat whose loads do not go on stops before it writes. -/
theorem cpBeat_stops {e : CpStop} (h : cpLoad i r s run = (.error e, s1)) : cpBeat i r s run = cpStopped s1 e := by
  simp [cpBeat, hstuck, h]

/-- A beat whose units are all written goes on with the next, or retires its record. -/
theorem cpBeat_done {ws : List (W64 × Int × List W8)} (h : cpLoad i r s run = (.ok ws, s1))
    (hw : cpWrites ws s1 = (none, s2)) : cpBeat i r s run =
      if points run.trips ≤ 16 * (run.prog + 1) then s2.retireRecord
      else s2.onRun fun x => { x with prog := x.prog + 1 } := by
  simp [cpBeat, hstuck, h, hw]

end

/-- A copy record under way does its next beat. -/
theorem exec_copying {s : State} {i : Instr} {r : Rec} {run : Run} (hi : i = .copy r ∨ i = .gath r ∨ i = .scat r ∨ i = .fill r)
    (h : s.AtHead i run) (hs : run.started = true) : exec i s = .next (cpBeat i r s run) := by
  rcases hi with rfl | rfl | rfl | rfl <;> exact recordOp_unit _ h hs

/-! ## Packets that the FI injects (R231, R236, R388, R389, R391) -/

theorem droveOn_eq (s : State) : s.droveOn = s.drovecfg.toNat.testBit 63 := bitAt_testBit _ _

/-- A flow is not refused for its class, unless it is a drove flow while the drove class is off (R389). -/
theorem drove_may {s : State} {o : Bool} (hon : o = true → s.drovecfg.toNat.testBit 63 = true) : (o && !s.droveOn) = false := by
  rw [droveOn_eq]
  cases o with
  | false => rfl
  | true => simp [hon rfl]

/-- The channel that a packet of the tile takes into its router. -/
theorem arrivalChannel_inject (s : State) (router : Nat) (p : Packet) : s.arrivalChannel router 0 p =
    if p.o = false then p.part % 8
    else if s.drovecfg.toNat.testBit 63 = false then 9 else if s.outOfRange p.stamp then 10 else 8 := by
  rw [State.arrivalChannel, droveOn_eq, Packet.channel]
  cases p.o <;> cases s.drovecfg.toNat.testBit 63 <;> simp

theorem inject_router (s : State) (p : Packet) :
    let r := s.router s.focus.tile
    let ch := s.arrivalChannel s.focus.tile 0 p
    (s.inject p).router s.focus.tile = { r with inq := SMap.put r.inq ch (r.inputs 0 ch ++ [p]) } := by
  intro r ch
  change (s.putPacket s.focus.tile 0 p).router s.focus.tile = _
  rw [State.putPacket, router_onRouter, Router.setInputs, Nat.mul_zero, Nat.zero_add]

theorem inject_me (s : State) (p : Packet) : (s.inject p).me = { s.me with sseq := s.me.sseq + 1 } := by
  rw [State.inject, me_onMe]
  rfl

/-! ## Flow records (R231) -/

/-- After its packet a flow record goes on with the next, or is done with its last (R231). -/
def flowOn (r : Rec) (run : Run) (s : State) : State :=
  if run.prog + 1 = points run.trips then s.sendDone (flowFc r.od1) else s.onRun fun x => { x with prog := x.prog + 1 }

section
variable {s : State} {r : Rec} {run : Run}

/-- A drove flow while the drove class is off faults (R389). -/
theorem fiUnit_off (i : Instr) (ho : flowO r.od1 = true) (hoff : s.drovecfg.toNat.testBit 63 = false) :
    fiUnit i r s run = engineFaultAt s 0x11 (elemPtr (run.base 0) (descDisp r.od0 run.trips run.prog)) := by
  simp [fiUnit, ho, droveOn_eq, hoff, cFLOW]

variable (hon : flowO r.od1 = true → s.drovecfg.toNat.testBit 63 = true)
include hon

theorem fiUnit_fsig : fiUnit (.fsig r) r s run =
    flowOn r run (s.inject (s.fiPacket (flowFid r.od1) (flowO r.od1) run.prog 0 [] true false)) := by
  simp only [fiUnit, drove_may hon]
  rfl

theorem fiUnit_fdrp : fiUnit (.fdrp r) r s run =
    flowOn r run (s.inject (s.fiPacket (flowFid r.od1) (flowO r.od1) run.prog (256 * run.prog) [] false true)) := by
  simp only [fiUnit, drove_may hon]
  rfl

theorem fiUnit_fsnd {w : Nat} {s' : State}
    (hr : s.ereadUnits (run.base 0) (descDisp r.od0 run.trips run.prog) (4 * flowPl r.od1) = .ok (w, s')) :
    fiUnit (.fsnd r) r s run = flowOn r run (s'.inject (s'.fiPacket (flowFid r.od1) (flowO r.od1) run.prog
      (64 * flowPl r.od1 * run.prog) (bytesOf (64 * flowPl r.od1) w) false false)) := by
  simp only [fiUnit, drove_may hon, hr]
  rfl

end

/-! ## Sends (R213) -/

/-- The package as the FI of the focus tile acts (R213). -/
def atFi (s : State) : State := { s with focus := { s.focus with eng := 3 } }

section
variable {s : State} (hat : atFi s = s) {run : Run} {fid fc : Nat} {src len : W64} {o : Bool}
  (hrun : s.myEng.run = some run) (hstop : s.myEng.stopped = false) (hsend : run.send = some (.fsend fid src len fc o))
include hat hrun hstop hsend

/-- A send of no whole words, or of more than 2^24 bytes, is no send. -/
theorem fiSend_illegal (hlen : len.toNat % 4 ≠ 0 ∨ len.toNat > 2 ^ 24) :
    execFiSendEntry s = .next (engineFaultAt s 0x01 src) := by
  unfold atFi at hat
  simp only [execFiSendEntry, hat, hrun, hstop, hsend, if_pos hlen]
  rfl

variable (hwords : ¬ (len.toNat % 4 ≠ 0 ∨ len.toNat > 2 ^ 24))
include hwords

theorem fiSend_empty (h0 : len.toNat = 0) : execFiSendEntry s = .next (s.sendDone fc) := by
  unfold atFi at hat
  simp only [execFiSendEntry, hat, hrun, hstop, hsend, if_neg hwords, if_pos h0]
  rfl

theorem fiSend_packet (hon : (o && !s.droveOn) = false) (h0 : len.toNat ≠ 0)
    (hp : ptrFault s.focus.tile (engineReach 3) src 0 16 = none) {w : Nat} {s' : State}
    (hr : s.ereadUnits src (256 * run.prog) ((min 256 (len.toNat - 256 * run.prog) + 15) / 16) = .ok (w, s')) :
    execFiSendEntry s = .next (
      let t := s'.inject (s'.fiPacket fid o run.prog (256 * run.prog)
        (bytesOf (min 256 (len.toNat - 256 * run.prog)) w) false false)
      if len.toNat ≤ 256 * (run.prog + 1) then t.sendDone fc else t.onRun fun x => { x with prog := x.prog + 1 }) := by
  unfold atFi at hat
  simp only [execFiSendEntry, hat, hrun, hstop, hsend, if_neg hwords, if_neg h0, hp, hon, hr]
  rfl

end

/-- Settles O38: a beat by its loads, a packet of a flow record or of a send by its op, and the router that takes it. -/
theorem copyAndInjectionRecords : Obligations.CopyAndInjectionRecords := by
  refine ⟨fun s s1 s2 s3 i r run ixs data hi h hs hstuck => ?beat, fun s r run => ?flow, fun s0 run fid fc src len o => ?send,
    fun s p => ?inject⟩
  case beat =>
    intro pts units idx ws list sources dests
    have hlist : list = beatIndices i r run := (beatIndices_eq hi run).symm
    have hdests : dests = (beatDests i r run ixs).map fun x => (x.2.1, x.2.2, 16, true) := by
      rw [beatDests_map]
      rfl
    have hws : ws = (beatDests i r run ixs).map fun x => (x.2.1, x.2.2, unitData i r data x.1) := by
      rw [beatDests_map]
      simp only [unitData_eq hi]
      rfl
    have hload := cpLoad_eq i r s run
    rw [exec_copying hi h hs, hlist, hdests, hws]
    refine ⟨fun e hstop => ?index, fun hix => ⟨fun e hstop => ?unit, fun hdata hwrites => ?done⟩⟩
    case index =>
      rw [hstop] at hload
      rw [cpBeat_stops hstuck hload]
    case unit =>
      rw [hix] at hload
      change cpFetch 16 (beatSources i r run ixs) _ s1 = _ at hstop
      simp only [hstop] at hload
      rw [cpBeat_stops hstuck hload]
    case done =>
      rw [hix] at hload
      change cpFetch 16 (beatSources i r run ixs) _ s1 = _ at hdata
      simp only [hdata] at hload
      rw [cpBeat_done hstuck hload hwrites]
  case flow =>
    intro fid o pl n on hs
    refine ⟨fun ho hoff i hi h => ?off, fun hon => ⟨fun h => ?fsig, fun h => ?fdrp, fun w s' h hr => ?fsnd⟩⟩
    case off =>
      have hexec : exec i s = .next (fiUnit i r s run) := by
        simp only [List.mem_cons, List.not_mem_nil, or_false] at hi
        rcases hi with rfl | rfl | rfl <;> exact recordOp_unit _ h hs
      rw [hexec, fiUnit_off i ho hoff]
    case fsig => exact (recordOp_unit _ h hs).trans (by rw [fiUnit_fsig hon]; rfl)
    case fdrp => exact (recordOp_unit _ h hs).trans (by rw [fiUnit_fdrp hon]; rfl)
    case fsnd => exact (recordOp_unit _ h hs).trans (by rw [fiUnit_fsnd hon hr]; rfl)
  case send =>
    intro s i n bytes hrun hstop hsend
    have hat : atFi s = s := rfl
    have hexec : exec .fiSendEntry s0 = execFiSendEntry s := rfl
    rw [hexec]
    refine ⟨fiSend_illegal hat hrun hstop hsend, fun hwords hmax hon => ?_⟩
    have hlen : ¬ (len.toNat % 4 ≠ 0 ∨ len.toNat > 2 ^ 24) := by omega
    exact ⟨fiSend_empty hat hrun hstop hsend hlen, fun w s' h0 hp hr =>
      fiSend_packet hat hrun hstop hsend hlen (drove_may hon) (by omega) hp hr⟩
  case inject =>
    intro r ch
    have hch : ch = s.arrivalChannel s.focus.tile 0 p := (arrivalChannel_inject s s.focus.tile p).symm
    rw [hch]
    exact ⟨inject_router s p, inject_me s p⟩

end Sys2Proof.Proofs
end

section
/-! SUPPORT. Releases and truncations (R210, R273, R310, R311): which requests a release waits for, the writes and the
releases of a truncation, and the append of a release, each said once. -/

namespace Sys2Proof.Proofs

open Sys2Proof.Machine Sys2Proof.Laws

/-! ## Entries of a map after one is put -/

theorem mem_put_self {α : Type} (m : SMap α) (k : Nat) (v : α) : (k, v) ∈ SMap.put m k v := by
  induction m with
  | nil => simp [SMap.put]
  | cons x m ih =>
    simp only [SMap.put]
    split_ifs
    · simp
    · simp
    · exact .tail _ ih

theorem of_mem_put {α : Type} {m : SMap α} {k : Nat} {v : α} {z : Nat × α} (h : z ∈ SMap.put m k v) : z = (k, v) ∨ z ∈ m := by
  induction m with
  | nil => exact .inl (List.mem_singleton.mp h)
  | cons x m ih =>
    simp only [SMap.put] at h
    split_ifs at h
    · exact List.mem_cons.mp h
    · exact (List.mem_cons.mp h).imp_right (.tail _)
    · rcases List.mem_cons.mp h with rfl | h
      · exact .inr (.head _)
      · exact (ih h).imp_right (.tail _)

/-- Only the entry that a look-up finds is replaced. -/
theorem mem_put_or_found {α : Type} {m : SMap α} {z : Nat × α} (h : z ∈ m) (k : Nat) (v : α) :
    z ∈ SMap.put m k v ∨ SMap.find m k = some z.2 := by
  induction m with
  | nil => cases h
  | cons x m ih =>
    simp only [SMap.put, SMap.find]
    split_ifs with hlt heq
    · exact .inl (.tail _ h)
    · exact .inl (.tail _ h)
    · rcases List.mem_cons.mp h with rfl | h
      · exact .inr rfl
      · exact .inl (.tail _ h)
    · rcases List.mem_cons.mp h with rfl | h
      · exact .inl (.head _)
      · exact (ih h).imp_left (.tail _)

theorem mem_of_found {α : Type} {m : SMap α} {k : Nat} {v : α} (h : SMap.find m k = some v) : (k, v) ∈ m := by
  induction m with
  | nil => cases h
  | cons x m ih =>
    simp only [SMap.find] at h
    split_ifs at h with heq
    · rw [heq, ← Option.some.inj h]
      exact .head _
    · exact .tail _ (ih h)

/-! ## Writes of memory (R8, R273) -/

/-- A write of memory changes memory alone. -/
theorem pwrite_frame (s : State) (tier a n v : Nat) : s.pwrite tier a n v = { s with
    mem0 := (s.pwrite tier a n v).mem0, mem1 := (s.pwrite tier a n v).mem1, mem2 := (s.pwrite tier a n v).mem2
    badMem := (s.pwrite tier a n v).badMem } := by
  match tier with
  | 0 | 1 | _ + 2 => rfl

/-- The memory of every tier is in the canonical form. -/
def tiersOk (s : State) : Prop := ∀ tier, (s.tierMem tier).wf = true

theorem tiersOk_of_memOk {s : State} (h : MemOk s) : tiersOk s
  | 0 => h.1
  | 1 => h.2.1
  | _ + 2 => h.2.2.1

theorem pwrite_tierMem (s : State) (tier a n v : Nat) :
    (s.pwrite tier a n v).tierMem tier = (s.tierMem tier).writeBytes a (bytesOf n v) := by
  match tier with
  | 0 | 1 | _ + 2 => rfl

/-- A tier is written itself, or stands as it was. -/
theorem pwrite_tierMem_cases (s : State) (tier a n v k : Nat) :
    (s.pwrite tier a n v).tierMem k = (s.tierMem k).writeBytes a (bytesOf n v) ∨
    (s.pwrite tier a n v).tierMem k = s.tierMem k := by
  match tier, k with
  | 0, 0 | 1, 1 | _ + 2, _ + 2 => exact .inl rfl
  | 0, 1 | 0, _ + 2 | 1, 0 | 1, _ + 2 | _ + 2, 0 | _ + 2, 1 => exact .inr rfl

theorem tiersOk_pwrite {s : State} (h : tiersOk s) (tier a n v : Nat) : tiersOk (s.pwrite tier a n v) := by
  intro k
  rcases pwrite_tierMem_cases s tier a n v k with hk | hk
  · rw [hk]
    exact mem_wf_writeBytes (h k) _ _
  · rw [hk]
    exact h k

/-- What is written to a tier is read back. -/
theorem pread_pwrite_tier {s : State} (h : tiersOk s) (tier a : Nat) {n v : Nat} (hv : v < 256 ^ n) :
    (s.pwrite tier a n v).pread tier a n = v := by
  have hread := readBytes_writeBytes_same (h tier) a (bytesOf n v)
  rw [bytesOf_length] at hread
  rw [State.pread, pwrite_tierMem, readN_eq, hread, natOfBytes_bytesOf, Nat.mod_eq_of_lt hv]

/-! ## What a release waits for (R210, R311) -/

/-- A release waits in some partition of the package. -/
def awaits (s : State) (y : KvRelease) : Prop := ∃ z ∈ s.parts, y ∈ z.2.releases

theorem releasesBefore_iff (s : State) (q n : Nat) :
    s.releasesBefore q n = true ↔ ∃ y, awaits s y ∧ y.owner = some q ∧ y.num < n := by
  simp only [State.releasesBefore, awaits, List.any_eq_true, Bool.and_eq_true, beq_iff_eq, decide_eq_true_eq]
  exact ⟨fun ⟨z, hz, y, hy, h⟩ => ⟨y, ⟨z, hz, hy⟩, h⟩, fun ⟨y, ⟨z, hz, hy⟩, h⟩ => ⟨z, hz, y, hy, h⟩⟩

/-- Releases that join a partition wait beside those that wait already. -/
theorem awaits_onPart {s : State} {p : Nat} {f : Partition → Partition} {l : List KvRelease}
    (h : (f (s.part p)).releases = (s.part p).releases ++ l) (y : KvRelease) :
    awaits (s.onPart p f) y ↔ awaits s y ∨ y ∈ l := by
  have hnew : (p, f (s.part p)) ∈ (s.onPart p f).parts := mem_put_self _ _ _
  constructor
  · rintro ⟨z, hz, hy⟩
    rcases of_mem_put hz with rfl | hz
    · rw [h, List.mem_append] at hy
      refine hy.imp_left fun hy => ?_
      cases hfound : SMap.find s.parts p with
      | none =>
        rw [State.part, hfound] at hy
        cases hy
      | some x =>
        rw [State.part, hfound] at hy
        exact ⟨(p, x), mem_of_found hfound, hy⟩
    · exact .inl ⟨z, hz, hy⟩
  · rintro (⟨z, hz, hy⟩ | hy)
    · rcases mem_put_or_found hz p (f (s.part p)) with hz | hfound
      · exact ⟨z, hz, hy⟩
      · refine ⟨_, hnew, ?_⟩
        rw [h, State.part, hfound]
        exact List.mem_append_left _ hy
    · exact ⟨_, hnew, by rw [h]; exact List.mem_append_right _ hy⟩

theorem mem_reqsOpen (s : State) (n k : Nat) : k ∈ s.reqsOpen n ↔ ∃ x ∈ s.tiles, x.2.frozen = false ∧ x.2.cancelled = false ∧
    (∃ q rest, x.2.reqs = q :: rest ∧
      (q.rel = none ∨ ∃ z ∈ s.parts, ∃ y ∈ z.2.releases, y.owner = some q.num ∧ y.num < n)) ∧
    ∃ q ∈ x.2.reqs, q.delay = 0 ∧ q.num = k := by
  rw [State.reqsOpen, List.mem_flatMap]
  refine exists_congr fun x => and_congr_right fun _ => ?_
  rw [State.reqsOpenAt, List.mem_map]
  cases hreqs : x.2.reqs with
  | nil => simp
  | cons q rest =>
    have hrel : s.releasesBefore q.num n = true ↔
        ∃ z ∈ s.parts, ∃ y ∈ z.2.releases, y.owner = some q.num ∧ y.num < n := by
      simp [State.releasesBefore]
    have hcond : (x.2.reqsStand && (q.rel.isNone || s.releasesBefore q.num n)) = true ↔
        (x.2.frozen = false ∧ x.2.cancelled = false) ∧ (q.rel = none ∨
          ∃ z ∈ s.parts, ∃ y ∈ z.2.releases, y.owner = some q.num ∧ y.num < n) := by
      rw [Bool.and_eq_true, Bool.or_eq_true, hrel, Option.isNone_iff_eq_none]
      simp [Tile.reqsStand]
    constructor
    · rintro ⟨r, hr, rfl⟩
      simp only [] at hr
      split_ifs at hr with hc
      · obtain ⟨⟨hfrozen, hcancelled⟩, hfirst⟩ := hcond.mp hc
        obtain ⟨hmem, hdelay⟩ := List.mem_filter.mp hr
        exact ⟨hfrozen, hcancelled, ⟨q, rest, rfl, hfirst⟩, r, hmem, beq_iff_eq.mp hdelay, rfl⟩
      · cases hr
    · rintro ⟨hfrozen, hcancelled, ⟨q', rest', heq, hfirst⟩, r, hmem, hdelay, rfl⟩
      obtain ⟨rfl, rfl⟩ := List.cons.inj heq
      refine ⟨r, ?_, rfl⟩
      simp only []
      rw [if_pos (hcond.mpr ⟨⟨hfrozen, hcancelled⟩, hfirst⟩)]
      exact List.mem_filter.mpr ⟨hmem, beq_iff_eq.mpr hdelay⟩

/-- The requests that a release waits for are the same where the tiles are, and those whose releases come before. -/
theorem reqsOpen_congr {s b : State} {n m : Nat} (ht : s.tiles = b.tiles)
    (h : ∀ x ∈ b.tiles, ∀ q rest, x.2.reqs = q :: rest → q.rel ≠ none → s.releasesBefore q.num n = b.releasesBefore q.num m) :
    s.reqsOpen n = b.reqsOpen m := by
  rw [State.reqsOpen, State.reqsOpen, ht]
  refine List.flatMap_congr fun x hx => ?_
  congr 1
  rw [State.reqsOpenAt, State.reqsOpenAt]
  cases hreqs : x.2.reqs with
  | nil => rfl
  | cons q rest =>
    rcases hrel : q.rel with _ | k
    · simp only [hrel, Option.isNone_none, Bool.true_or]
    · simp only [h x hx q rest hreqs (by rw [hrel]; nofun)]

/-! ## The writes of a truncation (R310, R311) -/

/-- An entry that a truncation has read: its page, its tier and address, and its word. -/
abbrev TruncEntry := Nat × Nat × Nat × Nat

/-- What a truncation makes of an entry that it has read: from page `first` on it is cleared and its block released, the
one kept loses its tokens from `n` on. -/
def truncWrite (first n num : Nat) (s : State) (x : TruncEntry) : State :=
  if first ≤ x.1 then
    let s := s.pwrite x.2.1 x.2.2.1 8 0
    if feTier x.2.2.2 ≠ 0 ∧ !feShared x.2.2.2 then
      s.releaseGbn s.myPart (fePkg x.2.2.2) (feGbn x.2.2.2) (some num) else s
  else
    let e := x.2.2.2
    s.pwrite x.2.1 x.2.2.1 8 (e - feVcnt e * 2 ^ 13 + min (feVcnt e) (n % 64) * 2 ^ 13)

/-- An entry whose block a truncation releases to this package. -/
def ownBlock (first pkg : Nat) (x : TruncEntry) : Bool :=
  decide (first ≤ x.1 ∧ feTier x.2.2.2 ≠ 0 ∧ feShared x.2.2.2 = false ∧ fePkg x.2.2.2 = pkg)

/-- The releases of a truncation's blocks, as they join the partition. -/
def ownReleases (b : State) (num : Nat) (own : List TruncEntry) : List KvRelease :=
  (List.zip (List.range own.length) own).map fun x =>
    ⟨b.reqNum + x.1, BitVec.ofNat 64 (feGbn x.2.2.2.2), some num, b.reqsOpen b.reqNum⟩

theorem ownReleases_concat (b : State) (num : Nat) (own : List TruncEntry) (x : TruncEntry) : ownReleases b num (own ++ [x]) =
    ownReleases b num own ++ [⟨b.reqNum + own.length, BitVec.ofNat 64 (feGbn x.2.2.2), some num, b.reqsOpen b.reqNum⟩] := by
  rw [ownReleases, List.length_append, List.length_singleton, List.range_succ, List.zip_append (List.length_range ..),
    List.map_append]
  rfl

theorem ownReleases_owner {b : State} {num : Nat} {own : List TruncEntry} {y : KvRelease} (hy : y ∈ ownReleases b num own) :
    y.owner = some num := by
  obtain ⟨x, -, rfl⟩ := List.mem_map.mp hy
  rfl

/-- A truncation of number `num` in partition `p`, which began at a state, has released the blocks of some entries. -/
structure Truncated (b : State) (p num : Nat) (own : List TruncEntry) (s : State) : Prop where
  tiles : s.tiles = b.tiles
  focus : s.focus = b.focus
  podcfg : s.podcfg = b.podcfg
  reqNum : s.reqNum = b.reqNum + own.length
  releases : (s.part p).releases = (b.part p).releases ++ ownReleases b num own
  awaited : ∀ y, awaits s y ↔ awaits b y ∨ y ∈ ownReleases b num own

theorem truncated_start (b : State) (p num : Nat) : Truncated b p num [] b :=
  ⟨rfl, rfl, rfl, rfl, (List.append_nil _).symm, fun _ => (or_iff_left List.not_mem_nil).symm⟩

section
variable {b : State} {p num : Nat} {own : List TruncEntry} {s : State} (h : Truncated b p num own s)
include h

theorem Truncated.pwrite (tier a n v : Nat) : Truncated b p num own (s.pwrite tier a n v) := by
  rw [pwrite_frame]
  exact ⟨h.tiles, h.focus, h.podcfg, h.reqNum, h.releases, h.awaited⟩

theorem Truncated.myPart : s.myPart = b.myPart := by
  rw [State.myPart, State.me, State.tile, h.focus, h.tiles]
  rfl

theorem Truncated.pkg : s.pkg = b.pkg := congrArg (fun w : W64 => bits w.toNat 47 38) h.podcfg

/-- Its releases so far are not waited for by what a release of it waits for (R311). -/
theorem Truncated.reqsOpen (hold : ∀ x ∈ b.parts, ∀ y ∈ x.2.releases, y.num < b.reqNum)
    (hmine : ∀ x ∈ b.tiles, ∀ q rest, x.2.reqs = q :: rest → q.num = num → q.rel = none) :
    s.reqsOpen s.reqNum = b.reqsOpen b.reqNum := by
  refine reqsOpen_congr h.tiles fun x hx q rest hreqs hrel => ?_
  have hother : num ≠ q.num := fun he => hrel (hmine x hx q rest hreqs he.symm)
  rw [Bool.eq_iff_iff, releasesBefore_iff, releasesBefore_iff]
  constructor
  · rintro ⟨y, hy, howner, -⟩
    rcases (h.awaited y).mp hy with hy | hy
    · obtain ⟨z, hz, hyz⟩ := hy
      exact ⟨y, ⟨z, hz, hyz⟩, howner, hold z hz y hyz⟩
    · rw [ownReleases_owner hy] at howner
      exact absurd (Option.some.inj howner) hother
  · rintro ⟨y, hy, howner, hlt⟩
    exact ⟨y, (h.awaited y).mpr (.inl hy), howner, by rw [h.reqNum]; omega⟩

/-- A block of another package is released there. -/
theorem Truncated.releaseAway {pkg : Nat} (hpkg : pkg ≠ b.pkg) (part gbn : Nat) (owner : Option Nat) :
    Truncated b p num own (s.releaseGbn part pkg gbn owner) := by
  rw [State.releaseGbn, if_neg (by rwa [h.pkg])]
  exact ⟨h.tiles, h.focus, h.podcfg, h.reqNum, h.releases, h.awaited⟩

/-- A block of this package is released behind those released so far. -/
theorem Truncated.releaseOwn (hold : ∀ x ∈ b.parts, ∀ y ∈ x.2.releases, y.num < b.reqNum)
    (hmine : ∀ x ∈ b.tiles, ∀ q rest, x.2.reqs = q :: rest → q.num = num → q.rel = none) {x : TruncEntry} :
    Truncated b p num (own ++ [x]) (s.releaseGbn p b.pkg (feGbn x.2.2.2) (some num)) := by
  have hopen := h.reqsOpen hold hmine
  rw [State.releaseGbn, if_pos h.pkg.symm, hopen, h.reqNum]
  refine ⟨h.tiles, h.focus, h.podcfg, ?_, ?_, fun y => ?_⟩
  · rw [List.length_append, ← Nat.add_assoc]
    rfl
  · rw [part_onPart, ownReleases_concat, ← List.append_assoc, ← h.releases]
    rfl
  · rw [awaits_onPart (l := [_]) rfl, ownReleases_concat, List.mem_append, ← or_assoc, ← h.awaited]
    rfl

/-- The entries of a truncation are written in order; the blocks of this package among them are released. -/
theorem Truncated.writes (hp : b.myPart = p) (hold : ∀ x ∈ b.parts, ∀ y ∈ x.2.releases, y.num < b.reqNum)
    (hmine : ∀ x ∈ b.tiles, ∀ q rest, x.2.reqs = q :: rest → q.num = num → q.rel = none) (first n : Nat)
    (l : List TruncEntry) :
    Truncated b p num (own ++ l.filter (ownBlock first b.pkg)) (l.foldl (truncWrite first n num) s) := by
  induction l generalizing own s with
  | nil => simpa using h
  | cons x l ih =>
    rw [List.foldl_cons, List.filter_cons]
    by_cases hown : ownBlock first b.pkg x = true
    · obtain ⟨hfirst, htier, hshared, hpkg⟩ := of_decide_eq_true hown
      have hw := h.pwrite x.2.1 x.2.2.1 8 0
      have hstep : truncWrite first n num s x =
          (s.pwrite x.2.1 x.2.2.1 8 0).releaseGbn p b.pkg (feGbn x.2.2.2) (some num) := by
        rw [truncWrite, if_pos hfirst, if_pos ⟨htier, by rw [hshared]; rfl⟩, hw.myPart, hp, hpkg]
      rw [if_pos hown, hstep, List.append_cons]
      exact ih (hw.releaseOwn hold hmine)
    · rw [if_neg hown]
      refine ih ?_
      rw [truncWrite]
      split_ifs with hfirst hblock
      · refine (h.pwrite x.2.1 x.2.2.1 8 0).releaseAway (fun hpkg => hown ?_) _ _ _
        obtain ⟨htier, hshared⟩ := hblock
        exact decide_eq_true ⟨hfirst, htier, by simpa using hshared, hpkg⟩
      · exact h.pwrite ..
      · exact h.pwrite ..

end

end Sys2Proof.Proofs
end

section
/-! SUPPORT. The requests of a tile as they are performed (R215, R302 to R311, R362 to R365): what stops a query, the
partials of its pages, the truncation of a table and the append of a release. -/

namespace Sys2Proof.Proofs

open Sys2Proof.Machine Sys2Proof.Laws

/-! ## The partials of a query's pages (R304, R309) -/

/-- The partials of a page as a query's result takes them; a page without any counts no rows. -/
def partialRows : Option (Except Nat (List Triple)) → List Triple
  | some (.ok l) => l
  | _ => []

theorem any_isNone_iff {α : Type} (l : List (Option α)) : l.any Option.isNone = true ↔ ∃ p ∈ l, p = none := by
  simp only [List.any_eq_true, Option.isNone_iff_eq_none]

theorem map_partialRows_some (lists : List (List Triple)) :
    (lists.map fun l => some (Except.ok l)).map partialRows = lists := by
  rw [List.map_map]
  exact List.map_id _

theorem firstStop_of_all_ok (ps : List KvPage) (lists : List (List Triple)) :
    firstStop ps (lists.map fun l => some (.ok l)) = none := by
  induction lists generalizing ps with
  | nil => cases ps <;> rfl
  | cons l ls ih =>
    cases ps with
    | nil => rfl
    | cons p ps => exact ih ps

/-- The first page that stops a query is reported. -/
theorem firstStop_of_error {ps : List KvPage} {pre : List (List Triple)} {p : KvPage} (c : Nat)
    (rest : List (Option (Except Nat (List Triple)))) (hp : ps[pre.length]? = some p) :
    firstStop ps (pre.map (fun l => some (.ok l)) ++ some (.error c) :: rest) = some (p.idx, c) := by
  induction pre generalizing ps with
  | nil =>
    obtain ⟨qs, rfl⟩ : ∃ qs, ps = p :: qs := by
      cases ps with
      | nil => cases hp
      | cons x qs => exact ⟨qs, by rw [Option.some.inj hp]⟩
    rfl
  | cons l ls ih =>
    cases ps with
    | nil => cases hp
    | cons x qs => exact ih hp

/-- A result that its writes admit lands, and the request completes (R306, R307). -/
theorem reqResult_eq_of_ewrites {s s2 : State} {q : TileReq} {bytes : List W8} (nf : Bool)
    (h : State.ewrites (unitWrites q.c 0 bytes) { s with focus := { s.focus with eng := 4 } } = .ok s2) :
    reqResult s q bytes nf = reqComplete s2 q nf := by
  simp only [reqResult, h]

section
variable {s s1 : State} {r : TileReq} {x : AqryData} (hreq : s.headReq 0 = some r) (hdata : aqryGather s r = (.ok x, s1))
include hreq hdata

/-- A query of the gathered data: it waits for an answer, is stopped, or has its result. -/
theorem exec_aqryPerform_of_data : exec .aqryPerform s = .next (
    if (x.pages.map (pagePartials s1 r x)).any Option.isNone then sendQueries s1 r x
    else match firstStop x.pages (x.pages.map (pagePartials s1 r x)) with
      | some (p, c) => reqFault (s1.dropQueries r.num) r c (BitVec.ofNat 64 (r.b.toNat + 64 + 8 * p)) p
      | none => aqryResult (s1.dropQueries r.num) r x ((x.pages.map (pagePartials s1 r x)).map partialRows)) := by
  have hexec : exec .aqryPerform s = execAqryPerform s := rfl
  rw [hexec]
  unfold execAqryPerform
  simp only [hreq, hdata]
  rfl

theorem aqryPerform_awaits (h : ∃ p ∈ x.pages.map (pagePartials s1 r x), p = none) :
    exec .aqryPerform s = .next (sendQueries s1 r x) := by
  rw [exec_aqryPerform_of_data hreq hdata, if_pos ((any_isNone_iff _).mpr h)]

theorem aqryPerform_result {lists : List (List Triple)}
    (h : x.pages.map (pagePartials s1 r x) = lists.map fun l => some (.ok l)) :
    exec .aqryPerform s = .next (aqryResult (s1.dropQueries r.num) r x lists) := by
  have hall : ¬ (lists.map fun l => some (Except.ok (ε := Nat) l)).any Option.isNone = true := by
    rw [any_isNone_iff]
    simp
  rw [exec_aqryPerform_of_data hreq hdata, h, if_neg hall, firstStop_of_all_ok, map_partialRows_some]

theorem aqryPerform_stops {pre : List (List Triple)} {c : Nat} {rest : List (Option (Except Nat (List Triple)))}
    (h : x.pages.map (pagePartials s1 r x) = pre.map (fun l => some (.ok l)) ++ some (.error c) :: rest)
    (hall : ∀ p ∈ x.pages.map (pagePartials s1 r x), p ≠ none) {p : KvPage} (hp : x.pages[pre.length]? = some p) :
    exec .aqryPerform s = .next (reqFault (s1.dropQueries r.num) r c (BitVec.ofNat 64 (r.b.toNat + 64 + 8 * p.idx)) p.idx) := by
  have hnone : ¬ (x.pages.map (pagePartials s1 r x)).any Option.isNone = true := by
    rw [any_isNone_iff]
    exact fun ⟨p, hp, he⟩ => hall p hp he
  rw [exec_aqryPerform_of_data hreq hdata, if_neg hnone, h, firstStop_of_error c rest hp]

end

/-! ## Top-k (R215, R362 to R365) -/

theorem topkPerform_result {s s1 : State} {q : TileReq} {o : TopkOps} {rows : List (List W32)}
    (hreq : s.headReq 1 = some q) (hops : topkOps q.b = some o) (hrows : logitRows o q.a.toNat s = (.ok rows, s1)) :
    exec .topkPerform s = .next (reqResult s1 q ((rows.map (tokenResult q.k)).flatMap (·.1))
      ((rows.map (tokenResult q.k)).any (·.2))) := by
  have hexec : exec .topkPerform s = execTopkPerform s := rfl
  rw [hexec]
  unfold execTopkPerform
  simp only [hreq, hops, hrows]

/-! ## Truncations (R310, R311) -/

theorem tiersOk_releaseGbn {s : State} (h : tiersOk s) (part pkg gbn : Nat) (owner : Option Nat) :
    tiersOk (s.releaseGbn part pkg gbn owner) := by
  rw [State.releaseGbn]
  split_ifs
  · exact h
  · exact h

theorem tiersOk_truncWrite {s : State} (h : tiersOk s) (first n num : Nat) (x : TruncEntry) :
    tiersOk (truncWrite first n num s x) := by
  rw [truncWrite]
  split_ifs
  · exact tiersOk_releaseGbn (tiersOk_pwrite h _ _ _ _) _ _ _ _
  · exact tiersOk_pwrite h _ _ _ _
  · exact tiersOk_pwrite h _ _ _ _

theorem tiersOk_truncWrites {s : State} (h : tiersOk s) (first n num : Nat) (l : List TruncEntry) :
    tiersOk (l.foldl (truncWrite first n num) s) := by
  induction l generalizing s with
  | nil => exact h
  | cons x l ih => exact ih (tiersOk_truncWrite h _ _ _ _)

/-- A header's capacity and length are of 32 bits (R297). -/
theorem kvHeader_bounds {w : Nat} {h : KvHeader} (hw : kvHeader w = some h) : h.cap < 2 ^ 32 ∧ h.len < 2 ^ 32 := by
  simp only [kvHeader] at hw
  split_ifs at hw
  rw [← Option.some.inj hw]
  exact ⟨Nat.mod_lt _ (by decide), Nat.mod_lt _ (by decide)⟩

theorem ownReleases_length (b : State) (num : Nat) (own : List TruncEntry) : (ownReleases b num own).length = own.length := by
  simp [ownReleases]

/-- Of a partition's releases, those of a truncation are the ones that it has appended. -/
theorem Truncated.count {b s : State} {p num : Nat} {own : List TruncEntry} (h : Truncated b p num own s)
    (hold : ∀ y ∈ (b.part p).releases, y.owner ≠ some num) :
    ((s.part p).releases.filter fun y => y.owner == some num).length = own.length := by
  have hbefore : (b.part p).releases.filter (fun y => y.owner == some num) = [] :=
    List.filter_eq_nil_iff.mpr fun y hy he => hold y hy (beq_iff_eq.mp he)
  have hafter : (ownReleases b num own).filter (fun y => y.owner == some num) = ownReleases b num own :=
    List.filter_eq_self.mpr fun y hy => beq_iff_eq.mpr (ownReleases_owner hy)
  rw [h.releases, List.filter_append, hbefore, hafter, List.nil_append, ownReleases_length]

/-- What becomes of a truncation once its entries are written: it completes, or waits for its own releases. -/
def truncAnswer (u : State) (r : TileReq) (own : Nat) : State :=
  if own = 0 then reqComplete u r false
  else u.onMe fun t => { t with reqs := match t.reqs with
    | q :: rest => { q with rel := some own } :: rest
    | [] => [] }

/-- The state of a truncation with all its writes. -/
def truncated (first n : Nat) (r : TileReq) (h : KvHeader) (l : List TruncEntry) (t a : Nat) (s : State) : State :=
  (l.foldl (truncWrite first n r.num) s).pwrite t a 8 (h.cap * 2 ^ 32 + n)

section
variable {s s1 : State} {r : TileReq} {hw : Nat} {h : KvHeader} (hreq : s.headReq 2 = some r)
  (hread : reqRead s r.a.toNat 64 0 = (.ok hw, s1)) (hheader : kvHeader hw = some h)
include hreq hread hheader

theorem kvtruncPerform_short (hlen : h.len ≤ r.b.toNat) : exec .kvtruncPerform s = .next (reqComplete s1 r false) := by
  have hexec : exec .kvtruncPerform s = execKvtruncPerform s := rfl
  rw [hexec]
  unfold execKvtruncPerform
  simp only [hreq, hread, hheader]
  rw [if_pos hlen]

theorem kvtruncPerform_cut (hlen : r.b.toNat < h.len) {l : List TruncEntry} {s2 s3 : State} {t a first n : Nat}
    (hn : r.b.toNat = n) (hfirst : (n + 63) / 64 = first)
    (hentries : truncEntries r.a.toNat first ((List.range ((h.len + 63) / 64 - first)).map (first + ·) ++
      if n % 64 ≠ 0 then [n / 64] else []) s1 = (.ok l, s2))
    (hplace : reqPlace s2 r.a.toNat 64 true true 0 = (.ok (t, a), s3)) :
    exec .kvtruncPerform s = .next (truncAnswer (truncated first n r h l t a s3) r
      (((truncated first n r h l t a s3).part (truncated first n r h l t a s3).myPart).releases.filter
        fun y => y.owner == some r.num).length) := by
  subst hn hfirst
  have hexec : exec .kvtruncPerform s = execKvtruncPerform s := rfl
  rw [hexec]
  unfold execKvtruncPerform
  simp only [hreq, hread, hheader]
  rw [if_neg (by omega)]
  simp only [hentries, hplace]
  rfl

end

theorem ite_eq_nil {α β : Type} (l : List α) (x y : β) : (if l.length = 0 then x else y) = if l = [] then x else y :=
  if_congr List.length_eq_zero_iff rfl rfl

/-! ## The append of a release (R311) -/

theorem kvReleaseAppend_waits {s : State} {y : KvRelease} {rest : List KvRelease}
    (hy : (s.part s.focus.part).releases = y :: rest) (hopen : ∃ k ∈ y.after, k ∈ s.reqsOpen y.num) :
    exec .kvReleaseAppend s = .next s := by
  have hexec : exec .kvReleaseAppend s = execKvReleaseAppend s := rfl
  rw [hexec]
  unfold execKvReleaseAppend
  simp only [hy]
  rw [if_pos (by simpa using hopen)]

section
variable {s : State} {p : Nat} {x : Partition} {y : KvRelease} {rest : List KvRelease} (hp : s.focus.part = p)
  (hx : s.part p = x) (hy : x.releases = y :: rest) (hopen : ∀ k ∈ y.after, k ∉ s.reqsOpen y.num)
include hp hx hy hopen

/-- A release that waits for no request is appended, or dropped where the ring has no room. -/
theorem kvReleaseAppend_goes {free w head tail size : Nat} (hfree : x.kvfree.toNat = free) (hw : x.kvfptr.toNat = w)
    (hhead : w / 2 ^ 24 % 2 ^ 24 = head) (htail : w % 2 ^ 24 = tail) (hsize : 2 ^ (free / 2 ^ 57 % 2 ^ 6) = size) :
    exec .kvReleaseAppend s = .next (
      if free.testBit 63 = false ∨ (tail + 2 ^ 24 - head) % 2 ^ 24 = size then
        (((s.setPart p { x with releases := rest }).onPart p fun x =>
          { x with kvfptr := BitVec.ofNat 64 (min 0xFFFF (w / 2 ^ 48 + 1) * 2 ^ 48 + head * 2 ^ 24 + tail) }).partEvent 0
            (packageEvent p 6 0 y.gbn)).releaseDone y.owner
      else
        (((s.setPart p { x with releases := rest }).pwrite 0 (free / 2 ^ 12 % 2 ^ 40 * 4096 + 4 * (tail % size)) 4
          y.gbn.toNat).onPart p fun x =>
          { x with kvfptr := BitVec.ofNat 64 (w / 2 ^ 48 * 2 ^ 48 + head * 2 ^ 24 + (tail + 1) % 2 ^ 24) }).releaseDone
            y.owner) := by
  have hdrops : bits w 63 48 = w / 2 ^ 48 := Nat.mod_eq_of_lt (by omega)
  have hlow : bits w 23 0 = w % 2 ^ 24 := by simp [bits]
  have hbit : (!bitAt free 63) = true ↔ free.testBit 63 = false := by
    rw [bitAt_testBit, Bool.not_eq_true']
  subst hp hx hfree hw hhead htail hsize
  have hexec : exec .kvReleaseAppend s = execKvReleaseAppend s := rfl
  rw [hexec]
  unfold execKvReleaseAppend
  simp only [hy]
  rw [if_neg (by simpa using hopen)]
  simp only [hbit, hdrops, hlow]
  rfl

end

/-! ## The end of a truncation (R310, R348) -/

theorem releaseDone_of_find {s : State} {num tid k : Nat} {t : Tile} {q : TileReq} {rest : List TileReq}
    (hfind : s.tiles.find? (fun x => x.2.reqsStand && x.2.reqs.any fun q => q.num == num && q.rel.isSome) = some (tid, t))
    (hreqs : t.reqs = q :: rest) (hrel : q.rel = some k) : s.releaseDone (some num) = s.onTile tid fun t =>
      if k ≤ 1 then t.reqDone.setFc q.fc (t.fcReg q.fc + 1)
      else { t with reqs := { q with rel := some (k - 1) } :: rest } := by
  have hbind : ((some num).bind fun n => s.tiles.find? fun x =>
      x.2.reqsStand && x.2.reqs.any fun q => q.num == n && q.rel.isSome) = some (tid, t) := hfind
  rw [State.releaseDone, hbind]
  simp only [hreqs, hrel, Option.getD_some]
  split_ifs <;> rfl

/-- Settles O33: each kind of request has its equation once what it reads is known; for a truncation, the state after
every write keeps the record of the blocks released so far (`Truncated`). -/
theorem requestsArePerformed : Obligations.RequestsArePerformed := by
  unfold Obligations.RequestsArePerformed
  refine ⟨fun s q nf => rfl, ?query, ?topk, ?trunc, mem_reqsOpen, ?append, fun s => rfl,
    fun s num tid k t q rest => releaseDone_of_find⟩
  case query =>
    intro s s1 r x hreq hdata
    refine ⟨aqryPerform_awaits hreq hdata, fun lists s2 hparts hwrites => ?_,
      fun pre c rest hparts hall p hp => aqryPerform_stops hreq hdata hparts hall hp⟩
    rw [aqryPerform_result hreq hdata hparts]
    exact congrArg Host.Outcome.next (reqResult_eq_of_ewrites _ hwrites)
  case topk =>
    intro s s1 s2 q o rows hreq hops hrows results hwrites
    rw [topkPerform_result hreq hops hrows]
    exact congrArg Host.Outcome.next (reqResult_eq_of_ewrites _ hwrites)
  case trunc =>
    intro s s1 r hw h hreq hread hheader
    refine ⟨kvtruncPerform_short hreq hread hheader, ?_⟩
    intro hlen n first cut p l s2 s3 t a hentries hplace hpart hold hnums hmine
    obtain ⟨hcap, hlen32⟩ := kvHeader_bounds hheader
    have hcut := kvtruncPerform_cut hreq hread hheader hlen rfl rfl hentries hplace
    have hdone : Truncated s3 p r.num (l.filter (ownBlock first s3.pkg)) (truncated first n r h l t a s3) :=
      ((truncated_start s3 p r.num).writes hpart hnums hmine first n l).pwrite t a 8 _
    refine ⟨truncated first n r h l t a s3, ?_, hdone.tiles, fun hmem => ?_, hdone.reqNum,
      hdone.releases⟩
    · rw [hcut, hdone.myPart.trans hpart, hdone.count hold, truncAnswer, ite_eq_nil]
      rfl
    · have hok : tiersOk (l.foldl (truncWrite first n r.num) s3) := tiersOk_truncWrites (tiersOk_of_memOk hmem) _ _ _ _
      exact pread_pwrite_tier hok _ _ (by omega)
  case append =>
    intro s y rest p x free w head tail size hy
    refine ⟨kvReleaseAppend_waits hy, fun hopen => ?_⟩
    have hgoes := kvReleaseAppend_goes rfl rfl hy hopen rfl rfl rfl rfl rfl
    refine ⟨fun hfree hroom => ?_, fun hfull => hgoes.trans (congrArg Host.Outcome.next (if_pos hfull))⟩
    refine hgoes.trans (congrArg Host.Outcome.next (if_neg ?_))
    rintro (hnot | hfull)
    · rw [hfree] at hnot
      cases hnot
    · exact hroom hfull

end Sys2Proof.Proofs
end

section
/-! SUPPORT. The steps of the MX (R219 to R222, R227): a step that begins, one that ends, a missed stamp, and a record
that a sibling takes. -/

namespace Sys2Proof.Proofs

open Sys2Proof.Machine Sys2Proof.Laws

/-- The state as the events of the MX see it. -/
def atMx (s : State) : State := { s with focus := { s.focus with eng := 0 } }

/-- The record at the head of the MX, without a peer, uses its own tile. -/
theorem mxOwner_own {s : State} {run : Run} (hrun : s.myEng.run = some run) (hpeer : run.peer = none) :
    s.mxOwner = s.focus.tile := by
  simp only [State.mxOwner, hrun, Option.bind_some, hpeer, Option.getD_none]

/-! ## A step that begins -/

/-- A count word is read for an mmai that has none yet, and for no other record. -/
theorem mmaiCount_goes {s : State} {own : Nat} {i : Instr} {run : Run}
    (h : ∀ r, i = .mmai r → run.m.isSome = true ∨ run.prog ≠ 0) : mmaiCount s own i run = (s, true) := by
  unfold mmaiCount
  split
  next r => rw [if_pos (h r rfl)]
  next => rfl

/-- The outcome of a step stands at its record, for the length of the step. -/
def withOut (s : State) (own : Nat) (i : Instr) (o : StepOut) : State :=
  s.onRun fun x => { x with
    out := some o, rem := stepLen i - 1, late := false
    due := if x.stamp = 0#40 then x.due else s.tcc own + BitVec.ofNat 64 (stepLen i) }

theorem mxBegin_goes {s s' : State} {own : Nat} {i : Instr} {run : Run} {o : StepOut}
    (htags : ∀ n ∈ readRings i, SMap.get 0#16 ((s.tile own).ring n).tags ((s.tile own).ring n).head = ((s.tile own).ring n).etag)
    (hperm : slotsPerm (s.tile own) i = false) (hbad : slotsBad (s.tile own) i run.m = false)
    (hcompute : mxCompute s own i run = .ok (o, s')) : mxBegin s own i run =
      withOut (s'.onTile own fun t => (readSlots t i).foldl (fun t x => t.slotOffend own false x.1 x.2) t) own i o := by
  have hfind : ((readRings i).find? fun n =>
      SMap.get 0#16 ((s.tile own).ring n).tags ((s.tile own).ring n).head != ((s.tile own).ring n).etag) = none :=
    List.find?_eq_none.mpr fun n hn => by rw [htags n hn]; simp
  have hfault : beginFault s own i run.m (.ok (o, s')) = none := by
    simp only [beginFault, hperm, hbad, Bool.false_eq_true, if_false]
  simp only [mxBegin, hfind, hcompute, hfault]
  rfl

theorem mxStepDue_goes {s : State} {i : Instr} {run : Run} (hstamp : run.stamp = 0#40)
    (hcan : s.mxCanBegin s.focus.tile i run = true) : mxStepDue s s.focus.tile i run =
    if idleRun i run then s.takeIdle i run.trips else mxBegin s s.focus.tile i run := by
  have htimed : ¬ (run.stamp ≠ 0#40 ∧ (s.tile s.focus.tile).clockRuns = true) := fun h => h.1 hstamp
  have hlate : ¬ ((run.stamp ≠ 0#40 ∧ (s.tile s.focus.tile).clockRuns = true) ∧ run.due ≠ s.tcc s.focus.tile) :=
    fun h => htimed h.1
  simp only [mxStepDue, if_pos hcan, if_neg hlate]

/-- The fields of a stop record that stay zero add nothing, whatever their places. -/
theorem add_zero_mul (x y a b c d : Nat) : x + y + 0 * a + 0 * b + 0 * c + 0 * d = x + y := by
  simp only [Nat.zero_mul, Nat.add_zero]

theorem mxAux_plain (run : Run) (due : W64) :
    mxAux run 0 0 0 0 due = BitVec.ofNat 320 (run.stamp.toNat * 2 ^ 128 + due.toNat * 2 ^ 168) :=
  congrArg (BitVec.ofNat 320) (add_zero_mul ..)

section
variable {s : State} (hat : atMx s = s) {i : Instr} {run : Run} (hhead : s.AtHead i run) (hpeer : run.peer = none)
include hat hhead hpeer

theorem execMxStepBegin_goes (hstamp : run.stamp = 0#40) (hcan : s.mxCanBegin s.focus.tile i run = true)
    (hcount : ∀ r, i = .mmai r → run.m.isSome = true ∨ run.prog ≠ 0) : execMxStepBegin s =
    .next (if idleRun i run then s.takeIdle i run.trips else mxBegin s s.focus.tile i run) := by
  obtain ⟨hrun, hstop, hinstr⟩ := hhead
  have hcan' := hcan
  simp only [State.mxCanBegin, Bool.and_eq_true, Bool.not_eq_true'] at hcan'
  obtain ⟨⟨⟨⟨⟨⟨⟨⟨hstarted, hout⟩, hdone⟩, -⟩, -⟩, hgoes⟩, -⟩, -⟩, -⟩ := hcan'
  have hgo : ¬ ((!run.started) = true ∨ run.done = true ∨ run.out.isSome = true ∨ s.myEng.stopped = true ∨
      (!s.mxGoes s.focus.tile run) = true ∨ (run.peer.isSome = true ∧ 1 < run.phase)) := by
    rw [hstarted, hdone, hstop, hgoes, hpeer, Option.isNone_iff_eq_none.mp hout]
    simp
  have hword : (if (run.peer.isSome = true ∧ run.phase = 0) ∨ idleRun i run = true then (s, true)
      else mmaiCount s s.focus.tile i run) = (s, true) := by
    rw [mmaiCount_goes hcount, ite_self]
  have hearly : ¬ ((run.stamp ≠ 0#40 ∧ (s.tile s.focus.tile).clockRuns = true) ∧ (!run.late) = true ∧
      (run.due - s.tcc s.focus.tile).slt 0#64 = false ∧ run.due ≠ s.tcc s.focus.tile) := fun h => h.1.1 hstamp
  have hmiss : ¬ ((run.stamp ≠ 0#40 ∧ (s.tile s.focus.tile).clockRuns = true) ∧ (run.late = true ∨
      run.due ≠ s.tcc s.focus.tile) ∧ strictRun (s.tile s.focus.tile) run = true) := fun h => h.1.1 hstamp
  have howner := mxOwner_own hrun hpeer
  rw [← mxStepDue_goes hstamp hcan]
  unfold atMx at hat
  unfold execMxStepBegin
  simp only [hat, hrun, hinstr, howner]
  rw [if_neg hgo]
  simp only [hword, hrun]
  simp only [if_neg hearly, if_neg hmiss]
  rfl

/-! ## A missed stamp -/

theorem execSchedMiss_faults (hstarted : run.started = true) (hstamp : run.stamp ≠ 0#40) (hout : run.out = none)
    (hdone : run.done = false) (hclock : s.me.clockRuns = true) (hstrict : strictRun s.me run = true)
    (hmiss : run.late = true ∨ (run.due = s.tcc s.focus.tile ∧ s.mxCanBegin s.focus.tile i run = false) ∨
      (run.due ≠ s.tcc s.focus.tile ∧ (s.tcc s.focus.tile - run.due).toNat < 2 ^ 63)) : execSchedMiss s =
    .next (engineFault s 0x09 (BitVec.ofNat 320 (run.stamp.toNat * 2 ^ 128 + run.due.toNat * 2 ^ 168))) := by
  obtain ⟨hrun, hstop, hinstr⟩ := hhead
  have hgo : run.started = true ∧ run.stamp ≠ 0#40 ∧ run.out.isNone = true ∧ (!run.done) = true ∧ (!s.myEng.stopped) = true ∧
      (s.tile s.focus.tile).clockRuns = true ∧ strictRun (s.tile s.focus.tile) run = true ∧
      (run.peer.isNone = true ∨ run.phase ≤ 1) ∧
      (run.late = true ∨ (s.tcc s.focus.tile - run.due).toNat < 2 ^ 63 ∧
        (s.tcc s.focus.tile ≠ run.due ∨ (!s.mxCanBegin s.focus.tile i run) = true)) := by
    refine ⟨hstarted, hstamp, by rw [hout]; rfl, by rw [hdone]; rfl, by rw [hstop]; rfl, hclock, hstrict,
      .inl (by rw [hpeer]; rfl), hmiss.imp_right ?_⟩
    rintro (⟨hdue, hcannot⟩ | ⟨hdue, hpast⟩)
    · exact ⟨by rw [hdue]; simp, .inr (by rw [hcannot]; rfl)⟩
    · exact ⟨hpast, .inl fun he => hdue he.symm⟩
  have haux := mxAux_plain run run.due
  have hfault : mxFault s run cMISS (mxAux run 0 0 0 0 run.due) =
      engineFault s 0x09 (BitVec.ofNat 320 (run.stamp.toNat * 2 ^ 128 + run.due.toNat * 2 ^ 168)) := by
    simp only [mxFault, hpeer, haux]
    rfl
  have howner := mxOwner_own hrun hpeer
  unfold atMx at hat
  rw [← hfault]
  unfold execSchedMiss
  simp only [hat, hrun, hinstr, howner]
  rw [if_pos hgo]

end

/-! ## A step that ends -/

theorem execMxStepEnd_writes {s s' : State} (hat : atMx s = s) {i : Instr} {run : Run} (hrun : s.myEng.run = some run)
    (hinstr : run.instr = some i) (hpeer : run.peer = none) {o : StepOut} (hout : run.out = some o) (hrem : run.rem = 0)
    (hruns : s.latencyRuns s.focus.tile = true) (htile : tileFault s.me o = none) (hwrites : State.ewrites o.mem s = .ok s') :
    execMxStepEnd s = .next ((s'.onMe fun t => (t.stepAcc o).applyRings s'.dcc s'.focus.tile o).onEng fun e =>
      if run.prog + 1 = stepCount i run.trips then { e.retire with ended := true }
      else { e with ended := true, run := e.run.map fun x => { x with out := none, prog := x.prog + 1 } }) := by
  have hgo : ¬ (run.rem ≠ 0 ∨ (!s.latencyRuns s.focus.tile) = true) := by
    rw [hrem, hruns]
    simp
  have hend : mxEndOwn s i run o = (s'.onMe fun t => (t.stepAcc o).applyRings s'.dcc s'.focus.tile o).onEng fun e =>
      if run.prog + 1 = stepCount i run.trips then { e.retire with ended := true }
      else { e with ended := true, run := e.run.map fun x => { x with out := none, prog := x.prog + 1 } } := by
    simp only [mxEndOwn, htile, hwrites]
    split_ifs <;> rfl
  have howner := mxOwner_own hrun hpeer
  unfold atMx at hat
  rw [← hend]
  unfold execMxStepEnd
  simp only [hat, hrun, hinstr, howner]
  rw [if_neg hgo]
  simp only [hout, hpeer]

/-! ## A record that a sibling takes (R227) -/

/-- The owner of a relocated record with it away, and the sibling with it at the head of its MX. -/
theorem onTile_onMe_away {s : State} {own : Nat} (h : own ≠ s.focus.tile) (f g : Tile → Tile) :
    (s.onTile own f).onMe g = (s.setTile own (f (s.tile own))).setTile s.focus.tile (g s.me) := by
  rw [State.onTile, State.onMe, State.onTile]
  congr 2
  exact tile_setTile_ne s _ h.symm

section
variable {s : State} {own sib : Nat} (hown : s.focus.idx = own) (hsib : s.focus.tile = sib) (hne : own ≠ sib)
  (hcluster : clusterOf own = clusterOf sib)
  (hlaunch : ∃ x y, (s.tile own).res = some x ∧ s.me.res = some y ∧ x.part = y.part ∧ x.lid = y.lid ∧ x.rl = true ∧ y.rl = true)
include hown hsib hne hcluster hlaunch

variable (hrun : s.me.mx.run = none) (hchain : s.me.mx.chain = none) (hpq : s.me.mx.pq = []) (haway : s.me.mx.away = none)
  (hstop : s.me.mx.stopped = false) {head : Run} (hhead : (s.tile own).mx.run = some head) (hpeer : head.peer = none)
  (hownaway : (s.tile own).mx.away = none) (hownstop : (s.tile own).mx.stopped = false)
  (hownclock : (s.tile own).clockRuns = true) (hclock : s.me.clockRuns = true)
include hrun hchain hpq haway hstop hhead hpeer hownaway hownstop hownclock hclock

theorem execMxRelocate_moves {i cur : Instr} {r : Rec} {p : Run} {q : Posted} {addr : W64} {e : Engine} {w : Nat} {s' : State}
    (hnext : nextRecord (s.tile own).mx = some (addr, q, e)) (hcur : head.instr = some cur)
    (hread : State.eread { s with focus := { s.focus with tile := own, eng := 0 } } addr 0 64 = .ok (w, s'))
    (hdecode : decodeRecord w = some i) (hfields : recFields i = some r) (hrl : r.rl = true) (hwf : i.wellFormed = true)
    (heng : recEngine i = some 0) (hshare : shareUnits i cur = false)
    (hresolve : execMxRelocate.exec1 (({ s with focus := { s.focus with tile := own, eng := 0 } } : State).onMe fun t =>
      { t with mx := { t.mx with run := some (Run.fresh (some i) none addr true q.rm q.seed) } }) i r = some p) :
    let view := some (accSnapshot (s.tile own) (namedUnits i).1)
    exec .mxRelocate s = .next ((s.setTile own { (if p.slipped then (s.tile own).slipOnce else s.tile own) with mx := { e with
        away := some { p with peer := some sib, phase := 0, rem := 64, view := view } } }).setTile sib
      { s.me with mx := { s.me.mx with run := some { p with peer := some own, phase := 0, rem := 64, view := view } } }) := by
  intro view
  obtain ⟨x, y, hx, hy, hpart, hlid, hxrl, hyrl⟩ := hlaunch
  have hbusy : (((s.tile own).mx.run.bind (·.peer)).isSome) = false := by rw [hhead, Option.bind_some, hpeer]; rfl
  have hrecord : ((s.tile own).mx.run.bind (·.instr)) = some cur := by rw [hhead, Option.bind_some, hcur]
  have hok : ¬ (!r.rl || !i.wellFormed || recEngine i != some 0 || shareUnits i cur) = true := by
    simp [hrl, hwf, heng, hshare]
  have hexec : exec .mxRelocate s = execMxRelocate s := rfl
  subst hown hsib
  rw [hexec]
  unfold execMxRelocate
  refine congrArg Host.Outcome.next ((if_neg ?may).trans ?moved)
  case may =>
    simp [hx, hy, hpart, hlid, hxrl, hyrl, hne, hcluster, hrun, hchain, hpq, haway, hstop, hbusy, hownaway, hownstop, hownclock,
      hclock]
  case moved =>
    simp only [hnext, hrecord, hread, hdecode, hfields, if_neg hok, hresolve, onTile_onMe_away hne]
    rfl

end

end Sys2Proof.Proofs
end

section
/-! SUPPORT. The element of an MMA step (R65): products and sums of exact values, and what becomes of NaNs, of
infinities and of zeros. -/

namespace Sys2Proof.Proofs

open Sys2Proof.Machine Sys2Proof.Laws

/-! ## Products -/

theorem mulNum_exact {y z : Machine.Num} (hy : exactNum y) (hz : exactNum z) :
    exactNum (mulNum y z).1 ∧ numVal (mulNum y z).1 = numVal y * numVal z := by
  obtain ⟨n, m, e, rfl⟩ := hy
  obtain ⟨n', m', e', rfl⟩ := hz
  refine ⟨⟨n != n', m * m', e + e', rfl⟩, ?_⟩
  have hexp : (2 : ℚ) ^ (e + e') = 2 ^ e * 2 ^ e' := zpow_add₀ two_ne_zero e e'
  simp only [mulNum, numVal, hexp, Nat.cast_mul]
  cases n <;> cases n' <;> simp <;> ring

theorem mulNum_inf_zero (n : Bool) {z : Machine.Num} (hz : z.isZero = true) :
    mulNum (.inf n) z = (.nan, fIV) ∧ mulNum z (.inf n) = (.nan, fIV) := by
  unfold Num.isZero at hz
  split at hz
  next => exact ⟨rfl, rfl⟩
  next => cases hz

theorem numVal_ofInt (i b : Int) : numVal (.ofInt i b) = i * 2 ^ b := by
  simp only [Num.ofInt, numVal, decide_eq_true_eq, Nat.cast_natAbs]
  split_ifs with h
  · rw [abs_of_neg h, Int.cast_neg, neg_neg]
  · rw [abs_of_nonneg (not_lt.mp h)]

/-! ## The exact sum -/

/-- No non-zero term has an exponent below `b`. -/
def NoTermBelow (b : Int) (l : List Machine.Num) : Prop := ∀ n m e st, Num.fin n m e st ∈ l → m ≠ 0 → b ≤ e

theorem minExp_none {l : List Machine.Num} (h : minExp l = none) {n : Bool} {m : Nat} {e : Int} {st : Bool}
    (hx : Num.fin n m e st ∈ l) : m = 0 := by
  induction l with
  | nil => cases hx
  | cons y l ih =>
    cases y with
    | nan => exact ih h ((List.mem_cons.mp hx).resolve_left nofun)
    | inf => exact ih h ((List.mem_cons.mp hx).resolve_left nofun)
    | fin n' m' e' st' =>
      simp only [minExp] at h
      split_ifs at h with hm
      · rcases List.mem_cons.mp hx with he | hx
        · cases he
          exact hm
        · exact ih h hx
      · split at h <;> cases h

theorem minExp_of_zeros {l : List Machine.Num} (h : ∀ p ∈ l, p.isZero = true) : minExp l = none := by
  induction l with
  | nil => rfl
  | cons y l ih =>
    have hy := h y List.mem_cons_self
    unfold Num.isZero at hy
    split at hy
    next => exact ih fun p hp => h p (.tail _ hp)
    next => cases hy

theorem minExp_le {l : List Machine.Num} {b : Int} (h : minExp l = some b) : NoTermBelow b l := by
  intro n m e st hx hm
  induction l generalizing b with
  | nil => cases hx
  | cons y l ih =>
    cases y with
    | nan => exact ih h ((List.mem_cons.mp hx).resolve_left nofun)
    | inf => exact ih h ((List.mem_cons.mp hx).resolve_left nofun)
    | fin n' m' e' st' =>
      simp only [minExp] at h
      split_ifs at h with hm'
      · rcases List.mem_cons.mp hx with he | hx
        · cases he
          exact absurd hm' hm
        · exact ih h hx
      · rcases List.mem_cons.mp hx with he | hx
        · cases he
          split at h <;> cases h
          · exact le_refl _
          · exact min_le_left _ _
        · split at h
          next hnone => exact absurd (minExp_none hnone hx) hm
          next b' hsome =>
            cases h
            exact (min_le_right _ _).trans (ih hsome hx)

theorem numVal_eq_termAt {b : Int} {n : Bool} {m : Nat} {e : Int} {st : Bool} (h : m ≠ 0 → b ≤ e) :
    numVal (.fin n m e st) = termAt b (.fin n m e st) * 2 ^ b := by
  rcases eq_or_ne m 0 with rfl | hm
  · cases n <;> simp [numVal, termAt]
  · have hshift := shiftLeft_val m (h hm)
    cases n
    · simp only [numVal, termAt, Bool.false_eq_true, if_false, ← hshift, Int.cast_natCast]
    · simp only [numVal, termAt, if_true, neg_mul, ← hshift, Int.cast_neg, Int.cast_natCast]

/-- The exact sum of finite terms is that of their integers at a common exponent. -/
theorem sum_numVal {b : Int} {l : List Machine.Num} (hexact : ∀ x ∈ l, exactNum x) (h : NoTermBelow b l) :
    (l.map numVal).sum = (l.foldl (fun acc t => acc + termAt b t) 0 : Int) * 2 ^ b := by
  have hfold : l.foldl (fun acc t => acc + termAt b t) 0 = (l.map (termAt b)).sum := by
    rw [List.sum_eq_foldl, List.foldl_map]
  rw [hfold]
  clear hfold
  induction l with
  | nil => simp
  | cons x l ih =>
    obtain ⟨n, m, e, rfl⟩ := hexact _ List.mem_cons_self
    have htail := ih (fun x hx => hexact x (.tail _ hx)) fun n m e st hx => h n m e st (.tail _ hx)
    rw [List.map_cons, List.sum_cons, htail, numVal_eq_termAt (h n m e false List.mem_cons_self), List.map_cons,
      List.sum_cons, Int.cast_add, add_mul]

theorem any_isNan_iff (l : List Machine.Num) : l.any Num.isNan = true ↔ Num.nan ∈ l := by
  rw [List.any_eq_true]
  constructor
  · rintro ⟨x, hx, hnan⟩
    cases x with
    | nan => exact hx
    | inf n => cases hnan
    | fin n m e st => cases hnan
  · exact fun h => ⟨_, h, rfl⟩

theorem any_inf_iff (l : List Machine.Num) (n : Bool) : (l.any fun t => t == .inf n) = true ↔ Num.inf n ∈ l := by
  simp only [List.any_eq_true, beq_iff_eq, exists_eq_right]

theorem exact_ne_nan {l : List Machine.Num} (h : ∀ x ∈ l, exactNum x) : Num.nan ∉ l := by
  intro hx
  obtain ⟨n, m, e, he⟩ := h _ hx
  cases he

theorem exact_ne_inf {l : List Machine.Num} (h : ∀ x ∈ l, exactNum x) (n : Bool) : Num.inf n ∉ l := by
  intro hx
  obtain ⟨n, m, e, he⟩ := h _ hx
  cases he

section
variable {l : List Machine.Num} (hnan : Num.nan ∉ l)
include hnan

theorem sumNum_both_inf (h : Num.inf false ∈ l) (h' : Num.inf true ∈ l) : sumNum 0 l = (.nan, fIV) := by
  have hn := eq_false_of_ne_true fun h => hnan ((any_isNan_iff l).mp h)
  have hp := (any_inf_iff l false).mpr h
  have hm := (any_inf_iff l true).mpr h'
  simp [sumNum, hn, hp, hm]

theorem sumNum_inf {n : Bool} (h : Num.inf n ∈ l) (h' : Num.inf (!n) ∉ l) : sumNum 0 l = (.inf n, f0) := by
  have hn := eq_false_of_ne_true fun h => hnan ((any_isNan_iff l).mp h)
  have hp := (any_inf_iff l n).mpr h
  have hm := eq_false_of_ne_true fun h => h' ((any_inf_iff l (!n)).mp h)
  cases n
  · rw [Bool.not_false] at hm
    simp only [sumNum, hn, hp, hm, Bool.and_false, Bool.false_eq_true, if_false, if_true]
  · rw [Bool.not_true] at hm
    simp only [sumNum, hn, hp, hm, Bool.and_true, Bool.false_eq_true, if_false, if_true]

end

section
variable {l : List Machine.Num} (hexact : ∀ x ∈ l, exactNum x)
include hexact

/-- The exact sum of finite terms: by the integers at the lowest exponent of those that are not zero. -/
theorem sumNum_exact : sumNum 0 l = match minExp l with
    | none => (.zero (l.all Num.isNeg), f0)
    | some b =>
      let s := l.foldl (fun acc t => acc + termAt b t) 0
      if s = 0 then (.zero false, f0) else (.ofInt s b, f0) := by
  have hn := eq_false_of_ne_true fun h => exact_ne_nan hexact ((any_isNan_iff l).mp h)
  have hi : ∀ n, (l.any fun t => t == .inf n) = false := fun n =>
    eq_false_of_ne_true fun h => exact_ne_inf hexact n ((any_inf_iff l n).mp h)
  cases hmin : minExp l with
  | none =>
    cases hneg : l.all Num.isNeg <;> simp [sumNum, hn, hi, hmin, hneg]
  | some b => simp [sumNum, hn, hi, hmin]

theorem sumNum_of_ne_zero (h : (l.map numVal).sum ≠ 0) :
    ∃ v, exactNum v ∧ numVal v = (l.map numVal).sum ∧ sumNum 0 l = (v, f0) := by
  cases hmin : minExp l with
  | none =>
    refine absurd (List.sum_eq_zero fun y hy => ?_) h
    obtain ⟨x, hx, rfl⟩ := List.mem_map.mp hy
    obtain ⟨n, m, e, rfl⟩ := hexact x hx
    rw [minExp_none hmin hx]
    simp [numVal]
  | some b =>
    have hsum := sum_numVal hexact (minExp_le hmin)
    have hs : l.foldl (fun acc t => acc + termAt b t) 0 ≠ 0 := by
      intro h0
      rw [hsum, h0] at h
      simp at h
    refine ⟨.ofInt (l.foldl (fun acc t => acc + termAt b t) 0) b, ⟨_, _, _, rfl⟩, ?_, ?_⟩
    · rw [numVal_ofInt, hsum]
    · rw [sumNum_exact hexact, hmin]
      exact if_neg hs

theorem sumNum_of_zero (h : (l.map numVal).sum = 0) :
    sumNum 0 l = (.zero (decide (∀ p ∈ l, p.isNeg = true ∧ p.isZero = true)), f0) := by
  rw [sumNum_exact hexact]
  cases hmin : minExp l with
  | none =>
    have hsign : l.all Num.isNeg = decide (∀ p ∈ l, p.isNeg = true ∧ p.isZero = true) := ?_
    · exact congrArg (fun n => (Machine.Num.zero n, f0)) hsign
    rw [Bool.eq_iff_iff, List.all_eq_true, decide_eq_true_eq]
    refine forall₂_congr fun p hp => ⟨fun hneg => ⟨hneg, ?_⟩, fun hneg => hneg.1⟩
    obtain ⟨n, m, e, rfl⟩ := hexact p hp
    rw [minExp_none hmin hp]
    rfl
  | some b =>
    have hs : l.foldl (fun acc t => acc + termAt b t) 0 = 0 := by
      have hsum := sum_numVal hexact (minExp_le hmin)
      rw [h, eq_comm, mul_eq_zero_iff_right (zpow_ne_zero b two_ne_zero)] at hsum
      exact_mod_cast hsum
    have hnot : ¬ ∀ p ∈ l, p.isNeg = true ∧ p.isZero = true := by
      intro hall
      rw [minExp_of_zeros fun p hp => (hall p hp).2] at hmin
      cases hmin
    rw [decide_eq_false hnot]
    exact if_pos hs

end

/-! ## The element (R65) -/

/-- The products of row and column. -/
def products (a b : List Machine.Num) : List Machine.Num := (List.zipWith mulNum a b).map (·.1)

theorem products_exact {a b : List Machine.Num} (ha : ∀ y ∈ a, exactNum y) (hb : ∀ z ∈ b, exactNum z) :
    (∀ p ∈ products a b, exactNum p) ∧
    (products a b).map numVal = List.zipWith (fun y z => numVal y * numVal z) a b := by
  induction a generalizing b with
  | nil => exact ⟨nofun, rfl⟩
  | cons y a ih =>
    cases b with
    | nil => exact ⟨nofun, rfl⟩
    | cons z b =>
      obtain ⟨hp, hval⟩ := mulNum_exact (ha y List.mem_cons_self) (hb z List.mem_cons_self)
      obtain ⟨hps, hvals⟩ := ih (fun y hy => ha y (.tail _ hy)) fun z hz => hb z (.tail _ hz)
      constructor
      · intro p hmem
        rcases List.mem_cons.mp hmem with rfl | hmem
        · exact hp
        · exact hps p hmem
      · exact congrArg₂ List.cons hval hvals

theorem mmaElem_nan_operand {c : W32} {a b : List Machine.Num} (h : Num.nan ∈ ofF32 c :: (a ++ b)) :
    mmaElem c a b = (nan32, fNF) := by
  have hany : ((ofF32 c).isNan || a.any Num.isNan || b.any Num.isNan) = true := by
    rw [← any_isNan_iff, List.any_cons, List.any_append, ← Bool.or_assoc] at h
    exact h
  exact if_pos hany

section
variable {c : W32} {a b : List Machine.Num} (hnan : Num.nan ∉ ofF32 c :: (a ++ b))
include hnan

theorem mmaElem_of_operands : mmaElem c a b =
    if (products a b).any Num.isNan then (nan32, fIV ||| fNF)
    else ((rne (sumNum 0 (ofF32 c :: products a b)).1).1, (sumNum 0 (ofF32 c :: products a b)).2 |||
      (rne (sumNum 0 (ofF32 c :: products a b)).1).2 |||
        if nonFinite32 (rne (sumNum 0 (ofF32 c :: products a b)).1).1 = true then fNF else f0) := by
  have hany : ¬ ((ofF32 c).isNan || a.any Num.isNan || b.any Num.isNan) = true := by
    rw [← any_isNan_iff, List.any_cons, List.any_append, ← Bool.or_assoc] at hnan
    exact hnan
  rw [mmaElem]
  simp only [if_neg hany, products, List.any_map]
  rfl

theorem nan_notMem_addends (hp : Num.nan ∉ products a b) : Num.nan ∉ ofF32 c :: products a b :=
  fun h => (List.mem_cons.mp h).elim (fun h => hnan (h ▸ List.mem_cons_self)) hp

theorem mmaElem_invalid (h : Num.nan ∈ products a b ∨
    (Num.inf false ∈ ofF32 c :: products a b ∧ Num.inf true ∈ ofF32 c :: products a b)) :
    mmaElem c a b = (nan32, fIV ||| fNF) := by
  rw [mmaElem_of_operands hnan]
  by_cases hp : Num.nan ∈ products a b
  · exact if_pos ((any_isNan_iff _).mpr hp)
  · obtain ⟨hpos, hneg⟩ := h.resolve_left hp
    rw [if_neg fun hn => hp ((any_isNan_iff _).mp hn), sumNum_both_inf (nan_notMem_addends hnan hp) hpos hneg]
    rfl

theorem mmaElem_inf {neg : Bool} (hp : Num.nan ∉ products a b) (h : Num.inf neg ∈ ofF32 c :: products a b)
    (h' : Num.inf (!neg) ∉ ofF32 c :: products a b) :
    mmaElem c a b = (if neg = true then ninf32 else pinf32, fNF) := by
  rw [mmaElem_of_operands hnan, if_neg fun hn => hp ((any_isNan_iff _).mp hn),
    sumNum_inf (nan_notMem_addends hnan hp) h h']
  cases neg <;> rfl

end

section
variable {c : W32} {a b : List Machine.Num} (h : ∀ y ∈ ofF32 c :: (a ++ b), exactNum y)
include h

theorem addends_exact : (∀ y ∈ ofF32 c :: products a b, exactNum y) ∧ ((ofF32 c :: products a b).map numVal).sum =
    numVal (ofF32 c) + (List.zipWith (fun y z => numVal y * numVal z) a b).sum := by
  obtain ⟨hps, hvals⟩ := products_exact (fun y hy => h y (.tail _ (List.mem_append_left b hy)))
    fun z hz => h z (.tail _ (List.mem_append_right a hz))
  refine ⟨fun y hy => ?_, by rw [List.map_cons, List.sum_cons, hvals]⟩
  rcases List.mem_cons.mp hy with rfl | hy
  · exact h _ List.mem_cons_self
  · exact hps y hy

/-- Where all operands are finite, the sum decides the element. -/
theorem mmaElem_of_sum {v : Machine.Num} (hsum : sumNum 0 (ofF32 c :: products a b) = (v, f0)) : mmaElem c a b =
    ((rne v).1, (rne v).2 ||| if nonFinite32 (rne v).1 = true then fNF else f0) := by
  have hps : Num.nan ∉ products a b := fun hp => exact_ne_nan (addends_exact h).1 (.tail _ hp)
  rw [mmaElem_of_operands (exact_ne_nan h), if_neg fun hn => hps ((any_isNan_iff _).mp hn), hsum]
  exact congrArg (fun f => (_, f ||| _)) (BitVec.zero_or ..)

theorem mmaElem_rounds
    (hne : numVal (ofF32 c) + (List.zipWith (fun y z => numVal y * numVal z) a b).sum ≠ 0) : ∃ v, exactNum v ∧
      numVal v = numVal (ofF32 c) + (List.zipWith (fun y z => numVal y * numVal z) a b).sum ∧
      mmaElem c a b = ((rne v).1, (rne v).2 ||| if nonFinite32 (rne v).1 = true then fNF else f0) := by
  obtain ⟨hexact, hval⟩ := addends_exact h
  obtain ⟨v, hv, hnum, hsum⟩ := sumNum_of_ne_zero hexact (hval ▸ hne)
  exact ⟨v, hv, hnum.trans hval, mmaElem_of_sum h hsum⟩

theorem mmaElem_zero (h0 : numVal (ofF32 c) + (List.zipWith (fun y z => numVal y * numVal z) a b).sum = 0) :
    mmaElem c a b =
      (if ∀ p ∈ ofF32 c :: products a b, p.isNeg = true ∧ p.isZero = true then 0x80000000#32 else 0#32, f0) := by
  obtain ⟨hexact, hval⟩ := addends_exact h
  rw [mmaElem_of_sum h (sumNum_of_zero hexact (hval.trans h0))]
  by_cases hneg : ∀ p ∈ ofF32 c :: products a b, p.isNeg = true ∧ p.isZero = true
  · rw [if_pos hneg, decide_eq_true hneg]
    rfl
  · rw [if_neg hneg, decide_eq_false hneg]
    rfl

end

end Sys2Proof.Proofs
end

section
/-! SUPPORT. The operands of an MMA step (R45, R50, R60, R222) and the step (R65, R223). -/

namespace Sys2Proof.Proofs

open Sys2Proof.Machine Sys2Proof.Laws

/-! ## Bytes of a list -/

theorem getD_take_drop {α : Type} (l : List α) (d : α) {n m j : Nat} (h : j < m) :
    ((l.drop n).take m).getD j d = l.getD (n + j) d := by
  rw [List.getD_eq_getElem?_getD, List.getElem?_take_of_lt h, List.getElem?_drop, List.getD_eq_getElem?_getD]

theorem take_drop_eq_map_getD {α : Type} (l : List α) (d : α) {a n : Nat} (h : a + n ≤ l.length) :
    (l.drop a).take n = (List.range n).map fun j => l.getD (a + j) d := by
  refine List.ext_getElem (by simp; omega) fun j hj hj' => ?_
  rw [List.length_map, List.length_range] at hj'
  simp [List.getD_eq_getElem?_getD, List.getElem?_eq_getElem (show a + j < l.length by omega)]

/-- A code of one or two bytes, little-endian. -/
theorem codeAt_bytes {l : List W8} {e w : Nat} (hw : w = 8 ∨ w = 16) (h : (e + 1) * (w / 8) ≤ l.length) :
    codeAt l 0 e w = if w = 8 then (l.getD e 0).toNat else (l.getD (2 * e) 0).toNat + 256 * (l.getD (2 * e + 1) 0).toNat := by
  rcases hw with rfl | rfl
  · rw [if_pos rfl, codeAt, if_neg (by decide), take_drop_eq_map_getD l 0 (by omega)]
    simp [natOfBytes]
  · rw [if_neg (by decide), codeAt, if_neg (by decide), take_drop_eq_map_getD l 0 (by omega)]
    have he : e * 2 = 2 * e := Nat.mul_comm e 2
    simp [natOfBytes, List.range_succ, he]

/-! ## The operands of a ring's head slot -/

/-- A byte of the scratchpad; beyond it there are zeros (R191). -/
def slotByte (t : Tile) (a : Nat) : Nat := if a < 0x180000 then (Mem.get t.sp a).toNat else 0

theorem slotByte_lt (t : Tile) (a : Nat) : slotByte t a < 256 := by
  rw [slotByte]
  split_ifs
  · exact BitVec.isLt _
  · decide

theorem slotBytes_getD (t : Tile) (a : Nat) {n i : Nat} (h : i < n) :
    ((slotBytes t a n).getD i 0).toNat = slotByte t (a + i) := by
  rw [slotBytes, getD_tab _ _ h, slotByte]
  split_ifs <;> rfl

theorem slotBytes_length (t : Tile) (a n : Nat) : (slotBytes t a n).length = n := by simp [slotBytes, tab]

theorem blockFmt_iff (fmt : Nat) : blockFmt fmt = true ↔ fmt = 7 ∨ fmt = 8 := by simp [blockFmt]

/-- The operand widths of the MX. -/
theorem fmtWidth_cases (fmt : Nat) (h : fmtWidth fmt ≤ 16) : fmtWidth fmt = 4 ∨ fmtWidth fmt = 8 ∨ fmtWidth fmt = 16 := by
  unfold fmtWidth at h ⊢
  split_ifs at h ⊢ <;> omega

theorem tileData_eq (n w : Nat) : tileData n w = 8 * w * n := by
  rw [tileData, show n * 64 * w = 8 * (8 * w * n) by ring, Nat.mul_div_cancel_left _ (by decide)]

/-- Row `i` of a tile in a ring slot. -/
def slotRow (t : Tile) (slot rows fmt i : Nat) : List W8 :=
  ((slotBytes t slot (tileBytes rows fmt)).drop (8 * fmtWidth fmt * i)).take (8 * fmtWidth fmt)

section
variable (t : Tile) (slot : Nat) {rows i : Nat} (fmt : Nat) (hi : i < rows)
include hi

theorem slotRow_inside : 8 * fmtWidth fmt * i + 8 * fmtWidth fmt ≤ tileBytes rows fmt := by
  rw [tileBytes, tileData_eq, ← Nat.mul_succ]
  exact (Nat.mul_le_mul_left _ hi).trans (Nat.le_add_right ..)

theorem slotRow_length : (slotRow t slot rows fmt i).length = 8 * fmtWidth fmt := by
  have hin := slotRow_inside fmt hi
  rw [slotRow, List.length_take, List.length_drop, slotBytes_length]
  omega

theorem slotRow_getD {j : Nat} (hj : j < 8 * fmtWidth fmt) :
    ((slotRow t slot rows fmt i).getD j 0).toNat = slotByte t (slot + 8 * fmtWidth fmt * i + j) := by
  have hin := slotRow_inside fmt hi
  rw [slotRow, getD_take_drop _ _ hj, slotBytes_getD _ _ (by omega), Nat.add_assoc]

/-- The code of an element of a tile, from the bytes of its slot. -/
theorem codeAt_slotRow {k : Nat} (hfmt : fmtWidth fmt ≤ 16) (hk : k < 64) :
    codeAt (slotRow t slot rows fmt i) 0 k (fmtWidth fmt) =
      let a := slot + 8 * fmtWidth fmt * i + k * fmtWidth fmt / 8
      if fmtWidth fmt = 4 then slotByte t a / (if k % 2 = 0 then 1 else 16) % 16
      else if fmtWidth fmt = 8 then slotByte t a else slotByte t a + 256 * slotByte t (a + 1) := by
  have hbyte := fun j => slotRow_getD t slot fmt hi (j := j)
  have hlen := slotRow_length t slot fmt hi
  rcases fmtWidth_cases fmt hfmt with hw | hw | hw <;> rw [hw] at hbyte hlen ⊢
  · have hj : 0 + k / 2 = k * 4 / 8 := by omega
    rw [codeAt, if_pos rfl, hj, hbyte _ (by omega)]
    have hlt := slotByte_lt t (slot + 8 * 4 * i + k * 4 / 8)
    simp only [if_true]
    split_ifs <;> omega
  · rw [codeAt_bytes (.inl rfl) (by omega), if_pos rfl, hbyte _ (by omega)]
    simp
  · have hj : k * 16 / 8 = 2 * k := by omega
    rw [codeAt_bytes (.inr rfl) (by omega), if_neg (by decide), hbyte _ (by omega), hbyte _ (by omega)]
    simp [hj, Nat.add_assoc]

/-- The scale byte of an element of a tile in a block format. -/
theorem scale_slot {k : Nat} (hk : k < 64) :
    (if blockFmt fmt = true then
      ((slotBytes t slot (tileBytes rows fmt)).getD (tileData rows (fmtWidth fmt) + 2 * i + k / 32) 0).toNat else 127) =
    if fmt = 7 ∨ fmt = 8 then slotByte t (slot + 8 * fmtWidth fmt * rows + 2 * i + k / 32) else 127 := by
  refine ite_congr (propext (blockFmt_iff fmt)) (fun hblock => ?_) fun _ => rfl
  have hbytes : tileBytes rows fmt = tileData rows (fmtWidth fmt) + 2 * rows := by
    rw [tileBytes, if_pos ((blockFmt_iff fmt).mpr hblock)]
  rw [slotBytes_getD _ _ (by omega), tileData_eq]
  congr 1
  omega

end

/-- The operands of a row or column of the tile in a ring's head slot. -/
theorem tileRow_head (t : Tile) (ring : Nat) {rows i fmt : Nat} (x : Bool) (hfmt : fmtWidth fmt ≤ 16) (hi : i < rows) :
    (tileRow (slotBytes t ((t.ring ring).slotAddr (t.ring ring).head) (tileBytes rows fmt)) rows fmt x i).map (·.1) =
      (List.range 64).map (t.ringElem ring rows fmt x i) := by
  rw [tileRow, tab, List.map_map]
  refine List.map_congr_left fun k hk => ?_
  have hk := List.mem_range.mp hk
  have hcode := codeAt_slotRow t ((t.ring ring).slotAddr (t.ring ring).head) fmt hi hfmt hk
  have hscale := scale_slot t ((t.ring ring).slotAddr (t.ring ring).head) fmt hi hk
  rw [slotRow] at hcode
  simp only [Function.comp_apply, hcode, hscale]
  rfl

/-! ## The step -/

theorem mem_tab {α : Type} {n : Nat} {f : Nat → α} {y : α} : y ∈ tab n f ↔ ∃ k, k < n ∧ y = f k := by
  simp only [tab, List.mem_map, List.mem_range, eq_comm]

theorem map_tab {α β : Type} (n : Nat) (f : Nat → α) (g : α → β) : (tab n f).map g = tab n fun k => g (f k) := List.map_map

/-- The entries of a list with their numbers. -/
theorem zip_range_eq_tab {α : Type} {n : Nat} {l : List α} (d : α) (h : l.length = n) :
    List.zip (List.range n) l = tab n fun k => (k, l.getD k d) := by
  refine List.ext_getElem (by simp [tab, h]) fun k hk hk' => ?_
  have hlt : k < l.length := by simp [tab] at hk'; omega
  simp [tab, List.getD_eq_getElem?_getD, hlt]

theorem zip_range_tab {α : Type} (n : Nat) (f : Nat → α) : List.zip (List.range n) (tab n f) = tab n fun k => (k, f k) := by
  refine List.ext_getElem (by simp [tab]) fun k hk hk' => ?_
  simp [tab]

theorem zipWith_tab {α β γ : Type} {n : Nat} {l : List α} (d : α) (h : l.length = n) (f : α → β → γ) (g : Nat → β) :
    List.zipWith f l (tab n g) = tab n fun k => f (l.getD k d) (g k) := by
  refine List.ext_getElem (by simp [tab, h]) fun k hk hk' => ?_
  have hlt : k < l.length := by simp [tab] at hk'; omega
  simp [tab, List.getD_eq_getElem?_getD, hlt]

/-- The rows that an MMA step writes. -/
theorem mmaStep_rows (d v : Tile) (r : Rec) {rows : Nat} (hrows : rows ≤ 128) (h0 : fmtWidth r.fmt0.toNat ≤ 16)
    (h1 : fmtWidth r.fmt1.toNat ≤ 16) (hacc : ∀ i, (v.accRow (unitNo r.od2) i).length = 64) (y : Nat × List W32) :
    y ∈ (mmaStep d v r rows).rows ↔ ∃ k, k < rows ∧ y = (128 * unitNo r.od2 + k, (List.range 64).map fun j =>
      (mmaElem ((v.accRow (unitNo r.od2) k).getD j 0#32)
        ((List.range 64).map (d.ringElem (unitNo r.od0) 128 r.fmt0.toNat r.x k))
        ((List.range 64).map (d.ringElem (unitNo r.od1) 64 r.fmt1.toNat r.x j))).1) := by
  rw [mmaStep]
  simp only [zip_range_tab, map_tab, mem_tab]
  refine exists_congr fun k => and_congr_right fun hk => ?_
  rw [zipWith_tab 0#32 (hacc k), map_tab, tileRow_head d _ r.x h0 (by omega)]
  refine Eq.congr_right (congrArg (Prod.mk _) (List.map_congr_left fun j hj => ?_))
  rw [tileRow_head d _ r.x h1 (List.mem_range.mp hj)]

end Sys2Proof.Proofs
end

section
/-! SUPPORT. What the other steps of the MX compute (R66, R224 to R226): the softmax update, the merge, the quotients, the
conversions, and the rows that are set. -/

namespace Sys2Proof.Proofs

open Sys2Proof.Machine Sys2Proof.Laws

/-! ## Sums, scales and zeros -/

/-- A tree of images is the image of the tree. -/
theorem treeGo_map {α β : Type} {node : α → α → α} {node' : β → β → β} {d : α} {d' : β} {g : α → β}
    (hnode : ∀ a b, g (node a b) = node' (g a) (g b)) (hd : g d = d') (fuel : Nat) (l : List α) :
    g (treeGo node d fuel l) = treeGo node' d' fuel (l.map g) := by
  induction fuel generalizing l with
  | zero =>
    cases l with
    | nil => exact hd
    | cons x l => rfl
  | succ fuel ih =>
    match l with
    | [] => exact hd
    | [_] => rfl
    | x :: y :: l =>
      have h2 : 2 ≤ (x :: y :: l).length := by simp
      rw [treeGo_split node d fuel h2, treeGo_split node' d' fuel (by rwa [List.length_map]), hnode, ih, ih, List.map_take,
        List.map_drop, List.length_map]

theorem treeSum_fst (l : List W32) : (treeSum l).1 = tree (fun a b => (fadd 0 0#32 a b).1) 0#32 l := by
  have hmap := treeGo_map (d := (0#32, f0)) (node' := fun a b => (fadd 0 0#32 a b).1)
    (node := fun a b : W32 × Flags => ((fadd 0 0#32 a.1 b.1).1, a.2 ||| b.2 ||| (fadd 0 0#32 a.1 b.1).2))
    (g := Prod.fst) (fun _ _ => rfl) rfl (bitLen l.length + 1) (l.map fun x => (x, f0))
  rw [List.map_map, show (Prod.fst ∘ fun x : W32 => (x, f0)) = id from rfl, List.map_id] at hmap
  rw [treeSum, tree, tree, List.length_map]
  exact hmap

/-- EXP2 of a difference. -/
def expLess (a b : W32) : W32 := (exp2Of 0 0#32 (sumNum 0 [ofF32 a, (ofF32 b).neg]).1).1

/-- The scale of an operand against a maximum. -/
def rowScale (a b : W32) : W32 := if a = ninf32 ∧ isNan32 b = false then 0#32 else expLess a b

theorem mergeScale_fst (a : W32) {b : W32} (hb : b ≠ ninf32) : (mergeScale a b).1 = rowScale a b := by
  rw [mergeScale, rowScale]
  simp only [hb, ne_eq, not_false_eq_true, true_and, Bool.not_eq_true']
  split_ifs <;> rfl

/-- A zero has one code, whatever its exponent. -/
theorem conv_zero (fmt mode : Nat) (x sat : Bool) (seed : W32) :
    conv fmt mode x sat seed (.zero false) = conv fmt mode x sat seed (ofF32 0#32) := by
  have h0 : ofF32 0#32 = .fin false 0 (-149) false := by decide
  rw [h0]
  cases hff : ffOf fmt x with
  | none => simp [conv, hff, Machine.Num.zero, convInt]
  | some f => simp [conv, hff, Machine.Num.zero, convFF]

/-! ## The softmax update (R224) -/

section
variable (sc : List W32) (m l : W32) (o : List W32) (fmt mode : Nat) (x sat : Bool) (seed : W32)

/-- The code of an element of P. -/
def codeOf (v : W32) : Nat := (conv fmt mode x sat seed (ofF32 v)).1

/-- The codes of a row of P under its new maximum. -/
def rowCodes (mn : W32) : List Nat := sc.map fun v =>
  if mn = ninf32 then codeOf fmt mode x sat seed 0#32 else codeOf fmt mode x sat seed (expLess v mn)

theorem smxuRow_codes : (smxuRow sc m l o fmt mode x sat seed).2.1 =
    rowCodes sc fmt mode x sat seed (fmax m (sc.foldl fmax ninf32)) := by
  by_cases h : fmax m (sc.foldl fmax ninf32) = ninf32
  · simp only [smxuRow, rowCodes, if_pos h, conv_zero]
    rfl
  · simp only [smxuRow, rowCodes, if_neg h, List.map_map]
    rfl

theorem smxuRow_triple : (smxuRow sc m l o fmt mode x sat seed).1 =
    let mn := fmax m (sc.foldl fmax ninf32)
    let a := rowScale m mn
    if mn = ninf32 then none
    else some (mn, (fadd 0 0#32 (fmul 0 0#32 a l).1 (tree (fun a b => (fadd 0 0#32 a b).1) 0#32
      ((rowCodes sc fmt mode x sat seed mn).map fun c => (widenLane fmt x 127 c).1))).1,
      o.map fun y => (fmul 0 0#32 a y).1) := by
  by_cases h : fmax m (sc.foldl fmax ninf32) = ninf32
  · simp only [smxuRow, if_pos h]
  · simp only [smxuRow, if_neg h, mergeScale_fst m h, treeSum_fst, List.map_map, rowCodes]
    rfl

end

/-- The entries of the rows that have a result. -/
theorem mem_filterMap_rows {α β γ : Type} (n k : Nat) (f : Nat → Option α × β) (g : α → γ) {c : Nat → Prop} [DecidablePred c]
    {b : Nat → α} (hf : ∀ i, (f i).1 = if c i then none else some (b i)) (y : Nat × γ) :
    y ∈ ((tab n fun i => (i, f i)).filterMap fun x => x.2.1.map fun z => (k + x.1, g z)) ↔
      ∃ i, i < n ∧ ¬ c i ∧ y = (k + i, g (b i)) := by
  simp only [List.mem_filterMap, mem_tab]
  constructor
  · rintro ⟨x, ⟨i, hi, rfl⟩, hy⟩
    by_cases hc : c i
    · rw [hf, if_pos hc] at hy
      cases hy
    · rw [hf, if_neg hc] at hy
      exact ⟨i, hi, hc, (Option.some.inj hy).symm⟩
  · rintro ⟨i, hi, hc, rfl⟩
    exact ⟨_, ⟨i, hi, rfl⟩, by rw [hf, if_neg hc]; rfl⟩

section
variable (t : Tile) (r : Rec) (mask : List W8) (i : Nat)

/-- The scores of a row, masked ones at minus infinity. -/
def maskedScores : List W32 := (List.range 64).map fun j =>
  if (mask.getD (8 * i + j / 8) 0).getLsbD (j % 8) = true then ninf32 else (t.accRow (unitNo r.od0) i).getD j 0#32

/-- The new maximum of a row. -/
def scoresMax : W32 := fmax (t.accMax (unitNo r.od2) i) ((maskedScores t r mask i).foldl fmax ninf32)

theorem smxuStep_scores (hlen : (t.accRow (unitNo r.od0) i).length = 64) :
    ((List.zip (List.range 64) (t.accRow (unitNo r.od0) i)).map fun x =>
      if bitAt (mask.getD (8 * i + x.1 / 8) 0).toNat (x.1 % 8) then ninf32 else x.2) = maskedScores t r mask i := by
  rw [zip_range_eq_tab 0#32 hlen, map_tab]
  refine List.map_congr_left fun j _ => ?_
  rw [bitAt_testBit, BitVec.testBit_toNat]

end

section
variable (t : Tile) (r : Rec) (mode : Nat) (seed : W32) (mask : List W8)

/-- What an smxu step makes of a row. -/
def smxuRowOf (i : Nat) : Option (W32 × W32 × List W32) × List Nat × Flags :=
  smxuRow (maskedScores t r mask i) (t.accMax (unitNo r.od2) i) (t.accDen (unitNo r.od2) i) (t.accRow (unitNo r.od2) i)
    r.fmt1.toNat mode r.x r.sat seed

variable (hlen : ∀ a i, (t.accRow a i).length = 64)
include hlen

theorem smxuStep_eq : smxuStep t r mode seed mask =
    let rows := tab 128 fun i => (i, smxuRowOf t r mode seed mask i)
    { StepOut.none with
      rows := rows.filterMap fun x => x.2.1.map fun y => (128 * unitNo r.od2 + x.1, y.2.2)
      ms := rows.filterMap fun x => x.2.1.map fun y => (128 * unitNo r.od2 + x.1, y.1)
      ls := rows.filterMap fun x => x.2.1.map fun y => (128 * unitNo r.od2 + x.1, y.2.1)
      tile := some (unitNo r.od1, rows.flatMap fun x => packCodes (fmtWidth r.fmt1.toNat) x.2.2.1)
      fl := rows.foldl (fun a x => a ||| x.2.2.2) f0 } := by
  simp only [smxuStep, smxuStep_scores t r mask _ (hlen _ _)]
  rfl

end

/-! ## The merge (R225) -/

/-- An element of a merge of two rows with given maxima. -/
def mergeJoin (ma mb x y : W32) : W32 :=
  if fmax ma mb = ninf32 then 0#32
  else (fmaRne (rowScale ma (fmax ma mb)) x (fmul 0 0#32 (rowScale mb (fmax ma mb)) y).1).1

theorem mergeTriple_fst {a b : Triple} (hlen : a.o.length = b.o.length) : (mergeTriple a b).1 =
    ⟨fmax a.m b.m, mergeJoin a.m b.m a.l b.l, List.zipWith (mergeJoin a.m b.m) a.o b.o⟩ := by
  by_cases h : fmax a.m b.m = ninf32
  · have hzip : List.zipWith (mergeJoin a.m b.m) a.o b.o = a.o.map fun _ => 0#32 := by
      refine List.ext_getElem (by simp [hlen]) fun k hk hk' => ?_
      simp [mergeJoin, h]
    rw [hzip, mergeTriple, mergeJoin]
    simp only [h, if_true]
  · have hjoin : mergeJoin a.m b.m = fun x y => (mergeElem (mergeScale a.m (fmax a.m b.m)).1
        (mergeScale b.m (fmax a.m b.m)).1 x y).1 := by
      funext x y
      rw [mergeJoin, if_neg h, mergeScale_fst _ h, mergeScale_fst _ h]
      rfl
    rw [hjoin, mergeTriple]
    simp only [if_neg h, List.map_zipWith]

/-! ## Bits and rows -/

theorem getLsbD_two_pow {a k : Nat} (hk : k < 8) : (BitVec.ofNat 8 (2 ^ a)).getLsbD k = true ↔ k = a := by
  rw [BitVec.getLsbD_ofNat, Nat.testBit_two_pow]
  simp [hk, eq_comm]

theorem zeroRow_length : zeroRow.length = 64 := by decide

end Sys2Proof.Proofs
end

section
/-! SUPPORT. The outcomes of the steps of the MX, field by field (R222 to R226). -/

namespace Sys2Proof.Proofs

open Sys2Proof.Machine Sys2Proof.Laws

/-! ## What a step reads -/

section
variable {s s' : State} {tid : Nat} {run : Run} {o : StepOut} (hview : run.view = none)
include hview

theorem mxCompute_mma (r : Rec) : mxCompute s tid (.mma r) run = .ok (mmaStep (s.tile tid) (s.tile tid) r 128, s) := by
  simp only [mxCompute, hview]

theorem mxCompute_mmai (r : Rec) :
    mxCompute s tid (.mmai r) run = .ok (mmaStep (s.tile tid) (s.tile tid) r (run.m.getD 0), s) := by
  simp only [mxCompute, hview]

theorem mxCompute_smxm (r : Rec) : mxCompute s tid (.smxm r) run = .ok (smxmStep (s.tile tid) r, s) := by
  simp only [mxCompute, hview]

theorem mxCompute_smxf (r : Rec) : mxCompute s tid (.smxf r) run = .ok (smxfStep (s.tile tid) r run run.rm, s) := by
  simp only [mxCompute, hview]

theorem mxCompute_acst (r : Rec) : mxCompute s tid (.acst r) run = .ok (acstStep (s.tile tid) r run run.rm, s) := by
  simp only [mxCompute, hview]

theorem mxCompute_smxu {r : Rec} (h : mxCompute s tid (.smxu r) run = .ok (o, s')) : ∃ mask : List W8,
    (if r.od3 = 0#96 then mask = [] ∧ s' = s else ∃ w s1, s' = { s1 with focus := s.focus } ∧ mask = bytesOf 1024 w ∧
      State.ereadUnits { s with focus := { s.focus with tile := tid } } (run.base 3) (descOff r.od3) 64 = .ok (w, s1)) ∧
    o = smxuStep (s.tile tid) r run.rm run.seed mask := by
  simp only [mxCompute, hview] at h
  split_ifs at h ⊢ with hod
  · cases h
    exact ⟨[], ⟨rfl, rfl⟩, rfl⟩
  · split at h
    next => cases h
    next w s1 hread =>
      cases h
      exact ⟨_, ⟨w, s1, rfl, rfl, hread⟩, rfl⟩

omit hview in
/-- Over the integers, the numbers below a bound. -/
theorem map_range_cast (n : Nat) (f : Int → Int) : (do let a ← List.range n; pure (a : Int)).map f = tab n fun k => f k := by
  rw [tab, List.bind_eq_flatMap, List.map_flatMap, List.map_eq_flatMap]
  rfl

omit hview in
theorem mxCompute_acld {r : Rec} (h : mxCompute s tid (.acld r) run = .ok (o, s')) : ∃ l s1, s' = { s1 with focus := s.focus } ∧
    State.ereads (run.base 0) 16 ((List.range 128).flatMap fun i =>
      (List.range (fmtWidth r.fmt0.toNat / 2)).map fun k => descDisp r.od0 run.trips i + 16 * k)
        { s with focus := { s.focus with tile := tid } } = .ok (l, s1) ∧
    o = acldStep r (tab 128 fun i =>
      joinUnits ((l.drop (fmtWidth r.fmt0.toNat / 2 * i)).take (fmtWidth r.fmt0.toNat / 2))) := by
  simp only [mxCompute] at h
  split at h
  next => cases h
  next l s1 hread =>
    cases h
    refine ⟨l, s1, rfl, ?_, rfl⟩
    simp only [map_range_cast]
    exact hread

end

/-! ## What a step writes -/

section
variable (t : Tile) (r : Rec) (hlen : ∀ a i, (t.accRow a i).length = 64)

theorem mmaStep_pops (d : Tile) (rows n : Nat) : n ∈ (mmaStep d t r rows).pops ↔ n = unitNo r.od0 ∨ n = unitNo r.od1 := by
  rw [mmaStep, List.mem_eraseDups]
  simp

section
variable (mode : Nat) (seed : W32) (mask : List W8)
include hlen

theorem smxuStep_ms (y : Nat × W32) : y ∈ (smxuStep t r mode seed mask).ms ↔
    ∃ i, i < 128 ∧ scoresMax t r mask i ≠ ninf32 ∧ y = (128 * unitNo r.od2 + i, scoresMax t r mask i) := by
  rw [smxuStep_eq t r mode seed mask hlen]
  exact mem_filterMap_rows 128 _ (smxuRowOf t r mode seed mask) _ (fun i => smxuRow_triple ..) y

theorem smxuStep_ls (y : Nat × W32) : y ∈ (smxuStep t r mode seed mask).ls ↔
    ∃ i, i < 128 ∧ scoresMax t r mask i ≠ ninf32 ∧ y = (128 * unitNo r.od2 + i,
      (fadd 0 0#32 (fmul 0 0#32 (rowScale (t.accMax (unitNo r.od2) i) (scoresMax t r mask i)) (t.accDen (unitNo r.od2) i)).1
        (tree (fun a b => (fadd 0 0#32 a b).1) 0#32 ((rowCodes (maskedScores t r mask i) r.fmt1.toNat mode r.x r.sat seed
          (scoresMax t r mask i)).map fun c => (widenLane r.fmt1.toNat r.x 127 c).1))).1) := by
  rw [smxuStep_eq t r mode seed mask hlen]
  exact mem_filterMap_rows 128 _ (smxuRowOf t r mode seed mask) (fun z => z.2.1) (fun i => smxuRow_triple ..) y

theorem smxuStep_rows (y : Nat × List W32) : y ∈ (smxuStep t r mode seed mask).rows ↔
    ∃ i, i < 128 ∧ scoresMax t r mask i ≠ ninf32 ∧ y = (128 * unitNo r.od2 + i, (t.accRow (unitNo r.od2) i).map fun v =>
      (fmul 0 0#32 (rowScale (t.accMax (unitNo r.od2) i) (scoresMax t r mask i)) v).1) := by
  rw [smxuStep_eq t r mode seed mask hlen]
  exact mem_filterMap_rows 128 _ (smxuRowOf t r mode seed mask) (fun z => z.2.2) (fun i => smxuRow_triple ..) y

theorem smxuStep_tile : (smxuStep t r mode seed mask).tile = some (unitNo r.od1, (List.range 128).flatMap fun i =>
    packCodes (fmtWidth r.fmt1.toNat) (rowCodes (maskedScores t r mask i) r.fmt1.toNat mode r.x r.sat seed
      (scoresMax t r mask i))) := by
  rw [smxuStep_eq t r mode seed mask hlen]
  simp only [tab, List.flatMap_map, smxuRowOf, smxuRow_codes]
  rfl

end

include hlen in
theorem smxmStep_eq : smxmStep t r =
    let key := fun i => 128 * unitNo r.od2 + i
    let join := fun i => mergeJoin (t.accMax (unitNo r.od0) i) (t.accMax (unitNo r.od1) i)
    { StepOut.none with
      rows := tab 128 fun i => (key i, List.zipWith (join i) (t.accRow (unitNo r.od0) i) (t.accRow (unitNo r.od1) i))
      ms := tab 128 fun i => (key i, fmax (t.accMax (unitNo r.od0) i) (t.accMax (unitNo r.od1) i))
      ls := tab 128 fun i => (key i, join i (t.accDen (unitNo r.od0) i) (t.accDen (unitNo r.od1) i))
      fs := tab 128 fun i => (key i, 0#32)
      fl := (smxmStep t r).fl } := by
  have hrows : ∀ i, (t.triple (unitNo r.od0) i).o.length = (t.triple (unitNo r.od1) i).o.length :=
    fun i => (hlen _ _).trans (hlen _ _).symm
  simp only [smxmStep, map_tab, mergeTriple_fst (hrows _)]
  rfl

section
variable (run : Run) (mode : Nat)

/-- The units that a record writes for 128 rows of codes. -/
def rowUnits (f : Nat → List Nat) : List (W64 × Int × List W8) := (List.range 128).flatMap fun i =>
  unitWrites (run.base 2) (descDisp r.od2 run.trips i) (packCodes (fmtWidth r.fmt2.toNat) (f i))

include hlen in
theorem smxfStep_mem : (smxfStep t r run mode).mem = rowUnits r run fun i => (t.accRow (unitNo r.od0) i).map fun v =>
    if t.accMax (unitNo r.od0) i = ninf32 then 0
    else (quot r.fmt2.toNat mode r.x r.sat run.seed v (t.accDen (unitNo r.od0) i)).1 := by
  simp only [smxfStep, tab, List.flatMap_map, rowUnits]
  refine List.flatMap_congr fun i _ => ?_
  by_cases h : t.accMax (unitNo r.od0) i = ninf32
  · simp only [if_pos h, List.map_map]
    congr 2
    refine List.ext_getElem (by simp [hlen, zeroRow_length]) fun k hk hk' => by simp
  · simp only [if_neg h, List.map_map]
    rfl

theorem smxfStep_fs (y : Nat × W32) : y ∈ (smxfStep t r run mode).fs ↔
    ∃ i, (i < 128 ∧ t.accMax (unitNo r.od0) i = ninf32) ∧ y = (128 * unitNo r.od0 + i, 1#32) := by
  simp only [smxfStep, List.mem_map, List.mem_filter, List.mem_range, decide_eq_true_eq, @eq_comm _ y]

theorem smxfStep_emptySet {k : Nat} (hk : k < 8) : (smxfStep t r run mode).emptySet.getLsbD k = true ↔
    k = unitNo r.od0 ∧ ∃ i, i < 128 ∧ t.accMax (unitNo r.od0) i = ninf32 := by
  have hempty : ((List.range 128).filter fun i => decide (t.accMax (unitNo r.od0) i = ninf32)).isEmpty = true ↔
      ¬ ∃ i, i < 128 ∧ t.accMax (unitNo r.od0) i = ninf32 := by
    simp [List.filter_eq_nil_iff]
  simp only [smxfStep]
  by_cases h : ∃ i, i < 128 ∧ t.accMax (unitNo r.od0) i = ninf32
  · rw [if_neg fun he => hempty.mp he h, getLsbD_two_pow hk, and_iff_left h]
  · rw [if_pos (hempty.mpr h)]
    simp [h]

theorem acstStep_mem : (acstStep t r run mode).mem = rowUnits r run fun i => (t.accRow (unitNo r.od0) i).map fun v =>
    (conv r.fmt2.toNat mode r.x r.sat run.seed (ofF32 v)).1 := by
  simp only [acstStep, tab, List.flatMap_map, rowUnits, List.map_map]
  rfl

end

theorem fmtWidth_pos (fmt : Nat) : 0 < fmtWidth fmt := by
  unfold fmtWidth
  split_ifs <;> decide

theorem acldStep_rows (f : Nat → Nat) (y : Nat × List W32) : y ∈ (acldStep r (tab 128 f)).rows ↔
    ∃ i, i < 128 ∧ y = (128 * unitNo r.od2 + i, (List.range 64).map fun k =>
      (widenLane r.fmt0.toNat false 127 (f i / 2 ^ (fmtWidth r.fmt0.toNat * k) % 2 ^ fmtWidth r.fmt0.toNat)).1) := by
  have hbits : ∀ w k, bits w (fmtWidth r.fmt0.toNat * k + fmtWidth r.fmt0.toNat - 1) (fmtWidth r.fmt0.toNat * k) =
      w / 2 ^ (fmtWidth r.fmt0.toNat * k) % 2 ^ fmtWidth r.fmt0.toNat := by
    intro w k
    have hpos := fmtWidth_pos r.fmt0.toNat
    rw [bits, show fmtWidth r.fmt0.toNat * k + fmtWidth r.fmt0.toNat - 1 + 1 - fmtWidth r.fmt0.toNat * k =
      fmtWidth r.fmt0.toNat by omega]
  simp only [acldStep, zip_range_tab, map_tab, mem_tab, hbits]
  rfl

theorem aczrStep_eq : aczrStep r =
    let key := fun i => 128 * unitNo r.od2 + i
    { StepOut.none with
      rows := tab 128 fun i => (key i, List.replicate 64 0#32)
      ms := tab 128 fun i => (key i, ninf32)
      ls := tab 128 fun i => (key i, 0#32)
      fs := tab 128 fun i => (key i, 0#32)
      emptyClr := BitVec.ofNat 8 (2 ^ unitNo r.od2) } := by
  simp only [aczrStep, map_tab]
  rfl

end

end Sys2Proof.Proofs
end

section
/-! SUPPORT. The steps of the MX and what they compute, in one statement (O37). -/

namespace Sys2Proof.Proofs

open Sys2Proof.Machine Sys2Proof.Laws

/-- Settles O37: the events of a step have one equation each; an element of an MMA step is decided by its sum over
rational values; each other step is read off the lists it writes. -/
theorem matrixSteps : Obligations.MatrixSteps := by
  unfold Obligations.MatrixSteps
  refine ⟨⟨?begins, ?ends, ?missed, ?moves⟩, ?element, ?outcomes⟩
  case begins =>
    intro s0 s' i run o s tid hhead hpeer hstamp hcan hcount
    have hat : atMx s = s := rfl
    have hexec : exec .mxStepBegin s0 = execMxStepBegin s := rfl
    have hgoes := execMxStepBegin_goes hat hhead hpeer hstamp hcan hcount
    rw [hexec, hgoes]
    refine ⟨fun hidle => congrArg Host.Outcome.next (if_pos hidle), fun hidle htags hperm hbad hcompute => ?_⟩
    refine congrArg Host.Outcome.next ((if_neg fun h => ?_).trans (mxBegin_goes htags hperm hbad hcompute))
    rw [hidle] at h
    cases h
  case ends =>
    intro s0 s' i run o s hrun hinstr hpeer hout hrem hruns htile hwrites
    have hat : atMx s = s := rfl
    have hexec : exec .mxStepEnd s0 = execMxStepEnd s := rfl
    exact hexec.trans (execMxStepEnd_writes hat hrun hinstr hpeer hout hrem hruns htile hwrites)
  case missed =>
    intro s0 i run s tid hhead hstarted hstamp hout hdone hpeer hclock hstrict hmiss
    have hat : atMx s = s := rfl
    have hexec : exec .schedMiss s0 = execSchedMiss s := rfl
    exact hexec.trans (execSchedMiss_faults hat hhead hpeer hstarted hstamp hout hdone hclock hstrict hmiss)
  case moves =>
    intro s i cur r head p q addr e w s' own sib t hne hcluster hlaunch hrun hchain hpq haway hstop hownaway hpeer hownstop
      hownclock hclock hnext hhead hcur hread hdecode hfields hrl hwf heng hshare hresolve
    exact execMxRelocate_moves rfl rfl hne hcluster hlaunch hrun hchain hpq haway hstop hhead hpeer hownaway hownstop
      hownclock hclock hnext hcur hread hdecode hfields hrl hwf heng hshare hresolve
  case element =>
    refine ⟨fun y z => ⟨mulNum_exact, fun n => mulNum_inf_zero n⟩, fun c a b _ => ?_⟩
    exact ⟨mmaElem_nan_operand, fun hnan => ⟨mmaElem_invalid hnan, fun neg => mmaElem_inf hnan⟩,
      fun h => ⟨mmaElem_rounds h, mmaElem_zero h⟩⟩
  case outcomes =>
    intro s s' tid r run o hview hlen
    refine ⟨?mma, ?smxu, ?smxm, ⟨?smxf, ?acst⟩, ?acld, ?aczr⟩
    case mma =>
      intro i hi h0 h1 hm hcompute
      rcases List.mem_cons.mp hi with rfl | hi
      · rw [mxCompute_mma hview] at hcompute
        cases hcompute
        rw [if_pos rfl]
        exact ⟨rfl, rfl, mmaStep_pops _ r _ 128, mmaStep_rows _ _ r (le_refl _) h0 h1 (hlen _)⟩
      · obtain rfl := List.mem_singleton.mp hi
        rw [mxCompute_mmai hview] at hcompute
        cases hcompute
        rw [if_neg nofun]
        exact ⟨rfl, rfl, mmaStep_pops _ r _ _, mmaStep_rows _ _ r hm h0 h1 (hlen _)⟩
    case smxu =>
      intro hcompute
      obtain ⟨mask, hmask, rfl⟩ := mxCompute_smxu hview hcompute
      exact ⟨mask, hmask, rfl, smxuStep_tile _ r hlen _ _ mask, smxuStep_ms _ r hlen _ _ mask,
        smxuStep_ls _ r hlen _ _ mask, smxuStep_rows _ r hlen _ _ mask⟩
    case smxm =>
      intro hcompute
      rw [mxCompute_smxm hview, smxmStep_eq _ r hlen] at hcompute
      cases hcompute
      exact ⟨rfl, rfl, fun y => mem_tab, fun y => mem_tab, fun y => mem_tab, fun y => mem_tab⟩
    case smxf =>
      intro hcompute
      rw [mxCompute_smxf hview] at hcompute
      cases hcompute
      exact ⟨rfl, rfl, smxfStep_fs _ r run _, fun k => smxfStep_emptySet _ r run _, smxfStep_mem _ r hlen run _⟩
    case acst =>
      intro hcompute
      rw [mxCompute_acst hview] at hcompute
      cases hcompute
      exact ⟨rfl, rfl, acstStep_mem _ r run _⟩
    case acld =>
      intro hcompute
      obtain ⟨l, s1, hs', hread, rfl⟩ := mxCompute_acld hcompute
      exact ⟨l, s1, hs', hread, rfl, acldStep_rows r _⟩
    case aczr =>
      intro hcompute
      have hstep : mxCompute s tid (.aczr r) run = .ok (aczrStep r, s) := rfl
      rw [hstep, aczrStep_eq] at hcompute
      cases hcompute
      exact ⟨rfl, rfl, fun k => getLsbD_two_pow, fun y => mem_tab, fun y => mem_tab, fun y => mem_tab, fun y => mem_tab⟩

end Sys2Proof.Proofs
end

section
/-! SUPPORT. What an entry does with the packet that meets it (R241, R248 to R260, R391): each op's taking of a packet said
once, and O39. -/

namespace Sys2Proof.Proofs

open Sys2Proof.Machine Sys2Proof.Laws

/-! ## What a packet that meets an entry comes to (R241, R391) -/

/-- Each flow op of R102 is the one operation of an arriving packet. -/
theorem exec_flowOps {op : Nat} {i : Instr} {e : FlowEntry} (h : (op, i) ∈ flowOps e) (s : State) :
    exec i s = flowOp op e s := by
  simp only [flowOps, List.mem_cons, Prod.mk.injEq, List.not_mem_nil, or_false] at h
  rcases h with ⟨rfl, rfl⟩ | ⟨rfl, rfl⟩ | ⟨rfl, rfl⟩ | ⟨rfl, rfl⟩ | ⟨rfl, rfl⟩ | ⟨rfl, rfl⟩ | ⟨rfl, rfl⟩ | ⟨rfl, rfl⟩ |
    ⟨rfl, rfl⟩ | ⟨rfl, rfl⟩ | ⟨rfl, rfl⟩ | ⟨rfl, rfl⟩ | ⟨rfl, rfl⟩ | ⟨rfl, rfl⟩ | ⟨rfl, rfl⟩ <;> rfl

/-- An entry whose task is resident, where it delivers, does not wait for one (R270). -/
theorem not_away {s : State} {r : Nat} {x : Entry} (h : flowDelivers x.e = true → s.resident r x = true) :
    (flowDelivers x.e && !s.resident r x) = false := by
  cases hd : flowDelivers x.e
  · rfl
  · rw [h hd]
    rfl

/-- A drove packet goes to the reorder store of an entry that delivers, and of hold (R391). -/
theorem goes_to_store {p : Packet} {x : Entry} (ho : p.o = true) (hd : flowDelivers x.e = true ∨ x.op = 11) :
    (p.o && (flowDelivers x.e || x.op == 11)) = true := by
  simpa [ho] using hd

section
variable {s : State} {p : Packet} {x : Entry} {i : Instr}
  (hm : s.meet = .entry p x) (hi : (x.op, i) ∈ flowOps x.e)
include hm hi

/-- A packet that is not for the reorder store comes to what its op makes of it. -/
theorem exec_entry (ho : p.o = true → flowDelivers x.e = false ∧ x.op ≠ 11) :
    exec i s = .next (flowDone s s.focus.router p.part s.focus.port p (opStep s s.focus.router x s.focus.port p)) := by
  have hstore : (p.o && (flowDelivers x.e || x.op == 11)) = false := by
    cases h : p.o
    · rfl
    · obtain ⟨hd, h11⟩ := ho h
      simp [hd, h11]
  rw [exec_flowOps hi, flowOp, hm]
  simp [hstore]

/-- A packet whose op goes on leaves its channel. -/
theorem exec_entry_ok (ho : p.o = true → flowDelivers x.e = false ∧ x.op ≠ 11) {a : State}
    (ha : opStep s s.focus.router x s.focus.port p = .ok a) :
    exec i s = .next { a with focus := s.focus }.takePacket := by
  rw [exec_entry hm hi ho, ha, flowDone]

/-- A packet whose op changes its entry and nothing more leaves its channel. -/
theorem exec_entry_onEntry (ho : p.o = true → flowDelivers x.e = false ∧ x.op ≠ 11) {f : Entry → Entry}
    (ha : opStep s s.focus.router x s.focus.port p =
      .ok (s.onEntry s.focus.router x.e.part.toNat x.e.fid.toNat f)) :
    exec i s = .next (s.onEntry s.focus.router x.e.part.toNat x.e.fid.toNat f).takePacket :=
  exec_entry_ok hm hi ho ha

/-- An entry that delivers takes nothing while no task of its launch is resident (R270). -/
theorem exec_entry_away (hd : flowDelivers x.e = true) (hr : s.resident s.focus.router x = false) :
    exec i s = .next s := by
  rw [exec_flowOps hi, flowOp, hm]
  simp [hd, hr, opStep, flowDone]

section
variable (ho : p.o = true) (hd : flowDelivers x.e = true ∨ x.op = 11)
  (hr : flowDelivers x.e = true → s.resident s.focus.router x = true)
include ho hd hr

/-- Where the store has room for it, a drove packet enters it (R391). -/
theorem exec_entry_reorders {b : Bool} (hb : s.droveRoom p = some b) :
    exec i s = .next (s.onEntry s.focus.router x.e.part.toNat x.e.fid.toNat fun y =>
      { y with reorder := y.reorder ++ [⟨s.focus.port, p, 0, b⟩] }).takePacket := by
  rw [exec_flowOps hi, flowOp, hm]
  simp [goes_to_store ho hd, not_away hr, hb]

theorem exec_entry_noRoom (hb : s.droveRoom p = none) : exec i s = .next s := by
  rw [exec_flowOps hi, flowOp, hm]
  simp [goes_to_store ho hd, not_away hr, hb]

end

end

/-! ## The step of each op (R252 to R260) -/

section
variable {s : State} {r : Nat} {x : Entry} {port : Nat} {p : Packet}

section
variable (hr : flowDelivers x.e = true → s.resident r x = true)
include hr

theorem opStep_pass (hop : x.op = 1 ∨ x.op = 2) : opStep s r x port p = passStep s r x port p := by
  rcases hop with hop | hop <;> simp [opStep, not_away hr, hop]

theorem opStep_combine (hlo : 3 ≤ x.op) (hhi : x.op ≤ 9) : opStep s r x port p = combineStep s r x port p := by
  have hop : x.op = 3 ∨ x.op = 4 ∨ x.op = 5 ∨ x.op = 6 ∨ x.op = 7 ∨ x.op = 8 ∨ x.op = 9 := by omega
  rcases hop with hop | hop | hop | hop | hop | hop | hop <;> simp [opStep, not_away hr, hop]

theorem opStep_trn (hop : x.op = 10) : opStep s r x port p = trnStep s r x port p := by
  simp [opStep, not_away hr, hop]

theorem opStep_hold (hop : x.op = 11) : opStep s r x port p = holdStep s r x port p := by
  simp [opStep, not_away hr, hop]

theorem opStep_deliver {kind : Nat} (hk : kind < 3) (hop : x.op = 12 + kind) :
    opStep s r x port p = deliverStep kind s r x port p := by
  have hkind : kind = 0 ∨ kind = 1 ∨ kind = 2 := by omega
  rcases hkind with rfl | rfl | rfl <;> simp [opStep, not_away hr, hop]

theorem opStep_drop (hop : x.op = 15) : opStep s r x port p =
    .ok (s.onEntry r x.e.part.toNat x.e.fid.toNat fun y => y.take port true) := by
  simp [opStep, not_away hr, hop, dropStep]

end

section
variable (hpidx : p.pidx.toNat = x.taken port % flowPackets x.e)
  (hlen : p.drp = false → x.minLen ≤ p.len ∧
    ∀ h ∈ x.held, h.num = x.taken port → h.pkt.drp = false → h.pkt.len = p.len)
  (hacc : x.accepts (x.taken port) ((ordList x.e.ord).findIdx (· == port) :: x.slotsOf (x.taken port)) = true)
include hpidx hlen hacc

/-- An operand in sequence, of its index's length, for which there are slots, is held, or makes its index's result with
those held before it (R248 to R251). -/
theorem combineStep_ok :
    let num := x.taken port
    let ord := ordList x.e.ord
    let slot := ord.findIdx (· == port)
    let come := slot :: x.slotsOf num
    let held : List Held := x.held ++ [⟨num, slot, port, 2 * s.dcc, p⟩]
    let ops := (List.range ord.length).filterMap fun k => held.find? fun h => h.num == num && h.slot == k
    combineStep s r x port p = .ok (s.onEntry r x.e.part.toNat x.e.fid.toNat fun y =>
      if come.length < ord.length then { y.take port p.drp with held := held }
      else { y.take port p.drp with
        held := held.filter (·.num != num), ready := y.ready ++ [readyOf num (x.result ops) ops],
        waited := if num = x.low then 0 else y.waited }) := by
  intro num ord slot come held ops
  have hseq : ¬ p.pidx.toNat ≠ x.taken port % flowPackets x.e := not_not_intro hpidx
  have hfit : ¬ (!p.drp && (p.len < x.minLen ||
      x.held.any fun h => h.num == x.taken port && !h.pkt.drp && h.pkt.len != p.len)) = true := by
    simp only [Bool.and_eq_true, Bool.or_eq_true, Bool.not_eq_true', decide_eq_true_eq, List.any_eq_true, beq_iff_eq,
      bne_iff_ne, not_and, not_or, not_lt, not_exists]
    exact fun hd => ⟨(hlen hd).1, fun h hh hn => not_not_intro ((hlen hd).2 h hh hn.1 hn.2)⟩
  have hslots : ¬ (!x.accepts num come) = true := by
    rw [hacc]
    nofun
  rw [combineStep, if_neg hseq, if_neg hfit]
  exact if_neg hslots

end

/-- A block's packet in sequence, for which there are slots, is held, or makes the block's 64 outputs (R258). -/
theorem trnStep_ok (hpidx : p.pidx.toNat = x.taken port % x.e.npkt.toNat) (hdrp : p.drp = false) (hlen : p.len = 256)
    (hroom : x.held.length + x.e.npkt.toNat * ((x.ready.length + 63) / 64) < x.e.nslot.toNat + 1) :
    let held : List Held := x.held ++ [⟨x.taken port, 0, port, 2 * s.dcc, p⟩]
    trnStep s r x port p = .ok (s.onEntry r x.e.part.toNat x.e.fid.toNat fun y =>
      if held.length < x.e.npkt.toNat then { y.take port false with held := held }
      else { y.take port false with
        held := [], ready := y.ready ++ trnOutputs (x.outNum + x.ready.length) held }) := by
  have hsize : ¬ (p.drp = true ∨ p.len ≠ 256) := by simp [hdrp, hlen]
  rw [trnStep, if_neg (not_not_intro hpidx), if_neg hsize, if_neg (not_le.mpr hroom)]
  rfl

theorem passStep_ok (hpidx : x.e.npkt = 0#16 ∨ p.pidx.toNat = x.taken port % x.e.npkt.toNat) {a : State}
    (ha : sendResult s r x true p port port 0 = .ok a) :
    passStep s r x port p = .ok (a.onEntry r x.e.part.toNat x.e.fid.toNat fun y => y.take port p.drp) := by
  have hseq : ¬ (x.e.npkt ≠ 0#16 ∧ p.pidx.toNat ≠ x.taken port % x.e.npkt.toNat) := fun h =>
    hpidx.elim h.1 h.2
  rw [passStep, if_neg hseq, ha]

theorem deliverStep_ok {kind : Nat} {a : State} (ha : deliverPacket s r x kind p = .ok a) :
    deliverStep kind s r x port p = .ok (traceResult (a.onEntry r x.e.part.toNat x.e.fid.toNat fun y =>
      { y.take port p.drp with done := y.done + 1 }) r x p.pidx.toNat port port 0) := by
  rw [deliverStep, ha]

theorem holdStep_stores (hsig : p.sig = false) (hroom : x.store.length < x.e.nslot.toNat + 1) :
    holdStep s r x port p = .ok (s.onEntry r x.e.part.toNat x.e.fid.toNat fun y =>
      { y.take port p.drp with store := y.store ++ [(port, p)] }) := by
  rw [holdStep, hsig]
  exact if_neg (not_le.mpr hroom)

/-- A signal releases what is held, then goes on itself (R259). -/
theorem holdStep_releases (hsig : p.sig = true) {a b : State} {x' : Entry}
    (ha : releaseHeld r x.e.part.toNat x.e.fid.toNat port x.store s = .ok a)
    (hx : a.entry r x.e.part.toNat x.e.fid.toNat = some x') (hb : signalStep a r x' port p = .ok b) :
    holdStep s r x port p = .ok b := by
  simp [holdStep, hsig, ha, hx, hb]

end

/-! ## O39 -/

/-- Settles O39: each op's step is read off its own equation, and the shared rule of an arriving packet lets the packet
leave its channel. -/
theorem flowEntriesTakeTheirPackets : Obligations.FlowEntriesTakeTheirPackets := by
  intro s p x e hm he
  subst he
  intro r port own num here
  refine ⟨fun hhere ho => ⟨?drop, ?combine, ?trn, ?pass, ?deliver⟩, fun hhere hop ho => ?hold,
    fun ho hd hhere i hi => ⟨fun b => exec_entry_reorders hm hi ho hd hhere, exec_entry_noRoom hm hi ho hd hhere⟩,
    fun haway i hi => ?away⟩
  case drop =>
    intro hop
    exact exec_entry_onEntry hm (by simp [hop, flowOps]) (fun h => ⟨ho h, by omega⟩) (opStep_drop hhere hop)
  case combine =>
    intro i hi hlo hhi ord slot come held hpidx hlen hacc
    have hstep := (opStep_combine hhere hlo hhi).trans (combineStep_ok hpidx hlen hacc)
    have hnot : p.o = true → flowDelivers x.e = false ∧ x.op ≠ 11 := fun h => ⟨ho h, by omega⟩
    exact ⟨fun hcome => exec_entry_onEntry hm hi hnot
        (hstep.trans (congrArg FlowAns.ok (congrArg (s.onEntry _ _ _) (funext fun y => if_pos hcome)))),
      fun hcome => exec_entry_onEntry hm hi hnot
        (hstep.trans (congrArg FlowAns.ok (congrArg (s.onEntry _ _ _) (funext fun y => if_neg (Nat.not_lt.mpr hcome)))))⟩
  case trn =>
    intro hop hpidx hdrp hlen hroom held
    exact exec_entry_onEntry hm (by simp [hop, flowOps]) (fun h => ⟨ho h, by omega⟩)
      ((opStep_trn hhere hop).trans (trnStep_ok hpidx hdrp hlen hroom))
  case pass =>
    intro hop hpidx a ha
    refine exec_entry_ok hm ?_ (fun h => ⟨ho h, by omega⟩) ((opStep_pass hhere hop).trans (passStep_ok hpidx ha))
    rcases hop with hop | hop <;> simp [hop, flowOps]
  case deliver =>
    intro kind i hi hop a ha
    have hk : kind < 3 ∧ (12 + kind, i) ∈ flowOps x.e := by
      simp only [List.mem_cons, Prod.mk.injEq, List.not_mem_nil, or_false] at hi
      rcases hi with ⟨rfl, rfl⟩ | ⟨rfl, rfl⟩ | ⟨rfl, rfl⟩ <;> simp [flowOps]
    exact exec_entry_ok hm (hop ▸ hk.2) (fun h => ⟨ho h, by omega⟩)
      ((opStep_deliver hhere hk.1 hop).trans (deliverStep_ok ha))
  case hold =>
    have hi : (x.op, Instr.hold x.e) ∈ flowOps x.e := by simp [hop, flowOps]
    have hnot : p.o = true → flowDelivers x.e = false ∧ x.op ≠ 11 := fun h => by rw [ho] at h; cases h
    exact ⟨fun hsig hroom =>
        exec_entry_onEntry hm hi hnot ((opStep_hold hhere hop).trans (holdStep_stores hsig hroom)),
      fun hsig a b x' ha hx hb =>
        exec_entry_ok hm hi hnot ((opStep_hold hhere hop).trans (holdStep_releases hsig ha hx hb))⟩
  case away =>
    obtain ⟨hd, hres⟩ := Classical.not_imp.mp haway
    exact exec_entry_away hm hi hd (Bool.eq_false_of_not_eq_true hres)

end Sys2Proof.Proofs
end

section
/-! SUPPORT. Deliveries into the scratchpad (R243, R244, R246, R260): the words written, what counting changes, and O40. -/

namespace Sys2Proof.Proofs

open Sys2Proof.Machine Sys2Proof.Laws

/-! ## Memory that agrees (R8) -/

/-- Bytes read alike where each reads alike. -/
theorem readN_congr {m m' : Mem} {a n : Nat} (h : ∀ i, i < n → m'.get (a + i) = m.get (a + i)) :
    Mem.readN m' a n = Mem.readN m a n := by
  rw [readN_eq, readN_eq, readBytes_eq, readBytes_eq]
  exact congrArg natOfBytes (List.map_congr_left fun i hi => h i (List.mem_range.mp hi))

theorem readN_sameBut {m m' : Mem} {a n b k : Nat} (h : Mem.sameBut a n m m') (hapart : b + k ≤ a ∨ a + n ≤ b) :
    Mem.readN m' b k = Mem.readN m b k :=
  readN_congr fun i hi => h _ (by omega)

theorem readN_write_same {m : Mem} (hm : m.wf = true) (a : Nat) {n v : Nat} (hv : v < 256 ^ n) :
    Mem.readN (m.writeBytes a (bytesOf n v)) a n = v := by
  have hread := readBytes_writeBytes_same hm a (bytesOf n v)
  rw [bytesOf_length] at hread
  rw [readN_eq, hread, natOfBytes_bytesOf, Nat.mod_eq_of_lt hv]

/-! ## The words of a delivery (R243, R260) -/

section
variable (kind : Nat)

/-- What a word of a delivery leaves in the scratchpad where it stands. -/
def delivered (m : Mem) (a : Nat) (w : W32) : W32 := deliverWord kind (BitVec.ofNat 32 (Mem.readN m a 4)) w

theorem delivered_sameBut {m m' : Mem} {a n b : Nat} (h : Mem.sameBut a n m m') (hapart : b + 4 ≤ a ∨ a + n ≤ b)
    (w : W32) : delivered kind m' b w = delivered kind m b w := by
  rw [delivered, readN_sameBut h hapart, delivered]

/-- The first word of a delivery in range is written whole. -/
theorem deliverSp_cons {w : W32} {ws : List W32} {a : Nat} {t : Tile} (h : a + 4 * (w :: ws).length ≤ 0x180000) :
    (deliverSp kind (w :: ws) a t).1 =
      (deliverSp kind ws (a + 4) (t.spWrite a (bytesOf 4 (delivered kind t.sp a w).toNat))).1 := by
  rw [List.length_cons] at h
  have hlen : (bytesOf 4 (delivered kind t.sp a w).toNat).length ≤ 0x180000 - a := by
    rw [bytesOf_length]
    omega
  rw [← List.take_of_length_le hlen, deliverSp, if_pos (by omega)]
  rfl

theorem deliverSp_fc (ws : List W32) (a : Nat) (t : Tile) : (deliverSp kind ws a t).1.fc = t.fc := by
  induction ws generalizing a t with
  | nil => rfl
  | cons w ws ih =>
    rw [deliverSp]
    split
    · exact ih _ _
    · exact ih _ _

theorem deliverSp_sameBut {ws : List W32} {a : Nat} (t : Tile) (h : a + 4 * ws.length ≤ 0x180000) :
    Mem.sameBut a (4 * ws.length) t.sp (deliverSp kind ws a t).1.sp := by
  induction ws generalizing a t with
  | nil => exact fun _ _ => rfl
  | cons w ws ih =>
    rw [deliverSp_cons kind h]
    rw [List.length_cons] at h ⊢
    intro x hx
    rw [ih _ (by omega) x (by omega)]
    exact mem_get_writeBytes_out _ _ _ (by rw [bytesOf_length]; omega)

theorem deliverSp_words {ws : List W32} {a : Nat} {t : Tile} (hwf : t.sp.wf = true) (h : a + 4 * ws.length ≤ 0x180000)
    {k : Nat} (hk : k < ws.length) :
    Mem.readN (deliverSp kind ws a t).1.sp (a + 4 * k) 4 = (delivered kind t.sp (a + 4 * k) (ws.getD k 0)).toNat := by
  induction ws generalizing a t k with
  | nil => cases hk
  | cons w ws ih =>
    have hrest : a + 4 + 4 * ws.length ≤ 0x180000 := by
      rw [List.length_cons] at h
      omega
    rw [deliverSp_cons kind h]
    cases k with
    | zero =>
      refine (readN_sameBut (deliverSp_sameBut kind _ hrest) (.inl (le_refl _))).trans ?_
      exact readN_write_same hwf a (delivered kind t.sp a w).isLt
    | succ k =>
      have hfirst := (write_bytes hwf a 4 (delivered kind t.sp a w).toNat).1
      have hword := ih (t := t.spWrite a (bytesOf 4 (delivered kind t.sp a w).toNat)) (mem_wf_writeBytes hwf a _) hrest
        (Nat.lt_of_succ_lt_succ hk)
      rw [show a + 4 * (k + 1) = a + 4 + 4 * k by omega, hword, List.getD_cons_succ]
      exact congrArg BitVec.toNat (delivered_sameBut kind hfirst (by omega) _)

end

/-! ## A delivery and its count (R243, R246) -/

/-- Nothing of the package but one place, its tile and its router, has changed. -/
def OnlyPlace (r : Nat) (s t : State) : Prop :=
  t = { s with tiles := t.tiles, routers := t.routers } ∧ ∀ k, k ≠ r → t.tile k = s.tile k ∧ t.router k = s.router k

theorem OnlyPlace.rfl {r : Nat} {s : State} : OnlyPlace r s s := ⟨Eq.refl s, fun _ _ => ⟨Eq.refl _, Eq.refl _⟩⟩

theorem OnlyPlace.trans {r : Nat} {s t u : State} (h : OnlyPlace r s t) (h' : OnlyPlace r t u) : OnlyPlace r s u := by
  obtain ⟨ht, hk⟩ := h
  obtain ⟨hu, hk'⟩ := h'
  refine ⟨hu.trans (congrArg (fun v : State => { v with tiles := u.tiles, routers := u.routers }) ht), fun k hne => ?_⟩
  exact ⟨(hk' k hne).1.trans (hk k hne).1, (hk' k hne).2.trans (hk k hne).2⟩

theorem onlyPlace_setTile (s : State) (r : Nat) (t : Tile) : OnlyPlace r s (s.setTile r t) :=
  ⟨rfl, fun _ h => ⟨tile_setTile_ne s t h, rfl⟩⟩

theorem onlyPlace_onEntry (s : State) (r part fid : Nat) (f : Entry → Entry) : OnlyPlace r s (s.onEntry r part fid f) :=
  ⟨rfl, fun _ h => ⟨rfl, router_setRouter_ne s _ h⟩⟩

section
variable {s : State} {r kind ofs : Nat} {x : Entry} {ws : List W32} (hwin : x.e.dwin = 0#2)
  (hend : x.e.daddr.toNat + ofs + 4 * ws.length ≤ 0x180000)
  (hregion : 0 < 4 * ws.length → (s.tile r).regionFault true (x.e.daddr.toNat + ofs) (4 * ws.length) = false)
  (hbad : kind ≠ 0 → (s.tile r).spBad (x.e.daddr.toNat + ofs) (4 * ws.length) = false)
include hwin hend hregion hbad

/-- A delivery into the scratchpad that may be made writes its words there. -/
theorem deliverBytes_scratchpad : ∃ (a : State) (nf : Bool),
    deliverBytes s r x kind ofs ws = (.ok a, nf) ∧ OnlyPlace r s a ∧
    a.tile r = (deliverSp kind ws (x.e.daddr.toNat + ofs) (s.tile r)).1 := by
  cases ws with
  | nil => exact ⟨s, false, rfl, .rfl, rfl⟩
  | cons w ws =>
    have hmin : min (4 * (w :: ws).length) (0x180000 - (x.e.daddr.toNat + ofs)) = 4 * (w :: ws).length := by omega
    have hregion := hregion (by simp)
    have hecc : ¬ (kind ≠ 0 ∧ (s.tile r).spBad (x.e.daddr.toNat + ofs) (4 * (w :: ws).length) = true) := by
      rintro ⟨hk, hb⟩
      rw [hbad hk] at hb
      cases hb
    let y := deliverSp kind (w :: ws) (x.e.daddr.toNat + ofs) (s.tile r)
    refine ⟨s.setTile r y.1, y.2, ?_, onlyPlace_setTile s r y.1, tile_setTile s r y.1⟩
    simp only [deliverBytes, List.isEmpty_cons, hwin, hmin, hregion, hecc, hend, if_true, if_false, Bool.false_eq_true,
      and_false, y]

end

/-- The packets of a contribution; each counts alone where an fwd or dup entry names no number (R246). -/
def countSize (x : Entry) : Nat := if (x.op = 1 ∨ x.op = 2) ∧ x.e.npkt = 0#16 then 1 else flowPackets x.e

/-- Counting a delivery leaves the scratchpads alone; the last of a contribution counts at the tile (R246). -/
theorem countDelivery_mesh (s : State) {r : Nat} (x : Entry) (nf : Bool) (hr : isEdge r = false) :
    OnlyPlace r s (countDelivery s r x nf) ∧ ((countDelivery s r x nf).tile r).sp = (s.tile r).sp ∧
    ((countDelivery s r x nf).tile r).fc = if x.count + 1 < countSize x then (s.tile r).fc
      else SMap.set 0#32 (s.tile r).fc x.e.fc.toNat ((s.tile r).fcReg x.e.fc.toNat + 1) := by
  have hsize : (if ((x.op == 1 || x.op == 2) && x.e.npkt == 0#16) = true then 1 else flowPackets x.e) = countSize x := by
    simp only [countSize, Bool.and_eq_true, Bool.or_eq_true, beq_iff_eq]
  rw [countDelivery]
  simp only [hsize, hr, Bool.not_false, Bool.and_true, decide_eq_true_eq, ge_iff_le]
  by_cases hfull : countSize x ≤ x.count + 1
  · rw [if_pos hfull, if_neg (Nat.not_lt.mpr hfull)]
    refine ⟨(onlyPlace_onEntry s r _ _ _).trans (onlyPlace_setTile _ r _), ?_, ?_⟩
    · rw [tile_onTile]
      rfl
    · rw [tile_onTile]
      rfl
  · rw [if_neg hfull, if_pos (Nat.not_le.mp hfull)]
    exact ⟨onlyPlace_onEntry s r _ _ _, rfl, rfl⟩

/-- A delivery that may be made and is written is counted. -/
theorem deliverPacket_ok {s a : State} {r kind : Nat} {x : Entry} {p : Packet} {nf : Bool}
    (hd : flowDelivers x.e = true) (hres : s.resident r x = true)
    (hbytes : deliverBytes s r x kind p.ofs.toNat (wordsOf p.data) = (.ok a, nf)) :
    deliverPacket s r x kind p = .ok ((countDelivery a r x (p.nf || nf)).onEntry r x.e.part.toNat x.e.fid.toNat
      fun y => { y with nf := y.nf || (p.nf || nf) }) := by
  simp [deliverPacket, hd, hres, hbytes]

/-! ## O40 -/

/-- The kinds of delivery: a plain one, fadd and iadd (R260). -/
theorem deliverWord_eq {kind : Nat} (hk : kind < 3) (old w : W32) : deliverWord kind old w =
    if kind = 0 then w else if kind = 1 then (fadd 0 0#32 old w).1 else old + w := by
  have hkind : kind = 0 ∨ kind = 1 ∨ kind = 2 := by omega
  rcases hkind with rfl | rfl | rfl <;> rfl

/-- Settles O40: the words are written one behind another, by induction on them, and counting leaves the scratchpad as it
stands. -/
theorem deliveriesWriteTheScratchpad : Obligations.DeliveriesWriteTheScratchpad := by
  intro s r kind x p hk hwin hr hres hwf ws at' n m size hend hregion hbad
  obtain ⟨a, nf, hbytes, ha, htile⟩ := deliverBytes_scratchpad hwin hend hregion hbad
  obtain ⟨hcount, hsp, hfc⟩ := countDelivery_mesh a x (p.nf || nf) hr
  have hd : flowDelivers x.e = true := by rw [flowDelivers, hwin]; rfl
  rw [htile] at hsp hfc
  obtain ⟨heq, hothers⟩ := (ha.trans hcount).trans (onlyPlace_onEntry _ r x.e.part.toNat x.e.fid.toNat
    fun y => { y with nf := y.nf || (p.nf || nf) })
  refine ⟨_, deliverPacket_ok hd hres hbytes, heq, hothers, ?bytes, fun j hj => ?word, ?count⟩
  case bytes =>
    intro b hb
    exact (congrArg (Mem.get · b) hsp).trans (deliverSp_sameBut kind (s.tile r) hend b hb)
  case word =>
    refine ((congrArg (Mem.readN · (at' + 4 * j) 4) hsp).trans (deliverSp_words kind hwf hend hj)).trans ?_
    exact congrArg BitVec.toNat (deliverWord_eq hk _ _)
  case count =>
    rw [Tile.fcReg, deliverSp_fc] at hfc
    exact hfc

end Sys2Proof.Proofs
end

section
/-! SUPPORT. The canonical form of memories (R272), carried through folds, choices and answers, and through the lists of tiles
and of saved tasks. The lemma about a function `f` of the model is `memOk_f` where `f` changes a state, `tileOk_f` where it
changes a tile, `flowOk_f` where it answers a packet, and `outOk_f` where it is a step. -/

namespace Sys2Proof.Proofs

open Sys2Proof.Machine Sys2Proof.Laws

/-- A step that answers leaves memory canonical. -/
def OutOk : Out → Prop
  | .next t => MemOk t
  | _ => True

/-- What an operation that may refuse hands on, where it does not. -/
def ExceptOk {ε α : Type} (P : α → Prop) : Except ε α → Prop
  | .ok a => P a
  | .error _ => True

/-- What an operation that may be without effect hands on, where it has one. -/
def OptionOk {α : Type} (P : α → Prop) : Option α → Prop
  | some a => P a
  | none => True

/-- Whatever a flow entry answers to a packet, the state it leaves has its memory canonical. -/
def FlowOk : FlowAns → Prop
  | .wait s | .fault _ _ s | .raised s | .ecc s | .ok s => MemOk s

theorem of_flowOk_wait {x : FlowAns} {s : State} (e : x = .wait s) (h : FlowOk x) : MemOk s := by subst e; exact h

theorem of_flowOk_fault {x : FlowAns} {s : State} {a b : Nat} (e : x = .fault a b s) (h : FlowOk x) :
    MemOk s := by subst e; exact h

theorem of_flowOk_raised {x : FlowAns} {s : State} (e : x = .raised s) (h : FlowOk x) : MemOk s := by subst e; exact h

theorem of_flowOk_ecc {x : FlowAns} {s : State} (e : x = .ecc s) (h : FlowOk x) : MemOk s := by subst e; exact h

theorem of_flowOk_ok {x : FlowAns} {s : State} (e : x = .ok s) (h : FlowOk x) : MemOk s := by subst e; exact h

theorem of_optionOk {α : Type} {P : α → Prop} {x : Option α} {a : α} (e : x = some a) (h : OptionOk P x) : P a := by
  subst e; exact h

theorem flowOk_ite {s t : FlowAns} {c : Prop} [Decidable c] (hs : FlowOk s) (ht : FlowOk t) :
    FlowOk (if c then s else t) := by
  split <;> assumption

theorem memOk_ite {s t : State} {c : Prop} [Decidable c] (hs : MemOk s) (ht : MemOk t) :
    MemOk (if c then s else t) := by
  split <;> assumption

theorem tileOk_ite {s t : Tile} {c : Prop} [Decidable c] (hs : s.memOk) (ht : t.memOk) :
    (if c then s else t).memOk := by
  split <;> assumption

theorem outOk_ite {s t : Out} {c : Prop} [Decidable c] (hs : OutOk s) (ht : OutOk t) :
    OutOk (if c then s else t) := by
  split <;> assumption

theorem memOk_foldl {α : Type} {f : State → α → State} {l : List α} {s : State} (hf : ∀ s x, MemOk s → MemOk (f s x))
    (h : MemOk s) : MemOk (l.foldl f s) := by
  induction l generalizing s with
  | nil => exact h
  | cons x l ih => exact ih (hf s x h)

theorem tileOk_foldl {α : Type} {f : Tile → α → Tile} {l : List α} {t : Tile} (hf : ∀ t x, t.memOk → (f t x).memOk)
    (h : t.memOk) : (l.foldl f t).memOk := by
  induction l generalizing t with
  | nil => exact h
  | cons x l ih => exact ih (hf t x h)

theorem memOk_of_snd {α : Type} {x : α × State} {a : α} {s : State} (e : x = (a, s)) (h : MemOk x.2) : MemOk s := by
  subst e; exact h

theorem memOk_of_ok {ε : Type} {x : Except ε State} {s : State} (e : x = .ok s) (h : ExceptOk MemOk x) : MemOk s := by
  subst e; exact h

theorem memOk_of_okSnd {ε α : Type} {x : Except ε (α × State)} {a : α} {s : State} (e : x = .ok (a, s))
    (h : ExceptOk (fun x => MemOk x.2) x) : MemOk s := by
  subst e; exact h

/-- A state whose memories, tiles and saved tasks are those of another. -/
theorem memOk_upd {s t : State} (h : MemOk s) (h0 : t.mem0 = s.mem0) (h1 : t.mem1 = s.mem1) (h2 : t.mem2 = s.mem2)
    (hh : t.hostMem = s.hostMem) (ht : t.tiles = s.tiles) (hs : t.saves = s.saves) : MemOk t := by
  unfold MemOk
  rwa [h0, h1, h2, hh, ht, hs]

/-- A tile whose scratchpad and shadow store are those of another. -/
theorem tileOk_upd {t u : Tile} (h : t.memOk) (h0 : u.sp = t.sp) (h1 : u.shadowStore = t.shadowStore) : u.memOk := by
  unfold Tile.memOk
  rwa [h0, h1]

theorem of_exceptOk {ε α : Type} {P : α → Prop} {x : Except ε α} {a : α} (e : x = .ok a) (h : ExceptOk P x) :
    P a := by
  subst e; exact h

theorem smapPut_all {α : Type} {P : α → Prop} {m : SMap α} {k : Nat} {v : α} (hm : ∀ x ∈ m, P x.2) (hv : P v) :
    ∀ x ∈ SMap.put m k v, P x.2 := by
  induction m with
  | nil => simpa [SMap.put] using hv
  | cons y m ih =>
    obtain ⟨a, w⟩ := y
    have hw : P w := hm (a, w) List.mem_cons_self
    have hm' : ∀ x ∈ m, P x.2 := fun x hx => hm x (List.mem_cons_of_mem _ hx)
    simp only [SMap.put]
    split
    · exact List.forall_mem_cons.mpr ⟨hv, hm⟩
    · split
      · exact List.forall_mem_cons.mpr ⟨hv, hm'⟩
      · exact List.forall_mem_cons.mpr ⟨hw, ih hm'⟩

theorem smapFind_all {α : Type} {P : α → Prop} {m : SMap α} {k : Nat} {v : α} (hm : ∀ x ∈ m, P x.2)
    (hv : SMap.find m k = some v) : P v := by
  induction m with
  | nil => simp [SMap.find] at hv
  | cons y m ih =>
    obtain ⟨a, w⟩ := y
    simp only [SMap.find] at hv
    split at hv
    · cases hv; exact hm (a, v) List.mem_cons_self
    · exact ih (fun x hx => hm x (List.mem_cons_of_mem _ hx)) hv

theorem tileOk_reset : Tile.reset.memOk := ⟨rfl, rfl⟩

theorem tileOk_tile {s : State} {k} (h : MemOk s) : (s.tile k).memOk := by
  obtain ⟨_, _, _, _, ht, _⟩ := h
  rw [State.tile]
  cases hk : SMap.find s.tiles k with
  | none => exact tileOk_reset
  | some x => exact smapFind_all (P := Tile.memOk) ht hk

theorem tileOk_me {s : State} (h : MemOk s) : s.me.memOk := tileOk_tile h

theorem memOk_setTile {s : State} {k x} (h : MemOk s) (hx : x.memOk) : MemOk (s.setTile k x) := by
  obtain ⟨h0, h1, h2, hh, ht, hs⟩ := h
  exact ⟨h0, h1, h2, hh, smapPut_all ht hx, hs⟩

theorem memOk_onTile {s : State} {f : Tile → Tile} {k} (h : MemOk s) (hf : ∀ t, t.memOk → (f t).memOk) :
    MemOk (s.onTile k f) :=
  memOk_setTile h (hf _ (tileOk_tile h))

theorem memOk_onMe {s : State} {f : Tile → Tile} (h : MemOk s) (hf : ∀ t, t.memOk → (f t).memOk) : MemOk (s.onMe f) :=
  memOk_onTile h hf

theorem memOk_setTier {s : State} {k m} (h : MemOk s) (hm : m.wf = true) : MemOk (s.setTier k m) := by
  obtain ⟨h0, h1, h2, hh⟩ := h
  unfold State.setTier
  split
  · exact ⟨hm, h1, h2, hh⟩
  · exact ⟨h0, hm, h2, hh⟩
  · exact ⟨h0, h1, hm, hh⟩

theorem memOk_pwriteBytes {s : State} {k pa l} (h : MemOk s) : MemOk (s.pwriteBytes k pa l) := by
  have := memOk_setTier h (k := k) (Laws.mem_wf_writeBytes (tiersOk_of_memOk h k) pa l)
  exact this

theorem tileOk_spWrite {t : Tile} {a l} (h : t.memOk) : (t.spWrite a l).memOk :=
  ⟨Laws.mem_wf_writeBytes h.1 a l, h.2⟩

theorem memOk_mapTiles {s : State} {f : Nat × Tile → Nat × Tile} (h : MemOk s) (hf : ∀ x, x.2.memOk → (f x).2.memOk) :
    MemOk { s with tiles := s.tiles.map f } := by
  obtain ⟨h0, h1, h2, hh, ht, hs⟩ := h
  exact ⟨h0, h1, h2, hh, List.forall_mem_map.mpr fun x hx => hf x (ht x hx), hs⟩

theorem memOk_mapSaves {s : State} {f : Saved → Saved} (h : MemOk s) (hf : ∀ x, x.tile.memOk → (f x).tile.memOk) :
    MemOk { s with saves := s.saves.map f } := by
  obtain ⟨h0, h1, h2, hh, ht, hs⟩ := h
  exact ⟨h0, h1, h2, hh, ht, List.forall_mem_map.mpr fun x hx => hf x (hs x hx)⟩

theorem memOk_filterSaves {s : State} {p : Saved → Bool} (h : MemOk s) :
    MemOk { s with saves := s.saves.filter p } := by
  obtain ⟨h0, h1, h2, hh, ht, hs⟩ := h
  exact ⟨h0, h1, h2, hh, ht, fun x hx => hs x (List.mem_of_mem_filter hx)⟩

theorem memOk_addSave {s : State} {x : Saved} (h : MemOk s) (hx : x.tile.memOk) :
    MemOk { s with saves := s.saves ++ [x] } := by
  obtain ⟨h0, h1, h2, hh, ht, hs⟩ := h
  refine ⟨h0, h1, h2, hh, ht, List.forall_mem_append.mpr ⟨hs, ?_⟩⟩
  exact List.forall_mem_singleton.mpr hx

theorem memOk_hostWrite {s : State} {a : Nat} {l : List W8} (h : MemOk s) :
    MemOk { s with hostMem := Mem.writeBytes s.hostMem a l } := by
  obtain ⟨h0, h1, h2, hh, hts⟩ := h
  exact ⟨h0, h1, h2, Laws.mem_wf_writeBytes hh a l, hts⟩

theorem memOk_foldlMem {α : Type} {f : State → α → State} {l : List α} {s : State}
    (hf : ∀ s x, x ∈ l → MemOk s → MemOk (f s x)) (h : MemOk s) : MemOk (l.foldl f s) := by
  induction l generalizing s with
  | nil => exact h
  | cons x l ih => exact ih (fun s y hy => hf s y (List.mem_cons_of_mem x hy)) (hf s x List.mem_cons_self h)

theorem memOk_foldlFst {α β : Type} {f : State × β → α → State × β} {l : List α} {x : State × β}
    (hf : ∀ x y, MemOk x.1 → MemOk (f x y).1) (h : MemOk x.1) : MemOk (l.foldl f x).1 := by
  induction l generalizing x with
  | nil => exact h
  | cons y l ih => exact ih (hf x y h)

theorem exceptOk_ite {ε α : Type} {P : α → Prop} {c : Prop} [Decidable c] {x y : Except ε α} (hx : ExceptOk P x)
    (hy : ExceptOk P y) : ExceptOk P (if c then x else y) := by
  split <;> assumption

/-- What a structural recursion on a list computes, by induction on the list. -/
theorem brecOn_induction {α : Type} {M : List α → Type} {P : ∀ l, M l → Prop}
    {F : ∀ l, List.below (motive := M) l → M l}
    (hnil : ∀ g, P [] (F [] g)) (hcons : ∀ x l g, P l g.1 → P (x :: l) (F (x :: l) g)) (l : List α) :
    P l (List.brecOn l F) := by
  induction l with
  | nil => exact hnil _
  | cons x l ih => exact hcons x l _ ih

theorem exceptOk_option {ε α : Type} {P : α → Prop} {x : Option Nat} {y : ε} {f : Nat → Except ε α}
    (hf : ∀ a, ExceptOk P (f a)) :
    ExceptOk P (match x with
      | none => .error y
      | some a => f a) := by
  cases x with
  | none => trivial
  | some a => exact hf a

end Sys2Proof.Proofs
end

section
/-! SUPPORT. Memory stays canonical (R272): what the operations on a state and on a tile leave. -/

namespace Sys2Proof.Proofs

open Sys2Proof.Machine Sys2Proof.Laws

variable {s : State} {t : Tile}

theorem memOk_reset : MemOk State.reset := by
  refine ⟨rfl, rfl, rfl, rfl, ?_, ?_⟩ <;> exact fun _ hx => absurd hx List.not_mem_nil

theorem memOk_setRouter {r x} (h : MemOk s) : MemOk (s.setRouter r x) :=
  h

theorem memOk_onRouter {r f} (h : MemOk s) : MemOk (s.onRouter r f) :=
  memOk_setRouter h

theorem memOk_setPart {p x} (h : MemOk s) : MemOk (s.setPart p x) :=
  h

theorem memOk_onPart {p f} (h : MemOk s) : MemOk (s.onPart p f) :=
  memOk_setPart h

theorem memOk_onPort {p f} (h : MemOk s) : MemOk (s.onPort p f) :=
  h

theorem memOk_onEth {e f} (h : MemOk s) : MemOk (s.onEth e f) :=
  h

theorem memOk_onQueue {q f} (h : MemOk s) : MemOk (s.onQueue q f) :=
  h

theorem tileOk_onStr {st f} (h : t.memOk) : (t.onStr st f).memOk := by
  unfold Tile.onStr
  split <;> exact h

theorem tileOk_onEng {e f} (h : t.memOk) : (t.onEng e f).memOk := by
  unfold Tile.onEng
  split <;> exact h

theorem tileOk_setS {r v} (h : t.memOk) : (t.setS r v).memOk :=
  tileOk_ite h h

theorem tileOk_setV {r v} (h : t.memOk) : (t.setV r v).memOk :=
  h

theorem tileOk_setK {r v} (h : t.memOk) : (t.setK r v).memOk :=
  tileOk_ite h h

theorem tileOk_setSlot {n v} (h : t.memOk) : (t.setSlot n v).memOk :=
  h

theorem tileOk_setBt {i v} (h : t.memOk) : (t.setBt i v).memOk :=
  h

theorem tileOk_setLc {eng i v} (h : t.memOk) : (t.setLc eng i v).memOk :=
  h

theorem tileOk_setFc {n v} (h : t.memOk) : (t.setFc n v).memOk :=
  h

theorem tileOk_setSt {n v} (h : t.memOk) : (t.setSt n v).memOk :=
  h

theorem tileOk_setRing {n r} (h : t.memOk) : (t.setRing n r).memOk :=
  h

theorem tileOk_setHurdle {n h1} (h : t.memOk) : (t.setHurdle n h1).memOk :=
  h

theorem tileOk_setAccRow {a r v} (h : t.memOk) : (t.setAccRow a r v).memOk :=
  h

theorem tileOk_setAccMax {a r v} (h : t.memOk) : (t.setAccMax a r v).memOk :=
  h

theorem tileOk_setAccDen {a r v} (h : t.memOk) : (t.setAccDen a r v).memOk :=
  h

theorem memOk_freeNat (h : MemOk s) : MemOk s.freeNat.2 := by
  unfold State.freeNat
  dsimp only
  exact h

theorem memOk_freeBit (h : MemOk s) : MemOk s.freeBit.2 := by
  unfold State.freeBit
  dsimp only
  exact h

theorem memOk_countRecord {i n} (h : MemOk s) : MemOk (s.countRecord i n) :=
  h

theorem memOk_raiseHalt {p cause src id} (h : MemOk s) : MemOk (raiseHalt s p cause src id) := by
  unfold raiseHalt
  extract_lets s1 x w
  have hs1 : MemOk s1 := memOk_ite (memOk_countRecord h) h
  dsimp only
  exact memOk_ite (memOk_setPart (memOk_freeNat (memOk_freeNat hs1))) (memOk_ite (memOk_setPart hs1) hs1)

theorem memOk_unitFault {tid unit cause xr pc aux} (h : MemOk s) : MemOk (unitFault s tid unit cause xr pc aux) := by
  unfold unitFault
  extract_lets t1
  have ht1 : t1.memOk := tileOk_tile h
  exact memOk_ite h (memOk_raiseHalt (memOk_setTile h ht1))

theorem memOk_stopStrand {tid st} (h : MemOk s) : MemOk (stopStrand s tid st) :=
  memOk_onTile h (fun _ ht1 => tileOk_onStr ht1)

theorem memOk_strandFault {tid st cause ptr} (h : MemOk s) : MemOk (strandFault s tid st cause ptr) := by
  unfold strandFault
  extract_lets pc
  exact memOk_stopStrand (memOk_unitFault h)

theorem memOk_shadowFault {tid cause imm} (h : MemOk s) : MemOk (shadowFault s tid cause imm) := by
  unfold shadowFault
  extract_lets t1 ptr aux s1 xh s2
  have hs1 : MemOk s1 := memOk_unitFault h
  have hs2 : MemOk s2 := memOk_ite (memOk_unitFault hs1) hs1
  exact memOk_onTile hs2 (fun _ ht2 => ht2)

theorem memOk_blockStrand {w n} (h : MemOk s) : MemOk (blockStrand s w n) :=
  memOk_onMe h (fun _ ht1 => tileOk_onStr ht1)

theorem memOk_issueFault {cause ptr} (h : MemOk s) : MemOk (issueFault s cause ptr) :=
  memOk_ite (memOk_shadowFault h) (memOk_strandFault h)

theorem outOk_issue {c eff} (h : MemOk s) (heff : ∀ s, MemOk s → MemOk (eff s)) : OutOk (issue s c eff) := by
  unfold issue
  refine outOk_ite h ?_
  refine outOk_ite (heff _ h) ?_
  split
  · exact heff _ h
  · exact memOk_blockStrand h
  · exact memOk_issueFault h

theorem memOk_moveTo {pc minAge} (h : MemOk s) : MemOk (s.moveTo pc minAge) := by
  unfold State.moveTo
  dsimp only
  exact memOk_ite (memOk_onMe h (fun _ ht1 => ht1)) (memOk_onMe h
    (fun _ ht2 => tileOk_ite (tileOk_upd (tileOk_onStr ht2) rfl rfl) (tileOk_onStr ht2)))

theorem memOk_retire (h : MemOk s) : MemOk s.retire :=
  memOk_moveTo h

theorem memOk_jump {target} (h : MemOk s) : MemOk (s.jump target) :=
  memOk_moveTo h

theorem tileOk_fly {lat tgt fl unit} (h : t.memOk) : (t.fly lat tgt fl unit).memOk :=
  h

theorem memOk_result {sd lat v fl} (h : MemOk s) : MemOk (s.result sd lat v fl) :=
  memOk_ite (memOk_onMe h (fun _ ht1 => ht1)) (memOk_onMe h (fun _ ht2 => tileOk_fly ht2))

theorem memOk_fly {lat tgt fl unit} (h : MemOk s) : MemOk (s.fly lat tgt fl unit) :=
  memOk_onMe h (fun _ ht1 => tileOk_fly ht1)

theorem tileOk_raise {fl} (h : t.memOk) : (t.raise fl).memOk :=
  h

theorem memOk_branch {taken target} (h : MemOk s) : MemOk (s.branch taken target) :=
  memOk_ite (memOk_jump h) (memOk_retire h)

theorem tileOk_accClear {ws} (h : t.memOk) : (t.accClear ws).memOk :=
  h

theorem tileOk_queueMoved {q n} (h : t.memOk) : (t.queueMoved q n).memOk :=
  h

theorem tileOk_spWriteEng {dcc a l eng num} (h : t.memOk) : (t.spWriteEng dcc a l eng num).memOk := by
  unfold Tile.spWriteEng
  extract_lets x
  have hx : x.memOk := tileOk_spWrite h
  exact hx

theorem tileOk_observe {eng c} (h : t.memOk) : (t.observe eng c).memOk :=
  tileOk_ite h h

theorem tileOk_acquire (h : t.memOk) : t.acquire.memOk :=
  h

theorem tileOk_offend {w src tid off} (h : t.memOk) : (t.offend w src tid off).memOk := by
  unfold Tile.offend
  extract_lets first earlier
  exact tileOk_ite (tileOk_upd h rfl rfl) h

theorem tileOk_csrWrite {n kind a} (h : t.memOk) : (t.csrWrite n kind a).memOk := by
  unfold Tile.csrWrite
  dsimp only
  split <;> exact h

theorem tileOk_slipOnce (h : t.memOk) : t.slipOnce.memOk :=
  tileOk_ite h h

theorem tileOk_setVq {q l} (h : t.memOk) : (t.setVq q l).memOk :=
  h

theorem tileOk_observeWord {w} (h : t.memOk) : (t.observeWord w).memOk := by
  unfold Tile.observeWord
  split
  · exact tileOk_observe h
  · exact h

theorem tileOk_squeuePop {n} (h : t.memOk) : (t.squeuePop n).memOk := by
  unfold Tile.squeuePop
  split
  · exact h
  · exact h
  · exact h
  · exact tileOk_upd (tileOk_observeWord (tileOk_queueMoved h)) rfl rfl

theorem tileOk_dqAlloc {q13 tag} (h : t.memOk) : (t.dqAlloc q13 tag).memOk :=
  tileOk_ite h h

theorem tileOk_dqFill {q13 tag v} (h : t.memOk) : (t.dqFill q13 tag v).memOk :=
  tileOk_ite h h

theorem tileOk_vsrc {v ss} (h : t.memOk) : (t.vsrc v ss).2.memOk := by
  unfold Tile.vsrc
  split
  · exact h
  · split
    · exact tileOk_queueMoved (tileOk_setVq h)
    · exact h

theorem tileOk_vdst {vd lat mask v fl} (h : t.memOk) : (t.vdst vd lat mask v fl).memOk := by
  unfold Tile.vdst
  dsimp only
  split <;> exact tileOk_fly h

end Sys2Proof.Proofs
end

section
/-! SUPPORT. Memory stays canonical (R272): the C strand's instructions. -/

namespace Sys2Proof.Proofs

open Sys2Proof.Machine Sys2Proof.Laws

variable {s : State} {t : Tile}

theorem outOk_scalarOp {sd lat v} (h : MemOk s) : OutOk (scalarOp s sd lat v) :=
  outOk_issue h (fun _ hs1 => memOk_retire (memOk_result hs1))

theorem outOk_divOp {sd v fl} (h : MemOk s) : OutOk (divOp s sd v fl) := by
  unfold divOp
  dsimp only
  exact outOk_issue h (fun _ hs1 => memOk_retire (memOk_ite (memOk_onMe hs1 (fun _ ht1 => ht1))
    (memOk_onMe hs1 (fun _ ht2 => ht2))))

theorem outOk_execNop (h : MemOk s) : OutOk (execNop s) :=
  outOk_issue h (fun _ hs1 => memOk_retire hs1)

theorem outOk_execFin (h : MemOk s) : OutOk (execFin s) :=
  outOk_issue h (fun _ hs1 => memOk_onMe (memOk_retire hs1) (fun _ ht1 => tileOk_onStr ht1))

theorem outOk_execBc {cond sa sb off} (h : MemOk s) : OutOk (execBc cond sa sb off s) := by
  unfold execBc
  extract_lets taken
  exact outOk_issue h (fun _ hs1 => memOk_branch hs1)

theorem outOk_execBf {fs test inv off} (h : MemOk s) : OutOk (execBf fs test inv off s) := by
  unfold execBf
  extract_lets taken
  exact outOk_issue h (fun _ hs1 => memOk_branch hs1)

theorem outOk_execJr {sa} (h : MemOk s) : OutOk (execJr sa s) := by
  unfold execJr
  extract_lets target
  exact outOk_issue h (fun _ hs1 => memOk_branch hs1)

theorem outOk_execCall {sd off} (h : MemOk s) : OutOk (execCall sd off s) :=
  outOk_issue h (fun _ hs1 => memOk_branch (memOk_result hs1))

theorem outOk_execLoopr {sd off} (h : MemOk s) : OutOk (execLoopr sd off s) := by
  unfold execLoopr
  extract_lets v l
  dsimp only
  exact outOk_issue h (fun _ hs1 => memOk_branch (memOk_ite (memOk_fly (memOk_result hs1)) (memOk_result hs1)))

theorem outOk_execPop {sd n} (h : MemOk s) : OutOk (execPop sd n s) :=
  outOk_issue h (fun _ hs1 => memOk_retire (memOk_onMe (memOk_result hs1) (fun _ ht1 => tileOk_squeuePop ht1)))

theorem outOk_csrOp {csr kind a} (h : MemOk s) : OutOk (csrOp s csr kind a) :=
  outOk_issue h (fun _ hs1 => memOk_retire (memOk_onMe (memOk_fly hs1) (fun _ ht1 => ht1)))

theorem outOk_execRand {u sd sa sb} (h : MemOk s) : OutOk (execRand u sd sa sb s) := by
  unfold execRand
  extract_lets z
  exact outOk_issue h (fun _ hs1 => memOk_retire (memOk_result hs1))

theorem memOk_acquire (h : MemOk s) : MemOk s.acquire :=
  memOk_onMe h (fun _ ht1 => tileOk_acquire ht1)

theorem outOk_execFcrd {sd idx} (h : MemOk s) : OutOk (execFcrd sd idx s) :=
  outOk_issue h (fun _ hs1 => memOk_retire (memOk_acquire (memOk_result hs1)))

theorem outOk_execFcw {idx sa} (h : MemOk s) : OutOk (execFcw idx sa s) :=
  outOk_issue h (fun _ hs1 => memOk_retire (memOk_onMe hs1 (fun _ ht1 => tileOk_setFc ht1)))

theorem outOk_execLnch {sa} (h : MemOk s) : OutOk (execLnch sa s) := by
  unfold execLnch
  extract_lets p
  exact outOk_issue h (fun _ hs1 => memOk_retire hs1)

theorem outOk_execTrap {imm} (h : MemOk s) : OutOk (execTrap imm s) :=
  outOk_ite h (outOk_issue h (fun _ hs1 => memOk_ite (memOk_shadowFault hs1)
    (memOk_stopStrand (memOk_unitFault hs1))))

end Sys2Proof.Proofs
end

section
/-! SUPPORT. Memory stays canonical (R272): the V strand's instructions. -/

namespace Sys2Proof.Proofs

open Sys2Proof.Machine Sys2Proof.Laws

variable {s : State} {t : Tile}

theorem tileOk_holdUnit {x} (h : t.memOk) : (t.holdUnit x).memOk := by
  unfold Tile.holdUnit
  split <;> exact h

theorem tileOk_vsrc_ite {c : Prop} [Decidable c] {r ss} {x : List W32} (h : t.memOk) :
    (if c then t.vsrc r ss else (x, t)).2.memOk := by
  split
  · exact tileOk_vsrc h
  · exact h

theorem outOk_vectorOp {o n u lat f} (h : MemOk s) : OutOk (vectorOp s o n u lat f) := by
  unfold vectorOp
  extract_lets srcs
  dsimp only
  refine outOk_issue h fun _ hs => memOk_retire (memOk_onMe hs fun _ ht => ?_)
  exact tileOk_holdUnit (tileOk_vdst (tileOk_vsrc_ite (tileOk_vsrc_ite (tileOk_vsrc_ite ht))))

theorem outOk_unaryOp {o u lat f} (h : MemOk s) : OutOk (unaryOp s o u lat f) :=
  outOk_vectorOp h

theorem outOk_binaryOp {o u lat f} (h : MemOk s) : OutOk (binaryOp s o u lat f) :=
  outOk_vectorOp h

theorem outOk_ternaryOp {o u lat f} (h : MemOk s) : OutOk (ternaryOp s o u lat f) :=
  outOk_vectorOp h

theorem tileOk_narrowDst {vd w codes ms fl} (h : t.memOk) : (t.narrowDst vd w codes ms fl).memOk := by
  unfold Tile.narrowDst
  extract_lets lanes fillUp whole
  split
  · exact tileOk_vdst h
  · exact tileOk_fly h

theorem outOk_narrowOp {o w f} (h : MemOk s) : OutOk (narrowOp s o w f) := by
  unfold narrowOp
  dsimp only
  exact outOk_issue h (fun _ hs1 => memOk_retire (memOk_onMe hs1
    (fun _ ht1 => tileOk_holdUnit (tileOk_narrowDst (tileOk_vsrc ht1)))))

theorem outOk_execVicvt {o dt sl sat} (h : MemOk s) : OutOk (execVicvt o dt sl sat s) :=
  outOk_ite (outOk_narrowOp h) (outOk_vectorOp h)

theorem outOk_moveOp {o lat src} (h : MemOk s) : OutOk (moveOp s o lat src) :=
  outOk_vectorOp h

theorem outOk_execVbstep {o b j dir} (h : MemOk s) : OutOk (execVbstep o b j dir s) := by
  unfold execVbstep
  dsimp only
  exact outOk_issue h (fun _ hs1 => memOk_retire (memOk_onMe hs1
    (fun _ ht1 => tileOk_holdUnit (tileOk_fly (tileOk_vdst (tileOk_vsrc (tileOk_vsrc ht1)))))))

theorem outOk_predOp {o srcs u lat f} (h : MemOk s) : OutOk (predOp s o srcs u lat f) := by
  unfold predOp
  dsimp only
  refine outOk_issue h (fun _ hs1 => ?_)
  refine memOk_retire ?_
  refine memOk_onMe hs1 (fun _ ht1 => ?_)
  refine tileOk_holdUnit ?_
  refine tileOk_fly ?_
  split
  · exact ht1
  · exact tileOk_vsrc (tileOk_vsrc ht1)

theorem outOk_execKset {o k} (h : MemOk s) : OutOk (execKset o k s) := by
  unfold execKset
  extract_lets v
  exact outOk_predOp h

theorem outOk_execPtest {o} (h : MemOk s) : OutOk (execPtest o s) := by
  unfold execPtest
  dsimp only
  exact outOk_issue h (fun _ hs1 => memOk_retire (memOk_onMe hs1 (fun _ ht1 => tileOk_holdUnit (tileOk_fly ht1))))

theorem outOk_accRead {o k lat f} (h : MemOk s) : OutOk (accRead s o k lat f) := by
  unfold accRead
  dsimp only
  exact outOk_issue h (fun _ hs1 => memOk_retire (memOk_onMe hs1 (fun _ ht1 => tileOk_holdUnit (tileOk_vdst ht1))))

theorem outOk_accWrite {o lat f} (h : MemOk s) : OutOk (accWrite s o lat f) := by
  unfold accWrite
  dsimp only
  exact outOk_issue h (fun _ hs1 => memOk_retire (memOk_onMe hs1
    (fun _ ht1 => tileOk_holdUnit (tileOk_fly (tileOk_vsrc ht1)))))

theorem outOk_execPblk {pattern cnt kp} (h : MemOk s) : OutOk (execPblk pattern cnt kp s) := by
  unfold execPblk
  dsimp only
  exact outOk_issue h (fun _ hs1 => memOk_onMe (memOk_retire hs1) (fun _ ht1 => ht1))

end Sys2Proof.Proofs
end

section
/-! SUPPORT. Memory stays canonical (R272): the D strand's instructions and their accesses, where tiles and the tiers of global
memory are written. -/

namespace Sys2Proof.Proofs

open Sys2Proof.Machine Sys2Proof.Laws

variable {s : State} {t : Tile}

theorem tileOk_setReqs {n l} (h : t.memOk) : (t.setReqs n l).memOk :=
  h

theorem tileOk_access {delay k} (h : t.memOk) : (t.access delay k).memOk :=
  h

theorem outOk_execLds {sx sz qs sa off} (h : MemOk s) : OutOk (execLds sx sz qs sa off s) := by
  unfold execLds
  extract_lets p n
  dsimp only
  exact outOk_issue h (fun _ hs1 => memOk_retire (memOk_onMe hs1 (fun _ ht1 => tileOk_access (tileOk_dqAlloc ht1))))

theorem outOk_execSts {sz sa off} (h : MemOk s) : OutOk (execSts sz sa off s) := by
  unfold execSts
  extract_lets p n
  dsimp only
  exact outOk_issue h (fun _ hs1 => memOk_retire (memOk_onMe hs1 (fun _ ht1 => tileOk_access (tileOk_squeuePop ht1))))

theorem outOk_atomicOp {op n w qs sa b c off} (h : MemOk s) : OutOk (atomicOp s op n w qs sa b c off) := by
  unfold atomicOp
  extract_lets p bytes
  dsimp only
  exact outOk_issue h (fun _ hs1 => memOk_retire (memOk_onMe hs1 (fun _ ht1 => tileOk_access (tileOk_dqAlloc ht1))))

theorem tileOk_accessDone {seq} (h : t.memOk) : (t.accessDone seq).memOk :=
  h

theorem tileOk_perform {dcc tid a} (h : t.memOk) : (t.perform dcc tid a).memOk := by
  unfold Tile.perform
  extract_lets t1
  have ht1 : t1.memOk := tileOk_accessDone h
  dsimp only
  split
  · exact tileOk_ite (tileOk_dqFill ht1) (tileOk_dqFill (tileOk_offend ht1))
  · exact tileOk_ite (tileOk_spWrite ht1) (tileOk_offend ht1)
  · exact tileOk_ite (tileOk_dqFill (tileOk_raise (tileOk_spWrite ht1))) (tileOk_dqFill (tileOk_offend ht1))
  · exact tileOk_ite (tileOk_setSt ht1) (tileOk_setSt (tileOk_offend ht1))
  · exact tileOk_ite (tileOk_spWrite ht1) (tileOk_offend ht1)
  · exact tileOk_setRing ht1

theorem memOk_accessFault {a cause} (h : MemOk s) : MemOk (accessFault s a cause) :=
  memOk_stopStrand (memOk_unitFault (memOk_onMe h (fun _ ht1 => tileOk_accessDone ht1)))

theorem outOk_execDAccessPerform (h : MemOk s) : OutOk (execDAccessPerform s) := by
  unfold execDAccessPerform
  split
  · exact h
  · split
    · exact h
    · exact memOk_ite (memOk_ite (memOk_accessFault h) (memOk_onMe h (fun _ ht1 => tileOk_perform ht1))) h

theorem tileOk_ask {n rows delay} (h : t.memOk) : (t.ask n rows delay).memOk := by
  unfold Tile.ask
  dsimp only
  exact tileOk_ite h h

theorem outOk_execSrd {st sa imm} (h : MemOk s) : OutOk (execSrd st sa imm s) := by
  unfold execSrd
  extract_lets rows
  exact outOk_issue h (fun _ hs1 => memOk_retire (memOk_onMe hs1 (fun _ ht1 => tileOk_ask ht1)))

theorem outOk_execSwr {st sa imm} (h : MemOk s) : OutOk (execSwr st sa imm s) := by
  unfold execSwr
  extract_lets rows
  exact outOk_issue h (fun _ hs1 => memOk_retire (memOk_onMe hs1 (fun _ ht1 => tileOk_ask ht1)))

theorem outOk_execSstop {st} (h : MemOk s) : OutOk (execSstop st s) :=
  outOk_issue h (fun _ hs1 => memOk_retire (memOk_onMe hs1 (fun _ ht1 => tileOk_setReqs ht1)))

theorem outOk_execStset {st fld sa} (h : MemOk s) : OutOk (execStset st fld sa s) := by
  unfold execStset
  extract_lets r
  exact outOk_issue h (fun _ hs1 => memOk_retire (memOk_onMe hs1 (fun _ ht1 => tileOk_setSt ht1)))

theorem outOk_execStld {st sa} (h : MemOk s) : OutOk (execStld st sa s) := by
  unfold execStld
  extract_lets p
  dsimp only
  exact outOk_issue h (fun _ hs1 => memOk_retire (memOk_onMe hs1 (fun _ ht1 => tileOk_access ht1)))

theorem outOk_execStsv {st sa} (h : MemOk s) : OutOk (execStsv st sa s) := by
  unfold execStsv
  extract_lets p
  dsimp only
  exact outOk_issue h (fun _ hs1 => memOk_retire (memOk_onMe hs1 (fun _ ht1 => tileOk_access ht1)))

theorem memOk_rowFault {cause q} (h : MemOk s) : MemOk (rowFault s cause q) :=
  memOk_stopStrand (memOk_unitFault h)

theorem memOk_checkWaiting {n} (h : MemOk s) : MemOk (checkWaiting s n) := by
  unfold checkWaiting
  split
  · exact memOk_rowFault h
  · exact h

theorem outOk_execStldPerform (h : MemOk s) : OutOk (execStldPerform s) := by
  unfold execStldPerform
  dsimp only
  split
  · exact h
  · exact memOk_ite (memOk_ite (memOk_accessFault h) (memOk_ite
      (memOk_checkWaiting (memOk_onMe h (fun _ ht1 => tileOk_perform (tileOk_me h)))) (memOk_accessFault h))) h

theorem tileOk_rowDone {n} (h : t.memOk) : (t.rowDone n).memOk := by
  unfold Tile.rowDone
  extract_lets t1
  have ht1 : t1.memOk := tileOk_setSt h
  exact tileOk_setReqs ht1

theorem outOk_execStreamRowRead (h : MemOk s) : OutOk (execStreamRowRead s) := by
  unfold execStreamRowRead
  dsimp only
  split
  · exact h
  · refine memOk_ite h ?_
    split
    · exact memOk_rowFault h
    · refine memOk_ite (memOk_rowFault h) ?_
      refine memOk_ite (memOk_rowFault h) ?_
      refine memOk_onMe h (fun _ ht1 => ?_)
      refine tileOk_rowDone ?_
      refine tileOk_raise ?_
      refine tileOk_setVq ?_
      split
      · exact tileOk_offend ht1
      · exact ht1

theorem tileOk_writeRow {r q tid lanes} (h : t.memOk) : (writeRow r q tid t lanes).memOk := by
  unfold writeRow
  extract_lets f els t' t'1
  have ht' : t'.memOk := tileOk_foldl (fun _ _ ht1 => tileOk_raise ht1) h
  have ht'1 : t'1.memOk := by
    dsimp only [t'1]
    split
    · exact tileOk_offend ht'
    · exact ht'
  exact tileOk_spWrite ht'1

theorem outOk_execStreamRowWrite (h : MemOk s) : OutOk (execStreamRowWrite s) := by
  unfold execStreamRowWrite
  dsimp only
  split
  · split
    · exact h
    · refine memOk_ite h ?_
      split
      · exact memOk_rowFault h
      · exact memOk_ite (memOk_rowFault h) (memOk_ite (memOk_rowFault h)
          (memOk_ite (memOk_rowFault h) (memOk_onMe h (fun _ ht1 => tileOk_rowDone
          (tileOk_writeRow (tileOk_queueMoved (tileOk_setVq ht1)))))))
  · exact h

theorem outOk_execRgset {rg fld sa} (h : MemOk s) : OutOk (execRgset rg fld sa s) := by
  unfold execRgset
  extract_lets v
  exact outOk_issue h (fun _ hs1 => memOk_retire (memOk_onMe hs1 (fun _ ht1 => tileOk_setRing ht1)))

theorem outOk_pushOp {qs c v} (h : MemOk s) : OutOk (pushOp s qs c v) := by
  unfold pushOp
  dsimp only
  exact outOk_issue h (fun _ hs1 => memOk_retire (memOk_onMe hs1
    (fun _ ht1 => tileOk_fly (tileOk_upd (tileOk_dqAlloc ht1) rfl rfl))))

theorem outOk_execRpush {rg} (h : MemOk s) : OutOk (execRpush rg s) :=
  outOk_issue h (fun _ hs1 => memOk_retire (memOk_onMe hs1 (fun _ ht1 => tileOk_access ht1)))

theorem outOk_execXfence {x} (h : MemOk s) : OutOk (execXfence x s) :=
  outOk_issue h (fun _ hs1 => memOk_retire (memOk_onMe hs1 (fun _ ht1 => tileOk_acquire ht1)))

theorem memOk_pwrite {tier pa n v} (h : MemOk s) : MemOk (s.pwrite tier pa n v) :=
  memOk_pwriteBytes h

theorem memOk_fillTlb {who p va e} (h : MemOk s) : MemOk (s.fillTlb who p va e) :=
  h

theorem memOk_fillCcache {c p va e} (h : MemOk s) : MemOk (s.fillCcache c p va e) :=
  h

theorem memOk_askWalk {p who va} (h : MemOk s) : MemOk (s.askWalk p who va) := by
  unfold State.askWalk
  extract_lets c page same
  exact memOk_ite h h

theorem memOk_xlate {p who va} (h : MemOk s) : MemOk (s.xlate p who va).2 := by
  unfold State.xlate
  dsimp only
  split
  · exact h
  · split
    · exact memOk_fillTlb h
    · split
      · exact h
      · exact memOk_askWalk h

theorem memOk_tookWalks {who} (h : MemOk s) : MemOk (s.tookWalks who) :=
  h

theorem memOk_leaveWalks {who} (h : MemOk s) : MemOk (s.leaveWalks who) := by
  unfold State.leaveWalks
  extract_lets x
  have hx : MemOk x := memOk_tookWalks h
  exact hx

theorem memOk_newTask {tid} (h : MemOk s) : MemOk (s.newTask tid) :=
  memOk_leaveWalks (memOk_leaveWalks h)

theorem memOk_leavePartWalks {p} (h : MemOk s) : MemOk (s.leavePartWalks p) := by
  unfold State.leavePartWalks
  extract_lets left
  exact h

theorem memOk_gplace {p who secure va n rd wr} (h : MemOk s) : MemOk (s.gplace p who secure va n rd wr).2 := by
  unfold State.gplace
  dsimp only
  split
  · exact memOk_of_snd ‹_› (memOk_xlate h)
  · exact memOk_of_snd ‹_› (memOk_xlate h)
  · split
    · exact memOk_of_snd ‹_› (memOk_xlate h)
    · split <;> exact memOk_of_snd ‹_› (memOk_xlate h)

theorem memOk_gstands {p who secure l} (h : MemOk s) : MemOk (State.gstands p who secure l s).2 := by
  induction l generalizing s with
  | nil => exact h
  | cons x l ih => exact ih (memOk_gplace h)

theorem memOk_gplaces {p who secure l} (h : MemOk s) : MemOk (State.gplaces p who secure l s).2 := by
  unfold State.gplaces
  extract_lets x least
  have hx : MemOk x.2 := memOk_gstands h
  split
  · exact memOk_gstands h
  · exact memOk_ite hx (memOk_tookWalks hx)

theorem memOk_countError {met} (h : MemOk s) : MemOk (s.countError met) :=
  memOk_ite (memOk_countRecord h) h

theorem memOk_vwrite {p secure va l} (h : MemOk s) : MemOk (s.vwrite p secure va l) := by
  unfold State.vwrite
  dsimp only
  split
  · exact memOk_countError h
  · split
    · exact memOk_raiseHalt h
    · exact memOk_ite (memOk_raiseHalt h) (memOk_pwriteBytes h)

theorem memOk_onUnit {p level id f} (h : MemOk s) : MemOk (s.onUnit p level id f) :=
  h

theorem memOk_writeStat {u} (h : MemOk s) : MemOk (s.writeStat u) :=
  memOk_ite h (memOk_vwrite h)

theorem memOk_changeUnit {p level id f} (h : MemOk s) : MemOk (s.changeUnit p level id f) := by
  unfold State.changeUnit
  split
  · exact memOk_writeStat (memOk_onUnit h)
  · exact h

theorem memOk_logItem {p fold i} (h : MemOk s) : MemOk (s.logItem p fold i) := by
  unfold State.logItem
  split
  · exact h
  · exact memOk_ite (memOk_vwrite (memOk_onUnit h)) (memOk_ite h (memOk_raiseHalt (memOk_changeUnit h)))

theorem memOk_logWords {p fold va tier pa task ws} (h : MemOk s) : MemOk (s.logWords p fold va tier pa task ws) := by
  induction ws generalizing s va pa with
  | nil => exact h
  | cons w ws ih => exact ih (memOk_logItem h)

theorem outOk_execPageWalkDone (h : MemOk s) : OutOk (execPageWalkDone s) := by
  unfold execPageWalkDone
  dsimp only
  split
  · exact h
  · refine memOk_ite h ?_
    split
    · refine memOk_foldl (fun _ _ hs1 => memOk_fillTlb hs1) ?_
      exact memOk_fillCcache h
    · refine memOk_upd (s := ite _ _ _) (memOk_ite ?_ ?_) rfl rfl rfl rfl rfl rfl
      · exact memOk_countRecord h
      · exact h

theorem memOk_invalidate {p v} (h : MemOk s) : MemOk (s.invalidate p v) :=
  h

theorem outOk_execXlin {sa sb} (h : MemOk s) : OutOk (execXlin sa sb s) := by
  unfold execXlin
  extract_lets e
  dsimp only
  exact outOk_issue h (fun _ hs1 => memOk_ite (memOk_retire hs1)
    (memOk_ite (memOk_shadowFault hs1) (memOk_retire (memOk_fillCcache (memOk_fillTlb hs1)))))

theorem tileOk_serviceDone (h : t.memOk) : t.serviceDone.memOk :=
  tileOk_ite h h

theorem outOk_execShret (h : MemOk s) : OutOk (execShret s) :=
  outOk_issue h (fun _ hs1 => memOk_onMe (memOk_retire hs1) (fun _ ht1 => ht1))

theorem outOk_execCpXlateMiss (h : MemOk s) : OutOk (execCpXlateMiss s) := by
  unfold execCpXlateMiss
  dsimp only
  split
  · split
    · exact h
    · exact memOk_ite h (memOk_ite (memOk_onMe (memOk_unitFault h) (fun _ ht1 => ht1))
        (memOk_onMe h (fun _ ht2 => ht2)))
  · exact h

theorem outOk_execShadowTimeout (h : MemOk s) : OutOk (execShadowTimeout s) := by
  unfold execShadowTimeout
  split
  · exact memOk_ite (memOk_shadowFault h) h
  · exact h

end Sys2Proof.Proofs
end

section
/-! SUPPORT. Memory stays canonical (R272): the engines, their descriptors and records, the MX and the CP. -/

namespace Sys2Proof.Proofs

open Sys2Proof.Machine Sys2Proof.Laws

variable {s : State} {t : Tile}

theorem tileOk_postTo {eng p} (h : t.memOk) : (t.postTo eng p).memOk :=
  tileOk_onEng h

theorem outOk_execPost {eng sa} (h : MemOk s) : OutOk (execPost eng sa s) := by
  unfold execPost
  extract_lets p
  exact outOk_issue h (fun _ hs1 => memOk_retire (memOk_onMe hs1 (fun _ ht1 => tileOk_postTo ht1)))

theorem outOk_execTadv {eng sa} (h : MemOk s) : OutOk (execTadv eng sa s) := by
  unfold execTadv
  extract_lets p
  exact outOk_issue h (fun _ hs1 => memOk_retire (memOk_onMe hs1
    (fun _ ht1 => tileOk_ite ht1 (tileOk_onEng (tileOk_postTo ht1)))))

theorem outOk_execCseq {eng} (h : MemOk s) : OutOk (execCseq eng s) := by
  unfold execCseq
  dsimp only
  exact outOk_issue h (fun _ hs1 => memOk_retire (memOk_onMe hs1 (fun _ ht1 => tileOk_fly ht1)))

theorem outOk_execCwait {eng sa} (h : MemOk s) : OutOk (execCwait eng sa s) :=
  outOk_issue h (fun _ hs1 => memOk_retire (memOk_onMe hs1 (fun _ ht1 => tileOk_observe ht1)))

theorem outOk_execFsend {o fid sa sb fc} (h : MemOk s) : OutOk (execFsend o fid sa sb fc s) :=
  outOk_issue h (fun _ hs1 => memOk_retire (memOk_onMe hs1 (fun _ ht1 => tileOk_postTo ht1)))

theorem memOk_onEng {f} (h : MemOk s) : MemOk (s.onEng f) :=
  memOk_onMe h (fun _ ht1 => tileOk_onEng ht1)

theorem memOk_onRun {f} (h : MemOk s) : MemOk (s.onRun f) :=
  memOk_onEng h

theorem memOk_engineFault {cause aux} (h : MemOk s) : MemOk (engineFault s cause aux) :=
  memOk_onEng (memOk_unitFault h)

theorem memOk_engineFaultAt {cause p} (h : MemOk s) : MemOk (engineFaultAt s cause p) :=
  memOk_engineFault h

theorem memOk_retireRecord (h : MemOk s) : MemOk s.retireRecord :=
  memOk_onEng h

theorem memOk_eread {p disp n} (h : MemOk s) : ExceptOk (fun x => MemOk x.2) (s.eread p disp n) := by
  unfold State.eread
  dsimp only
  split
  · split
    · exact trivial
    · split
      · exact trivial
      · exact h
  · exact memOk_onMe h (fun _ ht1 => tileOk_offend ht1)
  · exact trivial

theorem memOk_ewrite {p disp l} (h : MemOk s) : ExceptOk MemOk (s.ewrite p disp l) := by
  unfold State.ewrite
  dsimp only
  split
  · split
    · exact trivial
    · split
      · exact trivial
      · exact memOk_onTile h (fun _ ht1 => tileOk_ite (tileOk_spWriteEng ht1) (tileOk_spWrite ht1))
  · exact memOk_onMe h (fun _ ht2 => tileOk_offend ht2)
  · exact trivial

theorem memOk_ereadsGo {p n ds} (h : MemOk s) : ExceptOk (fun x => MemOk x.2) (ereadsGo p n ds s) := by
  induction ds generalizing s with
  | nil => exact h
  | cons d ds ih =>
    unfold ereadsGo
    split
    · trivial
    · have hs := memOk_of_okSnd ‹_› (memOk_eread h)
      split
      · trivial
      · exact memOk_of_okSnd ‹_› (ih hs)

theorem memOk_ereads {p n ds} (h : MemOk s) : ExceptOk (fun x => MemOk x.2) (State.ereads p n ds s) := by
  unfold State.ereads
  split
  · exact trivial
  · exact memOk_ereadsGo h

theorem memOk_ereadUnits {p disp n} (h : MemOk s) : ExceptOk (fun x => MemOk x.2) (s.ereadUnits p disp n) := by
  unfold State.ereadUnits
  split
  · exact trivial
  · exact memOk_of_okSnd ‹_› (memOk_ereads h)

theorem memOk_ewritesGo {l} (h : MemOk s) : ExceptOk MemOk (ewritesGo l s) := by
  induction l generalizing s with
  | nil => exact h
  | cons x l ih =>
    unfold ewritesGo
    split
    · trivial
    · exact ih (memOk_of_ok ‹_› (memOk_ewrite h))

theorem memOk_replaceWords {l} (h : MemOk s) : MemOk (s.replaceWords l) := by
  unfold State.replaceWords
  extract_lets bytes
  exact memOk_onMe h (fun _ ht1 => ht1)

theorem memOk_ewrites {l} (h : MemOk s) : ExceptOk MemOk (State.ewrites l s) :=
  memOk_ewritesGo (memOk_replaceWords h)

theorem memOk_fetchRecord {addr single p} (h : MemOk s) : MemOk (s.fetchRecord addr single p) := by
  unfold State.fetchRecord
  extract_lets unread
  dsimp only
  split
  · exact memOk_engineFaultAt (memOk_onEng h)
  · split
    · exact memOk_engineFaultAt (memOk_onEng (memOk_of_okSnd ‹_› (memOk_eread h)))
    · exact memOk_onEng (memOk_of_okSnd ‹_› (memOk_eread h))

theorem memOk_takeWork (h : MemOk s) : MemOk s.takeWork := by
  unfold State.takeWork
  extract_lets e
  dsimp only
  split
  · split
    · exact memOk_ite (memOk_onEng h) (memOk_fetchRecord h)
    · exact memOk_onEng h
  · split
    · exact h
    · refine memOk_ite h ?_
      split
      · exact memOk_ite (memOk_onEng h) (memOk_fetchRecord (memOk_onEng (memOk_onEng h)))
      · exact memOk_fetchRecord (memOk_onEng h)
      · exact memOk_onEng (memOk_onEng h)

theorem memOk_noteLate {own} (h : MemOk s) : MemOk (s.noteLate own) := by
  unfold State.noteLate
  split
  · exact memOk_ite h (memOk_onRun (memOk_onTile h (fun _ ht1 => tileOk_slipOnce ht1)))
  · exact h

theorem memOk_startClock {r} (h : MemOk s) : MemOk (s.startClock r) := by
  unfold State.startClock
  extract_lets d s1
  have hs1 : MemOk s1 := memOk_onRun h
  exact memOk_ite (memOk_noteLate hs1) hs1

theorem memOk_takeIdle {i trips} (h : MemOk s) : MemOk (s.takeIdle i trips) := by
  unfold State.takeIdle
  split
  · exact memOk_ite (memOk_retireRecord h) (memOk_onEng h)
  · exact memOk_retireRecord h

theorem memOk_idleRecord {i r trips} (h : MemOk s) : MemOk (s.idleRecord i r trips) :=
  memOk_ite (memOk_startClock (memOk_onRun h)) (memOk_takeIdle h)

theorem memOk_startRecord {i r ops good} (h : MemOk s) : MemOk (s.startRecord i r ops good).1 := by
  unfold State.startRecord
  extract_lets eng addr
  split
  · exact memOk_engineFaultAt h
  · split
    · exact memOk_idleRecord h
    · split
      · exact memOk_engineFaultAt h
      · split
        · exact memOk_engineFaultAt h
        · exact memOk_onRun h

theorem outOk_recordOp {i r ops good unit} (h : MemOk s) (hunit : ∀ s x1, MemOk s → MemOk (unit s x1)) :
    OutOk (recordOp s i r ops good unit) := by
  unfold recordOp
  dsimp only
  split
  · exact h
  · refine memOk_ite h ?_
    refine memOk_ite (hunit _ _ h) ?_
    refine memOk_ite ?_ (memOk_startRecord h)
    split
    · exact hunit _ _ (memOk_startRecord h)
    · exact memOk_startRecord h

theorem outOk_execLinkRecord {r} (h : MemOk s) : OutOk (execLinkRecord r s) := by
  unfold execLinkRecord
  dsimp only
  split
  · exact h
  · refine memOk_ite h ?_
    refine memOk_ite (memOk_engineFaultAt h) ?_
    refine memOk_ite (memOk_idleRecord h) ?_
    split
    · exact memOk_engineFaultAt h
    · exact memOk_idleRecord h

theorem outOk_execNil {r} (h : MemOk s) : OutOk (execNil r s) := by
  unfold execNil
  split
  · exact h
  · exact memOk_ite h (memOk_ite (memOk_engineFaultAt h) (memOk_idleRecord h))

theorem tileOk_slotOffend {tid write a n} (h : t.memOk) : (t.slotOffend tid write a n).memOk :=
  tileOk_ite h (tileOk_offend h)

theorem tileOk_applyAcc {o} (h : t.memOk) : (t.applyAcc o).memOk := by
  unfold Tile.applyAcc
  extract_lets t1 t3 t5
  have ht1 : t1.memOk := tileOk_foldl (fun _ _ ht2 => ht2) h
  have ht3 : t3.memOk := tileOk_foldl (fun _ _ ht4 => ht4) ht1
  have ht5 : t5.memOk := tileOk_foldl (fun _ _ ht6 => ht6) ht3
  exact tileOk_foldl (fun _ _ ht7 => ht7) ht5

theorem tileOk_stepAcc {o} (h : t.memOk) : (t.stepAcc o).memOk :=
  tileOk_ite (tileOk_applyAcc h) (tileOk_accClear (tileOk_applyAcc h))

theorem tileOk_writeSlot {dcc a l} (h : t.memOk) : (t.writeSlot dcc a l).memOk :=
  tileOk_ite (tileOk_spWriteEng h) h

theorem tileOk_applyRings {dcc tid o} (h : t.memOk) : (t.applyRings dcc tid o).memOk := by
  unfold Tile.applyRings
  extract_lets t1 t3
  have ht1 : t1.memOk := tileOk_foldl (fun _ _ ht2 => tileOk_setRing ht2) h
  have ht3 : t3.memOk := by
    dsimp only [t3]
    split
    · exact tileOk_setRing (tileOk_slotOffend (tileOk_writeSlot ht1))
    · exact ht1
  exact tileOk_raise ht3

theorem outOk_mxRecord {i r ops good} (h : MemOk s) : OutOk (mxRecord s i r ops good) := by
  unfold mxRecord
  dsimp only
  split
  · exact h
  · exact memOk_ite h (memOk_ite (memOk_startClock (memOk_startRecord h)) (memOk_startRecord h))

theorem memOk_mxFault {run cause aux} (h : MemOk s) : MemOk (mxFault s run cause aux) := by
  unfold mxFault
  dsimp only
  split
  · exact memOk_engineFault h
  · exact memOk_onTile (memOk_onEng (memOk_unitFault h)) (fun _ ht1 => tileOk_onEng ht1)

theorem memOk_mxCompute {own i run} (h : MemOk s) : ExceptOk (fun x => MemOk x.2) (mxCompute s own i run) := by
  unfold mxCompute
  extract_lets d v _ atOwner
  have hatOwner : MemOk atOwner := h
  split
  case h_3 =>
    split
    · exact h
    · split
      · trivial
      next e =>
        have hs := memOk_of_okSnd e (memOk_ereadUnits hatOwner)
        exact hs
  case h_7 =>
    extract_lets n
    split
    · trivial
    next e =>
      have hs := memOk_of_okSnd e (memOk_ereads hatOwner)
      exact hs
  all_goals exact h

theorem memOk_mxBegin {own i run} (h : MemOk s) : MemOk (mxBegin s own i run) := by
  unfold mxBegin
  dsimp only
  split
  · exact memOk_mxFault h
  · split
    · exact memOk_mxFault h
    · split
      · exact memOk_mxFault h
      · refine memOk_onRun (memOk_onTile (memOk_of_okSnd ‹_› (memOk_mxCompute h)) fun _ ht => ?_)
        exact tileOk_foldl (fun _ _ ht1 => tileOk_slotOffend ht1) ht

theorem memOk_mmaiCount {own i run} (h : MemOk s) : MemOk (mmaiCount s own i run).1 := by
  unfold mmaiCount
  split
  · split
    · exact h
    · split
      · exact memOk_mxFault h
      next e =>
        have hs := memOk_of_okSnd e (memOk_eread h)
        extract_lets s1 m
        have h1 : MemOk s1 := hs
        split
        · split
          · exact memOk_ite (memOk_onRun h1) (memOk_onEng h1)
          · split
            · exact memOk_mxFault h1
            · exact memOk_onRun h1
        · split
          · exact memOk_mxFault h1
          · exact memOk_onRun h1
  · exact h

theorem memOk_mxStepDue {own i run} (h : MemOk s) : MemOk (mxStepDue s own i run) := by
  unfold mxStepDue
  extract_lets timed
  exact memOk_ite (memOk_ite (memOk_takeIdle (memOk_ite (memOk_noteLate h) h))
    (memOk_mxBegin (memOk_ite (memOk_noteLate h) h))) (memOk_ite (memOk_onRun (memOk_ite (memOk_noteLate h) h))
    (memOk_ite (memOk_noteLate h) h))

theorem memOk_fst_ite {α : Type} {c : Prop} [Decidable c] {x y : State × α} (hx : MemOk x.1) (hy : MemOk y.1) :
    MemOk (if c then x else y).1 := by
  split <;> assumption

theorem outOk_execMxStepBegin (h : MemOk s) : OutOk (execMxStepBegin s) := by
  unfold execMxStepBegin
  extract_lets _ s1 own
  have hs1 : MemOk s1 := h
  split
  · exact hs1
  · split
    · exact hs1
    · extract_lets c s2
      refine memOk_ite hs1 ?_
      have hc : MemOk c.1 := memOk_fst_ite hs1 (memOk_mmaiCount hs1)
      refine memOk_ite hc ?_
      split
      · exact hc
      · exact memOk_ite hc (memOk_ite hc (memOk_mxStepDue hc))

theorem outOk_execSchedMiss (h : MemOk s) : OutOk (execSchedMiss s) := by
  unfold execSchedMiss
  extract_lets _ s1
  have hs1 : MemOk s1 := h
  split
  · exact hs1
  · split
    · exact hs1
    · exact memOk_ite (memOk_mxFault hs1) hs1

theorem memOk_mxEndOwn {i run o} (h : MemOk s) : MemOk (mxEndOwn s i run o) := by
  unfold mxEndOwn
  extract_lets failed
  have hfailed : ∀ c, MemOk (failed c) := fun _ => memOk_mxFault (memOk_onRun h)
  split
  · exact hfailed _
  · split
    · exact hfailed _
    next e =>
      extract_lets s1
      have h1 : MemOk s1 := memOk_onMe (memOk_of_ok e (memOk_ewrites h)) fun _ ht => tileOk_applyRings
        (tileOk_stepAcc ht)
      exact memOk_ite (memOk_onEng h1) (memOk_onEng h1)

theorem memOk_mxEndAway {own i run o} (h : MemOk s) : MemOk (mxEndAway s own i run o) := by
  unfold mxEndAway
  dsimp only
  split
  · exact memOk_mxFault (memOk_onTile (memOk_onRun h) (fun _ ht1 => ht1))
  · exact memOk_onEng (memOk_onTile h (fun _ ht2 => tileOk_upd (tileOk_applyRings (tileOk_accClear ht2)) rfl rfl))

theorem tileOk_takeBack {run} (h : t.memOk) : (t.takeBack run).memOk := by
  unfold Tile.takeBack
  extract_lets t1
  have ht1 : t1.memOk := tileOk_applyAcc h
  exact tileOk_ite (tileOk_onEng ht1) ht1

theorem outOk_execMxStepEnd (h : MemOk s) : OutOk (execMxStepEnd s) := by
  unfold execMxStepEnd
  extract_lets _ s1
  have hs1 : MemOk s1 := h
  split
  · exact hs1
  · split
    · exact hs1
    · refine memOk_ite hs1 ?_
      split
      · exact memOk_mxEndOwn hs1
      · exact memOk_mxEndAway hs1
      · exact memOk_ite (memOk_onRun hs1) (memOk_ite (memOk_onTile (memOk_onEng hs1)
          (fun _ ht1 => tileOk_takeBack ht1)) hs1)
      · exact hs1

theorem outOk_execMxRelocate (h : MemOk s) : OutOk (execMxRelocate s) := by
  unfold execMxRelocate
  dsimp only
  refine memOk_ite h ?_
  split
  · split
    · exact h
    · split
      · exact h
      · split
        · exact h
        · refine memOk_ite h ?_
          split
          · exact h
          · exact memOk_onMe (memOk_onTile h (fun _ ht1 => tileOk_upd (tileOk_ite (tileOk_slipOnce ht1) ht1) rfl rfl))
              (fun _ ht2 => ht2)
  · exact h

theorem memOk_readGroup {p d g fmt} (h : MemOk s) : ExceptOk (fun x => MemOk x.2) (readGroup s p d g fmt) := by
  unfold readGroup
  extract_lets w
  split
  · split
    · exact trivial
    · exact memOk_of_okSnd ‹_› (memOk_eread h)
  · exact memOk_ereads h

theorem memOk_qzGroup {i r run} (h : MemOk s) : ExceptOk (fun x => MemOk x.2.2) (qzGroup s i r run) := by
  unfold qzGroup
  extract_lets n d0 d1 f0c f1c
  dsimp only
  split
  · split
    · exact trivial
    · exact memOk_of_okSnd ‹_› (memOk_readGroup h)
  · split
    · exact trivial
    · split
      · exact trivial
      · exact memOk_of_okSnd ‹_› (memOk_eread (memOk_of_okSnd ‹_› (memOk_readGroup h)))
  · split
    · exact trivial
    · split
      · exact trivial
      · exact memOk_of_okSnd ‹_› (memOk_eread (memOk_of_okSnd ‹_› (memOk_readGroup h)))
  · split
    · exact trivial
    · exact memOk_of_okSnd ‹_› (memOk_readGroup h)
  · split
    · exact trivial
    · exact memOk_of_okSnd ‹_› (memOk_readGroup h)

theorem memOk_qzUnit {i r run} (h : MemOk s) : MemOk (qzUnit i r s run) := by
  unfold qzUnit
  split
  · exact memOk_engineFaultAt h
  · split
    · exact memOk_engineFaultAt h
    next e =>
      have hg := of_exceptOk e (memOk_qzGroup h)
      split
      · exact memOk_engineFaultAt h
      next e' =>
        have hw := memOk_of_ok e' (memOk_ewrites hg)
        extract_lets s1
        have h1 : MemOk s1 := memOk_onMe hw fun _ ht => tileOk_raise ht
        exact memOk_ite (memOk_retireRecord h1) (memOk_onRun h1)

theorem memOk_cpRead {p d n} (h : MemOk s) : MemOk (cpRead s p d n).2 := by
  unfold cpRead
  split
  · split <;> exact memOk_of_snd ‹_› (memOk_gplace h)
  · split
    · exact memOk_of_okSnd ‹_› (memOk_eread h)
    · exact h

theorem memOk_cpReads {n l} (h : MemOk s) : MemOk (cpReads n l s).2 := by
  induction l generalizing s with
  | nil => exact h
  | cons x l ih =>
    cases x with
    | none =>
      unfold cpReads
      split <;> exact memOk_of_snd ‹_› (ih h)
    | some x =>
      unfold cpReads
      split
      · exact memOk_of_snd ‹_› (memOk_cpRead h)
      · have hs := memOk_of_snd ‹_› (memOk_cpRead h)
        split <;> exact memOk_of_snd ‹_› (ih hs)

theorem memOk_cpCheck {l} (h : MemOk s) : MemOk (cpCheck l s).2 := by
  unfold cpCheck
  extract_lets out
  dsimp only
  split
  · exact h
  · exact h
  · split
    · exact memOk_of_snd ‹_› (memOk_gplaces h)
    · split <;> exact memOk_of_snd ‹_› (memOk_gplaces h)

theorem memOk_cpWrite {p d l} (h : MemOk s) : ExceptOk MemOk (cpWrite s p d l) := by
  unfold cpWrite
  split
  · split
    · split
      · exact memOk_logWords (memOk_of_snd ‹_› (memOk_gplace h))
      · exact memOk_pwriteBytes (memOk_of_snd ‹_› (memOk_gplace h))
    · exact trivial
    · exact trivial
  · exact memOk_ewrite h

theorem memOk_cpWrites {l} (h : MemOk s) : MemOk (cpWrites l s).2 := by
  induction l generalizing s with
  | nil => exact h
  | cons x l ih =>
    unfold cpWrites
    split
    · exact h
    · exact ih (memOk_of_ok ‹_› (memOk_cpWrite h))

theorem memOk_cpStopped {e} (h : MemOk s) : MemOk (cpStopped s e) := by
  unfold cpStopped
  split
  · exact h
  · exact memOk_onRun h
  · exact memOk_engineFaultAt h

theorem memOk_cpFetch {n l also} (h : MemOk s) : MemOk (cpFetch n l also s).2 := by
  unfold cpFetch
  split
  · exact memOk_of_snd ‹_› (memOk_cpCheck h)
  · exact memOk_cpReads (memOk_of_snd ‹_› (memOk_cpCheck h))

theorem memOk_cpLoad {i r run} (h : MemOk s) : MemOk (cpLoad i r s run).2 := by
  unfold cpLoad
  extract_lets pts indexed idxReads
  dsimp only
  split
  · exact memOk_of_snd ‹_› (memOk_cpFetch h)
  · split <;> exact memOk_of_snd ‹_› (memOk_cpFetch (memOk_of_snd ‹_› (memOk_cpFetch h)))

theorem memOk_cpBeat {i r run} (h : MemOk s) : MemOk (cpBeat i r s run) := by
  unfold cpBeat
  refine memOk_ite h ?_
  split
  · exact memOk_cpStopped (memOk_of_snd ‹_› (memOk_cpLoad h))
  · split
    · exact memOk_engineFaultAt (memOk_of_snd ‹_› (memOk_cpWrites (memOk_of_snd ‹_› (memOk_cpLoad h))))
    · exact memOk_ite (memOk_retireRecord (memOk_of_snd ‹_› (memOk_cpWrites (memOk_of_snd ‹_› (memOk_cpLoad h)))))
        (memOk_onRun (memOk_of_snd ‹_› (memOk_cpWrites (memOk_of_snd ‹_› (memOk_cpLoad h)))))

theorem memOk_cpBeatCut {i r n run} (h : MemOk s) : MemOk (cpBeatCut i r n s run) := by
  unfold cpBeatCut
  split
  · exact h
  · exact memOk_ite (memOk_cpBeat h) (memOk_onRun (memOk_cpWrites (memOk_of_snd ‹_› (memOk_cpLoad h))))

theorem memOk_cutBeat {tid} (h : MemOk s) : MemOk (s.cutBeat tid) := by
  unfold State.cutBeat
  dsimp only
  split
  · have hs := memOk_freeNat (memOk_freeBit h)
    refine memOk_ite h (memOk_ite ?_ hs)
    refine memOk_upd (memOk_cpBeatCut (s := { s.freeBit.2.freeNat.2 with focus := _ }) ?_) rfl rfl rfl rfl rfl rfl
    exact hs
  · exact h

theorem memOk_putPacket {router port p} (h : MemOk s) : MemOk (s.putPacket router port p) := by
  unfold State.putPacket
  extract_lets ch
  exact memOk_onRouter h

theorem memOk_inject {p} (h : MemOk s) : MemOk (s.inject p) :=
  memOk_onMe (memOk_putPacket h) (fun _ ht1 => ht1)

theorem memOk_sendDone {fc} (h : MemOk s) : MemOk (s.sendDone fc) :=
  memOk_retireRecord (memOk_onMe h (fun _ ht1 => tileOk_setFc ht1))

theorem memOk_fiUnit {i r run} (h : MemOk s) : MemOk (fiUnit i r s run) := by
  unfold fiUnit
  extract_lets n fid o pl next
  refine memOk_ite (memOk_engineFaultAt h) ?_
  split
  · split
    · exact memOk_engineFaultAt h
    · exact memOk_ite (memOk_sendDone (memOk_inject (memOk_of_okSnd ‹_› (memOk_ereadUnits h))))
        (memOk_onRun (memOk_inject (memOk_of_okSnd ‹_› (memOk_ereadUnits h))))
  · exact memOk_ite (memOk_sendDone (memOk_inject h)) (memOk_onRun (memOk_inject h))
  · exact memOk_ite (memOk_sendDone (memOk_inject h)) (memOk_onRun (memOk_inject h))

theorem outOk_execFiSendEntry (h : MemOk s) : OutOk (execFiSendEntry s) := by
  unfold execFiSendEntry
  extract_lets _ s1
  have hs1 : MemOk s1 := h
  dsimp only
  split
  · exact hs1
  · refine memOk_ite hs1 ?_
    split
    · refine memOk_ite (memOk_engineFaultAt hs1) ?_
      refine memOk_ite (memOk_sendDone hs1) ?_
      split
      · exact memOk_engineFaultAt hs1
      · refine memOk_ite (memOk_engineFaultAt hs1) ?_
        split
        · exact memOk_engineFaultAt hs1
        · exact memOk_ite (memOk_sendDone (memOk_inject (memOk_of_okSnd ‹_› (memOk_ereadUnits hs1))))
            (memOk_onRun (memOk_inject (memOk_of_okSnd ‹_› (memOk_ereadUnits hs1))))
    · exact hs1

end Sys2Proof.Proofs
end

section
/-! SUPPORT. Memory stays canonical (R272): trace records, and the requests of the E strand. -/

namespace Sys2Proof.Proofs

open Sys2Proof.Machine Sys2Proof.Laws

variable {s : State} {t : Tile}

theorem memOk_pushRecord {inst n w} (h : MemOk s) : MemOk (s.pushRecord inst n w) := by
  unfold State.pushRecord
  extract_lets l
  exact h

theorem memOk_postEvent {e} (h : MemOk s) : MemOk (s.postEvent e) := by
  unfold State.postEvent
  extract_lets w add
  exact memOk_onQueue (memOk_onQueue h)

theorem memOk_ringTake {die part ws} (h : MemOk s) : MemOk (s.ringTake die part ws) := by
  unfold State.ringTake
  extract_lets x reg
  exact memOk_ite h (memOk_onPart (memOk_pushRecord h))

theorem memOk_traceIn {die e} (h : MemOk s) : MemOk (s.traceIn die e) :=
  memOk_ringTake h

theorem memOk_traceAt {r e} (h : MemOk s) : MemOk (s.traceAt r e) :=
  memOk_ite h (memOk_ite (memOk_onPart (memOk_onRouter h)) (memOk_onRouter h))

theorem memOk_tellLost {r} (h : MemOk s) : MemOk (s.tellLost r) := by
  unfold State.tellLost
  extract_lets x
  dsimp only
  split
  · exact h
  · exact memOk_ite h (memOk_onRouter h)

theorem memOk_traceMove {r} (h : MemOk s) : MemOk (s.traceMove r) := by
  unfold State.traceMove
  split
  · exact h
  · exact memOk_tellLost (memOk_ringTake (memOk_onRouter h))

theorem memOk_traceSys {die e} (h : MemOk s) : MemOk (s.traceSys die e) := by
  unfold State.traceSys
  extract_lets seq
  exact memOk_pushRecord h

theorem memOk_partEvent {die e} (h : MemOk s) : MemOk (s.partEvent die e) :=
  memOk_postEvent (memOk_traceIn h)

theorem memOk_sysEvent {die e} (h : MemOk s) : MemOk (s.sysEvent die e) := by
  unfold State.sysEvent
  extract_lets w
  exact memOk_foldl (fun _ _ hs1 => memOk_onQueue hs1) (memOk_traceSys h)

theorem outOk_execTrace {sa imm} (h : MemOk s) : OutOk (execTrace sa imm s) := by
  unfold execTrace
  extract_lets tid
  dsimp only
  exact outOk_issue h (fun _ hs1 => memOk_retire (memOk_ite (memOk_traceAt hs1) hs1))

theorem memOk_placeReq {kind a b c fc k} (h : MemOk s) : MemOk (s.placeReq kind a b c fc k) := by
  unfold State.placeReq
  extract_lets s'
  have hs' : MemOk s' := memOk_onMe h (fun _ ht1 => ht1)
  exact memOk_retire hs'

theorem tileOk_reqDone (h : t.memOk) : t.reqDone.memOk :=
  h

theorem memOk_reqFault {q cause ptr page} (h : MemOk s) : MemOk (reqFault s q cause ptr page) :=
  memOk_stopStrand (memOk_unitFault (memOk_onMe h (fun _ ht1 => tileOk_reqDone ht1)))

theorem memOk_reqComplete {q nf} (h : MemOk s) : MemOk (reqComplete s q nf) :=
  memOk_onMe h (fun _ ht1 => tileOk_raise (tileOk_setFc (tileOk_reqDone ht1)))

theorem memOk_reqPlace {va n rd wr page} (h : MemOk s) : MemOk (reqPlace s va n rd wr page).2 := by
  unfold reqPlace
  extract_lets ptr
  split
  · exact h
  · split
    · exact memOk_of_snd ‹_› (memOk_gplace h)
    · exact memOk_of_snd ‹_› (memOk_gplace h)
    · exact memOk_tookWalks (memOk_of_snd ‹_› (memOk_gplace h))
    · exact memOk_of_snd ‹_› (memOk_gplace h)

theorem memOk_reqRead {va n page} (h : MemOk s) : MemOk (reqRead s va n page).2 := by
  unfold reqRead
  split <;> exact memOk_of_snd ‹_› (memOk_reqPlace h)

theorem memOk_resolvePage {table p} (h : MemOk s) : MemOk (resolvePage s table p).2 := by
  unfold resolvePage
  dsimp only
  split
  · exact memOk_of_snd ‹_› (memOk_reqRead h)
  · split
    · exact memOk_of_snd ‹_› (memOk_reqRead h)
    · split
      · exact memOk_of_snd ‹_› (memOk_reqRead h)
      · split
        · exact memOk_of_snd ‹_› (memOk_reqRead h)
        · split
          · exact memOk_of_snd ‹_› (memOk_reqRead h)
          · split <;> exact memOk_of_snd ‹_› (memOk_reqRead h)

theorem memOk_resolvePages {table n p} (h : MemOk s) : MemOk (resolvePages table n p s).2 := by
  induction n generalizing s p with
  | zero => exact h
  | succ n ih =>
    unfold resolvePages
    split
    · exact memOk_of_snd ‹_› (memOk_resolvePage h)
    · have hs := memOk_of_snd ‹_› (memOk_resolvePage h)
      split <;> exact memOk_of_snd ‹_› (ih hs)

theorem memOk_aqryGather {r} (h : MemOk s) : MemOk (aqryGather s r).2 := by
  unfold aqryGather
  extract_lets _ s1
  have hs1 : MemOk s1 := h
  dsimp only
  split
  · exact h
  next e =>
    have h2 := memOk_of_okSnd e (memOk_ereadUnits hs1)
    split
    next e => exact memOk_of_snd e (memOk_reqRead h2)
    next e =>
      have h3 := memOk_of_snd e (memOk_reqRead h2)
      split
      · split
        next e => exact memOk_of_snd e (memOk_resolvePages h3)
        next e =>
          have h4 := memOk_of_snd e (memOk_resolvePages h3)
          split
          · exact h4
          next e => exact memOk_of_okSnd e (memOk_ereadUnits h4)
      · exact h3

theorem memOk_reqResult {q bytes nf} (h : MemOk s) : MemOk (reqResult s q bytes nf) := by
  unfold reqResult
  extract_lets _ s1
  have hs1 : MemOk s1 := h
  split
  · exact memOk_reqFault hs1
  · exact memOk_reqComplete (memOk_of_ok ‹_› (memOk_ewrites hs1))

theorem memOk_sendQueries {r x} (h : MemOk s) : MemOk (sendQueries s r x) := by
  unfold sendQueries
  dsimp only
  refine memOk_foldl (fun _ _ hs1 => ?_) h
  split
  · exact memOk_ite hs1 hs1
  · exact hs1

theorem memOk_dropQueries {num} (h : MemOk s) : MemOk (s.dropQueries num) :=
  h

theorem memOk_aqryResult {r x parts} (h : MemOk s) : MemOk (aqryResult s r x parts) := by
  unfold aqryResult
  extract_lets ts empty nf skip
  exact memOk_reqResult h

theorem outOk_execAqryPerform (h : MemOk s) : OutOk (execAqryPerform s) := by
  unfold execAqryPerform
  dsimp only
  split
  · exact h
  · split
    · exact memOk_of_snd ‹_› (memOk_aqryGather h)
    · exact memOk_reqFault (memOk_dropQueries (memOk_of_snd ‹_› (memOk_aqryGather h)))
    · refine memOk_ite (memOk_sendQueries (memOk_of_snd ‹_› (memOk_aqryGather h))) ?_
      split
      · exact memOk_reqFault (memOk_dropQueries (memOk_of_snd ‹_› (memOk_aqryGather h)))
      · exact memOk_aqryResult (memOk_dropQueries (memOk_of_snd ‹_› (memOk_aqryGather h)))

theorem memOk_truncEntries {table first ps} (h : MemOk s) : MemOk (truncEntries table first ps s).2 := by
  induction ps generalizing s with
  | nil => exact h
  | cons p ps ih =>
    unfold truncEntries
    split
    · exact memOk_of_snd ‹_› (memOk_reqPlace h)
    · have hs := memOk_of_snd ‹_› (memOk_reqPlace h)
      dsimp only
      split
      · exact hs
      · split <;> exact memOk_of_snd ‹_› (ih hs)

theorem memOk_releaseGbn {part pkg gbn owner} (h : MemOk s) : MemOk (s.releaseGbn part pkg gbn owner) :=
  memOk_ite (memOk_onPart h) h

theorem memOk_kvReceive {m} (h : MemOk s) : MemOk (s.kvReceive m) := by
  unfold State.kvReceive
  split
  · exact memOk_ite h h
  · exact memOk_ite h h
  · exact memOk_ite (memOk_releaseGbn h) h

theorem outOk_execKvtruncPerform (h : MemOk s) : OutOk (execKvtruncPerform s) := by
  unfold execKvtruncPerform
  split
  · exact h
  · extract_lets table
    split
    next e => exact memOk_of_snd e (memOk_reqRead h)
    next e => exact memOk_reqFault (memOk_of_snd e (memOk_reqRead h))
    next e =>
      have h1 := memOk_of_snd e (memOk_reqRead h)
      split
      · exact memOk_reqFault h1
      · extract_lets
        refine memOk_ite (memOk_reqComplete h1) ?_
        split
        next e => exact memOk_of_snd e (memOk_truncEntries h1)
        next e => exact memOk_reqFault (memOk_of_snd e (memOk_truncEntries h1))
        next e =>
          have h2 := memOk_of_snd e (memOk_truncEntries h1)
          split
          next e => exact memOk_of_snd e (memOk_reqPlace h2)
          next e => exact memOk_reqFault (memOk_of_snd e (memOk_reqPlace h2))
          next e =>
            extract_lets s3 s4 own
            have h3 : MemOk s3 := memOk_foldl (fun _ _ hs => memOk_ite
              (memOk_ite (memOk_releaseGbn (memOk_pwrite hs)) (memOk_pwrite hs)) (memOk_pwrite hs))
              (memOk_of_snd e (memOk_reqPlace h2))
            have h4 : MemOk s4 := memOk_pwrite h3
            exact memOk_ite (memOk_reqComplete h4) (memOk_onMe h4 fun _ ht => ht)

theorem memOk_releaseDone {owner} (h : MemOk s) : MemOk (s.releaseDone owner) := by
  unfold State.releaseDone
  split
  · exact h
  · split
    · exact h
    · exact memOk_ite (memOk_onTile h (fun _ ht1 => tileOk_setFc (tileOk_reqDone ht1)))
        (memOk_onTile h (fun _ ht2 => ht2))

theorem outOk_execKvReleaseAppend (h : MemOk s) : OutOk (execKvReleaseAppend s) := by
  unfold execKvReleaseAppend
  dsimp only
  split
  · exact h
  · exact memOk_ite h (memOk_ite (memOk_releaseDone (memOk_partEvent (memOk_onPart (memOk_setPart h))))
      (memOk_releaseDone (memOk_onPart (memOk_pwrite (memOk_setPart h)))))

theorem outOk_execTopk {k sa sb sc fc} (h : MemOk s) : OutOk (execTopk k sa sb sc fc s) := by
  unfold execTopk
  extract_lets fits
  exact outOk_issue h (fun _ hs1 => memOk_placeReq hs1)

theorem memOk_logitPlaces {ps} (h : MemOk s) : MemOk (logitPlaces s ps).2 := by
  unfold logitPlaces
  extract_lets stop inside
  split
  · exact memOk_of_snd ‹_› (memOk_gplaces h)
  · exact memOk_of_snd ‹_› (memOk_gplaces h)
  · exact memOk_of_snd ‹_› (memOk_gplaces h)
  · split <;> exact memOk_of_snd ‹_› (memOk_gplaces h)

theorem memOk_logitRows {o a} (h : MemOk s) : MemOk (logitRows o a s).2 := by
  unfold logitRows
  extract_lets ps
  split
  · exact memOk_of_snd ‹_› (memOk_logitPlaces h)
  · split <;> exact memOk_of_snd ‹_› (memOk_logitPlaces h)

theorem outOk_execTopkPerform (h : MemOk s) : OutOk (execTopkPerform s) := by
  unfold execTopkPerform
  dsimp only
  split
  · exact h
  · split
    · exact h
    · split
      · exact memOk_of_snd ‹_› (memOk_logitRows h)
      · exact memOk_reqFault (memOk_of_snd ‹_› (memOk_logitRows h))
      · exact memOk_reqResult (memOk_of_snd ‹_› (memOk_logitRows h))

end Sys2Proof.Proofs
end

section
/-! SUPPORT. Memory stays canonical (R272): hurdles, and the routers with their flow entries and links. -/

namespace Sys2Proof.Proofs

open Sys2Proof.Machine Sys2Proof.Laws

variable {s : State} {t : Tile}

theorem memOk_setHome {h1} (h : MemOk s) : MemOk (s.setHome h1) :=
  h

theorem outOk_execHarr {idx} (h : MemOk s) : OutOk (execHarr idx s) := by
  unfold execHarr
  extract_lets h1
  dsimp only
  refine outOk_issue h (fun _ hs1 => ?_)
  refine memOk_retire ?_
  refine memOk_onMe ?_ (fun _ ht1 => tileOk_setHurdle ht1)
  refine memOk_acquire ?_
  split
  · exact memOk_setHome hs1
  · exact hs1

theorem outOk_execHset {idx sa} (h : MemOk s) : OutOk (execHset idx sa s) := by
  unfold execHset
  extract_lets a
  refine outOk_issue h (fun _ hs1 => ?_)
  refine memOk_retire ?_
  split <;> exact hs1

theorem outOk_execHurdleArrival (h : MemOk s) : OutOk (execHurdleArrival s) := by
  unfold execHurdleArrival
  dsimp only
  split
  · exact h
  · exact memOk_ite h (memOk_setHome h)

theorem tileOk_realign (h : t.memOk) : t.realign.memOk :=
  h

theorem tileOk_phaseDone {n counted} (h : t.memOk) : (t.phaseDone n counted).memOk := by
  unfold Tile.phaseDone
  extract_lets h1 t1
  have ht1 : t1.memOk := tileOk_setHurdle h
  exact tileOk_ite (tileOk_realign ht1) ht1

theorem savedOk_savedPhase {x : Saved} {p lid n no counted} (h : x.tile.memOk) :
    (savedPhase x p lid n no counted).tile.memOk := by
  unfold savedPhase
  split
  · exact tileOk_phaseDone h
  · exact h

theorem outOk_execHurdlePhaseComplete (h : MemOk s) : OutOk (execHurdlePhaseComplete s) := by
  unfold execHurdlePhaseComplete
  dsimp only
  split
  · exact h
  · refine memOk_ite h (memOk_setHome (memOk_mapSaves (memOk_foldl ?_ h) fun _ hx => savedOk_savedPhase hx))
    exact fun _ _ hs => memOk_ite (memOk_onTile hs fun _ ht => tileOk_phaseDone ht) hs

theorem tileOk_hurdleSet {h1} (h : t.memOk) : (t.hurdleSet h1).memOk :=
  tileOk_setHurdle h

theorem outOk_execHurdleConfigEffect (h : MemOk s) : OutOk (execHurdleConfigEffect s) := by
  unfold execHurdleConfigEffect
  refine memOk_foldl (fun s x hs => memOk_mapSaves (memOk_foldl ?_ hs) fun y hy => ?_) h
  · exact fun _ _ hs => memOk_ite (memOk_onTile hs fun _ ht => tileOk_hurdleSet ht) hs
  · split
    · exact tileOk_hurdleSet hy
    · exact hy

theorem memOk_onEntry {r part fid f} (h : MemOk s) : MemOk (s.onEntry r part fid f) :=
  memOk_onRouter h

theorem memOk_routerFault {r cause reason part port pidx fid} (h : MemOk s) :
    MemOk (routerFault s r cause reason part port pidx fid) := by
  unfold routerFault
  extract_lets s1
  have hs1 : MemOk s1 := memOk_onRouter h
  exact memOk_raiseHalt hs1

theorem memOk_droveFault {r reason part port stamp} (h : MemOk s) :
    MemOk (droveFault s r reason part port stamp) := by
  unfold droveFault
  extract_lets w s1 e e1
  have hs1 : MemOk s1 := memOk_onRouter h
  exact memOk_postEvent (memOk_traceAt (memOk_raiseHalt hs1))

theorem memOk_routerEcc {r part} (h : MemOk s) : MemOk (routerEcc s r part) := by
  unfold routerEcc
  extract_lets d s1
  have hs1 : MemOk s1 := memOk_onRouter h
  exact memOk_raiseHalt hs1

theorem memOk_strayEvent {r port p} (h : MemOk s) : MemOk (strayEvent s r port p) := by
  unfold strayEvent
  extract_lets e s1 due
  have hs1 : MemOk s1 := memOk_traceAt h
  exact memOk_ite (memOk_postEvent (memOk_onRouter hs1)) hs1

theorem memOk_strayIn {r port p} (h : MemOk s) : MemOk (strayIn s r port p) := by
  unfold strayIn
  extract_lets q
  exact memOk_ite (memOk_strayEvent (memOk_onRouter h)) (memOk_onRouter h)

theorem memOk_freeInput {r port ch p} (h : MemOk s) : MemOk (s.freeInput r port ch p) := by
  unfold State.freeInput
  extract_lets s1
  have hs1 : MemOk s1 := memOk_onRouter h
  split
  · exact memOk_onPort hs1
  · exact hs1

theorem memOk_takePacket (h : MemOk s) : MemOk s.takePacket := by
  unfold State.takePacket
  split
  · exact memOk_freeInput h
  · exact h

theorem tileOk_deliverSp {kind ws a} (h : t.memOk) : (deliverSp kind ws a t).1.memOk := by
  induction ws generalizing t a with
  | nil => exact h
  | cons w ws ih =>
    unfold deliverSp
    split
    · exact ih (tileOk_spWrite h)
    · exact ih h

theorem memOk_deliverMem {kind l} (h : MemOk s) : MemOk (deliverMem kind l s).1 := by
  induction l generalizing s with
  | nil => exact h
  | cons x l ih => exact ih (memOk_pwrite h)

theorem memOk_deliverLog {kind part fold task l va} (h : MemOk s) :
    MemOk (deliverLog kind part fold task l va s) := by
  induction l generalizing s va with
  | nil => exact h
  | cons x l ih => exact ih (memOk_logItem h)

theorem flowOk_deliverBytes {r x kind ofs ws} (h : MemOk s) : FlowOk (deliverBytes s r x kind ofs ws).1 := by
  unfold deliverBytes
  extract_lets addr n
  dsimp only
  split
  · exact h
  · split
    · split
      · exact h
      · split
        · exact h
        · exact memOk_setTile h (tileOk_ite (tileOk_deliverSp (tileOk_tile h))
            (tileOk_offend (tileOk_deliverSp (tileOk_tile h))))
    · split
      · exact h
      · split
        · exact memOk_of_snd ‹_› (memOk_gplaces h)
        · split <;> exact memOk_of_snd ‹_› (memOk_gplaces h)
        · exact memOk_of_snd ‹_› (memOk_gplaces h)
        · split
          · exact memOk_deliverLog (memOk_of_snd ‹_› (memOk_gplaces h))
          · exact memOk_deliverMem (memOk_of_snd ‹_› (memOk_gplaces h))

theorem memOk_countDelivery {r x nf} (h : MemOk s) : MemOk (countDelivery s r x nf) := by
  unfold countDelivery
  extract_lets unbounded size full s1
  have hs1 : MemOk s1 := memOk_onEntry h
  exact memOk_ite (memOk_onTile hs1 (fun _ ht1 => tileOk_raise (tileOk_setFc ht1))) hs1

theorem flowOk_deliverPacket {r x kind p} (h : MemOk s) : FlowOk (deliverPacket s r x kind p) := by
  unfold deliverPacket
  refine flowOk_ite h (flowOk_ite h ?_)
  have hb : FlowOk (deliverBytes s r x kind p.ofs.toNat (wordsOf p.data)).1 := flowOk_deliverBytes h
  split
  next e =>
    rw [e] at hb
    exact memOk_onEntry (memOk_countDelivery hb)
  next e =>
    rw [e] at hb
    exact hb

theorem memOk_emitFlit {p nak} (h : MemOk s) : MemOk (emitFlit s p nak) := by
  unfold emitFlit
  extract_lets x
  exact memOk_ite (memOk_ite (memOk_onPort h) h) (memOk_onPort h)

theorem memOk_sendLink {p n} (h : MemOk s) : MemOk (sendLink p n s) := by
  induction n generalizing s with
  | zero => exact h
  | succ n ih => exact memOk_ite h (ih (memOk_emitFlit h))

theorem memOk_linkGo {p} (h : MemOk s) : MemOk (s.linkGo p) :=
  memOk_sendLink h

theorem memOk_linkQueue {p l} (h : MemOk s) : MemOk (s.linkQueue p l) :=
  memOk_linkGo (memOk_onPort h)

theorem memOk_sendTunnel {n peer k} (h : MemOk s) : MemOk (sendTunnel n peer k s) := by
  induction k generalizing s with
  | zero => exact h
  | succ k ih =>
    unfold sendTunnel
    dsimp only
    split
    · exact h
    · exact memOk_ite h (ih (memOk_onEth h))

theorem memOk_ethSend {n peer p} (h : MemOk s) : MemOk (ethSend s n peer p) := by
  unfold ethSend
  split
  · exact h
  · exact memOk_ite h (memOk_sendTunnel (memOk_onEth h))

theorem memOk_queueOut {r port p peer} (h : MemOk s) : MemOk (s.queueOut r port p peer) :=
  memOk_onRouter h

theorem memOk_sendOn {r came port p} (h : MemOk s) : MemOk (sendOn s r came port p) := by
  unfold sendOn
  refine memOk_ite (memOk_queueOut h) ?_
  refine memOk_ite h ?_
  split
  · exact memOk_ite (memOk_linkQueue h) h
  · split
    · exact memOk_queueOut h
    · exact memOk_strayIn h
  · exact h

theorem memOk_linkArrive {r port y} (h : MemOk s) : MemOk (linkArrive s r port y) := by
  unfold linkArrive
  split
  · exact memOk_putPacket h
  · split
    · exact memOk_ethSend h
    · exact h

theorem memOk_moveFlit {r port ch} (h : MemOk s) : MemOk (moveFlit s r port ch) := by
  unfold moveFlit
  extract_lets x l
  split
  · exact h
  · exact memOk_ite (memOk_linkArrive (memOk_onRouter h)) (memOk_onRouter h)

theorem memOk_moveLinks {r} (h : MemOk s) : MemOk (s.moveLinks r) := by
  unfold State.moveLinks
  extract_lets s1
  have hs1 : MemOk s1 := by
    dsimp only [s1]
    exact memOk_foldl (fun _ _ hs2 => memOk_foldl (fun _ _ hs3 => memOk_ite hs3 (memOk_moveFlit hs3)) hs2) h
  split
  · exact memOk_linkGo hs1
  · exact hs1

theorem memOk_traceStep {r} (h : MemOk s) : MemOk (s.traceStep r) :=
  memOk_ite (memOk_traceMove h) h

theorem memOk_traceResult {r x pidx first last gap} (h : MemOk s) :
    MemOk (traceResult s r x pidx first last gap) := by
  unfold traceResult
  extract_lets part fid
  exact memOk_ite (memOk_traceAt h) h

theorem flowOk_sendResult {r x keep p first last gap} (h : MemOk s) :
    FlowOk (sendResult s r x keep p first last gap) := by
  unfold sendResult
  dsimp only
  refine flowOk_ite h ?_
  split
  · exact memOk_traceResult (memOk_onEntry (memOk_foldl (fun _ _ hs1 => memOk_sendOn hs1)
      (of_flowOk_ok ‹_› (flowOk_deliverPacket h))))
  · exact flowOk_deliverPacket h

theorem memOk_loadEntry {r part w lid secure} (h : MemOk s) : ExceptOk MemOk (s.loadEntry r part w lid secure) := by
  unfold State.loadEntry
  extract_lets e busy
  split
  · split
    · exact trivial
    · split
      · exact trivial
      · exact memOk_onRouter h
  · split
    · exact trivial
    · split
      · exact trivial
      · split
        · exact trivial
        · split
          · exact trivial
          · exact memOk_onRouter h

theorem memOk_loadFault {r part w reason} (h : MemOk s) : MemOk (s.loadFault r part w reason) :=
  memOk_ite (memOk_routerFault h) h

theorem outOk_execEload {queue router w} (h : MemOk s) : OutOk (execEload queue router w s) := by
  unfold execEload
  split
  · exact memOk_of_ok ‹_› (memOk_loadEntry h)
  · exact memOk_loadFault h

theorem flowOk_combineStep {r x port p} (h : MemOk s) : FlowOk (combineStep s r x port p) := by
  unfold combineStep
  extract_lets num n ord slot
  dsimp only
  exact flowOk_ite h (flowOk_ite h (flowOk_ite h (memOk_onEntry h)))

theorem flowOk_passStep {r x port p} (h : MemOk s) : FlowOk (passStep s r x port p) := by
  unfold passStep
  refine flowOk_ite h ?_
  split
  · exact memOk_onEntry (of_flowOk_ok ‹_› (flowOk_sendResult h))
  · exact flowOk_sendResult h

theorem flowOk_deliverStep {kind r x port p} (h : MemOk s) : FlowOk (deliverStep kind s r x port p) := by
  unfold deliverStep
  dsimp only
  split
  · exact memOk_traceResult (memOk_onEntry (of_flowOk_ok ‹_› (flowOk_deliverPacket h)))
  · exact flowOk_deliverPacket h

theorem flowOk_dropStep {r x port x1} (h : MemOk s) : FlowOk (dropStep s r x port x1) :=
  memOk_onEntry h

theorem flowOk_trnStep {r x port p} (h : MemOk s) : FlowOk (trnStep s r x port p) := by
  unfold trnStep
  extract_lets h1 num
  dsimp only
  exact flowOk_ite h (flowOk_ite h (flowOk_ite h (memOk_onEntry h)))

theorem flowOk_releaseHeld {r part fid port l} (h : MemOk s) : FlowOk (releaseHeld r part fid port l s) := by
  induction l generalizing s with
  | nil => exact h
  | cons x l ih =>
    unfold releaseHeld
    split
    · exact h
    · split
      · exact ih (memOk_onEntry (of_flowOk_ok ‹_› (flowOk_sendResult h)))
      · exact memOk_routerFault (of_flowOk_fault ‹_› (flowOk_sendResult h))
      · exact flowOk_sendResult h

theorem memOk_keepWalks {a : State} (h : MemOk s) : MemOk (s.keepWalks a) := h

theorem flowOk_signalStep {r x port p} (h : MemOk s) : FlowOk (signalStep s r x port p) := by
  unfold signalStep
  dsimp only
  refine flowOk_ite (flowOk_ite h (memOk_onEntry (memOk_foldl (fun _ _ hs1 => memOk_sendOn hs1) h))) ?_
  split
  · exact memOk_onEntry (of_flowOk_ok ‹_› (flowOk_deliverPacket h))
  · exact flowOk_deliverPacket h

theorem flowOk_holdStep {r x port p} (h : MemOk s) : FlowOk (holdStep s r x port p) := by
  unfold holdStep
  dsimp only
  split
  · split
    · have hs := of_flowOk_ok ‹_› (flowOk_releaseHeld h)
      split
      · exact hs
      · split
        · exact memOk_keepWalks h
        · exact flowOk_signalStep hs
    · exact memOk_keepWalks h
    · exact flowOk_releaseHeld h
  · exact flowOk_ite h (memOk_onEntry h)

theorem flowOk_opStep {r x port p} (h : MemOk s) : FlowOk (opStep s r x port p) := by
  unfold opStep
  refine flowOk_ite h ?_
  split
  · exact flowOk_passStep h
  · exact flowOk_passStep h
  · exact flowOk_trnStep h
  · exact flowOk_holdStep h
  · exact flowOk_deliverStep h
  · exact flowOk_deliverStep h
  · exact flowOk_deliverStep h
  · exact flowOk_dropStep h
  · exact flowOk_combineStep h

theorem memOk_flowDone {r part port p a} (ha : FlowOk a) : MemOk (flowDone s r part port p a) := by
  cases a with
  | wait a => exact ha
  | fault c why a => exact memOk_routerFault ha
  | raised a => exact ha
  | ecc a => exact memOk_routerEcc ha
  | ok a => exact memOk_takePacket ha

theorem outOk_flowOp {op e} (h : MemOk s) : OutOk (flowOp op e s) := by
  unfold flowOp
  extract_lets r port
  split
  · refine memOk_ite h ?_
    refine memOk_ite ?_ (memOk_flowDone (flowOk_opStep h))
    refine memOk_ite h ?_
    split
    · exact memOk_takePacket (memOk_onEntry h)
    · exact h
  · exact memOk_ite (memOk_routerEcc (memOk_takePacket h)) h
  · exact memOk_ite (memOk_droveFault h) h
  · exact memOk_ite (memOk_routerFault h) h
  · exact h

theorem outOk_execStrayPacket (h : MemOk s) : OutOk (execStrayPacket s) := by
  unfold execStrayPacket
  extract_lets r
  split
  · exact memOk_strayIn (memOk_takePacket h)
  · exact memOk_ite (memOk_routerFault h) h
  · exact memOk_ite (memOk_droveFault h) h
  · exact memOk_ite (memOk_routerEcc (memOk_takePacket h)) h
  · exact h

theorem outOk_execRoundResultSend (h : MemOk s) : OutOk (execRoundResultSend s) := by
  unfold execRoundResultSend
  extract_lets r part fid
  split
  · exact h
  · refine memOk_ite h ?_
    refine memOk_ite (memOk_routerEcc h) ?_
    split
    · exact h
    · split
      · exact memOk_onEntry (of_flowOk_ok ‹_› (flowOk_sendResult h))
      · split
        · exact of_flowOk_wait ‹_› (flowOk_sendResult h)
        · exact memOk_routerFault (of_flowOk_fault ‹_› (flowOk_sendResult h))
        · exact of_flowOk_raised ‹_› (flowOk_sendResult h)
        · exact memOk_routerEcc (of_flowOk_ecc ‹_› (flowOk_sendResult h))
        · exact of_flowOk_ok ‹_› (flowOk_sendResult h)

theorem outOk_execFlowStall (h : MemOk s) : OutOk (execFlowStall s) := by
  unfold execFlowStall
  extract_lets r part fid
  split
  · exact h
  · exact memOk_ite (memOk_routerFault h) h

theorem memOk_strayRead {r off} (h : MemOk s) : MemOk (strayRead s r off) := by
  unfold strayRead
  extract_lets part
  exact memOk_ite (memOk_onRouter h) h

theorem memOk_sendBell {r port f} (h : MemOk s) : MemOk (sendBell s r port f) := by
  unfold sendBell
  dsimp only
  split
  · exact h
  · split
    · exact memOk_linkQueue h
    · exact h

theorem outOk_execBellwetherSend (h : MemOk s) : OutOk (execBellwetherSend s) := by
  unfold execBellwetherSend
  extract_lets r port x
  exact memOk_ite h (memOk_ite (memOk_ite (memOk_sendBell (memOk_onRouter h)) h)
    (memOk_ite h (memOk_sendBell (memOk_onRouter h))))

theorem outOk_execDroveRelease (h : MemOk s) : OutOk (execDroveRelease s) := by
  unfold execDroveRelease
  extract_lets r part
  split
  · refine memOk_ite h ?_
    refine memOk_ite (memOk_routerEcc h) ?_
    split
    · exact memOk_onEntry (of_flowOk_ok ‹_› (flowOk_opStep h))
    · exact of_flowOk_wait ‹_› (flowOk_opStep h)
    · exact memOk_routerFault (of_flowOk_fault ‹_› (flowOk_opStep h))
    · exact of_flowOk_raised ‹_› (flowOk_opStep h)
    · exact memOk_routerEcc (of_flowOk_ecc ‹_› (flowOk_opStep h))
  · exact h

theorem outOk_execDroveStall (h : MemOk s) : OutOk (execDroveStall s) := by
  unfold execDroveStall
  extract_lets r part late
  split
  · exact memOk_ite h (memOk_droveFault h)
  · exact h

theorem memOk_writeDrovecfg {v} (h : MemOk s) : OptionOk MemOk (s.writeDrovecfg v) := by
  unfold State.writeDrovecfg
  extract_lets on root busy
  split
  · exact trivial
  · split
    · exact trivial
    · split
      · exact trivial
      · exact h

theorem outOk_execDrovecfgWrite {queue v} (h : MemOk s) : OutOk (execDrovecfgWrite queue v s) := by
  refine memOk_ite h ?_
  cases hw : s.writeDrovecfg v with
  | none => exact h
  | some a => exact of_optionOk hw (memOk_writeDrovecfg h)

theorem memOk_loseLock (h : MemOk s) : MemOk (loseLock s) := by
  unfold loseLock
  dsimp only
  exact memOk_ite h (memOk_sysEvent h)

theorem outOk_execTimeFlitSend (h : MemOk s) : OutOk (execTimeFlitSend s) := by
  unfold execTimeFlitSend
  extract_lets p x due
  exact memOk_ite h (memOk_linkQueue (memOk_onPort h))

theorem memOk_stepPtc {ofs} (h : MemOk s) : MemOk (stepPtc s ofs) := by
  unfold stepPtc
  extract_lets t1 d
  exact h

theorem memOk_exchanged {ofs} (h : MemOk s) : MemOk (exchanged s ofs) := by
  unfold exchanged
  extract_lets near streak lock s1
  have hs1 : MemOk s1 := h
  exact memOk_ite (memOk_stepPtc hs1) (memOk_ite (memOk_loseLock hs1) hs1)

theorem memOk_takeTime {port flit} (h : MemOk s) : MemOk (s.takeTime port flit) := by
  unfold State.takeTime
  extract_lets x
  dsimp only
  refine memOk_ite h ?_
  split
  · exact memOk_onPort h
  · refine memOk_ite (memOk_onPort (memOk_onPort h)) ?_
    split
    · exact memOk_ite (memOk_onPort (memOk_onPort h)) (memOk_exchanged
        (memOk_freeBit (memOk_onPort (memOk_onPort h))))
    · exact memOk_onPort (memOk_onPort h)

theorem memOk_sendNak {p} (h : MemOk s) : MemOk (sendNak s p) :=
  memOk_emitFlit h

theorem memOk_linkSlot {p cls kind f} (h : MemOk s) : MemOk (linkSlot s p cls kind f) := by
  unfold linkSlot
  dsimp only
  split
  · split
    · exact memOk_ite (memOk_putPacket (memOk_onPort h)) (memOk_onPort h)
    · exact h
  · exact memOk_onRouter h
  · exact memOk_takeTime h
  · exact h

theorem outOk_execLinkFlitReceive {port flit} (h : MemOk s) : OutOk (execLinkFlitReceive port flit s) := by
  unfold execLinkFlitReceive
  dsimp only
  exact memOk_ite h (memOk_ite (memOk_sendNak h) (memOk_ite (memOk_ite h (memOk_onPort h))
    (memOk_foldl (fun _ _ hs1 => memOk_linkSlot hs1) (memOk_onPort (memOk_ite h (memOk_onPort h))))))

theorem outOk_execLinkRetry {port ack} (h : MemOk s) : OutOk (execLinkRetry port ack s) := by
  unfold execLinkRetry
  dsimp only
  exact memOk_ite h (memOk_ite h (memOk_countRecord (memOk_onPort h)))

theorem memOk_dropDrove {p} (h : MemOk s) : MemOk (dropDrove s p) :=
  memOk_onRouter h

theorem outOk_execPortDown (h : MemOk s) : OutOk (execPortDown s) := by
  unfold execPortDown
  dsimp only
  exact memOk_ite h (memOk_ite (memOk_loseLock (memOk_sysEvent
    (memOk_countRecord (memOk_dropDrove (memOk_onPort h))))) (memOk_sysEvent
    (memOk_countRecord (memOk_dropDrove (memOk_onPort h)))))

theorem outOk_execPortUp (h : MemOk s) : OutOk (execPortUp s) := by
  unfold execPortUp
  dsimp only
  exact memOk_ite h (memOk_sysEvent (memOk_onPort h))

theorem outOk_execEthDatagramReceive {eth peer header payload} (h : MemOk s) :
    OutOk (execEthDatagramReceive eth peer header payload s) := by
  unfold execEthDatagramReceive
  dsimp only
  exact memOk_ite h (memOk_ite (memOk_foldl (fun _ _ hs1 => memOk_putPacket hs1) (memOk_sendTunnel (memOk_onEth h)))
    (memOk_sendTunnel (memOk_onEth h)))

theorem outOk_execEthResend (h : MemOk s) : OutOk (execEthResend s) := by
  unfold execEthResend
  dsimp only
  split
  · exact h
  · exact memOk_ite h (memOk_ite (memOk_sysEvent (memOk_onEth h)) (memOk_onEth h))

theorem outOk_execPtpEventStamp {eth tai lock} (h : MemOk s) : OutOk (execPtpEventStamp eth tai lock s) :=
  memOk_ite h h

end Sys2Proof.Proofs
end

section
/-! SUPPORT. Memory stays canonical (R272): the shepherd, from the start of a task to its end, its saving and restoring. -/

namespace Sys2Proof.Proofs

open Sys2Proof.Machine Sys2Proof.Laws

variable {s : State} {t : Tile}

theorem memOk_count {p level id n} (h : MemOk s) : MemOk (s.count p level id n) :=
  memOk_ite h (memOk_changeUnit h)

theorem memOk_endUnit {p level id state} (h : MemOk s) : MemOk (s.endUnit p level id state) :=
  memOk_changeUnit h

theorem memOk_settleJob {p jid} (h : MemOk s) : MemOk (s.settleJob p jid) := by
  unfold State.settleJob
  split
  · exact memOk_ite (memOk_endUnit h) h
  · exact h

theorem memOk_settleGraph {p gid} (h : MemOk s) : MemOk (s.settleGraph p gid) := by
  unfold State.settleGraph
  split
  · exact memOk_ite (memOk_endUnit h) h
  · exact h

theorem memOk_choiceEvent {p} (h : MemOk s) : MemOk (s.choiceEvent p) :=
  memOk_onPart h

theorem memOk_refresh {p} (h : MemOk s) : MemOk (s.refresh p) := by
  unfold State.refresh
  extract_lets due
  exact memOk_ite (memOk_choiceEvent h) h

theorem memOk_rejectRecord {i level r reason} (h : MemOk s) : MemOk (s.rejectRecord i level r reason) := by
  unfold State.rejectRecord
  extract_lets u u1 s1
  have hs1 : MemOk s1 := memOk_writeStat h
  exact memOk_ite (memOk_refresh hs1) hs1

theorem memOk_takeIn {i} (h : MemOk s) : MemOk (s.takeIn i) := by
  unfold State.takeIn
  dsimp only
  split
  · exact memOk_countError h
  · split
    · exact h
    · refine memOk_ite (memOk_rejectRecord h) ?_
      split
      · exact memOk_rejectRecord (memOk_countError h)
      · exact memOk_ite (memOk_rejectRecord (memOk_countError h))
          (memOk_refresh (memOk_ite (memOk_onUnit (memOk_onUnit (memOk_writeStat h))) (memOk_writeStat h)))

theorem outOk_execRecordAdmit (h : MemOk s) : OutOk (execRecordAdmit s) := by
  unfold execRecordAdmit
  split
  · exact h
  · exact memOk_ite h (memOk_takeIn h)

theorem memOk_dropEntries {p lid} (h : MemOk s) : MemOk (s.dropEntries p lid).1 := by
  unfold State.dropEntries
  extract_lets mine gone
  dsimp only
  exact memOk_foldl (fun _ _ hs1 => memOk_leaveWalks hs1) h

theorem memOk_endLaunch {p lid state} (h : MemOk s) : MemOk (s.endLaunch p lid state) := by
  unfold State.endLaunch
  split
  · exact h
  · have hs := memOk_mapTiles (f := fun x => (x.1, { x.2 with preload :=
        match x.2.preload with
        | some y => if y.part = p ∧ y.lid = lid then none else some y
        | none => none })) (memOk_filterSaves (p := fun x => !(x.part == p && x.lid == lid)) h) fun _ hx => hx
    exact memOk_choiceEvent (memOk_refresh (memOk_settleJob (memOk_settleGraph (memOk_endUnit (memOk_onUnit
      (memOk_onPart hs))))))

theorem tileOk_fresh (h : t.memOk) : t.fresh.memOk := by
  unfold Tile.fresh
  extract_lets x
  exact h

theorem tileOk_evict (h : t.memOk) : t.evict.memOk :=
  h

theorem memOk_settlePreempt {p lid} (h : MemOk s) : MemOk (s.settlePreempt p lid) := by
  unfold State.settlePreempt
  split
  · exact h
  · refine memOk_ite (memOk_changeUnit (memOk_mapSaves h fun x hx => ?_)) h
    split <;> exact hx

theorem outOk_execTaskEnd (h : MemOk s) : OutOk (execTaskEnd s) := by
  unfold execTaskEnd
  split
  · exact h
  · extract_lets n s1 s2 s3
    have h2 : MemOk s2 := memOk_onPart (memOk_onMe h fun _ ht => tileOk_evict ht)
    refine memOk_ite h ?_
    split
    · exact memOk_choiceEvent h2
    · extract_lets s4 s5
      have h3 : MemOk s3 := memOk_onUnit h2
      have h4 : MemOk s4 := memOk_ite h3 (memOk_count (memOk_count (memOk_count h3)))
      have h5 : MemOk s5 := memOk_ite (memOk_endLaunch h4) (memOk_settlePreempt h4)
      exact memOk_choiceEvent (memOk_refresh h5)

theorem tileOk_stopCancelled {dcc} (h : t.memOk) : (Tile.stopCancelled dcc t).memOk :=
  h

theorem memOk_countGraphOf {u n} (h : MemOk s) : MemOk (s.countGraphOf u n) := by
  unfold State.countGraphOf
  extract_lets before
  split
  · exact memOk_ite h (memOk_writeStat h)
  · exact h

theorem memOk_countFold {p f} (h : MemOk s) : MemOk (s.countFold p f) := by
  unfold State.countFold
  extract_lets ls s1 s3 n
  have hs1 : MemOk s1 := memOk_foldl (fun _ _ hs2 => memOk_countGraphOf hs2) h
  have hs3 : MemOk s3 := by
    dsimp only [s3]
    exact memOk_foldl (fun _ _ hs4 => memOk_ite hs4 (memOk_writeStat hs4)) hs1
  exact memOk_count (memOk_count hs3)

theorem memOk_cancelLaunch {p lid} (h : MemOk s) : MemOk (s.cancelLaunch p lid) := by
  unfold State.cancelLaunch
  dsimp only
  split
  · exact h
  · exact memOk_endLaunch (memOk_count (memOk_count (memOk_changeUnit
      (memOk_foldl (fun _ _ hs1 => memOk_ite (memOk_onTile hs1 (fun _ ht1 => tileOk_stopCancelled ht1)) hs1) h))))

theorem memOk_cancelLaunches {p c} (h : MemOk s) : MemOk (s.cancelLaunches p c) :=
  memOk_foldl (fun _ _ hs1 => memOk_cancelLaunch hs1) h

theorem memOk_cancelTop {p level id jid of} (h : MemOk s) : MemOk (s.cancelTop p level id jid of) := by
  unfold State.cancelTop
  extract_lets n
  exact memOk_changeUnit h

theorem memOk_cancelFold {p id} (h : MemOk s) : MemOk (s.cancelFold p id) := by
  unfold State.cancelFold
  dsimp only
  split
  · exact h
  · exact memOk_endUnit (memOk_changeUnit (memOk_countFold (memOk_cancelLaunches h)))

theorem memOk_cancelGraph {p id} (h : MemOk s) : MemOk (s.cancelGraph p id) := by
  unfold State.cancelGraph
  dsimp only
  split
  · exact h
  · exact memOk_cancelLaunches (memOk_cancelTop h)

theorem memOk_cancelUnit {p level id} (h : MemOk s) : MemOk (s.cancelUnit p level id) := by
  unfold State.cancelUnit
  dsimp only
  split
  · exact h
  · refine memOk_choiceEvent ?_
    refine memOk_refresh ?_
    refine memOk_settleJob ?_
    split
    · exact memOk_cancelLaunch h
    · exact memOk_cancelGraph h
    · exact memOk_foldl (fun _ _ hs1 => memOk_cancelFold hs1) h
    · exact memOk_cancelLaunches (memOk_foldl (fun _ _ hs2 => memOk_cancelFold hs2)
        (memOk_foldl (fun _ _ hs3 => memOk_cancelGraph hs3) (memOk_cancelTop h)))

theorem memOk_cancelLater {p level id} (h : MemOk s) : MemOk (s.cancelLater p level id) :=
  memOk_onPart h

theorem memOk_takeCancels {p} (h : MemOk s) : MemOk (s.takeCancels p) :=
  memOk_ite h (memOk_foldl (fun _ _ hs1 => memOk_cancelUnit hs1) (memOk_onPart h))

theorem outOk_execCncl {lvl sa} (h : MemOk s) : OutOk (execCncl lvl sa s) := by
  unfold execCncl
  extract_lets id
  exact outOk_issue h (fun _ hs1 => memOk_cancelLater (memOk_retire hs1))

theorem outOk_execLvwt {lvl sa sb} (h : MemOk s) : OutOk (execLvwt lvl sa sb s) := by
  unfold execLvwt
  extract_lets id met foreign
  exact outOk_issue h (fun _ hs1 => memOk_retire hs1)

theorem tileOk_takeDrain {bm} (h : t.memOk) : (t.takeDrain bm).memOk :=
  h

theorem outOk_execPhint {imm} (h : MemOk s) : OutOk (execPhint imm s) :=
  outOk_issue h (fun _ hs1 => memOk_ite (memOk_onMe (memOk_retire hs1) (fun _ ht1 => tileOk_takeDrain ht1))
    (memOk_retire hs1))

theorem memOk_reserveMine (h : MemOk s) : MemOk s.reserveMine := by
  unfold State.reserveMine
  split
  · exact memOk_ite h (memOk_onPart h)
  · exact h

theorem outOk_execYield {imm} (h : MemOk s) : OutOk (execYield imm s) :=
  outOk_issue h (fun _ hs1 => memOk_ite (memOk_retire hs1) (memOk_onMe (memOk_retire (memOk_reserveMine hs1))
    (fun _ ht1 => tileOk_takeDrain ht1)))

theorem outOk_execPreemptRequest (h : MemOk s) : OutOk (execPreemptRequest s) := by
  unfold execPreemptRequest
  dsimp only
  split
  · split
    · exact h
    · refine memOk_ite h (memOk_onUnit (memOk_mapSaves (memOk_onPart (memOk_foldl ?_ h)) fun x hx => ?_))
      · exact fun _ _ hs => memOk_onTile hs fun _ ht => ht
      · split <;> exact hx
  · exact h

theorem tileOk_noteQuiet {dcc} (h : t.memOk) : (Tile.noteQuiet dcc t).memOk :=
  h

theorem tileOk_forget {bm} (h : t.memOk) : (t.forget bm).memOk := by
  unfold Tile.forget
  extract_lets live deadAcc
  exact h

theorem memOk_countForced {r} (h : MemOk s) : MemOk (s.countForced r) := by
  unfold State.countForced
  split
  · exact memOk_onUnit (memOk_onUnit (memOk_onUnit (memOk_onUnit h)))
  · exact h

theorem memOk_taskSaved {r d n} (h : MemOk s) : MemOk (s.taskSaved r d n) :=
  memOk_settlePreempt (memOk_onUnit h)

theorem memOk_storeQuiesce {p slot tid t d} (h : MemOk s) : MemOk (s.storeQuiesce p slot tid t d) := by
  unfold State.storeQuiesce
  exact memOk_foldl (fun _ _ hs => memOk_pwrite hs) h

theorem outOk_execSave (h : MemOk s) : OutOk (execSave s) := by
  unfold execSave
  split
  next d r _ _ =>
    refine memOk_ite h (memOk_ite (memOk_onMe h fun _ ht => tileOk_noteQuiet ht) (memOk_ite (memOk_raiseHalt h) ?_))
    split
    · exact h
    next slot _ _ =>
      extract_lets _ t' x s1 s2 s3
      have hx : x.tile.memOk := tileOk_forget (t := t') (tileOk_me h)
      have h1 : MemOk s1 := by
        dsimp only [s1]
        split
        · exact memOk_storeQuiesce h
        · exact h
      have h2 : MemOk s2 := memOk_onMe (memOk_addSave h1 hx) fun _ ht => tileOk_evict ht
      exact memOk_choiceEvent (memOk_taskSaved (memOk_onPart h2))
  · exact h

theorem tileOk_shadowCopy {p} (h : t.memOk) : OptionOk Tile.memOk (s.shadowCopy p t) := by
  unfold State.shadowCopy
  dsimp only
  split
  · exact h
  · split
    · exact h
    · split
      · trivial
      · exact ⟨h.1, mem_wf_writeBytes rfl _ _⟩

theorem tileOk_startAt {u img rank tid rb copied} (h : t.memOk) : (startAt u img rank tid rb copied t).memOk := by
  unfold startAt
  extract_lets c priv ring ws m0 m1 sp inside det id
  have hsp : sp.wf = true := by
    dsimp only [sp]
    split
    · exact clear_wf h.1 _ _
    · exact mem_wf_writeBytes (mem_wf_writeBytes (clear_wf h.1 _ _) _ _) _ _
  have hf : t.fresh.memOk := tileOk_fresh h
  exact tileOk_upd (t := { t.fresh with sp := sp }) ⟨hsp, hf.2⟩ rfl rfl

theorem tileOk_startTask {u img rank tid} (h : t.memOk) : (startTask u img rank tid t).memOk := by
  unfold startTask
  split
  next rb _ => exact tileOk_upd (t := startAt u img rank tid rb true t) (tileOk_startAt h) rfl rfl
  · exact tileOk_startAt h

/-- The recursion is taken apart at its functional: its own equation is too deep for the kernel to check. -/
theorem memOk_netLoadGo {u place l} (h : MemOk s) : ExceptOk MemOk (netLoadGo u place l s) := by
  delta netLoadGo
  refine brecOn_induction (P := fun _ f => ∀ s, MemOk s → ExceptOk MemOk (f s)) (F := netLoadGo._f u place) ?_ ?_ l s
    h
  · exact fun _ _ hs => hs
  intro ⟨kind, v, w⟩ l g hg s h
  delta netLoadGo._f
  dsimp -zeta only
  refine exceptOk_option fun r => ?_
  extract_lets _ _ rb e
  split
  next he => exact hg _ (memOk_of_ok he (memOk_loadEntry h))
  · trivial

theorem memOk_loadNet {u place} (h : MemOk s) : ExceptOk MemOk (s.loadNet u place) := by
  unfold State.loadNet
  split
  · trivial
  · split
    · exact memOk_of_ok ‹_› (memOk_netLoadGo h)
    · trivial

theorem memOk_rejectLaunch {u reason deta detb} (h : MemOk s) : MemOk (s.rejectLaunch u reason deta detb) := by
  unfold State.rejectLaunch
  extract_lets s1 n
  have hs1 : MemOk s1 := memOk_changeUnit h
  exact memOk_endLaunch (memOk_count (memOk_count hs1))

theorem memOk_loadNet_error {u place} {x : State × Nat × Nat × Nat} (h : MemOk s) (e : s.loadNet u place = .error x) :
    MemOk x.1 := by
  unfold State.loadNet at e
  split at e
  · cases e
    exact memOk_countError h
  · split at e
    · cases e
    · cases e
      dsimp only
      split
      · exact memOk_loadFault h
      · exact h

theorem memOk_startUnit {u place} (h : MemOk s) : MemOk (s.startUnit u place).1 := by
  unfold State.startUnit
  extract_lets unhead
  split
  · refine memOk_onPart (memOk_mapSaves (s := { s with units := _ }) h fun x hx => ?_)
    split <;> exact hx
  · split
    next e => exact memOk_onPart (memOk_onUnit (memOk_of_ok e (memOk_loadNet h)))
    next e => exact memOk_rejectLaunch (memOk_loadNet_error h e)

theorem memOk_chooseGo {p l before} (h : MemOk s) : MemOk (chooseGo p l before s) := by
  induction l generalizing s before with
  | nil => exact h
  | cons c l ih =>
    unfold chooseGo
    dsimp only
    split
    · exact memOk_ite (ih (memOk_startUnit h)) (ih h)
    · split
      · exact ih h
      · exact memOk_ite (ih (memOk_upd (memOk_startUnit h) rfl rfl rfl rfl rfl rfl)) (ih (memOk_startUnit h))

theorem memOk_formHead {p} (h : MemOk s) : MemOk (s.formHead p) := by
  unfold State.formHead
  extract_lets x resv
  dsimp only
  refine memOk_ite h ?_
  split
  · exact h
  · split
    · exact memOk_onPart h
    · exact h

theorem memOk_resumeYielded {p} (h : MemOk s) : MemOk (s.resumeYielded p) := by
  refine memOk_foldl (fun s x hs => memOk_ite (memOk_mapSaves hs fun y hy => ?_) hs) h
  split <;> exact hy

theorem memOk_choose {p} (h : MemOk s) : MemOk (s.choose p) := by
  unfold State.choose
  extract_lets s1 t1
  have hs1 : MemOk s1 := memOk_resumeYielded (memOk_refresh h)
  have ht1 : MemOk t1 := memOk_chooseGo hs1
  split
  · exact memOk_ite ht1 (memOk_formHead ht1)
  · exact memOk_formHead ht1

theorem outOk_execShepherdChoice (h : MemOk s) : OutOk (execShepherdChoice s) := by
  unfold execShepherdChoice
  extract_lets p
  exact memOk_ite h (memOk_choose (memOk_onPart h))

theorem memOk_startParent {p level id} (h : MemOk s) : MemOk (s.startParent p level id) := by
  unfold State.startParent
  split
  · exact memOk_ite (memOk_changeUnit h) h
  · exact h

theorem outOk_execLaunchStart (h : MemOk s) : OutOk (execLaunchStart s) := by
  unfold execLaunchStart
  dsimp only
  split
  · exact h
  next u _ =>
    refine memOk_ite h ?_
    split
    · exact memOk_rejectLaunch (memOk_countError h)
    · refine memOk_ite (memOk_raiseHalt (memOk_onUnit (memOk_dropEntries h))) ?_
      refine memOk_startParent (memOk_startParent (memOk_startParent
        (memOk_changeUnit (memOk_foldlMem (fun s x hx hs => ?_) h))))
      split
      next t e =>
        obtain ⟨y, _, rfl⟩ := List.mem_map.mp hx
        exact memOk_newTask (memOk_setTile hs (tileOk_startTask (of_optionOk e (tileOk_shadowCopy (tileOk_tile h)))))
      · exact hs

theorem wf_restoreSp {old now : Tile} (h : now.memOk) : (execRestore.restoreSp old now).wf = true := by
  unfold execRestore.restoreSp
  split
  · exact mem_wf_writeBytes (clear_wf h.1 _ _) _ _
  · exact h.1

theorem outOk_execRestore (h : MemOk s) : OutOk (execRestore s) := by
  unfold execRestore
  dsimp only
  refine memOk_ite h (memOk_ite (memOk_raiseHalt h) (memOk_changeUnit (memOk_filterSaves (memOk_foldl
    (fun _ _ hs => memOk_newTask hs) (memOk_foldlMem (fun s x hx hs => ?_) h)))))
  split
  next t e =>
    obtain ⟨y, _, rfl⟩ := List.mem_map.mp hx
    have ht : t.memOk := of_optionOk e (tileOk_shadowCopy (tileOk_tile h))
    exact memOk_setTile hs ⟨wf_restoreSp ht, ht.2⟩
  · exact hs

theorem outOk_execPreload (h : MemOk s) : OutOk (execPreload s) := by
  unfold execPreload
  dsimp only
  split
  · split
    · exact h
    · refine memOk_ite h ?_
      split
      · exact h
      · refine memOk_ite h (memOk_onMe h fun t ht => ⟨?_, ht.2⟩)
        exact mem_wf_writeBytes (mem_wf_writeBytes (clear_wf ht.1 _ _) _ _) _ _
  · exact h

theorem outOk_execBudget (h : MemOk s) : OutOk (execBudget s) := by
  unfold execBudget
  split
  · exact h
  · exact memOk_ite h (memOk_onMe (memOk_unitFault h) (fun _ ht1 => ht1))

theorem memOk_applyItem {i} (h : MemOk s) : MemOk (applyItem s i) :=
  memOk_pwrite h

theorem memOk_settleGraphs {p} (h : MemOk s) : MemOk (s.settleGraphs p) :=
  memOk_foldl (fun _ _ hs1 => memOk_settleGraph hs1) h

theorem outOk_execFoldCommit (h : MemOk s) : OutOk (execFoldCommit s) := by
  unfold execFoldCommit
  extract_lets p
  dsimp only
  split
  · exact h
  · refine memOk_ite h ?_
    split
    · exact memOk_raiseHalt (memOk_changeUnit h)
    · exact memOk_ite (memOk_raiseHalt (memOk_changeUnit h)) (memOk_refresh
        (memOk_settleJob (memOk_settleGraphs (memOk_endUnit (memOk_onUnit
        (memOk_countFold (memOk_foldl (fun _ _ hs1 => memOk_applyItem hs1) h)))))))

end Sys2Proof.Proofs
end

section
/-! SUPPORT. Memory stays canonical (R272): faults and halts, bundles and results that land. -/

namespace Sys2Proof.Proofs

open Sys2Proof.Machine Sys2Proof.Laws

variable {s : State} {t : Tile}

theorem outOk_execHaltLineRaise {part cause src id} (h : MemOk s) : OutOk (execHaltLineRaise part cause src id s) :=
  memOk_ite (memOk_raiseHalt h) h

theorem tileOk_haltNow {dcc} (h : t.memOk) : (Tile.haltNow dcc t).memOk :=
  h

theorem outOk_execHaltLineArrive (h : MemOk s) : OutOk (execHaltLineArrive s) := by
  unfold execHaltLineArrive
  extract_lets p d
  split
  · exact h
  · refine memOk_ite h (memOk_mapTiles (memOk_foldl (fun _ _ hs => memOk_cutBeat hs) (memOk_onPart h)) fun x hx => ?_)
    exact tileOk_ite (tileOk_haltNow hx) hx

theorem outOk_execRouterHaltStop (h : MemOk s) : OutOk (execRouterHaltStop s) := by
  unfold execRouterHaltStop
  extract_lets p r
  split
  · exact h
  · exact memOk_ite h (memOk_onRouter h)

theorem memOk_idleStops {p h1} (h : MemOk s) : MemOk (s.idleStops p h1) := by
  unfold State.idleStops
  extract_lets x
  dsimp only
  refine memOk_ite h ?_
  refine memOk_foldl (fun _ _ hs1 => ?_) h
  split
  · exact memOk_pwrite hs1
  · exact hs1

theorem memOk_freezeHalt {p} (h : MemOk s) : MemOk (freezeHalt s p) := by
  unfold freezeHalt
  extract_lets cause lids s1 s2 jobs keep s3 s4
  have h1 : MemOk s1 := memOk_mapTiles h fun x hx => tileOk_ite (tileOk_haltNow (t := x.2) (dcc := s.dcc) hx) hx
  have h2 : MemOk s2 := memOk_foldl (fun _ _ hs => memOk_onUnit (memOk_changeUnit hs)) h1
  have h3 : MemOk s3 := memOk_mapTiles h2 fun x hx => hx
  have h4 : MemOk s4 := by
    dsimp only [s4]
    split
    · exact memOk_idleStops h3
    · exact h3
  exact memOk_ite h4 (memOk_onPart h4)

theorem memOk_storeRecord {tid unit} (h : MemOk s) : MemOk (s.storeRecord tid unit) := by
  unfold State.storeRecord
  split
  · exact memOk_pwrite h
  · exact h

theorem outOk_execStopRecordWrite (h : MemOk s) : OutOk (execStopRecordWrite s) := by
  unfold execStopRecordWrite
  extract_lets tid unit p s1 s2 s3
  have h2 : MemOk s2 := memOk_onMe (memOk_storeRecord h) fun _ ht => ht
  have h3 : MemOk s3 := memOk_ite (memOk_choiceEvent (memOk_onMe h2 fun _ ht => tileOk_evict ht)) h2
  exact memOk_ite h (memOk_ite (memOk_onPart h3) h3)

theorem tileOk_partnersNotIssued {st} (h : t.memOk) : (t.partnersNotIssued st).memOk :=
  tileOk_foldl (fun _ _ ht1 => tileOk_ite (tileOk_onStr ht1) ht1) h

theorem outOk_execQueueStall (h : MemOk s) : OutOk (execQueueStall s) := by
  unfold execQueueStall
  extract_lets x w
  dsimp only
  exact memOk_ite h (memOk_onMe (memOk_unitFault h) (fun _ ht1 => tileOk_onStr
    (tileOk_ite (tileOk_partnersNotIssued ht1) ht1)))

theorem memOk_rerunTask {u img x} (h : MemOk s) : MemOk (State.rerunTask u img s x) := by
  refine memOk_newTask (memOk_setTile h (tileOk_startAt ?_))
  cases hc : s.shadowCopy u.part (s.tile x.2) with
  | none => exact tileOk_tile h
  | some t => exact of_optionOk hc (tileOk_shadowCopy (tileOk_tile h))

theorem memOk_freeTiles {p lid} (h : MemOk s) : MemOk (s.freeTiles p lid) :=
  memOk_mapTiles h fun _ hx => tileOk_ite (tileOk_evict hx) hx

theorem savedOk_afresh {u img alone} {x : Saved} (h : x.tile.memOk) : (x.afresh u img alone).tile.memOk := by
  unfold Saved.afresh
  extract_lets rb
  exact tileOk_upd (t := startAt u img x.rank x.tid rb false x.tile) (tileOk_startAt h) rfl rfl

theorem memOk_rerunLaunch {p lid} (h : MemOk s) : MemOk (s.rerunLaunch p lid) := by
  unfold State.rerunLaunch
  split
  · exact memOk_freeTiles h
  next u _ =>
    dsimp -zeta only
    extract_lets s1 s2
    have h1 : MemOk s1 := memOk_onUnit (memOk_dropEntries h)
    have h2 : MemOk s2 := h1
    clear_value s2
    split
    · exact memOk_rejectLaunch (memOk_freeTiles (memOk_countError h2))
    · split
      next e =>
        exact memOk_rejectLaunch (memOk_freeTiles (memOk_loadNet_error h2 e))
      next e =>
        have hs := memOk_of_ok e (memOk_loadNet h2)
        refine memOk_ite (memOk_raiseHalt (memOk_foldl (fun _ _ hs => memOk_onTile hs fun _ ht => ht) hs)) ?_
        refine memOk_changeUnit (memOk_mapSaves (memOk_foldl (fun _ _ hs => memOk_rerunTask hs) hs) fun x hx => ?_)
        split
        · exact savedOk_afresh hx
        · exact hx

theorem memOk_reopenLaunch {u} (h : MemOk s) : MemOk (s.reopenLaunch u) := by
  unfold State.reopenLaunch
  have hs := memOk_filterSaves (p := fun x => !(x.part == u.part && x.lid == u.id))
    (memOk_freeTiles (p := u.part) (lid := u.id) (memOk_dropEntries (p := u.part) (lid := u.id) h))
  exact memOk_writeStat (memOk_upd hs rfl rfl rfl rfl rfl rfl)

theorem memOk_rerunFold {p fold} (h : MemOk s) : MemOk (s.rerunFold p fold) := by
  unfold State.rerunFold
  dsimp only
  split
  · exact h
  · exact memOk_foldl (fun _ _ hs1 => memOk_reopenLaunch hs1) (memOk_changeUnit h)

theorem memOk_releaseHalt {p list} (h : MemOk s) : MemOk (s.releaseHalt p list) := by
  unfold State.releaseHalt
  extract_lets halted cancels deferred named folds ofFold peers folds1 again s1 s2 s3 s5 s7
  have hs1 : MemOk s1 := memOk_onPart (memOk_leavePartWalks h)
  have hs2 : MemOk s2 := hs1
  have hs3 : MemOk s3 := memOk_foldl (fun _ _ hs4 => memOk_rerunFold hs4) hs2
  have hs5 : MemOk s5 := memOk_foldl (fun _ _ hs6 => memOk_ite (memOk_ite hs6 (memOk_rerunLaunch hs6))
    (memOk_cancelLaunch (memOk_freeTiles hs6))) hs3
  have hs7 : MemOk s7 := memOk_foldl (fun _ _ hs8 => memOk_cancelUnit hs8) hs5
  exact memOk_choiceEvent (memOk_refresh hs7)

theorem tileOk_land {x} (h : t.memOk) : (t.land x).memOk := by
  unfold Tile.land
  split
  · exact tileOk_setS h
  · exact tileOk_setV h
  · exact tileOk_setV h
  · exact tileOk_setVq h
  · exact tileOk_setK h
  · exact tileOk_setSlot h
  · exact tileOk_accClear (tileOk_foldl (fun _ _ ht1 => tileOk_setAccRow ht1) h)
  · exact tileOk_accClear (tileOk_foldl (fun _ _ ht2 => tileOk_ite (tileOk_setAccDen ht2) (tileOk_setAccMax ht2)) h)
  · exact h
  · exact h
  · exact tileOk_csrWrite h
  · exact tileOk_setK h
  · exact tileOk_setBt h
  · exact tileOk_setLc h
  · exact tileOk_dqFill h
  · exact h

theorem tileOk_landLost {x} (h : t.memOk) : (t.landLost x).memOk := by
  unfold Tile.landLost
  split <;> exact h

theorem tileOk_landAll {l} (h : t.memOk) : (t.landAll l).memOk := by
  induction l generalizing t with
  | nil => exact h
  | cons f l ih => exact ih (tileOk_ite (tileOk_landLost h) (tileOk_land h))

theorem tileOk_landDue (h : t.memOk) : t.landDue.memOk := by
  unfold Tile.landDue
  extract_lets due
  exact tileOk_foldl (fun _ _ ht1 => tileOk_raise ht1) (tileOk_landAll h)

theorem outOk_execResultLand (h : MemOk s) : OutOk (execResultLand s) := by
  unfold execResultLand
  dsimp only
  exact memOk_ite h (memOk_onMe h (fun _ ht1 => tileOk_upd (tileOk_landDue ht1) rfl rfl))

theorem memOk_atStrand {tid st} (h : MemOk s) : MemOk (s.atStrand tid st) :=
  h

theorem memOk_prepareIssue {tid st} (h : MemOk s) : MemOk (prepareIssue s tid st).2 := by
  unfold prepareIssue
  extract_lets s1 x
  have hs1 : MemOk s1 := memOk_atStrand h
  split
  · exact memOk_atStrand h
  · split
    · exact memOk_ite (memOk_strandFault hs1) hs1
    · exact memOk_ite (memOk_strandFault hs1) hs1
    · exact memOk_atStrand h

theorem memOk_prepareShadow {tid} (h : MemOk s) : MemOk (prepareShadow s tid).2 := by
  unfold prepareShadow
  extract_lets _ s1
  have hs1 : MemOk s1 := h
  split
  · exact h
  · split
    · exact h
    · split
      · exact memOk_ite (memOk_shadowFault hs1) hs1
      · exact memOk_ite (memOk_shadowFault hs1) hs1
      · split
        · exact h
        · split
          · exact memOk_shadowFault hs1
          · split <;> exact h

/-- A member of a bundle means what its family of instructions does (R73). -/
theorem outOk_member {i} (h : MemOk s) : OutOk (member i s) := by
  cases i <;> dsimp only [member]
  case jmp | lpf | br => exact outOk_issue h fun _ hs => memOk_branch hs
  case add | sub | and | or | xor | shl | shr | sra | mul | mulh | min | max | cmp | sel | ext | bitc | addi
    | andi | ori | xori | shli | shri | srai | muli | cmpi | li | lih | csrr => exact outOk_scalarOp h
  case div | rem => exact outOk_divOp h
  case bc => exact outOk_execBc h
  case bf => exact outOk_execBf h
  case jr => exact outOk_execJr h
  case call => exact outOk_execCall h
  case loopr => exact outOk_execLoopr h
  case pop => exact outOk_execPop h
  case push | btw | lcw => exact outOk_issue h fun _ hs => memOk_retire (memOk_fly hs)
  case qlen | rdfs | btr | shi | hpoll => exact outOk_issue h fun _ hs => memOk_retire (memOk_result hs)
  case csrw | csrs | csrc => exact outOk_csrOp h
  case rand => exact outOk_execRand h
  case harr => exact outOk_execHarr h
  case hset => exact outOk_execHset h
  case lnch => exact outOk_execLnch h
  case fcrd => exact outOk_execFcrd h
  case fcw => exact outOk_execFcw h
  case fcwt | fwait | hwt => exact outOk_issue h fun _ hs => memOk_retire (memOk_acquire hs)
  case cncl => exact outOk_execCncl h
  case lvwt => exact outOk_execLvwt h
  case phint => exact outOk_execPhint h
  case yield => exact outOk_execYield h
  case trace => exact outOk_execTrace h
  case trap => exact outOk_execTrap h
  case xlin => exact outOk_execXlin h
  case pblk => exact outOk_execPblk h
  case vadd | vsub | vmul | vmax | vmin | vrcpn | vrsqn => exact outOk_binaryOp h
  case vfma | vfms | vfnma => exact outOk_ternaryOp h
  case vabs | vneg | vmov | vexp2 | vlog2 | vrcpe | vrsqe | viabs | vcvti | vcvtf => exact outOk_unaryOp h
  case viadd | visub | vimul | vimulh | vimin | vimax | viand | vior | vixor | vishl | vishr | visra =>
    exact outOk_binaryOp h
  case viota | vwid | vrred | vcred | vrscan | vcscan => exact outOk_vectorOp h
  case vcvt => exact outOk_narrowOp h
  case vicvt => exact outOk_execVicvt h
  case vrrot | vcrot | vrbc | vcbc => exact outOk_moveOp h
  case vbstep => exact outOk_execVbstep h
  case vcmp | vicmp | kand | kor | kxor | kandn | knot | kmov => exact outOk_predOp h
  case kset => exact outOk_execKset h
  case ptest => exact outOk_execPtest h
  case vacrr | vaccr | vacsr => exact outOk_accRead h
  case vacrw | vaccw | vacsw => exact outOk_accWrite h
  case stset => exact outOk_execStset h
  case stld => exact outOk_execStld h
  case stsv => exact outOk_execStsv h
  case srd => exact outOk_execSrd h
  case swr => exact outOk_execSwr h
  case sstop => exact outOk_execSstop h
  case lds => exact outOk_execLds h
  case sts => exact outOk_execSts h
  case aadd | amin | amax | aand | aor | axor | axchg | acas | afadd => exact outOk_atomicOp h
  case rgset => exact outOk_execRgset h
  case rgrd | spt | spc => exact outOk_pushOp h
  case rpush => exact outOk_execRpush h
  case xfence => exact outOk_execXfence h
  case post => exact outOk_execPost h
  case tadv => exact outOk_execTadv h
  case cseq => exact outOk_execCseq h
  case cwait => exact outOk_execCwait h
  case fsend => exact outOk_execFsend h
  case aqry | kvtrunc => exact outOk_issue h fun _ hs => memOk_placeReq hs
  case topk => exact outOk_execTopk h
  case nop => exact outOk_execNop h
  case fin => exact outOk_execFin h
  case shret => exact outOk_execShret h
  case mark | fence => exact outOk_issue h fun _ hs => memOk_retire (memOk_onMe hs fun _ ht => ht)
  all_goals exact h

theorem memOk_runMember {f i} (h : MemOk s) : MemOk (runMember s f i) := by
  unfold runMember
  split
  next e =>
    have hm : OutOk (member i { s with focus := f }) := outOk_member (s := { s with focus := f }) h
    rw [e] at hm
    exact hm
  · exact h

theorem memOk_waitPartners {tid st} (h : MemOk s) : MemOk (waitPartners s tid st) :=
  memOk_onTile h (fun _ ht1 => tileOk_onStr ht1)

theorem memOk_memberStops {tid c x} (h : MemOk s) : MemOk (memberStops s tid c x) := by
  unfold memberStops
  split
  · exact memOk_runMember h
  · exact memOk_strandFault h

theorem memOk_standAlone {tid c x} (h : MemOk s) : MemOk (standAlone s tid c x) :=
  memOk_ite (memOk_memberStops h) (memOk_waitPartners h)

theorem outOk_execBundleIssue (h : MemOk s) : OutOk (execBundleIssue s) := by
  unfold execBundleIssue
  extract_lets tid
  refine memOk_ite h ?_
  split
  · exact memOk_foldl (fun _ _ hs1 => memOk_standAlone hs1) h
  · exact memOk_foldl (fun _ _ hs2 => memOk_strandFault hs2) h
  · exact memOk_foldl (fun _ _ hs3 => memOk_ite (memOk_memberStops hs3) (memOk_waitPartners hs3)) h
  · exact memOk_foldl (fun _ _ hs4 => memOk_ite (memOk_memberStops hs4)
      (memOk_onTile hs4 (fun _ ht1 => tileOk_onStr ht1))) h
  · refine memOk_foldl (fun _ _ hs5 => ?_) h
    split
    · exact memOk_runMember hs5
    · exact hs5

theorem outOk_execForcedBoundary (h : MemOk s) : OutOk (execForcedBoundary s) := by
  unfold execForcedBoundary
  dsimp only
  split
  · refine memOk_ite h ?_
    refine memOk_onMe ?_ (fun _ ht1 => ht1)
    split
    · exact memOk_countForced h
    · exact h
  · exact h

end Sys2Proof.Proofs
end

section
/-! SUPPORT. Memory stays canonical (R272): the host's queues and commands, and the package. -/

namespace Sys2Proof.Proofs

open Sys2Proof.Machine Sys2Proof.Laws

variable {s : State} {t : Tile}

theorem memOk_hostRead {function off} (h : MemOk s) : MemOk (s.hostRead function off) := by
  unfold State.hostRead
  extract_lets v
  exact h

theorem outOk_execHostQueueRegisterWrite {queue off v} (h : MemOk s) :
    OutOk (execHostQueueRegisterWrite queue off v s) :=
  memOk_ite (memOk_onQueue h) h

theorem outOk_execSqDoorbell {queue v} (h : MemOk s) : OutOk (execSqDoorbell queue v s) :=
  memOk_ite (memOk_onQueue h) h

theorem outOk_execCompletionWrite (h : MemOk s) : OutOk (execCompletionWrite s) := by
  unfold execCompletionWrite
  dsimp only
  split
  · exact h
  · exact memOk_ite h (memOk_onQueue (memOk_hostWrite h))

theorem outOk_execEventWrite (h : MemOk s) : OutOk (execEventWrite s) := by
  unfold execEventWrite
  dsimp only
  split
  · exact h
  · exact memOk_ite (memOk_onQueue h) (memOk_onQueue (memOk_hostWrite h))

theorem memOk_goOn {x} (h : MemOk s) : MemOk (s.goOn x) := by
  unfold State.goOn
  extract_lets n s1
  have hs1 : MemOk s1 := h
  exact memOk_onQueue hs1

theorem memOk_answer {c status detail} (h : MemOk s) : MemOk (s.answer c status detail) :=
  memOk_goOn h

theorem memOk_hostPlaces {c write} (h : MemOk s) : MemOk (hostPlaces s c write).2 := by
  unfold hostPlaces
  extract_lets l
  dsimp only
  split
  · exact memOk_of_snd ‹_› (memOk_gplaces h)
  · exact memOk_of_snd ‹_› (memOk_gplaces h)
  · exact memOk_of_snd ‹_› (memOk_gplaces h)
  · split <;> exact memOk_of_snd ‹_› (memOk_gplaces h)

theorem outOk_execHwrite {c} (h : MemOk s) : OutOk (execHwrite c s) := by
  unfold execHwrite
  refine memOk_ite (memOk_answer h) ?_
  split
  next e =>
    have hs := memOk_of_snd e (memOk_hostPlaces h)
    exact hs
  next e => exact memOk_answer (memOk_of_snd e (memOk_hostPlaces h))
  next e => exact memOk_answer (memOk_foldlFst (fun _ _ hs => memOk_pwriteBytes hs)
    (memOk_of_snd e (memOk_hostPlaces h)))

theorem outOk_execHread {c} (h : MemOk s) : OutOk (execHread c s) := by
  unfold execHread
  refine memOk_ite (memOk_answer h) ?_
  split
  next e =>
    have hs := memOk_of_snd e (memOk_hostPlaces h)
    exact hs
  next e => exact memOk_answer (memOk_of_snd e (memOk_hostPlaces h))
  next e =>
    have hs := memOk_of_snd e (memOk_hostPlaces h)
    split
    · exact memOk_answer (memOk_countRecord hs)
    · exact memOk_answer (memOk_hostWrite hs)

theorem outOk_execSubmit {c} (h : MemOk s) : OutOk (execSubmit c s) :=
  memOk_ite (memOk_answer h) (memOk_answer h)

theorem outOk_execCancel {c} (h : MemOk s) : OutOk (execCancel c s) :=
  memOk_ite (memOk_answer h) (memOk_answer (memOk_cancelLater h))

theorem outOk_execRelease {c} (h : MemOk s) : OutOk (execRelease c s) := by
  unfold execRelease
  extract_lets n list halts
  exact memOk_ite (memOk_answer h) (memOk_ite (memOk_answer h)
    (memOk_ite (memOk_answer h) (memOk_answer (memOk_releaseHalt h))))

theorem outOk_execClose {c} (h : MemOk s) : OutOk (execClose c s) := by
  unfold execClose
  dsimp only
  refine memOk_ite (memOk_answer h) ?_
  split
  · exact memOk_answer h
  · exact memOk_ite (memOk_answer h) (memOk_answer (memOk_refresh (memOk_settleJob (memOk_onUnit h))))

theorem memOk_migrated {m status detail} (h : MemOk s) : MemOk (s.migrated m status detail) :=
  memOk_onQueue h

theorem memOk_migrateStep {num} (h : MemOk s) : MemOk (s.migrateStep num) := by
  unfold State.migrateStep
  dsimp only
  split
  · exact h
  · split
    · exact memOk_migrated h
    · exact memOk_ite (memOk_migrated (memOk_countRecord (memOk_pwrite h)))
        (memOk_ite (memOk_upd (memOk_pwriteBytes h) rfl rfl rfl rfl rfl rfl)
        (memOk_migrated (memOk_pwrite (memOk_pwriteBytes h))))

theorem outOk_execMigrate {c} (h : MemOk s) : OutOk (execMigrate c s) := by
  unfold execMigrate
  extract_lets gbn loc p
  dsimp only
  refine memOk_ite (memOk_answer h) ?_
  split
  · exact memOk_answer h
  · exact memOk_ite (memOk_answer (memOk_countRecord h)) (memOk_ite (memOk_answer h)
      (memOk_ite (memOk_answer h) (memOk_ite (memOk_answer h)
      (memOk_ite (memOk_answer (memOk_countRecord h)) (memOk_goOn
      (memOk_upd (memOk_pwrite h) rfl rfl rfl rfl rfl rfl))))))

theorem memOk_mgReadEffect {a} (h : MemOk s) : MemOk (s.mgReadEffect a) :=
  memOk_ite (memOk_strayRead h) h

theorem memOk_mgReads {a n} (h : MemOk s) : MemOk (mgReads a n s).2 := by
  induction n generalizing s a with
  | zero => exact h
  | succ n ih => exact ih (memOk_mgReadEffect h)

theorem outOk_execMread {c} (h : MemOk s) : OutOk (execMread c s) := by
  unfold execMread
  exact memOk_ite (memOk_answer h) (memOk_ite (memOk_answer h) (memOk_answer (memOk_hostWrite (memOk_mgReads h))))

theorem memOk_allow {ok} (h : MemOk s) : ExceptOk MemOk (allow ok s) := by
  unfold allow
  split
  · exact h
  · trivial

theorem memOk_writePart {p off v} (h : MemOk s) : ExceptOk MemOk (s.writePart p off v) := by
  unfold State.writePart
  extract_lets x n put
  split
  · exact memOk_allow (memOk_onPart h)
  · exact memOk_allow (memOk_onPart h)
  · exact memOk_allow (memOk_onPart h)
  · exact memOk_allow (memOk_onPart h)
  · exact memOk_allow (memOk_onPart h)
  · exact memOk_onPart h
  · exact memOk_allow (memOk_onPart h)
  · exact memOk_allow (memOk_onPart h)
  · exact memOk_allow (memOk_onPart h)
  · exact memOk_onPart h
  · exact memOk_onPart h
  · exact memOk_allow (memOk_onPart h)
  · exact memOk_allow (memOk_onPart h)
  · exact memOk_allow (memOk_onPart h)
  · exact memOk_allow (memOk_onPart h)
  · exact h
  · exact h
  · exact h
  · exact memOk_allow (memOk_onPart h)
  · exact memOk_allow (memOk_onPart h)
  · trivial

theorem memOk_writeRouter {r off v} (h : MemOk s) : ExceptOk MemOk (s.writeRouter r off v) := by
  unfold State.writeRouter
  extract_lets n put
  split
  · exact memOk_onRouter h
  · exact memOk_onRouter h
  · exact memOk_onRouter h
  · exact h
  · exact memOk_onRouter h
  · exact memOk_onRouter h
  · refine exceptOk_ite (memOk_onRouter h) (exceptOk_ite ?_ ?_)
    · exact h
    · trivial

theorem memOk_writePackage {off v} (h : MemOk s) : ExceptOk MemOk (s.writePackage off v) := by
  unfold State.writePackage
  dsimp only
  split
  · exact memOk_allow h
  · exact h
  · exact memOk_allow h
  · exact h
  · exact h
  · trivial

theorem memOk_mgWrite {queue a v} (h : MemOk s) : ExceptOk MemOk (s.mgWrite queue a v) := by
  unfold State.mgWrite
  extract_lets i w
  split
  · trivial
  · split
    · split
      · exact memOk_writePart h
      · trivial
    · split
      · exact memOk_writeRouter h
      · trivial
    · split
      · exact memOk_writePackage h
      · trivial
    · split
      · exact h
      · trivial
    · clear_value w
      cases w with
      | none => trivial
      | some w => exact exceptOk_ite (memOk_allow h) trivial
    · trivial

theorem outOk_execRegisterWrite {queue addr v} (h : MemOk s) : OutOk (execRegisterWrite queue addr v s) := by
  unfold execRegisterWrite
  split
  · exact memOk_of_ok ‹_› (memOk_mgWrite h)
  · exact h

theorem memOk_mwriteGo {queue part n a l} (h : MemOk s) : ExceptOk MemOk (mwriteGo queue part n a l s) := by
  induction n generalizing a l s with
  | zero => exact h
  | succ n ih =>
    cases l with
    | nil => exact h
    | cons w l =>
      unfold mwriteGo
      extract_lets fail
      refine exceptOk_ite (exceptOk_ite ?_ trivial) (exceptOk_ite (exceptOk_ite trivial ?_) (exceptOk_ite ?_ ?_))
      · extract_lets
        split
        next he => exact memOk_of_ok he (memOk_loadEntry h)
        · trivial
      · split
        next he => exact ih (of_optionOk he (memOk_writeDrovecfg h))
        · trivial
      · exact ih (memOk_invalidate h)
      · extract_lets
        split
        next he => exact ih (memOk_of_ok he (memOk_mgWrite h))
        · trivial

theorem memOk_eloadFault {a words} (h : MemOk s) : MemOk (s.eloadFault a words) := by
  unfold State.eloadFault
  dsimp only
  refine memOk_ite ?_ h
  split
  · exact h
  · exact memOk_loadFault h

theorem outOk_execMwrite {c} (h : MemOk s) : OutOk (execMwrite c s) := by
  unfold execMwrite
  extract_lets n words
  refine memOk_ite (memOk_answer h) ?_
  split
  · exact memOk_goOn (memOk_of_ok ‹_› (memOk_mwriteGo h))
  · exact memOk_answer (memOk_eloadFault h)

theorem outOk_execFwupd {c} (h : MemOk s) : OutOk (execFwupd c s) := by
  unfold execFwupd
  extract_lets n slot bytes base s1 b low s2
  have h1 : MemOk s1 := memOk_upd h rfl rfl rfl rfl rfl rfl
  have h2 : MemOk s2 := memOk_upd h1 rfl rfl rfl rfl rfl rfl
  refine memOk_ite (memOk_answer h) (memOk_ite (memOk_answer h) (memOk_ite (memOk_answer h1) ?_))
  exact memOk_ite (memOk_answer h1) (memOk_answer (memOk_countRecord h2))

theorem outOk_execAttest {c} (h : MemOk s) : OutOk (execAttest c s) := by
  unfold execAttest
  dsimp only
  exact memOk_ite (memOk_answer h) (memOk_ite (memOk_answer (memOk_hostWrite h))
    (memOk_ite h (memOk_answer (memOk_hostWrite h))))

theorem memOk_prepareMailbox (h : MemOk s) : MemOk (prepareMailbox s).2 := by
  unfold prepareMailbox
  dsimp only
  split
  · exact h
  · split
    · exact h
    · exact memOk_answer h

theorem outOk_execBoot (h : MemOk s) : OutOk (execBoot s) := by
  unfold execBoot
  refine memOk_ite h ?_
  extract_lets b next other f1 f2 ok slot fail s1 s2
  have h1 : MemOk s1 := memOk_upd h rfl rfl rfl rfl rfl rfl
  have h2 : MemOk s2 := memOk_countRecord h1
  refine memOk_ite (memOk_upd (s := s2.countRecord 2 1) ?_ rfl rfl rfl rfl rfl rfl) h2
  exact memOk_countRecord h2

theorem memOk_gather {key unit record n} (h : MemOk s) : MemOk (s.gather key unit record n) := by
  unfold State.gather
  extract_lets total s1
  have hs1 : MemOk s1 := h
  exact memOk_ite hs1 (memOk_countRecord hs1)

theorem memOk_recordMs {watts tj} (h : MemOk s) : MemOk (s.recordMs watts tj) := by
  unfold State.recordMs
  dsimp only
  exact memOk_ite (memOk_upd (memOk_gather (memOk_gather (memOk_gather (memOk_gather (memOk_freeNat h))))) rfl rfl rfl
    rfl rfl rfl) (memOk_gather (memOk_gather (memOk_gather (memOk_gather (memOk_freeNat h)))))

theorem memOk_flushRecords (h : MemOk s) : MemOk s.flushRecords :=
  h

theorem outOk_execFieldRecordFlush (h : MemOk s) : OutOk (execFieldRecordFlush s) :=
  memOk_ite h (memOk_flushRecords h)

theorem memOk_trip {tj} (h : MemOk s) : MemOk (s.trip tj) :=
  memOk_ite h (memOk_countRecord h)

theorem outOk_execClockStepAdjust {watts tj} (h : MemOk s) : OutOk (execClockStepAdjust watts tj s) := by
  unfold execClockStepAdjust
  refine memOk_ite h ?_
  extract_lets power seen k avg s1
  have h1 : MemOk s1 := memOk_upd h rfl rfl rfl rfl rfl rfl
  exact memOk_trip (memOk_recordMs h1)

theorem outOk_execShutdown (h : MemOk s) : OutOk (execShutdown s) := by
  unfold execShutdown
  dsimp only
  exact h

theorem outOk_execPowerLoss {x} (h : MemOk s) : OutOk (execPowerLoss x s) := by
  obtain ⟨_, _, _, hh, _⟩ := h
  obtain ⟨h0, h1, h2, _, ht, hs⟩ := memOk_reset
  exact ⟨h0, h1, h2, hh, ht, hs⟩

end Sys2Proof.Proofs
end

section
/-! SUPPORT. Memory stays canonical (R272): every action of an agenda and every step of the opcode table, O7 and O8. -/

namespace Sys2Proof.Proofs

open Sys2Proof.Machine Sys2Proof.Laws

variable {s : State} {t : Tile}

theorem memOk_prepareEngine {tid eng} (h : MemOk s) : MemOk (prepareEngine s tid eng).2 := by
  unfold prepareEngine
  extract_lets _ s1
  have hs1 : MemOk s1 := h
  split
  · exact h
  · exact memOk_ite (memOk_takeWork (memOk_ite (memOk_onEng hs1) hs1)) (memOk_ite (memOk_onEng hs1) hs1)

theorem memOk_prepareArrive {r port ch} (h : MemOk s) : MemOk (prepareArrive s r port ch).2 := by
  unfold prepareArrive
  extract_lets _ s1 met
  dsimp only
  exact h

theorem tileOk_tick {run lat mx} (h : t.memOk) : (Tile.tick run lat mx t).memOk := by
  unfold Tile.tick
  extract_lets go one t1
  have ht1 : t1.memOk := h
  exact tileOk_serviceDone ht1

theorem memOk_tickPtc (h : MemOk s) : MemOk s.tickPtc := by
  unfold State.tickPtc
  extract_lets k holdover rate acc unit t1 ptc
  exact h

theorem memOk_tickHalt {p} (h : MemOk s) : MemOk (s.tickHalt p) := by
  unfold State.tickHalt
  dsimp only
  split
  · exact h
  · exact memOk_onPart (memOk_ite (memOk_freezeHalt (memOk_ite
      (memOk_ite (memOk_postEvent (memOk_traceAt h)) (memOk_partEvent h)) h))
      (memOk_ite (memOk_ite (memOk_postEvent (memOk_traceAt h)) (memOk_partEvent h)) h))

theorem memOk_endClk (h : MemOk s) : MemOk s.endClk := by
  unfold State.endClk
  extract_lets s1 old s2 s3 s4 d
  have h1 : MemOk s1 := memOk_foldl (fun _ _ hs => memOk_takeCancels hs) h
  have h2 : MemOk s2 := by
    clear_value s1
    obtain ⟨h0, h1, h2, hh, ht, hs⟩ := h1
    exact ⟨h0, h1, h2, hh, List.forall_mem_map.mpr fun x hx => tileOk_tick (ht x hx), List.forall_mem_map.mpr hs⟩
  have h3 : MemOk s3 := memOk_foldl (fun _ _ hs => memOk_tickHalt hs) h2
  have h4 : MemOk s4 := memOk_tickPtc h3
  clear_value s4 d
  exact memOk_upd h4 rfl rfl rfl rfl rfl rfl

theorem memOk_prepare {a} (h : MemOk s) : MemOk (prepare s a).2 := by
  unfold prepare
  split
  · exact memOk_prepareIssue h
  · exact memOk_prepareShadow h
  · exact memOk_prepareEngine h
  · exact memOk_prepareArrive h
  · exact memOk_prepareMailbox h
  · exact h
  · exact memOk_onTile h fun _ ht => ht
  · exact h
  · dsimp only
    exact memOk_onTile h fun _ ht => tileOk_ite (tileOk_upd ht rfl rfl) ht
  · exact memOk_ite (memOk_onTile h fun _ ht => ht) h
  · exact memOk_onRouter h
  · exact memOk_ite h (memOk_onRouter h)
  · exact memOk_countRecord h
  · exact memOk_ite h h
  · exact memOk_moveLinks h
  · exact memOk_traceStep h
  · exact memOk_kvReceive h
  · exact memOk_migrateStep h
  · exact memOk_dropEntries h
  · exact memOk_onEth h
  · exact h
  · exact memOk_hostRead h
  · exact memOk_ite h h
  · exact memOk_endClk h

theorem memOk_nextClk (h : MemOk s) : OptionOk MemOk s.nextClk := by
  unfold State.nextClk
  split
  · exact h
  · extract_lets isBoot
    split
    · trivial
    · exact h

/-- Every step of the opcode table: a slot word's instruction as a member, the others each by its own lemma. -/
theorem outOk_exec {i} (h : MemOk s) : OutOk (exec i s) := by
  have hm : OutOk (member i s) := outOk_member h
  cases i with
  | jmp | lpf | add | sub | and | or | xor | shl | shr | sra | mul | mulh | div | rem | min | max | cmp | sel
    | ext | bitc | addi | andi | ori | xori | shli | shri | srai | muli | cmpi | li | lih | br | bc | bf | jr
    | call | loopr | pop | push | qlen | rdfs | csrr | csrw | csrs | csrc | rand | btr | btw | lcw | harr | hwt
    | hset | hpoll | lnch | fcrd | fcw | fcwt | cncl | lvwt | phint | yield | trace | trap | shi | xlin | pblk
    | vadd | vsub | vmul | vfma | vfms | vfnma | vmax | vmin | vabs | vneg | vmov | vexp2 | vlog2 | vrcpe
    | vrsqe | vrcpn | vrsqn | viadd | visub | vimul | vimulh | vimin | vimax | viand | vior | vixor | vishl
    | vishr | visra | viabs | viota | vcvt | vwid | vcvti | vcvtf | vicvt | vrrot | vcrot | vrbc | vcbc | vrred
    | vcred | vrscan | vcscan | vbstep | vcmp | vicmp | kand | kor | kxor | kandn | knot | kmov | kset | ptest
    | vacrr | vaccr | vacrw | vaccw | vacsr | vacsw | stset | stld | stsv | srd | swr | sstop | lds | sts
    | aadd | amin | amax | aand | aor | axor | axchg | acas | afadd | rgset | rgrd | rpush | fence | xfence
    | spt | spc | post | tadv | cseq | cwait | fsend | fwait | aqry | topk | kvtrunc | nop | fin | shret | mark =>
    exact hm
  | linkRecord => exact outOk_execLinkRecord h
  | nil => exact outOk_execNil h
  | mma | mmai | smxu | smxm | smxf | acld | acst | aczr => exact outOk_mxRecord h
  | qscl | qpak | qdeq | qcvt | qamx => exact outOk_recordOp h fun _ _ hs => memOk_qzUnit hs
  | copy | gath | scat | fill => exact outOk_recordOp h fun _ _ hs => memOk_cpBeat hs
  | fsnd | fsig | fdrp => exact outOk_recordOp h fun _ _ hs => memOk_fiUnit hs
  | fwd | dup | sum | flowMax | flowMin | flowOr | wsum | merge | scan | trn | hold | deliver | fadd | iadd
    | drop => exact outOk_flowOp h
  | bellwetherArrive => exact memOk_onRouter h
  | timeFlitReceive => exact memOk_takeTime h
  | linkFlitReceive => exact outOk_execLinkFlitReceive h
  | linkRetry => exact outOk_execLinkRetry h
  | ethDatagramReceive => exact outOk_execEthDatagramReceive h
  | ptpEventStamp => exact outOk_execPtpEventStamp h
  | haltLineRaise => exact outOk_execHaltLineRaise h
  | inval => exact memOk_invalidate h
  | sqDoorbell => exact outOk_execSqDoorbell h
  | hwrite => exact outOk_execHwrite h
  | hread => exact outOk_execHread h
  | submit => exact outOk_execSubmit h
  | cancel => exact outOk_execCancel h
  | release => exact outOk_execRelease h
  | mread => exact outOk_execMread h
  | mwrite => exact outOk_execMwrite h
  | migrate => exact outOk_execMigrate h
  | attest => exact outOk_execAttest h
  | fwupd => exact outOk_execFwupd h
  | close => exact outOk_execClose h
  | hostQueueRegisterWrite => exact outOk_execHostQueueRegisterWrite h
  | eload => exact outOk_execEload h
  | strayQueueRead => exact memOk_strayRead h
  | drovecfgWrite => exact outOk_execDrovecfgWrite h
  | registerWrite => exact outOk_execRegisterWrite h
  | clockStepAdjust => exact outOk_execClockStepAdjust h
  | thermtrip => exact memOk_trip h
  | powerLoss b => exact outOk_execPowerLoss (x := b) h
  | bundleIssue => exact outOk_execBundleIssue h
  | queueStall => exact outOk_execQueueStall h
  | resultLand => exact outOk_execResultLand h
  | taskEnd => exact outOk_execTaskEnd h
  | hurdleArrival => exact outOk_execHurdleArrival h
  | hurdlePhaseComplete => exact outOk_execHurdlePhaseComplete h
  | hurdleConfigEffect => exact outOk_execHurdleConfigEffect h
  | cpXlateMiss => exact outOk_execCpXlateMiss h
  | shadowTimeout => exact outOk_execShadowTimeout h
  | stldPerform => exact outOk_execStldPerform h
  | streamRowRead => exact outOk_execStreamRowRead h
  | streamRowWrite => exact outOk_execStreamRowWrite h
  | dAccessPerform => exact outOk_execDAccessPerform h
  | aqryPerform => exact outOk_execAqryPerform h
  | topkPerform => exact outOk_execTopkPerform h
  | kvtruncPerform => exact outOk_execKvtruncPerform h
  | kvReleaseAppend => exact outOk_execKvReleaseAppend h
  | fiSendEntry => exact outOk_execFiSendEntry h
  | mxStepBegin => exact outOk_execMxStepBegin h
  | mxStepEnd => exact outOk_execMxStepEnd h
  | schedMiss => exact outOk_execSchedMiss h
  | mxRelocate => exact outOk_execMxRelocate h
  | strayPacket => exact outOk_execStrayPacket h
  | roundResultSend => exact outOk_execRoundResultSend h
  | flowStall => exact outOk_execFlowStall h
  | bellwetherSend => exact outOk_execBellwetherSend h
  | droveRelease => exact outOk_execDroveRelease h
  | droveStall => exact outOk_execDroveStall h
  | timeFlitSend => exact outOk_execTimeFlitSend h
  | portDown => exact outOk_execPortDown h
  | portUp => exact outOk_execPortUp h
  | ethResend => exact outOk_execEthResend h
  | recordAdmit => exact outOk_execRecordAdmit h
  | shepherdChoice => exact outOk_execShepherdChoice h
  | launchStart => exact outOk_execLaunchStart h
  | preload => exact outOk_execPreload h
  | preemptRequest => exact outOk_execPreemptRequest h
  | forcedBoundary => exact outOk_execForcedBoundary h
  | budget => exact outOk_execBudget h
  | save => exact outOk_execSave h
  | restore => exact outOk_execRestore h
  | foldCommit => exact outOk_execFoldCommit h
  | haltLineArrive => exact outOk_execHaltLineArrive h
  | routerHaltStop => exact outOk_execRouterHaltStop h
  | stopRecordWrite => exact outOk_execStopRecordWrite h
  | pageWalkDone => exact outOk_execPageWalkDone h
  | completionWrite => exact outOk_execCompletionWrite h
  | eventWrite => exact outOk_execEventWrite h
  | boot => exact outOk_execBoot h
  | shutdown => exact outOk_execShutdown h
  | fieldRecordFlush => exact outOk_execFieldRecordFlush h

theorem outOk_step (h : MemOk s) : OutOk (step s) := by
  unfold step
  split
  · split
    · trivial
    next t e =>
      have ht : MemOk t := of_optionOk e (memOk_nextClk h)
      exact ht
  next a rest _ =>
    have hp : MemOk (prepare { s with agenda := rest } a).2 := memOk_prepare h
    split
    next e => exact memOk_of_snd e hp
    next e => exact outOk_exec (memOk_of_snd e hp)

/-- Settles O7: at reset the memories and the host's memory list no byte, and there is no tile and no saved task. -/
theorem memoryIsCanonicalAtReset : Obligations.MemoryIsCanonicalAtReset := memOk_reset

/-- Settles O8, by the case of each step: bytes are written through `Mem.writeBytes`, which keeps the form. -/
theorem everyStepKeepsMemoryCanonical : Obligations.EveryStepKeepsMemoryCanonical := by
  intro s t h e
  have ht : OutOk (step s) := outOk_step h
  rw [e] at ht
  exact ht

end Sys2Proof.Proofs
end

section
/-! SUPPORT. Page walks, invalidations and the shadow service (R136 to R139, R274 to R280, R345, R346), and O54. -/

namespace Sys2Proof.Proofs

open Sys2Proof.Machine Sys2Proof.Laws

/-! ## Walks through the tables (R274 to R276) -/

/-- The word that points at the table of index `t`. -/
def tableWord (t : Nat) : Nat := 3 * 2 ^ 62 + t * 4096

theorem pteValid_tableWord {t : Nat} (ht : t < 2 ^ 40) : pteValid (tableWord t) = true := by
  simp only [pteValid, bitAt, tableWord, beq_iff_eq]
  omega

theorem pteTable_tableWord {t : Nat} (ht : t < 2 ^ 40) : pteTable (tableWord t) = true := by
  simp only [pteTable, bitAt, tableWord, beq_iff_eq]
  omega

theorem ptePa_tableWord {t : Nat} (ht : t < 2 ^ 40) : ptePa (tableWord t) = t * 4096 := by
  simp only [ptePa, bits, tableWord]
  omega

theorem pteMalformed_tableWord {t : Nat} (ht : t < 2 ^ 40) : pteMalformed (tableWord t) = false := by
  have hhigh : bits (tableWord t) 54 52 = 0 := by simp only [bits, tableWord]; omega
  have hlow : bits (tableWord t) 11 0 = 0 := by simp only [bits, tableWord]; omega
  have hsz : pteSz (tableWord t) = 0 := by simp only [pteSz, bits, tableWord]; omega
  have hrd : pteRd (tableWord t) = false := by simp only [pteRd, bitAt, tableWord, beq_eq_false_iff_ne]; omega
  have hwr : pteWr (tableWord t) = false := by simp only [pteWr, bitAt, tableWord, beq_eq_false_iff_ne]; omega
  have hs : pteS (tableWord t) = false := by simp only [pteS, bitAt, tableWord, beq_eq_false_iff_ne]; omega
  have htier : pteTier (tableWord t) = 0 := by simp only [pteTier, bits, tableWord]; omega
  rw [pteMalformed, hhigh, hlow, pteTable_tableWord ht, hsz, hrd, hwr, hs, htier]
  rfl

theorem levelIndex_one (va : Nat) : levelIndex va 1 = va / 2 ^ 39 % 512 := rfl

theorem levelIndex_two (va : Nat) : levelIndex va 2 = va / 2 ^ 30 % 512 := rfl

theorem levelIndex_three (va : Nat) : levelIndex va 3 = va / 2 ^ 21 % 512 := rfl

theorem levelIndex_four (va : Nat) : levelIndex va 4 = va / 2 ^ 16 % 32 := rfl

/-- A walk for the partition finds the word at an address: the partition owns it and it is correctable. -/
def FindsWord (s : State) (p a v : Nat) : Prop :=
  (s.part p).owns 0 a = true ∧ s.memBad 0 a 8 = false ∧ s.pread 0 a 8 = v

/-- A table word at a level above the last is followed. -/
theorem walkGo_table {s : State} {p va fuel level pa t : Nat} (ht : t < 2 ^ 40) (hl : level ≠ 4)
    (h : FindsWord s p (pa + 8 * levelIndex va level) (tableWord t)) :
    walkGo s p va (fuel + 1) level pa = walkGo s p va fuel (level + 1) (t * 4096) := by
  obtain ⟨hown, hbad, hword⟩ := h
  simp [walkGo, hown, hbad, hword, hl, pteValid_tableWord ht, pteTable_tableWord ht, pteMalformed_tableWord ht,
    ptePa_tableWord ht]

/-- A page entry ends the walk: it is taken where its size is that of its level. -/
theorem walkGo_page {s : State} {p va fuel level pa e : Nat} (hv : pteValid e = true) (ht : pteTable e = false)
    (hm : pteMalformed e = false) (h : FindsWord s p (pa + 8 * levelIndex va level) e) :
    walkGo s p va (fuel + 1) level pa = if levelSz level = some (pteSz e) then some (BitVec.ofNat 64 e) else none := by
  obtain ⟨hown, hbad, hword⟩ := h
  simp [walkGo, hown, hbad, hword, hv, ht, hm]

theorem walkVa_of_root {s : State} {p va r : Nat} (hr : r < 2 ^ 40)
    (h : (s.part p).ptroot = BitVec.ofNat 64 (2 ^ 63 + r * 4096)) : s.walkVa p va = walkGo s p va 4 1 (r * 4096) := by
  have hn : (s.part p).ptroot.toNat = 2 ^ 63 + r * 4096 := by
    rw [h, BitVec.toNat_ofNat]
    omega
  have hbit : bitAt (2 ^ 63 + r * 4096) 63 = true := by
    simp only [bitAt, beq_iff_eq]
    omega
  have hbase : bits (2 ^ 63 + r * 4096) 51 12 * 4096 = r * 4096 := by
    simp only [bits]
    omega
  rw [State.walkVa, hn, if_pos hbit, hbase]

/-! ## The stages of translation (R278 to R280) -/

theorem findTlb_putTlb (l : List TlbEntry) (p va : Nat) (e : W64) : findTlb (putTlb l p va e) p va = some e := by
  simp [findTlb, putTlb, TlbEntry.covers]

theorem tlb_fillTlb (s : State) (who p va : Nat) (e : W64) : (s.fillTlb who p va e).tlb who = putTlb (s.tlb who) p va e := by
  simp [State.tlb, State.fillTlb]

theorem tlb_fillTlb_ne {s : State} {who j : Nat} (p va : Nat) (e : W64) (h : j ≠ who) :
    (s.fillTlb who p va e).tlb j = s.tlb j := by
  simp only [State.tlb, State.fillTlb, find_put_ne _ _ h]

theorem ccache_fillCcache (s : State) (c p va : Nat) (e : W64) :
    (s.fillCcache c p va e).ccache c = putTlb (s.ccache c) p va e := by
  simp [State.ccache, State.fillCcache]

/-- The TLBs of a list of requesters are filled. -/
def fillAll (l : List Nat) (p va : Nat) (e : W64) (s : State) : State :=
  l.foldl (fun s who => s.fillTlb (whoPlace who) p va e) s

/-- Filling TLBs changes nothing else. -/
theorem fillAll_frame (l : List Nat) (p va : Nat) (e : W64) (s : State) :
    ∃ tlbs, fillAll l p va e s = { s with tlbs := tlbs } := by
  induction l generalizing s with
  | nil => exact ⟨s.tlbs, rfl⟩
  | cons who l ih => exact ih (s.fillTlb (whoPlace who) p va e)

theorem tlb_fillAll_other {l : List Nat} {place : Nat} (p va : Nat) (e : W64) (s : State)
    (h : ∀ who ∈ l, whoPlace who ≠ place) : (fillAll l p va e s).tlb place = s.tlb place := by
  induction l generalizing s with
  | nil => rfl
  | cons who l ih =>
    rw [List.forall_mem_cons] at h
    exact (ih _ h.2).trans (tlb_fillTlb_ne p va e (Ne.symm h.1))

theorem findTlb_fillAll_kept {l : List Nat} {place p va : Nat} {e : W64} {s : State} (h : findTlb (s.tlb place) p va = some e) :
    findTlb ((fillAll l p va e s).tlb place) p va = some e := by
  induction l generalizing s with
  | nil => exact h
  | cons who l ih =>
    refine ih (s := s.fillTlb (whoPlace who) p va e) ?_
    by_cases hw : place = whoPlace who
    · rw [hw, tlb_fillTlb, findTlb_putTlb]
    · rwa [tlb_fillTlb_ne p va e hw]

theorem findTlb_fillAll_mem {l : List Nat} {who : Nat} (p va : Nat) (e : W64) (s : State) (h : who ∈ l) :
    findTlb ((fillAll l p va e s).tlb (whoPlace who)) p va = some e := by
  induction l generalizing s with
  | nil => cases h
  | cons x l ih =>
    rcases List.mem_cons.mp h with rfl | h
    · exact findTlb_fillAll_kept (s := s.fillTlb (whoPlace who) p va e) (by rw [tlb_fillTlb, findTlb_putTlb])
    · exact ih _ h

/-- A walk that resolves fills the cluster's cache and the TLBs of those who waited. -/
theorem pageWalkDone_fills {s : State} {w : Walk} {e : W64} (hw : s.walks[s.focus.idx]? = some w)
    (hs : s.walkServed s.focus.idx w = true) (he : s.walkVa w.part (w.page * 2 ^ 16) = some e) :
    exec .pageWalkDone s = .next (fillAll w.who w.part (w.page * 2 ^ 16) e
      (({ s with walks := s.walks.eraseIdx s.focus.idx } : State).fillCcache w.cluster w.part (w.page * 2 ^ 16) e)) := by
  change execPageWalkDone s = _
  simp only [execPageWalkDone, hw, hs, he]
  rfl

theorem pageWalkDone_resolved {s : State} {w : Walk} {e : W64} (hw : s.walks[s.focus.idx]? = some w)
    (hs : s.walkServed s.focus.idx w = true) (he : s.walkVa w.part (w.page * 2 ^ 16) = some e) :
    ∃ t, exec .pageWalkDone s = .next t ∧
      t.walks = s.walks.eraseIdx s.focus.idx ∧ t.tiles = s.tiles ∧ t.failed = s.failed ∧
      findTlb (t.ccache w.cluster) w.part (w.page * 2 ^ 16) = some e ∧
      (∀ who ∈ w.who, findTlb (t.tlb (who % 0x1000)) w.part (w.page * 2 ^ 16) = some e) ∧
      ∀ place, (∀ who ∈ w.who, who % 0x1000 ≠ place) → t.tlb place = s.tlb place := by
  rw [pageWalkDone_fills hw hs he]
  generalize hu : State.fillCcache _ w.cluster w.part (w.page * 2 ^ 16) e = u
  obtain ⟨tlbs, hall⟩ := fillAll_frame w.who w.part (w.page * 2 ^ 16) e u
  refine ⟨_, rfl, ?_, ?_, ?_, ?_, fun who => findTlb_fillAll_mem _ _ e u, fun place hp => ?_⟩
  · rw [hall, ← hu]; rfl
  · rw [hall, ← hu]; rfl
  · rw [hall, ← hu]; rfl
  · rw [hall, ← hu]
    exact (congrArg (findTlb · _ _) (ccache_fillCcache _ _ _ _ e)).trans (findTlb_putTlb _ _ _ e)
  · rw [tlb_fillAll_other _ _ e u hp, ← hu]; rfl

/-- A walk that does not resolve is left for each agent to find. -/
theorem pageWalkDone_failed {s : State} {w : Walk} (hw : s.walks[s.focus.idx]? = some w)
    (hs : s.walkServed s.focus.idx w = true) (he : s.walkVa w.part (w.page * 2 ^ 16) = none) :
    exec .pageWalkDone s =
      let u : State := { s with walks := s.walks.eraseIdx s.focus.idx, failed := s.failed ++ [w] }
      .next (if s.walkBad w.part (w.page * 2 ^ 16) then u.countRecord 6 1 else u) := by
  change execPageWalkDone s = _
  simp only [execPageWalkDone, hw, hs, he, Bool.not_true, Bool.false_eq_true, if_false]
  split <;> rfl

theorem dropped_eq (p : Nat) (v : W64) (x : TlbEntry) :
    x.dropped p v = (x.part == p && (v.toNat.testBit 63 || x.covers p (v.toNat % 2 ^ 48))) := by
  rw [TlbEntry.dropped, bitAt_testBit]

theorem tlb_invalidate (s : State) (p : Nat) (v : W64) (who : Nat) :
    (s.invalidate p v).tlb who = keepTlb p v (s.tlb who) := by
  simp only [State.tlb, State.invalidate, find_map_values]
  cases SMap.find s.tlbs who <;> rfl

theorem ccache_invalidate (s : State) (p : Nat) (v : W64) (c : Nat) :
    (s.invalidate p v).ccache c = keepTlb p v (s.ccache c) := by
  simp only [State.ccache, State.invalidate, find_map_values]
  cases SMap.find s.ccaches c <;> rfl

/-! ## The shadow service (R136 to R139, R345, R346) -/

theorem recordSp_of_res {t : Tile} {r : Residence} (p : W64) (h : t.res = some r) : t.recordSp p =
    BitVec.ofNat 64 ((if p.toNat / 2 ^ 60 = 8 then r.privBase else 0) + p.toNat % 2 ^ 21) := by
  have hp : p.toNat < 2 ^ 64 := p.isLt
  have hspace : bits p.toNat 63 60 = p.toNat / 2 ^ 60 := by
    simp only [bits]
    omega
  simp only [Tile.recordSp, hspace, h]
  simp [bits]

theorem cpXlateMiss_service {s : State} {r : Run} {p : W64} {write : Bool} (hr : s.me.cp.run = some r)
    (hn : s.me.shadow = none) (hp : r.stuck = some (p, write)) (hh : s.me.halted = false) (hl : s.me.live = true)
    (hi : s.me.shadowImage.isSome = true) :
    ∃ h, exec .cpXlateMiss s = .next (s.withMe { s.me with shadow := some h }) ∧
      h.st = { StrandSt.reset with running := true } ∧ h.regs = [] ∧ h.flight = [] ∧
      h.items = [0x605#64, p, if write then 1 else 0, s.me.recordSp r.addr,
        BitVec.ofNat 64 (s.me.taskid.toNat + s.focus.tile % 512 * 2 ^ 32), BitVec.ofNat 64 s.dcc, 0, 0] := by
  refine ⟨⟨{ StrandSt.reset with running := true }, [], [], serviceItems s s.focus.tile r p write, 0, 0, false⟩,
    ?_, rfl, rfl, rfl, ?_⟩
  · have hi' : s.me.shadowImage.isNone = false := by rw [← Option.not_isSome, hi]; rfl
    refine Eq.trans (b := .next (s.onMe fun t => { t with shadow := some _ })) ?_ rfl
    change execCpXlateMiss s = _
    simp only [execCpXlateMiss, hr, hn, hp, hh, hl, hi', Bool.false_eq_true, Bool.not_true, or_self, if_false]
  · cases write <;> rfl

theorem cpXlateMiss_terminal {s : State} {r : Run} {p : W64} {write : Bool} (hr : s.me.cp.run = some r)
    (hn : s.me.shadow = none) (hp : r.stuck = some (p, write)) (hh : s.me.halted = false) (hl : s.me.live = true)
    (hi : s.me.shadowImage = none) : exec .cpXlateMiss s =
      .next ((unitFault s s.focus.tile 6 0x05 0 0 (BitVec.ofNat 320 (p.toNat * 2 ^ 256))).onMe fun t =>
        { t with cp := { t.cp with stopped := true } }) := by
  change execCpXlateMiss s = _
  simp only [execCpXlateMiss, hr, hn, hp, hh, hl, hi, Bool.false_eq_true, Bool.not_true, or_self, if_false]
  rfl

theorem shadowTimeout_of_age {s : State} {h : Shadow} {r : Residence} (hsh : s.me.shadow = some h) (hr : s.me.res = some r)
    (hrun : h.st.running = true) (hage : 2 ^ r.stallN ≤ h.age) :
    exec .shadowTimeout s = .next (shadowFault s s.focus.tile 0x05 0) := by
  have hlimit : s.me.stallLimit ≤ h.age := by simpa [Tile.stallLimit, hr] using hage
  change execShadowTimeout s = _
  simp only [execShadowTimeout, hsh, hrun, hlimit, and_self, if_true]
  rfl

/-- Settles O54: the walk by the word at each level, the walk's end and an invalidation by what the caches hold after
them, and the service by the case of its entry. -/
theorem translationAndItsService : Obligations.TranslationAndItsService := by
  refine ⟨⟨?_, ?_, ?_⟩, ?_, fun t r p => recordSp_of_res p, fun s h r => shadowTimeout_of_age⟩
  · intro s p va r t2 t3 t4 e at' hroot hr ht2 ht3 ht4 _ hv ht hm hat1
    have hwalk1 : s.walkVa p va = walkGo s p va 3 2 (t2 * 4096) :=
      (walkVa_of_root hr hroot).trans (walkGo_table ht2 (by decide) (by rw [levelIndex_one]; exact hat1))
    intro e2 hat2
    refine ⟨fun h2 hsz => ?_, fun h2 hsz => ?_, fun h2 e3 hat3 => ?_⟩
    · rw [hwalk1, walkGo_page hv ht hm (by rw [levelIndex_two, ← h2]; exact hat2), hsz]
      rfl
    · rw [hwalk1, walkGo_page hv ht hm (by rw [levelIndex_two, ← h2]; exact hat2), if_neg]
      exact fun h => hsz (Option.some.inj h).symm
    · have hwalk2 : s.walkVa p va = walkGo s p va 2 3 (t3 * 4096) :=
        hwalk1.trans (walkGo_table ht3 (by decide) (by rw [levelIndex_two, tableWord, ← h2]; exact hat2))
      refine ⟨fun h3 hsz => ?_, fun h3 hat4 => ?_⟩
      · rw [hwalk2, walkGo_page hv ht hm (by rw [levelIndex_three, ← h3]; exact hat3), hsz]
        rfl
      · rw [hwalk2, walkGo_table ht4 (by decide) (by rw [levelIndex_three, tableWord, ← h3]; exact hat3),
          walkGo_page hv ht hm (by rw [levelIndex_four]; exact hat4)]
        simp [levelSz, eq_comm]
  · exact fun s w hw hs => ⟨fun e => pageWalkDone_resolved hw hs, pageWalkDone_failed hw hs⟩
  · intro s part v
    refine ⟨s.invalidate part v, rfl, ?_⟩
    intro kept through
    have hkept : ∀ x, kept x = !x.dropped part v := fun x => by rw [dropped_eq]
    have hthrough : through = s.droppedUnder part v := by
      funext i
      simp only [through, State.droppedUnder, hkept, Bool.not_not]
    have hkeep : ∀ l : List TlbEntry, keepTlb part v l = l.filter kept := fun l => by rw [keepTlb, funext hkept]
    refine ⟨?_, fun who => ?_, fun c => ?_⟩
    · rw [hthrough]
      rfl
    · rw [tlb_invalidate, hkeep]
    · rw [ccache_invalidate, hkeep]
  · exact fun s r p write hr hn hp hh hl => ⟨cpXlateMiss_service hr hn hp hh hl, cpXlateMiss_terminal hr hn hp hh hl⟩

end Sys2Proof.Proofs
end

section
/-! SUPPORT. The log of a fold (R290 to R292, R315, R336): its conflicts, the order of its commit, and O50. -/

namespace Sys2Proof.Proofs

open Sys2Proof.Machine Sys2Proof.Laws

/-! ## The tasks of a log, ascending -/

theorem insertBy_eq_orderedInsert (x : Nat) (l : List Nat) : insertBy (· ≤ ·) x l = l.orderedInsert (· ≤ ·) x := by
  induction l with
  | nil => rfl
  | cons y l ih => simp [insertBy, ih]

/-- The model's sorting of numbers is Mathlib's insertion sort. -/
theorem sortBy_eq_insertionSort (l : List Nat) : sortBy (· ≤ ·) l = l.insertionSort (· ≤ ·) := by
  induction l with
  | nil => rfl
  | cons x l ih =>
    rw [List.insertionSort_cons, ← ih, ← insertBy_eq_orderedInsert]
    rfl

theorem nodup_eraseDups (l : List Nat) : l.eraseDups.Nodup := by
  induction h : l.length using Nat.strong_induction_on generalizing l with
  | _ n ih =>
    cases l with
    | nil => exact List.nodup_nil
    | cons x l =>
      have hlen : (l.filter fun y => !y == x).length < n := h ▸ Nat.lt_succ_of_le (List.length_filter_le _ _)
      rw [List.eraseDups_cons, List.nodup_cons]
      exact ⟨by simp, ih _ hlen _ rfl⟩

theorem mem_tasksOf {l : List LogItem} {k : Nat} : k ∈ tasksOf l ↔ ∃ i ∈ l, i.task.toNat = k := by
  rw [tasksOf, mem_sortBy, List.mem_eraseDups, List.mem_map]

theorem nodup_tasksOf (l : List LogItem) : (tasksOf l).Nodup := by
  rw [tasksOf, sortBy_eq_insertionSort]
  exact (List.perm_insertionSort _ _).nodup_iff.mpr (nodup_eraseDups _)

theorem pairwise_tasksOf (l : List LogItem) : (tasksOf l).Pairwise (· ≤ ·) := by
  rw [tasksOf, sortBy_eq_insertionSort]
  exact List.pairwise_insertionSort _ _

/-! ## Conflicts (R291) -/

theorem two_le_length_iff {l : List Nat} (h : l.Nodup) : 2 ≤ l.length ↔ ∃ a ∈ l, ∃ b ∈ l, a ≠ b := by
  match l, h with
  | [], _ => simp
  | [x], _ => simp
  | x :: y :: l, h =>
    have hxy : x ≠ y := fun e => (List.nodup_cons.mp h).1 (e ▸ List.mem_cons_self)
    exact ⟨fun _ => ⟨x, by simp, y, by simp, hxy⟩, fun _ => by simp⟩

theorem tasksOf_two_le {l : List LogItem} : 2 ≤ (tasksOf l).length ↔ ∃ i ∈ l, ∃ j ∈ l, i.task ≠ j.task := by
  simp only [two_le_length_iff (nodup_tasksOf l), mem_tasksOf]
  constructor
  · rintro ⟨_, ⟨i, hi, rfl⟩, _, ⟨j, hj, rfl⟩, hne⟩
    exact ⟨i, hi, j, hj, fun e => hne (congrArg _ e)⟩
  · rintro ⟨i, hi, j, hj, hne⟩
    exact ⟨_, ⟨i, hi, rfl⟩, _, ⟨j, hj, rfl⟩, fun e => hne (BitVec.eq_of_toNat_eq e)⟩

/-- The items of one word may be committed where a plain write excludes additions and writes of other tasks. -/
theorem wordConflict_eq_none {l : List LogItem} :
    wordConflict l = none ↔ ∀ i ∈ l, ∀ j ∈ l, i.kind = 0 → j.kind = 0 ∧ i.task = j.task := by
  have htasks : 2 ≤ (tasksOf (l.filter (·.kind == 0))).length ↔
      ∃ i ∈ l, i.kind = 0 ∧ ∃ j ∈ l, j.kind = 0 ∧ i.task ≠ j.task := by
    simp [tasksOf_two_le, and_assoc]
  have hboth : (!(l.filter (·.kind == 0)).isEmpty && !(l.filter (·.kind != 0)).isEmpty) = true ↔
      (∃ i ∈ l, i.kind = 0) ∧ ∃ j ∈ l, j.kind ≠ 0 := by
    simp
  have hnone : wordConflict l = none ↔ ¬ (∃ i ∈ l, i.kind = 0 ∧ ∃ j ∈ l, j.kind = 0 ∧ i.task ≠ j.task) ∧
      ¬ ((∃ i ∈ l, i.kind = 0) ∧ ∃ j ∈ l, j.kind ≠ 0) := by
    rw [← htasks, ← hboth, wordConflict]
    dsimp only
    split
    next h1 => exact ⟨nofun, fun h => absurd h1 h.1⟩
    next h1 =>
      split
      next h2 => exact ⟨nofun, fun h => absurd h2 h.2⟩
      next h2 => exact ⟨fun _ => ⟨h1, h2⟩, fun _ => rfl⟩
  rw [hnone]
  constructor
  · rintro ⟨h1, h2⟩ i hi j hj h0
    have hj0 : j.kind = 0 := by_contra fun hne => h2 ⟨⟨i, hi, h0⟩, j, hj, hne⟩
    exact ⟨hj0, by_contra fun hne => h1 ⟨i, hi, h0, j, hj, hj0, hne⟩⟩
  · intro h
    refine ⟨?_, ?_⟩
    · rintro ⟨i, hi, h0, j, hj, _, hne⟩
      exact hne (h i hi j hj h0).2
    · rintro ⟨⟨i, hi, h0⟩, j, hj, hne⟩
      exact hne (h i hi j hj h0).1

theorem logConflict_eq_none {l : List LogItem} :
    logConflict l = none ↔ ∀ i ∈ l, ∀ j ∈ l, i.va = j.va → i.kind = 0 → j.kind = 0 ∧ i.task = j.task := by
  have hwords : logConflict l = none ↔ ∀ k ∈ l, wordConflict (l.filter (·.va == k.va)) = none := by
    simp [logConflict, List.findSome?_eq_none_iff, mem_sortBy, List.mem_eraseDups]
  rw [hwords]
  simp only [wordConflict_eq_none, List.mem_filter, beq_iff_eq]
  constructor
  · exact fun h i hi j hj hva => h i hi i ⟨hi, rfl⟩ j ⟨hj, hva.symm⟩
  · exact fun h k _ i hi j hj => h i hi.1 j hj.1 (hi.2.trans hj.2.symm)

/-! ## The order of the commit (R291) -/

/-- The atomics of a log by task, and of one task in log order. -/
def byTask (l : List LogItem) : List LogItem := (tasksOf l).flatMap fun t => l.filter fun i => i.task.toNat == t

theorem mem_byTask {l : List LogItem} {i : LogItem} : i ∈ byTask l ↔ i ∈ l := by
  simp only [byTask, List.mem_flatMap, List.mem_filter, beq_iff_eq, mem_tasksOf]
  exact ⟨fun ⟨_, _, hi, _⟩ => hi, fun hi => ⟨_, ⟨i, hi, rfl⟩, hi, rfl⟩⟩

theorem pairwise_byTask (l : List LogItem) : (byTask l).Pairwise fun i j => i.task.toNat ≤ j.task.toNat := by
  rw [byTask, List.pairwise_flatMap]
  refine ⟨fun t _ => ?_, (pairwise_tasksOf l).imp fun {a b} hab i hi j hj => ?_⟩
  · refine List.pairwise_of_forall_mem_list fun i hi j hj => ?_
    simp only [List.mem_filter, beq_iff_eq] at hi hj
    omega
  · simp only [List.mem_filter, beq_iff_eq] at hi hj
    omega

/-- A list without repetitions meets a value once or not at all. -/
theorem flatMap_single {α : Type} {l : List Nat} (h : l.Nodup) (k : Nat) (x : List α) :
    (l.flatMap fun t => if t = k then x else []) = if k ∈ l then x else [] := by
  induction l with
  | nil => rfl
  | cons t l ih =>
    obtain ⟨ht, hl⟩ := List.nodup_cons.mp h
    rw [List.flatMap_cons, ih hl]
    by_cases htk : t = k
    · subst htk
      simp [ht]
    · simp [htk, Ne.symm htk]

theorem filter_byTask (l : List LogItem) (k : W32) : (byTask l).filter (·.task == k) = l.filter (·.task == k) := by
  have hpart : ∀ t, (l.filter fun i => i.task.toNat == t).filter (·.task == k) =
      if t = k.toNat then l.filter (·.task == k) else [] := by
    intro t
    rw [List.filter_filter]
    split
    next h =>
      subst h
      refine List.filter_congr fun i _ => ?_
      by_cases hi : i.task = k <;> simp [hi]
    next h =>
      refine List.filter_eq_nil_iff.mpr fun i _ hi => h ?_
      simp only [Bool.and_eq_true, beq_iff_eq] at hi
      rw [← hi.2, ← hi.1]
  rw [byTask, List.filter_flatMap]
  simp only [hpart]
  rw [flatMap_single (nodup_tasksOf l)]
  split
  · rfl
  next h =>
    refine (List.filter_eq_nil_iff.mpr fun i hi hk => h ?_).symm
    exact mem_tasksOf.mpr ⟨i, hi, by rw [beq_iff_eq.mp hk]⟩

/-! ## The commit (R291, R292, R315) -/

/-- Something still keeps a fold from its commit. -/
def foldHeld (s : State) (f : WorkUnit) : Bool :=
  f.members < f.nl || (s.units.any fun u => u.part == s.focus.part && u.level == 0 && u.fold == f.id && u.jid == f.jid &&
    !u.ended) || f.logFull || f.state = 4 || (s.part s.focus.part).halt.isSome

theorem foldHeld_eq_false {s : State} {f : WorkUnit} (hn : f.nl ≤ f.members)
    (hend : ∀ u ∈ s.units, u.part = s.focus.part → u.level = 0 → u.fold = f.id → u.jid = f.jid → u.ended = true)
    (hfull : f.logFull = false) (hst : f.state ≠ 4) (hhalt : (s.part s.focus.part).halt = none) : foldHeld s f = false := by
  have hopen : (s.units.any fun u => u.part == s.focus.part && u.level == 0 && u.fold == f.id && u.jid == f.jid &&
      !u.ended) = false := by
    rw [List.any_eq_false]
    intro u hu hall
    simp only [Bool.and_eq_true, beq_iff_eq, Bool.not_eq_true'] at hall
    obtain ⟨⟨⟨⟨hp, hl⟩, hf⟩, hj⟩, he⟩ := hall
    exact Bool.false_ne_true (he.symm.trans (hend u hu hp hl hf hj))
  simp [foldHeld, hopen, hfull, hst, hhalt, hn]

theorem foldCommit_conflict {s : State} {f : WorkUnit} (hf : s.unit s.focus.part 2 s.focus.idx = some f)
    (hd : foldHeld s f = false) {va why a b : Nat} (hc : logConflict f.log = some (va, why, a, b)) :
    exec .foldCommit s = .next (raiseHalt (s.changeUnit s.focus.part 2 f.id fun f => { f with
        state := 4, cause := 0x0B, reason := why, deta := BitVec.ofNat 64 va
        detb := BitVec.ofNat 64 (a % 2 ^ 32 + b % 2 ^ 32 * 2 ^ 32) }) s.focus.part 0x0B 10 0) := by
  change execFoldCommit s = _
  rw [foldHeld] at hd
  simp only [execFoldCommit, hf, hd, hc]
  rfl

theorem foldCommit_bad {s : State} {f : WorkUnit} (hf : s.unit s.focus.part 2 s.focus.idx = some f)
    (hd : foldHeld s f = false) (hc : logConflict f.log = none) (hb : f.log.any s.itemBad = true) :
    exec .foldCommit s = .next (raiseHalt (s.changeUnit s.focus.part 2 f.id fun f => { f with
      state := 4, cause := 0x0F, deta := 0xFFFFFFFF }) s.focus.part 0x0F 10 0) := by
  change execFoldCommit s = _
  rw [foldHeld] at hd
  simp only [execFoldCommit, hf, hd, hc, hb]
  rfl

theorem foldCommit_applies {s : State} {f : WorkUnit} (hf : s.unit s.focus.part 2 s.focus.idx = some f)
    (hd : foldHeld s f = false) (hc : logConflict f.log = none) (hb : f.log.any s.itemBad = false) :
    let p := s.focus.part
    let a := ((commitOrder f.log).foldl applyItem s).countFold p f
    exec .foldCommit s = .next (((((a.onUnit p 2 f.id fun f => { f with committed := true, log := [] }).endUnit p 2 f.id
      2).settleGraphs p).settleJob p f.jid).refresh p) := by
  intro p a
  change execFoldCommit s = _
  rw [foldHeld] at hd
  simp only [execFoldCommit, hf, hd, hc, hb, Bool.false_eq_true, if_false, a, p]

theorem pread_applyItem {s : State} (i : LogItem) (h0 : s.mem0.wf = true) (h1 : s.mem1.wf = true) (h2 : s.mem2.wf = true) :
    (applyItem s i).pread i.loc.1 i.loc.2 4 =
      (deliverWord i.kind (BitVec.ofNat 32 (s.pread i.loc.1 i.loc.2 4)) i.val).toNat := by
  have hok : tiersOk s
    | 0 => h0
    | 1 => h1
    | _ + 2 => h2
  exact pread_pwrite_tier hok _ _ (BitVec.isLt _)

/-- Settles O50: the outcomes of a fold that is due, each by its case, what a conflict is by the tasks of a word, and the
order of the commit by the atomics of each task. -/
theorem foldsCommitOrHalt : Obligations.FoldsCommitOrHalt := by
  refine ⟨?_, fun l => logConflict_eq_none, fun s i => pread_applyItem i, ?_⟩
  · intro s f p hf hn hend hfull hst hhalt
    have hd : foldHeld s f = false := foldHeld_eq_false hn hend hfull hst hhalt
    refine ⟨fun hc hbad => ?_, fun hc hgood => ?_, fun va why a b hc => foldCommit_conflict hf hd hc⟩
    · exact foldCommit_bad hf hd hc (List.any_eq_true.mpr hbad)
    · exact foldCommit_applies hf hd hc (List.any_eq_false.mpr fun i hi => by simp [hgood i hi])
  · intro l
    refine ⟨byTask (l.filter (·.kind != 0)), rfl, fun i => ?_, pairwise_byTask _, fun k => ?_⟩
    · simp [mem_byTask]
    · rw [filter_byTask, List.filter_filter]
      exact List.filter_congr fun i _ => Bool.and_comm _ _

end Sys2Proof.Proofs
end
